-- ==== Sys2Proof/Word.lean ====
section
/-! DEFINITION. Word types and the plainest bit-field arithmetic: 32-bit registers (R9), bit 0 least significant (R5). -/

namespace Sys2Proof

/-- One byte. -/
abbrev Byte := BitVec 8

/-- A control-space register (R9). -/
abbrev Word := BitVec 32

/-- A scalar register (R183), a package time (R107), an address field (R49). -/
abbrev DWord := BitVec 64

/-- One syllable (R165). -/
abbrev Syllable := BitVec 256

/-- The field `[lo + len - 1 : lo]` of a bit vector, as a number. -/
def fld {n : Nat} (w : BitVec n) (lo len : Nat) : Nat := (w.toNat >>> lo) % 2 ^ len

/-- `w` with the field `[lo + len - 1 : lo]` replaced by `v` (taken modulo `2 ^ len`). -/
def setFld {n : Nat} (w : BitVec n) (lo len v : Nat) : BitVec n :=
  let mask : Nat := (2 ^ len - 1) <<< lo
  (w &&& ~~~ (BitVec.ofNat n mask)) ||| BitVec.ofNat n ((v % 2 ^ len) <<< lo)

/-- Bit `i` of a bit vector. -/
def bit {n : Nat} (w : BitVec n) (i : Nat) : Bool := w.getLsbD i

/-- `w` with bit `i` set to `b`. -/
def setBit {n : Nat} (w : BitVec n) (i : Nat) (b : Bool) : BitVec n :=
  if b then w ||| BitVec.ofNat n (2 ^ i) else w &&& ~~~ (BitVec.ofNat n (2 ^ i))

/-- A 32-bit count that stops at its largest value (the manual's "saturating"). -/
def satAdd (w : Word) (k : Nat) : Word := BitVec.ofNat 32 (min (w.toNat + k) 0xFFFFFFFF)

/-- `n` modulo a power of two as a signed number. -/
def signedOf (len n : Nat) : Int :=
  let m := n % 2 ^ len
  if m < 2 ^ (len - 1) then (m : Int) else (m : Int) - (2 ^ len : Nat)

/-- A truth value as a bit. -/
def b2n (b : Bool) : Nat := if b then 1 else 0

end Sys2Proof
end

