-- ==== Sys2Proof/Syntax.lean ====
section
/-! DEFINITION. The commands of the block: ONE constructor of `Instr` for each of the 311 rows of
spec/opcode_table.json, with the row's operands. Page, site, port, slice, partition, ring and barrier numbers are
natural numbers (WellFormed says which exist); register contents and instruction fields are bit vectors. -/

namespace Sys2Proof

/-- The two scalar pipelines of R183 and R210. -/
inductive Pipe where
  | p0 | p1
deriving DecidableEq, Repr

/-- Fields of the VR format of a V slot (R327). -/
structure VR where
  d : BitVec 5
  a : BitVec 5
  b : BitVec 5
  c : BitVec 5
  m : BitVec 3
  mz : Bool
  t : BitVec 3
  md : BitVec 5
deriving DecidableEq, Repr

/-- Fields of the VM format of a V slot (R327). -/
structure VM where
  r : BitVec 5
  ar : BitVec 3
  mode : BitVec 2
  b : BitVec 5
  m : BitVec 3
  mz : Bool
  t : BitVec 3
  post : Bool
deriving DecidableEq, Repr

/-- A bulk-network flit as it reaches its destination: the header fields of R427 that the destination reads, the
check word of R537 and the data and byte enables of R427, R428. -/
structure Flit where
  typ : BitVec 4
  status : BitVec 2
  src : BitVec 9
  dst : BitVec 9
  txn : BitVec 14
  ptn : BitVec 4
  die : BitVec 12
  addr : BitVec 48
  rtag : BitVec 16
  rtype : Bool
  last : Bool
  tile : Bool
  glaze : Word
  data : BitVec 1024
  ben : BitVec 128
  /-- the header's check bits met an error: 0 none, 1 corrected single bit, 2 uncorrectable (R429) -/
  ecc : BitVec 2
  /-- the die whose link message carried the flit (SDIE of R648); this die's own number for local traffic -/
  sdie : BitVec 12
deriving DecidableEq, Repr

/-- A link frame as it is received: its 80 bytes, byte 0 the low one (R634), and on an off-package port the data positions of
the symbols that the FEC corrected (R645). -/
structure Frame where
  bits : BitVec 640
  corr : List Nat
deriving DecidableEq, Repr

/-- What a SYLLABLE_ISSUE names: the partition whose cycle it is, and the sites whose arrival of this cycle meets a parity error (R459). -/
structure IssueCycle where
  ptn : Nat
  parityBad : List Nat
deriving DecidableEq, Repr

/-- What a MOVE_COMPLETE names: the engine, and whether the arrival that its descriptor makes meets a parity error (R459). -/
structure MoveEnd where
  engine : Bool
  parityBad : Bool
deriving DecidableEq, Repr

/-- An arrival at a barrier, and whether its message meets a parity error (R459). -/
structure BarArrival where
  bar : BitVec 8
  parityBad : Bool
deriving DecidableEq, Repr

/-- What a span message holds beside the fields that its row names (R479): its TYPE code and its reserved bits, and whether it meets a
parity error (R459). -/
structure SpanRest where
  typ : BitVec 4
  rsvd : BitVec 16
  parityBad : Bool
deriving DecidableEq, Repr

/-- A frame with the receiver's own count at its first byte (R676). -/
structure TimedFrame where
  frame : Frame
  rxTime : DWord
deriving DecidableEq, Repr

/-- The common 48-bit body of a slice peer message (R546): channel and bank, row, spare row. -/
structure PeerRow where
  slice : Nat
  bank : Nat
  row : Nat
  spare : Nat
deriving DecidableEq, Repr

/-- A keep block record (R560): 4,096 data bytes, the Glaze of each tile as read, the local address of the page at save,
and whether it has 2 KiB tiles. -/
structure KeepRec where
  data : List Byte
  glz : List Word
  addr : Nat
  big : Bool
deriving DecidableEq, Repr

/-- An ID record (R675) as a port receives it. -/
structure IdRec where
  kind : BitVec 8
  versions : BitVec 8
  valid : Bool
  die : BitVec 12
  portByte : BitVec 8
  group : BitVec 8
  base : BitVec 12
  count : BitVec 4
  pos : BitVec 4
  txTime : DWord
  echo : DWord
  echoHold : DWord
  /-- the receiver's own count at the frame's first byte (R676) -/
  rxTime : DWord
  uid : BitVec 128
deriving DecidableEq, Repr

/-- The commands. -/
inductive Instr where
  -- control space, blocks, reset
  | resetRelease (testEn railsOk : Bool)
  | resetAssert (pulseNs : Nat) (railsKept : Bool)
  | start (pg : Nat)
  | stop (pg : Nat)
  | abort (pg : Nat)
  | clear (pg : Nat)
  | retire (pg : Nat)
  | startingDone (pg : Nat)
  | stoppingDone (pg : Nat)
  | cmdTimeout (pg : Nat)
  | selftestDone (pg : Nat) (pass : Bool) (rows : Word) (cols : BitVec 36)
  | registerWrite (addr : DWord) (v : Word)
  | rcRead (addr : DWord)
  | wideReadCapture (addr : DWord)
  | wideWriteCommit (addr : DWord) (v : Word)
  | reg (compl write err : Bool) (sdie : BitVec 12) (tag : BitVec 12) (addr : BitVec 48) (v : Word)
  -- Sol frame
  | time (v : DWord)
  | holdover
  | timeLost
  | packageTick (k : Nat)
  | partitionTick (p : Nat) (j : Nat)
  | solEndPoint (p : Nat) (now : DWord)
  | solCommit (p : Nat) (parityBad : Bool)
  | solOverrun (p : Nat)
  | partitionFaulted (p : Nat)
  | replay (p : Nat)
  | replayRestoreDone (p : Nat)
  | dump (p : Nat)
  | load (p : Nat)
  -- chip stream
  | scriptLoadDone (c : Nat)
  | syllableIssue (cycle : IssueCycle)
  | freezeLower (p : Nat)
  | sNop (c : Nat) (q : Pipe)
  | solEnd (c : Nat)
  | solEndComplete (c : Nat)
  | br (c : Nat) (p : BitVec 4) (neg : Bool) (target : BitVec 12)
  | loopi (c : Nat) (stop count : BitVec 12)
  | loopr (c : Nat) (stop : BitVec 12) (a : BitVec 8)
  | guard (c : Nat) (p : BitVec 4) (neg : Bool) (slots : BitVec 7)
  | wait (c : Nat) (sig : BitVec 5) (count : BitVec 16)
  | waitr (c : Nat) (sig : BitVec 5) (a : BitVec 8)
  | waitl (c : Nat) (pd : BitVec 4) (sig : BitVec 5) (count : BitVec 7) (a : BitVec 8)
  | waitlTimeout (c : Nat)
  | tests (c : Nat) (pd : BitVec 4) (sig : BitVec 5) (count : BitVec 7)
  | add (c : Nat) (q : Pipe) (d a b : BitVec 8)
  | sub (c : Nat) (q : Pipe) (d a b : BitVec 8)
  | and (c : Nat) (q : Pipe) (d a b : BitVec 8)
  | or (c : Nat) (q : Pipe) (d a b : BitVec 8)
  | xor (c : Nat) (q : Pipe) (d a b : BitVec 8)
  | shl (c : Nat) (q : Pipe) (d a b : BitVec 8)
  | shr (c : Nat) (q : Pipe) (d a b : BitVec 8)
  | sra (c : Nat) (q : Pipe) (d a b : BitVec 8)
  | mul (c : Nat) (q : Pipe) (d a b : BitVec 8)
  | min (c : Nat) (q : Pipe) (d a b : BitVec 8)
  | max (c : Nat) (q : Pipe) (d a b : BitVec 8)
  | minu (c : Nat) (q : Pipe) (d a b : BitVec 8)
  | maxu (c : Nat) (q : Pipe) (d a b : BitVec 8)
  | addi (c : Nat) (q : Pipe) (d a : BitVec 8) (imm : BitVec 8)
  | lis (c : Nat) (q : Pipe) (d : BitVec 8) (imm : BitVec 16)
  | lih (c : Nat) (q : Pipe) (d : BitVec 8) (imm : BitVec 16)
  | shli (c : Nat) (q : Pipe) (d a : BitVec 8) (imm : BitVec 6)
  | shri (c : Nat) (q : Pipe) (d a : BitVec 8) (imm : BitVec 6)
  | cmpeq (c : Nat) (q : Pipe) (pd : BitVec 4) (a b : BitVec 8)
  | cmplt (c : Nat) (q : Pipe) (pd : BitVec 4) (a b : BitVec 8)
  | cmpltu (c : Nat) (q : Pipe) (pd : BitVec 4) (a b : BitVec 8)
  | pand (c : Nat) (q : Pipe) (pd pa pb : BitVec 4)
  | por (c : Nat) (q : Pipe) (pd pa pb : BitVec 4)
  | pxor (c : Nat) (q : Pipe) (pd pa pb : BitVec 4)
  | ld (c : Nat) (q : Pipe) (d a imm : BitVec 8)
  | st (c : Nat) (q : Pipe) (d a imm : BitVec 8)
  | mfs (c : Nat) (q : Pipe) (d : BitVec 8) (index : BitVec 8)
  | movx (c : Nat) (q : Pipe) (d a : BitVec 8)
  -- matrix arrays: site and array 0 or 1
  | mNop (c : Nat) (m : Bool)
  | mode (c : Nat) (m : Bool) (ifmt wfmt : BitVec 4) (ofmt : BitVec 3) (rnd split drain : Bool) (mfsh : BitVec 5) (mfop : BitVec 2)
  | seta (c : Nat) (m : Bool) (ar : BitVec 3) (sreg : BitVec 8)
  | setai (c : Nat) (m : Bool) (ar : BitVec 3) (offset : BitVec 22)
  | setcnt (c : Nat) (m : Bool) (sreg : BitVec 8)
  | mLd (c : Nat) (m : Bool) (wgt : BitVec 3)
  | stream (c : Nat) (m : Bool) (sw ld acc ckr : Bool) (src dst wgt : BitVec 3) (count : BitVec 12)
  | bist (pg : Nat)
  | bistDone (pg : Nat) (rows : Word) (cols : BitVec 36)
  -- vector engines: site
  | vNop (c : Nat) (v1 : Bool)
  | vadd (c : Nat) (f : VR)
  | vsub (c : Nat) (f : VR)
  | vmul (c : Nat) (f : VR)
  | vfma (c : Nat) (f : VR)
  | vfms (c : Nat) (f : VR)
  | vfnma (c : Nat) (f : VR)
  | vmin (c : Nat) (f : VR)
  | vmax (c : Nat) (f : VR)
  | vabs (c : Nat) (f : VR)
  | vneg (c : Nat) (f : VR)
  | vrint (c : Nat) (f : VR)
  | vcmp (c : Nat) (f : VR)
  | vsel (c : Nat) (f : VR)
  | vmov (c : Nat) (f : VR)
  | vand (c : Nat) (f : VR)
  | vor (c : Nat) (f : VR)
  | vxor (c : Nat) (f : VR)
  | vshl (c : Nat) (f : VR)
  | vshr (c : Nat) (f : VR)
  | vsra (c : Nat) (f : VR)
  | vcvt (c : Nat) (f : VR)
  | vunpk (c : Nat) (f : VR)
  | mand (c : Nat) (f : VR)
  | mor (c : Nat) (f : VR)
  | mxor (c : Nat) (f : VR)
  | mandn (c : Nat) (f : VR)
  | vlis (c : Nat) (d : BitVec 5) (imm : BitVec 16) (t : BitVec 3)
  | vld (c : Nat) (f : VM)
  | vst (c : Nat) (f : VM)
  | vseta (c : Nat) (ar : BitVec 3) (sreg : BitVec 8)
  | vsetai (c : Nat) (ar : BitVec 3) (offset : BitVec 22)
  | vbcs (c : Nat) (d : BitVec 5) (sreg : BitVec 8) (t : BitVec 3)
  | vred (c : Nat) (f : VR)
  | vcmpr (c : Nat) (f : VR)
  | vexpd (c : Nat) (f : VR)
  | mcnt (c : Nat) (f : VR)
  | vflags (c : Nat) (f : VR)
  | exp2 (c : Nat) (f : VR)
  | log2 (c : Nat) (f : VR)
  | rcp (c : Nat) (f : VR)
  | rsqrt (c : Nat) (f : VR)
  | tanh (c : Nat) (f : VR)
  | smxa (c : Nat) (f : VR)
  | smxn (c : Nat) (f : VR)
  -- X slots: site and slot (false X0, true X1)
  | xNop (c : Nat) (x : Bool)
  | xseta (c : Nat) (x : Bool) (ar : BitVec 2) (sreg : BitVec 8)
  | xsetai (c : Nat) (x : Bool) (ar : BitVec 2) (offset : BitVec 17)
  | xq (c : Nat) (x : Bool) (ar : BitVec 2) (post : Bool)
  | xqn (c : Nat) (x : Bool) (ar : BitVec 2) (post : Bool) (nMinus1 : BitVec 4)
  | gq (c : Nat) (x : Bool) (ar : BitVec 2) (post : Bool)
  -- move engines: site and engine
  | copy (c : Nat) (e : Bool)
  | fill (c : Nat) (e : Bool)
  | script (c : Nat) (e : Bool)
  | mcast (c : Nat) (e : Bool)
  | reduce (c : Nat) (e : Bool)
  | leaven (c : Nat) (e : Bool)
  | moveComplete (c : Nat) (m : MoveEnd)
  -- gather engine: site, thread
  | gatherDescriptor (c : Nat)
  | gatherRow (c : Nat) (thread : Nat)
  | bagComplete (c : Nat) (thread : Nat)
  | corMigrate (c : Nat) (v : Word)
  | migrateDone (c : Nat) (unreadable : Nat)
  -- C slot
  | cNop (c : Nat)
  | arr (c : Nat) (a : BarArrival)
  | waitb (c : Nat) (bar : BitVec 8)
  | arwt (c : Nat) (a : BarArrival)
  | testb (c : Nat) (pd : BitVec 4) (bar : BitVec 8)
  | raise (c : Nat) (sig : BitVec 5)
  -- Calends
  | spanArrive (gen dbar sbar : BitVec 8) (sdie : BitVec 12) (rest : SpanRest)
  | spanRelease (gen dbar sbar : BitVec 8) (sdie : BitVec 12) (rest : SpanRest)
  | spanFault (gen dbar sbar : BitVec 8) (sdie : BitVec 12) (cause : BitVec 8) (rest : SpanRest)
  | calForce (k : Nat) (v : Word)
  | calXarrive (k : Nat) (v : Word)
  | calClear (k : Nat) (v : Word)
  | quietExpire (b : Nat)
  | vigilDetect (p : Nat)
  -- bulk network and slices
  | rd (f : Flit)
  | wr (f : Flit)
  | rdata (f : Flit)
  | wack (f : Flit)
  | mc (f : Flit) (blocked : BitVec 120)
  | mcrep (f : Flit)
  | mcHoldExpire (txn : BitVec 14) (target : Nat)
  | red (f : Flit)
  | rack (f : Flit)
  | netbTxnTimeout (txn : BitVec 14)
  | netmMaskCommit (v : Word)
  | inv (f : Flit)
  | iack (f : Flit)
  | cohn (sdie : BitVec 12)
  | stackTimeout (slice : Nat)
  | tileStageTimeout (slice : Nat) (tileAddr : BitVec 48)
  | stackRdResponse (slice : Nat) (badBytes : Nat)
  | keepRecord (slice : Nat) (bitErrors : Nat) (failMask : Word)
  | verifyStatus (slice : Nat) (ok : Bool)
  | statStatus (slice : Nat) (v : DWord)
  | refNotice (slice : Nat)
  | portDown (slice : Nat)
  | portUp (slice : Nat)
  | temp (slice : Nat) (t : BitVec 16)
  | refresh (slice : Nat)
  | refWatch (slice : Nat)
  | peerArm (slice : Nat)
  | managerWait (slice : Nat) (notices : Bool)
  | claim (slice : Nat) (pos : Nat)
  | release (slice : Nat) (pos : Nat)
  | remapBegin (r : PeerRow)
  | remapAck (r : PeerRow) (bad : BitVec 16)
  | remapDone (r : PeerRow)
  | scrubFix (slice : Nat) (chanAddr : BitVec 34)
  | rowReport (slice : Nat) (chanAddr : BitVec 34) (uncorr : Bool)
  | trrReq (r : PeerRow)
  | keepReq (slice : Nat) (write : Bool) (blk : Nat) (rec : KeepRec)
  | keepData (slice : Nat) (blk : Nat) (rec : KeepRec)
  | patrolScrub (slice : Nat) (badBytes : Nat)
  | keepSave (slice : Nat)
  | keepLoad (slice : Nat)
  | keepTransferDone (slice : Nat)
  | ageUpdate (slice : Nat) (meanTemp : Int)
  -- Leaven
  | lvn (f : Flit) (origins : List (BitVec 12 × BitVec 4))
  | lvnQueueStage (slice : Nat)
  | lvnCommit (sdie : BitVec 12) (ptn : BitVec 4) (seq : DWord)
  | lvnDiscard (sdie : BitVec 12) (ptn : BitVec 4) (seq : DWord)
  | batchApply (slice : Nat)
  -- rings
  | ringEnable (ring : Nat)
  | ringDisable (ring : Nat)
  | dblProd (ring : Nat) (v : Word)
  | dblCons (ring : Nat) (v : Word)
  | msgSend (ring : Nat)
  | ring (ring : BitVec 16) (sdie : BitVec 12) (index : Word) (entry : BitVec 512)
  | msgAck (ring : BitVec 16) (index : Word)
  | msgCredit (ring : BitVec 16) (n : Word) (reenable : Bool)
  -- links: port number
  | idle (port : Nat) (f : Frame)
  | data (port : Nat) (f : Frame)
  | ctrl (port : Nat) (head : BitVec 64) (payload : BitVec 512) (tail : BitVec 64) (corr : List Nat)
  | id (port : Nat) (f : TimedFrame)
  | hovr (port : Nat) (f : Frame)
  | ackTimeout (port : Nat)
  | swapreq (port : Nat) (position : BitVec 8)
  | swap (port : Nat) (arg1 : BitVec 8) (seq : BitVec 12)
  | halfreq (port : Nat) (half : BitVec 8)
  | half (port : Nat) (half : BitVec 8) (seq : BitVec 12)
  | ctrlRetire (port : Nat) (index : BitVec 8) (expected : BitVec 12)
  | offline (port : Nat) (index : BitVec 8)
  | online (port : Nat) (index : BitVec 8)
  | remapResume (group : Nat)
  | laneWindow (port : Nat)
  | laneLockLoss (port : Nat) (lane : Nat)
  | trainDone (port : Nat) (rxFailed : BitVec 18) (reversed wired : Bool) (farVersions : BitVec 8)
  | trainRetry (port : Nat)
  | trainLimit (port : Nat)
  | idSend (port : Nat) (txTime : DWord)
  | retrain (port : Nat) (v : Word)
  | linkDown (port : Nat)
  | drainTimeout (group : Nat)
  | txnTimeout (txn : BitVec 14)
  | messageForward (group : Nat) (mtype : BitVec 4) (ddie sdie : BitVec 12) (hops : BitVec 4) (cls : BitVec 2) (body : List Byte)
  | flit (group : Nat) (f : Flit)
  | cflit (group : Nat) (f : Flit)
  | assign (die base : BitVec 12) (count pos : BitVec 4)
  | dieDown (die : BitVec 12)
  | dieUp (die : BitVec 12)
  | boot (timeoutMs : BitVec 10)
  -- Almanac, firmware
  | repairRecordRead (copyB : Bool) (readable : Bool) (bytes : List Byte)
  | recordTimeout
  | almSubst (v : Word)
  | substDone (logical : Nat) (pass : Bool)
  | recClear
  | almFwCmd (v : Word)
  | manifestCheck
  | pushDone (entry : BitVec 9)
  | pushWaitTimeout
  | hash (row : Nat)
  -- power
  | plan (body : DWord)
  | powerSample (rails : List (BitVec 16 × BitVec 16)) (powerW16 : Nat)
  | governorInterval (meanW16 : Nat)
  | thermalSample (temps : List (BitVec 16))
  | droop (south : Bool)
  | droopEnd (south : Bool)
  | slewDone (south : Bool)
  | heldChangeApply
  | refclkLoss
  | telemPeriod (queueRoom : Bool)
  -- Annals
  | alarmSlotFree
  | incidentClose
  | traceTailWrite (v : Word)
  | annRelease
  | annDump
  | annClear
  | traceRestart
  -- security
  | attest
  | attestDone
  -- test access
  | testReset (nbits : Nat)
  | testIr (nbits : Nat) (tdi : List Bool)
  | testDr (nbits : Nat) (tdi : List Bool)
  | testIdle (nbits : Nat)
  | extest
  | samplePreload
  | idcode
  | ijtag
  | bypass
  | instrumentAbort (k : Nat)
  -- twins
  | take
  | silver
  | silverDone
  | foster
  | fosterDone
  | hello (epoch : Word) (ptns : BitVec 16) (role : Bool) (mode : BitVec 2)
  | helloTimer
  | beat (t : DWord)
  | beatTimer
  | peerLost
  | snap (p : BitVec 4) (q whr : DWord) (bytes : List Byte)
  | plane (p : BitVec 4) (q whr : DWord) (bytes : List Byte)
  | carry (p : BitVec 4) (q whr : DWord) (bytes : List Byte)
  | block (p : BitVec 4) (q whr : DWord) (bytes : List Byte) (tile : Bool) (glaze : Word)
  | twinRing (p : BitVec 4) (q whr : DWord) (prod cons : Word)
  | done (p : BitVec 4) (q : DWord) (count : Word)
  | shipmentDone (p : Nat)
  | ack (p : BitVec 4) (q : DWord) (code : DWord)
  | digest (p : BitVec 4) (q n d : DWord)
  | digestTimeout (p : Nat)
  | silverMessage (sdie : BitVec 12) (whr : DWord) (bytes : List Byte) (glazes : List Word)
  | silvered (bytesCopied : DWord)
  -- pins and the rest
  | tck (tms tdi : Bool)
  | trstN
  | failedCrcFrame (port : Nat) (first : BitVec 640) (rest : List (BitVec 640))
  | alarm (sdie : BitVec 12) (record : BitVec 512)
  | instrumentDone (k : Nat) (result : DWord)
deriving DecidableEq, Repr

end Sys2Proof
end

