-- ==== Sys2Proof/Config.lean ====
section
/-! DEFINITION. What the manual leaves to the part or leaves open: constants with no body, so that nothing can be
proved about their values. Each is named in a row of notes/assumptions. -/

namespace Sys2Proof

/-- The choice among the results that the error bounds of R358 and R364 allow, for function code, element type and
operand. UNVERIFIED: the manual gives the bound, not the value. -/
opaque Config.sfuPick : Nat → Nat → Nat → Nat → Nat

/-- Whether a CHIP_RESET_N pulse of the given length in ns, between 100 ns and 10 µs, resets the chiplet (R845). -/
opaque Config.pulseResets : Nat → Bool

/-- SHA-384 (R803), the function of FIPS 180-4 which the manual names and does not define. -/
opaque Config.sha384 : List Byte → BitVec 384

/-- Outcome of step 5 of R810: ECDSA P-384 verification of (r, s) by a key over a digest. -/
opaque Config.ecdsaVerify : BitVec 768 → BitVec 384 → BitVec 384 → BitVec 384 → Bool

/-- Step 3 of R810: the key is a point of P-384 other than the point at infinity. -/
opaque Config.onCurve : BitVec 768 → Bool

/-- The order n of the P-384 group (R805, R810). -/
opaque Config.p384Order : Nat

/-- The signature (r, s) of R819 over a digest by the die key: deterministic, so a function of the digest. -/
opaque Config.sign : BitVec 384 → BitVec 384 × BitVec 384

/-- The public key Q of the die (R807), x then y. -/
opaque Config.dieKey : BitVec 768

/-- Code of element `k` of the inverse that a refresh forms from the Cholesky factor L (R597: the manual names binary64
and gives no order of operations), from the binary64 codes of L. -/
opaque Config.precondInverse : List Nat → Nat → BitVec 32

/-- sign of a NaN in the SIGN rule (R593 gives −1, 0, +1 for numbers only): code of the result, for block and element. -/
opaque Config.signNan : Nat → Nat → BitVec 32

/-- A fresh value the manual leaves open, for each use of the counter `State.freeCtr`. -/
opaque Config.freeValue : Nat → BitVec 64

/-- Length in bits of the boundary register (R824: the BSDL file, which the manual does not hold). -/
opaque Config.boundaryLen : Nat

/-- The IEEE 1687 network, whose bit structure is in files that the manual does not hold (R828), by the bits last updated into it:
length of the path, bit `i` of its capture from the CSA capture and a fresh value, the word that an update puts into the CSA
instrument, and the instruments that it starts. -/
opaque Config.ijtagLen : List Bool → Nat
opaque Config.ijtagBit : List Bool → Nat → Nat → Nat → Bool
opaque Config.ijtagCsa : List Bool → Option (BitVec 64)
opaque Config.ijtagStarts : List Bool → List Nat

/-- One-way latency in bc of an endpoint pair (R425 bounds it by 33 and 59 and gives no table). -/
opaque Config.latency : Nat → Nat → Nat

end Sys2Proof
end

