-- ==== Sys2Proof/Machine/Float.lean ====
section
/-! DEFINITION. The number formats bit by bit (R281–R285, R289), exact arithmetic on decoded values, the one rounding
function of every unit (R292, R298, R310), special values (R290, R291), the adder tree of R230 and the generator of
R295. -/

namespace Sys2Proof.Machine

/-! ### Values -/

/-- A decoded number: NaN, an infinity, or (−1)^neg × m × 2^e. Zero has m = 0 and keeps its sign. -/
inductive Num where
  | nan
  | inf (neg : Bool)
  | fin (neg : Bool) (m : Nat) (e : Int)
deriving DecidableEq, Repr

/-- A floating-point layout (R281): widths of exponent and fraction, bias, and how special values are coded: 0 infinities
and NaNs, 1 one NaN code and no infinity (E4M3), 2 every code finite. -/
structure Fmt where
  ew : Nat
  mw : Nat
  bias : Nat
  special : Nat
deriving DecidableEq, Repr

abbrev Fmt.f64 : Fmt := ⟨11, 52, 1023, 0⟩
abbrev Fmt.f32 : Fmt := ⟨8, 23, 127, 0⟩
abbrev Fmt.f16 : Fmt := ⟨5, 10, 15, 0⟩
abbrev Fmt.bf16 : Fmt := ⟨8, 7, 127, 0⟩
abbrev Fmt.e4m3 : Fmt := ⟨4, 3, 7, 1⟩
abbrev Fmt.e5m2 : Fmt := ⟨5, 2, 15, 0⟩
abbrev Fmt.e2m3 : Fmt := ⟨2, 3, 1, 2⟩
abbrev Fmt.e3m2 : Fmt := ⟨3, 2, 3, 2⟩
abbrev Fmt.e2m1 : Fmt := ⟨2, 1, 1, 2⟩

/-- Width of a format. -/
def Fmt.width (f : Fmt) : Nat := 1 + f.ew + f.mw

/-- Magnitude code of the largest finite value (R281). -/
def Fmt.maxMag (f : Fmt) : Nat :=
  match f.special with
  | 0 => (2 ^ f.ew - 1) * 2 ^ f.mw - 1
  | 1 => 2 ^ (f.ew + f.mw) - 2
  | _ => 2 ^ (f.ew + f.mw) - 1

/-- Magnitude code of infinity, where the format has one. -/
def Fmt.infMag (f : Fmt) : Nat := (2 ^ f.ew - 1) * 2 ^ f.mw

/-- The default NaN (R291). -/
def Fmt.nanCode (f : Fmt) : Nat :=
  if f.special = 1 then 2 ^ (f.ew + f.mw) - 1 else f.infMag + 2 ^ (f.mw - 1)

/-- The sign bit. -/
def Fmt.signOf (f : Fmt) (neg : Bool) : Nat := if neg then 2 ^ (f.ew + f.mw) else 0

/-- A code decoded (R282, R283). -/
def decodeNum (f : Fmt) (bits : Nat) : Num :=
  let neg := bits.testBit (f.ew + f.mw)
  let e := bits / 2 ^ f.mw % 2 ^ f.ew
  let fr := bits % 2 ^ f.mw
  let fin := if e = 0 then Num.fin neg fr (1 - (f.bias : Int) - f.mw)
    else Num.fin neg (2 ^ f.mw + fr) ((e : Int) - f.bias - f.mw)
  match f.special with
  | 0 => if e = 2 ^ f.ew - 1 then (if fr = 0 then .inf neg else .nan) else fin
  | 1 => if bits % 2 ^ (f.ew + f.mw) = 2 ^ (f.ew + f.mw) - 1 then .nan else fin
  | _ => fin

/-- A signed integer as a value. -/
def Num.ofInt (i : Int) : Num := .fin (decide (i < 0)) i.natAbs 0

/-- The integer that an integral value is. -/
def Num.toInt : Num → Int
  | .fin neg m e => let v : Int := (m * 2 ^ e.toNat : Nat); if neg then -v else v
  | _ => 0

def Num.isFin : Num → Bool
  | .fin _ _ _ => true
  | _ => false

def Num.isNan : Num → Bool
  | .nan => true
  | _ => false

def Num.isInf : Num → Bool
  | .inf _ => true
  | _ => false

def Num.isZero : Num → Bool
  | .fin _ 0 _ => true
  | _ => false

def Num.neg : Num → Num
  | .nan => .nan
  | .inf s => .inf (!s)
  | .fin s m e => .fin (!s) m e

def Num.abs : Num → Num
  | .nan => .nan
  | .inf _ => .inf false
  | .fin _ m e => .fin false m e

/-- Sign of a value. -/
def Num.sign : Num → Bool
  | .nan => false
  | .inf s => s
  | .fin s _ _ => s

/-- The exact sum (R290): opposite infinities give NaN; an exact zero sum is +0 unless every addend is −0. -/
def Num.add : Num → Num → Num
  | .nan, _ => .nan
  | _, .nan => .nan
  | .inf a, .inf b => if a = b then .inf a else .nan
  | .inf a, _ => .inf a
  | _, .inf b => .inf b
  | .fin s m e, .fin t n g =>
    let lo := if e ≤ g then e else g
    let a : Int := (m * 2 ^ (e - lo).toNat : Nat)
    let b : Int := (n * 2 ^ (g - lo).toNat : Nat)
    let v := (if s then -a else a) + (if t then -b else b)
    if v = 0 then .fin (s && t && decide (m = 0) && decide (n = 0)) 0 0 else .fin (decide (v < 0)) v.natAbs lo

/-- The exact product (R290). -/
def Num.mul : Num → Num → Num
  | .nan, _ => .nan
  | _, .nan => .nan
  | .inf a, .inf b => .inf (a != b)
  | .inf a, .fin t n _ => if n = 0 then .nan else .inf (a != t)
  | .fin s m _, .inf b => if m = 0 then .nan else .inf (s != b)
  | .fin s m e, .fin t n g => .fin (s != t) (m * n) (e + g)

/-- A value times a power of two. -/
def Num.scale (x : Int) : Num → Num
  | .fin s m e => .fin s m (e + x)
  | v => v

/-- Magnitudes compared: |x| < |y| for finite values. -/
def magLt (m : Nat) (e : Int) (n : Nat) (g : Int) : Bool :=
  let lo := if e ≤ g then e else g
  decide (m * 2 ^ (e - lo).toNat < n * 2 ^ (g - lo).toNat)

/-- x < y for values that are not NaN; −0 and +0 are equal. -/
def Num.lt : Num → Num → Bool
  | .nan, _ => false
  | _, .nan => false
  | .inf a, .inf b => a && !b
  | .inf a, .fin _ _ _ => a
  | .fin _ _ _, .inf b => !b
  | .fin s m e, .fin t n g =>
    if m = 0 ∧ n = 0 then false
    else if m = 0 then !t
    else if n = 0 then s
    else if s ∧ !t then true
    else if !s ∧ t then false
    else if s then magLt n g m e else magLt m e n g

/-! ### Rounding -/

/-- Floor of the base-2 logarithm of m × 2^e, for m ≠ 0. -/
def expOf (m : Nat) (e : Int) : Int := (m.log2 : Int) + e

/-- How a value is rounded: to nearest even (R292), toward zero, or by a 32-bit draw (R298). -/
inductive Rnd where
  | near
  | zero
  | down
  | up
  | draw (d : Nat)
deriving DecidableEq, Repr

/-- `m × 2^e` rounded to an integral multiple of `2^q`: the multiple, and whether it is exact. -/
def roundAt (r : Rnd) (neg : Bool) (m : Nat) (e q : Int) : Nat × Bool :=
  if q ≤ e then (m * 2 ^ (e - q).toNat, true)
  else
    let sh := (q - e).toNat
    let n := m / 2 ^ sh
    let rem := m % 2 ^ sh
    let up :=
      match r with
      | .near => decide (2 ^ sh < 2 * rem) || (decide (2 * rem = 2 ^ sh) && decide (n % 2 = 1))
      | .zero => false
      | .down => neg && decide (rem ≠ 0)
      | .up => !neg && decide (rem ≠ 0)
      | .draw d => decide (d < rem * 4294967296 / 2 ^ sh)
    (if up then n + 1 else n, decide (rem = 0))

/-- The magnitude code of m × 2^e, m ≠ 0, in a format without upper limit, at the subnormal spacing below the smallest
normal; and whether it is exact. -/
def roundMag (f : Fmt) (r : Rnd) (neg : Bool) (m : Nat) (e : Int) : Nat × Bool :=
  let emin : Int := 1 - (f.bias : Int)
  let ex := expOf m e
  let q := (if ex < emin then emin else ex) - f.mw
  let (n, exact) := roundAt r neg m e q
  (if ex < emin then n else (ex - emin).toNat * 2 ^ f.mw + n, exact)

/-- A finite non-zero magnitude lies below the smallest normal of the format. -/
def belowNormal (f : Fmt) (m : Nat) (e : Int) : Bool := decide (m ≠ 0) && decide (expOf m e < 1 - (f.bias : Int))

/-- Sticky flags of R233: INVALID 1, OVERFLOW 2, UNDERFLOW 4, INTWRAP 8, CHKSKIP 16. -/
abbrev fInvalid : Nat := 1
abbrev fOverflow : Nat := 2
abbrev fUnderflow : Nat := 4
abbrev fIntwrap : Nat := 8
abbrev fChkskip : Nat := 16

/-- A value converted to a format (R291, R292, R294): its code and the flags. Beyond the largest finite magnitude, a
format of special code 0 other than E5M2 gives an infinity, E4M3 and E5M2 saturate. -/
def convert (f : Fmt) (r : Rnd) : Num → Nat × Nat
  | .nan => (f.nanCode, fInvalid)
  | .inf s =>
    if f.special = 1 then (f.signOf s + f.maxMag, fOverflow) else (f.signOf s + f.infMag, 0)
  | .fin s m e =>
    if m = 0 then (f.signOf s, 0)
    else
      let (c, exact) := roundMag f r s m e
      if f.maxMag < c then
        (f.signOf s + (if f.special = 0 ∧ f ≠ Fmt.e5m2 then f.infMag else f.maxMag), fOverflow)
      else (f.signOf s + c, if belowNormal f m e && !exact then fUnderflow else 0)

/-- A value rounded to a format, as a value. -/
def roundTo (f : Fmt) (x : Num) : Num := decodeNum f (convert f .near x).1

/-- Rounded to FP32 and to binary64. -/
def r32 (x : Num) : Num := roundTo Fmt.f32 x
def r64 (x : Num) : Num := roundTo Fmt.f64 x

/-! ### Trees (R230) -/

/-- Adjacent values combined; an odd last one passes up. -/
def pairUp {α : Type} (f : α → α → α) : List α → List α
  | a :: b :: t => f a b :: pairUp f t
  | l => l

/-- The fixed tree: adjacent pairs, then pairs of those, to the root. -/
def treeOf {α : Type} (f : α → α → α) : Nat → List α → List α
  | 0, l => l
  | n + 1, l => treeOf f n (pairUp f l)

/-- The adder of a class: FP32 rounding in float modes, exact in integer modes. -/
def addC (fl : Bool) (x y : Num) : Num := if fl then r32 (x.add y) else x.add y

/-- The tree sum of up to 256 values. -/
def treeSum (fl : Bool) (l : List Num) : Num := ((treeOf (addC fl) 8 l).head?).getD (.fin false 0 0)

/-! ### The generator (R295) -/

/-- One draw: the state after one advance. -/
def xorshift (x : Word) : Word :=
  let x := x ^^^ (x <<< 13)
  let x := x ^^^ (x >>> 17)
  x ^^^ (x <<< 5)

/-- A seed of 0 is taken as 1 (R296). -/
def seedOf (v : Word) : Word := if v = 0 then 1 else v

end Sys2Proof.Machine
end

