-- ==== Sys2Proof/Machine/Tab.lean ====
section
/-! DEFINITION. Finite tables keyed by natural numbers: lists of pairs with strictly rising keys. An unlisted key reads
as a default that the reader supplies; `store` lists no entry equal to it, so that equal contents are equal data. -/

namespace Sys2Proof.Machine

/-- A sparse table. -/
abbrev Tab (α : Type) := List (Nat × α)

/-- The entry at `k`, if listed. -/
def Tab.find {α : Type} : Tab α → Nat → Option α
  | [], _ => none
  | (j, v) :: t, k => if k = j then some v else Tab.find t k

/-- The value at `k`; `d` where nothing is listed. -/
def Tab.get {α : Type} (d : α) (t : Tab α) (k : Nat) : α := (Tab.find t k).getD d

/-- `t` with the entry at `k` set to `v`. -/
def Tab.put {α : Type} : Tab α → Nat → α → Tab α
  | [], k, v => [(k, v)]
  | (j, w) :: t, k, v =>
    if k < j then (k, v) :: (j, w) :: t
    else if k = j then (k, v) :: t
    else (j, w) :: Tab.put t k v

/-- `t` without an entry at `k`. -/
def Tab.erase {α : Type} : Tab α → Nat → Tab α
  | [], _ => []
  | (j, w) :: t, k => if k < j then (j, w) :: t else if k = j then t else (j, w) :: Tab.erase t k

/-- `t` with `k` reading `v`, where `d` is what unlisted keys read: the canonical form. -/
def Tab.store {α : Type} [DecidableEq α] (d : α) (t : Tab α) (k : Nat) (v : α) : Tab α :=
  if v = d then Tab.erase t k else Tab.put t k v

/-- Keys strictly rising from a bound. -/
def Tab.sortedFrom {α : Type} : Nat → Tab α → Bool
  | _, [] => true
  | lo, (j, _) :: t => decide (lo ≤ j) && Tab.sortedFrom (j + 1) t

/-- The canonical form: keys strictly rising and no entry equal to the default. -/
def Tab.wf {α : Type} [DecidableEq α] (d : α) (t : Tab α) : Bool :=
  Tab.sortedFrom 0 t && t.all (fun e => decide (e.2 ≠ d))

/-- `len` consecutive entries from `k`. -/
def Tab.slice {α : Type} (d : α) (t : Tab α) (k : Nat) : Nat → List α
  | 0 => []
  | len + 1 => Tab.get d t k :: Tab.slice d t (k + 1) len

/-- Consecutive entries from `k` set to `vs`. -/
def Tab.storeList {α : Type} [DecidableEq α] (d : α) : Tab α → Nat → List α → Tab α
  | t, _, [] => t
  | t, k, v :: vs => Tab.storeList d (Tab.store d t k v) (k + 1) vs

end Sys2Proof.Machine
end

