-- ==== Sys2Proof/Machine/Regs.lean ====
section
/-! DEFINITION. The register tables of the manual: for every block type, each register's offset, reset value and access
code (R11), row by row from the chapters' tables; the offsets by the manual's own names; the numbering of pages and
slots (R60, R63, R64). A field that the tables call reserved is in no mask, so it reads 0 for ever (R12). -/

namespace Sys2Proof.Machine

/-- One row of a register table: `n` registers `stride` bytes apart from `off`, with their reset value and, bit by bit,
the access: `rw` writable at any time, `rws` writable only in Stopped, `w1c` cleared by writing 1, `rc` cleared by a
read (R11). A bit in no mask is read-only or reserved. -/
structure RegRow where
  off : Nat
  n : Nat
  stride : Nat
  reset : Nat
  rw : Nat
  rws : Nat
  w1c : Nat
  rc : Bool
deriving DecidableEq, Repr

/-- Offset of register `i` of a family whose first register is at `off`. -/
def regAt (off i : Nat) : Nat := off + 4 * i

namespace R

/-- R67 -/
abbrev HDR_ID : Nat := 0x000
/-- R67 -/
abbrev HDR_VERSION : Nat := 0x004
/-- R67 -/
abbrev HDR_STATE : Nat := 0x008
/-- R67 -/
abbrev HDR_CMD : Nat := 0x00C
/-- R67 -/
abbrev HDR_READY : Nat := 0x010
/-- R67 -/
abbrev HDR_FAULT : Nat := 0x014
/-- R67 -/
abbrev HDR_FAULT_EN : Nat := 0x018
/-- R67 -/
abbrev HDR_ROUTE : Nat := 0x01C
/-- R67 -/
abbrev HDR_STARTS : Nat := 0x020
/-- R67 -/
abbrev HDR_IGNORED : Nat := 0x024
/-- R103 -/
abbrev DIR_SLOTS : Nat := 0x040
/-- R103 -/
abbrev DIR_RANGE_COUNT : Nat := 0x044
/-- R103 -/
abbrev DIR_READY_COUNT : Nat := 0x048
/-- R103 -/
abbrev DIR_READY_SEQ : Nat := 0x04C
/-- R103 -/
abbrev DIR_RANGE0 : Nat := 0x100
/-- R103 -/
abbrev DIR_READY_MAP : Nat := 0x800
/-- R105 -/
abbrev GLB_DIE_NUM : Nat := 0x040
/-- R105 -/
abbrev GLB_PKG : Nat := 0x044
/-- R105 -/
abbrev GLB_VARIANT : Nat := 0x048
/-- R105 -/
abbrev GLB_CMD_TIMEOUT : Nat := 0x04C
/-- R105 -/
abbrev GLB_ACC_ERR : Nat := 0x050
/-- R105 -/
abbrev GLB_ACC_ERR_ADDR_LO : Nat := 0x054
/-- R105 -/
abbrev GLB_ACC_ERR_ADDR_HI : Nat := 0x058
/-- R105 -/
abbrev GLB_WIN0 : Nat := 0x080
/-- R105 -/
abbrev GLB_SCRATCH0 : Nat := 0x0C0
/-- R159 -/
abbrev SEQ_TIME_LO : Nat := 0x040
/-- R159 -/
abbrev SEQ_TIME_HI : Nat := 0x044
/-- R159 -/
abbrev SEQ_TIME_STATUS : Nat := 0x048
/-- R159 -/
abbrev SEQ_SOL_PERIOD : Nat := 0x04C
/-- R159 -/
abbrev SEQ_SOL_GUARD : Nat := 0x050
/-- R159 -/
abbrev SEQ_SOL_EPOCH_LO : Nat := 0x054
/-- R159 -/
abbrev SEQ_SOL_EPOCH_HI : Nat := 0x058
/-- R159 -/
abbrev SEQ_SOL_INDEX_LO : Nat := 0x05C
/-- R159 -/
abbrev SEQ_SOL_INDEX_HI : Nat := 0x060
/-- R159 -/
abbrev SEQ_OVERRUNS : Nat := 0x064
/-- R159 -/
abbrev SEQ_REPLAYS : Nat := 0x068
/-- R161 -/
abbrev PTN_MASK0 : Nat := 0x040
/-- R161 -/
abbrev PTN_MASK1 : Nat := 0x044
/-- R161 -/
abbrev PTN_MASK2 : Nat := 0x048
/-- R161 -/
abbrev PTN_MASK3 : Nat := 0x04C
/-- R161 -/
abbrev PTN_TIMING : Nat := 0x050
/-- R161 -/
abbrev PTN_PHASE : Nat := 0x054
/-- R161 -/
abbrev PTN_SCHED_MHZ : Nat := 0x058
/-- R161 -/
abbrev PTN_CFG : Nat := 0x05C
/-- R161 -/
abbrev PTN_AUTO_MASK : Nat := 0x060
/-- R161 -/
abbrev PTN_ACTION : Nat := 0x064
/-- R161 -/
abbrev PTN_ACTION_STATUS : Nat := 0x068
/-- R161 -/
abbrev PTN_DUMP_ADDR_LO : Nat := 0x06C
/-- R161 -/
abbrev PTN_DUMP_ADDR_HI : Nat := 0x070
/-- R161 -/
abbrev PTN_SOL_SEQ_LO : Nat := 0x074
/-- R161 -/
abbrev PTN_SOL_SEQ_HI : Nat := 0x078
/-- R161 -/
abbrev PTN_SNAP_STATUS : Nat := 0x07C
/-- R161 -/
abbrev PTN_LAST_END : Nat := 0x080
/-- R161 -/
abbrev PTN_MIN_SLACK : Nat := 0x084
/-- R161 -/
abbrev PTN_OVR : Nat := 0x088
/-- R161 -/
abbrev PTN_AUTO_LEFT : Nat := 0x08C
/-- R161 -/
abbrev PTN_REPLAYS : Nat := 0x090
/-- R277 -/
abbrev MXA_REPAIR : Nat := 0x040
/-- R277 -/
abbrev MXA_CHK_TOL : Nat := 0x044
/-- R277 -/
abbrev MXA_HARD_LIMIT : Nat := 0x048
/-- R277 -/
abbrev MXA_SEED : Nat := 0x04C
/-- R277 -/
abbrev MXA_STATUS : Nat := 0x050
/-- R277 -/
abbrev MXA_FLAGS : Nat := 0x054
/-- R277 -/
abbrev MXA_CHK_COUNT : Nat := 0x058
/-- R277 -/
abbrev MXA_CHK_ROW : Nat := 0x05C
/-- R277 -/
abbrev MXA_CHK_ROW_AT : Nat := 0x060
/-- R277 -/
abbrev MXA_CHK_COL : Nat := 0x064
/-- R277 -/
abbrev MXA_CHK_COL_AT : Nat := 0x068
/-- R277 -/
abbrev MXA_CKR_SKIPS : Nat := 0x06C
/-- R277 -/
abbrev MXA_NF_SKIPS : Nat := 0x070
/-- R277 -/
abbrev MXA_HARD_RUN : Nat := 0x074
/-- R277 -/
abbrev MXA_BIST_ROWS : Nat := 0x078
/-- R277 -/
abbrev MXA_BIST_COLS : Nat := 0x07C
/-- R277 -/
abbrev MXA_BIST_MISC : Nat := 0x080
/-- R277 -/
abbrev MXA_ACTION : Nat := 0x084
/-- R366 -/
abbrev VEC_SEED : Nat := 0x040
/-- R366 -/
abbrev VEC_STATUS : Nat := 0x044
/-- R366 -/
abbrev VEC_FLAGS : Nat := 0x048
/-- R366 -/
abbrev VEC_EMPTY : Nat := 0x04C
/-- R366 -/
abbrev VEC_OOR : Nat := 0x050
/-- R366 -/
abbrev VEC_ERR : Nat := 0x054
/-- R410 -/
abbrev COR_SCRIPT_ADDR_LO : Nat := 0x040
/-- R410 -/
abbrev COR_SCRIPT_ADDR_HI : Nat := 0x044
/-- R410 -/
abbrev COR_ID : Nat := 0x048
/-- R410 -/
abbrev COR_SPAD : Nat := 0x04C
/-- R410 -/
abbrev COR_STREAM : Nat := 0x050
/-- R410 -/
abbrev COR_STEPS : Nat := 0x054
/-- R410 -/
abbrev COR_FROZEN_CC : Nat := 0x058
/-- R410 -/
abbrev COR_ERR : Nat := 0x05C
/-- R410 -/
abbrev COR_ASYNC_GUARD : Nat := 0x060
/-- R410 -/
abbrev COR_MIGRATE : Nat := 0x064
/-- R410 -/
abbrev COR_MIG_STATUS : Nat := 0x068
/-- R412 -/
abbrev MOV_QUEUE : Nat := 0x040
/-- R412 -/
abbrev MOV_OUTSTANDING : Nat := 0x044
/-- R412 -/
abbrev MOV_PEAK : Nat := 0x048
/-- R412 -/
abbrev MOV_DONE0 : Nat := 0x04C
/-- R412 -/
abbrev MOV_DONE1 : Nat := 0x050
/-- R412 -/
abbrev MOV_ERRORS : Nat := 0x054
/-- R412 -/
abbrev MOV_MC_MISSES : Nat := 0x058
/-- R412 -/
abbrev MOV_ERR : Nat := 0x05C
/-- R412 -/
abbrev MOV_ERR_ADDR_LO : Nat := 0x060
/-- R412 -/
abbrev MOV_ERR_ADDR_HI : Nat := 0x064
/-- R412 -/
abbrev MOV_DESC_ERR : Nat := 0x068
/-- R414 -/
abbrev GTH_QUEUE : Nat := 0x040
/-- R414 -/
abbrev GTH_BAGS : Nat := 0x044
/-- R414 -/
abbrev GTH_ROWS : Nat := 0x048
/-- R414 -/
abbrev GTH_OOR : Nat := 0x04C
/-- R414 -/
abbrev GTH_EMPTY : Nat := 0x050
/-- R414 -/
abbrev GTH_BADOFF : Nat := 0x054
/-- R414 -/
abbrev GTH_FLAGS : Nat := 0x058
/-- R414 -/
abbrev GTH_ERR : Nat := 0x05C
/-- R416 -/
abbrev SIG_COUNT0 : Nat := 0x040
/-- R416 -/
abbrev SIG_SAT : Nat := 0x0C0
/-- R416 -/
abbrev SIG_WAITING : Nat := 0x0C4
/-- R460 -/
abbrev NETB_RTAB_LO : Nat := 0x040
/-- R460 -/
abbrev NETB_RTAB_HI : Nat := 0x044
/-- R460 -/
abbrev NETB_TXN_TIMEOUT : Nat := 0x048
/-- R460 -/
abbrev NETB_SPINES : Nat := 0x04C
/-- R460 -/
abbrev NETB_RED_OPEN : Nat := 0x050
/-- R460 -/
abbrev NETB_RED_DONE : Nat := 0x054
/-- R460 -/
abbrev NETB_RED_STRAY : Nat := 0x058
/-- R460 -/
abbrev NETB_RED_DISCARD : Nat := 0x05C
/-- R460 -/
abbrev NETB_RTAB_MISS : Nat := 0x060
/-- R460 -/
abbrev NETB_TIMEOUTS : Nat := 0x064
/-- R460 -/
abbrev NETB_LATE : Nat := 0x068
/-- R460 -/
abbrev NETB_HDR_CE : Nat := 0x06C
/-- R460 -/
abbrev NETB_HDR_UE : Nat := 0x070
/-- R460 -/
abbrev NETB_ERR : Nat := 0x074
/-- R460 -/
abbrev NETB_COLLECT : Nat := 0x078
/-- R460 -/
abbrev NETB_COLLECT_BUSY : Nat := 0x07C
/-- R461 -/
abbrev NETC_ACCESSES : Nat := 0x040
/-- R461 -/
abbrev NETC_ERRORS : Nat := 0x044
/-- R461 -/
abbrev NETC_MAX_NS : Nat := 0x048
/-- R462 -/
abbrev NETS_MSGS : Nat := 0x040
/-- R462 -/
abbrev NETS_ERRORS : Nat := 0x044
/-- R462 -/
abbrev NETS_FREEZE : Nat := 0x048
/-- R462 -/
abbrev NETS_FREEZE_CNT : Nat := 0x04C
/-- R463 -/
abbrev NETM_MC_HOLD : Nat := 0x040
/-- R463 -/
abbrev NETM_SEL : Nat := 0x044
/-- R463 -/
abbrev NETM_MASK0 : Nat := 0x048
/-- R463 -/
abbrev NETM_MASK1 : Nat := 0x04C
/-- R463 -/
abbrev NETM_MASK2 : Nat := 0x050
/-- R463 -/
abbrev NETM_MASK3 : Nat := 0x054
/-- R463 -/
abbrev NETM_MC_SENT : Nat := 0x058
/-- R463 -/
abbrev NETM_MC_HOLDS : Nat := 0x05C
/-- R463 -/
abbrev NETM_MC_DROPS : Nat := 0x060
/-- R463 -/
abbrev NETM_MC_MISSED : Nat := 0x064
/-- R463 -/
abbrev NETM_LAST_DROP : Nat := 0x068
/-- R507 -/
abbrev CAL_FORCE : Nat := 0x040
/-- R507 -/
abbrev CAL_XARRIVE : Nat := 0x044
/-- R507 -/
abbrev CAL_CLEAR : Nat := 0x048
/-- R507 -/
abbrev CAL_MISUSE : Nat := 0x04C
/-- R507 -/
abbrev CAL_FAULTED : Nat := 0x050
/-- R507 -/
abbrev CAL_FORCED : Nat := 0x054
/-- R507 -/
abbrev CAL_STALE : Nat := 0x058
/-- R507 -/
abbrev CAL_QUIET : Nat := 0x05C
/-- R508 -/
abbrev CAL_CFG : Nat := 0x000
/-- R508 -/
abbrev CAL_MASK0 : Nat := 0x004
/-- R508 -/
abbrev CAL_MASK1 : Nat := 0x008
/-- R508 -/
abbrev CAL_MASK2 : Nat := 0x00C
/-- R508 -/
abbrev CAL_MASK3 : Nat := 0x010
/-- R508 -/
abbrev CAL_XMASK : Nat := 0x014
/-- R508 -/
abbrev CAL_PARENT : Nat := 0x018
/-- R508 -/
abbrev CAL_CHILD0 : Nat := 0x01C
/-- R508 -/
abbrev CAL_STATE : Nat := 0x040
/-- R508 -/
abbrev CAL_COUNT : Nat := 0x044
/-- R508 -/
abbrev CAL_CHILDREN : Nat := 0x048
/-- R508 -/
abbrev CAL_FAULT : Nat := 0x04C
/-- R508 -/
abbrev CAL_RELEASES : Nat := 0x050
/-- R508 -/
abbrev CAL_LAST_NS : Nat := 0x054
/-- R511 -/
abbrev VGL_WINDOW : Nat := 0x040
/-- R511 -/
abbrev VGL_CFG : Nat := 0x044
/-- R511 -/
abbrev VGL_ALARMS : Nat := 0x048
/-- R511 -/
abbrev VGL_ABORTS : Nat := 0x04C
/-- R511 -/
abbrev VGL_LAST : Nat := 0x050
/-- R511 -/
abbrev VGL_LAST_TIME_LO : Nat := 0x054
/-- R511 -/
abbrev VGL_LAST_TIME_HI : Nat := 0x058
/-- R511 -/
abbrev VGL_IDLE : Nat := 0x05C
/-- R567 -/
abbrev SLC_BIND : Nat := 0x040
/-- R567 -/
abbrev SLC_HOME : Nat := 0x044
/-- R567 -/
abbrev SLC_SIDE : Nat := 0x048
/-- R567 -/
abbrev SLC_REQS : Nat := 0x04C
/-- R567 -/
abbrev SLC_ERRORS : Nat := 0x050
/-- R567 -/
abbrev SLC_ERR : Nat := 0x054
/-- R567 -/
abbrev SLC_ERR_ADDR_LO : Nat := 0x058
/-- R567 -/
abbrev SLC_ERR_ADDR_HI : Nat := 0x05C
/-- R567 -/
abbrev SLC_DIR_USED : Nat := 0x060
/-- R567 -/
abbrev SLC_DIR_EVICT : Nat := 0x064
/-- R567 -/
abbrev SLC_INV_SENT : Nat := 0x068
/-- R567 -/
abbrev SLC_GLAZE_BAD : Nat := 0x06C
/-- R567 -/
abbrev SLC_TILE_ABORT : Nat := 0x070
/-- R567 -/
abbrev SLC_GRT0 : Nat := 0x400
/-- R570 -/
abbrev CCH_WAYMASK : Nat := 0x040
/-- R570 -/
abbrev CCH_HOME_HITS : Nat := 0x044
/-- R570 -/
abbrev CCH_HOME_MISSES : Nat := 0x048
/-- R570 -/
abbrev CCH_REMOTE_HITS : Nat := 0x04C
/-- R570 -/
abbrev CCH_REMOTE_MISSES : Nat := 0x050
/-- R570 -/
abbrev CCH_REMOTE_LINES : Nat := 0x054
/-- R570 -/
abbrev CCH_INV_RCVD : Nat := 0x058
/-- R570 -/
abbrev CCH_FILL_DROPS : Nat := 0x05C
/-- R570 -/
abbrev CCH_WAY_FAIL : Nat := 0x060
/-- R571 -/
abbrev MED_ROLE : Nat := 0x040
/-- R571 -/
abbrev MED_TEMP : Nat := 0x044
/-- R571 -/
abbrev MED_REFRESH : Nat := 0x048
/-- R571 -/
abbrev MED_TRR : Nat := 0x04C
/-- R571 -/
abbrev MED_SCRUB : Nat := 0x050
/-- R571 -/
abbrev MED_CE_LIMIT : Nat := 0x054
/-- R571 -/
abbrev MED_CE : Nat := 0x058
/-- R571 -/
abbrev MED_UE : Nat := 0x05C
/-- R571 -/
abbrev MED_REMAP_USED : Nat := 0x060
/-- R571 -/
abbrev MED_SCRUB_POS : Nat := 0x064
/-- R571 -/
abbrev MED_SCRUB_PASSES : Nat := 0x068
/-- R571 -/
abbrev MED_KEEP_CMD : Nat := 0x06C
/-- R571 -/
abbrev MED_KEEP_DRAM : Nat := 0x070
/-- R571 -/
abbrev MED_KEEP_BLOCK : Nat := 0x074
/-- R571 -/
abbrev MED_KEEP_COUNT : Nat := 0x078
/-- R571 -/
abbrev MED_KEEP_STATUS : Nat := 0x07C
/-- R571 -/
abbrev MED_KEEP_ERRS : Nat := 0x080
/-- R571 -/
abbrev MED_KEEP_FREE : Nat := 0x084
/-- R571 -/
abbrev MED_KEEP_MAXW : Nat := 0x088
/-- R571 -/
abbrev MED_KEEP_AGE : Nat := 0x08C
/-- R571 -/
abbrev MED_TAKEOVERS : Nat := 0x090
/-- R604 -/
abbrev LVN_GTAB_LO : Nat := 0x040
/-- R604 -/
abbrev LVN_GTAB_HI : Nat := 0x044
/-- R604 -/
abbrev LVN_GROUPS : Nat := 0x048
/-- R604 -/
abbrev LVN_PIVOT_MIN : Nat := 0x04C
/-- R604 -/
abbrev LVN_STAGE_WAYS : Nat := 0x050
/-- R604 -/
abbrev LVN_CFG : Nat := 0x054
/-- R604 -/
abbrev LVN_STAGED : Nat := 0x058
/-- R604 -/
abbrev LVN_READY : Nat := 0x05C
/-- R604 -/
abbrev LVN_APPLIED : Nat := 0x060
/-- R604 -/
abbrev LVN_FROZEN_DROPS : Nat := 0x064
/-- R604 -/
abbrev LVN_DISCARDS : Nat := 0x068
/-- R604 -/
abbrev LVN_SPLITS : Nat := 0x06C
/-- R604 -/
abbrev LVN_NONFINITE : Nat := 0x070
/-- R604 -/
abbrev LVN_DAMPED : Nat := 0x074
/-- R604 -/
abbrev LVN_FALLBACKS : Nat := 0x078
/-- R604 -/
abbrev LVN_DUPS : Nat := 0x07C
/-- R604 -/
abbrev LVN_FLAGS : Nat := 0x080
/-- R604 -/
abbrev LVN_FULL_BC : Nat := 0x084
/-- R604 -/
abbrev LVN_ERRS : Nat := 0x088
/-- R604 -/
abbrev LVN_ERR : Nat := 0x08C
/-- R604 -/
abbrev LVN_ERR_ADDR_LO : Nat := 0x090
/-- R604 -/
abbrev LVN_ERR_ADDR_HI : Nat := 0x094
/-- R604 -/
abbrev LVN_LAST_NS : Nat := 0x098
/-- R627 -/
abbrev DBL_RTAB_LO : Nat := 0x040
/-- R627 -/
abbrev DBL_RTAB_HI : Nat := 0x044
/-- R627 -/
abbrev DBL_STAGED : Nat := 0x048
/-- R627 -/
abbrev DBL_REFUSED : Nat := 0x04C
/-- R627 -/
abbrev DBL_ERR : Nat := 0x050
/-- R627 -/
abbrev DBL_NOTICES : Nat := 0x054
/-- R627 -/
abbrev DBL_MSG_SENT : Nat := 0x058
/-- R627 -/
abbrev DBL_MSG_RCVD : Nat := 0x05C
/-- R627 -/
abbrev DBL_ENABLE0 : Nat := 0x060
/-- R627 -/
abbrev DBL_STAGE_FULL : Nat := 0x070
/-- R627 -/
abbrev DBL_ENABLE4 : Nat := 0x074
/-- R627 -/
abbrev DBL_PROD : Nat := 0x800
/-- R627 -/
abbrev DBL_CONS : Nat := 0x804
/-- R681 -/
abbrev LNK_STATUS : Nat := 0x040
/-- R681 -/
abbrev LNK_FAR : Nat := 0x044
/-- R681 -/
abbrev LNK_SPARES : Nat := 0x048
/-- R681 -/
abbrev LNK_RX_FAILED : Nat := 0x04C
/-- R681 -/
abbrev LNK_TX_FAILED : Nat := 0x050
/-- R681 -/
abbrev LNK_LANE_LIMIT : Nat := 0x054
/-- R681 -/
abbrev LNK_LANE_WINDOW : Nat := 0x058
/-- R681 -/
abbrev LNK_ACK_TIMEOUT : Nat := 0x05C
/-- R681 -/
abbrev LNK_DEAD_NS : Nat := 0x060
/-- R681 -/
abbrev LNK_DELAY_NS : Nat := 0x064
/-- R681 -/
abbrev LNK_ACTION : Nat := 0x068
/-- R681 -/
abbrev LNK_RETRAINS : Nat := 0x06C
/-- R681 -/
abbrev LNK_TXN_TIMEOUT : Nat := 0x070
/-- R681 -/
abbrev LNK_TRAIN_LIMIT : Nat := 0x074
/-- R681 -/
abbrev LNK_STAGE_LOG : Nat := 0x078
/-- R684 -/
abbrev LST_LANE_ERR0 : Nat := 0x040
/-- R684 -/
abbrev LST_CRC_ERRS : Nat := 0x088
/-- R684 -/
abbrev LST_RETRIES : Nat := 0x08C
/-- R684 -/
abbrev LST_FEC_CORR : Nat := 0x090
/-- R684 -/
abbrev LST_FEC_UNCORR : Nat := 0x094
/-- R684 -/
abbrev LST_FRAMES_TX : Nat := 0x098
/-- R684 -/
abbrev LST_FRAMES_RX : Nat := 0x09C
/-- R684 -/
abbrev LST_EYE0 : Nat := 0x0A0
/-- R685 -/
abbrev LKG_STATUS : Nat := 0x040
/-- R685 -/
abbrev LKG_FAR : Nat := 0x044
/-- R685 -/
abbrev LKG_REACH : Nat := 0x048
/-- R685 -/
abbrev LKG_HANDOVERS : Nat := 0x04C
/-- R685 -/
abbrev LKG_DRAIN_LOST : Nat := 0x050
/-- R685 -/
abbrev LKG_LATE : Nat := 0x054
/-- R685 -/
abbrev LKG_TIMEOUTS : Nat := 0x058
/-- R685 -/
abbrev LKG_DISCARDS : Nat := 0x05C
/-- R685 -/
abbrev LKG_RELAYED : Nat := 0x060
/-- R685 -/
abbrev LKG_DRAIN_US : Nat := 0x064
/-- R685 -/
abbrev LKG_ERR : Nat := 0x068
/-- R724 -/
abbrev ALM_STATUS : Nat := 0x040
/-- R724 -/
abbrev ALM_CLASS : Nat := 0x044
/-- R724 -/
abbrev ALM_SEQ : Nat := 0x048
/-- R724 -/
abbrev ALM_TAB_SEL : Nat := 0x04C
/-- R724 -/
abbrev ALM_TAB_DATA0 : Nat := 0x050
/-- R724 -/
abbrev ALM_SUBST : Nat := 0x0D0
/-- R724 -/
abbrev ALM_SUBST_STATUS : Nat := 0x0D4
/-- R724 -/
abbrev ALM_ACTION : Nat := 0x0D8
/-- R724 -/
abbrev ALM_REC_SEQ : Nat := 0x0DC
/-- R724 -/
abbrev ALM_REC_COUNT : Nat := 0x0E0
/-- R724 -/
abbrev ALM_FUSE_SITE0 : Nat := 0x0E4
/-- R724 -/
abbrev ALM_ST_SITE0 : Nat := 0x0F8
/-- R724 -/
abbrev ALM_USED0 : Nat := 0x10C
/-- R724 -/
abbrev ALM_FUSE_MISC : Nat := 0x120
/-- R724 -/
abbrev ALM_FUSE_SLICES : Nat := 0x124
/-- R724 -/
abbrev ALM_FW_MAN_LO : Nat := 0x140
/-- R724 -/
abbrev ALM_FW_MAN_HI : Nat := 0x144
/-- R724 -/
abbrev ALM_FW_MASK0 : Nat := 0x148
/-- R724 -/
abbrev ALM_FW_PUSH_WAIT : Nat := 0x158
/-- R724 -/
abbrev ALM_FW_CMD : Nat := 0x15C
/-- R724 -/
abbrev ALM_FW_STATUS : Nat := 0x160
/-- R724 -/
abbrev ALM_FW_UNICAST0 : Nat := 0x164
/-- R724 -/
abbrev ALM_FW_FAIL0 : Nat := 0x174
/-- R724 -/
abbrev ALM_MAP0 : Nat := 0x200
/-- R758 -/
abbrev TWN_PEER : Nat := 0x040
/-- R758 -/
abbrev TWN_CFG : Nat := 0x044
/-- R758 -/
abbrev TWN_EPOCH : Nat := 0x048
/-- R758 -/
abbrev TWN_STAGE_LO : Nat := 0x04C
/-- R758 -/
abbrev TWN_STAGE_HI : Nat := 0x050
/-- R758 -/
abbrev TWN_STAGE_MIB : Nat := 0x054
/-- R758 -/
abbrev TWN_LOSS_US : Nat := 0x058
/-- R758 -/
abbrev TWN_DIGEST_US : Nat := 0x05C
/-- R758 -/
abbrev TWN_CARRY0 : Nat := 0x060
/-- R758 -/
abbrev TWN_STATUS : Nat := 0x070
/-- R758 -/
abbrev TWN_PSEL : Nat := 0x074
/-- R758 -/
abbrev TWN_PSEQ_LO : Nat := 0x078
/-- R758 -/
abbrev TWN_PSEQ_HI : Nat := 0x07C
/-- R758 -/
abbrev TWN_DIVERGED : Nat := 0x080
/-- R758 -/
abbrev TWN_TAKE_MASK : Nat := 0x084
/-- R758 -/
abbrev TWN_ACTION : Nat := 0x088
/-- R758 -/
abbrev TWN_ACTION_STATUS : Nat := 0x08C
/-- R758 -/
abbrev TWN_MOVED_MIB : Nat := 0x090
/-- R758 -/
abbrev TWN_FOSTER : Nat := 0x094
/-- R758 -/
abbrev TWN_FOSTER_H : Nat := 0x098
/-- R758 -/
abbrev TWN_SHIPS : Nat := 0x09C
/-- R758 -/
abbrev TWN_MR0 : Nat := 0x0A0
/-- R799 -/
abbrev PWR_STATUS : Nat := 0x040
/-- R799 -/
abbrev PWR_PLAN_LO : Nat := 0x044
/-- R799 -/
abbrev PWR_PLAN_HI : Nat := 0x048
/-- R799 -/
abbrev PWR_CAP : Nat := 0x04C
/-- R799 -/
abbrev PWR_CCLK : Nat := 0x050
/-- R799 -/
abbrev PWR_DUTY : Nat := 0x054
/-- R799 -/
abbrev PWR_POWER : Nat := 0x058
/-- R799 -/
abbrev PWR_DROOP_N : Nat := 0x05C
/-- R799 -/
abbrev PWR_DROOP_S : Nat := 0x060
/-- R799 -/
abbrev PWR_DROOP_MV : Nat := 0x064
/-- R799 -/
abbrev PWR_THERM : Nat := 0x068
/-- R799 -/
abbrev PWR_TEMP_MAX : Nat := 0x06C
/-- R799 -/
abbrev PWR_TELEM : Nat := 0x070
/-- R799 -/
abbrev PWR_TELEM_SKIPS : Nat := 0x074
/-- R799 -/
abbrev PWR_PLAN_STALE : Nat := 0x078
/-- R799 -/
abbrev PWR_VF0 : Nat := 0x080
/-- R799 -/
abbrev PWR_RAIL0 : Nat := 0x090
/-- R799 -/
abbrev PWR_TEMP0 : Nat := 0x100
/-- R801 -/
abbrev ANN_STATUS : Nat := 0x040
/-- R801 -/
abbrev ANN_QUIET : Nat := 0x044
/-- R801 -/
abbrev ANN_CFG : Nat := 0x048
/-- R801 -/
abbrev ANN_ACTION : Nat := 0x04C
/-- R801 -/
abbrev ANN_ALARMS : Nat := 0x050
/-- R801 -/
abbrev ANN_MSGS : Nat := 0x054
/-- R801 -/
abbrev ANN_COALESCED : Nat := 0x058
/-- R801 -/
abbrev ANN_OTHER : Nat := 0x05C
/-- R801 -/
abbrev ANN_RING_OVER : Nat := 0x060
/-- R801 -/
abbrev ANN_LOG_DROPS : Nat := 0x064
/-- R801 -/
abbrev ANN_TRACE_DROPS : Nat := 0x068
/-- R801 -/
abbrev ANN_INCIDENT : Nat := 0x06C
/-- R801 -/
abbrev ANN_INC_TIME_LO : Nat := 0x070
/-- R801 -/
abbrev ANN_INC_TIME_HI : Nat := 0x074
/-- R801 -/
abbrev ANN_ALARM_HEAD : Nat := 0x078
/-- R801 -/
abbrev ANN_LOG_HEAD : Nat := 0x07C
/-- R801 -/
abbrev ANN_TRACE_HEAD : Nat := 0x080
/-- R801 -/
abbrev ANN_TRACE_TAIL : Nat := 0x084
/-- R801 -/
abbrev ANN_WIN : Nat := 0x088
/-- R801 -/
abbrev ANN_DUMP_LO : Nat := 0x08C
/-- R801 -/
abbrev ANN_DUMP_HI : Nat := 0x090
/-- R801 -/
abbrev ANN_DUMP_STATUS : Nat := 0x094
/-- R801 -/
abbrev ANN_DATA0 : Nat := 0x100
/-- R831 -/
abbrev SEC_STATUS : Nat := 0x040
/-- R831 -/
abbrev SEC_MAN_ACCEPTED : Nat := 0x044
/-- R831 -/
abbrev SEC_MAN_REFUSED : Nat := 0x048
/-- R831 -/
abbrev SEC_MAN_ERR : Nat := 0x04C
/-- R831 -/
abbrev SEC_ATT_CMD : Nat := 0x050
/-- R831 -/
abbrev SEC_ATT_STATUS : Nat := 0x054
/-- R831 -/
abbrev SEC_ATT_ADDR_LO : Nat := 0x058
/-- R831 -/
abbrev SEC_ATT_ADDR_HI : Nat := 0x05C
/-- R831 -/
abbrev SEC_ATT_COUNT : Nat := 0x060
/-- R831 -/
abbrev SEC_NONCE0 : Nat := 0x080
/-- R831 -/
abbrev SEC_DIE_ID0 : Nat := 0x0A0
/-- R831 -/
abbrev SEC_ROOT_HASH0 : Nat := 0x0B0
/-- R831 -/
abbrev SEC_PUBKEY0 : Nat := 0x100
/-- R831 -/
abbrev SEC_LOG0 : Nat := 0x200
/-- R831 -/
abbrev SEC_CORE_MAP0 : Nat := 0x400
/-- R832 -/
abbrev TST_IDCODE : Nat := 0x040
/-- R832 -/
abbrev TST_STATUS : Nat := 0x044
/-- R832 -/
abbrev TST_SCANS : Nat := 0x048
/-- R832 -/
abbrev TST_CSA_COUNT : Nat := 0x04C
/-- R832 -/
abbrev TST_TEST_DROPS : Nat := 0x050

end R

/-- The common page header (R67). -/
def rowsHDR : List RegRow := [
  /- HDR_ID RO R67 -/ ⟨0x000, 1, 4, 0x0, 0x0, 0x0, 0x0, false⟩,
  /- HDR_VERSION RO R67 -/ ⟨0x004, 1, 4, 0x0, 0x0, 0x0, 0x0, false⟩,
  /- HDR_STATE RO R67 -/ ⟨0x008, 1, 4, 0x0, 0x0, 0x0, 0x0, false⟩,
  /- HDR_CMD WO R67 -/ ⟨0x00C, 1, 4, 0x0, 0x0, 0x0, 0x0, false⟩,
  /- HDR_READY RO R67 -/ ⟨0x010, 1, 4, 0x0, 0x0, 0x0, 0x0, false⟩,
  /- HDR_FAULT W1C R67 -/ ⟨0x014, 1, 4, 0x0, 0x0, 0x0, 0xFFFFFFFF, false⟩,
  /- HDR_FAULT_EN RWS R67 -/ ⟨0x018, 1, 4, 0x0, 0x0, 0x0, 0x0, false⟩,
  /- HDR_ROUTE RW R67 -/ ⟨0x01C, 1, 4, 0x3, 0xFFFF000E, 0x0, 0x0, false⟩,
  /- HDR_STARTS RO R67 -/ ⟨0x020, 1, 4, 0x0, 0x0, 0x0, 0x0, false⟩,
  /- HDR_IGNORED W1C R67 -/ ⟨0x024, 1, 4, 0x0, 0x0, 0x0, 0x3, false⟩]

/-- Registers of a DIR page. -/
def rowsDIR : List RegRow := [
  /- DIR_SLOTS RO R103 -/ ⟨0x040, 1, 4, 0x4000, 0x0, 0x0, 0x0, false⟩,
  /- DIR_RANGE_COUNT RO R103 -/ ⟨0x044, 1, 4, 0x1F, 0x0, 0x0, 0x0, false⟩,
  /- DIR_READY_COUNT RO R103 -/ ⟨0x048, 1, 4, 0x0, 0x0, 0x0, 0x0, false⟩,
  /- DIR_READY_SEQ RO R103 -/ ⟨0x04C, 1, 4, 0x0, 0x0, 0x0, 0x0, false⟩,
  /- DIR_RANGE0-31 RO R103 -/ ⟨0x100, 64, 4, 0x0, 0x0, 0x0, 0x0, false⟩,
  /- DIR_READY_MAP RO R103 -/ ⟨0x800, 512, 4, 0x0, 0x0, 0x0, 0x0, false⟩]

/-- Registers of a GLB page. -/
def rowsGLB : List RegRow := [
  /- GLB_DIE_NUM RO R105 -/ ⟨0x040, 1, 4, 0x0, 0x0, 0x0, 0x0, false⟩,
  /- GLB_PKG RO R105 -/ ⟨0x044, 1, 4, 0x0, 0x0, 0x0, 0x0, false⟩,
  /- GLB_VARIANT RO R105 -/ ⟨0x048, 1, 4, 0x0, 0x0, 0x0, 0x0, false⟩,
  /- GLB_CMD_TIMEOUT RW R105 -/ ⟨0x04C, 1, 4, 0x32, 0x7FF, 0x0, 0x0, false⟩,
  /- GLB_ACC_ERR W1C R105 -/ ⟨0x050, 1, 4, 0x0, 0x0, 0x0, 0x80000000, false⟩,
  /- GLB_ACC_ERR_ADDR_LO RO R105 -/ ⟨0x054, 1, 4, 0x0, 0x0, 0x0, 0x0, false⟩,
  /- GLB_ACC_ERR_ADDR_HI RO R105 -/ ⟨0x058, 1, 4, 0x0, 0x0, 0x0, 0x0, false⟩,
  /- GLB_WIN0-15 RW R105 -/ ⟨0x080, 16, 4, 0x0, 0x8FFF3FFF, 0x0, 0x0, false⟩,
  /- GLB_SCRATCH0-3 RW R105 -/ ⟨0x0C0, 4, 4, 0x0, 0xFFFFFFFF, 0x0, 0x0, false⟩]

/-- Registers of a SEQ page. -/
def rowsSEQ : List RegRow := [
  /- SEQ_TIME_LO RO R159 -/ ⟨0x040, 1, 4, 0x0, 0x0, 0x0, 0x0, false⟩,
  /- SEQ_TIME_HI RO R159 -/ ⟨0x044, 1, 4, 0x0, 0x0, 0x0, 0x0, false⟩,
  /- SEQ_TIME_STATUS RO R159 -/ ⟨0x048, 1, 4, 0x0, 0x0, 0x0, 0x0, false⟩,
  /- SEQ_SOL_PERIOD RWS R159 -/ ⟨0x04C, 1, 4, 0x186A0, 0x0, 0xFFFFFF, 0x0, false⟩,
  /- SEQ_SOL_GUARD RWS R159 -/ ⟨0x050, 1, 4, 0x3E8, 0x0, 0x1FFFF, 0x0, false⟩,
  /- SEQ_SOL_EPOCH_LO RWS R159 -/ ⟨0x054, 1, 4, 0x0, 0x0, 0xFFFFFFFF, 0x0, false⟩,
  /- SEQ_SOL_EPOCH_HI RWS R159 -/ ⟨0x058, 1, 4, 0x0, 0x0, 0xFFFFFFFF, 0x0, false⟩,
  /- SEQ_SOL_INDEX_LO RO R159 -/ ⟨0x05C, 1, 4, 0x0, 0x0, 0x0, 0x0, false⟩,
  /- SEQ_SOL_INDEX_HI RO R159 -/ ⟨0x060, 1, 4, 0x0, 0x0, 0x0, 0x0, false⟩,
  /- SEQ_OVERRUNS RO R159 -/ ⟨0x064, 1, 4, 0x0, 0x0, 0x0, 0x0, false⟩,
  /- SEQ_REPLAYS RO R159 -/ ⟨0x068, 1, 4, 0x0, 0x0, 0x0, 0x0, false⟩]

/-- Registers of a ALM page. -/
def rowsALM : List RegRow := [
  /- ALM_STATUS RO R724 -/ ⟨0x040, 1, 4, 0x0, 0x0, 0x0, 0x0, false⟩,
  /- ALM_CLASS RO R724 -/ ⟨0x044, 1, 4, 0x0, 0x0, 0x0, 0x0, false⟩,
  /- ALM_SEQ RO R724 -/ ⟨0x048, 1, 4, 0x0, 0x0, 0x0, 0x0, false⟩,
  /- ALM_TAB_SEL RW R724 -/ ⟨0x04C, 1, 4, 0x0, 0xFF0000FF, 0x0, 0x0, false⟩,
  /- ALM_TAB_DATA0-31 RO R724 -/ ⟨0x050, 32, 4, 0x0, 0x0, 0x0, 0x0, false⟩,
  /- ALM_SUBST WO R724 -/ ⟨0x0D0, 1, 4, 0x0, 0x0, 0x0, 0x0, false⟩,
  /- ALM_SUBST_STATUS RO R724 -/ ⟨0x0D4, 1, 4, 0x0, 0x0, 0x0, 0x0, false⟩,
  /- ALM_ACTION WO R724 -/ ⟨0x0D8, 1, 4, 0x0, 0x0, 0x0, 0x0, false⟩,
  /- ALM_REC_SEQ RO R724 -/ ⟨0x0DC, 1, 4, 0x0, 0x0, 0x0, 0x0, false⟩,
  /- ALM_REC_COUNT RO R724 -/ ⟨0x0E0, 1, 4, 0x0, 0x0, 0x0, 0x0, false⟩,
  /- ALM_FUSE_SITE0-4 RO R724 -/ ⟨0x0E4, 5, 4, 0x0, 0x0, 0x0, 0x0, false⟩,
  /- ALM_ST_SITE0-4 RO R724 -/ ⟨0x0F8, 5, 4, 0x0, 0x0, 0x0, 0x0, false⟩,
  /- ALM_USED0-4 RO R724 -/ ⟨0x10C, 5, 4, 0x0, 0x0, 0x0, 0x0, false⟩,
  /- ALM_FUSE_MISC RO R724 -/ ⟨0x120, 1, 4, 0x0, 0x0, 0x0, 0x0, false⟩,
  /- ALM_FUSE_SLICES RO R724 -/ ⟨0x124, 1, 4, 0x0, 0x0, 0x0, 0x0, false⟩,
  /- ALM_FW_MAN_LO RW R724 -/ ⟨0x140, 1, 4, 0x0, 0xFFFFFFFF, 0x0, 0x0, false⟩,
  /- ALM_FW_MAN_HI RW R724 -/ ⟨0x144, 1, 4, 0x0, 0xFFFFFFFF, 0x0, 0x0, false⟩,
  /- ALM_FW_MASK0-3 RW R724 -/ ⟨0x148, 3, 4, 0x0, 0xFFFFFFFF, 0x0, 0x0, false⟩,
  /- ALM_FW_MASK0-3 RW R724 -/ ⟨0x154, 1, 4, 0x0, 0xFFFFFF, 0x0, 0x0, false⟩,
  /- ALM_FW_PUSH_WAIT RW R724 -/ ⟨0x158, 1, 4, 0x7D0, 0xFFFFF, 0x0, 0x0, false⟩,
  /- ALM_FW_CMD WO R724 -/ ⟨0x15C, 1, 4, 0x0, 0x0, 0x0, 0x0, false⟩,
  /- ALM_FW_STATUS RO R724 -/ ⟨0x160, 1, 4, 0x0, 0x0, 0x0, 0x0, false⟩,
  /- ALM_FW_UNICAST0-3 RO R724 -/ ⟨0x164, 4, 4, 0x0, 0x0, 0x0, 0x0, false⟩,
  /- ALM_FW_FAIL0-3 RO R724 -/ ⟨0x174, 4, 4, 0x0, 0x0, 0x0, 0x0, false⟩,
  /- ALM_MAP0-29 RWS R724 -/ ⟨0x200, 30, 4, 0x0, 0x0, 0xFFFFFFFF, 0x0, false⟩]

/-- Registers of a ANN page. -/
def rowsANN : List RegRow := [
  /- ANN_STATUS RO R801 -/ ⟨0x040, 1, 4, 0x0, 0x0, 0x0, 0x0, false⟩,
  /- ANN_QUIET RW R801 -/ ⟨0x044, 1, 4, 0x3E8, 0x1FFFF, 0x0, 0x0, false⟩,
  /- ANN_CFG RW R801 -/ ⟨0x048, 1, 4, 0x0, 0x11F, 0x0, 0x0, false⟩,
  /- ANN_ACTION WO R801 -/ ⟨0x04C, 1, 4, 0x0, 0x0, 0x0, 0x0, false⟩,
  /- ANN_ALARMS RO R801 -/ ⟨0x050, 1, 4, 0x0, 0x0, 0x0, 0x0, false⟩,
  /- ANN_MSGS RO R801 -/ ⟨0x054, 1, 4, 0x0, 0x0, 0x0, 0x0, false⟩,
  /- ANN_COALESCED RO R801 -/ ⟨0x058, 1, 4, 0x0, 0x0, 0x0, 0x0, false⟩,
  /- ANN_OTHER RO R801 -/ ⟨0x05C, 1, 4, 0x0, 0x0, 0x0, 0x0, false⟩,
  /- ANN_RING_OVER RO R801 -/ ⟨0x060, 1, 4, 0x0, 0x0, 0x0, 0x0, false⟩,
  /- ANN_LOG_DROPS RO R801 -/ ⟨0x064, 1, 4, 0x0, 0x0, 0x0, 0x0, false⟩,
  /- ANN_TRACE_DROPS RO R801 -/ ⟨0x068, 1, 4, 0x0, 0x0, 0x0, 0x0, false⟩,
  /- ANN_INCIDENT RO R801 -/ ⟨0x06C, 1, 4, 0x0, 0x0, 0x0, 0x0, false⟩,
  /- ANN_INC_TIME_LO RO R801 -/ ⟨0x070, 1, 4, 0x0, 0x0, 0x0, 0x0, false⟩,
  /- ANN_INC_TIME_HI RO R801 -/ ⟨0x074, 1, 4, 0x0, 0x0, 0x0, 0x0, false⟩,
  /- ANN_ALARM_HEAD RO R801 -/ ⟨0x078, 1, 4, 0x20000, 0x0, 0x0, 0x0, false⟩,
  /- ANN_LOG_HEAD RO R801 -/ ⟨0x07C, 1, 4, 0x30000, 0x0, 0x0, 0x0, false⟩,
  /- ANN_TRACE_HEAD RO R801 -/ ⟨0x080, 1, 4, 0x3C000, 0x0, 0x0, 0x0, false⟩,
  /- ANN_TRACE_TAIL RW R801 -/ ⟨0x084, 1, 4, 0x3C000, 0x3FFFF, 0x0, 0x0, false⟩,
  /- ANN_WIN RW R801 -/ ⟨0x088, 1, 4, 0x0, 0x3FF80, 0x0, 0x0, false⟩,
  /- ANN_DUMP_LO RW R801 -/ ⟨0x08C, 1, 4, 0x0, 0xFFFFFFFF, 0x0, 0x0, false⟩,
  /- ANN_DUMP_HI RW R801 -/ ⟨0x090, 1, 4, 0x0, 0xFFFFFFFF, 0x0, 0x0, false⟩,
  /- ANN_DUMP_STATUS RO R801 -/ ⟨0x094, 1, 4, 0x0, 0x0, 0x0, 0x0, false⟩,
  /- ANN_DATA0-31 RO R801 -/ ⟨0x100, 32, 4, 0x0, 0x0, 0x0, 0x0, false⟩]

/-- Registers of a PWR page. -/
def rowsPWR : List RegRow := [
  /- PWR_STATUS RO R799 -/ ⟨0x040, 1, 4, 0x0, 0x0, 0x0, 0x0, false⟩,
  /- PWR_PLAN_LO RO R799 -/ ⟨0x044, 1, 4, 0x0, 0x0, 0x0, 0x0, false⟩,
  /- PWR_PLAN_HI RO R799 -/ ⟨0x048, 1, 4, 0x0, 0x0, 0x0, 0x0, false⟩,
  /- PWR_CAP RW R799 -/ ⟨0x04C, 1, 4, 0x0, 0x3FF, 0x0, 0x0, false⟩,
  /- PWR_CCLK RO R799 -/ ⟨0x050, 1, 4, 0x3E803E8, 0x0, 0x0, 0x0, false⟩,
  /- PWR_DUTY RO R799 -/ ⟨0x054, 1, 4, 0x0, 0x0, 0x0, 0x0, false⟩,
  /- PWR_POWER RO R799 -/ ⟨0x058, 1, 4, 0x0, 0x0, 0x0, 0x0, false⟩,
  /- PWR_DROOP_N RO R799 -/ ⟨0x05C, 1, 4, 0x0, 0x0, 0x0, 0x0, false⟩,
  /- PWR_DROOP_S RO R799 -/ ⟨0x060, 1, 4, 0x0, 0x0, 0x0, 0x0, false⟩,
  /- PWR_DROOP_MV RWS R799 -/ ⟨0x064, 1, 4, 0x1E, 0x0, 0x7F, 0x0, false⟩,
  /- PWR_THERM RWS R799 -/ ⟨0x068, 1, 4, 0x64, 0x0, 0x7F, 0x0, false⟩,
  /- PWR_TEMP_MAX RO R799 -/ ⟨0x06C, 1, 4, 0x0, 0x0, 0x0, 0x0, false⟩,
  /- PWR_TELEM RWS R799 -/ ⟨0x070, 1, 4, 0x80000064, 0x0, 0x800FFFFF, 0x0, false⟩,
  /- PWR_TELEM_SKIPS RO R799 -/ ⟨0x074, 1, 4, 0x0, 0x0, 0x0, 0x0, false⟩,
  /- PWR_PLAN_STALE RO R799 -/ ⟨0x078, 1, 4, 0x0, 0x0, 0x0, 0x0, false⟩,
  /- PWR_VF0-3 RO R799 -/ ⟨0x080, 4, 4, 0x0, 0x0, 0x0, 0x0, false⟩,
  /- PWR_RAIL0-6 RO R799 -/ ⟨0x090, 7, 4, 0x0, 0x0, 0x0, 0x0, false⟩,
  /- PWR_TEMP0-31 RO R799 -/ ⟨0x100, 32, 4, 0x0, 0x0, 0x0, 0x0, false⟩]

/-- Registers of a SEC page. -/
def rowsSEC : List RegRow := [
  /- SEC_STATUS RO R831 -/ ⟨0x040, 1, 4, 0x0, 0x0, 0x0, 0x0, false⟩,
  /- SEC_MAN_ACCEPTED RO R831 -/ ⟨0x044, 1, 4, 0x0, 0x0, 0x0, 0x0, false⟩,
  /- SEC_MAN_REFUSED RO R831 -/ ⟨0x048, 1, 4, 0x0, 0x0, 0x0, 0x0, false⟩,
  /- SEC_MAN_ERR W1C R831 -/ ⟨0x04C, 1, 4, 0x0, 0x0, 0x0, 0x80000000, false⟩,
  /- SEC_ATT_CMD WO R831 -/ ⟨0x050, 1, 4, 0x0, 0x0, 0x0, 0x0, false⟩,
  /- SEC_ATT_STATUS RO R831 -/ ⟨0x054, 1, 4, 0x0, 0x0, 0x0, 0x0, false⟩,
  /- SEC_ATT_ADDR_LO RW R831 -/ ⟨0x058, 1, 4, 0x0, 0xFFFFFFFF, 0x0, 0x0, false⟩,
  /- SEC_ATT_ADDR_HI RW R831 -/ ⟨0x05C, 1, 4, 0x0, 0xFFFFFFFF, 0x0, 0x0, false⟩,
  /- SEC_ATT_COUNT RO R831 -/ ⟨0x060, 1, 4, 0x0, 0x0, 0x0, 0x0, false⟩,
  /- SEC_NONCE0-7 RW R831 -/ ⟨0x080, 8, 4, 0x0, 0xFFFFFFFF, 0x0, 0x0, false⟩,
  /- SEC_DIE_ID0-3 RO R831 -/ ⟨0x0A0, 4, 4, 0x0, 0x0, 0x0, 0x0, false⟩,
  /- SEC_ROOT_HASH0-11 RO R831 -/ ⟨0x0B0, 12, 4, 0x0, 0x0, 0x0, 0x0, false⟩,
  /- SEC_PUBKEY0-23 RO R831 -/ ⟨0x100, 24, 4, 0x0, 0x0, 0x0, 0x0, false⟩,
  /- SEC_LOG0-127 RO R831 -/ ⟨0x200, 128, 4, 0x0, 0x0, 0x0, 0x0, false⟩,
  /- SEC_CORE_MAP0-29 RO R831 -/ ⟨0x400, 30, 4, 0xFFFFFFFF, 0x0, 0x0, 0x0, false⟩]

/-- Registers of a VGL page. -/
def rowsVGL : List RegRow := [
  /- VGL_WINDOW RWS R511 -/ ⟨0x040, 1, 4, 0x100000, 0x0, 0xFFFFFFFF, 0x0, false⟩,
  /- VGL_CFG RWS R511 -/ ⟨0x044, 1, 4, 0xFFFF, 0x0, 0x1FFFF, 0x0, false⟩,
  /- VGL_ALARMS RO R511 -/ ⟨0x048, 1, 4, 0x0, 0x0, 0x0, 0x0, false⟩,
  /- VGL_ABORTS RO R511 -/ ⟨0x04C, 1, 4, 0x0, 0x0, 0x0, 0x0, false⟩,
  /- VGL_LAST W1C R511 -/ ⟨0x050, 1, 4, 0x0, 0x0, 0x0, 0x80000000, false⟩,
  /- VGL_LAST_TIME_LO RO R511 -/ ⟨0x054, 1, 4, 0x0, 0x0, 0x0, 0x0, false⟩,
  /- VGL_LAST_TIME_HI RO R511 -/ ⟨0x058, 1, 4, 0x0, 0x0, 0x0, 0x0, false⟩,
  /- VGL_IDLE RO R511 -/ ⟨0x05C, 1, 4, 0x0, 0x0, 0x0, 0x0, false⟩]

/-- Registers of a TST page. -/
def rowsTST : List RegRow := [
  /- TST_IDCODE RO R832 -/ ⟨0x040, 1, 4, 0x0, 0x0, 0x0, 0x0, false⟩,
  /- TST_STATUS RO R832 -/ ⟨0x044, 1, 4, 0xF02, 0x0, 0x0, 0x0, false⟩,
  /- TST_SCANS RO R832 -/ ⟨0x048, 1, 4, 0x0, 0x0, 0x0, 0x0, false⟩,
  /- TST_CSA_COUNT RO R832 -/ ⟨0x04C, 1, 4, 0x0, 0x0, 0x0, 0x0, false⟩,
  /- TST_TEST_DROPS RO R832 -/ ⟨0x050, 1, 4, 0x0, 0x0, 0x0, 0x0, false⟩]

/-- Registers of a TWN page. -/
def rowsTWN : List RegRow := [
  /- TWN_PEER RWS R758 -/ ⟨0x040, 1, 4, 0x0, 0x0, 0x80000FFF, 0x0, false⟩,
  /- TWN_CFG RWS R758 -/ ⟨0x044, 1, 4, 0x0, 0x0, 0xFFFF000F, 0x0, false⟩,
  /- TWN_EPOCH RWS R758 -/ ⟨0x048, 1, 4, 0x0, 0x0, 0xFFFFFFFF, 0x0, false⟩,
  /- TWN_STAGE_LO RWS R758 -/ ⟨0x04C, 1, 4, 0x0, 0x0, 0xFFFFFFFF, 0x0, false⟩,
  /- TWN_STAGE_HI RWS R758 -/ ⟨0x050, 1, 4, 0x0, 0x0, 0xFFFF, 0x0, false⟩,
  /- TWN_STAGE_MIB RWS R758 -/ ⟨0x054, 1, 4, 0x400, 0x0, 0x7FFF, 0x0, false⟩,
  /- TWN_LOSS_US RWS R758 -/ ⟨0x058, 1, 4, 0x3E8, 0x0, 0xFFFFF, 0x0, false⟩,
  /- TWN_DIGEST_US RWS R758 -/ ⟨0x05C, 1, 4, 0x3E8, 0x0, 0xFFFFF, 0x0, false⟩,
  /- TWN_CARRY0-3 RWS R758 -/ ⟨0x060, 4, 4, 0x0, 0x0, 0xE1FFFFFF, 0x0, false⟩,
  /- TWN_STATUS RO R758 -/ ⟨0x070, 1, 4, 0x0, 0x0, 0x0, 0x0, false⟩,
  /- TWN_PSEL RW R758 -/ ⟨0x074, 1, 4, 0x0, 0xF, 0x0, 0x0, false⟩,
  /- TWN_PSEQ_LO RO R758 -/ ⟨0x078, 1, 4, 0x0, 0x0, 0x0, 0x0, false⟩,
  /- TWN_PSEQ_HI RO R758 -/ ⟨0x07C, 1, 4, 0x0, 0x0, 0x0, 0x0, false⟩,
  /- TWN_DIVERGED W1C R758 -/ ⟨0x080, 1, 4, 0x0, 0x0, 0x0, 0xFFFF, false⟩,
  /- TWN_TAKE_MASK RW R758 -/ ⟨0x084, 1, 4, 0x0, 0xFFFF, 0x0, 0x0, false⟩,
  /- TWN_ACTION WO R758 -/ ⟨0x088, 1, 4, 0x0, 0x0, 0x0, 0x0, false⟩,
  /- TWN_ACTION_STATUS RO R758 -/ ⟨0x08C, 1, 4, 0x0, 0x0, 0x0, 0x0, false⟩,
  /- TWN_MOVED_MIB RO R758 -/ ⟨0x090, 1, 4, 0x0, 0x0, 0x0, 0x0, false⟩,
  /- TWN_FOSTER RW R758 -/ ⟨0x094, 1, 4, 0x0, 0x8FFF0FFF, 0x0, 0x0, false⟩,
  /- TWN_FOSTER_H RW R758 -/ ⟨0x098, 1, 4, 0x0, 0xFFFFFFFF, 0x0, 0x0, false⟩,
  /- TWN_SHIPS RO R758 -/ ⟨0x09C, 1, 4, 0x0, 0x0, 0x0, 0x0, false⟩,
  /- TWN_MR0-7 RWS R758 -/ ⟨0x0A0, 8, 8, 0x0, 0x0, 0x87FFFFFF, 0x0, false⟩,
  /- TWN_MR0-7 RWS R758 -/ ⟨0x0A4, 8, 8, 0x0, 0x0, 0xF003FFFF, 0x0, false⟩]

/-- Registers of a PTN page. -/
def rowsPTN : List RegRow := [
  /- PTN_MASK0 RWS R161 -/ ⟨0x040, 1, 4, 0x0, 0x0, 0xFFFFFFFF, 0x0, false⟩,
  /- PTN_MASK1 RWS R161 -/ ⟨0x044, 1, 4, 0x0, 0x0, 0xFFFFFFFF, 0x0, false⟩,
  /- PTN_MASK2 RWS R161 -/ ⟨0x048, 1, 4, 0x0, 0x0, 0xFFFFFFFF, 0x0, false⟩,
  /- PTN_MASK3 RWS R161 -/ ⟨0x04C, 1, 4, 0x0, 0x0, 0xFFFFFF, 0x0, false⟩,
  /- PTN_TIMING RWS R161 -/ ⟨0x050, 1, 4, 0x1, 0x0, 0xFF0001FF, 0x0, false⟩,
  /- PTN_PHASE RWS R161 -/ ⟨0x054, 1, 4, 0x0, 0x0, 0xFFFFFF, 0x0, false⟩,
  /- PTN_SCHED_MHZ RWS R161 -/ ⟨0x058, 1, 4, 0x0, 0x0, 0xFFF, 0x0, false⟩,
  /- PTN_CFG RWS R161 -/ ⟨0x05C, 1, 4, 0x200, 0x0, 0xFF03, 0x0, false⟩,
  /- PTN_AUTO_MASK RWS R161 -/ ⟨0x060, 1, 4, 0x1800, 0x0, 0xFFF0F, 0x0, false⟩,
  /- PTN_ACTION WO R161 -/ ⟨0x064, 1, 4, 0x0, 0x0, 0x0, 0x0, false⟩,
  /- PTN_ACTION_STATUS RO R161 -/ ⟨0x068, 1, 4, 0x0, 0x0, 0x0, 0x0, false⟩,
  /- PTN_DUMP_ADDR_LO RW R161 -/ ⟨0x06C, 1, 4, 0x0, 0xFFFFFFFF, 0x0, 0x0, false⟩,
  /- PTN_DUMP_ADDR_HI RW R161 -/ ⟨0x070, 1, 4, 0x0, 0xFFFFFFFF, 0x0, 0x0, false⟩,
  /- PTN_SOL_SEQ_LO RO R161 -/ ⟨0x074, 1, 4, 0x0, 0x0, 0x0, 0x0, false⟩,
  /- PTN_SOL_SEQ_HI RO R161 -/ ⟨0x078, 1, 4, 0x0, 0x0, 0x0, 0x0, false⟩,
  /- PTN_SNAP_STATUS RO R161 -/ ⟨0x07C, 1, 4, 0x0, 0x0, 0x0, 0x0, false⟩,
  /- PTN_LAST_END RO R161 -/ ⟨0x080, 1, 4, 0x0, 0x0, 0x0, 0x0, false⟩,
  /- PTN_MIN_SLACK RC R161 -/ ⟨0x084, 1, 4, 0x3FFFFFFF, 0x0, 0x0, 0x0, true⟩,
  /- PTN_OVR RO R161 -/ ⟨0x088, 1, 4, 0x0, 0x0, 0x0, 0x0, false⟩,
  /- PTN_AUTO_LEFT RO R161 -/ ⟨0x08C, 1, 4, 0x0, 0x0, 0x0, 0x0, false⟩,
  /- PTN_REPLAYS RO R161 -/ ⟨0x090, 1, 4, 0x0, 0x0, 0x0, 0x0, false⟩]

/-- Registers of a CAL page. -/
def rowsCAL : List RegRow := [
  /- CAL_FORCE WO R507 -/ ⟨0x040, 1, 4, 0x0, 0x0, 0x0, 0x0, false⟩,
  /- CAL_XARRIVE WO R507 -/ ⟨0x044, 1, 4, 0x0, 0x0, 0x0, 0x0, false⟩,
  /- CAL_CLEAR WO R507 -/ ⟨0x048, 1, 4, 0x0, 0x0, 0x0, 0x0, false⟩,
  /- CAL_MISUSE W1C R507 -/ ⟨0x04C, 1, 4, 0x0, 0x0, 0x0, 0xFFFF, false⟩,
  /- CAL_FAULTED RO R507 -/ ⟨0x050, 1, 4, 0x0, 0x0, 0x0, 0x0, false⟩,
  /- CAL_FORCED RO R507 -/ ⟨0x054, 1, 4, 0x0, 0x0, 0x0, 0x0, false⟩,
  /- CAL_STALE RO R507 -/ ⟨0x058, 1, 4, 0x0, 0x0, 0x0, 0x0, false⟩,
  /- CAL_QUIET RWS R507 -/ ⟨0x05C, 1, 4, 0x4E20, 0x0, 0x1FFFF, 0x0, false⟩]

/-- Registers of a COR page. -/
def rowsCOR : List RegRow := [
  /- COR_SCRIPT_ADDR_LO RW R410 -/ ⟨0x040, 1, 4, 0x0, 0xFFFFFFFF, 0x0, 0x0, false⟩,
  /- COR_SCRIPT_ADDR_HI RW R410 -/ ⟨0x044, 1, 4, 0x0, 0xFFFFFFFF, 0x0, 0x0, false⟩,
  /- COR_ID RO R410 -/ ⟨0x048, 1, 4, 0x0, 0x0, 0x0, 0x0, false⟩,
  /- COR_SPAD RO R410 -/ ⟨0x04C, 1, 4, 0x0, 0x0, 0x0, 0x0, false⟩,
  /- COR_STREAM RO R410 -/ ⟨0x050, 1, 4, 0x0, 0x0, 0x0, 0x0, false⟩,
  /- COR_STEPS RO R410 -/ ⟨0x054, 1, 4, 0x0, 0x0, 0x0, 0x0, false⟩,
  /- COR_FROZEN_CC RC R410 -/ ⟨0x058, 1, 4, 0x0, 0x0, 0x0, 0x0, true⟩,
  /- COR_ERR W1C R410 -/ ⟨0x05C, 1, 4, 0x0, 0x0, 0x0, 0x80000000, false⟩,
  /- COR_ASYNC_GUARD RWS R410 -/ ⟨0x060, 1, 4, 0x10, 0x0, 0x3F, 0x0, false⟩,
  /- COR_MIGRATE WO R410 -/ ⟨0x064, 1, 4, 0x0, 0x0, 0x0, 0x0, false⟩,
  /- COR_MIG_STATUS RO R410 -/ ⟨0x068, 1, 4, 0x0, 0x0, 0x0, 0x0, false⟩]

/-- Registers of a MXA page. -/
def rowsMXA : List RegRow := [
  /- MXA_REPAIR RWS R277 -/ ⟨0x040, 1, 4, 0x0, 0x0, 0x9F00803F, 0x0, false⟩,
  /- MXA_CHK_TOL RWS R277 -/ ⟨0x044, 1, 4, 0x40, 0x0, 0xFFF, 0x0, false⟩,
  /- MXA_HARD_LIMIT RWS R277 -/ ⟨0x048, 1, 4, 0x2, 0x0, 0xF, 0x0, false⟩,
  /- MXA_SEED RWS R277 -/ ⟨0x04C, 1, 4, 0x13572468, 0x0, 0xFFFFFFFF, 0x0, false⟩,
  /- MXA_STATUS RO R277 -/ ⟨0x050, 1, 4, 0x0, 0x0, 0x0, 0x0, false⟩,
  /- MXA_FLAGS RO R277 -/ ⟨0x054, 1, 4, 0x0, 0x0, 0x0, 0x0, false⟩,
  /- MXA_CHK_COUNT RO R277 -/ ⟨0x058, 1, 4, 0x0, 0x0, 0x0, 0x0, false⟩,
  /- MXA_CHK_ROW W1C R277 -/ ⟨0x05C, 1, 4, 0x0, 0x0, 0x0, 0x80000000, false⟩,
  /- MXA_CHK_ROW_AT RO R277 -/ ⟨0x060, 1, 4, 0x0, 0x0, 0x0, 0x0, false⟩,
  /- MXA_CHK_COL W1C R277 -/ ⟨0x064, 1, 4, 0x0, 0x0, 0x0, 0x80000000, false⟩,
  /- MXA_CHK_COL_AT RO R277 -/ ⟨0x068, 1, 4, 0x0, 0x0, 0x0, 0x0, false⟩,
  /- MXA_CKR_SKIPS RO R277 -/ ⟨0x06C, 1, 4, 0x0, 0x0, 0x0, 0x0, false⟩,
  /- MXA_NF_SKIPS RO R277 -/ ⟨0x070, 1, 4, 0x0, 0x0, 0x0, 0x0, false⟩,
  /- MXA_HARD_RUN RO R277 -/ ⟨0x074, 1, 4, 0x0, 0x0, 0x0, 0x0, false⟩,
  /- MXA_BIST_ROWS RO R277 -/ ⟨0x078, 1, 4, 0x0, 0x0, 0x0, 0x0, false⟩,
  /- MXA_BIST_COLS RO R277 -/ ⟨0x07C, 1, 4, 0x0, 0x0, 0x0, 0x0, false⟩,
  /- MXA_BIST_MISC RO R277 -/ ⟨0x080, 1, 4, 0x0, 0x0, 0x0, 0x0, false⟩,
  /- MXA_ACTION WO R277 -/ ⟨0x084, 1, 4, 0x0, 0x0, 0x0, 0x0, false⟩]

/-- Registers of a VEC page. -/
def rowsVEC : List RegRow := [
  /- VEC_SEED RWS R366 -/ ⟨0x040, 1, 4, 0x24681357, 0x0, 0xFFFFFFFF, 0x0, false⟩,
  /- VEC_STATUS RO R366 -/ ⟨0x044, 1, 4, 0x0, 0x0, 0x0, 0x0, false⟩,
  /- VEC_FLAGS RO R366 -/ ⟨0x048, 1, 4, 0x0, 0x0, 0x0, 0x0, false⟩,
  /- VEC_EMPTY RO R366 -/ ⟨0x04C, 1, 4, 0x0, 0x0, 0x0, 0x0, false⟩,
  /- VEC_OOR RO R366 -/ ⟨0x050, 1, 4, 0x0, 0x0, 0x0, 0x0, false⟩,
  /- VEC_ERR W1C R366 -/ ⟨0x054, 1, 4, 0x0, 0x0, 0x0, 0x80000000, false⟩]

/-- Registers of a GTH page. -/
def rowsGTH : List RegRow := [
  /- GTH_QUEUE RO R414 -/ ⟨0x040, 1, 4, 0x0, 0x0, 0x0, 0x0, false⟩,
  /- GTH_BAGS RO R414 -/ ⟨0x044, 1, 4, 0x0, 0x0, 0x0, 0x0, false⟩,
  /- GTH_ROWS RO R414 -/ ⟨0x048, 1, 4, 0x0, 0x0, 0x0, 0x0, false⟩,
  /- GTH_OOR RO R414 -/ ⟨0x04C, 1, 4, 0x0, 0x0, 0x0, 0x0, false⟩,
  /- GTH_EMPTY RO R414 -/ ⟨0x050, 1, 4, 0x0, 0x0, 0x0, 0x0, false⟩,
  /- GTH_BADOFF RO R414 -/ ⟨0x054, 1, 4, 0x0, 0x0, 0x0, 0x0, false⟩,
  /- GTH_FLAGS RO R414 -/ ⟨0x058, 1, 4, 0x0, 0x0, 0x0, 0x0, false⟩,
  /- GTH_ERR W1C R414 -/ ⟨0x05C, 1, 4, 0x0, 0x0, 0x0, 0x80000000, false⟩]

/-- Registers of a MOV page. -/
def rowsMOV : List RegRow := [
  /- MOV_QUEUE RO R412 -/ ⟨0x040, 1, 4, 0x0, 0x0, 0x0, 0x0, false⟩,
  /- MOV_OUTSTANDING RO R412 -/ ⟨0x044, 1, 4, 0x0, 0x0, 0x0, 0x0, false⟩,
  /- MOV_PEAK RC R412 -/ ⟨0x048, 1, 4, 0x0, 0x0, 0x0, 0x0, true⟩,
  /- MOV_DONE0 RO R412 -/ ⟨0x04C, 1, 4, 0x0, 0x0, 0x0, 0x0, false⟩,
  /- MOV_DONE1 RO R412 -/ ⟨0x050, 1, 4, 0x0, 0x0, 0x0, 0x0, false⟩,
  /- MOV_ERRORS RO R412 -/ ⟨0x054, 1, 4, 0x0, 0x0, 0x0, 0x0, false⟩,
  /- MOV_MC_MISSES RO R412 -/ ⟨0x058, 1, 4, 0x0, 0x0, 0x0, 0x0, false⟩,
  /- MOV_ERR W1C R412 -/ ⟨0x05C, 1, 4, 0x0, 0x0, 0x0, 0x80000000, false⟩,
  /- MOV_ERR_ADDR_LO RO R412 -/ ⟨0x060, 1, 4, 0x0, 0x0, 0x0, 0x0, false⟩,
  /- MOV_ERR_ADDR_HI RO R412 -/ ⟨0x064, 1, 4, 0x0, 0x0, 0x0, 0x0, false⟩,
  /- MOV_DESC_ERR W1C R412 -/ ⟨0x068, 1, 4, 0x0, 0x0, 0x0, 0x80000000, false⟩]

/-- Registers of a SIG page. -/
def rowsSIG : List RegRow := [
  /- SIG_COUNT0-31 RO R416 -/ ⟨0x040, 32, 4, 0x0, 0x0, 0x0, 0x0, false⟩,
  /- SIG_SAT W1C R416 -/ ⟨0x0C0, 1, 4, 0x0, 0x0, 0x0, 0xFFFFFFFF, false⟩,
  /- SIG_WAITING RO R416 -/ ⟨0x0C4, 1, 4, 0x0, 0x0, 0x0, 0x0, false⟩]

/-- Registers of a SLC page. -/
def rowsSLC : List RegRow := [
  /- SLC_BIND RWS R567 -/ ⟨0x040, 1, 4, 0x0, 0x0, 0x8000003F, 0x0, false⟩,
  /- SLC_HOME RWS R567 -/ ⟨0x044, 1, 4, 0x100010, 0x0, 0xFF00FF, 0x0, false⟩,
  /- SLC_SIDE RO R567 -/ ⟨0x048, 1, 4, 0x0, 0x0, 0x0, 0x0, false⟩,
  /- SLC_REQS RO R567 -/ ⟨0x04C, 1, 4, 0x0, 0x0, 0x0, 0x0, false⟩,
  /- SLC_ERRORS RO R567 -/ ⟨0x050, 1, 4, 0x0, 0x0, 0x0, 0x0, false⟩,
  /- SLC_ERR W1C R567 -/ ⟨0x054, 1, 4, 0x0, 0x0, 0x0, 0x80000000, false⟩,
  /- SLC_ERR_ADDR_LO RO R567 -/ ⟨0x058, 1, 4, 0x0, 0x0, 0x0, 0x0, false⟩,
  /- SLC_ERR_ADDR_HI RO R567 -/ ⟨0x05C, 1, 4, 0x0, 0x0, 0x0, 0x0, false⟩,
  /- SLC_DIR_USED RO R567 -/ ⟨0x060, 1, 4, 0x0, 0x0, 0x0, 0x0, false⟩,
  /- SLC_DIR_EVICT RO R567 -/ ⟨0x064, 1, 4, 0x0, 0x0, 0x0, 0x0, false⟩,
  /- SLC_INV_SENT RO R567 -/ ⟨0x068, 1, 4, 0x0, 0x0, 0x0, 0x0, false⟩,
  /- SLC_GLAZE_BAD RO R567 -/ ⟨0x06C, 1, 4, 0x0, 0x0, 0x0, 0x0, false⟩,
  /- SLC_TILE_ABORT RO R567 -/ ⟨0x070, 1, 4, 0x0, 0x0, 0x0, 0x0, false⟩,
  /- SLC_GRT0-63 RW R567 -/ ⟨0x400, 64, 8, 0x0, 0x7FFFFFF, 0x0, 0x0, false⟩,
  /- SLC_GRT0-63 RW R567 -/ ⟨0x404, 64, 8, 0x0, 0x8003FFFF, 0x0, 0x0, false⟩]

/-- Registers of a LVN page. -/
def rowsLVN : List RegRow := [
  /- LVN_GTAB_LO RWS R604 -/ ⟨0x040, 1, 4, 0x0, 0x0, 0xFFFFFFFF, 0x0, false⟩,
  /- LVN_GTAB_HI RWS R604 -/ ⟨0x044, 1, 4, 0x0, 0x0, 0xFFFF, 0x0, false⟩,
  /- LVN_GROUPS RWS R604 -/ ⟨0x048, 1, 4, 0x1000, 0x0, 0x1FFF, 0x0, false⟩,
  /- LVN_PIVOT_MIN RWS R604 -/ ⟨0x04C, 1, 4, 0x2B800000, 0x0, 0xFFFFFFFF, 0x0, false⟩,
  /- LVN_STAGE_WAYS RWS R604 -/ ⟨0x050, 1, 4, 0xF0, 0x0, 0xFFFF, 0x0, false⟩,
  /- LVN_CFG RWS R604 -/ ⟨0x054, 1, 4, 0x0, 0x0, 0x1, 0x0, false⟩,
  /- LVN_STAGED RO R604 -/ ⟨0x058, 1, 4, 0x0, 0x0, 0x0, 0x0, false⟩,
  /- LVN_READY RO R604 -/ ⟨0x05C, 1, 4, 0x0, 0x0, 0x0, 0x0, false⟩,
  /- LVN_APPLIED RO R604 -/ ⟨0x060, 1, 4, 0x0, 0x0, 0x0, 0x0, false⟩,
  /- LVN_FROZEN_DROPS RO R604 -/ ⟨0x064, 1, 4, 0x0, 0x0, 0x0, 0x0, false⟩,
  /- LVN_DISCARDS RO R604 -/ ⟨0x068, 1, 4, 0x0, 0x0, 0x0, 0x0, false⟩,
  /- LVN_SPLITS RO R604 -/ ⟨0x06C, 1, 4, 0x0, 0x0, 0x0, 0x0, false⟩,
  /- LVN_NONFINITE RO R604 -/ ⟨0x070, 1, 4, 0x0, 0x0, 0x0, 0x0, false⟩,
  /- LVN_DAMPED RO R604 -/ ⟨0x074, 1, 4, 0x0, 0x0, 0x0, 0x0, false⟩,
  /- LVN_FALLBACKS RO R604 -/ ⟨0x078, 1, 4, 0x0, 0x0, 0x0, 0x0, false⟩,
  /- LVN_DUPS RO R604 -/ ⟨0x07C, 1, 4, 0x0, 0x0, 0x0, 0x0, false⟩,
  /- LVN_FLAGS W1C R604 -/ ⟨0x080, 1, 4, 0x0, 0x0, 0x0, 0xF, false⟩,
  /- LVN_FULL_BC RC R604 -/ ⟨0x084, 1, 4, 0x0, 0x0, 0x0, 0x0, true⟩,
  /- LVN_ERRS RO R604 -/ ⟨0x088, 1, 4, 0x0, 0x0, 0x0, 0x0, false⟩,
  /- LVN_ERR W1C R604 -/ ⟨0x08C, 1, 4, 0x0, 0x0, 0x0, 0x80000000, false⟩,
  /- LVN_ERR_ADDR_LO RO R604 -/ ⟨0x090, 1, 4, 0x0, 0x0, 0x0, 0x0, false⟩,
  /- LVN_ERR_ADDR_HI RO R604 -/ ⟨0x094, 1, 4, 0x0, 0x0, 0x0, 0x0, false⟩,
  /- LVN_LAST_NS RO R604 -/ ⟨0x098, 1, 4, 0x0, 0x0, 0x0, 0x0, false⟩]

/-- Registers of a MED page. -/
def rowsMED : List RegRow := [
  /- MED_ROLE RO R571 -/ ⟨0x040, 1, 4, 0x0, 0x0, 0x0, 0x0, false⟩,
  /- MED_TEMP RO R571 -/ ⟨0x044, 1, 4, 0x0, 0x0, 0x0, 0x0, false⟩,
  /- MED_REFRESH RWS R571 -/ ⟨0x048, 1, 4, 0x550F3C, 0x0, 0x7F0FFF, 0x0, false⟩,
  /- MED_TRR RWS R571 -/ ⟨0x04C, 1, 4, 0x800, 0x0, 0xFFFF, 0x0, false⟩,
  /- MED_SCRUB RWS R571 -/ ⟨0x050, 1, 4, 0x80000018, 0x0, 0x800003FF, 0x0, false⟩,
  /- MED_CE_LIMIT RWS R571 -/ ⟨0x054, 1, 4, 0x4, 0x0, 0xFF, 0x0, false⟩,
  /- MED_CE RO R571 -/ ⟨0x058, 1, 4, 0x0, 0x0, 0x0, 0x0, false⟩,
  /- MED_UE RO R571 -/ ⟨0x05C, 1, 4, 0x0, 0x0, 0x0, 0x0, false⟩,
  /- MED_REMAP_USED RO R571 -/ ⟨0x060, 1, 4, 0x0, 0x0, 0x0, 0x0, false⟩,
  /- MED_SCRUB_POS RO R571 -/ ⟨0x064, 1, 4, 0x0, 0x0, 0x0, 0x0, false⟩,
  /- MED_SCRUB_PASSES RO R571 -/ ⟨0x068, 1, 4, 0x0, 0x0, 0x0, 0x0, false⟩,
  /- MED_KEEP_CMD WO R571 -/ ⟨0x06C, 1, 4, 0x0, 0x0, 0x0, 0x0, false⟩,
  /- MED_KEEP_DRAM RW R571 -/ ⟨0x070, 1, 4, 0x0, 0x3FFFFF, 0x0, 0x0, false⟩,
  /- MED_KEEP_BLOCK RW R571 -/ ⟨0x074, 1, 4, 0x0, 0x3FFFF, 0x0, 0x0, false⟩,
  /- MED_KEEP_COUNT RW R571 -/ ⟨0x078, 1, 4, 0x0, 0x3FFFF, 0x0, 0x0, false⟩,
  /- MED_KEEP_STATUS RO R571 -/ ⟨0x07C, 1, 4, 0x0, 0x0, 0x0, 0x0, false⟩,
  /- MED_KEEP_ERRS RO R571 -/ ⟨0x080, 1, 4, 0x0, 0x0, 0x0, 0x0, false⟩,
  /- MED_KEEP_FREE RO R571 -/ ⟨0x084, 1, 4, 0x0, 0x0, 0x0, 0x0, false⟩,
  /- MED_KEEP_MAXW RO R571 -/ ⟨0x088, 1, 4, 0x0, 0x0, 0x0, 0x0, false⟩,
  /- MED_KEEP_AGE RWS R571 -/ ⟨0x08C, 1, 4, 0x5A, 0x0, 0xFFFF, 0x0, false⟩,
  /- MED_TAKEOVERS RO R571 -/ ⟨0x090, 1, 4, 0x0, 0x0, 0x0, 0x0, false⟩]

/-- Registers of a CCH page. -/
def rowsCCH : List RegRow := [
  /- CCH_WAYMASK RWS R570 -/ ⟨0x040, 1, 4, 0xF, 0x0, 0xFFFF, 0x0, false⟩,
  /- CCH_HOME_HITS RO R570 -/ ⟨0x044, 1, 4, 0x0, 0x0, 0x0, 0x0, false⟩,
  /- CCH_HOME_MISSES RO R570 -/ ⟨0x048, 1, 4, 0x0, 0x0, 0x0, 0x0, false⟩,
  /- CCH_REMOTE_HITS RO R570 -/ ⟨0x04C, 1, 4, 0x0, 0x0, 0x0, 0x0, false⟩,
  /- CCH_REMOTE_MISSES RO R570 -/ ⟨0x050, 1, 4, 0x0, 0x0, 0x0, 0x0, false⟩,
  /- CCH_REMOTE_LINES RO R570 -/ ⟨0x054, 1, 4, 0x0, 0x0, 0x0, 0x0, false⟩,
  /- CCH_INV_RCVD RO R570 -/ ⟨0x058, 1, 4, 0x0, 0x0, 0x0, 0x0, false⟩,
  /- CCH_FILL_DROPS RO R570 -/ ⟨0x05C, 1, 4, 0x0, 0x0, 0x0, 0x0, false⟩,
  /- CCH_WAY_FAIL RO R570 -/ ⟨0x060, 1, 4, 0x0, 0x0, 0x0, 0x0, false⟩]

/-- Registers of a LNK page. -/
def rowsLNK : List RegRow := [
  /- LNK_STATUS RO R681 -/ ⟨0x040, 1, 4, 0x0, 0x0, 0x0, 0x0, false⟩,
  /- LNK_FAR RO R681 -/ ⟨0x044, 1, 4, 0x0, 0x0, 0x0, 0x0, false⟩,
  /- LNK_SPARES RO R681 -/ ⟨0x048, 1, 4, 0x0, 0x0, 0x0, 0x0, false⟩,
  /- LNK_RX_FAILED RO R681 -/ ⟨0x04C, 1, 4, 0x0, 0x0, 0x0, 0x0, false⟩,
  /- LNK_TX_FAILED RO R681 -/ ⟨0x050, 1, 4, 0x0, 0x0, 0x0, 0x0, false⟩,
  /- LNK_LANE_LIMIT RWS R681 -/ ⟨0x054, 1, 4, 0x40, 0x0, 0xFFFF, 0x0, false⟩,
  /- LNK_LANE_WINDOW RWS R681 -/ ⟨0x058, 1, 4, 0x64, 0x0, 0x3FFF, 0x0, false⟩,
  /- LNK_ACK_TIMEOUT RWS R681 -/ ⟨0x05C, 1, 4, 0x3E8, 0x0, 0xFFFF, 0x0, false⟩,
  /- LNK_DEAD_NS RWS R681 -/ ⟨0x060, 1, 4, 0x7D0, 0x0, 0xFFFF, 0x0, false⟩,
  /- LNK_DELAY_NS RO R681 -/ ⟨0x064, 1, 4, 0x0, 0x0, 0x0, 0x0, false⟩,
  /- LNK_ACTION WO R681 -/ ⟨0x068, 1, 4, 0x0, 0x0, 0x0, 0x0, false⟩,
  /- LNK_RETRAINS RO R681 -/ ⟨0x06C, 1, 4, 0x0, 0x0, 0x0, 0x0, false⟩,
  /- LNK_TXN_TIMEOUT RW R681 -/ ⟨0x070, 1, 4, 0x186A0, 0x7FFFFFF, 0x0, 0x0, false⟩,
  /- LNK_TRAIN_LIMIT RWS R681 -/ ⟨0x074, 1, 4, 0x2710, 0x0, 0xFFFF, 0x0, false⟩,
  /- LNK_STAGE_LOG W1C R681 -/ ⟨0x078, 1, 4, 0x0, 0x0, 0x0, 0x80000000, false⟩]

/-- Registers of a LST page. -/
def rowsLST : List RegRow := [
  /- LST_LANE_ERR0-17 RO R684 -/ ⟨0x040, 18, 4, 0x0, 0x0, 0x0, 0x0, false⟩,
  /- LST_CRC_ERRS RO R684 -/ ⟨0x088, 1, 4, 0x0, 0x0, 0x0, 0x0, false⟩,
  /- LST_RETRIES RO R684 -/ ⟨0x08C, 1, 4, 0x0, 0x0, 0x0, 0x0, false⟩,
  /- LST_FEC_CORR RO R684 -/ ⟨0x090, 1, 4, 0x0, 0x0, 0x0, 0x0, false⟩,
  /- LST_FEC_UNCORR RO R684 -/ ⟨0x094, 1, 4, 0x0, 0x0, 0x0, 0x0, false⟩,
  /- LST_FRAMES_TX RO R684 -/ ⟨0x098, 1, 4, 0x0, 0x0, 0x0, 0x0, false⟩,
  /- LST_FRAMES_RX RO R684 -/ ⟨0x09C, 1, 4, 0x0, 0x0, 0x0, 0x0, false⟩,
  /- LST_EYE0-17 RO R684 -/ ⟨0x0A0, 18, 4, 0x0, 0x0, 0x0, 0x0, false⟩]

/-- Registers of a LKG page. -/
def rowsLKG : List RegRow := [
  /- LKG_STATUS RO R685 -/ ⟨0x040, 1, 4, 0x0, 0x0, 0x0, 0x0, false⟩,
  /- LKG_FAR RO R685 -/ ⟨0x044, 1, 4, 0x0, 0x0, 0x0, 0x0, false⟩,
  /- LKG_REACH RO R685 -/ ⟨0x048, 1, 4, 0x0, 0x0, 0x0, 0x0, false⟩,
  /- LKG_HANDOVERS RO R685 -/ ⟨0x04C, 1, 4, 0x0, 0x0, 0x0, 0x0, false⟩,
  /- LKG_DRAIN_LOST RO R685 -/ ⟨0x050, 1, 4, 0x0, 0x0, 0x0, 0x0, false⟩,
  /- LKG_LATE RO R685 -/ ⟨0x054, 1, 4, 0x0, 0x0, 0x0, 0x0, false⟩,
  /- LKG_TIMEOUTS RO R685 -/ ⟨0x058, 1, 4, 0x0, 0x0, 0x0, 0x0, false⟩,
  /- LKG_DISCARDS RO R685 -/ ⟨0x05C, 1, 4, 0x0, 0x0, 0x0, 0x0, false⟩,
  /- LKG_RELAYED RO R685 -/ ⟨0x060, 1, 4, 0x0, 0x0, 0x0, 0x0, false⟩,
  /- LKG_DRAIN_US RWS R685 -/ ⟨0x064, 1, 4, 0x64, 0x0, 0x3FFF, 0x0, false⟩,
  /- LKG_ERR W1C R685 -/ ⟨0x068, 1, 4, 0x0, 0x0, 0x0, 0x80000000, false⟩]

/-- Registers of a DBL page. -/
def rowsDBL : List RegRow := [
  /- DBL_RTAB_LO RWS R627 -/ ⟨0x040, 1, 4, 0x0, 0x0, 0xFFFFFFFF, 0x0, false⟩,
  /- DBL_RTAB_HI RWS R627 -/ ⟨0x044, 1, 4, 0x0, 0x0, 0xFFFF, 0x0, false⟩,
  /- DBL_STAGED RO R627 -/ ⟨0x048, 1, 4, 0x0, 0x0, 0x0, 0x0, false⟩,
  /- DBL_REFUSED RO R627 -/ ⟨0x04C, 1, 4, 0x0, 0x0, 0x0, 0x0, false⟩,
  /- DBL_ERR W1C R627 -/ ⟨0x050, 1, 4, 0x0, 0x0, 0x0, 0x80000000, false⟩,
  /- DBL_NOTICES RO R627 -/ ⟨0x054, 1, 4, 0x0, 0x0, 0x0, 0x0, false⟩,
  /- DBL_MSG_SENT RO R627 -/ ⟨0x058, 1, 4, 0x0, 0x0, 0x0, 0x0, false⟩,
  /- DBL_MSG_RCVD RO R627 -/ ⟨0x05C, 1, 4, 0x0, 0x0, 0x0, 0x0, false⟩,
  /- DBL_ENABLE0-3 RW R627 -/ ⟨0x060, 4, 4, 0x0, 0xFFFFFFFF, 0x0, 0x0, false⟩,
  /- DBL_STAGE_FULL RC R627 -/ ⟨0x070, 1, 4, 0x0, 0x0, 0x0, 0x0, true⟩,
  /- DBL_ENABLE4-7 RW R627 -/ ⟨0x074, 4, 4, 0x0, 0xFFFFFFFF, 0x0, 0x0, false⟩,
  /- DBL_PROD_i RW R627 -/ ⟨0x800, 256, 8, 0x0, 0xFFFFFFFF, 0x0, 0x0, false⟩,
  /- DBL_CONS_i RW R627 -/ ⟨0x804, 256, 8, 0x0, 0xFFFFFFFF, 0x0, 0x0, false⟩]

/-- Registers of a NETB page. -/
def rowsNETB : List RegRow := [
  /- NETB_RTAB_LO RW R460 -/ ⟨0x040, 1, 4, 0x0, 0xFFFFFFFF, 0x0, 0x0, false⟩,
  /- NETB_RTAB_HI RW R460 -/ ⟨0x044, 1, 4, 0x0, 0xFFFFFFFF, 0x0, 0x0, false⟩,
  /- NETB_TXN_TIMEOUT RWS R460 -/ ⟨0x048, 1, 4, 0x10000, 0x0, 0xFFFFFF, 0x0, false⟩,
  /- NETB_SPINES RO R460 -/ ⟨0x04C, 1, 4, 0x0, 0x0, 0x0, 0x0, false⟩,
  /- NETB_RED_OPEN RO R460 -/ ⟨0x050, 1, 4, 0x0, 0x0, 0x0, 0x0, false⟩,
  /- NETB_RED_DONE RO R460 -/ ⟨0x054, 1, 4, 0x0, 0x0, 0x0, 0x0, false⟩,
  /- NETB_RED_STRAY RO R460 -/ ⟨0x058, 1, 4, 0x0, 0x0, 0x0, 0x0, false⟩,
  /- NETB_RED_DISCARD RO R460 -/ ⟨0x05C, 1, 4, 0x0, 0x0, 0x0, 0x0, false⟩,
  /- NETB_RTAB_MISS RO R460 -/ ⟨0x060, 1, 4, 0x0, 0x0, 0x0, 0x0, false⟩,
  /- NETB_TIMEOUTS RO R460 -/ ⟨0x064, 1, 4, 0x0, 0x0, 0x0, 0x0, false⟩,
  /- NETB_LATE RO R460 -/ ⟨0x068, 1, 4, 0x0, 0x0, 0x0, 0x0, false⟩,
  /- NETB_HDR_CE RO R460 -/ ⟨0x06C, 1, 4, 0x0, 0x0, 0x0, 0x0, false⟩,
  /- NETB_HDR_UE RO R460 -/ ⟨0x070, 1, 4, 0x0, 0x0, 0x0, 0x0, false⟩,
  /- NETB_ERR W1C R460 -/ ⟨0x074, 1, 4, 0x0, 0x0, 0x0, 0x80000000, false⟩,
  /- NETB_COLLECT RW R460 -/ ⟨0x078, 1, 4, 0x0, 0x1FF, 0x0, 0x0, false⟩,
  /- NETB_COLLECT_BUSY RC R460 -/ ⟨0x07C, 1, 4, 0x0, 0x0, 0x0, 0x0, true⟩]

/-- Registers of a NETC page. -/
def rowsNETC : List RegRow := [
  /- NETC_ACCESSES RO R461 -/ ⟨0x040, 1, 4, 0x0, 0x0, 0x0, 0x0, false⟩,
  /- NETC_ERRORS RO R461 -/ ⟨0x044, 1, 4, 0x0, 0x0, 0x0, 0x0, false⟩,
  /- NETC_MAX_NS RC R461 -/ ⟨0x048, 1, 4, 0x0, 0x0, 0x0, 0x0, true⟩]

/-- Registers of a NETS page. -/
def rowsNETS : List RegRow := [
  /- NETS_MSGS RO R462 -/ ⟨0x040, 1, 4, 0x0, 0x0, 0x0, 0x0, false⟩,
  /- NETS_ERRORS RO R462 -/ ⟨0x044, 1, 4, 0x0, 0x0, 0x0, 0x0, false⟩,
  /- NETS_FREEZE RO R462 -/ ⟨0x048, 1, 4, 0x0, 0x0, 0x0, 0x0, false⟩,
  /- NETS_FREEZE_CNT RO R462 -/ ⟨0x04C, 1, 4, 0x0, 0x0, 0x0, 0x0, false⟩]

/-- Registers of a NETM page. -/
def rowsNETM : List RegRow := [
  /- NETM_MC_HOLD RW R463 -/ ⟨0x040, 1, 4, 0x1000, 0xFFFF, 0x0, 0x0, false⟩,
  /- NETM_SEL RW R463 -/ ⟨0x044, 1, 4, 0x0, 0xFF, 0x0, 0x0, false⟩,
  /- NETM_MASK0 RW R463 -/ ⟨0x048, 1, 4, 0x0, 0xFFFFFFFF, 0x0, 0x0, false⟩,
  /- NETM_MASK1 RW R463 -/ ⟨0x04C, 1, 4, 0x0, 0xFFFFFFFF, 0x0, 0x0, false⟩,
  /- NETM_MASK2 RW R463 -/ ⟨0x050, 1, 4, 0x0, 0xFFFFFFFF, 0x0, 0x0, false⟩,
  /- NETM_MASK3 RW R463 -/ ⟨0x054, 1, 4, 0x0, 0xFFFFFF, 0x0, 0x0, false⟩,
  /- NETM_MC_SENT RO R463 -/ ⟨0x058, 1, 4, 0x0, 0x0, 0x0, 0x0, false⟩,
  /- NETM_MC_HOLDS RO R463 -/ ⟨0x05C, 1, 4, 0x0, 0x0, 0x0, 0x0, false⟩,
  /- NETM_MC_DROPS RO R463 -/ ⟨0x060, 1, 4, 0x0, 0x0, 0x0, 0x0, false⟩,
  /- NETM_MC_MISSED RO R463 -/ ⟨0x064, 1, 4, 0x0, 0x0, 0x0, 0x0, false⟩,
  /- NETM_LAST_DROP W1C R463 -/ ⟨0x068, 1, 4, 0x0, 0x0, 0x0, 0x80000000, false⟩]

/-- One barrier of a CAL page, at 0x100 + 0x80 i (R508). -/
def rowsCALB : List RegRow := [
  /- CAL_CFG RWS R508 -/ ⟨0x000, 1, 4, 0x0, 0x0, 0x800FFFFF, 0x0, false⟩,
  /- CAL_MASK0 RWS R508 -/ ⟨0x004, 1, 4, 0x0, 0x0, 0xFFFFFFFF, 0x0, false⟩,
  /- CAL_MASK1 RWS R508 -/ ⟨0x008, 1, 4, 0x0, 0x0, 0xFFFFFFFF, 0x0, false⟩,
  /- CAL_MASK2 RWS R508 -/ ⟨0x00C, 1, 4, 0x0, 0x0, 0xFFFFFFFF, 0x0, false⟩,
  /- CAL_MASK3 RWS R508 -/ ⟨0x010, 1, 4, 0x0, 0x0, 0xFFFFFF, 0x0, false⟩,
  /- CAL_XMASK RWS R508 -/ ⟨0x014, 1, 4, 0x0, 0x0, 0xFFF, 0x0, false⟩,
  /- CAL_PARENT RWS R508 -/ ⟨0x018, 1, 4, 0x0, 0x0, 0x8FFF00FF, 0x0, false⟩,
  /- CAL_CHILD0-7 RWS R508 -/ ⟨0x01C, 8, 4, 0x0, 0x0, 0x8FFF00FF, 0x0, false⟩,
  /- CAL_STATE RO R508 -/ ⟨0x040, 1, 4, 0x0, 0x0, 0x0, 0x0, false⟩,
  /- CAL_COUNT RO R508 -/ ⟨0x044, 1, 4, 0x0, 0x0, 0x0, 0x0, false⟩,
  /- CAL_CHILDREN RO R508 -/ ⟨0x048, 1, 4, 0x0, 0x0, 0x0, 0x0, false⟩,
  /- CAL_FAULT RO R508 -/ ⟨0x04C, 1, 4, 0x0, 0x0, 0x0, 0x0, false⟩,
  /- CAL_RELEASES RO R508 -/ ⟨0x050, 1, 4, 0x0, 0x0, 0x0, 0x0, false⟩,
  /- CAL_LAST_NS RO R508 -/ ⟨0x054, 1, 4, 0x0, 0x0, 0x0, 0x0, false⟩]

/-- The block types of R63. -/
inductive Blk where
  | dir | glb | seq | alm | ann | pwr | sec | vgl | tst | twn | ptn | cal | cor | mxa | vec | gth | mov | sig
  | slc | lvn | med | cch | lnk | lst | lkg | dbl | netb | netc | nets | netm
deriving DecidableEq, Repr

/-- Type code of a block (R63). -/
def Blk.code : Blk → Nat
  | .dir => 0x01 | .glb => 0x02 | .seq => 0x03 | .alm => 0x04 | .ann => 0x05 | .pwr => 0x06 | .sec => 0x07
  | .vgl => 0x08 | .tst => 0x09 | .twn => 0x0A | .ptn => 0x10 | .cal => 0x11 | .cor => 0x20 | .mxa => 0x21
  | .vec => 0x22 | .gth => 0x23 | .mov => 0x24 | .sig => 0x25 | .slc => 0x30 | .lvn => 0x31 | .med => 0x32
  | .cch => 0x33 | .lnk => 0x40 | .lst => 0x41 | .lkg => 0x42 | .dbl => 0x50 | .netb => 0x60 | .netc => 0x61
  | .nets => 0x62 | .netm => 0x63

/-- Whether the settled state of the block is Running (R63); Stopped otherwise. -/
def Blk.settlesRunning : Blk → Bool
  | .twn | .ptn | .cal | .cor | .mxa | .vec | .gth | .mov | .sig | .lvn => false
  | _ => true

/-- The block-specific fault causes of a page, bits [31:8] of HDR_FAULT (R159, R163, R280, R367, R411, R413, R415,
R460, R510, R511, R569, R572, R605, R628, R683, R686, R726, R759, R800). -/
def Blk.causes : Blk → Nat
  | .seq => 0x700 | .ptn => 0xFFF00 | .mxa => 0x7F00 | .vec => 0x700 | .cor => 0xFF00 | .mov => 0x700
  | .gth | .cal | .vgl | .lvn | .dbl | .netb => 0x100
  | .slc | .med | .lkg | .alm | .pwr | .twn => 0x300 | .lnk => 0x700
  | _ => 0

/-- The register table of a block's page. -/
def Blk.rows : Blk → List RegRow
  | .dir => rowsDIR | .glb => rowsGLB | .seq => rowsSEQ | .alm => rowsALM | .ann => rowsANN | .pwr => rowsPWR
  | .sec => rowsSEC | .vgl => rowsVGL | .tst => rowsTST | .twn => rowsTWN | .ptn => rowsPTN | .cal => rowsCAL
  | .cor => rowsCOR | .mxa => rowsMXA | .vec => rowsVEC | .gth => rowsGTH | .mov => rowsMOV | .sig => rowsSIG
  | .slc => rowsSLC | .lvn => rowsLVN | .med => rowsMED | .cch => rowsCCH | .lnk => rowsLNK | .lst => rowsLST
  | .lkg => rowsLKG | .dbl => rowsDBL | .netb => rowsNETB | .netc => rowsNETC | .nets => rowsNETS
  | .netm => rowsNETM

/-- Does the row hold the register at page offset `o`? -/
def RegRow.covers (r : RegRow) (o : Nat) : Bool :=
  decide (r.off ≤ o) && decide ((o - r.off) % r.stride = 0) && decide ((o - r.off) / r.stride < r.n)

/-- The row of a table that holds offset `o`. -/
def findRow : List RegRow → Nat → Option RegRow
  | [], _ => none
  | r :: t, o => if r.covers o then some r else findRow t o

/-- The row for offset `o` of a page; the barriers of a CAL page repeat every 0x80 from 0x100 (R508). -/
def Blk.row (b : Blk) (o : Nat) : Option RegRow :=
  match b with
  | .cal => if 0x100 ≤ o ∧ o < 0x900 then findRow rowsCALB ((o - 0x100) % 0x80) else findRow rowsCAL o
  | _ => findRow b.rows o

/-- Number of core sites (R19), of slices (R26), of ports and of link groups (R29), of partitions (R45). -/
abbrev nSites : Nat := 132
abbrev nSlices : Nat := 33
abbrev nPorts : Nat := 54
abbrev nGroups : Nat := 8
abbrev nPtns : Nat := 16

-- Page numbers of the single-page blocks and of the ranges of R63.
namespace Pg

abbrev dir : Nat := 0
abbrev glb : Nat := 1
abbrev seq : Nat := 2
abbrev alm : Nat := 3
abbrev ann : Nat := 4
abbrev pwr : Nat := 5
abbrev sec : Nat := 6
abbrev vgl : Nat := 7
abbrev tst : Nat := 8
abbrev twn : Nat := 9
abbrev ptn (p : Nat) : Nat := 0x10 + p
abbrev cal (k : Nat) : Nat := 0x100 + k
abbrev cor (c : Nat) : Nat := 0x1000 + 0x10 * c
abbrev mxa (c m : Nat) : Nat := 0x1001 + 0x10 * c + m
abbrev vec (c : Nat) : Nat := 0x1003 + 0x10 * c
abbrev gth (c : Nat) : Nat := 0x1004 + 0x10 * c
abbrev mov (c : Nat) : Nat := 0x1005 + 0x10 * c
abbrev sig (c : Nat) : Nat := 0x1006 + 0x10 * c
abbrev slc (s : Nat) : Nat := 0x2000 + 8 * s
abbrev lvn (s : Nat) : Nat := 0x2001 + 8 * s
abbrev med (s : Nat) : Nat := 0x2002 + 8 * s
abbrev cch (s : Nat) : Nat := 0x2003 + 8 * s
abbrev lnk (p : Nat) : Nat := 0x3000 + 4 * p
abbrev lst (p : Nat) : Nat := 0x3001 + 4 * p
abbrev lkg (g : Nat) : Nat := 0x3400 + g
abbrev dbl (d : Nat) : Nat := 0x4000 + d
abbrev netb : Nat := 0x5000
abbrev netc : Nat := 0x5001
abbrev nets : Nat := 0x5002
abbrev netm : Nat := 0x5003

end Pg

/-- The block and its place on the type's list for a page number (R63, R64); `none` for an unassigned page. For MXA
the second component is site × 2 + array. -/
def pageBlk (pg : Nat) : Option (Blk × Nat) :=
  if pg < 0x10 then
    match pg with
    | 0 => some (.dir, 0) | 1 => some (.glb, 0) | 2 => some (.seq, 0) | 3 => some (.alm, 0) | 4 => some (.ann, 0)
    | 5 => some (.pwr, 0) | 6 => some (.sec, 0) | 7 => some (.vgl, 0) | 8 => some (.tst, 0) | 9 => some (.twn, 0)
    | _ => none
  else if pg < 0x20 then some (.ptn, pg - 0x10)
  else if pg < 0x100 then none
  else if pg < 0x110 then some (.cal, pg - 0x100)
  else if pg < 0x1000 then none
  else if pg < 0x1000 + 0x10 * nSites then
    let c := (pg - 0x1000) / 0x10
    match pg % 0x10 with
    | 0 => some (.cor, c) | 1 => some (.mxa, 2 * c) | 2 => some (.mxa, 2 * c + 1) | 3 => some (.vec, c)
    | 4 => some (.gth, c) | 5 => some (.mov, c) | 6 => some (.sig, c) | _ => none
  else if pg < 0x2000 then none
  else if pg < 0x2000 + 8 * nSlices then
    let c := (pg - 0x2000) / 8
    match pg % 8 with
    | 0 => some (.slc, c) | 1 => some (.lvn, c) | 2 => some (.med, c) | 3 => some (.cch, c) | _ => none
  else if pg < 0x3000 then none
  else if pg < 0x3000 + 4 * nPorts then
    let c := (pg - 0x3000) / 4
    match pg % 4 with
    | 0 => some (.lnk, c) | 1 => some (.lst, c) | _ => none
  else if pg < 0x3400 then none
  else if pg < 0x3408 then some (.lkg, pg - 0x3400)
  else if pg < 0x4000 then none
  else if pg < 0x4100 then some (.dbl, pg - 0x4000)
  else if pg < 0x5000 then none
  else
    match pg - 0x5000 with
    | 0 => some (.netb, 0) | 1 => some (.netc, 0) | 2 => some (.nets, 0) | 3 => some (.netm, 0) | _ => none

/-- The page in a slot of the control space (R60); `none` for a reserved slot. -/
def pageOfSlot (slot : Nat) : Option Nat :=
  let pg := if slot < 0x3800 then slot
    else if slot < 0x3900 then slot - 0x3800 + 0x4000
    else if slot < 0x3904 then slot - 0x3900 + 0x5000
    else 0xFFFF
  match pageBlk pg with
  | some _ => some pg
  | none => none

/-- The slot of a page (R60). -/
def slotOfPage (pg : Nat) : Nat :=
  if pg < 0x3800 then pg else if pg < 0x5000 then pg - 0x4000 + 0x3800 else pg - 0x5000 + 0x3900

/-- The page that holds the one copy of a register: some registers are shared by all pages of their block, "a write
through any of them changes it" (R535, R603, R626, R681, R685). -/
def sharedPage (b : Blk) (pg o : Nat) : Nat :=
  match b with
  | .slc => if 0x400 ≤ o ∧ o < 0x600 then Pg.slc 0 else pg
  | .lvn => if 0x40 ≤ o ∧ o < 0x50 then Pg.lvn 0 else pg
  | .lnk => if o = R.LNK_TXN_TIMEOUT then Pg.lnk 0 else pg
  | .lkg => if o = R.LKG_REACH then Pg.lkg 0 else pg
  | .dbl => if o = R.DBL_RTAB_LO ∨ o = R.DBL_RTAB_HI ∨ o = R.DBL_STAGED ∨ o = R.DBL_STAGE_FULL then Pg.dbl 0 else pg
  | _ => pg

/-- Key of a register in `State.regs`: page number, then offset. -/
def regKey (pg o : Nat) : Nat :=
  match pageBlk pg with
  | some (b, _) => sharedPage b pg o * 0x1000 + o
  | none => pg * 0x1000 + o

/-- The pages of the directory in the order of R861, as (type code, first page, count, stride). -/
def dirRanges : List (Nat × Nat × Nat × Nat) :=
  [(1, 0, 1, 1), (2, 1, 1, 1), (3, 2, 1, 1), (4, 3, 1, 1), (5, 4, 1, 1), (6, 5, 1, 1), (7, 6, 1, 1), (8, 7, 1, 1),
   (9, 8, 1, 1), (0xA, 9, 1, 1), (0x10, 0x10, 16, 1), (0x11, 0x100, 16, 1), (0x20, 0x1000, 132, 0x10),
   (0x21, 0x1001, 132, 0x10), (0x21, 0x1002, 132, 0x10), (0x22, 0x1003, 132, 0x10), (0x23, 0x1004, 132, 0x10),
   (0x24, 0x1005, 132, 0x10), (0x25, 0x1006, 132, 0x10), (0x30, 0x2000, 33, 8), (0x31, 0x2001, 33, 8),
   (0x32, 0x2002, 33, 8), (0x33, 0x2003, 33, 8), (0x40, 0x3000, 54, 4), (0x41, 0x3001, 54, 4), (0x42, 0x3400, 8, 1),
   (0x50, 0x4000, 256, 1), (0x60, 0x5000, 1, 1), (0x61, 0x5001, 1, 1), (0x62, 0x5002, 1, 1), (0x63, 0x5003, 1, 1)]

end Sys2Proof.Machine
end

