-- ==== Sys2Proof/Machine/State.lean ====
section
/-! DEFINITION. The state of the chiplet as plain data, and the state right after reset. Control registers that hold
exactly what a read shows live in `regs`, keyed by page and offset; a key that is not listed reads its reset value
(`Blk.row`, `resetReg`). Everything else has a field of its own, in tables keyed by unit number. -/

namespace Sys2Proof.Machine

/-- What the factory fixed: the fuses the boot controller reads (R688), and how the integrator wired the ports
(R31, R32). The manual gives no values: a DESIGN CHOICE named in the assumption log. -/
structure Fuses where
  variant : Nat
  dieId : BitVec 128
  siteGood : BitVec 132
  sliceGood : BitVec 33
  spineGood : BitVec 8
  /-- the factory repair map: MXA_REPAIR by site × 2 + array (R272) -/
  repairs : Tab Word
  vf : Tab Word
  rootHash : BitVec 384
  rootValid : Bool
  keyGood : Bool
  /-- ports whose lanes find termination (R633) -/
  wired : BitVec 54
deriving DecidableEq, Repr

/-- Messages and commands that leave the chiplet or a unit of it, in the order they are sent. -/
inductive OutMsg where
  /-- ALARM message, to the primary or to the twin (R71, R649, R732) -/
  | alarm (twin : Bool) (bytes : List Byte)
  /-- EVENT notice to the primary (R622) -/
  | notice (body : DWord)
  /-- bulk-network flit toward an endpoint of this die, with the endpoint port of its requester (R420) and the spine it crosses, if any
  (R421, R427) -/
  | flit (f : Flit) (port : Nat) (spine : Option Nat)
  /-- the same as a FLIT message to another die -/
  | far (die : Nat) (f : Flit)
  /-- INV or IACK across dies, a CFLIT (R650) -/
  | cflit (die : Nat) (f : Flit)
  /-- Calends span message of 8 bytes (R479) -/
  | span (die : Nat) (msg : BitVec 64)
  /-- completion of a register access to its source on this die, with the data of a read (R98) -/
  | access (err : Bool) (v : Word)
  /-- completion or request of a register access (R651) -/
  | regCompl (die tag : Nat) (write err : Bool) (addr : BitVec 48) (v : Word)
  | regReq (die tag : Nat) (write : Bool) (addr : BitVec 48) (v : Word)
  /-- MSG ring traffic (R623, R624) -/
  | ringEntry (die ring : Nat) (index : Word) (entry : BitVec 512)
  | ringAck (die ring : Nat) (index : Word)
  | ringCredit (die ring : Nat) (n : Word) (reenable : Bool)
  /-- Leaven notices (R581) -/
  | lvnCommit (die ptn : Nat) (seq : DWord)
  | lvnDiscard (die ptn : Nat) (seq : DWord)
  /-- COHN notice (R532) -/
  | cohn (die : Nat)
  /-- control word on a port: OP, ARG1, SEQ (R636, R666) -/
  | ctrl (port op arg1 seq : Nat)
  /-- frames sent again from the retry buffer (R641, R642) -/
  | resend (port : Nat) (seqs : List Nat)
  /-- HOVR frame of a leaving port's buffered frame (R662) -/
  | hovr (port viaPort seq : Nat)
  /-- an ID frame, all 80 bytes (R634, R674) -/
  | frame (port : Nat) (bits : BitVec 640)
  /-- DIE_LOST report (R671, R672) -/
  | dieLost (die : Nat)
  /-- a message forwarded out through a group (R655) -/
  | forward (group : Nat) (mtype : Nat) (ddie sdie hops cls : Nat) (body : List Byte)
  /-- SILVER messages to a die for `n` chunks of `len` bytes, whose bytes all read 0 with matching Glaze, at local addresses
  `a`, `a + step`, …: one message for each 1 KiB piece (R752, R754) -/
  | silverRun (die a n step len : Nat)
  /-- telemetry (R785) -/
  | telem (kind : Nat) (bytes : List Byte)
  /-- stack channel command: opcode, bank or block, row or column (R521) -/
  | stack (slice op a b : Nat)
  /-- slice peer message (R546): kind 0 REMAP_BEGIN .. , body -/
  | peer (kind : Nat) (r : PeerRow)
  | peerAddr (kind slice : Nat) (chanAddr : Nat) (uncorr : Bool)
  | peerPos (kind slice pos : Nat)
  | peerKeep (kind slice blk : Nat) (write : Bool) (rec : KeepRec)
  /-- twin message (R733): type, partition, q, where, payload -/
  | twin (typ : Nat) (p : Nat) (q whr : DWord) (bytes : List Byte)
  /-- TEST completion: OP, NBITS and the TDO bits (R826) -/
  | test (op nbits : Nat) (bits : List Bool)
  /-- PRIM message from this die (R677 refusals and the like) -/
  | prim (op : Nat) (body : DWord)
deriving DecidableEq, Repr

/-- An outstanding operation: who waits for the response to a request that has left (R397, R431, R673). -/
inductive OpKind where
  /-- a read of a descriptor: `len` bytes from `off` of the block are bytes `pos` onward of row `row` -/
  | movRead (c e serial row pos off len : Nat)
  | movWrite (c e serial : Nat)
  /-- line `line` of the row that a thread reads; `thread` from 512 on: a line that all threads of descriptor `thread` − 512 share -/
  | gthRead (c thread line : Nat)
  /-- a proxy's forwarded request: the answer goes to the original requester (R528) -/
  | proxy (slice : Nat) (orig : Flit)
  /-- a reduction sum sent by a spine; RACK goes to its contributors: endpoint, transaction and die (R446) -/
  | redWrite (contribs : List (Nat × Nat × Nat)) (leaven : Bool)
  | redContrib (c e serial : Nat)
  /-- a multicast row of a descriptor (R439) -/
  | mcastRow (c e serial : Nat)
  | regAccess (tag : Nat)
  /-- an access of a unit of the chiplet to another die's memory: bytes `off`, `len` of the block are bytes `pos` onward of
  the unit's buffer -/
  | unitRead (u pos off len : Nat)
  | unitWrite (u : Nat)
deriving DecidableEq, Repr

/-- An outstanding operation with its transaction number, requester endpoint, partition and destination. -/
structure Op where
  txn : Nat
  ep : Nat
  ptn : Nat
  die : Nat
  addr : Nat
  kind : OpKind
  /-- the port of its endpoint by which the request left, and on which its response returns (R420) -/
  port : Nat
  /-- an INV arrived while the fill was outstanding (R531) -/
  noFill : Bool
deriving DecidableEq, Repr

/-- A unit's access to memory under way: operations outstanding, whether one met an error, the bytes read so far, and what
the unit does next. Units: 0–15 a partition's DUMP or LOAD, 16 the Annals, 17 the Almanac, 19 SEC, 64 + site the script image of
a core, 256 + site its firmware slice. -/
structure UnitJob where
  left : Nat
  bad : Bool
  buf : Tab Byte
  stage : Nat
deriving DecidableEq, Repr

/-- A result on its way to a register (R192-R194, R212): file 0 s, 1 t, 2 predicates; `iss` orders writes by issue
(stepped index, then pipeline 1 before pipeline 0); the value is seen from stepped index `vis0` by pipeline 0, `vis1` by
pipeline 1 and `visO` by the sequencer and every other unit. -/
structure PendWrite where
  file : Nat
  idx : Nat
  val : DWord
  iss : Nat
  vis0 : Nat
  vis1 : Nat
  visO : Nat
deriving DecidableEq, Repr

/-- A scratchpad store that not every reader sees yet (R195, R253, R337): seen from stepped index `visLd` by scalar LD,
`visV` by VLD, `visO` by the arrays, the X slots and the asynchronous engines. -/
structure PendStore where
  /-- 0 scalar unit, 1 + 2 × array + half, 5 + V slot -/
  src : Nat
  addr : Nat
  bytes : List Byte
  iss : Nat
  visLd : Nat
  visV : Nat
  visO : Nat
deriving DecidableEq, Repr

/-- One level of the loop stack (R201). -/
structure Loop where
  start : Nat
  stop : Nat
  count : Nat
deriving DecidableEq, Repr

/-- A claim of a scratchpad bank by a stepped access (R369–R371): stepped cycle, rank in the order of R370 (ten times the priority, plus
the place within it), unit by its number in `Core.holds`, and 128-byte block. -/
structure Claim where
  at_ : Nat
  rank : Nat
  unit : Nat
  block : Nat
deriving DecidableEq, Repr

/-- Descriptors that an X-slot operation is reading (R385): the slot, whether GQ, its AR and POST, the bytes from `addr` on, the stepped
cycle of issue, and what has been read. -/
structure XRead where
  x : Bool
  gq : Bool
  ar : BitVec 2
  post : Bool
  addr : Nat
  len : Nat
  at_ : Nat
  got : List Byte
deriving DecidableEq, Repr

/-- A scalar core of one site: scalar/address unit, stream control, scratchpad (R183-R220, R368-R372). -/
structure Core where
  sreg : Tab DWord
  treg : Tab DWord
  preds : BitVec 16
  pend : List PendWrite
  loops : List Loop
  /-- a taken branch: delay syllables left and target (R197) -/
  branch : Option (Nat × Nat)
  script : Tab Syllable
  /-- resident syllables and entry point of the loaded image (R173) -/
  res : Nat
  entry : Nat
  /-- overlay syllables whose valid bit is set (R178) -/
  valid : List Nat
  pos : Nat
  steps : Nat
  /-- SOL_END issued; the core has parked (R213, R214) -/
  ended : Bool
  parked : Bool
  /-- operations held by units that raised freeze: unit number, stepped index, operation (R217) -/
  holds : List (Nat × Nat × Instr)
  /-- slots of the current syllable that a GUARD squashed: [6] M0 .. [0] C (R200) -/
  squash : BitVec 7
  spad : Tab Byte
  /-- stored Glaze of scratchpad tiles that does not match the contents (R372) -/
  badGlz : Tab Word
  pendSt : List PendStore
  xa : Tab (BitVec 22)
  /-- descriptor reads under way, oldest first (R385) -/
  xrd : List XRead
  /-- bank claims of this and later stepped cycles, and the units that hold because an access was denied or because an array's earlier
  work is not far enough (R371, R255) -/
  claims : List Claim
  denied : BitVec 8
  /-- a script image is loaded (R174), and the load of START is still to finish -/
  loaded : Bool
  loading : Bool
  /-- scratchpad migration in progress: source site (R376) -/
  migrating : Option Nat
deriving DecidableEq, Repr

/-- A core with nothing in it. -/
def Core.init : Core :=
  { sreg := [], treg := [], preds := 0, pend := [], loops := [], branch := none, script := [], res := 0, entry := 0,
    valid := [], pos := 0, steps := 0, ended := false, parked := false, holds := [], squash := 0, spad := [], badGlz := [],
    pendSt := [], xa := [], xrd := [], claims := [], denied := 0, loaded := false, loading := false, migrating := none }

/-- A descriptor in a move engine's queue or in progress (R387–R396): its serial since the partition tick, where it was
read, its 32 bytes; operations outstanding, whether it met an error; rows whose reads have not all returned, with their
bytes so far and the pieces still to come. -/
structure MoveDesc where
  serial : Nat
  at_ : Nat
  bits : BitVec 256
  left : Nat
  bad : Bool
  rows : List (Nat × List Byte × Nat)
deriving DecidableEq, Repr

/-- One of the two move engines of a site: descriptors that wait and those in progress, oldest first. -/
structure Mover where
  queue : List MoveDesc
  jobs : List MoveDesc
  serial : Nat
deriving DecidableEq, Repr

/-- One weight plane of an array (R228, R246). -/
structure Plane where
  valid : Bool
  split : Bool
  wfmt : Nat
  /-- weights, element (k, n) at bit (k × 32 + n) × width -/
  wts : BitVec 16384
  scales : BitVec 1024
  /-- cycles of the array's own time: valid from, and last cell write of a load (R250, R255) -/
  validAt : Nat
  lastWr : Nat
deriving DecidableEq, Repr

/-- A load under way (R250): plane, cycle of issue in the array's own time, split and weight format of the mode then in force, the tile
and scale addresses of each half, and the bytes read of them. -/
structure LoadJob where
  plane : Bool
  at_ : Nat
  split : Bool
  wfmt : Nat
  bases : List (Nat × Nat)
  got : List (List Byte × List Byte)
deriving DecidableEq, Repr

/-- Sums that a half carries from row to row (R263, R264): r, ρ, V, and V of the checksum column. -/
structure HalfSum where
  r : List Num
  rho : List Num
  v : List Num
  vs : Num
deriving DecidableEq, Repr

/-- A stream under way (R251): cycle of issue in the array's own time, rows, mode, ACC, CKR, serial, plane; per half its addresses of
row 0, of the scales and of the destination; the combiner's scale block; whether the checksum row lost its cycle; rows read and not yet
summed, with their scales; rows summed and not yet written, per half values and flags; the column sums; the combiner's F values. -/
structure StreamJob where
  at_ : Nat
  n : Nat
  mode : Word
  acc : Bool
  ckr : Bool
  serial : Nat
  plane : Bool
  halves : List (Nat × Nat × Nat)
  scl : Nat
  lost : Bool
  rows : List (Nat × List (List Byte × List Byte))
  outs : List (Nat × List (List Num × Nat))
  sums : List HalfSum
  fb : List Byte
deriving DecidableEq, Repr

/-- One matrix array with its combiner (R227-R268, R306-R314). -/
structure Arr where
  mode : Word
  a : Tab (BitVec 22)
  cnt : Nat
  p0 : Plane
  p1 : Plane
  active : Bool
  gen : Word
  /-- half fenced for the rest of the Sol: [0] L or whole, [1] R (R267) -/
  fence : BitVec 2
  /-- a mismatch was recorded in this Sol (R268) -/
  mismatch : Bool
  serial : Nat
  /-- combiner: open, tile height, accumulators and residues (R306-R312) -/
  open_ : Bool
  height : Nat
  acc : Tab (BitVec 128)
  /-- residue modulo 127; 128 marks an unchecked residue -/
  res : Tab (BitVec 64)
  /-- the array's own time less the stepped cycle: cycles in which its earlier work went on while it held an operation (R255) -/
  ahead : Nat
  /-- first cycle of its own time in which the feeder can broadcast the next row 0 -/
  feed : Nat
  /-- loads and streams under way, oldest first -/
  loads : List LoadJob
  strs : List StreamJob
deriving DecidableEq, Repr

/-- A plane with nothing loaded. -/
def Plane.init : Plane := { valid := false, split := false, wfmt := 0, wts := 0, scales := 0, validAt := 0, lastWr := 0 }

/-- An array right after reset; the generator is taken at START (R234). -/
def Arr.init : Arr :=
  { mode := 0, a := [], cnt := 1, p0 := Plane.init, p1 := Plane.init, active := false, gen := 0x13572468, fence := 0,
    mismatch := false, serial := 0, open_ := false, height := 0, acc := [], res := [], ahead := 0, feed := 0, loads := [], strs := [] }

/-- A vector result on its way to a register or mask (R333, R334): file 0 v registers, 1 masks; `en` marks the bits it
writes; `iss` orders by issue (2 × stepped index + slot); seen by V operations from stepped index `vis`. -/
structure VPend where
  file : Nat
  idx : Nat
  val : BitVec 8192
  en : BitVec 8192
  iss : Nat
  vis : Nat
deriving DecidableEq, Repr

/-- Sticky flags of a slot that become readable later (R335, R350). -/
structure VFlagPend where
  slot : Bool
  flags : Nat
  vis : Nat
deriving DecidableEq, Repr

/-- A vector engine (R315-R366). -/
structure Vec where
  v : Tab (BitVec 8192)
  m : Tab (BitVec 512)
  va : Tab (BitVec 22)
  gens : Tab Word
  pend : List VPend
  pendFl : List VFlagPend
deriving DecidableEq, Repr

/-- A vector engine right after reset. -/
def Vec.init : Vec := { v := [], m := [], va := [], gens := [], pend := [], pendFl := [] }

/-- A bag being gathered by one thread (R402-R404): its descriptor's serial, its number, the next and the end position of
the index list once they are known, rows pooled, the accumulator as FP32 codes and the elements to which an operand that is not finite
has come, lines of the current row that are there and those awaited, by line of their address field, and the reason of an error that one of
them met. -/
structure GBag where
  serial : Nat
  bag : Nat
  known : Bool
  next : Nat
  stop : Nat
  cnt : Nat
  acc : List Word
  odd : BitVec 512
  buf : Tab (BitVec 1024)
  waiting : List Nat
  err : Option Nat
deriving DecidableEq, Repr

/-- No bag. -/
def GBag.init : GBag :=
  { serial := 0, bag := 0, known := false, next := 0, stop := 0, cnt := 0, acc := [], odd := 0, buf := [], waiting := [], err := none }

/-- A gather descriptor in progress (R399–R406): serial, its bytes, next bag to assign, bags complete, groups raised; lines of the index
list, the offsets and the weights that are there, awaited, or failed with a reason, by line of their address field (R405). -/
structure GGroup where
  serial : Nat
  desc : BitVec 512
  nextBag : Nat
  done : List Nat
  raised : Nat
  lines : Tab (BitVec 1024)
  awaiting : List Nat
  failed : Tab Nat
deriving DecidableEq, Repr

/-- The gather engine of a site. -/
structure Gth where
  queue : List (BitVec 512)
  groups : List GGroup
  threads : Tab GBag
  serial : Nat
deriving DecidableEq, Repr

/-- A gather engine with no work. -/
def Gth.init : Gth := { queue := [], groups := [], threads := [], serial := 0 }

/-- Where a partition stands in its Sol (R120-R151). -/
inductive Phase where
  /-- not started -/
  | idle
  /-- START accepted: scripts load or the snapshot is restored (R121, R122) -/
  | loading (replay : Bool)
  /-- entered Running; the first Sol waits for its tick (R121) -/
  | armed
  /-- in a Sol: syllables issue -/
  | sol
  /-- the end point was taken and the snapshot copy is under way (R129) -/
  | copying
  /-- committed; cores wait for the next tick (R133) -/
  | waiting
  /-- stopped issuing on an immediate cause; operations drain (R142) -/
  | draining
deriving DecidableEq, Repr

/-- A partition beyond its registers (R115-R151). -/
structure Ptn where
  phase : Phase
  /-- STOP waits for the next commit (R125) -/
  stopWait : Bool
  /-- deferred causes of this Sol (R141) -/
  deferred : Nat
  /-- package time and index of the tick that began the current Sol -/
  tickAt : DWord
  tick : Nat
  /-- package time of entry to Running (R121) -/
  since : DWord
  /-- immediate causes taken while operations drain (R142) -/
  pendFault : Nat
  /-- the deadline's Sol ran below PTN_SCHED_MHZ (R146, R780) -/
  slow : Bool
  /-- committed selector: buffers and record with this number are the committed snapshot (R135) -/
  sel : Bool
  /-- where the committed snapshot's per-core records lie: logical core and site of the buffer -/
  snapAt : List (Nat × Nat)
  /-- the same of the copy taken at the end point, until its commit (R129) -/
  nextAt : List (Nat × Nat)
  /-- barrier generations are still to be restored, once every script has been reloaded (R148) -/
  barsLeft : Bool
  /-- sites of the freeze domain, taken at START or REPLAY (R458) -/
  domain : List Nat
  /-- package time of the end point taken last -/
  endAt : DWord
  /-- freeze is raised: syllables issued since the raise (R217, R218) -/
  skid : Option Nat
  /-- the START waits for a held or slewing clock change (R779) -/
  clockWait : Bool
  /-- the die mask of R578 -/
  leavenDies : List Nat
  /-- digest D and count N of the Sol in progress (R740) -/
  digest : DWord
  digN : DWord
deriving DecidableEq, Repr

/-- A partition that was never started. -/
def Ptn.init : Ptn :=
  { phase := .idle, stopWait := false, deferred := 0, pendFault := 0, tickAt := 0, tick := 0, since := 0, slow := false, sel := false,
    snapAt := [], nextAt := [], barsLeft := false, domain := [], endAt := 0, skid := none, clockWait := false, leavenDies := [], digest := 0, digN := 0 }

/-- A barrier object beyond its configuration (R464-R491). -/
structure Bar where
  /-- 0 Disabled, 1 Open, 2 Faulted, 3 Quiet -/
  st : Nat
  gen : Nat
  /-- arrivals counted toward g and g + 1 -/
  n0 : Nat
  n1 : Nat
  /-- who arrived toward g and g + 1: participant number, 0–119 cores, 128 + k external -/
  who0 : List Nat
  who1 : List Nat
  ch0 : BitVec 8
  ch1 : BitVec 8
  sent : Bool
  sat : Bool
  cause : Word
  releases : Word
  lastNs : Nat
  /-- unreleased arrivals per core, as (core, generation) (R477) -/
  open_ : List (Nat × Nat)
  metAt : Option DWord
  /-- package time of the last fault (R488) -/
  faultAt : DWord
deriving DecidableEq, Repr

/-- A barrier that is not enabled. -/
def Bar.init : Bar :=
  { st := 0, gen := 0, n0 := 0, n1 := 0, who0 := [], who1 := [], ch0 := 0, ch1 := 0, sent := false, sat := false,
    cause := 0, releases := 0, lastNs := 0, open_ := [], metAt := none, faultAt := 0 }

/-- A line in a way of a slice's cache (R523). -/
structure Line where
  remote : Bool
  /-- home: slice offset of the line; remote: system die × 2^48 + local address -/
  tag : Nat
  data : BitVec 1024
  glaze : Word
  tile : Bool
  stamp : Nat
deriving DecidableEq, Repr

/-- A directory entry: home line, sharers by ring position, INVs not yet acknowledged (R529, R530). -/
structure DirEnt where
  line : Nat
  sharers : BitVec 8
  stamp : Nat
deriving DecidableEq, Repr

/-- A request that waits: for a stack response, for invalidations and the stack's acknowledgement of its frame, for a
directory entry (R525, R529, R542, R658). -/
inductive SWait where
  /-- a read miss whose stack response is awaited -/
  | stackRead (f : Flit) (line : Nat)
  /-- a write performed, whose acknowledgement waits for IACKs; `frame` counts the port's MEM frames up to its last one -/
  | inval (f : Flit) (line : Nat) (awaiting : BitVec 8) (frame : Nat)
  /-- a write performed, whose acknowledgement waits for the stack's ACK of its last frame (R658) -/
  | stackWrite (f : Flit) (line frame : Nat)
  /-- a read that waits until the directory entry of `victim` is free -/
  | evict (f : Flit) (line victim : Nat) (awaiting : BitVec 8)
  /-- a request behind one of these on the same line, or one that waits for room in the ring store (R525, R618) -/
  | behind (f : Flit) (line : Nat)
deriving DecidableEq, Repr

/-- A 2 KiB tile being staged (R539). -/
structure Stage where
  tile : Nat
  src : Nat
  blocks : List Flit
deriving DecidableEq, Repr

/-- A gradient record (R575-R586). -/
structure LvnRec where
  /-- parameter block address and its line in the slice -/
  blk : Nat
  line : Nat
  group : Nat
  data : BitVec 1024
  glaze : Word
  /-- origins (die, partition, Sol sequence) and whether each has committed -/
  origins : List (Nat × Nat × DWord × Bool)
deriving DecidableEq, Repr

/-- A batch: the records that one notice made ready, and the package time of the notice's capture (R584, R604). -/
structure LvnBatch where
  at_ : DWord
  recs : List LvnRec
deriving DecidableEq, Repr

/-- A keep transfer in progress (R558–R561): direction, next slice page and keep block, blocks left to begin, tiles and
blocks that failed, and whether a STOP ended it. -/
structure KeepX where
  load : Bool
  page : Nat
  blk : Nat
  left : Nat
  errs : Nat
  stop : Bool
deriving DecidableEq, Repr

/-- Who asked for a KRD or KWR that is outstanding: the slice's own transfer, its peer, a rewrite (R559, R563), or the reading of a
copy of the keep system area at a takeover (R547, R572). -/
inductive KeepWho where
  | own | peer | rewrite | sys (second : Bool)
deriving DecidableEq, Repr

/-- An outstanding KRD or KWR, in command order: who, logical block of the stack, the record of a write. -/
structure KeepOp where
  who : KeepWho
  blk : Nat
  write : Option KeepRec
deriving DecidableEq, Repr

/-- The manager's map of a stack's keep pool (R557, R562, R563): physical blocks that have left the default map, writes
per physical block, reserve blocks that came back, the next reserve block never used, weighted ages in 1/65,536 h of the
blocks written, and whether KEEP_LOW was sent. -/
structure KeepPool where
  map : Tab Nat
  counts : Tab Nat
  back : List Nat
  next : Nat
  age : Tab Nat
  low : Bool
deriving DecidableEq, Repr

/-- The pool at first use. -/
def KeepPool.init : KeepPool := { map := [], counts := [], back := [], next := 3211264, age := [], low := false }

/-- A slice: SLC, CCH, LVN and MED state beyond the registers. -/
structure Slice where
  clock : Nat
  waits : List SWait
  tiles : List Stage
  /-- activations per row (R551) -/
  acts : Tab Nat
  /-- peer that has taken over (R545) -/
  acting : Bool
  /-- this slice issues REF for its channel (R549, R550) -/
  refreshing : Bool
  refPos : Nat
  /-- package time of the last REF notice (R547) -/
  lastRef : DWord
  armed : Bool
  waitMgr : Bool
  refHalf : Bool
  hotSent : Bool
  /-- retired rows: bank × 2^20 + row to spare row (R555) -/
  remap : Tab Nat
  /-- the row being retired; rows that wait for their retirement; a peer has acknowledged -/
  remapping : Option PeerRow
  heldRows : List PeerRow
  acked : Bool
  scrubAddr : Nat
  /-- corrected lines per row in this scrub pass (R554) -/
  rowCe : Tab Nat
  spareLow : Bool
  keep : Option KeepX
  keepOps : List KeepOp
  /-- the first copy of the keep system area could not be read (R572) -/
  sysBad : Bool
  lvnRecs : List LvnRec
  lvnQueue : List (Flit × List (BitVec 12 × BitVec 4))
  batches : List LvnBatch
deriving DecidableEq, Repr

/-- A slice with nothing held. -/
def Slice.init : Slice :=
  { clock := 0, waits := [], tiles := [], acts := [], acting := false, refreshing := false, refPos := 0, lastRef := 0,
    armed := false, waitMgr := false, refHalf := false, hotSent := false, remap := [], remapping := none, heldRows := [],
    acked := false, scrubAddr := 0, rowCe := [], spareLow := false, keep := none, keepOps := [], sysBad := false, lvnRecs := [], lvnQueue := [], batches := [] }

/-- A staged ring index update (R613, R616): ring, whose it is, which index, value. -/
structure RingUpd where
  ring : Nat
  host : Bool
  prod : Bool
  val : Word
deriving DecidableEq, Repr

/-- A MSG ring's state at the doorbell unit (R623–R625). A receive ring keeps it while disabled, so that each entry of
its peer is kept once. -/
structure MsgRing where
  ring : Nat
  peer : Nat × Nat
  credits : Nat
  /-- send: index of the next entry to send; receive: index after the last entry kept -/
  next : Word
  /-- send: the peer was lost; receive: no entry received yet -/
  stopped : Bool
deriving DecidableEq, Repr

/-- An entry of the coalesce table (R793): the place in the buffer, key and waiting count, in order of first occurrence. -/
structure Coal where
  slot : Nat
  src : Nat
  code : Nat
  count : Nat
  order : Nat
  /-- HDR_ROUTE at the capture, and the buffer offset of the first occurrence's own record -/
  route : Word
  at_ : Nat
deriving DecidableEq, Repr

/-- The Annals beyond its registers (R788-R798). -/
structure Ann where
  buf : Tab Byte
  /-- keys that took a frozen slot in the current incident -/
  keys : List (Nat × Nat)
  slotBusy : Bool
  /-- the message slot stays occupied until the IO link is UP (R798) -/
  slotHeld : Bool
  coal : List Coal
  order : Nat
  seq : Word
  /-- offsets of the records in the alarm and log rings, oldest first -/
  alarmRecs : List (Nat × Nat)
  logRecs : List (Nat × Nat)
  traceFull : Bool
  /-- the buffer survived the last reset (R764) -/
  kept : Bool
  /-- trace records met since the last one kept (R797) -/
  traceSkip : Nat
deriving DecidableEq, Repr

/-- An empty Annals. -/
def Ann.init : Ann :=
  { buf := [], keys := [], slotBusy := false, slotHeld := false, coal := [], order := 0, seq := 0, alarmRecs := [],
    logRecs := [], traceFull := false, kept := false, traceSkip := 0 }

/-- An open block of a spine's reduction (R443–R448): tag, destination, contributions received so far. -/
structure RedBlk where
  tag : Nat
  die : Nat
  addr : Nat
  ptn : Nat
  leaven : Bool
  int : Bool
  spine : Nat
  /-- contributions: rank in the order of R443, the flit, and the group it came through (8: a local core) -/
  parts : List (Nat × Flit × Nat)
  /-- the entry: local mask and counts for IO, OFF, E, W -/
  mask : Nat
  counts : List Nat
deriving DecidableEq, Repr

/-- A die-to-die port beyond its registers (R629–R683). Class lists hold MEM, COH, INT, DBG in that order. -/
structure Port where
  /-- SEQ of the next sequenced frame this side sends, and the SEQ its receiver expects -/
  tx : Nat
  rx : Nat
  /-- retry buffer: SEQ, class (4: control word), times sent (R639, R643) -/
  buf : List (Nat × Nat × Nat)
  /-- frames that wait for credit, buffer space or the end of a remap: class; 4 a control word; 8 + class a HOVR frame -/
  queue : List Nat
  /-- this side asks for a resend (R640) -/
  nak : Bool
  /-- the first copy that failed its CRC since the last accepted frame (R642) -/
  copy : Option (BitVec 640)
  /-- class whose turn comes next in the rotation (R646) -/
  turn : Nat
  credit : List Nat
  lastCount : List Nat
  released : List Nat
  /-- ID frames with a non-zero ECHO received, last one-way delays, last ID frame's TX_TIME and when it came (R674–R676) -/
  ids : Nat
  delays : List Nat
  lastId : Option (DWord × DWord)
  farPos : Option IdRec
  /-- lanes that have failed in a way that a retrain without RESTORE keeps (R670) -/
  restore : Bool
  /-- package time at which training began to fail without a break (R683) -/
  failSince : Option DWord
  /-- the expected SEQ of the far side from CTRL RETIRE, and the next HSEQ fed from HOVR frames (R662) -/
  hseq : Nat
  /-- the far side sent OFFLINE (R666) -/
  farOff : Bool
  /-- the port retrains and returns to the set when UP (R663) -/
  retraining : Bool
  /-- on a stack port: MEM frames handed to it, and how many of them ACK has passed or were discarded (R658) -/
  memPut : Nat
  memAck : Nat
deriving DecidableEq, Repr

/-- A port right after reset; 128 frames of credit per class are granted at training (R647). -/
def Port.init : Port :=
  { tx := 0, rx := 0, buf := [], queue := [], nak := false, copy := none, turn := 0, credit := [128, 128, 128, 128],
    lastCount := [0, 0, 0, 0], released := [0, 0, 0, 0], ids := 0, delays := [], lastId := none, farPos := none,
    restore := false, failSince := none, hseq := 0, farOff := false, retraining := false, memPut := 0, memAck := 0 }

/-- A link group beyond its registers: the ports that a remap in progress takes out (false) or brings in (true)
(R661), and the ports whose last frames it drains (R669). -/
structure Grp where
  remap : List (Nat × Bool)
  drain : Bool
deriving DecidableEq, Repr

/-- A multicast row on its way: source endpoint and transaction, group and the group's mask when the row entered its source leaf
(R463), targets that missed a flit and those that a drop cut off, block addresses seen, copies that hold with the output at which they do
(R437), and the flit with LAST = 1 once it has entered (R436–R439). -/
structure Mcast where
  ep : Nat
  txn : Nat
  grp : Nat
  mask : BitVec 120
  missed : BitVec 120
  dropped : BitVec 120
  seen : List Nat
  held : List (Nat × Flit)
  last : Option Flit
deriving DecidableEq, Repr

/-- A message of a shipment held in the standby's staging area (R735): kind, partition, SEQ, WHERE, data, TILE, GLAZE. -/
structure ShipMsg where
  kind : Nat
  p : Nat
  q : DWord
  whr : DWord
  bytes : List Byte
  tile : Bool
  glaze : Word
deriving DecidableEq, Repr

/-- The twin unit beyond its registers (R727–R759). -/
structure Twn where
  /-- the peer's HELLO agreed; the pair is formed (R729) -/
  formed : Bool
  /-- writes are forwarded while a resilver runs (R754), and the partitions that must still commit once more -/
  forwarding : Bool
  owed : List Nat
  /-- messages of a shipment sent so far: partition, Sol sequence, count -/
  sent : List (Nat × DWord × Nat)
  /-- shipments whose DONE waits for the Leaven batches: partition and Sol sequence -/
  doneWait : List (Nat × DWord)
  /-- standby: messages of shipments held in part, in arrival order, and shipments of which one was discarded (R739) -/
  staged : List ShipMsg
  lost : List (Nat × DWord)
  /-- digests of this side and of the peer: partition, Sol sequence, N, D; and the Sols for which LAG was sent (R741) -/
  mine : List (Nat × DWord × DWord × DWord)
  theirs : List (Nat × DWord × DWord × DWord)
  lagged : List (Nat × DWord)
  pseq : Tab DWord
  /-- standby: the pair is STALE, and a piece of the resilver under way was refused (R739, R755) -/
  stale : Bool
  silverBad : Bool
  /-- SILVERED was sent or captured since the pair formed (R755) -/
  silvered : Bool
  /-- partitions that TAKE moved to this side (R750) -/
  taken : List Nat
  /-- copy under way: 1 SILVER, 2 FOSTER; bytes copied; it met a Glaze or read error -/
  action : Nat
  moved : Nat
  actBad : Bool
deriving DecidableEq, Repr

/-- A twin unit with no pair. -/
def Twn.init : Twn :=
  { formed := false, forwarding := false, owed := [], sent := [], doneWait := [], staged := [], lost := [], mine := [], theirs := [], lagged := [],
    pseq := [], stale := false, silverBad := false, silvered := false, taken := [], action := 0, moved := 0, actBad := false }

/-- The governor and the clocks beyond the PWR registers (R763–R787). -/
structure Pwr where
  /-- serial of the last accepted plan -/
  serial : Option (BitVec 16)
  /-- settings wanted by the latest accepted plan, north and south, MHz -/
  tgtN : Nat
  tgtS : Nat
  /-- target of a slew under way -/
  slewN : Option Nat
  slewS : Option Nat
  /-- a half is stretched for droop -/
  droopN : Bool
  droopS : Bool
  /-- droop events since the last POWER record -/
  evN : Nat
  evS : Nat
  /-- clock that the fused curve allows each half, MHz -/
  vfN : Nat
  vfS : Nat
  /-- rails out of range, and sensors at 115 °C or more, in the last sample -/
  railsBad : List Nat
  sensorsBad : List Nat
  /-- DIE_HOT is armed; 10 µs intervals above L at duty 15; LIMIT was sent for them -/
  hotArmed : Bool
  overL : Nat
  limitSent : Bool
  /-- telemetry periods so far, and the port whose EYE record is next -/
  periods : Nat
  eyePort : Nat
  /-- the north and south PLLs have stopped until CHIP_RESET_N (R765, R783) -/
  pllsOff : Bool
deriving DecidableEq, Repr

/-- The governor right after reset: both settings 1,000 MHz (R766). -/
def Pwr.init : Pwr :=
  { serial := none, tgtN := 1000, tgtS := 1000, slewN := none, slewS := none, droopN := false, droopS := false, evN := 0, evS := 0,
    vfN := 4095, vfS := 4095, railsBad := [], sensorsBad := [], hotArmed := true, overL := 0, limitSent := false, periods := 0, eyePort := 0,
    pllsOff := false }

/-- An entry of the repair record (R702): kind 1 SITE, 2 ARRAY, 3 SLICE, 4 SPINE. -/
structure RecEntry where
  kind : Nat
  unit : Nat
  value : Word
  time : DWord
deriving DecidableEq, Repr

/-- A manifest entry (R714); `dest` to `digest` as its fields. -/
structure FwEntry where
  /-- KIND form: `tgt` is a kind; else a logical core -/
  kindForm : Bool
  tgt : Nat
  size : Nat
  dest : Nat
  scriptOff : Nat
  src : Nat
  digest : BitVec 384
deriving DecidableEq, Repr

/-- A core of a firmware load (R715): logical core, entry, and what it does: 0 waits for its push, 1 ready to hash, 2 fetches its
slice, 3 ready to hash what it fetched. -/
structure FwCore where
  n : Nat
  entry : Nat
  phase : Nat
deriving DecidableEq, Repr

/-- A firmware load under way: the push wait taken at GO, the entries whose PUSH_DONE was captured, the entries once the manifest
is accepted, its log entry, the cores not yet loaded or failed. -/
structure FwJob where
  wait : Nat
  pushed : List Nat
  accepted : Bool
  ents : List FwEntry
  log : Nat
  cores : List FwCore
deriving DecidableEq, Repr

/-- The Almanac beyond its registers (R687–R726). -/
structure Alm where
  /-- BOOT was captured (R689) -/
  booted : Bool
  /-- copies A and B of the repair record: 0 not read, 1 unreadable or not valid, 2 valid; their entries and write sequences -/
  readA : Nat
  readB : Nat
  entA : List RecEntry
  entB : List RecEntry
  seqA : DWord
  seqB : DWord
  /-- the record in force, once read or counted unreadable; events that wait for that -/
  recDone : Bool
  entries : List RecEntry
  recSeq : DWord
  recPend : List RecEntry
  /-- the slices' outcomes are decided (R700) -/
  slicesDone : Bool
  /-- arrays that retest with a repair that the Almanac wrote (R699), or that a record entry named (R701): page, and whether a pass
  appends an entry -/
  retest : List (Nat × Bool)
  /-- logical core whose row's reserve is under test (R710) -/
  subst : Option Nat
  fw : Option FwJob
deriving DecidableEq, Repr

/-- The Almanac right after reset. -/
def Alm.init : Alm :=
  { booted := false, readA := 0, readB := 0, entA := [], entB := [], seqA := 0, seqB := 0, recDone := false, entries := [], recSeq := 0, recPend := [],
    slicesDone := false, retest := [], subst := none, fw := none }

/-- Logical cores that wait for their push (R717). -/
def Alm.waits (a : Alm) : List Nat :=
  match a.fw with
  | some j => (j.cores.filter (fun c => c.phase = 0)).map (·.n)
  | none => []

/-- The test access port beyond TST_STATUS (R820–R830). -/
structure Tap where
  /-- shift stages of the instruction register and of the selected data register, the bit nearest TDO first -/
  ir : List Bool
  dr : List Bool
  /-- TDO, while it is driven -/
  tdo : Option Bool
  /-- boundary register as last updated -/
  bound : List Bool
  /-- bits last updated into the IEEE 1687 network -/
  net : List Bool
  /-- CSA instrument: its 64-bit capture, with DONE, ERROR, offset and read data of the last access; an access is outstanding -/
  csa : DWord
  csaBusy : Bool
  /-- instruments by number: 0 idle, 1 running, 2 done, 3 refused, 4 aborted; and the result -/
  instr : Tab (Nat × DWord)
deriving DecidableEq, Repr

/-- The port in Test-Logic-Reset. -/
def Tap.init : Tap := { ir := [], dr := [], tdo := none, bound := [], net := [], csa := 0, csaBusy := false, instr := [] }

/-- The machine stops with one of these. -/
inductive Fault where
  /-- A command names a unit, page, port or site that the chiplet does not have (R19, R26, R29, R60): no such command
  can reach the part. Raised by the meanings whose operand is a unit number. Safe: the part is never in this case. -/
  | noSuchUnit
deriving DecidableEq, Repr

/-- A command that gets no meaning. -/
inductive Refusal where
  /-- Raised only by an arm of `exec` for a command without a meaning yet. Safe: nothing is claimed of it. -/
  | notModelled (mnemonic : String)
deriving DecidableEq, Repr

/-- The state of the chiplet. -/
structure State where
  /-- commands that are waiting, first in, first out -/
  pending : List Instr
  /-- everything the chiplet has sent, newest last -/
  outbox : List OutMsg
  /-- uses of `Config.freeValue` so far: the model's own field -/
  freeCtr : Nat
  fuses : Fuses
  /-- CHIP_RESET_N is low, or the internal reset of R763 holds -/
  inReset : Bool
  testEn : Bool
  /-- THERMTRIP_N is driven low (R783) -/
  tripped : Bool
  /-- control registers; an unlisted key reads its reset value -/
  regs : Tab Word
  /-- captured wide quantities (R89) and buffered low words (R90), by key of the low word -/
  capt : Tab (BitVec 64)
  /-- pages that have recorded SELFTEST since CHIP_RESET_N and have not passed a retest (R81) -/
  selfFailed : List Nat
  /-- pages whose Starting of self-test has ended, whatever ended it (R76, R78) -/
  testEnded : List Nat
  wbuf : Tab Word
  /-- local package time and the correction still to be slewed (R107-R112) -/
  time : DWord
  timePend : Int
  /-- ns of REFCLK counted towards the next ns of a slew or hold (R109, R110) -/
  timeFrac : Nat
  pwr : Pwr
  ptns : Tab Ptn
  /-- snapshot buffers by (site × 2 + buffer), partition records by (partition × 2 + record), as bytes (R135-R137) -/
  snap : Tab (Tab Byte)
  prec : Tab (Tab Byte)
  /-- plane saves by (site × 2 + buffer) × 2 + array: both planes and which is active (R235) -/
  psave : Tab (List Plane)
  cores : Tab Core
  arrs : Tab Arr
  /-- MXA pages on which MXA_ACTION.BIST runs (R272) -/
  bist : List Nat
  vecs : Tab Vec
  movers : Tab Mover
  gths : Tab Gth
  bars : Tab Bar
  ops : List Op
  unitJobs : Tab UnitJob
  /-- requests that wait for a free place under the limits of R398, in order of arrival -/
  opWait : List (Op × Flit)
  /-- the engine of a site that takes the next free place: 0 and 1 the move engines, 2 the gather engine (R398) -/
  opTurn : Tab Nat
  /-- the chiplet's highest count of outstanding operations, and, for sites whose MOV_PEAK was read since, the highest after that
  read (R412) -/
  peakAll : Nat
  peaks : Tab Nat
  nextTxn : Nat
  netmMasks : Tab (BitVec 120)
  reds : List RedBlk
  /-- contributions that wait in their queues (R444, R448) -/
  redWait : List (Nat × Flit)
  /-- tag entries in the chiplet's cache (R442) -/
  tagCache : List (Nat × BitVec 256)
  /-- partitions whose reduction flits are discarded (R449) -/
  redDead : List Nat
  /-- home sites in force (R706) where they differ from the default map, and the site each row's reserve stands in for -/
  homes : Tab Nat
  standIn : Tab Nat
  slices : Tab Slice
  cache : Tab Line
  dirs : Tab (List DirEnt)
  /-- per-slice heights of link groups 0-3 in 512 MiB units, the placement in force (R517, R519) -/
  heights : List Nat
  dram : Tab Byte
  badGlz : Tab Word
  /-- lines of the stacks whose codeword is uncorrectable, by byte key / 128 (R543) -/
  ueLines : List Nat
  /-- keep pools by stack (link group 0–3) and keep records by stack × 2^22 + logical block -/
  keepPools : Tab KeepPool
  keepRecs : Tab KeepRec
  /-- requests held until the page they need leaves Starting (R86, R375) -/
  heldReqs : List (Nat × Flit)
  ports : Tab Port
  grps : Tab Grp
  /-- dies that have been declared unreachable (R671) -/
  unreach : List Nat
  mcasts : List Mcast
  twn : Twn
  ringStage : List RingUpd
  msgRings : List MsgRing
  ann : Ann
  alm : Alm
  /-- the copies of the repair record on the stacks, as this chiplet last wrote them: 0 A, 1 B (R701, R704) -/
  recCopies : Tab (List Byte)
  /-- the attestation report captured at GO and not yet written (R815) -/
  report : Option (List Byte)
  tap : Tap
deriving DecidableEq, Repr

/-- The fuses of the part that `State.reset` describes: a KMS-C84A with every unit good and every port wired. The manual
leaves these to the part and its integrator: a DESIGN CHOICE of the assumption log. -/
def Fuses.good : Fuses :=
  { variant := 0, dieId := 1, siteGood := BitVec.allOnes 132, sliceGood := BitVec.allOnes 33, spineGood := BitVec.allOnes 8, repairs := [],
    vf := [(0, 0x02260320), (1, 0x028A04E2), (2, 0x02EE06A4), (3, 0x03520834)], rootHash := 1, rootValid := true, keyGood := true,
    wired := BitVec.allOnes 54 }

/-- The chiplet while CHIP_RESET_N is low, right after its assertion (R14, R688): every register at its reset value, every
queue and table empty, memory with nothing listed. The first command to act is RESET_RELEASE. -/
def State.reset : State :=
  { pending := [], outbox := [], freeCtr := 0, fuses := Fuses.good, inReset := true, testEn := false, tripped := false, regs := [],
    selfFailed := [], testEnded := [], capt := [], wbuf := [], time := 0, timePend := 0, timeFrac := 0, pwr := Pwr.init, ptns := [], snap := [], prec := [], psave := [],
    cores := [], arrs := [], bist := [], vecs := [], movers := [], gths := [], bars := [], ops := [], unitJobs := [], opWait := [], opTurn := [], peakAll := 0, peaks := [],
    nextTxn := 0, netmMasks := [], reds := [], redWait := [], tagCache := [], redDead := [], homes := [], standIn := [], slices := [],
    cache := [], dirs := [], heights := [16, 16, 16, 16], dram := [], badGlz := [], ueLines := [], keepPools := [], keepRecs := [],
    heldReqs := [], ports := [], grps := [], unreach := [], mcasts := [], twn := Twn.init, ringStage := [], msgRings := [], ann := Ann.init,
    alm := Alm.init, recCopies := [], report := none, tap := Tap.init }

end Sys2Proof.Machine
end

