-- ==== Sys2Proof/Machine/Ops.lean ====
section
/-! DEFINITION. The named operations over registers: reset values, reads and writes by access code, block states, READY
and the directory, messages sent, byte order. -/

namespace Sys2Proof.Machine

/-! ### Bytes and words -/

/-- The bytes of a number, least significant first (R6). -/
def bytesOf (n v : Nat) : List Byte := (List.range n).map (fun i => BitVec.ofNat 8 (v >>> (8 * i)))

/-- The number that bytes spell, least significant first (R6). -/
def numOf : List Byte → Nat
  | [] => 0
  | b :: t => b.toNat + 256 * numOf t

/-- The bits `i`, `i + 1`, … of a number that are set, below `n`. -/
def bitsSet (n v : Nat) : List Nat := (List.range n).filter (fun i => v.testBit i)

/-! ### Sites, kinds, halves -/

/-- Kind of a column: 0 M, 1 V, 2 S, 3 reserve (R19). -/
def kindOfSite (c : Nat) : Nat :=
  let col := c % 11
  if col < 8 then 0 else if col = 8 then 1 else if col = 9 then 2 else 3

/-- Row of a site. -/
def rowOf (c : Nat) : Nat := c / 11

/-- The south half holds rows 6–11 (R25). -/
def southOf (c : Nat) : Bool := decide (6 ≤ rowOf c)

/-- Site of the reserve core of a row. -/
def reserveOf (row : Nat) : Nat := row * 11 + 10

/-- The link group of a port (R29). -/
def groupOf (port : Nat) : Nat :=
  if port < 32 then port / 8 else if port < 36 then 4 else 5 + (port - 36) / 6

/-- First port and number of ports of a link group (R29). -/
def groupFirst (g : Nat) : Nat := if g < 4 then 8 * g else if g = 4 then 32 else 36 + 6 * (g - 5)
def groupSize (g : Nat) : Nat := if g < 4 then 8 else if g = 4 then 4 else 6
def groupPorts (g : Nat) : List Nat := (List.range (groupSize g)).map (groupFirst g + ·)

/-- A memory port on side B of its stack (R513). -/
def sideB (j : Nat) : Bool := (j / 8) % 2 = 1

/-- The site's kind has the unit of a block (R20, R65). -/
def kindHas (b : Blk) (c : Nat) : Bool :=
  match b with
  | .mxa => kindOfSite c = 0 || kindOfSite c = 3
  | .vec => kindOfSite c ≠ 2
  | .gth => kindOfSite c = 2 || kindOfSite c = 3
  | _ => true

/-! ### Reset values -/

/-- The default map of R706. -/
def defaultHome (n : Nat) : Nat :=
  if n < 96 then n / 8 * 11 + n % 8 else if n < 108 then (n - 96) * 11 + 8 else (n - 108) * 11 + 9

/-- The word whose bytes are `f (4 k)` … `f (4 k + 3)`. -/
def wordOf4 (f : Nat → Nat) (k : Nat) : Word :=
  BitVec.ofNat 32 (f (4 * k) % 256 + 256 * (f (4 * k + 1) % 256) + 65536 * (f (4 * k + 2) % 256) + 16777216 * (f (4 * k + 3) % 256))

/-- IDCODE of the variant (R823): the part number differs by variant. -/
def idcodeOf (variant : Nat) : Word := BitVec.ofNat 32 (0x1C84A5AB + 0x1000 * variant)

/-- Reset value of the register at offset `o` of page `pg` (the Reset columns; R861–R864 for the fixed ones). -/
def resetReg (f : Fuses) (pg o : Nat) : Word :=
  match pageBlk pg with
  | none => 0
  | some (b, i) =>
    if o < 0x40 then
      match o with
      | 0x00 => BitVec.ofNat 32 (b.code * 65536 + i)
      | 0x04 => 0x100
      | 0x08 =>
        match b with
        | .mxa => if kindHas .mxa (i / 2) then 2 else 0
        | .vec => if kindHas .vec i then 2 else 0
        | .gth => if kindHas .gth i then 2 else 0
        | _ => 2
      | 0x18 => BitVec.ofNat 32 (b.causes + 0xF)
      | 0x1C => 3
      | _ => 0
    else
      match b with
      | .dir =>
        if 0x100 ≤ o ∧ o < 0x200 then
          match dirRanges[(o - 0x100) / 8]? with
          | some (t, first, count, stride) =>
            if o % 8 = 0 then BitVec.ofNat 32 (t * 65536 + first)
            else if o % 8 = 4 then BitVec.ofNat 32 (count * 65536 + stride) else 0
          | none => 0
        else ((b.row o).map (fun r => BitVec.ofNat 32 r.reset)).getD 0
      | .glb => if o = R.GLB_VARIANT then BitVec.ofNat 32 f.variant else ((b.row o).map (fun r => BitVec.ofNat 32 r.reset)).getD 0
      | .alm =>
        if R.ALM_MAP0 ≤ o ∧ o < R.ALM_MAP0 + 120 ∧ o % 4 = 0 then wordOf4 defaultHome ((o - R.ALM_MAP0) / 4)
        else if R.ALM_FUSE_SITE0 ≤ o ∧ o < R.ALM_FUSE_SITE0 + 20 ∧ o % 4 = 0 then
          BitVec.ofNat 32 (f.siteGood.toNat >>> (8 * (o - R.ALM_FUSE_SITE0)))
        else if o = R.ALM_FUSE_MISC then
          BitVec.ofNat 32 (f.spineGood.toNat * 256 + b2n (bit f.sliceGood 32))
        else if o = R.ALM_FUSE_SLICES then BitVec.ofNat 32 f.sliceGood.toNat
        else ((b.row o).map (fun r => BitVec.ofNat 32 r.reset)).getD 0
      | .pwr =>
        if R.PWR_VF0 ≤ o ∧ o < R.PWR_VF0 + 16 ∧ o % 4 = 0 then Tab.get 0 f.vf ((o - R.PWR_VF0) / 4)
        else ((b.row o).map (fun r => BitVec.ofNat 32 r.reset)).getD 0
      | .sec =>
        if R.SEC_DIE_ID0 ≤ o ∧ o < R.SEC_DIE_ID0 + 16 ∧ o % 4 = 0 then BitVec.ofNat 32 (f.dieId.toNat >>> (8 * (o - R.SEC_DIE_ID0)))
        else if R.SEC_ROOT_HASH0 ≤ o ∧ o < R.SEC_ROOT_HASH0 + 48 ∧ o % 4 = 0 then
          BitVec.ofNat 32 (f.rootHash.toNat >>> (8 * (o - R.SEC_ROOT_HASH0)))
        else ((b.row o).map (fun r => BitVec.ofNat 32 r.reset)).getD 0
      | .tst => if o = R.TST_IDCODE then idcodeOf f.variant else ((b.row o).map (fun r => BitVec.ofNat 32 r.reset)).getD 0
      | .slc => if o = R.SLC_BIND then (if i < 32 then BitVec.ofNat 32 (0x80000000 + i) else 0)
        else ((b.row o).map (fun r => BitVec.ofNat 32 r.reset)).getD 0
      | .med => if o = R.MED_ROLE then (if i < 32 then BitVec.ofNat 32 (b2n (sideB i)) else 3)
        else ((b.row o).map (fun r => BitVec.ofNat 32 r.reset)).getD 0
      | .lnk => if o = R.LNK_STATUS ∧ groupOf i = 5 then 0x80000
        else ((b.row o).map (fun r => BitVec.ofNat 32 r.reset)).getD 0
      | .netb => if o = R.NETB_SPINES then BitVec.ofNat 32 f.spineGood.toNat
        else ((b.row o).map (fun r => BitVec.ofNat 32 r.reset)).getD 0
      | _ => ((b.row o).map (fun r => BitVec.ofNat 32 r.reset)).getD 0

/-- The register a key names, at reset. -/
def resetKey (f : Fuses) (k : Nat) : Word := resetReg f (k / 0x1000) (k % 0x1000)

/-! ### Registers -/

/-- The register at offset `o` of page `pg`. -/
def getR (s : State) (pg o : Nat) : Word := Tab.get (resetKey s.fuses (regKey pg o)) s.regs (regKey pg o)

/-- The register at offset `o` of page `pg` set to `v`. -/
def setR (pg o : Nat) (v : Word) (s : State) : State :=
  { s with regs := Tab.store (resetKey s.fuses (regKey pg o)) s.regs (regKey pg o) v }

/-- A register as a number. -/
def getN (s : State) (pg o : Nat) : Nat := (getR s pg o).toNat

/-- The field `[lo + len - 1 : lo]` of a register. -/
def getF (s : State) (pg o lo len : Nat) : Nat := fld (getR s pg o) lo len

/-- That field set. -/
def setF (pg o lo len v : Nat) (s : State) : State := setR pg o (setFld (getR s pg o) lo len v) s

/-- A counter that wraps (R103 and others). -/
def wrapR (pg o k : Nat) (s : State) : State := setR pg o (getR s pg o + BitVec.ofNat 32 k) s

/-- A counter that saturates. -/
def satR (pg o k : Nat) (s : State) : State := setR pg o (satAdd (getR s pg o) k) s

/-- A 64-bit quantity in two consecutive registers (R9). -/
def getQ (s : State) (pg o : Nat) : DWord := BitVec.ofNat 64 (getN s pg o + getN s pg (o + 4) * 4294967296)

/-- That quantity set. -/
def setQ (pg o : Nat) (v : DWord) (s : State) : State :=
  setR pg (o + 4) (BitVec.ofNat 32 (v.toNat >>> 32)) (setR pg o (BitVec.ofNat 32 v.toNat) s)

/-- A register of an error record that holds only the first event since it was cleared: filled if VALID is 0. -/
def firstR (pg o : Nat) (v : Nat) (s : State) : State :=
  if bit (getR s pg o) 31 then s else setR pg o (BitVec.ofNat 32 (0x80000000 + v % 0x80000000)) s

/-- A fresh free value; the counter advances. -/
def fresh (s : State) : DWord × State := (Config.freeValue s.freeCtr, { s with freeCtr := s.freeCtr + 1 })

/-- A counter of clock cycles grows by at least one. By how much is free: the model's commands take no counted time. -/
def satFree (pg o : Nat) (s : State) : State :=
  let (v, s) := fresh s
  satR pg o (1 + v.toNat % 4294967296) s

/-- A flit toward endpoint `ep` has waited for credit at its leaf: NETB_COLLECT_BUSY counts it for the endpoint observed (R453). -/
def collectBusy (ep : Nat) (s : State) : State :=
  if getF s Pg.netb R.NETB_COLLECT 0 9 = ep then satFree Pg.netb R.NETB_COLLECT_BUSY s else s

/-- A message leaves. -/
def send (m : OutMsg) (s : State) : State := { s with outbox := s.outbox ++ [m] }

/-! ### Block states (R76) -/

namespace B

abbrev absent : Nat := 0
abbrev stopped : Nat := 1
abbrev starting : Nat := 2
abbrev running : Nat := 3
abbrev stopping : Nat := 4
abbrev faulted : Nat := 5
abbrev retired : Nat := 6

end B

/-- HDR_STATE of a page. -/
def bstate (s : State) (pg : Nat) : Nat := getF s pg R.HDR_STATE 0 3

/-- Is the block Running? -/
def runs (s : State) (pg : Nat) : Bool := bstate s pg = B.running

/-- HDR_READY.READY set or cleared, mirrored in the directory in the same step (R91, R94, R866). -/
def setReady (pg : Nat) (on : Bool) (s : State) : State :=
  if bit (getR s pg R.HDR_READY) 0 = on then s
  else
    let s := setR pg R.HDR_READY (setBit (getR s pg R.HDR_READY) 0 on) s
    let s := setR Pg.dir R.DIR_READY_COUNT (if on then getR s Pg.dir R.DIR_READY_COUNT + 1 else getR s Pg.dir R.DIR_READY_COUNT - 1) s
    wrapR Pg.dir R.DIR_READY_SEQ 1 s

/-- HDR_READY.DEGRADED (R92). -/
def setDegraded (pg : Nat) (on : Bool) (s : State) : State := setR pg R.HDR_READY (setBit (getR s pg R.HDR_READY) 1 on) s

/-- The Starting of self-test of a page has ended. -/
def testOver (pg : Nat) (s : State) : State :=
  if s.testEnded.contains pg then s else { s with testEnded := s.testEnded ++ [pg] }

/-- A page of a partition (R60). -/
def isPtnPage (pg : Nat) : Bool := decide (Pg.ptn 0 ≤ pg) && decide (pg < Pg.ptn 16)

/-- A block enters a state: HDR_STARTS counts entries into Running (R67), READY falls with Retired and Absent (R91), a self-test
under way is over once the page leaves Starting (R77, R78), and a partition that no longer runs is not DEGRADED (R164). -/
def setBState (pg st : Nat) (s : State) : State :=
  let old := bstate s pg
  let s := setR pg R.HDR_STATE (BitVec.ofNat 32 st) s
  let s := if old = B.starting ∧ st ≠ B.starting then testOver pg s else s
  let s := if isPtnPage pg ∧ st ≠ B.running ∧ st ≠ B.stopping then setDegraded pg false s else s
  let s := if st = B.running ∧ old ≠ B.running then satR pg R.HDR_STARTS 1 s else s
  if st = B.retired ∨ st = B.absent then setReady pg false s else s

/-- An RWS write that was ignored (R11, R73, R74). -/
def ignoredRws (pg o : Nat) (s : State) : State :=
  let v := getR s pg R.HDR_IGNORED
  if bit v 0 then s else setR pg R.HDR_IGNORED (setFld (setBit v 0 true) 8 12 o) s

/-- A command that was ignored (R73, R79). -/
def ignoredCmd (pg : Nat) (s : State) : State := setR pg R.HDR_IGNORED (setBit (getR s pg R.HDR_IGNORED) 1 true) s

/-- GLB_DIE_NUM.VALID and DIE (R105). -/
def dieValid (s : State) : Bool := bit (getR s Pg.glb R.GLB_DIE_NUM) 31
def dieNum (s : State) : Nat := getF s Pg.glb R.GLB_DIE_NUM 0 12

/-- A die number lies in this die's package (R54). -/
def inPackage (s : State) (d : Nat) : Bool :=
  dieValid s && decide (getF s Pg.glb R.GLB_PKG 16 12 ≤ d) && decide (d < getF s Pg.glb R.GLB_PKG 16 12 + getF s Pg.glb R.GLB_PKG 4 4)

/-- Map a table entry through `f`, starting from `d` where nothing is listed. -/
def Tab.modify {α : Type} [DecidableEq α] (d : α) (t : Tab α) (k : Nat) (f : α → α) : Tab α :=
  Tab.store d t k (f (Tab.get d t k))

/-- Access to the units by number. -/
def coreAt (s : State) (c : Nat) : Core := Tab.get Core.init s.cores c
def setCore (c : Nat) (v : Core) (s : State) : State := { s with cores := Tab.store Core.init s.cores c v }
def updCore (c : Nat) (f : Core → Core) (s : State) : State := setCore c (f (coreAt s c)) s
def arrAt (s : State) (c : Nat) (m : Bool) : Arr := Tab.get Arr.init s.arrs (2 * c + b2n m)
def setArr (c : Nat) (m : Bool) (v : Arr) (s : State) : State := { s with arrs := Tab.store Arr.init s.arrs (2 * c + b2n m) v }
def vecAt (s : State) (c : Nat) : Vec := Tab.get Vec.init s.vecs c
def setVec (c : Nat) (v : Vec) (s : State) : State := { s with vecs := Tab.store Vec.init s.vecs c v }
def ptnAt (s : State) (p : Nat) : Ptn := Tab.get Ptn.init s.ptns p
def setPtn (p : Nat) (v : Ptn) (s : State) : State := { s with ptns := Tab.store Ptn.init s.ptns p v }
def updPtn (p : Nat) (f : Ptn → Ptn) (s : State) : State := setPtn p (f (ptnAt s p)) s
def barAt (s : State) (b : Nat) : Bar := Tab.get Bar.init s.bars b
def setBar (b : Nat) (v : Bar) (s : State) : State := { s with bars := Tab.store Bar.init s.bars b v }
def sliceAt (s : State) (i : Nat) : Slice := Tab.get Slice.init s.slices i
def setSlice (i : Nat) (v : Slice) (s : State) : State := { s with slices := Tab.store Slice.init s.slices i v }
def updSlice (i : Nat) (f : Slice → Slice) (s : State) : State := setSlice i (f (sliceAt s i)) s
def moverAt (s : State) (c : Nat) (e : Bool) : Mover := Tab.get ⟨[], [], 0⟩ s.movers (2 * c + b2n e)
def setMover (c : Nat) (e : Bool) (v : Mover) (s : State) : State := { s with movers := Tab.store ⟨[], [], 0⟩ s.movers (2 * c + b2n e) v }
def gthAt (s : State) (c : Nat) : Gth := Tab.get Gth.init s.gths c
def setGth (c : Nat) (v : Gth) (s : State) : State := { s with gths := Tab.store Gth.init s.gths c v }

/-- A command whose effect on `s` gives `t`. While the chiplet is held in reset every block is, and no command but those of
the reset itself has an effect (R688, R693). -/
def act (s t : State) : Host.Outcome State Fault Refusal := .next (if s.inReset then s else t)

/-- A command that names unit `i` of `n`: its effect, or a stop where there is no such unit. -/
def onUnit (i n : Nat) (f : State → State) (s : State) : Host.Outcome State Fault Refusal :=
  if i < n then act s (f s) else .fault .noSuchUnit

/-- Fold of a state change over a list, first element first. -/
def foldS {α : Type} (f : α → State → State) : List α → State → State
  | [], s => s
  | a :: t, s => foldS f t (f a s)

/-- Freeze holds the issue of partition `p`: from the third cycle after the raise (R218). -/
def ptnHeld (s : State) (p : Nat) : Bool := decide ((ptnAt s p).skid = some 2)

/-- The freeze of partition `p` ends: cores whose issue it held count its cycles (R410). -/
def unfreeze (p : Nat) (s : State) : State :=
  let s := if ptnHeld s p then foldS (fun c => satFree (Pg.cor c) R.COR_FROZEN_CC) (ptnAt s p).domain s else s
  updPtn p (fun x => { x with skid := none }) s

end Sys2Proof.Machine
end

