-- ==== Sys2Proof/Machine/Route.lean ====
section
/-! DEFINITION. How a message leaves for another die (R646–R656, R671): routes, ports in service, credits and the retry
buffer. -/

namespace Sys2Proof.Machine

-- Link groups (R29).
namespace G

abbrev io : Nat := 4
abbrev off : Nat := 5
abbrev east : Nat := 6
abbrev west : Nat := 7

end G

def portAt (s : State) (p : Nat) : Port := Tab.get Port.init s.ports p
def setPort (p : Nat) (v : Port) (s : State) : State := { s with ports := Tab.store Port.init s.ports p v }
def updPort (p : Nat) (f : Port → Port) (s : State) : State := setPort p (f (portAt s p)) s
def grpAt (s : State) (g : Nat) : Grp := Tab.get ⟨[], false⟩ s.grps g
def setGrp (g : Nat) (v : Grp) (s : State) : State := { s with grps := Tab.store ⟨[], false⟩ s.grps g v }

/-- Ports of a group in service, ascending (LKG_STATUS, R685). -/
def portsIn (s : State) (g : Nat) : List Nat :=
  (groupPorts g).filter (fun p => bit (getR s (Pg.lkg g) R.LKG_STATUS) (p - groupFirst g))

/-- A group is available while it has a port in service and its LKG page is Running (R654). -/
def groupAvail (s : State) (g : Nat) : Bool := !(portsIn s g).isEmpty && runs s (Pg.lkg g)

/-- GLB_PKG fields (R105). -/
def pkgBase (s : State) : Nat := getF s Pg.glb R.GLB_PKG 16 12
def pkgCount (s : State) : Nat := getF s Pg.glb R.GLB_PKG 4 4
def pkgPos (s : State) : Nat := getF s Pg.glb R.GLB_PKG 0 4

/-- Die number of ring position `q`: the dies of one package hold consecutive numbers from BASE (R54). -/
def dieOfPos (s : State) (q : Nat) : Nat := pkgBase s + q

/-- The neighbour on the E or W group (R35). -/
def neighbour (s : State) (g : Nat) : Nat :=
  let n := pkgCount s
  dieOfPos s (if g = G.east then (pkgPos s + 1) % n else (pkgPos s + n - 1) % n)

/-- Link layer version of a group (LKG_FAR). -/
def groupVersion (s : State) (g : Nat) : Nat := getF s (Pg.lkg g) R.LKG_FAR 14 2

/-- The group that R654 would use first for die `d`. -/
def routeFirst (s : State) (d : Nat) : Nat :=
  if d = 0xFFF then G.io
  else if inPackage s d then
    let n := pkgCount s
    let q := d - pkgBase s
    let p := pkgPos s
    if (q + n - p) % n ≤ (p + n - q) % n then G.east else G.west
  else G.off

/-- The route of R654 for a die other than this one. -/
def route (s : State) (d : Nat) : Option Nat :=
  let g := routeFirst s d
  if g = G.io ∨ g = G.off then (if groupAvail s g then some g else none)
  else
    let ok := fun w => groupAvail s w && (decide (neighbour s w = d) || !(s.unreach.contains (neighbour s w)))
    if ok g then some g
    else if ok (G.east + G.west - g) then some (G.east + G.west - g)
    else if groupAvail s G.io ∧ groupVersion s G.io = 2 then some G.io
    else none

/-- A die can be reached: it has not been declared unreachable and has a route (R671). -/
def reachable (s : State) (d : Nat) : Bool := !(s.unreach.contains d) && (route s d).isSome

/-- A discard of a message (R649, R654, R655, R677): counted, the first one recorded in LKG_ERR. -/
def lkgDiscard (g reason d : Nat) (s : State) : State :=
  firstR (Pg.lkg g) R.LKG_ERR (reason * 2 ^ 24 + d % 4096) (satR (Pg.lkg g) R.LKG_DISCARDS 1 s)

/-- Entry `i` of a list of four counts. -/
def nth4 (l : List Nat) (i : Nat) : Nat := (l[i]?).getD 0

/-- Signed 12-bit difference of sequence numbers (R638). -/
def seqDiff (a b : Nat) : Int := signedOf 12 (a + 4096 - b % 4096)

/-- Can a waiting item leave now (R639, R647, R661)? A control word needs buffer space; a HOVR frame (8 + class) and a DATA
frame also a credit; new DATA frames wait while a remap of the group is in progress, and on a stack port while it is out of
service (R663). -/
def canSend (s : State) (port item : Nat) : Bool :=
  let x := portAt s port
  decide (x.buf.length < 512) && (item = 4 ||
    (decide (0 < nth4 x.credit (item % 8)) && (decide (8 ≤ item) || (grpAt s (groupOf port)).remap.isEmpty) &&
      (decide (4 ≤ groupOf port) || (portsIn s (groupOf port)).contains port)))

/-- A frame enters the retry buffer and leaves. -/
def putFrame (port item : Nat) (s : State) : State :=
  let x := portAt s port
  let c := item % 8
  wrapR (Pg.lst port) R.LST_FRAMES_TX 1
    (setPort port { x with buf := x.buf ++ [(x.tx, c, 1)], tx := (x.tx + 1) % 4096,
                           credit := if c = 4 then x.credit else x.credit.set c (nth4 x.credit c - 1) } s)

/-- The waiting item that goes next: control words, then the classes in rotation from `turn` (R646). -/
def nextItem (s : State) (port : Nat) : Option Nat :=
  let x := portAt s port
  if x.queue.contains 4 ∧ canSend s port 4 then some 4
  else (List.range 4).findSome? (fun k =>
    let c := (x.turn + k) % 4
    match x.queue.find? (fun i => i ≠ 4 ∧ i % 8 = c) with
    | some i => if canSend s port i then some i else none
    | none => none)

/-- Waiting frames leave while they can. -/
def flushN : Nat → Nat → State → State
  | 0, _, s => s
  | n + 1, port, s =>
    match nextItem s port with
    | none => s
    | some i =>
      let x := portAt s port
      flushN n port (putFrame port i (setPort port { x with queue := x.queue.erase i, turn := if i = 4 then x.turn else (i % 8 + 1) % 4 } s))
def portFlush (port : Nat) (s : State) : State := flushN (portAt s port).queue.length port s

/-- A frame of class `cls` (4: a control word; 8 + class: HOVR) is handed to a port: it leaves, or waits behind the frames
of its class. -/
def portSend (port cls : Nat) (s : State) : State :=
  let x := portAt s port
  let q := if 8 ≤ cls then x.queue.filter (8 ≤ ·) ++ [cls] ++ x.queue.filter (· < 8) else x.queue ++ [cls]
  portFlush port (setPort port { x with queue := q, memPut := if cls = 0 then x.memPut + 1 else x.memPut } s)

/-- A port's retry buffer and queue are discarded. -/
def portClear (port : Nat) (s : State) : State := updPort port (fun x => { x with buf := [], queue := [], memAck := x.memPut }) s

/-- Frames that a message with `len` body units of 8 bytes takes when each message begins a frame (R634, R648). -/
def framesOf (len : Nat) : Nat := (8 + 8 * len + 63) / 64

/-- Frames of a stack command: its 8-byte word, with a codeword for WR (OP 5) and a keep record for KWR (OP 17) (R657). -/
def stackFrames (op : Nat) : Nat := framesOf (if op = 5 then 18 else if op = 17 then 544 else 0)

/-- The port of a group that R653 picks by hash `h`. -/
def pickPort (s : State) (g h : Nat) : Option Nat :=
  let ps := portsIn s g
  if ps = [] then none else ps[h % ps.length]?

/-- Frames of one message pushed into a port. -/
def portPush (port cls : Nat) : Nat → State → State
  | 0, s => s
  | n + 1, s => portPush port cls n (portSend port cls s)

/-- A message of class `cls` with `len` body units goes out through group `g`, on the port of hash `h` (R653). -/
def groupPost (g h cls len : Nat) (m : OutMsg) (s : State) : State :=
  match pickPort s g h with
  | some p => send m (portPush p cls (framesOf len) s)
  | none => send m s

/-- A message for die `d`, hashed by `h`: sent; discarded where there is no route (R654) or the die has been declared
unreachable (R672); the flag says whether it left. -/
def post (d h cls len : Nat) (m : OutMsg) (s : State) : Bool × State :=
  match route s d with
  | some g => if s.unreach.contains d then (false, s) else (true, groupPost g h cls len m s)
  | none => (false, lkgDiscard (routeFirst s d) 1 d s)

/-- A message that is not a flit and no request (R653: hashed by SDIE XOR DDIE). -/
def postMsg (d cls len : Nat) (m : OutMsg) (s : State) : State := (post d (dieNum s ^^^ d) cls len m s).2

-- Classes (R635).
namespace Cls

abbrev mem : Nat := 0
abbrev coh : Nat := 1
abbrev int : Nat := 2
abbrev dbg : Nat := 3

end Cls

/-- Body units of a flit in a link message (R650). -/
def flitUnits (typ : Nat) : Nat :=
  if typ = 1 then 21 else if typ = 2 ∨ typ = 4 ∨ typ = 5 ∨ typ = 6 ∨ typ = 8 then 19 else 3

/-- Hash of a FLIT or CFLIT (R653). -/
def flitHash (f : Flit) (d : Nat) : Nat := (f.addr.toNat / 128 % 128) ^^^ (d % 128)

/-- A flit for another die: FLIT in class MEM, or CFLIT in class COH for INV and IACK (R649, R650). -/
def postFlit (d : Nat) (f : Flit) (s : State) : Bool × State :=
  if f.typ = 9 ∨ f.typ = 10 then post d (flitHash f d) Cls.coh (flitUnits f.typ.toNat) (.cflit d f) s
  else post d (flitHash f d) Cls.mem (flitUnits f.typ.toNat) (.far d f) s

end Sys2Proof.Machine
end

