-- ==== Sys2Proof/Machine/Frames.lean ====
section
/-! DEFINITION. Frames as bytes (R630–R638): fields, CRC-32, data positions, the ID record, and a frame that this side makes. -/

namespace Sys2Proof.Machine

/-! ### The CRC-32 (R637) -/

/-- One bit step of the reflected IEEE 802.3 polynomial. -/
def ieeeBit (crc : Nat) : Nat := if crc % 2 = 1 then (crc / 2) ^^^ 0xEDB88320 else crc / 2

/-- Eight bit steps after a byte is added. -/
def ieeeByte (crc : Nat) (b : Byte) : Nat :=
  ieeeBit (ieeeBit (ieeeBit (ieeeBit (ieeeBit (ieeeBit (ieeeBit (ieeeBit (crc ^^^ b.toNat))))))))

/-- CRC-32 of IEEE 802.3 over bytes in the order sent (R637). -/
def crc32 (bs : List Byte) : Word := BitVec.ofNat 32 (0xFFFFFFFF - bs.foldl ieeeByte 0xFFFFFFFF)

/-! ### Fields (R634, R635, R638); byte 0 of a frame is its low byte -/

/-- Byte `j` of a frame. -/
def frameByte (f : BitVec 640) (j : Nat) : Byte := f.extractLsb' (8 * j) 8

/-- The bytes that the CRC covers. -/
def coveredBytes (f : BitVec 640) : List Byte := (List.range 76).map (frameByte f)

/-- A frame passes its CRC (R637). -/
def crcPasses (f : BitVec 640) : Bool := f.extractLsb' 608 32 == crc32 (coveredBytes f)

/-- KIND of a frame as it stands in its header (R635, R636). -/
def frameKind (f : BitVec 640) : Nat := (f.extractLsb' 60 4).toNat

/-- A frame that failed its CRC, or carries a KIND of 5–15, which is treated as one (R636). -/
def frameBad (f : BitVec 640) : Bool := !crcPasses f || decide (5 ≤ frameKind f)

/-- DATA, CTRL and HOVR are sequenced (R636). DESIGN CHOICE: the KIND as received says whether a failed frame was a sequenced
one, and a KIND of 5–15 counts as sequenced. -/
def sequencedKind (k : Nat) : Bool := k = 1 || k = 2 || decide (4 ≤ k)

end Sys2Proof.Machine

namespace Sys2Proof

/-- Header fields of a received frame (R635). -/
def Frame.cls (f : Frame) : BitVec 2 := f.bits.extractLsb' 58 2
def Frame.cclass (f : Frame) : BitVec 2 := f.bits.extractLsb' 49 2
def Frame.credits (f : Frame) : BitVec 8 := f.bits.extractLsb' 41 8
def Frame.hport (f : Frame) : BitVec 3 := f.bits.extractLsb' 38 3
def Frame.hseq (f : Frame) : BitVec 12 := f.bits.extractLsb' 26 12

/-- Payload bytes 0–63 (R634). -/
def Frame.payload (f : Frame) : BitVec 512 := f.bits.extractLsb' 64 512

/-- SEQ/ACK word of a received frame (R638). -/
def Frame.seq (f : Frame) : BitVec 12 := f.bits.extractLsb' 596 12
def Frame.ack (f : Frame) : BitVec 12 := f.bits.extractLsb' 584 12
def Frame.nak (f : Frame) : Bool := f.bits.getLsbD 583

/-- Control word of a CTRL frame (R636, R666). -/
def Frame.ctrlOp (f : Frame) : BitVec 8 := f.payload.extractLsb' 56 8
def Frame.ctrlArg (f : Frame) : BitVec 8 := f.payload.extractLsb' 48 8
def Frame.ctrlSeq (f : Frame) : BitVec 12 := f.payload.extractLsb' 36 12

/-- The ID record of an ID frame (R675), `none` for another type than the common one; `rx` is the receiver's own count at the
frame's first byte (R676). -/
def Frame.idRec (f : Frame) (rx : DWord) : Option IdRec :=
  let w := f.payload
  if w.extractLsb' 0 16 = 1 then
    some { kind := w.extractLsb' 16 8, versions := w.extractLsb' 24 8, valid := w.getLsbD 47, die := w.extractLsb' 32 12,
           portByte := w.extractLsb' 48 8, group := w.extractLsb' 56 8, base := w.extractLsb' 64 12, count := w.extractLsb' 84 4,
           pos := w.extractLsb' 80 4, txTime := w.extractLsb' 128 64, echo := w.extractLsb' 192 64, echoHold := w.extractLsb' 256 64,
           uid := w.extractLsb' 320 128, rxTime := rx }
  else none

end Sys2Proof

namespace Sys2Proof.Machine

/-- The payload that carries an ID record (R675). -/
def idPayload (r : IdRec) : BitVec 512 :=
  BitVec.ofNat 512 (1 + 2 ^ 16 * r.kind.toNat + 2 ^ 24 * r.versions.toNat + 2 ^ 32 * r.die.toNat + 2 ^ 47 * b2n r.valid +
    2 ^ 48 * r.portByte.toNat + 2 ^ 56 * r.group.toNat + 2 ^ 64 * r.base.toNat + 2 ^ 80 * r.pos.toNat + 2 ^ 84 * r.count.toNat +
    2 ^ 128 * r.txTime.toNat + 2 ^ 192 * r.echo.toNat + 2 ^ 256 * r.echoHold.toNat + 2 ^ 320 * r.uid.toNat)

/-- Bytes 0–75 with their CRC-32 behind them (R634, R637). -/
def frameSeal (head : BitVec 608) : BitVec 640 :=
  BitVec.ofNat 640 (head.toNat + 2 ^ 608 * (crc32 (coveredBytes (head.setWidth 640))).toNat)

/-- A frame that a port sends outside its sequence (R635, R638): SEQ names the next sequenced frame, ACK the one expected. Which
class CCLASS reports turns with every frame sent (R647), idle ones too, so that the command leaves it open: a free value. -/
def idleFrame (port kind : Nat) (payload : BitVec 512) (s : State) : BitVec 640 × State :=
  let x := portAt s port
  let (v, s) := fresh s
  let c := v.toNat % 4
  (frameSeal (BitVec.ofNat 608 (2 ^ 60 * kind + 2 ^ 49 * c + 2 ^ 41 * nth4 x.released c + 2 ^ 64 * payload.toNat +
    2 ^ 576 * (2 ^ 20 * x.tx + 2 ^ 8 * x.rx + 2 ^ 7 * b2n x.nak))), s)

/-- A received frame from its 8-byte header, its payload and the SEQ/ACK word with the CRC (R634). -/
def frameOf (head : BitVec 64) (payload : BitVec 512) (tail : BitVec 64) (corr : List Nat) : Frame := ⟨tail ++ payload ++ head, corr⟩

/-- The CTRL row of a received frame. -/
def ctrlRow (p : Nat) (f : Frame) : Instr := .ctrl p (f.bits.extractLsb' 0 64) f.payload (f.bits.extractLsb' 576 64) f.corr

/-! ### Data positions (R631) -/

/-- The data position that carries byte `j` of a frame (R631): j mod W, W 16 at full width and 8 at half width. DEDUCED: at half
width the positions are those of the half in use (R665). -/
def bytePos (half : Option Nat) (j : Nat) : Nat :=
  match half with
  | none => j % 16
  | some h => 8 * h + j % 8

/-- The stream of one data position: the bytes of a frame that it carries, in the order sent (R631). -/
def posStream (half : Option Nat) (f : BitVec 640) (pos : Nat) : List Byte :=
  ((List.range 80).filter (fun j => bytePos half j = pos)).map (frameByte f)

/-- Data positions on which a byte of two copies of a frame differs (R642). -/
def diffPositions (half : Option Nat) (a b : BitVec 640) : List Nat :=
  (List.range 16).filter (fun pos => posStream half a pos != posStream half b pos)

end Sys2Proof.Machine
end

