-- ==== Sys2Proof/Machine/Place.lean ====
section
/-! DEFINITION. Which site serves a logical core (R706–R708), which slice serves an address (R512–R519), and the
placement of homed memory on the stacks. -/

namespace Sys2Proof.Machine

/-! ### Logical cores and sites -/

/-- Home site of logical core `n` in the map in force (R706). -/
def homeSite (s : State) (n : Nat) : Nat := (Tab.find s.homes n).getD (defaultHome n)

/-- Kind of logical core `n`: the kind of its home site (R706): 0 M, 1 V, 2 S. -/
def kindOfLogical (s : State) (n : Nat) : Nat := kindOfSite (homeSite s n)

/-- Bit `i` of a family of consecutive registers. -/
def familyBit (s : State) (pg o i : Nat) : Bool := bit (getR s pg (o + 4 * (i / 32))) (i % 32)

/-- That bit set to `b`. -/
def setFamilyBit (pg o i : Nat) (b : Bool) (s : State) : State :=
  setR pg (o + 4 * (i / 32)) (setBit (getR s pg (o + 4 * (i / 32))) (i % 32) b) s

/-- ALM_USED: the site is in service, as a home site or as a reserve standing in (R724). -/
def siteUsed (s : State) (c : Nat) : Bool := familyBit s Pg.alm R.ALM_USED0 c

/-- ALM_STATUS.ROWS_DONE: the placement of the row is fixed (R708). -/
def rowFixed (s : State) (row : Nat) : Bool := bit (getR s Pg.alm R.ALM_STATUS) (12 + row)

/-- The site in force for logical core `n` (R707): its home site, or the reserve that stands in for it. -/
def siteOf (s : State) (n : Nat) : Option Nat :=
  let h := homeSite s n
  if n < 120 then
    if rowFixed s (rowOf h) then
      if Tab.find s.standIn (rowOf h) = some h then
        (if siteUsed s (reserveOf (rowOf h)) then some (reserveOf (rowOf h)) else none)
      else if siteUsed s h then some h else none
    else none
  else none

/-- The logical core at a site, if any (COR_ID.LOGICAL, R410). -/
def logicalAt (s : State) (c : Nat) : Option Nat :=
  (List.range 120).find? (fun n => siteOf s n = some c)

/-- The kind a site runs as: 0 M, 1 V, 2 S; `none` for a reserve that stands in for nothing (R21, R410). -/
def runsAs (s : State) (c : Nat) : Option Nat :=
  if kindOfSite c < 3 then some (kindOfSite c) else (Tab.find s.standIn (rowOf c)).map kindOfSite

/-- Scratchpad size in bytes of a kind (R20). -/
def spadSize (kind : Nat) : Nat := match kind with | 0 => 3145728 | 1 => 4194304 | _ => 2097152

/-- PTN_MASK0–3 of a partition as one number (R119). -/
def ptnMask (s : State) (p : Nat) : Nat :=
  getN s (Pg.ptn p) R.PTN_MASK0 + getN s (Pg.ptn p) R.PTN_MASK1 * 2 ^ 32 + getN s (Pg.ptn p) R.PTN_MASK2 * 2 ^ 64 +
    getN s (Pg.ptn p) R.PTN_MASK3 * 2 ^ 96

/-- The logical cores of a partition, ascending. -/
def ptnLogicals (s : State) (p : Nat) : List Nat := bitsSet 120 (ptnMask s p)

/-- The sites of a partition's cores, in ascending logical order. -/
def ptnSites (s : State) (p : Nat) : List Nat := (ptnLogicals s p).filterMap (siteOf s)

/-- A partition holds its cores: Starting, Running, Stopping or Faulted (R120). -/
def ptnActive (s : State) (p : Nat) : Bool :=
  let b := bstate s (Pg.ptn p)
  b = B.starting || b = B.running || b = B.stopping || b = B.faulted

/-- The active partition that logical core `n` belongs to (R120). -/
def ptnOfLogical (s : State) (n : Nat) : Option Nat :=
  (List.range nPtns).find? (fun p => ptnActive s p && (ptnMask s p).testBit n)

/-- The active partition that a site belongs to. -/
def ptnOfSite (s : State) (c : Nat) : Option Nat := (logicalAt s c).bind (ptnOfLogical s)

/-! ### Homed addresses -/

/-- One segment of R517: local base, per-slice step, the link groups in it, and the slice offset where it starts in
each group. -/
structure Seg where
  base : Nat
  step : Nat
  groups : List Nat
  used : List Nat
deriving DecidableEq, Repr

/-- The loop of R517 over the per-slice heights; four groups give at most four segments. -/
def segments : Nat → Nat → List Nat → List Nat → List Seg
  | 0, _, _, _ => []
  | fuel + 1, base, h, used =>
    let gs := (List.range 4).filter (fun k => (used[k]?).getD 0 < (h[k]?).getD 0)
    match gs with
    | [] => []
    | g :: rest =>
      let room := fun k => (h[k]?).getD 0 - (used[k]?).getD 0
      let step := rest.foldl (fun m k => Nat.min m (room k)) (room g)
      let used' := (List.range 4).map (fun k => if gs.contains k then (used[k]?).getD 0 + step else (used[k]?).getD 0)
      { base := base, step := step, groups := gs, used := used } ::
        segments fuel (base + 8 * gs.length * step) h used'

/-- The per-slice heights in bytes. -/
def heightBytes (s : State) : List Nat := s.heights.map (· * 536870912)

/-- The segments in force. -/
def segs (s : State) : List Seg := segments 4 0 (heightBytes s) [0, 0, 0, 0]

/-- The home size: the sum of the four home ranges (R39, R48). -/
def homeSize (s : State) : Nat := (heightBytes s).foldl (· + 8 * ·) 0

/-- Slot and slice offset of a homed address (R517). -/
def placeIn (a : Nat) : List Seg → Option (Nat × Nat)
  | [] => none
  | g :: t =>
    let m := 8 * g.groups.length
    if a < g.base + m * g.step then
      let n := (a - g.base) / 4096
      let j := n % m
      let grp := (g.groups[j / 8]?).getD 0
      some (grp * 8 + j % 8, (g.used[grp]?).getD 0 + n / m * 4096 + a % 4096)
    else placeIn a t

/-- Slot and slice offset of a homed address in force. -/
def place (s : State) (a : Nat) : Option (Nat × Nat) := placeIn a (segs s)

/-- The slice bound to memory port `j` (R26, R512); `none` if the port is unserved (R700). -/
def sliceOfPort (s : State) (j : Nat) : Option Nat :=
  (List.range nSlices).find? (fun i =>
    getR s (Pg.slc i) R.SLC_BIND == BitVec.ofNat 32 (0x80000000 + j) && bstate s (Pg.slc i) ≠ B.absent && bstate s (Pg.slc i) ≠ B.retired)

/-- The memory port a slice is bound to. -/
def portOfSlice (s : State) (i : Nat) : Option Nat :=
  let v := getR s (Pg.slc i) R.SLC_BIND
  if bit v 31 ∧ fld v 0 6 < 32 then some (fld v 0 6) else none

/-- Base of the slice's own range in its channel (R514, R518): side B starts above side A. -/
def sideBase (s : State) (i j : Nat) : Nat :=
  if sideB j then getF s (Pg.slc i) R.SLC_HOME 0 8 * 536870912 else 0

/-- Key in `State.dram` of channel address `x` of memory port `j`. -/
def chanKey (j x : Nat) : Nat := j * 2 ^ 34 + x

/-- Where a homed byte lies: serving slice, slot, slice offset, key of the byte. -/
structure Home where
  slice : Nat
  slot : Nat
  off : Nat
  key : Nat
deriving DecidableEq, Repr

/-- The place of a homed address, whatever the states of its pages: what slice `i` bound to slot `j` holds at offset `off`. -/
def homeIn (s : State) (i j off : Nat) : Home := { slice := i, slot := j, off := off, key := chanKey j (sideBase s i j + off) }
def homeSpot (s : State) (a : Nat) : Option Home :=
  match place s a with
  | none => none
  | some (j, off) => (sliceOfPort s j).map (fun i => homeIn s i j off)

/-- The place of a homed address: an error reason of R542 with the slice that records it (`none` for a port that no
slice serves, R544), or the place. -/
def homeOf (s : State) (a : Nat) : Except (Nat × Option Nat) Home :=
  match place s a with
  | none => .error (1, sliceOfPort s (a / 4096 % 32))
  | some (j, off) =>
    match sliceOfPort s j with
    | none => .error (5, none)
    | some i =>
      if bstate s (Pg.slc i) = B.running && bstate s (Pg.lnk j) ≠ B.retired then
        .ok (homeIn s i j off)
      else .error (5, some i)

/-- The place for a request that the slice holds already: STOP completes it (R566). -/
def homeHeld (s : State) (a : Nat) : Except (Nat × Option Nat) Home :=
  match homeOf s a with
  | .error (5, some i) =>
    match homeSpot s a with
    | some h => if bstate s (Pg.slc i) = B.stopping && bstate s (Pg.lnk h.slot) ≠ B.retired then .ok h else .error (5, some i)
    | none => .error (5, some i)
  | r => r

/-! ### Tiles and Glaze -/

/-- One byte into the CRC-32C of R533. -/
def crcBit (crc : Nat) : Nat := if crc % 2 = 1 then (crc / 2) ^^^ 0x82F63B78 else crc / 2

/-- Eight bit steps after a byte is added. -/
def crcByte (crc : Nat) (b : Byte) : Nat :=
  crcBit (crcBit (crcBit (crcBit (crcBit (crcBit (crcBit (crcBit (crc ^^^ b.toNat))))))))

/-- The CRC-32C of R533 with a seed, over bytes in ascending address order. -/
def crc32c (seed : Nat) (bs : List Byte) : Word :=
  BitVec.ofNat 32 (0xFFFFFFFF - bs.foldl crcByte (0xFFFFFFFF - seed % 4294967296))

/-- The seed of a tile: bits [38:7] of its address (R534). -/
def glzSeed (a : Nat) : Nat := a / 128 % 4294967296

/-- A 2 MiB region (local address [47:21]) has 2 KiB tiles: some valid SLC_GRT entry names it (R535, R568). -/
def bigTile (s : State) (a : Nat) : Bool :=
  (List.range 64).any (fun e =>
    let w0 := getN s (Pg.slc 0) (R.SLC_GRT0 + 8 * e)
    let w1 := getR s (Pg.slc 0) (R.SLC_GRT0 + 8 * e + 4)
    bit w1 31 && decide (w0 ≤ a / 2097152) && decide (a / 2097152 ≤ w0 + fld w1 0 18))

/-- `len` bytes of the stack from a key. -/
def dramBytes (s : State) (key len : Nat) : List Byte := Tab.slice 0 s.dram key len

/-- Those bytes written. -/
def putDram (key : Nat) (bs : List Byte) (s : State) : State := { s with dram := Tab.storeList 0 s.dram key bs }

/-- The stored Glaze of the tile of `len` bytes whose address is `a` and whose first byte has key `key`: the value kept
where it does not match the contents, else the CRC of the contents (R533, R538). -/
def storedGlz (s : State) (a key len : Nat) : Word :=
  (Tab.find s.badGlz key).getD (crc32c (glzSeed a) (dramBytes s key len))

/-- A stored Glaze written after the contents: kept only where it differs from the CRC of the contents. -/
def putGlz (a key len : Nat) (g : Word) (s : State) : State :=
  if g = crc32c (glzSeed a) (dramBytes s key len) then { s with badGlz := Tab.erase s.badGlz key }
  else { s with badGlz := Tab.put s.badGlz key g }

/-- Base address of the tile that holds a homed address, and its length (R535). -/
def tileOf (s : State) (a : Nat) : Nat × Nat := if bigTile s a then (a / 2048 * 2048, 2048) else (a / 128 * 128, 128)

end Sys2Proof.Machine
end

