-- ==== Sys2Proof/Machine/Dir.lean ====
section
/-! DEFINITION. The directory of a slice's home lines and the invalidations that a home write sends (R529, R532). -/

namespace Sys2Proof.Machine

/-- Set of a line by its offset. -/
def cacheSet (x : Nat) : Nat := (x / 128 % 8192) ^^^ (x / 128 / 8192 % 8192)

/-- Key of a directory set. -/
def dirKey (i line : Nat) : Nat := i * 8192 + cacheSet (line * 128)
def dirSetOf (s : State) (i line : Nat) : List DirEnt := Tab.get [] s.dirs (dirKey i line)

/-- The set replaced; SLC_DIR_USED follows. -/
def setDir (i line : Nat) (l : List DirEnt) (s : State) : State :=
  let old := (dirSetOf s i line).length
  let u := getN s (Pg.slc i) R.SLC_DIR_USED
  setR (Pg.slc i) R.SLC_DIR_USED (BitVec.ofNat 32 (u + l.length - old)) { s with dirs := Tab.store [] s.dirs (dirKey i line) l }

/-- INV for the home line at local address `a` to every die whose bit is set; a die that cannot be reached counts as
having acknowledged (R532). Answers the bits still awaited. -/
def sendInvs (i a : Nat) (sharers : BitVec 8) (s : State) : BitVec 8 × State :=
  (List.range 8).foldl (fun (st : BitVec 8 × State) q =>
    if bit sharers q then
      let d := dieOfPos st.2 q
      if reachable st.2 d then
        let f : Flit := { typ := 9, status := 0, src := BitVec.ofNat 9 (0x100 + i), dst := 0, txn := 0, ptn := 0,
                          die := BitVec.ofNat 12 (dieNum st.2), addr := BitVec.ofNat 48 (a / 128 * 128), rtag := 0, rtype := false,
                          last := false, tile := false, glaze := 0, data := 0, ben := 0, ecc := 0,
                          sdie := BitVec.ofNat 12 (dieNum st.2) }
        (setBit st.1 q true, wrapR (Pg.slc i) R.SLC_INV_SENT 1 (postFlit d f st.2).2)
      else st
    else st) (0, s)

/-- A home write: INV to every sharer, the vector cleared (R529). The entry is freed at the last IACK. -/
def dirWrite (i line a : Nat) (s : State) : BitVec 8 × State :=
  match (dirSetOf s i line).find? (fun e => e.line = line) with
  | some e =>
    let (aw, s) := sendInvs i a e.sharers s
    let l := dirSetOf s i line
    if aw = 0 then (0, setDir i line (l.filter (fun x => x.line ≠ line)) s)
    else (aw, setDir i line (l.map (fun x => if x.line = line then { x with sharers := 0 } else x)) s)
  | none => (0, s)

/-- A write by a unit of the base layer, which waits for no acknowledgement: INV to every sharer, the entry freed. -/
def dirSweep (i line a : Nat) (s : State) : State :=
  let s := (dirWrite i line a s).2
  if (dirSetOf s i line).any (fun e => e.line = line) then setDir i line ((dirSetOf s i line).filter (fun e => e.line ≠ line)) s else s

end Sys2Proof.Machine
end

