-- ==== Sys2Proof/Machine/TwinBase.lean ====
section
/-! DEFINITION. What every write tells the twin unit (R733, R734, R740, R754): mirror blocks, forwarded writes and
digests. The twin's own steps are in Machine/Twin.lean. -/

namespace Sys2Proof.Machine

/-- TWN_CFG fields (R758). -/
def twnMode (s : State) : Nat := getF s Pg.twn R.TWN_CFG 0 2
def twnStandby (s : State) : Bool := bit (getR s Pg.twn R.TWN_CFG) 2
def twnPtn (s : State) (p : Nat) : Bool := bit (getR s Pg.twn R.TWN_CFG) (16 + p)
def twnPeer (s : State) : Nat := getF s Pg.twn R.TWN_PEER 0 12

/-- PSTATE of TWN_STATUS (R758): 0 UNPAIRED … 6 PEER_LOST. -/
def pstate (s : State) : Nat := getF s Pg.twn R.TWN_STATUS 29 3
def setPstate (v : Nat) (s : State) : State := setF Pg.twn R.TWN_STATUS 29 3 v s

/-- The pair is formed and this side sends (R731, R754). -/
def twnUp (s : State) : Bool := runs s Pg.twn && s.twn.formed && decide (pstate s ≠ 6)

/-- A TWIN message (R733), class MEM. -/
def twinSend (kind p : Nat) (q whr : DWord) (bs : List Byte) (s : State) : State :=
  postMsg (twnPeer s) Cls.mem ((23 + bs.length) / 8) (.twin kind p q whr bs) s

/-- A message of the shipment of partition `p` in progress: counted for its DONE (R734). A BLOCK of Sol 0 is not counted: the
standby writes BLOCKs with SEQ 0 at once (R755). -/
def shipSend (kind p : Nat) (q whr : DWord) (bs : List Byte) (s : State) : State :=
  let s := twinSend kind p q whr bs s
  let l := s.twn.sent
  if kind = 5 ∧ q = 0 then s
  else
  { s with twn := { s.twn with sent := if l.any (fun e => e.1 = p ∧ e.2.1 = q) then l.map (fun e => if e.1 = p ∧ e.2.1 = q then (p, q, e.2.2 + 1) else e)
                                       else l ++ [(p, q, 1)] } }

/-- The active side of a SHADOW pair ships partition `p`. -/
def ships (s : State) (p : Nat) : Bool := twnUp s && decide (twnMode s = 1) && !twnStandby s && twnPtn s p

/-- Data of a BLOCK message: the 128 bytes, then the check word of R650. -/
def blockBytes (s : State) (a key : Nat) : List Byte :=
  let bs := dramBytes s key 128
  bs ++ bytesOf 8 ((crc32c (glzSeed a) bs).toNat + b2n (bigTile s a) * 2 ^ 32)

/-- The partitions whose enabled mirror ranges hold a homed address (TWN_MR, R734). -/
def mirrorPtns (s : State) (a : Nat) : List Nat :=
  ((List.range 8).filterMap (fun r =>
    let w0 := getR s Pg.twn (R.TWN_MR0 + 8 * r)
    let w1 := getR s Pg.twn (R.TWN_MR0 + 8 * r + 4)
    if bit w0 31 ∧ fld w0 0 27 ≤ a / 2097152 ∧ a / 2097152 ≤ fld w0 0 27 + fld w1 0 18 then some (fld w1 28 4) else none)).dedup

/-- A write took effect on the homed block at `a` (bytes from `key`): while a resilver runs it is forwarded with SEQ 0
(R754), and a mirror range of a twinned partition ships it (R734), unless Leaven wrote it. -/
def twinWrote (leaven : Bool) (a key : Nat) (s : State) : State :=
  if twnUp s then
    let s := if s.twn.forwarding then twinSend 5 0 0 (BitVec.ofNat 64 a) (blockBytes s a key) s else s
    if leaven then s
    else foldS (fun p s => if ships s p then shipSend 5 p (getQ s (Pg.ptn p) R.PTN_SOL_SEQ_LO) (BitVec.ofNat 64 a) (blockBytes s a key) s else s)
      (mirrorPtns s a) s
  else s

/-- A block that a move engine of partition `p` sends toward memory counts in the digest of its Sol in LOCKSTEP (R740). -/
def twinDigest (p a : Nat) (glaze : Word) (s : State) : State :=
  if runs s Pg.twn ∧ twnMode s = 2 ∧ twnPtn s p then
    updPtn p (fun x => { x with digest := x.digest + BitVec.ofNat 64 (a / 128 % 2 ^ 32 * 2 ^ 32 + glaze.toNat), digN := x.digN + 1 }) s
  else s

end Sys2Proof.Machine
end

