-- ==== Sys2Proof/Machine/Annals.lean ====
section
/-! DEFINITION. The Annals (R788–R802): records, the frozen area and the rings, incidents, the alarm message slot and
coalescing, logs and traces. Alarm posting to EVENT rings (R621) stands here too, since every alarm passes it. -/

namespace Sys2Proof.Machine

/-! ### Bytes of the buffer and records -/

/-- Bytes of the Annals buffer written. -/
def annPut (off : Nat) (bs : List Byte) (s : State) : State :=
  { s with ann := { s.ann with buf := Tab.storeList 0 s.ann.buf off bs } }

/-- The 32-byte header of a record (R789). -/
def annHeader (src len kind flags : Nat) (time : DWord) (code count data seq : Nat) : List Byte :=
  bytesOf 4 src ++ bytesOf 2 len ++ bytesOf 1 kind ++ bytesOf 1 flags ++ bytesOf 8 time.toNat ++ bytesOf 2 code ++
    bytesOf 2 0 ++ bytesOf 4 count ++ bytesOf 4 data ++ bytesOf 4 seq

/-- Source word of a page: [31:16] block type, [15:0] number within the type (R789). -/
def annSrc (s : State) (pg : Nat) : Nat := getN s pg R.HDR_ID

/-- Bounds of the alarm, log and trace rings (R788): first offset and end. -/
def ringLo (r : Nat) : Nat := match r with | 0 => 0x20000 | 1 => 0x30000 | _ => 0x3C000
def ringHi (r : Nat) : Nat := match r with | 0 => 0x2E000 | 1 => 0x3C000 | _ => 0x40000
def ringHeadReg (r : Nat) : Nat := match r with | 0 => R.ANN_ALARM_HEAD | 1 => R.ANN_LOG_HEAD | _ => R.ANN_TRACE_HEAD

/-- Do two byte ranges meet? -/
def rangesMeet (a la b lb : Nat) : Bool := decide (a < b + lb) && decide (b < a + la)

/-- Room for `len` bytes from `at_` taken in the alarm ring (`r = 0`) or log ring: the oldest records in the way are
overwritten and counted (R791, R796). -/
def ringClaim (r at_ len : Nat) (s : State) : State :=
  let recs := if r = 0 then s.ann.alarmRecs else s.ann.logRecs
  let keep := recs.filter (fun e => !rangesMeet at_ len e.1 e.2)
  let lost := recs.length - keep.length
  let s := { s with ann := if r = 0 then { s.ann with alarmRecs := keep } else { s.ann with logRecs := keep } }
  if lost = 0 then s else satR Pg.ann (if r = 0 then R.ANN_RING_OVER else R.ANN_LOG_DROPS) lost s

/-- Where a record of `len` bytes goes in ring `r`: space that would straddle the end is filled with a record of KIND 0
and the next record is written at the start (R788). -/
def ringPlace (r len : Nat) (s : State) : Nat × State :=
  let head := getN s Pg.ann (ringHeadReg r)
  if head + len ≤ ringHi r then (head, s)
  else
    let rest := ringHi r - head
    let s := if r ≤ 1 then ringClaim r head rest s else s
    let s := if rest = 0 then s else annPut head (annHeader 0 rest 0 0 s.time 0 0 0 0) s
    (ringLo r, s)

/-- A record of the alarm or log ring written; the head advances and wraps. -/
def ringWrite (r : Nat) (bs : List Byte) (s : State) : Nat × State :=
  let (at_, s) := ringPlace r bs.length s
  let s := ringClaim r at_ bs.length s
  let s := annPut at_ bs s
  let s := { s with ann := if r = 0 then { s.ann with alarmRecs := s.ann.alarmRecs ++ [(at_, bs.length)] }
                          else { s.ann with logRecs := s.ann.logRecs ++ [(at_, bs.length)] } }
  let nxt := if at_ + bs.length = ringHi r then ringLo r else at_ + bs.length
  (at_, setR Pg.ann (ringHeadReg r) (BitVec.ofNat 32 nxt) s)

/-- The record sequence of the Annals, which advances (R789). -/
def annSeq (s : State) : Nat × State := (s.ann.seq.toNat, { s with ann := { s.ann with seq := s.ann.seq + 1 } })

/-- A body padded to a multiple of 32 bytes, at most 2,016 (R789). -/
def padBody (bs : List Byte) : List Byte :=
  let bs := bs.take 2016
  bs ++ List.replicate ((32 - bs.length % 32) % 32) 0

/-- A log record (R790, R796): code 0x0201, with a body. -/
def annLog (pg data : Nat) (body : List Byte) (s : State) : State :=
  let (q, s) := annSeq s
  let body := padBody body
  (ringWrite 1 (annHeader (annSrc s pg) (32 + body.length) 2 0 s.time 0x0201 1 data q ++ body) s).2

/-! ### Traces (R797) -/

/-- Unread bytes of the trace ring. -/
def traceUnread (s : State) : Nat :=
  let h := getN s Pg.ann R.ANN_TRACE_HEAD
  let t := getN s Pg.ann R.ANN_TRACE_TAIL
  if h = t then (if s.ann.traceFull then 0x4000 else 0) else (h + 0x4000 - t) % 0x4000

/-- The sampling exponent k of R797. -/
def traceK (s : State) : Nat := getF s Pg.ann R.ANN_STATUS 25 3

/-- k follows the fill of the ring: up above three quarters, to at most 4; down below one quarter. -/
def traceAdjust (s : State) : State :=
  let u := traceUnread s
  let k := traceK s
  if u > 0x3000 ∧ k < 4 then setF Pg.ann R.ANN_STATUS 25 3 (k + 1) s
  else if u < 0x1000 ∧ 0 < k then setF Pg.ann R.ANN_STATUS 25 3 (k - 1) s
  else s

/-- A trace record dropped (R797). -/
def traceDrop (s : State) : State := satR Pg.ann R.ANN_TRACE_DROPS 1 s

/-- The record of a kept trace written; with TRACE_OUT it is also sent in TELEM kind 4, and the tail follows. -/
def traceWrite (pg src data : Nat) (s : State) : State :=
  let (q, s) := annSeq s
  let bs := annHeader (annSrc s pg) 32 3 0 s.time (0x0300 + src) 1 data q
  let h := getN s Pg.ann R.ANN_TRACE_HEAD
  let s := annPut h bs s
  let nxt := if h + 32 = 0x40000 then 0x3C000 else h + 32
  let s := setR Pg.ann R.ANN_TRACE_HEAD (BitVec.ofNat 32 nxt) s
  let s := { s with ann := { s.ann with traceFull := nxt = getN s Pg.ann R.ANN_TRACE_TAIL } }
  let s := if bit (getR s Pg.ann R.ANN_CFG) 8 then
      let s := setR Pg.ann R.ANN_TRACE_TAIL (BitVec.ofNat 32 nxt) (postMsg 0xFFF Cls.dbg 4 (.telem 4 bs) s)
      { s with ann := { s.ann with traceFull := false } }
    else s
  traceAdjust s

/-! ### Alarm destinations -/

/-- An EVENT ring entry's place: the descriptor of ring `r` (R606) lies at DBL_RTAB + 64 r. -/
def ringDescAddr (s : State) (r : Nat) : Nat :=
  getN s (Pg.dbl 0) R.DBL_RTAB_LO + fld (getR s (Pg.dbl 0) R.DBL_RTAB_HI) 0 16 * 2 ^ 32 + 64 * r

/-- A ring is enabled (R609): its bit in DBL_ENABLE. -/
def ringEnabled (s : State) (r : Nat) : Bool :=
  let i := r % 256
  bit (getR s (Pg.dbl (r / 256)) (if i < 128 then R.DBL_ENABLE0 + 4 * (i / 32) else R.DBL_ENABLE4 + 4 * ((i - 128) / 32))) (i % 32)

/-- A little-endian number in homed memory, 0 where no slice serves the address. -/
def memNum (s : State) (a len : Nat) : Nat :=
  match homeOf s a with
  | .ok h => numOf (dramBytes s h.key len)
  | .error _ => 0

/-- Bytes of one homed line written by a unit of the base layer, with the Glaze that goes with them (R538, R624); sharers
of the line are invalidated (R529) and the twin unit is told. -/
def memPut (a : Nat) (bs : List Byte) (s : State) : State :=
  match homeOf s a with
  | .ok h =>
    let t := tileOf s a
    let ok := Tab.find s.badGlz (h.key - (a - t.1)) = none
    let s := putDram h.key bs s
    let s := if ok ∨ bs.length = t.2 then { s with badGlz := Tab.erase s.badGlz (h.key - (a - t.1)) } else s
    twinWrote false (a / 128 * 128) (h.key / 128 * 128) (dirSweep h.slice (h.off / 128) (a / 128 * 128) s)
  | .error _ => s

/-- Fields of an enabled ring's descriptor. -/
structure RingDesc where
  base : Nat
  valid : Bool
  typ : Nat
  dir : Bool
  notify : Bool
  ptn : Nat
  order : Nat
  prod : Nat
  cons : Nat
  drops : Nat
  peerDie : Nat
  peerRing : Nat
deriving DecidableEq, Repr

/-- The descriptor of ring `r` as it stands in memory (R606). -/
def ringDesc (s : State) (r : Nat) : RingDesc :=
  let a := ringDescAddr s r
  let c := BitVec.ofNat 32 (memNum s (a + 8) 4)
  { base := memNum s a 8, valid := bit c 31, typ := fld c 28 3, dir := bit c 27, notify := bit c 26, ptn := fld c 21 5,
    order := fld c 16 5, prod := memNum s (a + 0x10) 4, cons := memNum s (a + 0x14) 4, drops := memNum s (a + 0x18) 4,
    peerDie := memNum s (a + 0x1C) 2 % 4096, peerRing := memNum s (a + 0x1E) 2 }

/-- PROD, CONS or DROPS of a ring written in its descriptor. -/
def setRingWord (r off v : Nat) (s : State) : State := memPut (ringDescAddr s r + off) (bytesOf 4 v) s

/-- Entries a ring holds (R607). -/
def ringCount (d : RingDesc) : Nat := (d.prod + 2 ^ 32 - d.cons) % 2 ^ 32

/-- Address of entry `i` (R607). -/
def ringEntryAddr (d : RingDesc) (i : Nat) : Nat := d.base + 64 * (i % 2 ^ d.order)

/-- The notice of R622 for a PROD advance of an EVENT ring with NOTIFY; not sent under version 1 (R679). -/
def ringNotice (r newProd : Nat) (s : State) : State :=
  if groupVersion s G.io = 1 then s
  else wrapR (Pg.dbl (r / 256)) R.DBL_NOTICES 1
    (postMsg 0xFFF Cls.int 1 (.notice (BitVec.ofNat 64 (r * 2 ^ 48 + dieNum s * 2 ^ 36 + newProd))) s)

/-- An alarm entry posted to a PTN 16 EVENT ring (R621); the flag says whether it was posted (R72). -/
def alarmPost (r : Nat) (bs : List Byte) (s : State) : Bool × State :=
  if ringEnabled s r then
    let d := ringDesc s r
    if d.typ = 1 ∧ d.ptn = 16 then
      if ringCount d < 2 ^ d.order then
        let s := memPut (ringEntryAddr d d.prod) (bs.take 64) s
        let np := (d.prod + 1) % 2 ^ 32
        let s := setRingWord r 0x10 np s
        (true, if d.notify then ringNotice r np s else s)
      else (false, setRingWord r 0x18 (Nat.min (d.drops + 1) 0xFFFFFFFF) s)
    else (false, s)
  else (false, s)

/-- The pair is formed and TWN is Running, so alarms with TWIN = 1 are sent to the twin (R732). -/
def twinServed (s : State) : Bool :=
  runs s Pg.twn && decide (2 ≤ getF s Pg.twn R.TWN_STATUS 29 3) && decide (getF s Pg.twn R.TWN_STATUS 29 3 < 6)

/-- An alarm has a destination that is served (R792). -/
def alarmServed (s : State) (route : Word) : Bool := bit route 1 || bit route 2 || (bit route 3 && twinServed s)

/-- Flag bits [7:0] of the record at a buffer offset set (R789). -/
def annFlag (at_ flag : Nat) (s : State) : State :=
  annPut (at_ + 7) [BitVec.ofNat 8 ((Tab.get 0 s.ann.buf (at_ + 7)).toNat ||| flag)] s

/-- The alarm message leaves for each of its destinations (R71, R792): it occupies the message slot. A posting that
fails marks the Annals record (R72). -/
def alarmSend (route : Word) (bs : List Byte) (at_ : Nat) (s : State) : State :=
  let s := wrapR Pg.ann R.ANN_MSGS 1 { s with ann := { s.ann with slotBusy := true } }
  let s := if bit route 1 then postMsg 0xFFF Cls.int 8 (.alarm false bs) s else s
  let s := if bit route 3 ∧ twinServed s then postMsg (getF s Pg.twn R.TWN_PEER 0 12) Cls.int 8 (.alarm true bs) s else s
  if bit route 2 then
    let (ok, s) := alarmPost (fld route 16 16) bs s
    if ok then s else annFlag at_ 1 s
  else s

/-! ### Incidents and alarm records -/

/-- ANN_STATUS.INCIDENT and HELD. -/
def annOpen (s : State) : Bool := bit (getR s Pg.ann R.ANN_STATUS) 31
def annHeld (s : State) : Bool := bit (getR s Pg.ann R.ANN_STATUS) 30
def annSlots (s : State) : Nat := getF s Pg.ann R.ANN_STATUS 0 7

/-- An incident opens at an alarm captured while none is open (R791). -/
def incidentOpen (s : State) : State :=
  if annOpen s then s
  else
    let s := setF Pg.ann R.ANN_STATUS 31 1 1 s
    let s := setF Pg.ann R.ANN_INCIDENT 16 16 (getF s Pg.ann R.ANN_INCIDENT 16 16 + 1) s
    let s := { s with ann := { s.ann with keys := [] } }
    if annHeld s then s else setQ Pg.ann R.ANN_INC_TIME_LO s.time s

/-- The alarm's record goes to the next frozen slot if its key has none in this incident and the area is free, else to
the alarm ring (R791). Answers the offset and the first 64 bytes. -/
def alarmRecord (src code data count flags : Nat) (body : List Byte) (s : State) : Nat × List Byte × State :=
  let (q, s) := annSeq s
  let body := padBody body
  let s := wrapR Pg.ann R.ANN_ALARMS 1 s
  let mk := fun (fl : Nat) => annHeader src (32 + body.length) 1 fl s.time code count data q ++ body
  if !annHeld s && !(s.ann.keys.contains (src, code)) && decide (annSlots s < 64) then
    let at_ := annSlots s * 0x800
    let bs := mk (flags ||| 2)
    let s := setF Pg.ann R.ANN_STATUS 0 7 (annSlots s + 1) (annPut at_ bs s)
    (at_, bs.take 64, { s with ann := { s.ann with keys := s.ann.keys ++ [(src, code)] } })
  else
    let bs := mk flags
    let (at_, s) := ringWrite 0 bs s
    (at_, bs.take 64, s)

/-- The offset of coalesce entry `i` (R788). -/
def coalOff (i : Nat) : Nat := 0x2E000 + 64 * i

/-- An entry of the coalesce table filled with the first 64 bytes of a record, COUNT 1, COALESCED set (R793). -/
def coalFill (i src code : Nat) (route : Word) (at_ : Nat) (bs : List Byte) (s : State) : State :=
  let bs := (bs ++ List.replicate (64 - bs.length) 0).take 64
  let flagged := bs.set 7 (BitVec.ofNat 8 (((bs[7]?).getD 0).toNat ||| 4))
  let s := annPut (coalOff i) flagged s
  let e : Coal := { slot := i, src := src, code := code, count := 1, order := s.ann.order, route := route, at_ := at_ }
  { s with ann := { s.ann with coal := s.ann.coal.filter (fun x => x.slot ≠ i) ++ [e], order := s.ann.order + 1 } }

/-- COUNT of a coalesce entry, in the table and in the entry's bytes. -/
def coalCount (i n : Nat) (s : State) : State :=
  let s := annPut (coalOff i + 0x14) (bytesOf 4 n) s
  { s with ann := { s.ann with coal := s.ann.coal.map (fun e => if e.slot = i then { e with count := n } else e) } }

/-- An alarm that cannot be sent at once is coalesced, or counted in ANN_OTHER where the table is full (R793, R795). -/
def coalesce (src code : Nat) (route : Word) (at_ : Nat) (bs : List Byte) (s : State) : State :=
  match s.ann.coal.find? (fun e => e.src = src ∧ e.code = code) with
  | some e =>
    if 0 < e.count then satR Pg.ann R.ANN_COALESCED 1 (coalCount e.slot (Nat.min (e.count + 1) 0xFFFFFFFF) s)
    else satR Pg.ann R.ANN_COALESCED 1 (coalFill e.slot src code route at_ bs s)
  | none =>
    match (List.range 128).find? (fun i => s.ann.coal.all (fun e => e.slot ≠ i)) with
    | some i => satR Pg.ann R.ANN_COALESCED 1 (coalFill i src code route at_ bs s)
    | none => satR Pg.ann R.ANN_OTHER 1 s

/-- The message slot can be used (R792, R798). -/
def slotFree (s : State) : Bool := !s.ann.slotBusy && !s.ann.slotHeld

/-- An alarm of page `pg` is captured (R71, R791–R793): recorded in the Annals, then sent at once, coalesced, or kept in
the Annals only. `urgent`: RAIL and THERMTRIP, sent whatever the slot. -/
def alarmFull (pg code data : Nat) (urgent : Bool) (body : List Byte) (s : State) : State :=
  let s := incidentOpen s
  let src := annSrc s pg
  let route := getR s pg R.HDR_ROUTE
  let (at_, bs, s) := alarmRecord src code data 1 0 body s
  if alarmServed s route then
    if urgent ∨ (slotFree s ∧ s.ann.coal.all (fun e => e.count = 0)) then alarmSend route bs at_ s
    else coalesce src code route at_ bs s
  else s

/-- A named alarm of a page: code 0x0100 + n (R790). -/
def namedAlarm (pg n : Nat) (s : State) : State := alarmFull pg (0x0100 + n) 0 false [] s

/-- The slot is free: the waiting entry whose first occurrence is oldest is sent with its COUNT, or the ANN OTHER alarm
(R794, R795). -/
def slotService (s : State) : State :=
  if slotFree s then
    let waiting := s.ann.coal.filter (fun e => 0 < e.count)
    match waiting with
    | [] =>
      let n := getN s Pg.ann R.ANN_OTHER
      if n = 0 then s
      else
        let (q, s) := annSeq s
        let bs := annHeader (annSrc s Pg.ann) 32 1 0 s.time 0x0101 n 0 q
        let (at_, s) := ringWrite 0 bs s
        let s := wrapR Pg.ann R.ANN_ALARMS 1 (setR Pg.ann R.ANN_OTHER 0 s)
        if alarmServed s (getR s Pg.ann R.HDR_ROUTE) then alarmSend (getR s Pg.ann R.HDR_ROUTE) bs at_ s else s
    | e :: t =>
      let e := t.foldl (fun m x => if x.order < m.order then x else m) e
      let bs := Tab.slice 0 s.ann.buf (coalOff e.slot) 64
      coalCount e.slot 0 (alarmSend e.route bs e.at_ s)
  else s

/-- A trace record of source `src` (bit of ANN_CFG.TRACE_EN) for page `pg` (R797): sampled, kept, or dropped; a full
ring at k = 4 stops tracing with one TRACE_STOPPED alarm. The manual does not say what the source data word holds, so it
is a free value. -/
def trace (src pg : Nat) (s : State) : State :=
  if bit (getR s Pg.ann R.ANN_CFG) src then
    let (v, s) := fresh s
    if bit (getR s Pg.ann R.ANN_STATUS) 28 then traceDrop s
    else if traceUnread s = 0x4000 then
      if traceK s = 4 then alarmFull Pg.ann 0x0102 0 false [] (traceDrop (setF Pg.ann R.ANN_STATUS 28 1 1 s))
      else traceDrop (traceAdjust s)
    else if (s.ann.traceSkip + 1) % 2 ^ traceK s = 0 then
      traceWrite pg src (v.toNat % 2 ^ 32) { s with ann := { s.ann with traceSkip := 0 } }
    else traceDrop { s with ann := { s.ann with traceSkip := s.ann.traceSkip + 1 } }
  else s

end Sys2Proof.Machine
end

