-- ==== Sys2Proof/Machine/Fault.lean ====
section
/-! DEFINITION. How a fault spreads: a page records a cause (R69, R70), a core page's fault reaches its partition
(R163), an immediate cause of a partition reaches its barriers (R487), a barrier's cause reaches its partition (R486). One
list of events is worked off, first in, first out. -/

namespace Sys2Proof.Machine

-- Causes of a PTN page (R163).
namespace PC

abbrev overrun : Nat := 8
abbrev clock : Nat := 9
abbrev time : Nat := 10
abbrev array : Nat := 11
abbrev glaze : Nat := 12
abbrev core : Nat := 13
abbrev barrier : Nat := 14
abbrev vigil : Nat := 15
abbrev memerr : Nat := 16
abbrev snapshot : Nat := 17
abbrev replayLimit : Nat := 18
abbrev config : Nat := 19

end PC

-- Causes of a barrier (R485).
namespace BC

abbrev misuse : Nat := 0
abbrev stray : Nat := 1
abbrev parity : Nat := 2
abbrev link : Nat := 3
abbrev remote : Nat := 4
abbrev partition : Nat := 5
abbrev page : Nat := 6

end BC

/-- A fault that is to be recorded. -/
inductive FaultEv where
  /-- cause bits of HDR_FAULT on a page -/
  | page (pg bits : Nat)
  /-- a cause of a partition -/
  | ptn (p cause : Nat)
  /-- a cause of a barrier; `skip`: the member (0 parent, 1 + k child k) whose FAULT caused it -/
  | bar (b cause : Nat) (skip : Option Nat)
deriving DecidableEq, Repr

/-! ### Barriers: configuration -/

/-- Page and register block of a barrier (R464, R507). -/
def barPage (b : Nat) : Nat := Pg.cal (b / 16)
def barOff (b o : Nat) : Nat := 0x100 + 0x80 * (b % 16) + o

/-- CAL_CFG fields (R509). -/
def barEn (s : State) (b : Nat) : Bool := bit (getR s (barPage b) (barOff b R.CAL_CFG)) 31
def barPtn (s : State) (b : Nat) : Nat := getF s (barPage b) (barOff b R.CAL_CFG) 16 4
def barTarget (s : State) (b : Nat) : Nat := getF s (barPage b) (barOff b R.CAL_CFG) 0 16

/-- CAL_MASK0–3 as one number. -/
def barMask (s : State) (b : Nat) : Nat :=
  getN s (barPage b) (barOff b R.CAL_MASK0) + getN s (barPage b) (barOff b R.CAL_MASK1) * 2 ^ 32 +
    getN s (barPage b) (barOff b R.CAL_MASK2) * 2 ^ 64 + getN s (barPage b) (barOff b R.CAL_MASK3) * 2 ^ 96

/-- CAL_PARENT (member 0) and CAL_CHILDk (member 1 + k): die and barrier, if valid. -/
def barMember (s : State) (b m : Nat) : Option (Nat × Nat) :=
  let v := getR s (barPage b) (barOff b (R.CAL_PARENT + 4 * m))
  if bit v 31 then some (fld v 16 12, fld v 0 8) else none

/-- The valid members of a barrier's span: parent first, then children. -/
def barMembers (s : State) (b : Nat) : List (Nat × Nat × Nat) :=
  (List.range 9).filterMap (fun m => (barMember s b m).map (fun (d, n) => (m, d, n)))

/-- The 8 bytes of a span message (R479): TYPE, GEN, DBAR, SBAR, SDIE and CAUSE. -/
def spanWord (typ gen dbar sbar sdie cause : Nat) : BitVec 64 :=
  BitVec.ofNat 64 (typ % 16 * 2 ^ 60 + gen % 256 * 2 ^ 52 + dbar % 256 * 2 ^ 44 + sbar % 256 * 2 ^ 36 + sdie % 4096 * 2 ^ 24 + cause % 256 * 2 ^ 16)

/-- A span message from barrier `b`: TYPE 1 ARRIVE, 2 RELEASE, 3 FAULT. -/
def spanSend (typ b gen cause : Nat) (dst : Nat × Nat) (s : State) : State :=
  wrapR Pg.nets R.NETS_MSGS 1 (postMsg dst.1 Cls.int 1 (.span dst.1 (spanWord typ gen dst.2 b (dieNum s) cause)) s)

/-- The barriers that belong to a partition and are enabled (R466). -/
def ptnBars (s : State) (p : Nat) : List Nat := (List.range 256).filter (fun b => barEn s b && barPtn s b = p)

/-- The enabled barriers with a state other than Disabled, cheapest first: those listed in the table. -/
def liveBars (s : State) (p : Nat) : List Nat := (s.bars.map (·.1)).filter (fun b => barEn s b && barPtn s b = p)

/-! ### A partition's Sol that does not commit -/

/-- Staged index updates of the partition's cores are discarded (R131, R615); DBL_STAGED follows. -/
def ringDiscard (p : Nat) (s : State) : State :=
  let s := { s with ringStage := s.ringStage.filter (fun u => u.host || (ringDesc s u.ring).ptn ≠ p) }
  setR (Pg.dbl 0) R.DBL_STAGED (BitVec.ofNat 32 s.ringStage.length) s

/-- A Leaven notice to a die of the package, this die included (R579). -/
def lvnNotice (d : Nat) (m : OutMsg) (s : State) : State := if d = dieNum s then send m s else postMsg d Cls.int 2 m s

/-- Notices of a partition to every die of its mask (R579): LVN_COMMIT or LVN_DISCARD, with the Sol sequence that ran. -/
def lvnNotices (commit : Bool) (p : Nat) (s : State) : State :=
  let q := getQ s (Pg.ptn p) R.PTN_SOL_SEQ_LO
  let s := foldS (fun d => lvnNotice d (if commit then .lvnCommit d p q else .lvnDiscard d p q)) (ptnAt s p).leavenDies s
  updPtn p (fun x => { x with leavenDies := [] }) s

/-- The open reduction blocks of a partition are discarded with the contributions that wait, and later contributions until it runs again
(R143, R449). -/
def redDiscard (p : Nat) (s : State) : State :=
  let mine := s.reds.filter (fun r => r.ptn = p)
  let lost := mine.foldl (fun n r => n + r.parts.length) (s.redWait.filter (fun e => e.2.ptn.toNat = p)).length
  let s := { s with reds := s.reds.filter (fun r => r.ptn ≠ p), redWait := s.redWait.filter (fun e => e.2.ptn.toNat ≠ p), redDead := if s.redDead.contains p then s.redDead else s.redDead ++ [p] }
  let s := setR Pg.netb R.NETB_RED_OPEN (BitVec.ofNat 32 s.reds.length) s
  if lost = 0 then s else satR Pg.netb R.NETB_RED_DISCARD lost s

/-- Issue stops on every core of a partition (R142). What units still hold waits for the end of the draining, which performs what
can be performed and discards the rest (R226). -/
def ptnHalt (p : Nat) (s : State) : State := unfreeze p s

/-- Operations that the units of a partition's freeze domain still hold are dropped. -/
def ptnDropHeld (p : Nat) (s : State) : State :=
  foldS (fun c => updCore c (fun x => { x with holds := [] })) (ptnAt s p).domain s

/-- What follows a partition's entry to Faulted: held effects are discarded (R131, R138, R142). A partition that is in no Sol
and loads nothing has none: a START that its checks refuse touches no core of its mask (R868). -/
def ptnFaulted (p : Nat) (s : State) : State :=
  if (ptnAt s p).phase = .idle then s else
  let s := ptnDropHeld p s
  let s := lvnNotices false p (ringDiscard p (redDiscard p (unfreeze p s)))
  updPtn p (fun x => { x with phase := .idle, deferred := 0, pendFault := 0, stopWait := false, clockWait := false, skid := none }) s

/-! ### One event -/

/-- The core site of a core page. -/
def siteOfPage (pg : Nat) : Option Nat :=
  match pageBlk pg with
  | some (.mxa, i) => some (i / 2)
  | some (.cor, i) | some (.vec, i) | some (.gth, i) | some (.mov, i) | some (.sig, i) => some i
  | _ => none

/-- What a page's leaving service (entry to Faulted or Retired) makes others record: a core of a partition CORE (R163),
SEQ leaving Running TIME for every partition that depends on it (R126). -/
def pageDown (pg : Nat) (s : State) : List FaultEv :=
  match siteOfPage pg with
  | some c =>
    match ptnOfSite s c with
    | some p => [.ptn p PC.core]
    | none => []
  | none =>
    if pg = Pg.seq then
      if runs s pg then (List.range nPtns).filterMap (fun p => if ptnActive s p ∧ bstate s (Pg.ptn p) ≠ B.faulted then some (.ptn p PC.time) else none)
      else []
    else
      match pageBlk pg with
      | some (.cal, k) => (List.range 16).map (fun i => .bar (16 * k + i) BC.page none)
      | _ => []

/-- Lowest set bit of a number below 32. -/
def lowBit (n : Nat) : Nat := ((List.range 32).find? (fun i => n.testBit i)).getD 0

/-- A page records causes (R69, R70): in every state but Absent and Retired; an enabled cause takes it to Faulted with one
alarm; in Faulted an alarm is sent only for a cause whose bit was 0. -/
def recordPage (pg bits : Nat) (s : State) : List FaultEv × State :=
  let st := bstate s pg
  if st = B.absent ∨ st = B.retired then ([], s)
  else
    let old := getN s pg R.HDR_FAULT
    let s := setR pg R.HDR_FAULT (BitVec.ofNat 32 (old ||| bits)) s
    let s := if bits.testBit 0 then { setReady pg false s with selfFailed := if s.selfFailed.contains pg then s.selfFailed else s.selfFailed ++ [pg] } else s
    let hit := bits &&& getN s pg R.HDR_FAULT_EN
    if hit = 0 then ([], s)
    else if st = B.faulted then
      let new := hit &&& (old ^^^ (old ||| hit))
      if new = 0 then ([], s) else ([], alarmFull pg (lowBit new) (getN s pg R.HDR_FAULT) false [] s)
    else
      let evs := pageDown pg s
      let s := setBState pg B.faulted s
      let s := alarmFull pg (lowBit hit) (getN s pg R.HDR_FAULT) false [] s
      let s := match pageBlk pg with | some (.ptn, p) => ptnFaulted p s | _ => s
      (evs, s)

/-- Causes that are taken at the Sol end point (R141): ARRAY, GLAZE, MEMERR. -/
def deferredMask : Nat := 0x11800

/-- Causes that are immediate (R141): OVERRUN, TIME, CORE, BARRIER, VIGIL. -/
def immediateMask : Nat := 0xE500

/-- REPLAY_LIMIT, where a deferred cause arrives with PTN_AUTO_LEFT = 0 (R151). -/
def limitBit (s : State) (p : Nat) : Nat := if getF s (Pg.ptn p) R.PTN_AUTO_LEFT 0 8 = 0 then 2 ^ PC.replayLimit else 0

/-- A partition records a cause (R141, R142, R69). A disabled cause is only recorded. A deferred cause waits for the end
point of the Sol; an immediate one stops the cores at once, faults the partition's barriers, and the partition enters
Faulted now if nothing can be outstanding, else when the last operation has ended (R142); causes deferred earlier in the Sol are
recorded with it, since no end point takes them (R69). -/
def recordPtn (p cause : Nat) (s : State) : List FaultEv × State :=
  let pg := Pg.ptn p
  let st := bstate s pg
  let live := st = B.starting ∨ st = B.running ∨ st = B.stopping
  let b := 2 ^ cause
  if ¬ live ∨ getN s pg R.HDR_FAULT_EN &&& b = 0 then ([.page pg b], s)
  else if b &&& deferredMask ≠ 0 then
    if st = B.starting then ([.page pg (b + limitBit s p)], s)
    else ([], updPtn p (fun x => { x with deferred := x.deferred ||| b }) s)
  else
    let bars := (liveBars s p).map (fun i => FaultEv.bar i BC.partition none)
    match (ptnAt s p).phase with
    | .draining =>
      ([], setR pg R.HDR_FAULT (getR s pg R.HDR_FAULT ||| BitVec.ofNat 32 b) (updPtn p (fun x => { x with pendFault := x.pendFault ||| b }) s))
    | .sol =>
      let s := ptnHalt p (redDiscard p s)
      let s := setR pg R.HDR_FAULT (getR s pg R.HDR_FAULT ||| BitVec.ofNat 32 b) s
      (bars, updPtn p (fun x => { x with phase := .draining, pendFault := x.pendFault ||| b }) s)
    | _ => (bars ++ [.page pg (b ||| (ptnAt s p).deferred)], s)

/-- A barrier records a cause while it is Open (R486): Faulted, FAULT to the other members, BARRIER for its partition
unless the cause is PARTITION (R487). A Quiet barrier takes PAGE without a FAULT (R506). -/
def recordBar (b cause : Nat) (skip : Option Nat) (s : State) : List FaultEv × State :=
  let x := barAt s b
  if x.st = 1 then
    let v := setFld (setBit (setBit x.cause cause true) 31 true) 16 8 x.gen
    let s := setBar b { x with st := 2, cause := v, faultAt := s.time, metAt := none } s
    let s := foldS (fun m => spanSend 3 b x.gen (fld v 0 8) (m.2.1, m.2.2))
      ((barMembers s b).filter (fun m => skip ≠ some m.1)) s
    let p := barPtn s b
    let st := bstate s (Pg.ptn p)
    if cause ≠ BC.partition ∧ (st = B.starting ∨ st = B.running ∨ st = B.stopping) then ([.ptn p PC.barrier], s) else ([], s)
  else if x.st = 3 ∧ cause = BC.page then
    let v := setFld (setBit (setBit x.cause cause true) 31 true) 16 8 x.gen
    ([], setBar b { x with st := 2, cause := v } s)
  else ([], s)

/-- One event recorded; what it makes others record is answered. -/
def faultStep (e : FaultEv) (s : State) : List FaultEv × State :=
  match e with
  | .page pg bits => recordPage pg bits s
  | .ptn p cause => recordPtn p cause s
  | .bar b cause skip => recordBar b cause skip s

/-- The events worked off in order. Each barrier faults once and each page enters Faulted once, so the fuel never runs
out in a state the chiplet can reach. -/
def cascade : Nat → List FaultEv → State → State
  | 0, _, s => s
  | _, [], s => s
  | n + 1, e :: t, s =>
    let (more, s) := faultStep e s
    cascade n (t ++ more) s

/-- A fault is recorded with everything it brings about. -/
def raise (e : FaultEv) (s : State) : State := cascade 4096 [e] s

/-- A page records one cause bit. -/
def fault (pg cause : Nat) (s : State) : State := raise (.page pg (2 ^ cause)) s

/-- A partition records one cause. -/
def ptnFault (p cause : Nat) (s : State) : State := raise (.ptn p cause) s

/-- A partition found by a requester's header records a cause; nothing where no partition is active (R544). -/
def ptnFaultOf (p : Option Nat) (cause : Nat) (s : State) : State :=
  match p with
  | some p => ptnFault p cause s
  | none => s

end Sys2Proof.Machine
end

