-- ==== Sys2Proof/Machine/Operands.lean ====
section
/-! DEFINITION. Operands of the syllable's operations: scalar registers and predicates with the visibility of R192–R194,
the scratchpad as each reader sees it (R195, R253, R337, R368–R373), signals (R378–R381), stream faults (R224, R225). -/

namespace Sys2Proof.Machine

/-- Who reads a scalar register or predicate: a scalar pipeline, or the sequencer and the other units (R193). -/
inductive Rd where
  | pipe0 | pipe1 | other
deriving DecidableEq, Repr

/-- The reader that a pipeline is. -/
def rdOf (q : Pipe) : Rd := match q with | .p0 => .pipe0 | .p1 => .pipe1

/-- Register file of a pipeline: s or t (R183, R210). -/
def fileOf (q : Pipe) : Nat := match q with | .p0 => 0 | .p1 => 1

/-- From which stepped index a reader sees a pending write. -/
def PendWrite.vis (w : PendWrite) (r : Rd) : Nat := match r with | .pipe0 => w.vis0 | .pipe1 => w.vis1 | .other => w.visO

/-- The latest-issued pending write of a register that the reader sees at stepped index `i` (R194). -/
def pendSeen (l : List PendWrite) (r : Rd) (file idx i : Nat) : Option PendWrite :=
  (l.filter (fun w => w.file = file ∧ w.idx = idx ∧ w.vis r ≤ i)).foldl
    (fun m w => match m with | none => some w | some x => if x.iss ≤ w.iss then some w else some x) none

/-- The register file's own value. -/
def coreBase (x : Core) (file idx : Nat) : DWord :=
  match file with
  | 0 => Tab.get 0 x.sreg idx
  | 1 => Tab.get 0 x.treg idx
  | _ => BitVec.ofNat 64 (b2n (bit x.preds idx))

/-- A scalar register or predicate as a reader sees it at stepped index `i`; s0 and t0 read 0, p0 reads 1 (R183, R184,
R210). -/
def rdReg (x : Core) (r : Rd) (file idx i : Nat) : DWord :=
  if idx = 0 then (if file = 2 then 1 else 0)
  else
    match pendSeen x.pend r file idx i with
    | some w => w.val
    | none => coreBase x file idx

/-- A predicate as a reader sees it. -/
def rdPred (x : Core) (r : Rd) (idx i : Nat) : Bool := rdReg x r 2 idx i ≠ 0

/-- The register file's own value set. -/
def setBase (x : Core) (file idx : Nat) (v : DWord) : Core :=
  match file with
  | 0 => { x with sreg := Tab.store 0 x.sreg idx v }
  | 1 => { x with treg := Tab.store 0 x.treg idx v }
  | _ => { x with preds := setBit x.preds idx (v ≠ 0) }

/-- A result of pipeline `q`, issued at stepped index `i` with latency `lat` (R192, R193); writes to s0, t0 and p0 are
ignored. -/
def wrReg (x : Core) (q : Pipe) (file idx i lat : Nat) (v : DWord) : Core :=
  if idx = 0 then x
  else
    let o := i + Nat.max lat 3
    let w : PendWrite :=
      match q with
      | .p0 => { file := file, idx := idx, val := v, iss := 2 * i + 1, vis0 := i + lat, vis1 := o, visO := o }
      | .p1 => { file := file, idx := idx, val := v, iss := 2 * i, vis0 := o, vis1 := i + lat, visO := o }
    { x with pend := x.pend ++ [w] }

/-- A predicate result of pipeline `q`. -/
def wrPred (x : Core) (q : Pipe) (idx i : Nat) (v : Bool) : Core := wrReg x q 2 idx i 1 (if v then 1 else 0)

/-- A predicate or scalar written by another unit at stepped index `i`, seen by every reader from `i + lat` (R335, R497). -/
def wrOther (x : Core) (file idx i lat : Nat) (v : DWord) : Core :=
  if idx = 0 then x
  else { x with pend := x.pend ++ [{ file := file, idx := idx, val := v, iss := 2 * i + 1, vis0 := i + lat, vis1 := i + lat, visO := i + lat }] }

/-- Pending writes that every reader sees at stepped index `i` go into the files; an earlier-issued write of the same
register can then never be seen again (R194). -/
def retireWrites : Nat → Nat → Core → Core
  | 0, _, x => x
  | n + 1, i, x =>
    match x.pend.find? (fun w => w.vis0 ≤ i ∧ w.vis1 ≤ i ∧ w.visO ≤ i) with
    | none => x
    | some w =>
      let same := fun (v : PendWrite) => v.file = w.file ∧ v.idx = w.idx
      match pendSeen (x.pend.filter (fun v => v.vis0 ≤ i ∧ v.vis1 ≤ i ∧ v.visO ≤ i)) .other w.file w.idx i with
      | none => x
      | some top =>
        retireWrites n i (setBase { x with pend := x.pend.filter (fun v => ¬ (same v ∧ v.iss ≤ top.iss)) } w.file w.idx top.val)

/-! ### Scratchpad -/

/-- From which stepped index a reader sees a pending store: 0 scalar LD, 1 VLD, 2 every other reader. -/
def PendStore.vis (w : PendStore) (r : Nat) : Nat := match r with | 0 => w.visLd | 1 => w.visV | _ => w.visO

/-- A byte of the scratchpad as reader `r` sees it at stepped index `i`: the latest-issued store it sees, else the
array. -/
def spadByte (x : Core) (r i a : Nat) : Byte :=
  let hit := (x.pendSt.filter (fun w => w.vis r ≤ i ∧ w.addr ≤ a ∧ a < w.addr + w.bytes.length)).foldl
    (fun m w => match m with | none => some w | some y => if y.iss ≤ w.iss then some w else some y) (none : Option PendStore)
  match hit with
  | some w => (w.bytes[a - w.addr]?).getD 0
  | none => Tab.get 0 x.spad a

/-- Consecutive bytes. -/
def spadBytes (x : Core) (r i a : Nat) : Nat → List Byte
  | 0 => []
  | n + 1 => spadByte x r i a :: spadBytes x r i (a + 1) n

/-- Bytes put into the array; every block touched carries the Glaze of its new contents (R373). -/
def spadPut (x : Core) (a : Nat) (bs : List Byte) : Core :=
  { x with spad := Tab.storeList 0 x.spad a bs,
           badGlz := x.badGlz.filter (fun e => !(rangesMeet (e.1 * 128) 128 a bs.length)) }

/-- A stepped store, seen by LD from `i + ld`, by VLD from `i + v`, by others from `i + o` (R195, R253, R337). -/
def spadStore (x : Core) (a : Nat) (bs : List Byte) (iss visLd visV visO : Nat) : Core :=
  { x with pendSt := x.pendSt ++ [{ src := 0, addr := a, bytes := bs, iss := iss, visLd := visLd, visV := visV, visO := visO }] }

/-- A store of another unit in stepped cycle `w`, seen by every read in a later cycle (R253, R337). -/
def unitStore (src a : Nat) (bs : List Byte) (w : Nat) (x : Core) : Core :=
  { x with pendSt := x.pendSt ++ [{ src := src, addr := a, bytes := bs, iss := 2 * w, visLd := w + 1, visV := w + 1, visO := w + 1 }] }

/-- Stores that every reader sees at stepped index `i` go into the array, in issue order. -/
def retireStores (i : Nat) (x : Core) : Core :=
  let done := x.pendSt.filter (fun w => w.visLd ≤ i ∧ w.visV ≤ i ∧ w.visO ≤ i)
  let x := { x with pendSt := x.pendSt.filter (fun w => ¬ (w.visLd ≤ i ∧ w.visV ≤ i ∧ w.visO ≤ i)) }
  let sorted := done.foldl (fun (l : List PendStore) w => l.filter (fun y => y.iss ≤ w.iss) ++ [w] ++ l.filter (fun y => w.iss < y.iss)) []
  sorted.foldl (fun x w => spadPut x w.addr w.bytes) x

/-- Everything that every reader sees at stepped index `i` is settled. -/
def settle (i : Nat) (x : Core) : Core := retireStores i (retireWrites x.pend.length i x)

/-- Scratchpad size of the kind a site runs as (R368); 0 for a reserve that stands in for nothing. -/
def sizeOfSite (s : State) (c : Nat) : Nat := match runsAs s c with | some k => spadSize k | none => 0

/-- Seed address of a scratchpad block: its window address (R58, R372), by the logical core at the site. -/
def spadWindow (s : State) (c a : Nat) : Nat := 0xE00000000000 + (logicalAt s c).getD 0 * 0x400000 + a

/-- The Glaze of a scratchpad block does not match its contents (R373). -/
def blockBad (x : Core) (a : Nat) : Bool := (Tab.find x.badGlz (a / 128)).isSome

/-- Some block of a byte range has a Glaze that does not match its contents. -/
def rangeBad (x : Core) (a len : Nat) : Bool := x.badGlz.any (fun e => rangesMeet (e.1 * 128) 128 a len)

/-- The same as reader `r` finds it at stepped index `i`: a store that the reader sees has given its block a new Glaze (R259, R342). -/
def rangeBadAt (x : Core) (r i a len : Nat) : Bool :=
  x.badGlz.any (fun e => rangesMeet (e.1 * 128) 128 a len &&
    !(x.pendSt.any (fun w => decide (w.vis r ≤ i) && rangesMeet (e.1 * 128) 128 w.addr w.bytes.length)))

/-- Every engine that reads a block verifies its Glaze at the moment of use; a mismatch records GLAZE for the partition
and the data is used as read (R373). -/
def verifySpad (c r i a len : Nat) (s : State) : State :=
  if rangeBadAt (coreAt s c) r i a len then ptnFaultOf (ptnOfSite s c) PC.glaze s else s

/-! ### Banks (R369–R371) -/

/-- A stepped access of `len` bytes from `a` in stepped cycle `t` claims the bank of each block it touches. -/
def claim (rank unit t a len : Nat) (x : Core) : Core :=
  { x with claims := x.claims ++ ((List.range ((a + len + 127) / 128 - a / 128)).map (fun k =>
      { at_ := t, rank := rank, unit := unit, block := a / 128 + k })) }

/-- An access that claims all 32 banks in `n` cycles from `t` (R371). -/
def claimAll (rank unit t n : Nat) (x : Core) : Core :=
  { x with claims := x.claims ++ ((List.range n).flatMap (fun k => (List.range 32).map (fun b =>
      { at_ := t + k, rank := rank, unit := unit, block := b }))) }

/-- Ranks of R370: scalar pipelines, drains and combiner writes, VST, feeders, VLD, loaders, descriptor reads. -/
def bankRanks : List Nat := [10, 11, 30, 31, 40, 50, 51, 60, 70, 71, 80, 81]

/-- The claims of a cycle in the order of R370, each granted where no other access has its bank: the units that are denied. Scalar LD and
ST are never denied; `promoted` are the banks that asynchronous requesters of priority 2 ask for, behind them. One access to one block is one
claim, however often it is listed. -/
def bankDenied (promoted : Nat) (l : List Claim) : List Nat :=
  (bankRanks.foldl (fun (st : List Claim × List Nat) r =>
    (l.filter (fun q => q.rank = r)).foldl (fun (st : List Claim × List Nat) q =>
      if st.1.contains q then st
      else if r < 20 then (q :: st.1, st.2)
      else if promoted.testBit (q.block % 32) || st.1.any (fun g => g.block % 32 = q.block % 32) then (st.1, q.unit :: st.2)
      else (q :: st.1, st.2)) st) ([], [])).2

/-! ### Stream faults (R224, R225) -/

/-- A core records a stream fault: `code` of COR_ERR.FAULT (1 ILLEGAL … 6 SIGOVF), cause bit 7 + code of its COR page, at
the syllable index in force (R410, R411). -/
def coreFault (c code : Nat) (s : State) : State :=
  let s := firstR (Pg.cor c) R.COR_ERR (code * 2 ^ 24 + (coreAt s c).pos % 4096) s
  fault (Pg.cor c) (7 + code) s

/-! ### Signals (R378–R381) -/

/-- Count of signal `n` of a site. -/
def sigCount (s : State) (c n : Nat) : Nat := getN s (Pg.sig c) (R.SIG_COUNT0 + 4 * n)

/-- That count set. -/
def setSig (c n v : Nat) (s : State) : State := setR (Pg.sig c) (R.SIG_COUNT0 + 4 * n) (BitVec.ofNat 32 v) s

/-- The required count of a held signal wait, with its predicate for WAITL (R204, R206). -/
def waitNeeds (x : Core) (i : Nat) (op : Instr) : Option (Nat × Nat × Option Nat) :=
  match op with
  | .wait _ sig count => some (sig.toNat, count.toNat, none)
  | .waitr _ sig a => some (sig.toNat, (rdReg x .other 0 a.toNat i).toNat % 2 ^ 32, none)
  | .waitl _ pd sig count a => if (rdReg x .pipe0 0 a.toNat i).toNat % 2 ^ 32 = 0 then none else some (sig.toNat, count.toNat, some pd.toNat)
  | _ => none

/-- The first held operation of unit S, if it is a wait on signal `n` that the count now meets, is satisfied: the count
is subtracted in the same cc and the operation becomes a NOP that waits for the freeze to lower (R204, R206, R380). -/
def sigSatisfy (c n : Nat) (s : State) : State :=
  let x := coreAt s c
  match x.holds.find? (fun h => h.1 = 7) with
  | none => s
  | some (u, i, op) =>
    match waitNeeds x i op with
    | none => s
    | some (sig, need, pd) =>
      if sig = n ∧ need ≤ sigCount s c n then
        let s := setSig c n (sigCount s c n - need) s
        let repl := fun (h : Nat × Nat × Instr) => if h = (u, i, op) then (u, i, Instr.sNop c .p0) else h
        updCore c (fun x =>
          let x := match pd with | some p => wrPred x .p0 p i true | none => x
          { x with holds := x.holds.map repl }) s
      else s

/-- SIG_WAITING (R416): the signal on which the first held wait that the counts do not meet holds issue. -/
def sigWaits (s : State) (c : Nat) : Nat :=
  let x := coreAt s c
  let r := (x.holds.filter (fun h => h.1 = 7)).foldl (fun (st : List (Nat × Nat) × Option Nat) h =>
    match st.2, waitNeeds x h.2.1 h.2.2 with
    | none, some (n, need, _) =>
      let used := ((st.1.filter (fun e => e.1 = n)).map (·.2)).foldl (· + ·) 0
      if used + need ≤ sigCount s c n then (st.1 ++ [(n, need)], none) else (st.1, some n)
    | _, _ => st) ([], none)
  match r.2 with | some n => 2 ^ n | none => 0

/-- A signal is raised by `k` (R379–R381). -/
def raiseSig (c n k : Nat) (s : State) : State :=
  let v := sigCount s c n + k
  let s :=
    if 0xFFFFFFFF < v then
      coreFault c 6 (setR (Pg.sig c) R.SIG_SAT (setBit (getR s (Pg.sig c) R.SIG_SAT) n true) (setSig c n 0xFFFFFFFF s))
    else setSig c n v s
  sigSatisfy c n s

/-! ### Freeze (R217–R220) -/

/-- The partition whose freeze domain holds core `c` (R458); outside a Sol, the partition of its site. -/
def freezePtn (s : State) (c : Nat) : Option Nat :=
  match s.ptns.find? (fun e => decide (e.2.phase = .sol) && e.2.domain.contains c) with
  | some e => some e.1
  | none => ptnOfSite s c

/-- Freeze is raised in the partition of core `c`: NETS_FREEZE_CNT counts the freezes begun, and a trace may be made (R217, R462). -/
def raiseFreeze (c : Nat) (s : State) : State :=
  match freezePtn s c with
  | none => s
  | some p =>
    if (ptnAt s p).skid.isSome then s
    else trace 1 Pg.nets (satR Pg.nets R.NETS_FREEZE_CNT 1 (updPtn p (fun y => { y with skid := some 0 }) s))

/-- A unit of a core holds an operation of stepped cycle `i`. -/
def holdQuiet (c u i : Nat) (op : Instr) (s : State) : State := updCore c (fun x => { x with holds := x.holds ++ [(u, i, op)] }) s

/-- A unit of a core holds its operation, or one that follows one it already holds, and raises freeze (R217). -/
def holdOp (c u i : Nat) (op : Instr) (s : State) : State := raiseFreeze c (holdQuiet c u i op s)

/-- Unit `u` of a core raises freeze for an access that was denied, or for earlier work of its own (R255, R371). What it does is the same
at the same stepped cycles (R221), so nothing is held back here. -/
def raiseDenied (c u : Nat) (s : State) : State := raiseFreeze c (updCore c (fun x => { x with denied := setBit x.denied u true }) s)

/-- A move or gather engine of core `c` has work under way, so that it may ask for banks of the scratchpad. -/
def asyncWork (s : State) (c : Nat) : Bool :=
  !(moverAt s c false).jobs.isEmpty || !(moverAt s c true).jobs.isEmpty || !(gthAt s c).groups.isEmpty || s.ops.any (fun o => o.ep = c)

/-- The banks that requesters promoted to priority 2 ask for in this cycle, as a mask: how long an asynchronous requester has waited is a
matter of timing and left free (R370). -/
def promotedBanks (c : Nat) (s : State) : Nat × State :=
  if asyncWork s c then let (v, s) := fresh s; (v.toNat % 2 ^ 32, s) else (0, s)

/-- The claims of stepped cycle `t` are decided. -/
def bankStep (c t : Nat) (s : State) : State :=
  let now := (coreAt s c).claims.filter (fun q => q.at_ = t)
  if now.isEmpty then s
  else
    let (m, s) := promotedBanks c s
    foldS (raiseDenied c) (bankDenied m now) (updCore c (fun x => { x with claims := x.claims.filter (fun q => t < q.at_) }) s)

/-- Unit `u` holds an operation already. -/
def unitHolds (x : Core) (u : Nat) : Bool := x.holds.any (fun h => h.1 = u)

/-- The slot of unit `u` (bits [6:0] of SLOTS) is squashed in the current syllable (R200). -/
def squashed (x : Core) (u : Nat) : Bool := decide (u < 7) && bit x.squash u

end Sys2Proof.Machine
end

