-- ==== Sys2Proof/Machine/Calends.lean ====
section
/-! DEFINITION. Calends (R464–R511): arrivals, generations, releases, spans, forces and restores of barriers, and Vigil's
detection. The C slot's waits are in Machine/Stream.lean, which knows how a unit raises freeze. -/

namespace Sys2Proof.Machine

/-- The generation after `g`: 0 follows 254 (R469). -/
def nextGen (g : Nat) : Nat := if g = 254 then 0 else g + 1

/-- Every local participant has arrived toward g, or the count is TARGET, and every valid child has reported (R474). -/
def barMet (s : State) (b : Nat) : Bool :=
  let x := barAt s b
  let loc :=
    if barTarget s b = 0 then
      (bitsSet 120 (barMask s b)).all (fun n => x.who0.contains n) &&
        (bitsSet 12 (getN s (barPage b) (barOff b R.CAL_XMASK))).all (fun e => x.who0.contains (128 + e))
    else x.n0 = barTarget s b
  loc && (List.range 8).all (fun k => (barMember s b (1 + k)).isNone || bit x.ch0 k)

/-- Generation g is released (R476): RELEASE to the children, g + 1 becomes current, arrivals toward it carry over. DESIGN CHOICE: NETS_MSGS
counts the release to the local participants as one message, since R457 and R462 do not say how many carry it. -/
def barRelease (b : Nat) (s : State) : State :=
  let x := barAt s b
  let ns := match x.metAt with | some t => (s.time - t).toNat % 2 ^ 24 | none => 0
  let s := wrapR Pg.nets R.NETS_MSGS 1 s
  let s := foldS (fun m => spanSend 2 b x.gen 0 (m.2.1, m.2.2)) ((barMembers s b).filter (fun m => m.1 ≠ 0)) s
  let s := setBar b { x with gen := nextGen x.gen, n0 := x.n1, n1 := 0, who0 := x.who1, who1 := [], ch0 := x.ch1, ch1 := 0,
                             sent := false, releases := x.releases + 1, lastNs := ns, metAt := none,
                             open_ := x.open_.filter (fun e => e.2 ≠ x.gen) } s
  trace 2 (barPage b) s

/-- A met generation is released, or ARRIVE goes to the parent (R475); a new current generation that is already met is
treated next (R476). At most two generations can be met at once. -/
def barCheck : Nat → Nat → State → State
  | 0, _, s => s
  | n + 1, b, s =>
    let x := barAt s b
    if x.st = 1 ∧ barMet s b then
      match barMember s b 0 with
      | none => barCheck n b (barRelease b (setBar b { x with metAt := some (x.metAt.getD s.time) } s))
      | some d =>
        if x.sent then s
        else spanSend 1 b x.gen 0 d (setBar b { x with sent := true, metAt := some (x.metAt.getD s.time) } s)
    else s

/-- An arrival counted toward g, or toward g + 1 (`nxt`), by participant `who`; a core's arrival is open until its
generation is released (R470, R471, R477). -/
def barCount (b who : Nat) (nxt : Bool) (s : State) : State :=
  let x := barAt s b
  let op := if who < 120 then x.open_ ++ [(who, if nxt then nextGen x.gen else x.gen)] else x.open_
  let x := if nxt then { x with n1 := x.n1 + 1, who1 := x.who1 ++ [who], open_ := op }
    else { x with n0 := x.n0 + 1, who0 := x.who0 ++ [who], open_ := op }
  barCheck 3 b (setBar b x s)

/-- The barrier saturates (R473). -/
def barSaturate (b : Nat) (s : State) : State :=
  let s := setR (barPage b) R.CAL_MISUSE (setBit (getR s (barPage b) R.CAL_MISUSE) (b % 16) true) s
  raise (.bar b BC.misuse none) (setBar b { barAt s b with sat := true } s)

/-- An arrival of local participant `who` at an Open barrier (R470, R471): 0–119 a logical core, 128 + e external e. -/
def barArriveOpen (b who : Nat) (s : State) : State :=
  let x := barAt s b
  let target := barTarget s b
  if target = 0 then
    if !(x.who0.contains who) then barCount b who false s
    else if !(x.who1.contains who) then barCount b who true s
    else barSaturate b s
  else if x.n0 < target then barCount b who false s
  else if x.n1 < target then barCount b who true s
  else barSaturate b s

/-- CAL_STALE counts a message that was discarded (R481–R483). -/
def calStale (b : Nat) (s : State) : State := satR (barPage b) R.CAL_STALE 1 s

/-- A sync message with a parity error is discarded, counted, and faults the barrier it names (R459, R485). -/
def syncParity (b : Nat) (s : State) : State := raise (.bar b BC.parity none) (satR Pg.nets R.NETS_ERRORS 1 s)

/-- The arrival of a core of partition `p` at barrier `b` (R467, R470, R483, R485): from the C slot or from a move
descriptor. `bad`: its message met a parity error. A barrier that is not enabled or belongs to another partition discards it, and the partition records
BARRIER; a Faulted or Quiet one discards it as stale; an arrival outside CAL_MASK is STRAY. -/
def coreArrive (p n b : Nat) (bad : Bool) (s : State) : State :=
  if bad then syncParity b s else
  let s := wrapR Pg.nets R.NETS_MSGS 1 s
  let x := barAt s b
  if ¬ (barEn s b ∧ barPtn s b = p) ∨ x.st = 0 then ptnFault p PC.barrier s
  else if x.st ≠ 1 then calStale b s
  else if (barMask s b).testBit n then barArriveOpen b n s
  else raise (.bar b BC.stray none) s

/-- A core's wait at a barrier is satisfied: every arrival it made there has been released (R477). -/
def barPasses (s : State) (n b : Nat) : Bool := (barAt s b).open_.all (fun e => e.1 ≠ n)

/-- Barrier operations of the C slot name a barrier of the core's partition (R467). -/
def barNamed (s : State) (p b : Nat) : Bool := barEn s b && barPtn s b = p && (barAt s b).st ≠ 0

/-! ### Spans (R479–R483, R459) -/

/-- The member of `b` that (die, barrier) is: 0 the parent, 1 + k child k. -/
def memberOf (s : State) (b : Nat) (src : Nat × Nat) : Option Nat :=
  ((barMembers s b).find? (fun m => m.2 = src)).map (·.1)

/-- Span ARRIVE (R480, R483). -/
def spanArriveAt (gen b : Nat) (src : Nat × Nat) (s : State) : State :=
  let x := barAt s b
  if x.st ≠ 1 then calStale b s
  else
    match memberOf s b src with
    | some (k + 1) =>
      if gen = x.gen then
        if bit x.ch0 k then raise (.bar b BC.misuse none) s
        else barCheck 3 b (setBar b { x with ch0 := setBit x.ch0 k true } s)
      else if gen = nextGen x.gen then
        if bit x.ch1 k then raise (.bar b BC.misuse none) s
        else setBar b { x with ch1 := setBit x.ch1 k true } s
      else raise (.bar b BC.stray none) s
    | _ => raise (.bar b BC.stray none) s

/-- Span RELEASE (R481, R483): from the parent it releases g whether or not g is met here. -/
def spanReleaseAt (gen b : Nat) (src : Nat × Nat) (s : State) : State :=
  let x := barAt s b
  if x.st ≠ 1 then calStale b s
  else
    match memberOf s b src with
    | some 0 => if gen = x.gen then barCheck 3 b (barRelease b s) else calStale b s
    | _ => raise (.bar b BC.stray none) s

/-- Span FAULT (R482, R483): from the parent or a child of an Open barrier it records REMOTE. -/
def spanFaultAt (b : Nat) (src : Nat × Nat) (s : State) : State :=
  let x := barAt s b
  if x.st ≠ 1 then calStale b s
  else
    match memberOf s b src with
    | some m => raise (.bar b BC.remote (some m)) s
    | none => calStale b s

/-- The 8 bytes of a span message (R479): TYPE, GEN, DBAR, SBAR, SDIE, CAUSE (0 but in a FAULT), reserved bits. -/
def spanBits (gen dbar sbar : BitVec 8) (sdie : BitVec 12) (cause : BitVec 8) (r : SpanRest) : BitVec 64 :=
  r.typ ++ gen ++ dbar ++ sbar ++ sdie ++ cause ++ r.rsvd

/-- The rows of a span message of 8 bytes. -/
def spanArriveRow (m : BitVec 64) (bad : Bool) : Instr := .spanArrive (m.extractLsb' 52 8) (m.extractLsb' 44 8) (m.extractLsb' 36 8) (m.extractLsb' 24 12) ⟨m.extractLsb' 60 4, m.extractLsb' 0 16, bad⟩
def spanReleaseRow (m : BitVec 64) (bad : Bool) : Instr := .spanRelease (m.extractLsb' 52 8) (m.extractLsb' 44 8) (m.extractLsb' 36 8) (m.extractLsb' 24 12) ⟨m.extractLsb' 60 4, m.extractLsb' 0 16, bad⟩
def spanFaultRow (m : BitVec 64) (bad : Bool) : Instr :=
  .spanFault (m.extractLsb' 52 8) (m.extractLsb' 44 8) (m.extractLsb' 36 8) (m.extractLsb' 24 12) (m.extractLsb' 16 8) ⟨m.extractLsb' 60 4, m.extractLsb' 0 16, bad⟩

/-- A span message of this die's barriers arrives (R479): it acts by its TYPE, and one with a reserved TYPE is discarded as stale,
whatever barrier it names (R483). -/
def spanTake (msg : BitVec 64) (bad : Bool) (s : State) : State :=
  let b := fld msg 44 8
  let src := (fld msg 24 12, fld msg 36 8)
  if bad then syncParity b s
  else
    let s := wrapR Pg.nets R.NETS_MSGS 1 s
    match fld msg 60 4 with
    | 1 => spanArriveAt (fld msg 52 8) b src s
    | 2 => spanReleaseAt (fld msg 52 8) b src s
    | 3 => spanFaultAt b src s
    | _ => calStale b s

/-! ### Force, external arrivals, restore -/

/-- The record of a force (R491): barrier, generation, the local participants and children that had not arrived. The
manual names these contents and gives no layout: the order of the fields is a DESIGN CHOICE. -/
def forceBody (s : State) (b : Nat) : List Byte :=
  let x := barAt s b
  let miss := (bitsSet 120 (barMask s b)).filter (fun n => !(x.who0.contains n))
  let missX := (bitsSet 12 (getN s (barPage b) (barOff b R.CAL_XMASK))).filter (fun e => !(x.who0.contains (128 + e)))
  let m := miss.foldl (fun a n => a + 2 ^ n) 0 + missX.foldl (fun a e => a + 2 ^ (120 + e)) 0
  let ch := ((List.range 8).filter (fun k => (barMember s b (1 + k)).isSome && !bit x.ch0 k)).foldl (fun a k => a + 2 ^ k) 0
  bytesOf 2 b ++ bytesOf 2 x.gen ++ bytesOf 8 s.time.toNat ++ bytesOf 17 m ++ bytesOf 1 ch

/-- CAL_FORCE with GO on page `k` (R491): an Open barrier releases its current generation and nothing goes to its
parent; the force is counted and logged. -/
def calForceOp (k idx : Nat) (s : State) : State :=
  let b := 16 * k + idx
  let x := barAt s b
  if x.st = 1 then
    let s := annLog (barPage b) 0 (forceBody s b) (satR (barPage b) R.CAL_FORCED 1 s)
    barCheck 3 b (barRelease b (setBar b { x with metAt := none } s))
  else s

/-- A write to CAL_FORCE on page `k`. -/
def calForceWrite (k : Nat) (v : Word) (s : State) : State := if bit v 4 then calForceOp k (fld v 0 4) s else s

/-- A write to CAL_XARRIVE on page `k` (R507): no effect unless GO is set and the barrier is Open; an external
participant outside CAL_XMASK is STRAY (R485). -/
def calXarriveWrite (k : Nat) (v : Word) (s : State) : State :=
  let b := 16 * k + fld v 4 4
  if bit v 8 ∧ (barAt s b).st = 1 then
    if fld v 0 4 < 12 ∧ (getN s (barPage b) (barOff b R.CAL_XMASK)).testBit (fld v 0 4) then barArriveOpen b (128 + fld v 0 4) s
    else raise (.bar b BC.stray none) s
  else s

/-- A restore (R488): counts, child reports, SENT, SAT, CAL_FAULT and open arrivals are cleared; Quiet if the fault is
less than CAL_QUIET ago, else Open. -/
def barRestore (b gen : Nat) (s : State) : State :=
  let x := barAt s b
  let quiet := x.st ≥ 2 ∧ (s.time - x.faultAt).toNat < getN s (barPage b) R.CAL_QUIET
  setBar b { Bar.init with st := if quiet then 3 else 1, gen := gen, releases := x.releases, lastNs := x.lastNs, faultAt := x.faultAt } s

/-- CAL_CLEAR on page `k` (R489): each named Faulted barrier whose partition is not in Starting, Running or Stopping is
restored at its generation; any other named barrier, or a page that is not Running, sets HDR_IGNORED.RWS. -/
def calClearWrite (k : Nat) (v : Word) (s : State) : State :=
  foldS (fun i s =>
    let b := 16 * k + i
    let st := bstate s (Pg.ptn (barPtn s b))
    if runs s (Pg.cal k) ∧ (barAt s b).st = 2 ∧ st ≠ B.starting ∧ st ≠ B.running ∧ st ≠ B.stopping
    then barRestore b (barAt s b).gen s else ignoredRws (Pg.cal k) R.CAL_CLEAR s) (bitsSet 16 v.toNat) s

/-- CAL_QUIET has passed since the fault (R488): a Quiet barrier becomes Open. -/
def quietExpireOp (b : Nat) (s : State) : State :=
  let x := barAt s b
  if x.st = 3 then setBar b { x with st := 1 } s else s

/-- START of CAL page `k` opens every enabled barrier at generation 0; a Faulted one is restored (R506). -/
def calStartOp (k : Nat) (s : State) : State :=
  foldS (fun i s =>
    let b := 16 * k + i
    if barEn s b then
      let s := if (barAt s b).st = 2 then barRestore b 0 s else setBar b { Bar.init with st := 1 } s
      setBar b { barAt s b with releases := 0, lastNs := 0 } s
    else setBar b Bar.init s) (List.range 16) s

/-- Every barrier of the page becomes Disabled (R468, R506: ABORT, RETIRE). -/
def calDisable (k : Nat) (s : State) : State := foldS (fun i => setBar (16 * k + i) Bar.init) (List.range 16) s

/-- START of a CAL page records CONFIG (R510). -/
def calConfigBad (s : State) (k : Nat) : Bool :=
  let q := getN s (Pg.cal k) R.CAL_QUIET
  decide (q < 1000) || decide (131071 < q) ||
    (List.range 16).any (fun i =>
      let b := 16 * k + i
      barEn s b && (
        (barMask s b = 0 && getN s (barPage b) (barOff b R.CAL_XMASK) = 0 && (barMembers s b).all (fun m => m.1 = 0)) ||
        (barTarget s b ≠ 0 && barMask s b = 0 && getN s (barPage b) (barOff b R.CAL_XMASK) = 0) ||
        (barMembers s b).any (fun m => !dieValid s || m.2.1 = dieNum s) ||
        !(decide (((barMembers s b).filter (fun m => m.1 ≠ 0)).map (·.2)).Nodup)))

/-! ### Vigil (R501–R505) -/

/-- The units of a core that raise freeze, in the bit order of the Vigil record: [7] S, [6] M0, [5] M1, [4] V0, [3] V1,
[2] X0, [1] X1, [0] C (R504). Unit numbers of `Core.holds` and `Core.denied` are 7 S down to 0 C in that order; the second pipeline's unit,
4 of an S-core, never raises freeze. -/
def freezeUnits (s : State) (c : Nat) : Nat :=
  let x := coreAt s c
  (List.range 8).foldl (fun a u => if (x.holds.any (fun h => h.1 = u) && !(decide (u = 4) && decide (runsAs s c = some 2))) || bit x.denied u then a + 2 ^ u else a) 0

/-- The barrier a core's held C-slot operation waits on. -/
def waitsOn (x : Core) : Option Nat :=
  x.holds.findSome? (fun h => match h.2.2 with | .waitb _ b | .arwt _ ⟨b, _⟩ => some b.toNat | _ => none)

/-- Outstanding operations of a site. -/
def opsOfSite (s : State) (c : Nat) : Nat := (s.ops.filter (fun o => o.ep = c)).length

/-- The Vigil record of R504 for partition `p`. -/
def vigilRecord (s : State) (p : Nat) : List Byte :=
  let ns := (ptnLogicals s p).take 120
  let waits := ns.filterMap (fun n => (siteOf s n).bind (fun c => waitsOn (coreAt s c)))
  let bm := (List.range 256).foldl (fun a b => if waits.contains b then a + 2 ^ b else a) 0
  bytesOf 4 0x00080000 ++ bytesOf 2 (64 + 16 * ns.length) ++ bytesOf 1 p ++ bytesOf 1 ns.length ++ bytesOf 8 s.time.toNat ++
    bytesOf 8 (getQ s (Pg.ptn p) R.PTN_SOL_SEQ_LO).toNat ++ bytesOf 4 (getN s Pg.vgl R.VGL_WINDOW) ++ bytesOf 4 0 ++ bytesOf 32 bm ++
    (ns.map (fun n =>
      let c := (siteOf s n).getD 0
      let x := coreAt s c
      bytesOf 1 n ++ bytesOf 1 c ++ bytesOf 2 (b2n x.parked * 32768 + b2n ((freezePtn s c).any (ptnHeld s)) * 16384 + x.pos % 4096) ++
        bytesOf 1 (freezeUnits s c) ++ bytesOf 1 ((waitsOn x).getD 255) ++ bytesOf 2 (opsOfSite s c) ++
        bytesOf 4 (sigWaits s c) ++
        bytesOf 2 ((moverAt s c true).queue.length * 256 + (moverAt s c false).queue.length) ++
        bytesOf 2 (gthAt s c).threads.length)).flatten

/-- Vigil watches partition `p`: VGL Running, the watch bit set, the partition Running and in its Sol (R501, R505). -/
def vigilWatches (s : State) (p : Nat) : Bool :=
  runs s Pg.vgl && bit (getR s Pg.vgl R.VGL_CFG) p && runs s (Pg.ptn p) && (ptnAt s p).phase = .sol

/-- A deadlock is detected (R503): the record and the DEADLOCK alarm, VGL_ALARMS and VGL_LAST, and VIGIL with ABORT. -/
def vigilDetectOp (p : Nat) (s : State) : State :=
  if vigilWatches s p then
    let body := vigilRecord s p
    let s := if bit (getR s Pg.vgl R.VGL_LAST) 31 then s
      else setQ Pg.vgl R.VGL_LAST_TIME_LO s.time (firstR Pg.vgl R.VGL_LAST p s)
    let s := satR Pg.vgl R.VGL_ALARMS 1 (alarmFull Pg.vgl 0x0101 0 false body s)
    if bit (getR s Pg.vgl R.VGL_CFG) 16 then ptnFault p PC.vigil (satR Pg.vgl R.VGL_ABORTS 1 s) else s
  else s

/-! ### The commands -/

/-- SPAN_ARRIVE. -/
def execSpanArrive (gen dbar sbar : BitVec 8) (sdie : BitVec 12) (rest : SpanRest) (s : State) : Host.Outcome State Fault Refusal :=
  act s (spanTake (spanBits gen dbar sbar sdie 0 rest) rest.parityBad s)

/-- SPAN_RELEASE. -/
def execSpanRelease (gen dbar sbar : BitVec 8) (sdie : BitVec 12) (rest : SpanRest) (s : State) : Host.Outcome State Fault Refusal :=
  act s (spanTake (spanBits gen dbar sbar sdie 0 rest) rest.parityBad s)

/-- SPAN_FAULT. -/
def execSpanFault (gen dbar sbar : BitVec 8) (sdie : BitVec 12) (cause : BitVec 8) (rest : SpanRest) (s : State) : Host.Outcome State Fault Refusal :=
  act s (spanTake (spanBits gen dbar sbar sdie cause rest) rest.parityBad s)

/-- CAL_FORCE. -/
def execCalForce (k : Nat) (v : Word) (s : State) : Host.Outcome State Fault Refusal := onUnit k 16 (calForceWrite k v) s

/-- CAL_XARRIVE. -/
def execCalXarrive (k : Nat) (v : Word) (s : State) : Host.Outcome State Fault Refusal := onUnit k 16 (calXarriveWrite k v) s

/-- CAL_CLEAR. -/
def execCalClear (k : Nat) (v : Word) (s : State) : Host.Outcome State Fault Refusal := onUnit k 16 (calClearWrite k v) s

/-- QUIET_EXPIRE. -/
def execQuietExpire (b : Nat) (s : State) : Host.Outcome State Fault Refusal := onUnit b 256 (quietExpireOp b) s

/-- VIGIL_DETECT. -/
def execVigilDetect (p : Nat) (s : State) : Host.Outcome State Fault Refusal := onUnit p nPtns (vigilDetectOp p) s

end Sys2Proof.Machine
end

