-- ==== Sys2Proof/Machine/Rings.lean ====
section
/-! DEFINITION. Rings and doorbells (R606–R628): enabling, index updates of the host and of cores, what a commit applies,
MSG rings. -/

namespace Sys2Proof.Machine

/-- DBL page of a ring. -/
def dblPage (r : Nat) : Nat := Pg.dbl (r / 256)

/-- DBL_ERR of the ring's page: the first event since cleared (R627). -/
def dblErr (r reason : Nat) (s : State) : State := firstR (dblPage r) R.DBL_ERR (reason * 2 ^ 24 + r % 256) s

/-- An index write or update refused (DBL_REFUSED), with its reason recorded. -/
def dblRefuse (r reason : Nat) (s : State) : State := dblErr r reason (satR (dblPage r) R.DBL_REFUSED 1 s)

/-- Base of the ring table (DBL_RTAB). -/
def ringTab (s : State) : Nat := ringDescAddr s 0

/-- The ring's bit in DBL_ENABLE set to `on`. -/
def setRingBit (r : Nat) (on : Bool) (s : State) : State :=
  let i := r % 256
  let o := if i < 128 then R.DBL_ENABLE0 + 4 * (i / 32) else R.DBL_ENABLE4 + 4 * ((i - 128) / 32)
  setR (dblPage r) o (setBit (getR s (dblPage r) o) (i % 32) on) s

/-- A homed byte range lies below the home size and in regions of 128-byte tiles (R608, R609). -/
def smallTiles (s : State) (a len : Nat) : Bool :=
  decide (a + len ≤ homeSize s) && (List.range (len / 2097152 + 2)).all (fun k => decide (a + len ≤ a / 2097152 * 2097152 + k * 2097152) || !bigTile s (a + k * 2097152))

/-- The checks of R609 on the descriptor of ring `r`. -/
def ringOk (s : State) (r : Nat) : Bool :=
  let a := ringDescAddr s r
  let d := ringDesc s r
  let c := memNum s (a + 8) 4
  d.valid && decide (d.typ ≤ 4) && decide (c % 2 ^ 16 = 0) && decide (memNum s (a + 12) 4 = 0) && decide (memNum s (a + 0x20) 32 = 0) &&
    decide (memNum s (a + 0x1C) 2 < 4096) && (!d.dir || decide (d.typ = 3)) &&
    decide (4 ≤ d.order) && decide (d.order ≤ 20) && decide (d.base % 4096 = 0) &&
    smallTiles s d.base (64 * 2 ^ d.order) && smallTiles s a 64 &&
    decide (d.ptn ≤ 16) && (decide (d.ptn ≠ 16) || decide (d.typ = 1)) &&
    decide (ringCount d ≤ 2 ^ d.order) &&
    (decide (d.typ ≠ 3) || (dieValid s && decide (d.peerDie ≠ dieNum s)))

/-- Doorbell-unit state of a MSG ring. -/
def msgRing (s : State) (r : Nat) : Option MsgRing := s.msgRings.find? (fun m => m.ring = r)
def setMsgRing (m : MsgRing) (s : State) : State := { s with msgRings := s.msgRings.filter (fun x => x.ring ≠ m.ring) ++ [m] }

/-! ### Staged updates -/

def sameUpd (u v : RingUpd) : Bool := u.ring = v.ring && u.host = v.host && u.prod = v.prod

/-- The store replaced; DBL_STAGED follows. -/
def setStage (l : List RingUpd) (s : State) : State :=
  setR (Pg.dbl 0) R.DBL_STAGED (BitVec.ofNat 32 l.length) { s with ringStage := l }

/-- The store has no room for an update (R618). -/
def stageFull (s : State) (u : RingUpd) : Bool := decide (2048 ≤ s.ringStage.length) && !(s.ringStage.any (sameUpd u))

/-- An update staged: the value that arrived last holds (R617). -/
def stagePut (u : RingUpd) (s : State) : State := setStage (s.ringStage.filter (fun v => !sameUpd u v) ++ [u]) s

/-- The value an index has or is staged to have. -/
def indexAhead (s : State) (r : Nat) (prod : Bool) (v : Nat) : Nat :=
  match s.ringStage.find? (fun u => u.ring = r ∧ u.prod = prod) with
  | some u => u.val.toNat
  | none => v

/-- A difference of indices as a signed 32-bit value (R617). -/
def idxDiff (a b : Nat) : Int := signedOf 32 (a + 2 ^ 32 - b % 2 ^ 32)

/-- An update that was checked and refused at its application (R617). -/
def updRefused (r : Nat) (s : State) : State := namedAlarm (dblPage r) 1 (dblRefuse r 3 s)

/-- Credits for the entries consumed go back to the sender of a MSG receive ring (R624). -/
def creditBack (d : RingDesc) (n : Nat) (reenable : Bool) (s : State) : State :=
  postMsg d.peerDie Cls.int 1 (.ringCredit d.peerDie d.peerRing (BitVec.ofNat 32 n) reenable) s

/-- One update checked against the indices in force and applied (R617). -/
def applyUpd (u : RingUpd) (s : State) : State :=
  let r := u.ring
  let d := ringDesc s r
  let v := u.val.toNat
  let cap : Int := 2 ^ d.order
  if u.prod then
    if d.typ = 4 then
      if 0 ≤ idxDiff v d.prod then
        let past := idxDiff v d.cons - cap
        let s := if 0 < past then
            setRingWord r 0x18 (Nat.min (d.drops + past.toNat) 0xFFFFFFFF) (setRingWord r 0x14 ((d.cons + past.toNat) % 2 ^ 32) s)
          else s
        setRingWord r 0x10 v s
      else updRefused r s
    else if 0 ≤ idxDiff v d.prod ∧ idxDiff v d.cons ≤ cap then
      let s := setRingWord r 0x10 v s
      if d.typ = 1 ∧ d.notify ∧ v ≠ d.prod then ringNotice r v s else s
    else
      let past := idxDiff v d.cons - cap
      let s := if 0 < past then setRingWord r 0x18 (Nat.min (d.drops + past.toNat) 0xFFFFFFFF) s else s
      updRefused r s
  else if 0 ≤ idxDiff v d.cons ∧ idxDiff v d.cons ≤ idxDiff d.prod d.cons then
    let s := setRingWord r 0x14 v s
    if d.typ = 3 ∧ d.dir ∧ v ≠ d.cons then creditBack d (idxDiff v d.cons).toNat false s else s
  else updRefused r s

/-- A ring whose updates wait for a commit: its partition is Starting, Running, Stopping or Faulted (R616). -/
def ringHeld (s : State) (d : RingDesc) : Bool := decide (d.ptn < 16) && ptnActive s d.ptn

/-- An update of the host or of the doorbell unit (R616): staged, or at once; a full store refuses it (R618). -/
def hostUpd (u : RingUpd) (s : State) : State :=
  if ringHeld s (ringDesc s u.ring) then
    if stageFull s u then dblRefuse u.ring 4 s else stagePut u s
  else applyUpd u s

/-- The updates of the rings of partition `p`: those of ring `r` in the order of R617. -/
def updsOf (l : List RingUpd) (r : Nat) : List RingUpd :=
  l.filter (fun u => u.ring = r ∧ u.host) ++ l.filter (fun u => u.ring = r ∧ !u.host)

/-- Rings of partition `p` that have staged updates, ascending. -/
def stagedRings (s : State) (p : Nat) : List Nat :=
  (s.ringStage.foldl (fun (t : Tab Unit) u => if (ringDesc s u.ring).ptn = p then Tab.put t u.ring () else t) []).map (·.1)

/-- A commit of partition `p` applies the staged updates of its rings (R617). -/
def ringCommit (p : Nat) (s : State) : State :=
  let rs := stagedRings s p
  let all := s.ringStage
  let s := setStage (all.filter (fun u => !(rs.contains u.ring))) s
  foldS (fun r => foldS applyUpd (updsOf all r)) rs s

/-- Partition `p` enters Stopped: staged host updates take effect at once (R616). -/
def ringStopped (p : Nat) (s : State) : State :=
  let rs := stagedRings s p
  let all := s.ringStage
  let s := setStage (all.filter (fun u => !(rs.contains u.ring))) s
  foldS (fun r => foldS applyUpd ((updsOf all r).filter (·.host))) rs s

/-- Staged updates of ring `r` discarded, each counted (R611). -/
def ringDrop (r : Nat) (s : State) : State :=
  let n := (s.ringStage.filter (fun u => u.ring = r)).length
  let s := setStage (s.ringStage.filter (fun u => u.ring ≠ r)) s
  if n = 0 then s else satR (dblPage r) R.DBL_REFUSED n s

/-- STOP and ABORT of a DBL page discard the staged updates of its rings. -/
def dblDiscard (d : Nat) (s : State) : State :=
  foldS ringDrop ((s.ringStage.map (·.ring)).dedup.filter (fun r => r / 256 = d)) s

/-! ### Enabling -/

/-- A write of 1 to the ring's bit of DBL_ENABLE (R609); a MSG receive ring reports its capacity as credits (R623). -/
def ringEnableOp (r : Nat) (s : State) : State :=
  if ringEnabled s r then s
  else if ringOk s r then
    let d := ringDesc s r
    let s := setRingBit r true s
    if d.typ = 3 then
      if d.dir then
        let keep := (msgRing s r).any (fun m => m.peer = (d.peerDie, d.peerRing))
        let s := if keep then s
          else setMsgRing { ring := r, peer := (d.peerDie, d.peerRing), credits := 0, next := 0, stopped := true } s
        creditBack d (2 ^ d.order) true s
      else setMsgRing { ring := r, peer := (d.peerDie, d.peerRing), credits := 0, next := BitVec.ofNat 32 d.cons, stopped := false } s
    else s
  else dblErr r 1 s

/-- A write of 0 to the ring's bit (R611). -/
def ringDisableOp (r : Nat) (s : State) : State :=
  if ringEnabled s r then
    let send := (ringDesc s r).dir = false
    setRingBit r false (ringDrop r { s with msgRings := s.msgRings.filter (fun m => ¬ (m.ring = r ∧ send)) })
  else s

/-! ### Index writes -/

/-- The host owns this index (R612). -/
def hostOwns (d : RingDesc) (prod : Bool) : Bool :=
  if prod then decide (d.typ = 0) || decide (d.typ = 2) else decide (d.typ = 1) || decide (d.typ = 4)

/-- A partition owns this index (R612). -/
def coreOwns (d : RingDesc) (prod : Bool) : Bool :=
  decide (d.ptn < 16) &&
    (if prod then decide (d.typ = 1) || decide (d.typ = 4) || (decide (d.typ = 3) && !d.dir)
     else decide (d.typ = 0) || decide (d.typ = 2) || (decide (d.typ = 3) && d.dir))

/-- A write to DBL_PROD_i or DBL_CONS_i (R614). -/
def doorbellWrite (r : Nat) (prod : Bool) (v : Word) (s : State) : State :=
  if runs s (dblPage r) ∧ ringEnabled s r ∧ hostOwns (ringDesc s r) prod then
    hostUpd { ring := r, host := true, prod := prod, val := v } s
  else dblRefuse r 2 s

/-- Rings whose descriptor lies in the 128-byte line at `a` and that are enabled (R610). -/
def ringsInLine (s : State) (a : Nat) : List Nat :=
  let t := ringTab s
  let l := a / 128 * 128
  if t ≤ l ∧ l < t + 4194304 then ((List.range 2).map (fun k => (l - t) / 64 + k)).filter (ringEnabled s) else []

/-- Outcome of a write to a descriptor line of an enabled ring (R613): staged, refused, or waiting for room (R618). -/
inductive RingWr where
  | staged (u : RingUpd)
  | full
  | bad
deriving DecidableEq, Repr

/-- The word that a write names: the enabled bytes are exactly the PROD or CONS word of an enabled ring in the line. -/
def ringWord (s : State) (a : Nat) (ben : Nat) (data : Nat) : Option RingUpd :=
  (ringsInLine s a).findSome? (fun r =>
    let o := (ringDescAddr s r) % 128
    if ben = 0xF * 2 ^ (o + 0x10) then some { ring := r, host := false, prod := true, val := BitVec.ofNat 32 (data / 2 ^ (8 * (o + 0x10))) }
    else if ben = 0xF * 2 ^ (o + 0x14) then some { ring := r, host := false, prod := false, val := BitVec.ofNat 32 (data / 2 ^ (8 * (o + 0x14))) }
    else none)

/-- A write of source endpoint `src` to the descriptor line at `a`, judged by R613. -/
def ringJudge (s : State) (src a ben data : Nat) (localSrc : Bool) : RingWr :=
  match ringWord s a ben data with
  | some u =>
    let d := ringDesc s u.ring
    if localSrc ∧ src < nSites ∧ coreOwns d u.prod ∧ ptnOfSite s src = some d.ptn ∧ runs s (Pg.ptn d.ptn) ∧ runs s (dblPage u.ring) then
      (if stageFull s u then .full else .staged u)
    else .bad
  | none => .bad

/-- The ring that a refused write to a descriptor line counts for: the first enabled one of the line. -/
def ringRefuse (a : Nat) (s : State) : State :=
  match ringsInLine s a with
  | r :: _ => satR (dblPage r) R.DBL_REFUSED 1 s
  | [] => s

/-! ### MSG rings (R623–R625) -/

/-- The next committed entry of a send ring leaves while a credit is held (R623). -/
def msgSendOp (r : Nat) (s : State) : State :=
  let d := ringDesc s r
  match msgRing s r with
  | some m =>
    if runs s (dblPage r) ∧ ringEnabled s r ∧ d.typ = 3 ∧ d.dir = false ∧ m.stopped = false ∧ 0 < m.credits ∧ m.next.toNat ≠ d.prod then
      let e := memNum s (ringEntryAddr d m.next.toNat) 64
      let s := postMsg d.peerDie Cls.int 9 (.ringEntry d.peerDie d.peerRing m.next (BitVec.ofNat 512 e)) s
      wrapR (dblPage r) R.DBL_MSG_SENT 1 (setMsgRing { m with credits := m.credits - 1, next := m.next + 1 } s)
    else s
  | none => s

/-- A RING message for a receive ring of this die (R624, R625): the entry is written at slot PROD, counting entries
staged already, PROD + 1 is staged, and the entry is acknowledged; a repeated entry is only acknowledged. While the store is
full, the message waits under credit: nothing is taken of it (R618). -/
def ringArrive (r : Nat) (sdie : Nat) (index : Word) (entry : BitVec 512) (s : State) : State :=
  let d := ringDesc s r
  match msgRing s r with
  | some m =>
    if runs s (dblPage r) ∧ ringEnabled s r ∧ d.typ = 3 ∧ d.dir ∧ d.peerDie = sdie then
      let ack := postMsg sdie Cls.int 1 (.ringAck sdie d.peerRing index)
      if m.stopped ∨ 0 ≤ idxDiff index.toNat m.next.toNat then
        let p := indexAhead s r true d.prod
        if ringHeld s d ∧ stageFull s { ring := r, host := true, prod := true, val := BitVec.ofNat 32 (p + 1) } then s
        else
        let s := memPut (ringEntryAddr d p) (bytesOf 64 entry.toNat) s
        let s := hostUpd { ring := r, host := true, prod := true, val := BitVec.ofNat 32 (p + 1) } s
        ack (wrapR (dblPage r) R.DBL_MSG_RCVD 1 (setMsgRing { m with next := index + 1, stopped := false } s))
      else ack s
    else s
  | none => s

/-- A peer's acknowledgement: the send ring's CONS advances (R624); while the store is full, it waits. -/
def msgAckOp (r : Nat) (index : Word) (s : State) : State :=
  let d := ringDesc s r
  let u : RingUpd := { ring := r, host := true, prod := false, val := index + 1 }
  if ringEnabled s r ∧ d.typ = 3 ∧ d.dir = false ∧ ¬ (ringHeld s d ∧ stageFull s u) then hostUpd u s else s

/-- Credits from the peer; at its re-enable they are the ring's capacity again, sending resumes, and entries that were in
flight are sent again (R624, R625). -/
def msgCreditOp (r n : Nat) (reenable : Bool) (s : State) : State :=
  let d := ringDesc s r
  match msgRing s r with
  | some m =>
    if ringEnabled s r ∧ d.typ = 3 ∧ d.dir = false then
      if reenable then setMsgRing { m with credits := n, next := BitVec.ofNat 32 (indexAhead s r false d.cons), stopped := false } s
      else setMsgRing { m with credits := m.credits + n } s
    else s
  | none => s

/-- A die has become unreachable: send rings toward it stop with one alarm (R625). -/
def ringsLost (d : Nat) (s : State) : State :=
  foldS (fun m s =>
    let x := ringDesc s m.ring
    if x.dir = false ∧ x.peerDie = d ∧ m.stopped = false then namedAlarm (dblPage m.ring) 2 (setMsgRing { m with stopped := true } s) else s)
    s.msgRings s

/-! ### The commands -/

/-- RING_ENABLE. -/
def execRingEnable (r : Nat) (s : State) : Host.Outcome State Fault Refusal := onUnit r 65536 (ringEnableOp r) s

/-- RING_DISABLE. -/
def execRingDisable (r : Nat) (s : State) : Host.Outcome State Fault Refusal := onUnit r 65536 (ringDisableOp r) s

/-- DBL_PROD. -/
def execDblProd (r : Nat) (v : Word) (s : State) : Host.Outcome State Fault Refusal := onUnit r 65536 (doorbellWrite r true v) s

/-- DBL_CONS. -/
def execDblCons (r : Nat) (v : Word) (s : State) : Host.Outcome State Fault Refusal := onUnit r 65536 (doorbellWrite r false v) s

/-- MSG_SEND. -/
def execMsgSend (r : Nat) (s : State) : Host.Outcome State Fault Refusal := onUnit r 65536 (msgSendOp r) s

/-- RING. -/
def execRing (r : BitVec 16) (sdie : BitVec 12) (index : Word) (entry : BitVec 512) (s : State) : Host.Outcome State Fault Refusal :=
  act s (ringArrive r.toNat sdie.toNat index entry s)

/-- MSG_ACK. -/
def execMsgAck (r : BitVec 16) (index : Word) (s : State) : Host.Outcome State Fault Refusal := act s (msgAckOp r.toNat index s)

/-- MSG_CREDIT. -/
def execMsgCredit (r : BitVec 16) (n : Word) (reenable : Bool) (s : State) : Host.Outcome State Fault Refusal :=
  act s (msgCreditOp r.toNat n.toNat reenable s)

end Sys2Proof.Machine
end

