-- ==== Sys2Proof/Machine/Clos.lean ====
section
/-! DEFINITION. The bulk network as a folded Clos (R417–R421): kinds of local address, the leaf and the port of an endpoint, the
destination endpoint of a block, the spine that a flit crosses, and the flit as it leaves. -/

namespace Sys2Proof.Machine

/-! ### Kinds of local address (R46, R58) -/

inductive Area where
  | homed | window | spad | control | reserved
deriving DecidableEq, Repr

/-- The range that a 48-bit local address lies in (R46). -/
def areaOf (a : Nat) : Area :=
  if a < 0x8000000000 then .homed
  else if a < 0xC000000000 then .reserved
  else if a < 0x10000000000 then .window
  else if a < 0xE00000000000 then .reserved
  else if a < 0xE0001E000000 then .spad
  else if a < 0xF00000000000 then .reserved
  else if a < 0xF00004000000 then .control
  else .reserved

/-- Logical core and offset of a window address. -/
def windowOf (a : Nat) : Nat × Nat := ((a - 0xE00000000000) / 0x400000, a % 0x400000)

/-- The proxied range: lines homed on another die of the package (R527). -/
def proxied (s : State) (d a : Nat) : Bool := inPackage s d && areaOf a = .homed

/-! ### Endpoints (R418–R420) -/

/-- Endpoint of a link group (R419). -/
def groupEp (g : Nat) : Nat := 0x180 + (g - G.io)

/-- The leaf that an endpoint attaches to; none for a number that names no endpoint. -/
def leafOf (ep : Nat) : Option Nat :=
  if ep < 132 then some (ep / 11)
  else if 0x100 ≤ ep ∧ ep < 0x120 then some (12 + (ep - 0x100) / 4)
  else if ep = 0x120 then some 19
  else if 0x180 ≤ ep ∧ ep < 0x184 then some (20 + (ep - 0x180))
  else none

/-- Endpoint ports that a leaf serves. -/
def leafPorts (leaf : Nat) : Nat :=
  if leaf < 12 then 22 else if leaf < 19 then 8 else if leaf = 19 then 10 else if leaf = 20 then 4 else 6

/-- The port at which a flit addressed to a core enters it, and by which the gather engine sends (R420). -/
def portOfAddr (a : Nat) : Nat := a / 128 % 2

/-- The port of its core by which a request of a kind leaves (R420): move engine 0 and the script loader use port 0. -/
def portOfKind (k : OpKind) (a : Nat) : Nat :=
  match k with
  | .movRead _ e _ _ _ _ _ | .movWrite _ e _ | .redContrib _ e _ | .mcastRow _ e _ => e
  | .gthRead _ _ _ => portOfAddr a
  | _ => 0

/-! ### Paths (R421) -/

/-- Destination endpoint of a block at its next die boundary (R427): the core or slice that serves it; the proxy slice of a line of
another die of the package; else the link group that R654 routes by. -/
def dstEp (s : State) (die a : Nat) : Nat :=
  let slot := fun (j : Nat) => match sliceOfPort s j with | some i => 0x100 + i | none => 0
  if die = dieNum s then
    match areaOf a with
    | .spad => (siteOf s (windowOf a).1).getD 0
    | _ => match place s a with | some (j, _) => slot j | none => slot (a / 4096 % 32)
  else if proxied s die a then slot (a / 4096 % 32)
  else groupEp ((route s die).getD (routeFirst s die))

/-- The same for a contribution to a sum, which crosses the links from its spine and asks no proxy (R421, R445). -/
def redDst (s : State) (die a : Nat) : Nat := if die = dieNum s then dstEp s die a else groupEp ((route s die).getD (routeFirst s die))

/-- Spines in service, ascending. -/
def spinesUp (s : State) : List Nat := bitsSet 8 (getN s Pg.netb R.NETB_SPINES)

/-- spine(h) of a flit for address `a` with destination endpoint `dst`: the (h mod S)-th spine in service. -/
def spineOf (s : State) (a dst : Nat) : Nat :=
  let h := (a / 128 % 16) ^^^ (a / 2048 % 16) ^^^ (dst % 16)
  ((spinesUp s)[h % Nat.max 1 (spinesUp s).length]?).getD 0

/-- The spine that a flit crosses; none where its source and destination share a leaf. -/
def flitSpine (s : State) (f : Flit) : Option Nat :=
  if leafOf f.src.toNat = leafOf f.dst.toNat then none else some (spineOf s f.addr.toNat f.dst.toNat)

/-- The operation that a flit belongs to: its request, or the response to it. -/
def opOf (s : State) (f : Flit) : Option Op := s.ops.find? (fun o => o.txn = f.txn.toNat ∧ (o.ep = f.src.toNat ∨ o.ep = f.dst.toNat))

/-- The endpoint port by which a flit leaves or enters its requester: a response returns on the port of its request; any other flit goes
by its address. -/
def flitPort (s : State) (f : Flit) : Nat := match opOf s f with | some o => o.port | none => portOfAddr f.addr.toNat

/-- A flit toward an endpoint of this die leaves. -/
def flitSend (f : Flit) (s : State) : State := send (.flit f (flitPort s f) (flitSpine s f)) s

end Sys2Proof.Machine
end

