-- ==== Sys2Proof/Machine/Slice.lean ====
section
/-! DEFINITION. Memory slices (R512–R544): reads and writes of homed lines with their Glaze, the slice cache, the proxy of
another die's lines, the directory and its invalidations, staging of 2 KiB tiles, and what a slice refuses. -/

namespace Sys2Proof.Machine

/-! ### Requests and responses -/

/-- A flit comes from this die. -/
def ownFlit (s : State) (f : Flit) : Bool := decide (f.sdie.toNat = dieNum s)

/-- The partition of a requester: that of the core that sent the flit, if it is one of this die (R544). -/
def rqPtn (s : State) (f : Flit) : Option Nat := if ownFlit s f ∧ f.src.toNat < nSites then ptnOfSite s f.src.toNat else none

/-- The response to a request (R427, R428): it goes to the requester's endpoint, over the links when the request came
from another die. -/
def respond (typ status : Nat) (data : List Byte) (glaze : Word) (tile : Bool) (f : Flit) (s : State) : State :=
  let r : Flit := { f with typ := BitVec.ofNat 4 typ, status := BitVec.ofNat 2 status, src := f.dst, dst := f.src,
                           sdie := BitVec.ofNat 12 (dieNum s), data := BitVec.ofNat 1024 (numOf data), glaze := glaze,
                           tile := tile, ben := 0, last := false, ecc := 0 }
  if ownFlit s f then flitSend r s else (postFlit f.sdie.toNat r s).2

/-- RDATA and WACK with an outcome. -/
def respondRd (f : Flit) (bs : List Byte) (g : Word) (tile : Bool) (s : State) : State := respond 2 0 bs g tile f s
def respondErr (f : Flit) (s : State) : State := respond (if f.typ = 0 then 2 else 3) 1 [] 0 false f s
def respondWack (f : Flit) (s : State) : State := respond 3 0 [] 0 false f s

/-- An error completion that slice `i` records (R544): counted, the first one in SLC_ERR, a log entry naming address and
reason, MEMERR for the requesting partition. -/
def sliceErr (i reason a : Nat) (p : Option Nat) (s : State) : State :=
  let s := satR (Pg.slc i) R.SLC_ERRORS 1 s
  let s := if bit (getR s (Pg.slc i) R.SLC_ERR) 31 then s
    else setQ (Pg.slc i) R.SLC_ERR_ADDR_LO (BitVec.ofNat 64 a) (firstR (Pg.slc i) R.SLC_ERR (reason * 2 ^ 24) s)
  let s := annLog (Pg.slc i) 0 (bytesOf 8 a ++ bytesOf 4 reason) s
  ptnFaultOf p PC.memerr s

/-! ### The cache (R523, R524) -/

/-- Key in `State.cache` of a way. -/
def cacheKey (i set w : Nat) : Nat := i * 131072 + set * 16 + w

/-- Way `w` of a slice stages gradient records: its LVN page has been started and has not entered Stopped again (R602). -/
def stagingWay (s : State) (i w : Nat) : Bool :=
  let st := bstate s (Pg.lvn i)
  (st = B.starting || st = B.running || st = B.stopping || st = B.faulted) && bit (getR s (Pg.lvn i) R.LVN_STAGE_WAYS) w

/-- The home or remote ways of a slice that may be used (CCH_WAYMASK, CCH_WAY_FAIL, R602). -/
def waysOf (s : State) (i : Nat) (remote : Bool) : List Nat :=
  (List.range 16).filter (fun w =>
    bit (getR s (Pg.cch i) R.CCH_WAYMASK) w = remote && !bit (getR s (Pg.cch i) R.CCH_WAY_FAIL) w && !stagingWay s i w)

/-- The key of a line that the slice holds. -/
def cacheFind (s : State) (i : Nat) (remote : Bool) (set tag : Nat) : Option (Nat × Line) :=
  (waysOf s i remote).findSome? (fun w =>
    match Tab.find s.cache (cacheKey i set w) with
    | some l => if l.remote = remote ∧ l.tag = tag then some (cacheKey i set w, l) else none
    | none => none)

/-- The slice's own count of uses, for replacement. -/
def sliceTick (i : Nat) (s : State) : Nat × State :=
  ((sliceAt s i).clock, updSlice i (fun x => { x with clock := x.clock + 1 }) s)

/-- A line becomes the most recently used. -/
def cacheTouch (i key : Nat) (l : Line) (s : State) : State :=
  let (t, s) := sliceTick i s
  { s with cache := Tab.put s.cache key { l with stamp := t } }

/-- CCH_REMOTE_LINES follows the lines held in remote ways. -/
def remoteLines (i : Nat) (up : Bool) (s : State) : State :=
  setR (Pg.cch i) R.CCH_REMOTE_LINES
    (if up then getR s (Pg.cch i) R.CCH_REMOTE_LINES + 1 else getR s (Pg.cch i) R.CCH_REMOTE_LINES - 1) s

/-- A line dropped. -/
def cacheDrop (i key : Nat) (s : State) : State :=
  match Tab.find s.cache key with
  | some l =>
    let s := { s with cache := Tab.erase s.cache key }
    if l.remote then remoteLines i false s else s
  | none => s

/-- A line allocated in a free way of its group, else in the least recently used one (R523). -/
def cacheAlloc (i : Nat) (set : Nat) (l : Line) (s : State) : State :=
  let ws := (waysOf s i l.remote).map (cacheKey i set)
  let pick := match ws.find? (fun k => (Tab.find s.cache k).isNone) with
    | some k => some k
    | none => ws.foldl (fun m k => match m with
      | none => some k
      | some b => if ((Tab.find s.cache k).map (·.stamp)).getD 0 < ((Tab.find s.cache b).map (·.stamp)).getD 0 then some k else some b) none
  match pick with
  | none => s
  | some k =>
    let s := cacheDrop i k s
    let (t, s) := sliceTick i s
    let s := { s with cache := Tab.put s.cache k { l with stamp := t } }
    if l.remote then remoteLines i true s else s

/-- Lines of slice `i` that satisfy a test dropped (R526, R532). -/
def cacheDropIf (i : Nat) (p : Line → Bool) (s : State) : State :=
  foldS (fun k => cacheDrop i k) ((s.cache.filter (fun e => e.1 / 131072 = i && p e.2)).map (·.1)) s

/-! ### The stack channel -/

/-- Bank and row of a channel address (R518). -/
def bankOf (x : Nat) : Nat := x / 2048 % 16
def chRowOf (x : Nat) : Nat := x / 32768

/-- Key of a row: bank and row number (R555). -/
def rowKey (bank row : Nat) : Nat := bank * 1048576 + row

/-- The row that a bank's row lies in: a spare row where it is retired (R555). -/
def physRow (s : State) (i bank row : Nat) : Nat := Tab.get row (sliceAt s i).remap (rowKey bank row)

/-- The other chiplet's slot on the same channel (R513), and the die that has it: a manager's peers lie west, a peer's
manager lies east. -/
def peerSlot (j : Nat) : Nat := j ^^^ 8
def peerDieOf (s : State) (j : Nat) : Nat := neighbour s (if sideB j then G.east else G.west)

/-- A peer message (R546), class MEM. -/
def peerMsg (j : Nat) (m : OutMsg) (s : State) : State := postMsg (peerDieOf s j) Cls.mem 2 m s

/-- MED_ROLE (R545): 0 manager, 1 peer, 2 acting manager, 3 unbound. -/
def medRole (s : State) (i : Nat) : Nat :=
  match portOfSlice s i with
  | none => 3
  | some j => if sideB j then (if (sliceAt s i).acting then 2 else 1) else 0

/-- The page is neither Absent nor Retired (R550). -/
def medLives (s : State) (i : Nat) : Bool := bstate s (Pg.med i) ≠ B.absent && bstate s (Pg.med i) ≠ B.retired

/-- A command of slice `i` to its stack goes out in frames of its memory port (R657). -/
def stackSend (i op bank x : Nat) (s : State) : State :=
  let s := send (.stack i op bank x) s
  match portOfSlice s i with
  | some p => portPush p Cls.mem (stackFrames op) s
  | none => s

/-- The MEM frames handed to the slice's memory port so far, and whether ACK has passed the first `n` of them (R658). -/
def stackPut (s : State) (i : Nat) : Nat := match portOfSlice s i with | some p => (portAt s p).memPut | none => 0
def stackAcked (s : State) (i n : Nat) : Bool := match portOfSlice s i with | some p => decide (n ≤ (portAt s p).memAck) | none => true

/-- An activation of row `row` of a bank by slice `i` is counted (R551); at the limit a targeted refresh is issued by a manager or asked for
by a peer. The table holds 4,096 rows; which entry makes room in a full table is left open. -/
def rowActivate (i bank row : Nat) (s : State) : State :=
  if medLives s i then
    let k := rowKey bank row
    let acts := (sliceAt s i).acts
    let n := Tab.get 0 acts k + 1
    if getF s (Pg.med i) R.MED_TRR 0 16 ≤ n then
      let s := updSlice i (fun x => { x with acts := Tab.erase x.acts k }) s
      match portOfSlice s i with
      | none => s
      | some j =>
        if medRole s i = 1 then peerMsg j (.peer 4 { slice := peerSlot j, bank := bank, row := row, spare := 0 }) s
        else stackSend i 9 bank row s
    else if (Tab.find acts k).isSome ∨ acts.length < 4096 then updSlice i (fun x => { x with acts := Tab.put x.acts k n }) s
    else
      let (v, s) := fresh s
      let out := ((acts[v.toNat % 4096]?).map (·.1)).getD 0
      updSlice i (fun x => { x with acts := Tab.put (Tab.erase x.acts out) k n }) s
  else s

/-- A line of channel address `x` read (OP 4) or written (OP 5) on the channel: the row is activated first (R521). -/
def stackAccess (i op x : Nat) (s : State) : State :=
  let row := physRow s i (bankOf x) (chRowOf x)
  rowActivate i (bankOf x) row (stackSend i op (bankOf x) (x / 128 % 16) (stackSend i 1 (bankOf x) row s))

/-- Channel address of a key. -/
def chanOf (key : Nat) : Nat := key % 2 ^ 34

/-- The line of a key has an uncorrectable codeword. -/
def isUe (s : State) (key : Nat) : Bool := s.ueLines.contains (key / 128)

/-- A whole line written: it has a fresh codeword again (R543). -/
def clearUe (key : Nat) (s : State) : State := { s with ueLines := s.ueLines.filter (· ≠ key / 128) }

/-- The home of the 128-byte line that holds a homed byte. -/
def lineHome (h : Home) : Home := { h with off := h.off / 128 * 128, key := h.key / 128 * 128 }

/-- Glaze and TILE that go with the line at homed address `a` (R540). -/
def lineGlaze (s : State) (a : Nat) (h : Home) : Word × Bool :=
  if bigTile s a then
    (storedGlz s (a / 2048 * 2048) (h.key / 128 * 128 - a % 2048 / 128 * 128) 2048, true)
  else (storedGlz s (a / 128 * 128) (h.key / 128 * 128) 128, false)

/-- A request looks for the home line at offset `off` in the home ways: reads and writes count, and a line found becomes the
most recently used (R523, R524, R570). -/
def homeHit (i off : Nat) (s : State) : Bool × State :=
  if runs s (Pg.cch i) then
    match cacheFind s i false (cacheSet off) (off / 128) with
    | some (k, l) => (true, cacheTouch i k l (wrapR (Pg.cch i) R.CCH_HOME_HITS 1 s))
    | none => (false, wrapR (Pg.cch i) R.CCH_HOME_MISSES 1 s)
  else (false, s)

/-- A read miss allocates the line (R524). The written-through line's contents are those of the stack. -/
def homeFill (i off : Nat) (s : State) : State :=
  if runs s (Pg.cch i) then
    cacheAlloc i (cacheSet off) { remote := false, tag := off / 128, data := 0, glaze := 0, tile := false, stamp := 0 } s
  else s

/-- The line of `h` read from the cache or the channel: `false` where its codeword is uncorrectable (R542, R544). -/
def homeLoad (h : Home) (s : State) : Bool × State :=
  let h := lineHome h
  let (hit, s) := homeHit h.slice h.off s
  if hit then (true, s)
  else
    let s := stackAccess h.slice 4 (chanOf h.key) s
    if isUe s h.key then (false, satR (Pg.med h.slice) R.MED_UE 1 s)
    else (true, homeFill h.slice h.off s)

/-! ### The directory (R529–R532) -/

/-- Result of noting a sharer. -/
inductive DirRes where
  | noted
  | evict (victim : Nat) (awaiting : BitVec 8)
deriving DecidableEq, Repr

/-- Local address of the line of a slice offset: the inverse of R517, found through the line a directory entry keeps. -/
def lineAddrOf (s : State) (j off : Nat) : Nat :=
  ((segs s).findSome? (fun g =>
    let m := 8 * g.groups.length
    let u := (g.used[j / 8]?).getD 0
    if g.groups.contains (j / 8) ∧ u ≤ off ∧ off < u + g.step then
      let slot := (g.groups.filter (· < j / 8)).length * 8 + j % 8
      some (g.base + ((off - u) / 4096 * m + slot) * 4096 + off % 4096)
    else none)).getD 0

/-- A read forwarded by the proxy of the die at ring position `q` sets its bit (R529); with no free entry, INV goes to the
sharers of the set's least recently used line (R530); a set whose entries are all being freed makes it wait for one of them. -/
def dirNote (i line q : Nat) (s : State) : DirRes × State :=
  let l := dirSetOf s i line
  let (t, s) := sliceTick i s
  if l.any (fun e => e.line = line) then
    (.noted, setDir i line (l.map (fun e => if e.line = line then { e with sharers := setBit e.sharers q true, stamp := t } else e)) s)
  else if l.length < 8 then (.noted, setDir i line (l ++ [{ line := line, sharers := setBit 0 q true, stamp := t }]) s)
  else
    let going := (sliceAt s i).waits.filterMap (fun w => match w with | .evict _ _ v aw => if l.any (fun e => e.line = v) then some (v, aw) else none | _ => none)
    match l.filter (fun e => !(going.any (fun g => g.1 = e.line))) with
    | [] => (match going.getLast? with | some g => .evict g.1 g.2 | none => .noted, s)
    | e :: r =>
      let v := r.foldl (fun m x => if x.stamp < m.stamp then x else m) e
      let s := satR (Pg.slc i) R.SLC_DIR_EVICT 1 s
      let (aw, s) := sendInvs i (lineAddrOf s ((portOfSlice s i).getD 0) (v.line * 128)) v.sharers s
      if aw = 0 then
        (.noted, setDir i line ((dirSetOf s i line).filter (fun x => x.line ≠ v.line) ++ [{ line := line, sharers := setBit 0 q true, stamp := t }]) s)
      else (.evict v.line aw, s)

/-! ### Lines and requests that wait -/

/-- The line that a waiting request occupies. -/
def SWait.line : SWait → Nat
  | .stackRead _ l => l
  | .inval _ l _ _ => l
  | .stackWrite _ l _ => l
  | .evict _ l _ _ => l
  | .behind _ l => l

/-- The wait keeps later requests to its line back. A write whose invalidations are acknowledged does not: the line is as it
will stay, and the channel takes commands in order (R522, R525). -/
def SWait.holds (w : SWait) (line : Nat) : Bool :=
  match w with
  | .stackWrite _ _ _ => false
  | w => decide (w.line = line)

/-- A ready gradient record of the line has still to be applied (R586). -/
def lvnHolds (s : State) (i line : Nat) : Bool := (sliceAt s i).batches.any (fun b => b.recs.any (fun r => r.line = line))

/-- A peer holds accesses to the row that its manager retires (R555). -/
def rowHolds (s : State) (i line : Nat) : Bool :=
  match (sliceAt s i).remapping, portOfSlice s i with
  | some r, some j =>
    let x := sideBase s i j + line * 128
    medRole s i = 1 && bankOf x = r.bank && chRowOf x = r.row
  | _, _ => false

/-- A request to the line waits already, so later ones wait behind it (R525), or Leaven holds the line (R586), or its row is
being retired (R555). -/
def lineBusy (s : State) (i line : Nat) : Bool := (sliceAt s i).waits.any (fun w => w.holds line) || lvnHolds s i line || rowHolds s i line

/-- A request that a slice serves (R569). -/
def slcServed (i : Nat) (s : State) : State := wrapR (Pg.slc i) R.SLC_REQS 1 s

/-- A request joins the slice's waits. -/
def addWait (i : Nat) (w : SWait) (s : State) : State := updSlice i (fun x => { x with waits := x.waits ++ [w] }) s

/-- A write of a line of slice `i` has been performed and its last frame is number `n` of the port: it is acknowledged once
the stack and every sharer that `aw` names have acknowledged (R525). `none`: at once. -/
def writeWait (i : Nat) (f : Flit) (line : Nat) (aw : BitVec 8) (n : Nat) (s : State) : Option SWait :=
  if aw ≠ 0 then some (.inval f line aw n) else if stackAcked s i n then none else some (.stackWrite f line n)

/-- What a destination answers to a request in the step in which it arrives. -/
inductive Resp where
  | ok (data : List Byte) (glaze : Word) (tile : Bool)
  | err
  | wait
deriving DecidableEq, Repr

/-- Bytes of a flit's data field and which of them are enabled (R427). -/
def flitBytes (f : Flit) : List Byte := bytesOf 128 f.data.toNat
def flitMask (f : Flit) : List Bool := (List.range 128).map (fun k => bit f.ben k)

/-- The data field with bytes that are not enabled taken as 0 (R538). -/
def maskedBytes (f : Flit) : List Byte := (flitBytes f).zipWith (fun b m => if m then b else 0) (flitMask f)

/-- New bytes over old ones where enabled. -/
def mergeBytes (f : Flit) (old : List Byte) : List Byte :=
  ((flitBytes f).zip (flitMask f)).zipWith (fun bm o => if bm.2 then bm.1 else o) old

/-- GLAZE of a WR matches its enabled bytes (R538). -/
def glazeOk (f : Flit) : Bool := f.glaze == crc32c (glzSeed f.addr.toNat) (maskedBytes f)

/-- A line of a 128-byte region stored with the Glaze of its contents (R538): the cached copy follows, the channel is
written, the twin unit told. -/
def storeLine (h : Home) (a : Nat) (bs : List Byte) (s : State) : State :=
  let s := stackAccess h.slice 5 (chanOf h.key) (putDram h.key bs s)
  let s := clearUe h.key { s with badGlz := Tab.erase s.badGlz h.key }
  twinWrote false a h.key s

/-- A write to a 128-byte region (R525, R538): answers whether it took effect and the acknowledgements awaited. A write of part
of a line reads it, from the channel where no home way holds it, and allocates nothing (R524). -/
def writeLine (h : Home) (a : Nat) (whole : Bool) (merge : List Byte → List Byte) (p : Option Nat) (s : State) : Option (BitVec 8) × State :=
  let i := h.slice
  let old := dramBytes s h.key 128
  let (hit, s) := homeHit i h.off s
  let s := if whole ∨ hit then s else stackAccess i 4 (chanOf h.key) s
  if whole = false ∧ hit = false ∧ isUe s h.key then (none, sliceErr i 2 a p (satR (Pg.med i) R.MED_UE 1 s))
  else if whole = false ∧ (Tab.find s.badGlz h.key).isSome then
    (none, sliceErr i 3 a p (satR (Pg.slc i) R.SLC_GLAZE_BAD 1 s))
  else
    let (aw, s) := dirWrite i (h.off / 128) a (storeLine h a (merge old) s)
    (some aw, s)

/-- A 2 KiB tile written whole with its Glaze (R539). `a` and `h` are those of the tile's first line. -/
def writeTile (h : Home) (a : Nat) (bs : List Byte) (s : State) : List (Nat × BitVec 8 × Nat) × State :=
  let s := { putDram h.key bs s with badGlz := Tab.erase s.badGlz h.key }
  (List.range 16).foldl (fun (st : List (Nat × BitVec 8 × Nat) × State) k =>
    let s := (homeHit h.slice (h.off + 128 * k) st.2).2
    let s := clearUe (h.key + 128 * k) (stackAccess h.slice 5 (chanOf h.key + 128 * k) s)
    let s := twinWrote false (a + 128 * k) (h.key + 128 * k) s
    let (aw, s) := dirWrite h.slice (h.off / 128 + k) (a + 128 * k) s
    (st.1 ++ [(k, aw, stackPut s h.slice)], s)) ([], s)

/-- Who stages a tile: the source endpoint on its die. -/
def stageSrc (f : Flit) : Nat := f.src.toNat + 512 * f.sdie.toNat

/-- A staged tile discarded: each of its staged writes completes with error, reason Tile (R539). -/
def dropStage (i tile : Nat) (s : State) : State :=
  match (sliceAt s i).tiles.find? (fun t => t.tile = tile) with
  | none => s
  | some t =>
    let s := updSlice i (fun x => { x with tiles := x.tiles.filter (fun y => y.tile ≠ tile) }) s
    let s := satR (Pg.slc i) R.SLC_TILE_ABORT 1 s
    foldS (fun f s => respondErr f (sliceErr i 4 f.addr.toNat (rqPtn s f) s)) t.blocks s

/-- The blocks of a complete tile in address order. -/
def tileBlocks (bs : List Flit) (tile : Nat) : List Flit :=
  (List.range 16).filterMap (fun k => bs.find? (fun f => f.addr.toNat / 128 * 128 = tile + 128 * k))

/-- A complete tile is checked and written, or refused as a whole (R539). The arriving block `f` is answered by the
caller, the others here. -/
def finishStage (h : Home) (f : Flit) (t : Stage) (s : State) : Resp × State :=
  let i := h.slice
  let all := t.blocks ++ [f]
  let bad := all.filter (fun b => !glazeOk b)
  let s := updSlice i (fun x => { x with tiles := x.tiles.filter (fun y => y.tile ≠ t.tile) }) s
  if bad ≠ [] then
    let s := satR (Pg.slc i) R.SLC_GLAZE_BAD bad.length s
    let s := foldS (fun b s => respondErr b (sliceErr i 3 b.addr.toNat (rqPtn s b) s)) t.blocks s
    (.err, sliceErr i 3 f.addr.toNat (rqPtn s f) s)
  else
    let a0 := t.tile
    let d := f.addr.toNat / 128 * 128 - a0
    let h0 : Home := { h with off := h.off / 128 * 128 - d, key := h.key / 128 * 128 - d }
    let (aws, s) := writeTile h0 a0 (((tileBlocks all a0).map flitBytes).flatten) s
    all.foldl (fun (st : Resp × State) b =>
      let k := (b.addr.toNat / 128 * 128 - a0) / 128
      let aw := ((aws.find? (fun x => x.1 = k)).map (·.2)).getD (0, 0)
      match writeWait i b (h0.off / 128 + k) aw.1 aw.2 st.2 with
      | some w => (if b = f then .wait else st.1, addWait i w st.2)
      | none => if b = f then (.ok [] 0 false, st.2) else (st.1, respondWack b st.2)) (.err, s)

/-- A block write to a 2 KiB region is staged (R539, R393). -/
def stageBlock (h : Home) (f : Flit) (s : State) : Resp × State :=
  let i := h.slice
  let tile := f.addr.toNat / 2048 * 2048
  let whole := (flitMask f).all id
  match (sliceAt s i).tiles.find? (fun t => t.tile = tile) with
  | none =>
    if whole then (.wait, updSlice i (fun x => { x with tiles := x.tiles ++ [{ tile := tile, src := stageSrc f, blocks := [f] }] }) s)
    else (.err, sliceErr i 4 f.addr.toNat (rqPtn s f) s)
  | some t =>
    if t.src ≠ stageSrc f ∨ t.blocks.any (fun b => b.addr.toNat / 128 = f.addr.toNat / 128) then
      (.err, sliceErr i 4 f.addr.toNat (rqPtn s f) (dropStage i tile s))
    else if ¬ whole then (.err, sliceErr i 4 f.addr.toNat (rqPtn s f) s)
    else if t.blocks.length = 15 then finishStage h f t s
    else (.wait, updSlice i (fun x => { x with tiles := x.tiles.map (fun y => if y.tile = tile then { y with blocks := y.blocks ++ [f] } else y) }) s)

/-! ### Homed reads and writes -/

/-- A read of a homed line arrives at its slice (R524, R529, R540). -/
def homeRead (f : Flit) (h : Home) (s : State) : Resp × State :=
  let i := h.slice
  let h := lineHome h
  let line := h.off / 128
  let far := !(ownFlit s f) && inPackage s f.sdie.toNat
  let note := if far then dirNote i line (f.sdie.toNat - pkgBase s) s else (DirRes.noted, s)
  match note with
  | (.evict v aw, s) => (.wait, addWait i (.evict f line v aw) s)
  | (.noted, s) =>
    let (hit, s) := homeHit i h.off (slcServed i s)
    if hit then
      let (g, t) := lineGlaze s f.addr.toNat h
      (.ok (dramBytes s h.key 128) g t, s)
    else (.wait, addWait i (.stackRead f line) (stackAccess i 4 (chanOf h.key) s))

/-- A write of a homed line arrives at its slice (R525, R538, R539, R610). -/
def homeWrite (f : Flit) (h : Home) (s : State) : Resp × State :=
  let i := h.slice
  let h := lineHome h
  let a := f.addr.toNat
  if bigTile s a then stageBlock h f (slcServed i s)
  else if !glazeOk f then (.err, sliceErr i 3 a (rqPtn s f) (satR (Pg.slc i) R.SLC_GLAZE_BAD 1 (slcServed i s)))
  else if ringsInLine s a ≠ [] then
    match ringJudge s f.src.toNat a f.ben.toNat f.data.toNat (ownFlit s f) with
    | .staged u => (.ok [] 0 false, stagePut u (slcServed i s))
    | .full => (.wait, addWait i (.behind f (h.off / 128)) s)
    | .bad => (.err, ptnFaultOf (rqPtn s f) PC.memerr (ringRefuse a (slcServed i s)))
  else
    match writeLine h (a / 128 * 128) ((flitMask f).all id) (mergeBytes f) (rqPtn s f) (slcServed i s) with
    | (none, s) => (.err, s)
    | (some aw, s) =>
      match writeWait i f (h.off / 128) aw (stackPut s i) s with
      | some w => (.wait, addWait i w s)
      | none => (.ok [] 0 false, s)

/-- The page whose Starting holds a homed request: its slice's SLC page (R86). -/
def homeHolds (s : State) (a : Nat) : Option Nat :=
  match homeOf s a with
  | .error (5, some i) => if bstate s (Pg.slc i) = B.starting then some (Pg.slc i) else none
  | _ => none

/-- A request for a homed address (R542, R544): one that arrives, or one that its slice held. -/
def homedReq (held : Bool) (f : Flit) (s : State) : Resp × State :=
  match homeHolds s f.addr.toNat with
  | some pg => (.wait, { s with heldReqs := s.heldReqs ++ [(pg, f)] })
  | none =>
    match (if held then homeHeld s f.addr.toNat else homeOf s f.addr.toNat) with
    | .error (r, some i) => (.err, sliceErr i r f.addr.toNat (rqPtn s f) s)
    | .error (_, none) => (.err, ptnFaultOf (rqPtn s f) PC.memerr s)
    | .ok h =>
      if lineBusy s h.slice (h.off / 128) then (.wait, addWait h.slice (.behind f (h.off / 128)) s)
      else if f.typ = 0 then homeRead f h s else homeWrite f h s

/-! ### Scratchpad windows (R58, R59, R375) -/

/-- The site that a block of a scratchpad window lies in, or none where it completes with error. -/
def windowSite (s : State) (a len : Nat) : Option Nat :=
  match siteOf s (windowOf a).1 with
  | none => none
  | some c =>
    let st := bstate s (Pg.cor c)
    if (windowOf a).2 + len ≤ sizeOfSite s c ∧ st ≠ B.absent ∧ st ≠ B.retired then some c else none

/-- The stored Glaze of a scratchpad block (R372). -/
def spadGlaze (s : State) (c off : Nat) : Word :=
  let x := coreAt s c
  (Tab.find x.badGlz (off / 128)).getD (crc32c (glzSeed (spadWindow s c (off / 128 * 128))) (spadBytes x 2 x.steps (off / 128 * 128) 128))

/-- A request to a scratchpad window. -/
def windowReq (f : Flit) (s : State) : Resp × State :=
  let a := f.addr.toNat / 128 * 128
  match windowSite s a 128 with
  | none => (.err, s)
  | some c =>
    if bstate s (Pg.cor c) = B.starting then (.wait, { s with heldReqs := s.heldReqs ++ [(Pg.cor c, f)] })
    else
      let x := coreAt s c
      let off := (windowOf a).2
      let old := spadBytes x 2 x.steps off 128
      if f.typ = 0 then (.ok old (spadGlaze s c off) false, s)
      else (.ok [] 0 false, setCore c (spadPut x off (mergeBytes f old)) s)

/-- GLB_ACC_ERR: the first control-space error since cleared (R105). -/
def accErr (kind a : Nat) (s : State) : State :=
  if bit (getR s Pg.glb R.GLB_ACC_ERR) 31 then s
  else setQ Pg.glb R.GLB_ACC_ERR_ADDR_LO (BitVec.ofNat 64 (a % 2 ^ 48)) (firstR Pg.glb R.GLB_ACC_ERR kind s)

/-- A read or write flit for an address of this die, at its destination. While NETB is not Running every request
completes with error, or is held in Starting (R86, R432). -/
def localReq (held : Bool) (f : Flit) (s : State) : Resp × State :=
  if bstate s Pg.netb = B.starting then (.wait, { s with heldReqs := s.heldReqs ++ [(Pg.netb, f)] })
  else if runs s Pg.netb then
    match areaOf f.addr.toNat with
    | .homed => homedReq held f s
    | .spad => windowReq f s
    | .control => (.err, accErr 3 f.addr.toNat s)
    | _ => (.err, s)
  else (.err, s)

/-- The answer sent. -/
def answer (f : Flit) (r : Resp × State) : State :=
  match r with
  | (.ok bs g t, s) => if f.typ = 0 then respondRd f bs g t s else respondWack f s
  | (.err, s) => respondErr f s
  | (.wait, s) => s

/-! ### Proxy slices (R527, R528, R531) -/

/-- The slice that serves slot LOCAL[16:12] of this chiplet, as proxy for another die's line. -/
def proxyOf (s : State) (a : Nat) : Option Nat :=
  match sliceOfPort s (a / 4096 % 32) with
  | some i => if runs s (Pg.slc i) then some i else none
  | none => none

/-- Tag of another die's line. -/
def remoteTag (d a : Nat) : Nat := d * 2 ^ 48 + a / 128 * 128

/-- The proxy's copy of a line. -/
def proxyFind (s : State) (i d a : Nat) : Option (Nat × Line) := cacheFind s i true (cacheSet a) (remoteTag d a)

/-- A proxy looks a line up (R528). -/
def proxyLook (i d a : Nat) (s : State) : Option Line × State :=
  if runs s (Pg.cch i) then
    match proxyFind s i d a with
    | some (k, l) => (some l, cacheTouch i k l (wrapR (Pg.cch i) R.CCH_REMOTE_HITS 1 s))
    | none => (none, wrapR (Pg.cch i) R.CCH_REMOTE_MISSES 1 s)
  else (none, s)

/-- A fill allocates in a remote way when CCH is Running and no INV met it (R528, R531). -/
def proxyFill (d a : Nat) (data : BitVec 1024) (g : Word) (tile noFill : Bool) (s : State) : State :=
  match proxyOf s a with
  | none => s
  | some i =>
    if noFill then satR (Pg.cch i) R.CCH_FILL_DROPS 1 s
    else if runs s (Pg.cch i) then
      cacheAlloc i (cacheSet a) { remote := true, tag := remoteTag d a, data := data, glaze := g, tile := tile, stamp := 0 } s
    else s

/-- The proxy's own copy dropped before a write is forwarded, or by an INV (R528, R531). -/
def proxyDrop (d a : Nat) (s : State) : State :=
  match sliceOfPort s (a / 4096 % 32) with
  | none => s
  | some i =>
    match proxyFind s i d a with
    | some (k, _) => cacheDrop i k s
    | none => s

/-- A transaction number is in use by an operation that is outstanding or waits for a place. -/
def txnUsed (s : State) (t : Nat) : Bool := s.ops.any (fun o => o.txn = t) || s.opWait.any (fun e => e.1.txn = t)

/-- The first number from `t` on that no operation uses. -/
def freeTxn (s : State) : Nat → Nat → Nat
  | 0, t => t
  | n + 1, t => if txnUsed s t then freeTxn s n ((t + 1) % 16384) else t

/-- A new transaction number (R427: unique among the outstanding operations of the requester). -/
def newTxn (s : State) : Nat × State :=
  let t := freeTxn s 16384 (s.nextTxn % 16384)
  (t, { s with nextTxn := t + 1 })

/-- Operation `t` of endpoint `ep` for address `a` of die `d` (R397). -/
def mkOp (s : State) (t ep d a : Nat) (kind : OpKind) : Op :=
  { txn := t, ep := ep, ptn := (ptnOfSite s ep).getD 0, die := d, addr := a, kind := kind, port := portOfKind kind a, noFill := false }

/-- The proxy slice of an address is in Starting, and holds requests (R86). -/
def proxyHolds (s : State) (a : Nat) : Option Nat :=
  match sliceOfPort s (a / 4096 % 32) with
  | some i => if bstate s (Pg.slc i) = B.starting then some (Pg.slc i) else none
  | none => none

/-- A read or write for another die, on its way through this one (R527, R528). -/
def farReq (f : Flit) (s : State) : State :=
  let d := f.die.toNat
  let a := f.addr.toNat
  if proxied s d a then
    match proxyHolds s a, proxyOf s a with
    | some pg, _ => { s with heldReqs := s.heldReqs ++ [(pg, f)] }
    | none, none => respondErr f (ptnFaultOf (rqPtn s f) PC.memerr s)
    | none, some i =>
      let fwd := fun (s : State) =>
        let (t, s) := newTxn s
        let o : Op := { mkOp s t (0x100 + i) d a (.proxy i f) with ptn := f.ptn.toNat }
        let (went, s) := postFlit d { f with src := BitVec.ofNat 9 (0x100 + i), txn := BitVec.ofNat 14 t } s
        if went then { s with ops := s.ops ++ [o] } else respondErr f s
      if f.typ = 0 then
        match proxyLook i d a s with
        | (some l, s) => respondRd f (bytesOf 128 l.data.toNat) l.glaze l.tile s
        | (none, s) => fwd s
      else fwd (proxyDrop d a s)
  else
    let (went, s) := postFlit d f s
    if went then s else respondErr f s

/-- A header that a switch finds bad (R429): a single-bit error is corrected and counted; an uncorrectable one discards
the flit, counts, fills NETB_ERR and sends one alarm. The flag says whether the flit goes on. -/
def headerOk (f : Flit) (s : State) : Bool × State :=
  if f.ecc = 0 then (true, s)
  else if f.ecc = 1 then (true, satR Pg.netb R.NETB_HDR_CE 1 s)
  else
    let s := firstR Pg.netb R.NETB_ERR (f.typ.toNat * 2 ^ 27 + 2 * 2 ^ 24 + f.src.toNat) (satR Pg.netb R.NETB_HDR_UE 1 s)
    (false, namedAlarm Pg.netb 1 s)

/-- A request is served here, or goes on to another die by its proxy. -/
def serveReq (f : Flit) (s : State) : State :=
  if f.die.toNat = dieNum s ∨ !dieValid s then answer f (localReq false f s) else farReq f s

/-- An RD or WR flit reaches its destination. One that arrived from another die is not translated, and is served only if
it names this die (R57, R650). -/
def reqFlit (f : Flit) (s : State) : State :=
  let (go, s) := headerOk f s
  if go then serveReq f s else s

/-! ### What ends a wait -/

/-- Requests that waited are tried again, in order (R525). -/
def retry (fs : List Flit) (s : State) : State := foldS (fun f s => answer f (localReq true f s)) fs s

/-- Requests that wait behind a line, in order. -/
def behindOf (ws : List SWait) (line : Nat) : List Flit :=
  ws.filterMap (fun w => match w with | .behind f l => if l = line then some f else none | _ => none)

/-- A line is free: what waited behind it is tried again. -/
def lineFree (i line : Nat) (s : State) : State :=
  let ws := (sliceAt s i).waits
  let fs := behindOf ws line
  let s := updSlice i (fun x => { x with waits := ws.filter (fun w => match w with | .behind _ l => l ≠ line | _ => true) }) s
  retry fs s

/-- Requests held for a page that has left Starting (R86, R375). -/
def releaseHeld (pg : Nat) (s : State) : State :=
  let fs := s.heldReqs.filterMap (fun e => if e.1 = pg then some e.2 else none)
  let s := { s with heldReqs := s.heldReqs.filter (fun e => e.1 ≠ pg) }
  foldS serveReq fs s

/-- The room that a commit makes in the ring store is taken by core writes that waited; the wait of each line is counted (R618). -/
def retryRings (s : State) : State :=
  foldS (fun i s =>
    foldS (fun l s => lineFree i l (collectBusy (0x100 + i) (satFree (Pg.dbl 0) R.DBL_STAGE_FULL s)))
      (((sliceAt s i).waits.filterMap (fun w => match w with | .behind _ l => some l | _ => none)).dedup.filter
        (fun l => !((sliceAt s i).waits.any (fun w => match w with | .behind _ _ => false | w => w.holds l)))) s)
    (s.slices.map (·.1)) s

/-- IACK of the die at ring position `q` for line `line` of slice `i` (R529, R530): the last one acknowledges the write,
or frees the entry for the read that waits. -/
def ackLine (i line q : Nat) (s : State) : State :=
  let clear := fun (w : SWait) => match w with
    | .inval f l aw n => SWait.inval f l (if l = line then setBit aw q false else aw) n
    | .evict f l v aw => SWait.evict f l v (if v = line then setBit aw q false else aw)
    | w => w
  let ws := (sliceAt s i).waits.map clear
  let done := ws.filter (fun w => match w with | .inval _ _ aw _ => aw = 0 | .evict _ _ _ aw => aw = 0 | _ => false)
  let s := updSlice i (fun x => { x with waits := ws.filter (fun w => !(done.contains w)) }) s
  foldS (fun w s => match w with
    | .inval f l _ n =>
      let s := setDir i l ((dirSetOf s i l).filter (fun e => e.line ≠ l || e.sharers ≠ 0)) s
      lineFree i l (match writeWait i f l 0 n s with
        | some w => addWait i w s
        | none => respondWack f s)
    | .evict f l v _ =>
      let s := setDir i v ((dirSetOf s i v).filter (fun e => e.line ≠ v)) s
      lineFree i l (retry [f] s)
    | _ => s) done s

/-- ACK has passed frames of the port of slice `i`: the writes whose last frame is among them are acknowledged, in order
(R525, R658). -/
def stackAcks (i : Nat) (s : State) : State :=
  let ws := (sliceAt s i).waits
  let done := ws.filterMap (fun w => match w with | .stackWrite f _ n => if stackAcked s i n then some f else none | _ => none)
  if done = [] then s
  else
    let s := updSlice i (fun x => { x with waits := ws.filter (fun w => match w with | .stackWrite _ _ n => !stackAcked s i n | _ => true) }) s
    foldS respondWack done s

/-- A die is unreachable: its lines are dropped, its bits cleared, INVs to it count as acknowledged (R532). -/
def memoryLost (d : Nat) (s : State) : State :=
  let s := foldS (fun i => cacheDropIf i (fun l => l.remote && l.tag / 2 ^ 48 = d)) (List.range nSlices) s
  if inPackage s d then
    let q := d - pkgBase s
    let s := { s with dirs := s.dirs.map (fun e => (e.1, e.2.map (fun x => { x with sharers := setBit x.sharers q false }))) }
    foldS (fun i s =>
      foldS (fun l => ackLine i l q)
        (((sliceAt s i).waits.filterMap (fun w => match w with
          | .inval _ l aw _ => if bit aw q then some l else none
          | .evict _ _ v aw => if bit aw q then some v else none
          | _ => none)).dedup) s)
      (s.slices.map (·.1)) s
  else s

/-- COHN: every line homed on a die is dropped (R532). -/
def cohnOp (d : Nat) (s : State) : State := foldS (fun i => cacheDropIf i (fun l => l.remote && l.tag / 2 ^ 48 = d)) (List.range nSlices) s

/-- An SLC page is retired: its directory is lost and every die of the package is told to drop this chiplet's lines
(R532). -/
def sliceRetired (i : Nat) (s : State) : State :=
  let s := { s with dirs := s.dirs.filter (fun e => e.1 / 8192 ≠ i) }
  let s := setR (Pg.slc i) R.SLC_DIR_USED 0 s
  if dieValid s then
    foldS (fun q s => if dieOfPos s q = dieNum s then s else postMsg (dieOfPos s q) Cls.coh 0 (.cohn (dieOfPos s q)) s)
      (List.range (pkgCount s)) s
  else s

/-- INV at the proxy (R531): IACK at once, the line dropped, and a fill that is outstanding will not allocate. -/
def invOp (f : Flit) (s : State) : State :=
  let (go, s) := headerOk f s
  if go then
    let d := f.sdie.toNat
    let a := f.addr.toNat / 128 * 128
    let s := match sliceOfPort s (a / 4096 % 32) with
      | some i => wrapR (Pg.cch i) R.CCH_INV_RCVD 1 s
      | none => s
    let s := proxyDrop d a s
    let s := { s with ops := s.ops.map (fun o => if o.die = d ∧ o.addr / 128 * 128 = a then { o with noFill := true } else o) }
    (postFlit d { f with typ := 10, src := f.dst, dst := f.src, sdie := BitVec.ofNat 12 (dieNum s), ecc := 0 } s).2
  else s

/-- IACK at the home. -/
def iackOp (f : Flit) (s : State) : State :=
  let (go, s) := headerOk f s
  if go ∧ inPackage s f.sdie.toNat then
    match homeSpot s f.addr.toNat with
    | some h => ackLine h.slice (h.off / 128) (f.sdie.toNat - pkgBase s) s
    | none => s
  else s

/-- TILE_STAGE_TIMEOUT (R539). -/
def stageTimeoutOp (i : Nat) (a : Nat) (s : State) : State := dropStage i (a / 2048 * 2048) s

/-- The oldest read that waits for the stack, taken out. -/
def takeStackRead (i : Nat) (s : State) : Option (Flit × Nat) × State :=
  let ws := (sliceAt s i).waits
  match ws.find? (fun w => match w with | .stackRead _ _ => true | _ => false) with
  | some (.stackRead f l) => (some (f, l), updSlice i (fun x => { x with waits := ws.erase (.stackRead f l) }) s)
  | _ => (none, s)

/-- A peer acknowledges REMAP_BEGIN once its accesses to the row have drained (R546). -/
def peerAck (i : Nat) (s : State) : State :=
  let x := sliceAt s i
  match x.remapping, portOfSlice s i with
  | some r, some j =>
    let inRow := fun (l : Nat) =>
      let y := sideBase s i j + l * 128
      decide (bankOf y = r.bank) && decide (chRowOf y = r.row)
    let busy := x.waits.any (fun w => match w with
      | .stackRead _ l => inRow l
      | .stackWrite _ l n | .inval _ l _ n => inRow l && !stackAcked s i n
      | _ => false)
    if medRole s i = 1 ∧ !x.acked ∧ !busy then
      peerMsg j (.peer 5 { r with slice := peerSlot j }) (setSlice i { x with acked := true } s)
    else s
  | _, _ => s

/-- STACK_TIMEOUT (R542 reason 6): no response within 10 µs of the command. -/
def stackTimeoutOp (i : Nat) (s : State) : State :=
  match takeStackRead i s with
  | (some (f, l), s) => peerAck i (lineFree i l (respondErr f (sliceErr i 6 f.addr.toNat (rqPtn s f) s)))
  | (none, s) => s

/-! ### The commands -/

/-- RD. -/
def execRd (f : Flit) (s : State) : Host.Outcome State Fault Refusal := act s (reqFlit { f with typ := 0 } s)

/-- WR. -/
def execWr (f : Flit) (s : State) : Host.Outcome State Fault Refusal := act s (reqFlit { f with typ := 1 } s)

/-- INV. -/
def execInv (f : Flit) (s : State) : Host.Outcome State Fault Refusal := act s (invOp f s)

/-- IACK. -/
def execIack (f : Flit) (s : State) : Host.Outcome State Fault Refusal := act s (iackOp f s)

/-- COHN. -/
def execCohn (d : BitVec 12) (s : State) : Host.Outcome State Fault Refusal := act s (cohnOp d.toNat s)

/-- STACK_TIMEOUT. -/
def execStackTimeout (i : Nat) (s : State) : Host.Outcome State Fault Refusal := onUnit i nSlices (stackTimeoutOp i) s

/-- TILE_STAGE_TIMEOUT. -/
def execTileStageTimeout (i : Nat) (a : BitVec 48) (s : State) : Host.Outcome State Fault Refusal :=
  onUnit i nSlices (stageTimeoutOp i a.toNat) s

end Sys2Proof.Machine
end

