-- ==== Sys2Proof/Machine/Mover.lean ====
section
/-! DEFINITION. The X slots and the move engines (R382–R398): address registers, descriptors, COPY, FILL, SCRIPT, MCAST,
REDUCE, LEAVEN, and the completion of descriptors. Blocks of this die are read and written in the step; blocks of another
die are requested with flits, and RDATA and WACK (Machine/Resp.lean) complete them. -/

namespace Sys2Proof.Machine

/-! ### Descriptors (R388–R390) -/

def dSrc (b : BitVec 256) : Nat := fld b 0 64
def dDst (b : BitVec 256) : Nat := fld b 64 64
def dKind (b : BitVec 256) : Nat := fld b 156 4
def dSigEn (b : BitVec 256) : Bool := bit b 155
def dSig (b : BitVec 256) : Nat := fld b 150 5
def dArrive (b : BitVec 256) : Bool := bit b 149
def dBar (b : BitVec 256) : Nat := fld b 141 8
def dInt (b : BitVec 256) : Bool := bit b 140
def dRows (b : BitVec 256) : Nat := fld b 184 8 + 1
def dLen (b : BitVec 256) : Nat := fld b 160 24
def dSStride (b : BitVec 256) : Nat := fld b 192 32
def dDStride (b : BitVec 256) : Nat := fld b 224 32
def dTag (b : BitVec 256) : Nat := fld b 240 16
def dGroup (b : BitVec 256) : Nat := fld b 224 12

/-- The local address of an address field that names this die: SYS = 0, or its own die number (R49, R51). -/
def ownAddr (s : State) (a : Nat) : Option Nat :=
  let w := BitVec.ofNat 64 a
  if fld w 60 3 ≠ 0 then none
  else if bit w 63 then (if dieValid s ∧ fld w 48 12 = dieNum s then some (a % 2 ^ 48) else none)
  else if fld w 48 12 = 0 then some (a % 2 ^ 48) else none

/-- The address lies in the scratchpad window of the core at site `c` (R58). -/
def inOwnSpad (s : State) (c a : Nat) : Bool :=
  match ownAddr s a, logicalAt s c with
  | some l, some n => areaOf l = .spad && decide ((windowOf l).1 = n)
  | _, _ => false

/-- The address is homed memory of a die of the package (R390). -/
def inPkgHome (s : State) (a : Nat) : Bool :=
  let w := BitVec.ofNat 64 a
  fld w 60 3 = 0 && areaOf (a % 2 ^ 48) = .homed && (if bit w 63 then inPackage s (fld w 48 12) else decide (fld w 48 12 = 0))

/-- The layout rules and constraints of a move descriptor of the core at site `c`; a broken one records DESC. -/
def moveDescOk (s : State) (c : Nat) (b : BitVec 256) : Bool :=
  let k := dKind b
  decide (k ≤ 5) && decide (fld b 128 12 = 0) && (!dInt b || decide (k = 4)) && decide (dLen b ≠ 0) && decide (dLen b % 4 = 0) &&
  match k with
  | 0 => decide (dSrc b % 4 = 0) && decide (dDst b % 4 = 0) && decide (dSStride b % 4 = 0) && decide (dDStride b % 4 = 0)
  | 1 => decide (dDst b % 4 = 0) && decide (dDStride b % 4 = 0) && decide (dSrc b < 2 ^ 32)
  | 2 => decide (dRows b = 1) && decide (dLen b % 32 = 0) && decide (dDst b < 4096) && decide (dDst b + dLen b / 32 ≤ 4096) && decide (dSrc b % 32 = 0)
  | 3 => decide (dRows b = 1) && decide (dSrc b % 128 = 0) && decide (dDst b % 128 = 0) && decide (dLen b % 128 = 0) &&
      decide (dDst b < 2 ^ 22) && decide (dSStride b < 2 ^ 22) && decide (dSStride b % 16 = 0) && decide (dDStride b < 256)
  | 4 => decide (dRows b = 1) && decide (dSrc b % 128 = 0) && decide (dDst b % 128 = 0) && decide (dLen b % 128 = 0) &&
      inOwnSpad s c (dSrc b) && decide (dDStride b % 65536 = 0)
  | _ => decide (dRows b = 1) && decide (dSrc b % 128 = 0) && decide (dDst b % 128 = 0) && decide (dLen b % 128 = 0) &&
      inOwnSpad s c (dSrc b) && decide (fld b 236 4 = 0) && inPkgHome s (dDst b)

/-! ### Where an address leads -/

/-- The target of an engine's address field. -/
inductive Tgt where
  | loc (a : Nat)
  | far (d a : Nat)
  | bad
deriving DecidableEq, Repr

/-- A range `[a, a + n)` of local addresses meets the control space (R62). -/
def meetsControl (a n : Nat) : Bool := rangesMeet a n 0xF00000000000 0x4000000

/-- Decoding of an address field as a request leaves its engine (R49–R57, R62): windows are translated once, here, and
only with SYS = 0. -/
def target (s : State) (a : Nat) : Tgt :=
  let w := BitVec.ofNat 64 a
  let l := a % 2 ^ 48
  if fld w 60 3 ≠ 0 then .bad
  else if bit w 63 then
    if !dieValid s then .bad
    else if fld w 48 12 = dieNum s then
      (match areaOf l with | .homed | .spad => .loc l | _ => .bad)
    else if areaOf l = .control ∨ areaOf l = .window then .bad
    else .far (fld w 48 12) l
  else if fld w 48 12 ≠ 0 then .bad
  else
    match areaOf l with
    | .homed | .spad => .loc l
    | .window =>
      let v := getR s Pg.glb (R.GLB_WIN0 + 4 * ((l - 0xC000000000) / 2 ^ 34))
      let l2 := fld v 0 14 * 2 ^ 34 + l % 2 ^ 34
      if !bit v 31 ∨ !dieValid s then .bad
      else if areaOf l2 = .control ∨ areaOf l2 = .window then .bad
      else if fld v 16 12 = dieNum s then (match areaOf l2 with | .homed | .spad => .loc l2 | _ => .bad)
      else .far (fld v 16 12) l2
    | _ => .bad

/-- The pieces of a range: each within one 128-byte block, ascending (R392): position in the range, address, length. -/
def pieces : Nat → Nat → Nat → Nat → List (Nat × Nat × Nat)
  | 0, _, _, _ => []
  | fuel + 1, pos, a, len =>
    if len = 0 then []
    else
      let n := Nat.min (128 - a % 128) len
      (pos, a, n) :: pieces fuel (pos + n) ((a + n) % 2 ^ 64) (len - n)

/-- The pieces of `len` bytes from address field `a`. -/
def piecesOf (a len : Nat) : List (Nat × Nat × Nat) := pieces (len / 4 + 1) 0 a len

/-- A piece that R47, R50, R53, R57, R59 or R62 rejects, or R48. -/
def pieceBad (s : State) (p : Nat × Nat × Nat) : Bool :=
  match target s p.2.1 with
  | .bad => true
  | .far _ _ => false
  | .loc l =>
    match areaOf l with
    | .homed => decide (homeSize s ≤ l)
    | _ =>
      match siteOf s (windowOf l).1 with
      | some c => decide (sizeOfSite s c < (windowOf l).2 + p.2.2)
      | none => true

/-- The local address that an address field names, through its window where it lies in one that is enabled (R55, R56). -/
def winLocal (s : State) (a : Nat) : Nat :=
  let l := a % 2 ^ 48
  let v := getR s Pg.glb (R.GLB_WIN0 + 4 * ((l - 0xC000000000) / 2 ^ 34))
  if areaOf l = .window ∧ bit v 31 then fld v 0 14 * 2 ^ 34 + l % 2 ^ 34 else l

/-- The rejected row of a descriptor leaves a mark where a control space was named (R105 KIND 3), and its slice completes a
request at or above the home size (R544). -/
def noteReject (c a len : Nat) (s : State) : State :=
  let s := match (piecesOf a len).find? (fun p => meetsControl (winLocal s p.2.1) p.2.2) with
    | some p => accErr 3 (Nat.max (winLocal s p.2.1) 0xF00000000000) s
    | none => s
  match (piecesOf a len).find? (pieceBad s) with
  | some p =>
    match target s p.2.1 with
    | .loc l2 =>
      if areaOf l2 = .homed then
        match sliceOfPort s (l2 / 4096 % 32) with
        | some i => sliceErr i 1 l2 (ptnOfSite s c) s
        | none => s
      else s
    | _ => s
  | none => s

/-- A row that lies in part in a 2 KiB-tile region of this chiplet without covering whole tiles (R393). -/
def partTile (s : State) (a len : Nat) : Bool :=
  match target s a with
  | .loc l => areaOf l = .homed && (decide (l % 2048 ≠ 0) || decide (len % 2048 ≠ 0)) &&
      (List.range (len / 2097152 + 2)).any (fun k =>
        decide (l / 2097152 * 2097152 + k * 2097152 < l + len) && bigTile s (l / 2097152 * 2097152 + k * 2097152))
  | _ => false

/-- A block that the engine must wait for: a page it needs is in Starting, the line is busy, or the ring store is full
(R86, R375, R525, R618). -/
def blockHeld (s : State) (wr : Bool) (p : Nat × Nat × Nat) : Bool :=
  match target s p.2.1 with
  | .loc l =>
    bstate s Pg.netb = B.starting ||
    (match areaOf l with
     | .homed => (homeHolds s l).isSome || (match homeOf s l with | .ok h => lineBusy s h.slice (h.off / 128) | _ => false) ||
         (wr && (ringsInLine s l).any (fun _ => decide (2048 ≤ s.ringStage.length)))
     | .spad => (match siteOf s (windowOf l).1 with | some c => bstate s (Pg.cor c) = B.starting | none => false)
     | _ => false)
  | .far d l => bstate s Pg.netb = B.starting || (proxied s d l && (proxyHolds s l).isSome)
  | .bad => false

/-! ### Outstanding operations (R397, R398) -/

/-- A local address in the scratchpad of the core at site `c`: its own accesses there are not counted (R397). -/
def ownSpad (s : State) (c l : Nat) : Bool := areaOf l = .spad && siteOf s (windowOf l).1 = some c

/-- How many pieces lie on this die outside the core's own scratchpad. -/
def localPieces (s : State) (c : Nat) (ps : List (Nat × Nat × Nat)) : Nat :=
  (ps.filter (fun p => match target s p.2.1 with
    | .loc l => !ownSpad s c l
    | _ => false)).length

/-- Outstanding operations of a core and of the chiplet. -/
def coreOps (s : State) (c : Nat) : Nat := (s.ops.filter (fun o => o.ep = c)).length
def chipOps (s : State) : Nat := (s.ops.filter (fun o => o.ep < nSites)).length

/-- No place is free for a request of the core. Units that are no core have no limit. -/
def opsFull (s : State) (c : Nat) : Bool := decide (c < nSites) && (decide (1024 ≤ coreOps s c) || decide (8192 ≤ chipOps s))

/-- Places that a core may still take. -/
def opsFree (s : State) (c : Nat) : Nat := Nat.min (1024 - coreOps s c) (8192 - chipOps s)

/-- A peak of the chiplet's count. `peaks` lists the sites whose MOV_PEAK was read since the highest one, with their own. -/
def chipPeak (v : Nat) (s : State) : State :=
  let top := Nat.max s.peakAll v
  { s with peakAll := top, peaks := (s.peaks.map (fun e => (e.1, Nat.max e.2 v))).filter (fun e => e.2 ≠ top) }

/-- The chiplet's highest count since the MOV_PEAK of site `c` was last read, and that read. -/
def peakOf (s : State) (c : Nat) : Nat := Nat.max ((Tab.find s.peaks c).getD s.peakAll) (chipOps s)
def peakClear (c : Nat) (s : State) : State := if s.peakAll = 0 then s else { s with peaks := Tab.put s.peaks c 0 }

/-- MOV_PEAK follows the highest counts (R412): `n` operations of core `c` and `m` of the chiplet were outstanding. -/
def peakAt (c n m : Nat) (s : State) : State :=
  let v := getR s (Pg.mov c) R.MOV_PEAK
  chipPeak m (setR (Pg.mov c) R.MOV_PEAK (setFld v 16 11 (Nat.max (fld v 16 11) n)) s)

/-- An operation of a core becomes outstanding. -/
def opAdd (o : Op) (s : State) : State :=
  let s := { s with ops := s.ops ++ [o] }
  if o.ep < nSites then peakAt o.ep (coreOps s o.ep) (chipOps s) s else s

/-- Up to `n` requests of core `c` to slices and cores of this die are performed and answered in the step. How many of them are
outstanding at once is a matter of timing, and left free (R397, R412). -/
def localPeak (c n : Nat) (s : State) : State :=
  if n = 0 then s
  else
    let (v, s) := fresh s
    let k := Nat.min (1 + v.toNat % n) (opsFree s c)
    peakAt c (coreOps s c + k) (chipOps s + k) s

/-- How a request went: answered, refused, or outstanding until a response comes. -/
inductive WrRes where
  | done
  | bad
  /-- under way, or waiting for a place; the acknowledgement comes with the operation of this transaction -/
  | later
deriving DecidableEq, Repr

/-- A request that has a place enters the bulk network. Contributions and multicasts go to their spine or leaf; a read or write for
this die is performed at its destination; one for another die goes out over the links, or fails where no route leads (R654, R672). -/
def opGo (o : Op) (f : Flit) (s : State) : WrRes × State :=
  match o.kind with
  | .redContrib _ _ _ | .mcastRow _ _ _ => (.later, flitSend f (opAdd o s))
  | _ =>
    if o.die = dieNum s then
      if f.typ = 0 then (.later, answer f (localReq false f (opAdd o s)))
      else
        match localReq false f s with
        | (.ok _ _ _, s) => (.done, s)
        | (.err, s) => (.bad, s)
        | (.wait, s) => (.later, opAdd o s)
    else if !reachable s o.die then (.bad, if (route s o.die).isNone then lkgDiscard (routeFirst s o.die) 1 o.die s else s)
    else (.later, (postFlit o.die f (opAdd o s)).2)

/-- A request is issued, or waits for a place (R398). -/
def opIssue (o : Op) (f : Flit) (s : State) : WrRes × State :=
  if opsFull s o.ep then (.later, { s with opWait := s.opWait ++ [(o, f)] }) else opGo o f s

/-- The flit of a request of core `c` (R427). -/
def engineFlit (s : State) (c typ txn d a : Nat) : Flit :=
  { typ := BitVec.ofNat 4 typ, status := 0, src := BitVec.ofNat 9 c, dst := BitVec.ofNat 9 (dstEp s d a), txn := BitVec.ofNat 14 txn,
    ptn := BitVec.ofNat 4 ((ptnOfSite s c).getD 0), die := BitVec.ofNat 12 d, addr := BitVec.ofNat 48 (a / 128 * 128), rtag := 0,
    rtype := false, last := false, tile := false, glaze := 0, data := 0, ben := 0, ecc := 0,
    sdie := BitVec.ofNat 12 (dieNum s) }

/-- A WR flit of `bs` at offset `off` of the block of `a`, with its GLAZE (R427, R537, R538). -/
def engineWrite (s : State) (c txn d a : Nat) (bs : List Byte) : Flit :=
  let off := a % 128
  let block := List.replicate off 0 ++ bs ++ List.replicate (128 - off - bs.length) 0
  { engineFlit s c 1 txn d a with
    data := BitVec.ofNat 1024 (numOf block), ben := BitVec.ofNat 128 ((2 ^ bs.length - 1) * 2 ^ off),
    glaze := crc32c (glzSeed (a / 128 * 128)) block }

/-! ### Reading and writing blocks of this die -/

/-- One 128-byte block of this die read by an engine: bytes, and whether its Glaze matches (R373, R392). -/
def readBlock (c a : Nat) (s : State) : Option (List Byte × Bool) × State :=
  let b := a / 128 * 128
  if !runs s Pg.netb then (none, s)
  else
    match areaOf a with
    | .homed =>
      match homeOf s a with
      | .error (r, some i) => (none, sliceErr i r a (ptnOfSite s c) s)
      | .error (_, none) => (none, s)
      | .ok h =>
        let s := wrapR (Pg.slc h.slice) R.SLC_REQS 1 s
        let (ok, s) := homeLoad h s
        if ok then
          let h := lineHome h
          let good := if bigTile s a then (Tab.find s.badGlz (h.key - a % 2048 / 128 * 128)).isNone else (Tab.find s.badGlz h.key).isNone
          (some (dramBytes s h.key 128, good), s)
        else (none, sliceErr h.slice 2 a (ptnOfSite s c) s)
    | .spad =>
      match windowSite s b 128 with
      | none => (none, s)
      | some d =>
        let x := coreAt s d
        (some (spadBytes x 2 x.steps (windowOf b).2 128, !blockBad x (windowOf b).2), s)
    | _ => (none, s)

/-- Bytes within one block of this die written by an engine through the request path of its destination. -/
def writeBlock (c : Nat) (kind : OpKind) (a : Nat) (bs : List Byte) (s : State) : WrRes × State :=
  let (t, s) := newTxn s
  (if ownSpad s c a then opGo else opIssue) (mkOp s t c (dieNum s) a kind) (engineWrite s c t (dieNum s) a bs) s

/-- A whole 2 KiB tile of this die written by an engine (R393, R539): answers how each of its sixteen blocks went. Where sixteen places are
not free, its blocks are sent one by one and staged at the slice. -/
def writeWholeTile (c : Nat) (kind : OpKind) (a : Nat) (bs : List Byte) (s : State) : List WrRes × State :=
  let flit := fun (s : State) (t k : Nat) => engineWrite s c t (dieNum s) (a + 128 * k) ((bs.drop (128 * k)).take 128)
  let oneByOne := fun (s : State) => (List.range 16).foldl (fun (st : List WrRes × State) k =>
    let (r, s) := writeBlock c kind (a + 128 * k) ((bs.drop (128 * k)).take 128) st.2
    (st.1 ++ [r], s)) ([], s)
  if !runs s Pg.netb then ([.bad], s)
  else if c < nSites ∧ opsFree s c < 16 then oneByOne s
  else
    match homeOf s a with
    | .error (r, some i) => ([.bad], sliceErr i r a (ptnOfSite s c) s)
    | .error (_, none) => ([.bad], s)
    | .ok h =>
      let (aws, s) := writeTile h a bs (wrapR (Pg.slc h.slice) R.SLC_REQS 16 (dropStage h.slice a s))
      aws.foldl (fun (st : List WrRes × State) (x : Nat × BitVec 8 × Nat) =>
        let (t, s) := newTxn st.2
        match writeWait h.slice (flit s t x.1) (h.off / 128 + x.1) x.2.1 x.2.2 s with
        | none => (st.1 ++ [.done], s)
        | some w => (st.1 ++ [.later], addWait h.slice w (opAdd (mkOp s t c (dieNum s) (a + 128 * x.1) kind) s))) ([], s)

/-! ### Jobs -/

/-- A descriptor in progress changed. -/
def updJob (c : Nat) (e : Bool) (serial : Nat) (f : MoveDesc → MoveDesc) (s : State) : State :=
  let m := moverAt s c e
  setMover c e { m with jobs := m.jobs.map (fun j => if j.serial = serial then f j else j) } s

/-- The number of operations outstanding of a descriptor changed. -/
def jobOps (c : Nat) (e : Bool) (serial : Nat) (up : Bool) (n : Nat) (s : State) : State :=
  updJob c e serial (fun j => { j with left := if up then j.left + n else j.left - n }) s

/-- A descriptor meets an error (R396): it will complete with error; the first one is recorded in MOV_ERR; the partition
records MEMERR. Reasons: 1 error completion, 2 address rejected, 3 part tile. -/
def jobFail (c : Nat) (e : Bool) (serial reason a : Nat) (s : State) : State :=
  match (moverAt s c e).jobs.find? (fun j => j.serial = serial) with
  | none => s
  | some j =>
    let pg := Pg.mov c
    let s := updJob c e serial (fun j => { j with bad := true }) s
    let s := if bit (getR s pg R.MOV_ERR) 31 then s
      else setQ pg R.MOV_ERR_ADDR_LO (BitVec.ofNat 64 a)
        (firstR pg R.MOV_ERR (b2n e * 2 ^ 30 + dKind j.bits * 2 ^ 24 + reason * 2 ^ 20 + Nat.min serial 0xFFFF) s)
    ptnFaultOf (ptnOfSite s c) PC.memerr s

/-- The outcome of one write of a descriptor. -/
def wrNote (c : Nat) (e : Bool) (serial a : Nat) (r : WrRes × State) : State :=
  match r with
  | (.done, s) => s
  | (.bad, s) => jobFail c e serial 1 a s
  | (.later, s) => jobOps c e serial true 1 s

/-- The blocks of a piece count in the digest of the core's partition (R740). -/
def digestPiece (c a : Nat) (g : Word) (s : State) : State :=
  match ptnOfSite s c with
  | some p => if areaOf (a % 2 ^ 48) = .homed then twinDigest p (a % 2 ^ 48 / 128 * 128) g s else s
  | none => s

/-- One piece of a row written (R392): on this die at once, to another die by a WR flit. -/
def writePiece (c : Nat) (e : Bool) (serial a : Nat) (bs : List Byte) (s : State) : State :=
  match target s a with
  | .bad => jobFail c e serial 2 a s
  | .loc l =>
    let s := digestPiece c l (engineWrite s c 0 (dieNum s) l bs).glaze s
    wrNote c e serial a (writeBlock c (.movWrite c (b2n e) serial) l bs s)
  | .far d l =>
    let (t, s) := newTxn s
    let f := engineWrite s c t d l bs
    let s := digestPiece c l f.glaze (if proxied s d l then proxyDrop d l s else s)
    wrNote c e serial a (if proxied s d l ∧ (proxyOf s l).isNone then (.bad, s) else opIssue (mkOp s t c d l (.movWrite c (b2n e) serial)) f s)

/-- A row written at address field `a`: whole tiles where the region has 2 KiB tiles, else piece by piece. -/
def writeRow (c : Nat) (e : Bool) (serial a : Nat) (bs : List Byte) (s : State) : State :=
  foldS (fun p s =>
    match target s p.2.1 with
    | .loc l =>
      if areaOf l = .homed ∧ bigTile s l then
        if l % 2048 = 0 then
          let tb := (bs.drop p.1).take 2048
          let s := foldS (fun k s => digestPiece c (l + 128 * k) (crc32c (glzSeed (l + 128 * k)) ((tb.drop (128 * k)).take 128)) s) (List.range 16) s
          let (rs, s) := writeWholeTile c (.movWrite c (b2n e) serial) l tb s
          foldS (fun r s => wrNote c e serial p.2.1 (r, s)) rs s
        else s
      else writePiece c e serial p.2.1 ((bs.drop p.1).take p.2.2) s
    | _ => writePiece c e serial p.2.1 ((bs.drop p.1).take p.2.2) s) (piecesOf a bs.length) (localPeak c (localPieces s c (piecesOf a bs.length)) s)

/-! ### SCRIPT, MCAST, REDUCE, LEAVEN -/

/-- The syllable of 32 bytes (R170). -/
def syllableOf (bs : List Byte) : Syllable := BitVec.ofNat 256 (numOf bs)

/-- A syllable may be written by SCRIPT: the core has a script, the index lies in the overlay region and is not valid yet (R177–R180). -/
def syllableOpen (x : Core) (idx : Nat) : Bool := x.loaded && decide (x.res ≤ idx) && !x.valid.contains idx

/-- The row of a SCRIPT descriptor: a row that R177 or R180 rejects at any syllable is not issued (R396). -/
def writeScript (c : Nat) (e : Bool) (j : MoveDesc) (bs : List Byte) (s : State) : State :=
  let ks := List.range (bs.length / 32)
  match ks.find? (fun k => !syllableOpen (coreAt s c) (dDst j.bits + k)) with
  | some k => jobFail c e j.serial 2 (dDst j.bits + k) s
  | none =>
    foldS (fun k => updCore c (fun x => { x with script := Tab.store 0 x.script (dDst j.bits + k) (syllableOf ((bs.drop (32 * k)).take 32)),
                                                 valid := x.valid ++ [dDst j.bits + k] })) ks s

/-- The row of an MCAST descriptor leaves as MC flits (R390, R436): one transaction, LAST on the last flit. While NETM is
not Running the descriptor completes with error (R463). Each flit is an outstanding operation until MCREP. DESIGN CHOICE, where R398 has a
request wait that would exceed a limit and MCREP alone frees the places of a row: a row longer than the places that are free takes those, so
that it is never held up by its own flits; a row for which none is free waits. -/
def sendMcast (c : Nat) (e : Bool) (j : MoveDesc) (bs : List Byte) (s : State) : State :=
  if !runs s Pg.netm ∨ !runs s Pg.netb then jobFail c e j.serial 1 (dDst j.bits) s
  else
    let (t, s) := newTxn s
    let n := bs.length / 128
    let o := mkOp s t c (dieNum s) (dDst j.bits) (.mcastRow c (b2n e) j.serial)
    let flit := fun (s : State) (k : Nat) =>
      let blk := (bs.drop (128 * k)).take 128
      { engineFlit s c 4 t (dieNum s) (dDst j.bits + 128 * k) with
        dst := BitVec.ofNat 9 c, data := BitVec.ofNat 1024 (numOf blk), rtag := BitVec.ofNat 16 (dDStride j.bits * 256), last := decide (k + 1 = n),
        glaze := crc32c (glzSeed (dDst j.bits + 128 * k)) blk }
    let s := foldS (fun _ => opAdd o) (List.range (Nat.max 1 (Nat.min n (opsFree s c)))) s
    jobOps c e j.serial true 1 (foldS (fun k s => flitSend (flit s k) s) (List.range n) s)

/-- The row of a REDUCE or LEAVEN descriptor leaves as RED or LVN flits, each an outstanding operation (R390, R397); a
LEAVEN adds the destination's die to the dies that hear of the partition's commit (R579). -/
def sendRed (c : Nat) (e : Bool) (j : MoveDesc) (bs : List Byte) (s : State) : State :=
  let lv := decide (dKind j.bits = 5)
  match target s (dDst j.bits) with
  | .bad => jobFail c e j.serial 2 (dDst j.bits) s
  | tg =>
    let (d, a0) := match tg with | .far d a => (d, a) | .loc a => (dieNum s, a) | .bad => (0, 0)
    if !runs s Pg.netb then jobFail c e j.serial 1 (dDst j.bits) s
    else
      let s := match lv, ptnOfSite s c with
        | true, some p => updPtn p (fun x => if x.leavenDies.contains d then x else { x with leavenDies := x.leavenDies ++ [d] }) s
        | _, _ => s
      foldS (fun k s =>
        let blk := (bs.drop (128 * k)).take 128
        let a := a0 + 128 * k
        let (t, s) := newTxn s
        let g := crc32c (glzSeed a) blk
        let base := engineFlit s c (if lv then 8 else 6) t d a
        let f : Flit := { base with
          dst := BitVec.ofNat 9 (redDst s d a), addr := if lv then BitVec.ofNat 48 (a / 128 % 2 ^ 32 * 65536 + dGroup j.bits * 16) else base.addr,
          data := BitVec.ofNat 1024 (numOf blk), rtag := BitVec.ofNat 16 (dTag j.bits), rtype := dInt j.bits, glaze := g }
        jobOps c e j.serial true 1 (opIssue (mkOp s t c d a (.redContrib c (b2n e) j.serial)) f (digestPiece c a g s)).2)
        (List.range (bs.length / 128)) s

/-- All bytes of a row have been read: what the descriptor's kind does with it. -/
def rowRead (c : Nat) (e : Bool) (j : MoveDesc) (row : Nat) (bs : List Byte) (s : State) : State :=
  match dKind j.bits with
  | 0 => writeRow c e j.serial ((dDst j.bits + row * dDStride j.bits) % 2 ^ 64) bs s
  | 2 => writeScript c e j bs s
  | 3 => sendMcast c e j bs s
  | 4 => sendRed c e j bs s
  | 5 => sendRed c e j bs s
  | _ => s

/-! ### Reading rows -/

/-- Bytes of a row put at position `pos`. -/
def putAt (bs : List Byte) (pos : Nat) (new : List Byte) : List Byte := bs.take pos ++ new ++ bs.drop (pos + new.length)

/-- A read that found its Glaze wrong records GLAZE for the partition; the data is used as read (R373). -/
def glazeNote (c : Nat) (good : Bool) (s : State) : State := if good then s else ptnFaultOf (ptnOfSite s c) PC.glaze s

/-- What reading one piece gives. -/
inductive RdRes where
  | got (bs : List Byte)
  | later
  | bad
deriving DecidableEq, Repr

/-- One piece of a row read: on this die at once; of another die by its proxy's copy, or by an RD flit (R527, R528). -/
def readPiece (c : Nat) (kind : OpKind) (p : Nat × Nat × Nat) (s : State) : RdRes × State :=
  let off := p.2.1 % 128
  match target s p.2.1 with
  | .bad => (.bad, s)
  | .loc l =>
    if opsFull s c ∧ ownSpad s c l = false then
      let (t, s) := newTxn s
      (.later, (opIssue (mkOp s t c (dieNum s) l kind) (engineFlit s c 0 t (dieNum s) l) s).2)
    else
    match readBlock c l s with
    | (some (bs, good), s) => (.got ((bs.drop off).take p.2.2), glazeNote c good s)
    | (none, s) => (.bad, s)
  | .far d l =>
    if !runs s Pg.netb then (.bad, s)
    else
      let look := if proxied s d l then
          (match proxyOf s l with
           | none => (none, true, s)
           | some i => let (h, s) := proxyLook i d l s; (h, false, s))
        else (none, false, s)
      match look with
      | (_, true, s) => (.bad, s)
      | (some h, false, s) =>
        let bs := bytesOf 128 h.data.toNat
        let good := h.tile || h.glaze == crc32c (glzSeed (l / 128 * 128)) bs
        if h.tile then (.bad, s) else (.got ((bs.drop off).take p.2.2), glazeNote c good s)
      | (none, false, s) =>
        let (t, s) := newTxn s
        match opIssue (mkOp s t c d l kind) (engineFlit s c 0 t d l) s with
        | (.bad, s) => (.bad, s)
        | (_, s) => (.later, s)

/-- A row read and, once all of it is there, used; `false` where the row failed and no later row is issued (R396). -/
def readRow (c : Nat) (e : Bool) (j : MoveDesc) (row : Nat) (s : State) : Bool × State :=
  let len := dLen j.bits
  let a := (dSrc j.bits + row * dSStride j.bits) % 2 ^ 64
  let init : Bool × List Byte × Nat × State := (true, List.replicate len 0, 0, localPeak c (localPieces s c (piecesOf a len)) s)
  let (ok, bs, miss, s) := (piecesOf a len).foldl (fun (st : Bool × List Byte × Nat × State) p =>
    match st with
    | (false, bs, m, s) => (false, bs, m, s)
    | (true, bs, m, s) =>
      match readPiece c (.movRead c (b2n e) j.serial row p.1 (p.2.1 % 128) p.2.2) p s with
      | (.got b, s) => (true, putAt bs p.1 b, m, s)
      | (.later, s) => (true, bs, m + 1, s)
      | (.bad, s) => (false, bs, m, jobFail c e j.serial 1 p.2.1 s)) init
  if !ok then (false, jobOps c e j.serial true miss s)
  else if miss = 0 then (true, rowRead c e j row bs s)
  else (true, updJob c e j.serial (fun x => { x with left := x.left + miss, rows := x.rows ++ [(row, bs, miss)] }) s)

/-- The checks before a row is touched: rejected addresses, then part tiles (R393, R396). -/
def rowCheck (c : Nat) (e : Bool) (j : MoveDesc) (row : Nat) (s : State) : Bool × State :=
  let len := dLen j.bits
  let src := (dSrc j.bits + row * dSStride j.bits) % 2 ^ 64
  let dst := (dDst j.bits + row * dDStride j.bits) % 2 ^ 64
  let k := dKind j.bits
  if k ≠ 1 ∧ (piecesOf src len).any (pieceBad s) then (false, jobFail c e j.serial 2 src (noteReject c src len s))
  else if k ≤ 1 ∧ (piecesOf dst len).any (pieceBad s) then (false, jobFail c e j.serial 2 dst (noteReject c dst len s))
  else if k ≠ 1 ∧ partTile s src len then (false, jobFail c e j.serial 3 src s)
  else if k ≤ 1 ∧ partTile s dst len then (false, jobFail c e j.serial 3 dst s)
  else (true, s)

/-- One row of a FILL: the pattern over the destination row (R390). -/
def fillRow (c : Nat) (e : Bool) (j : MoveDesc) (row : Nat) (s : State) : State :=
  let pat := bytesOf 4 (dSrc j.bits)
  let bs := (List.replicate (dLen j.bits / 4) pat).flatten
  writeRow c e j.serial ((dDst j.bits + row * dDStride j.bits) % 2 ^ 64) bs s

/-- The rows of a descriptor in ascending order, up to the first that fails. -/
def runRows (c : Nat) (e : Bool) (j : MoveDesc) : List Nat → State → State
  | [], s => s
  | r :: t, s =>
    let (ok, s) := rowCheck c e j r s
    if ok then
      if dKind j.bits = 1 then
        let s := fillRow c e j r s
        if (moverAt s c e).jobs.any (fun x => x.serial = j.serial ∧ x.bad) then s else runRows c e j t s
      else
        let (ok, s) := readRow c e j r s
        if ok ∧ !((moverAt s c e).jobs.any (fun x => x.serial = j.serial ∧ x.bad)) then runRows c e j t s else s
    else s

/-- Some block that the descriptor touches on this die must be waited for; a multicast waits for a place and, with a reduction, for a
network page that is in Starting (R86, R463). -/
def descHeld (s : State) (c : Nat) (j : MoveDesc) : Bool :=
  let k := dKind j.bits
  (decide (3 ≤ k) && decide (bstate s Pg.netb = B.starting)) || (decide (k = 3) && (decide (bstate s Pg.netm = B.starting) || opsFull s c)) ||
  (List.range (dRows j.bits)).any (fun r =>
    (k ≠ 1 && (piecesOf ((dSrc j.bits + r * dSStride j.bits) % 2 ^ 64) (dLen j.bits)).any (blockHeld s false)) ||
    (decide (k ≤ 1) && (piecesOf ((dDst j.bits + r * dDStride j.bits) % 2 ^ 64) (dLen j.bits)).any (blockHeld s true)))

/-- Move engine `e` takes the descriptor at the head of its queue, if it is of kind `k`, and performs it (R390, R395). A
descriptor that must wait for a page or a line stays at the head. -/
def takeDesc (k c : Nat) (e : Bool) (s : State) : State :=
  let m := moverAt s c e
  match m.queue with
  | j :: rest =>
    if runs s (Pg.mov c) ∧ dKind j.bits = k ∧ !descHeld s c j then
      runRows c e j (List.range (dRows j.bits)) (setMover c e { m with queue := rest, jobs := m.jobs ++ [j] } s)
    else s
  | [] => s

/-! ### Completion (R394–R396) -/

/-- MOV_DONE0 and MOV_DONE1. -/
def movDoneReg (e : Bool) : Nat := if e then R.MOV_DONE1 else R.MOV_DONE0

/-- The partition of a core drains after an immediate cause: completions of its operations are discarded (R142). -/
def draining (s : State) (c : Nat) : Bool := (ptnOfSite s c).any (fun p => decide ((ptnAt s p).phase = .draining))

/-- The oldest descriptor of the engine completes once nothing of it is outstanding: SIG is raised, then the engine arrives
at BAR. -/
def completeDesc (c : Nat) (e bad : Bool) (s : State) : State :=
  let m := moverAt s c e
  match m.jobs with
  | j :: rest =>
    if j.left = 0 then
      let s := setMover c e { m with jobs := rest } s
      let s := wrapR (Pg.mov c) (movDoneReg e) 1 s
      let s := if j.bad then satR (Pg.mov c) R.MOV_ERRORS 1 s else s
      if draining s c then s
      else
      let s := if dSigEn j.bits then raiseSig c (dSig j.bits) 1 s else s
      if dArrive j.bits then
        match ptnOfSite s c, logicalAt s c with
        | some p, some n => coreArrive p n (dBar j.bits) bad s
        | _, _ => s
      else s
    else s
  | [] => s

/-- An operation of the move engines of a core. -/
def ofMover (c : Nat) (k : OpKind) : Bool :=
  match k with
  | .movRead c' _ _ _ _ _ _ | .movWrite c' _ _ | .redContrib c' _ _ | .mcastRow c' _ _ => decide (c' = c)
  | _ => false

/-- ABORT of a MOV page completes its descriptors with error and raises no signal for them (R409). -/
def movAbort (c : Nat) (s : State) : State :=
  foldS (fun e s =>
    let m := moverAt s c e
    let n := m.queue.length + m.jobs.length
    let s := setMover c e { m with queue := [], jobs := [] } s
    if n = 0 then s else wrapR (Pg.mov c) (movDoneReg e) n (satR (Pg.mov c) R.MOV_ERRORS n s)) [false, true]
    { updCore c (fun x => { x with xrd := x.xrd.filter (·.gq) }) s with ops := s.ops.filter (fun o => !ofMover c o.kind), opWait := s.opWait.filter (fun o => !ofMover c o.1.kind) }

/-! ### The X slots (R382–R387) -/

/-- Unit number of an X slot. -/
def xUnit (x : Bool) : Nat := if x then 1 else 2

/-- The address register that a slot owns (R382). -/
def xaIdx (x : Bool) (ar : BitVec 2) : Nat := 4 * b2n x + ar.toNat
def xaGet (k : Core) (x : Bool) (ar : BitVec 2) : Nat := (Tab.get 0 k.xa (xaIdx x ar)).toNat
def xaSet (x : Bool) (ar : BitVec 2) (v : Nat) (k : Core) : Core := { k with xa := Tab.store 0 k.xa (xaIdx x ar) (BitVec.ofNat 22 v) }

/-- An X-slot cause on the MOV page: 8 OPCODE, 9 ADDRESS, 10 DESC (R383, R413). -/
def movCause (c cause : Nat) (s : State) : State := fault (Pg.mov c) cause s

/-- DESC with the offset of the first descriptor that recorded it (MOV_DESC_ERR). -/
def descErr (c : Nat) (x : Bool) (at_ : Nat) (s : State) : State :=
  movCause c 10 (firstR (Pg.mov c) R.MOV_DESC_ERR (b2n x * 2 ^ 30 + at_ % 2 ^ 22) s)

/-- An X-slot operation other than NOP on a MOV or GTH page that is not Running is discarded and the partition records
CORE (R408). -/
def xOn (c pg : Nat) (f : State → State) (s : State) : State :=
  if runs s pg then f s else ptnFaultOf (ptnOfSite s c) PC.core s

/-- XSETA (R382, R384). -/
def xsetaAt (c : Nat) (x : Bool) (ar : BitVec 2) (sreg : BitVec 8) (i : Nat) (s : State) : State :=
  xOn c (Pg.mov c) (fun s =>
    let v := (rdReg (coreAt s c) .other 0 sreg.toNat i).toNat
    if v < 2 ^ 22 then updCore c (xaSet x ar v) s else movCause c 9 s) s

/-- XSETAI (R382). -/
def xsetaiAt (c : Nat) (x : Bool) (ar : BitVec 2) (off : BitVec 17) (_i : Nat) (s : State) : State :=
  xOn c (Pg.mov c) (updCore c (xaSet x ar (off.toNat * 32))) s

/-- Descriptors that X-slot operations are still reading, for a move engine or for the gather engine. -/
def xrdCount (k : Core) (gq x : Bool) (size : Nat) : Nat :=
  ((k.xrd.filter (fun r => r.gq = gq && (gq || r.x = x))).map (fun r => r.len / size)).foldl (· + ·) 0

/-- An X-slot operation of stepped cycle `i` begins to read its descriptors (R385). DESIGN CHOICE: POST adds to AR at issue, as XSETA
supplies it, and is undone where the descriptors then record DESC (R383), unless AR has been written since. -/
def xBegin (c : Nat) (x gq : Bool) (ar : BitVec 2) (post : Bool) (a len i : Nat) (s : State) : State :=
  updCore c (fun k =>
    let k := { k with xrd := k.xrd ++ [{ x := x, gq := gq, ar := ar, post := post, addr := a, len := len, at_ := i, got := [] }] }
    if post then xaSet x ar (a + len) k else k) s

/-- POST undone. -/
def xUndo (c : Nat) (r : XRead) (s : State) : State :=
  updCore c (fun k => if r.post && decide (xaGet k r.x r.ar = r.addr + r.len) then xaSet r.x r.ar r.addr k else k) s

/-- XQ and XQN of `n` descriptors (R382, R383, R387): room is kept for the descriptors that are still being read. An operation that records
a cause is performed as a NOP. -/
def xqAt (c : Nat) (x : Bool) (ar : BitVec 2) (post : Bool) (n : Nat) (op : Instr) (i : Nat) (s : State) : State :=
  xOn c (Pg.mov c) (fun s =>
    let k := coreAt s c
    let a := xaGet k x ar
    let m := moverAt s c x
    if a % 32 ≠ 0 ∨ sizeOfSite s c < a + 32 * n then movCause c 9 s
    else if 16 < m.queue.length + xrdCount k false x 32 + n ∨ opsFull s c then holdOp c (xUnit x) i op s
    else xBegin c x false ar post a (32 * n) i s) s

/-- Descriptors read for XQ or XQN are checked and enqueued (R385). -/
def xqDone (c : Nat) (r : XRead) (s : State) : State :=
  let m := moverAt s c r.x
  let n := r.len / 32
  let bits := (List.range n).map (fun q => (r.addr + 32 * q, BitVec.ofNat 256 (numOf ((r.got.drop (32 * q)).take 32))))
  match bits.find? (fun d => !moveDescOk s c d.2) with
  | some d => xUndo c r (descErr c r.x d.1 s)
  | none =>
    let new := (bits.zip (List.range n)).map (fun e =>
      ({ serial := m.serial + e.2, at_ := e.1.1, bits := e.1.2, left := 0, bad := false, rows := [] } : MoveDesc))
    setMover c r.x { m with queue := m.queue ++ new, serial := m.serial + n } s

/-- A GQ. -/
def isGq (op : Instr) : Bool := match op with | .gq _ _ _ _ => true | _ => false

/-- An X-slot operation reaches its slot: squashed by GUARD, held behind a held one, or performed (R200, R217). A GQ of X1 also waits
behind a GQ that X0 holds, so that the descriptor of X0 is enqueued first (R386). -/
def xOp (c : Nat) (x : Bool) (op : Instr) (f : Nat → State → State) (s : State) : State :=
  let k := coreAt s c
  if squashed k (xUnit x) then s
  else if unitHolds k (xUnit x) || (x && isGq op && k.holds.any (fun h => decide (h.1 = 2) && isGq h.2.2)) then holdOp c (xUnit x) k.steps op s
  else f k.steps s

/-! ### The commands -/

/-- X-slot NOP. -/
def execXNop (c : Nat) (_x : Bool) (s : State) : Host.Outcome State Fault Refusal := onUnit c nSites (fun s => s) s

/-- XSETA. -/
def execXseta (c : Nat) (x : Bool) (ar : BitVec 2) (sreg : BitVec 8) (s : State) : Host.Outcome State Fault Refusal :=
  onUnit c nSites (xOp c x (.xseta c x ar sreg) (xsetaAt c x ar sreg)) s

/-- XSETAI. -/
def execXsetai (c : Nat) (x : Bool) (ar : BitVec 2) (off : BitVec 17) (s : State) : Host.Outcome State Fault Refusal :=
  onUnit c nSites (xOp c x (.xsetai c x ar off) (xsetaiAt c x ar off)) s

/-- XQ. -/
def execXq (c : Nat) (x : Bool) (ar : BitVec 2) (post : Bool) (s : State) : Host.Outcome State Fault Refusal :=
  onUnit c nSites (xOp c x (.xq c x ar post) (xqAt c x ar post 1 (.xq c x ar post))) s

/-- XQN. -/
def execXqn (c : Nat) (x : Bool) (ar : BitVec 2) (post : Bool) (n1 : BitVec 4) (s : State) : Host.Outcome State Fault Refusal :=
  onUnit c nSites (xOp c x (.xqn c x ar post n1) (xqAt c x ar post (n1.toNat + 1) (.xqn c x ar post n1))) s

/-- COPY. -/
def execCopy (c : Nat) (e : Bool) (s : State) : Host.Outcome State Fault Refusal := onUnit c nSites (takeDesc 0 c e) s

/-- FILL. -/
def execFill (c : Nat) (e : Bool) (s : State) : Host.Outcome State Fault Refusal := onUnit c nSites (takeDesc 1 c e) s

/-- SCRIPT. -/
def execScript (c : Nat) (e : Bool) (s : State) : Host.Outcome State Fault Refusal := onUnit c nSites (takeDesc 2 c e) s

/-- MCAST. -/
def execMcast (c : Nat) (e : Bool) (s : State) : Host.Outcome State Fault Refusal := onUnit c nSites (takeDesc 3 c e) s

/-- REDUCE. -/
def execReduce (c : Nat) (e : Bool) (s : State) : Host.Outcome State Fault Refusal := onUnit c nSites (takeDesc 4 c e) s

/-- LEAVEN. -/
def execLeaven (c : Nat) (e : Bool) (s : State) : Host.Outcome State Fault Refusal := onUnit c nSites (takeDesc 5 c e) s

/-- MOVE_COMPLETE. -/
def execMoveComplete (c : Nat) (m : MoveEnd) (s : State) : Host.Outcome State Fault Refusal :=
  onUnit c nSites (completeDesc c m.engine m.parityBad) s

end Sys2Proof.Machine
end

