-- ==== Sys2Proof/Machine/Arrays.lean ====
section
/-! DEFINITION. The matrix arrays (R227–R280) and the Mille-feuille combiner (R306–R314): modes, address registers,
loads, streams with their row and column checks, drains, split mode, and the array self-test on command. -/

namespace Sys2Proof.Machine

/-! ### Modes (R228, R232, R241–R243) -/

/-- Element width of a format code (R241). -/
def fmtWidth (code : Nat) : Nat := if code ≤ 1 then 16 else if code = 5 ∨ code = 0xA then 4 else 8

/-- Float class (R241). -/
def fmtFloat (code : Nat) : Bool := !(code = 4 || code = 5 || code = 0xB)

/-- Block-scaled (R241). -/
def fmtMx (code : Nat) : Bool := decide (6 ≤ code)

/-- Formats that mix (R243): the two 8-bit floats, the two MXFP8 codes, the two MXFP6 codes; every other code only with
itself. -/
def fmtFamily (code : Nat) : Nat := match code with | 3 => 2 | 7 => 6 | 9 => 8 | c => c

/-- IFMT and WFMT pair (R241, R243). -/
def fmtPair (a w : Nat) : Bool := decide (a < 0xC) && decide (w < 0xC) && decide (fmtFamily a = fmtFamily w)

/-- Fields of the mode register (R232). -/
def mIfmt (v : Word) : Nat := fld v 28 4
def mWfmt (v : Word) : Nat := fld v 24 4
def mOfmt (v : Word) : Nat := fld v 21 3
def mRnd (v : Word) : Bool := bit v 20
def mSplit (v : Word) : Bool := bit v 19
def mDrain (v : Word) : Bool := bit v 18
def mMfsh (v : Word) : Nat := fld v 13 5
def mMfop (v : Word) : Nat := fld v 11 2

/-- The mode register of given fields. -/
def modeWord (ifmt wfmt : BitVec 4) (ofmt : BitVec 3) (rnd split drain : Bool) (mfsh : BitVec 5) (mfop : BitVec 2) : Word :=
  BitVec.ofNat 32 (ifmt.toNat * 2 ^ 28 + wfmt.toNat * 2 ^ 24 + ofmt.toNat * 2 ^ 21 + b2n rnd * 2 ^ 20 + b2n split * 2 ^ 19 +
    b2n drain * 2 ^ 18 + mfsh.toNat * 2 ^ 13 + mfop.toNat * 2 ^ 11)

/-- A mode is valid (R242, R243). -/
def modeOk (v : Word) : Bool :=
  let o := mOfmt v
  fmtPair (mIfmt v) (mWfmt v) &&
  (match o with
   | 0 => true
   | 5 => !fmtFloat (mIfmt v)
   | 6 => mDrain v
   | 7 => false
   | _ => fmtFloat (mIfmt v)) &&
  (!mDrain v || (decide (mIfmt v = 4) && decide (mWfmt v = 4) && !mSplit v && !mRnd v && (decide (o = 0) || decide (o = 6)))) &&
  decide (mMfsh v ≤ 16)

/-- Output bytes of an OFMT (R242). -/
def ofmtBytes (o : Nat) : Nat := match o with | 0 => 4 | 1 | 2 => 2 | 6 => 8 | _ => 1

/-! ### Elements (R231, R281–R289) -/

/-- An element of a format code. -/
def elemNum (code bits : Nat) : Num :=
  match code with
  | 0 => decodeNum .bf16 bits
  | 1 => decodeNum .f16 bits
  | 2 | 6 => decodeNum .e4m3 bits
  | 3 | 7 => decodeNum .e5m2 bits
  | 4 | 0xB => .ofInt (signedOf 8 bits)
  | 5 => .ofInt (signedOf 4 bits)
  | 8 => decodeNum .e2m3 (bits % 64)
  | 9 => decodeNum .e3m2 (bits % 64)
  | _ => decodeNum .e2m1 bits

/-- An E8M0 scale (R285): `none` is NaN. -/
def e8m0 (b : Nat) : Option Int := if b % 256 = 0xFF then none else some ((b % 256 : Nat) - 127 : Int)

/-- Element `k` of a streamed row. -/
def rowElem (code v k : Nat) : Num := elemNum code (v >>> (k * fmtWidth code) % 2 ^ fmtWidth code)

/-- Positions of a row: 512 bits of elements (R228). -/
def rowLen (code : Nat) : Nat := 512 / fmtWidth code

/-- Consecutive groups of 32. -/
def groups32 {α : Type} : Nat → List α → List (List α)
  | 0, _ => []
  | n + 1, l => if l.isEmpty then [] else l.take 32 :: groups32 n (l.drop 32)

/-- A sum of products in the fixed tree (R230): outside MX one tree; in MX each block of 32 is completed, scaled, and the
blocks summed. `exactInt`: MXINT8, where a block with a scale outside 0 to 5 contributes 0 (R288). -/
def dotTree (fl mx exactInt : Bool) (a w : List Num) (sc : List (Option Int)) : Num :=
  let prods := List.zipWith Num.mul a w
  if !mx then treeSum fl prods
  else
    let blocks := (groups32 4 prods).zip sc
    treeSum fl (blocks.map (fun b =>
      match b.2 with
      | none => if exactInt then .fin false 0 0 else .nan
      | some x => if exactInt then (treeSum false b.1).scale x else r32 ((treeSum true b.1).scale x)))

/-- The scale of a block product (R287, R288). -/
def scalePair (exactInt : Bool) (xa xw : Option Int) : Option Int :=
  match xa, xw with
  | some a, some w =>
    if exactInt then (if 0 ≤ a ∧ a ≤ 5 ∧ 0 ≤ w ∧ w ≤ 5 then some (a + w) else none) else some (a + w)
  | _, _ => none

/-- A float check (R261, R262, R264, R265): 0 within tolerance, 1 mismatch, 2 skipped. -/
def floatCheck (tol : Nat) (s t g : Num) : Nat :=
  match s, t, g with
  | .fin _ _ _, .fin _ _ _, .fin _ gm ge =>
    match s.add t.neg with
    | .fin _ dm de =>
      let ex := if magLt gm ge 1 (-90) ∨ gm = 0 then -90 else expOf gm ge
      let ulp := (if ex < -126 then -126 else ex) - 23
      if magLt tol ulp dm de then 1 else 0
    | _ => 2
  | _, _, _ => 2

/-! ### Array registers -/

/-- Unit number of an M slot (bits of SLOTS, R200). -/
def mUnit (m : Bool) : Nat := if m then 5 else 6

/-- Page of an array. -/
def mPg (c : Nat) (m : Bool) : Nat := Pg.mxa c (b2n m)

/-- Address register `k` of an array. -/
def arA (x : Arr) (k : Nat) : Nat := (Tab.get 0 x.a k).toNat
def arAdd (k n : Nat) (x : Arr) : Arr := { x with a := Tab.store 0 x.a k (BitVec.ofNat 22 (arA x k + n)) }

/-- An array changed. -/
def updArr (c : Nat) (m : Bool) (f : Arr → Arr) (s : State) : State := setArr c m (f (arrAt s c m)) s

/-- Causes of R244 recorded together; the operation is performed as a NOP. -/
def mCause (c : Nat) (m : Bool) (bits : Nat) (s : State) : State := raise (.page (mPg c m) bits) s

/-- Sticky flags set (R233, R294). -/
def mFlags (c : Nat) (m : Bool) (fl : Nat) (s : State) : State :=
  setR (mPg c m) R.MXA_FLAGS (getR s (mPg c m) R.MXA_FLAGS ||| BitVec.ofNat 32 fl) s

/-- An M-slot operation other than NOP reaches its slot: squashed by GUARD (R200); on an array that is not Running it is
discarded and the partition records CORE (R245). -/
def mOp (c : Nat) (m : Bool) (f : Nat → State → State) (s : State) : State :=
  let k := coreAt s c
  if squashed k (mUnit m) then s
  else if runs s (mPg c m) then f k.steps s
  else ptnFaultOf (ptnOfSite s c) PC.core s

/-- MODE (R240, R243). -/
def modeAt (c : Nat) (m : Bool) (v : Word) (s : State) : State :=
  if modeOk v then updArr c m (fun x => { x with mode := v }) s else mCause c m (2 ^ 12) s

/-- SETA (R240). -/
def setaAt (c : Nat) (m : Bool) (ar : BitVec 3) (sreg : BitVec 8) (i : Nat) (s : State) : State :=
  let v := (rdReg (coreAt s c) .other 0 sreg.toNat i).toNat
  if v < 2 ^ 22 then updArr c m (fun x => { x with a := Tab.store 0 x.a ar.toNat (BitVec.ofNat 22 v) }) s
  else mCause c m (2 ^ 9) s

/-- SETAI (R240). -/
def setaiAt (c : Nat) (m : Bool) (ar : BitVec 3) (off : BitVec 22) (s : State) : State :=
  updArr c m (fun x => { x with a := Tab.store 0 x.a ar.toNat off }) s

/-- SETCNT (R240). -/
def setcntAt (c : Nat) (m : Bool) (sreg : BitVec 8) (i : Nat) (s : State) : State :=
  let v := (rdReg (coreAt s c) .other 0 sreg.toNat i).toNat
  if 1 ≤ v ∧ v ≤ 16777216 then updArr c m (fun x => { x with cnt := v }) s else mCause c m (2 ^ 11) s

/-! ### Mismatches (R267, R275) -/

/-- A row or column check found a mismatch. In split mode it fences its half: the drain writes nothing from this cycle on (R275). -/
def mismatch (c : Nat) (m : Bool) (col half split : Bool) (idx serial : Nat) (s : State) : State :=
  let pg := mPg c m
  let v := getR s pg R.MXA_CHK_COUNT
  let lo := if col then 16 else 0
  let s := setR pg R.MXA_CHK_COUNT (setFld v lo 16 (Nat.min (fld v lo 16 + 1) 0xFFFF)) s
  let rec_ := if col then R.MXA_CHK_COL else R.MXA_CHK_ROW
  let seq := match ptnOfSite s c with | some p => getN s (Pg.ptn p) R.PTN_SOL_SEQ_LO % 65536 | none => 0
  let s := if bit (getR s pg rec_) 31 then s
    else setR pg (rec_ + 4) (BitVec.ofNat 32 (seq * 65536 + serial)) (firstR pg rec_ (b2n half * 2 ^ 30 + idx % 2 ^ 24) s)
  let s := updArr c m (fun x => { x with mismatch := true, fence := if split then setBit x.fence (b2n half) true else x.fence }) s
  ptnFaultOf (ptnOfSite s c) PC.array s

/-- Float checks skipped (R265). -/
def checkSkips (c : Nat) (m : Bool) (n : Nat) (s : State) : State :=
  if n = 0 then s else mFlags c m fChkskip (satR (mPg c m) R.MXA_NF_SKIPS n s)

/-! ### Loads (R246, R248, R250, R274) -/

/-- Registers that an operand names: one, or in split mode a pair that begins with an even one (R274). -/
def halfRegs (split : Bool) (k : Nat) : Option (List Nat) :=
  if split then (if k % 2 = 0 then some [k, k + 1] else none) else some [k]

/-- Areas aligned and within the scratchpad. -/
def fits (s : State) (c : Nat) (x : Arr) (regs : List Nat) (align span : Nat) : Bool :=
  regs.all (fun k => decide (arA x k % align = 0) && decide (arA x k + span ≤ sizeOfSite s c))

/-- The tile registers of an LD, or of a STREAM with LD = 1, meet R246–R248 and R274. -/
def tileOk (s : State) (c : Nat) (x : Arr) (k : Nat) : Bool :=
  let split := mSplit x.mode
  let mx := fmtMx (mWfmt x.mode)
  match halfRegs split k with
  | none => false
  | some regs =>
    fits s c x regs 64 (if split then 1024 else 2048) &&
      (!mx || (decide (k < 4) && fits s c x (regs.map (· + 4)) 4 (if split then 64 else 128)))

/-- Two half tiles put side by side: row k of a half is `n` bits (R231, R274). -/
def joinHalves (rows n l r : Nat) : Nat :=
  (List.range rows).foldl (fun acc k =>
    acc + (l >>> (k * n) % 2 ^ n + (r >>> (k * n) % 2 ^ n) * 2 ^ n) * 2 ^ (2 * n * k)) 0

/-- The shadow plane of an array after a swap `sw`. -/
def shadowOf (x : Arr) (sw : Bool) : Bool := !(x.active != sw)
def planeOf (x : Arr) (p : Bool) : Plane := if p then x.p1 else x.p0
def setPlane (p : Bool) (v : Plane) (x : Arr) : Arr := if p then { x with p1 := v } else { x with p0 := v }

/-- The array's own time in stepped cycle `i`. -/
def arrTime (x : Arr) (i : Nat) : Nat := i + x.ahead

/-- A load of the tile at register `k` into plane `p` begins in stepped cycle `i`, with the increments of R249: the plane is loading and
invalid (R250). -/
def loadStart (c : Nat) (m : Bool) (p : Bool) (k i : Nat) (s : State) : State :=
  updArr c m (fun x =>
    let split := mSplit x.mode
    let wf := mWfmt x.mode
    let tile := if split then 1024 else 2048
    let regs := if split then [k, k + 1] else [k]
    let a := arrTime x i
    let x := setPlane p { planeOf x p with valid := false, validAt := a + 21, lastWr := a + 19 }
      { x with loads := x.loads ++ [{ plane := p, at_ := a, split := split, wfmt := wf,
                                      bases := regs.map (fun r => (arA x r, arA x (r + 4))), got := regs.map (fun _ => ([], [])) }] }
    regs.foldl (fun x r =>
      let x := arAdd r tile x
      if fmtMx wf then arAdd (r + 4) (tile / 16) x else x) x) s

/-- A byte range of the own scratchpad read by a unit of an array in stepped cycle `i`: its bank is claimed and its Glaze verified
(R259, R370). -/
def arrRead (c rank : Nat) (m : Bool) (i a len : Nat) (s : State) : List Byte × State :=
  if len = 0 then ([], s)
  else (spadBytes (coreAt s c) 2 i a len, updCore c (claim (rank + b2n m) (mUnit m) i a len) (verifySpad c 2 i a len s))

/-- The reads of a loader in cycle `n` of its 16: 128 bytes of tile and, in MX modes, 8 of scales, half of them for each half. -/
def loaderRead (c : Nat) (m : Bool) (n i : Nat) (j : LoadJob) (s : State) : LoadJob × State :=
  let per := if j.split then 64 else 128
  let sc := if fmtMx j.wfmt then per / 16 else 0
  let (got, s) := (j.bases.zip j.got).foldl (fun (st : List (List Byte × List Byte) × State) e =>
    let (b, s) := arrRead c 70 m i (e.1.1 + per * n) per st.2
    let (q, s) := arrRead c 70 m i (e.1.2 + sc * n) sc s
    (st.1 ++ [(e.2.1 ++ b, e.2.2 ++ q)], s)) ([], s)
  ({ j with got := got }, s)

/-- The plane that a load has read. -/
def loadedPlane (j : LoadJob) (old : Plane) : Plane :=
  let w := j.got.map (fun g => numOf g.1)
  let q := j.got.map (fun g => numOf g.2)
  let wts := match w with | [l, r] => joinHalves (rowLen j.wfmt) (16 * fmtWidth j.wfmt) l r | _ => w.headD 0
  let scs := match q with | [l, r] => if fmtMx j.wfmt then joinHalves 4 128 l r else 0 | _ => q.headD 0
  { old with valid := true, split := j.split, wfmt := j.wfmt, wts := BitVec.ofNat 16384 wts, scales := BitVec.ofNat 1024 scs }

/-- The loader in cycle `a` of the array's own time, stepped cycle `i`: its reads, and at cycle 21 the plane is valid, unless a later load
of it is in progress (R250). -/
def loadCycle (c : Nat) (m : Bool) (a i : Nat) (s : State) : State :=
  let (l, s) := (arrAt s c m).loads.foldl (fun (st : List LoadJob × State) j =>
    if j.at_ < a ∧ a ≤ j.at_ + 16 then (fun r => (st.1 ++ [r.1], r.2)) (loaderRead c m (a - j.at_ - 1) i j st.2)
    else (st.1 ++ [j], st.2)) ([], s)
  updArr c m (fun x =>
    let done := l.filter (fun j => j.at_ + 21 ≤ a)
    let left := l.filter (fun j => a < j.at_ + 21)
    let put := fun (x : Arr) (j : LoadJob) =>
      let pl := loadedPlane j (planeOf x j.plane)
      setPlane j.plane { pl with valid := !(left.any (fun q => q.plane == j.plane)) } x
    done.foldl put { x with loads := left }) s

/-! ### Streams: what the rows give -/

/-- What one half of a stream works with. -/
structure HalfIn where
  half : Bool
  /-- per data column: weights by position and scale by block -/
  cols : List (List Num × List (Option Int))
  /-- checksum columns c and d (R260) -/
  cv : List Num
  dv : List Num
deriving Repr

/-- Weights of column `n` of a plane, with the scales of its blocks. -/
def planeCol (p : Plane) (n : Nat) : List Num × List (Option Int) :=
  let w := fmtWidth p.wfmt
  let v := p.wts.toNat
  ((List.range (rowLen p.wfmt)).map (fun k => elemNum p.wfmt (v >>> ((k * 32 + n) * w) % 2 ^ w)),
   if fmtMx p.wfmt then (List.range 4).map (fun b => e8m0 (p.scales.toNat >>> (8 * (b * 32 + n)) % 256)) else [])

/-- One element as its block scale scales it; an MXINT8 block whose scale is outside 0 to 5 contributes 0 (R288). -/
def scaleElem (exactInt : Bool) (sc : Option Int) (x : Num) : Num :=
  match sc with
  | some e => if exactInt && !(decide (0 ≤ e) && decide (e ≤ 5)) then .fin false 0 0 else x.scale e
  | none => if exactInt then .fin false 0 0 else .nan

/-- Weights of a column, or a row, as scaled. -/
def scaledCol (mx exactInt : Bool) (c : List Num × List (Option Int)) : List Num :=
  if mx then ((groups32 4 c.1).zip c.2).flatMap (fun b => b.1.map (scaleElem exactInt b.2)) else c.1

/-- Position `k` across columns. -/
def acrossCols (cols : List (List Num)) (k : Nat) : List Num := cols.map (fun l => (l[k]?).getD (.fin false 0 0))

/-- The half of a stream that works on columns `lo` … of a plane, with its checksum column (R260): exact in integer modes. -/
def halfIn (p : Plane) (half : Bool) (lo n : Nat) : HalfIn :=
  let cols := (List.range n).map (fun i => planeCol p (lo + i))
  let fl := fmtFloat p.wfmt
  let sc := cols.map (scaledCol (fmtMx p.wfmt) (!fl))
  let ks := List.range (rowLen p.wfmt)
  { half := half, cols := cols,
    cv := ks.map (fun k => treeSum fl (acrossCols sc k)),
    dv := if fl then ks.map (fun k => treeSum true ((acrossCols sc k).map Num.abs)) else [] }

/-- The halves of a stream, half L first. -/
def halvesOf (x : Arr) (j : StreamJob) : List HalfIn :=
  let p := planeOf x j.plane
  if mSplit j.mode then [halfIn p false 0 16, halfIn p true 16 16] else [halfIn p false 0 32]

/-- One element drained (R242, R257, R292–R298): its bytes, flags, and the generator after it. -/
def drainElem (mode : Word) (gen : Word) (x : Num) : List Byte × Nat × Word :=
  let o := mOfmt mode
  if o = 0 then
    if fmtFloat (mIfmt mode) then
      let (b, _) := convert .f32 .near x
      (bytesOf 4 b, if x.isNan then fInvalid else 0, gen)
    else (bytesOf 4 (BitVec.ofInt 32 x.toInt).toNat, 0, gen)
  else
    let g := if mRnd mode then xorshift gen else gen
    let r := if mRnd mode then Rnd.draw g.toNat else Rnd.near
    match o with
    | 5 =>
      let i := x.toInt
      if i > 127 then ([127], fOverflow, g) else if i < -128 then ([0x80], fOverflow, g) else ([BitVec.ofInt 8 i], 0, g)
    | _ =>
      let f := match o with | 1 => Fmt.bf16 | 2 => Fmt.f16 | 3 => Fmt.e4m3 | _ => Fmt.e5m2
      let (b, fl) := convert f r x
      (bytesOf (ofmtBytes o) b, fl, g)

/-- Elements drained in order. -/
def drainElems (mode : Word) : Word → List Num → List Byte × Nat × Word
  | gen, [] => ([], 0, gen)
  | gen, x :: t =>
    let (b, fl, g) := drainElem mode gen x
    let (bs, fl', g') := drainElems mode g t
    (b ++ bs, fl ||| fl', g')

/-- The destination added (R258): FP32 sums round, INT32 sums wrap and set INTWRAP. -/
def accAdd (fl : Bool) (out : List Num) (dst : List Byte) : List Num × Nat :=
  let word := fun k => numOf ((dst.drop (4 * k)).take 4)
  let pairs := out.zip (List.range out.length)
  if fl then (pairs.map (fun e => r32 (e.1.add (decodeNum .f32 (word e.2)))), 0)
  else
    let sums := pairs.map (fun e => e.1.toInt + signedOf 32 (word e.2))
    let wrapped := sums.map (fun i => signedOf 32 (BitVec.ofInt 32 i).toNat)
    (wrapped.map Num.ofInt, if sums = wrapped then 0 else fIntwrap)

/-! ### The combiner (R306–R313) -/

/-- One handoff element added to accumulator `k` of output row `r` at pass weight `w`. -/
def combAdd (c : Nat) (m : Bool) (r k w serial : Nat) (p : Int) (s : State) : State :=
  let x := arrAt s c m
  let old := (Tab.get 0 x.acc k).toInt
  let add : Int := if w ≤ 12 then p * (2 : Int) ^ (84 - 7 * w) else p / (2 : Int) ^ (7 * w - 84)
  let new := BitVec.ofInt 128 (old + add)
  let res := (Tab.get 0 x.res k).toNat
  let res' := if 12 < w ∨ res = 128 then 128 else ((res : Int) + p).emod 127 |>.toNat
  let s := setArr c m { x with acc := Tab.store 0 x.acc k new, res := Tab.store 0 x.res k (BitVec.ofNat 64 res') } s
  let s := if new.toInt = old + add then s else mFlags c m fIntwrap s
  if res' ≠ 128 ∧ w ≤ 12 ∧ (new.toInt.emod 127).toNat ≠ res' then mismatch c m false false false r serial s else s

/-- One accumulator converted (R310, R312). -/
def combRound (c : Nat) (m : Bool) (r k : Nat) (e f : Nat) (o serial : Nat) (s : State) : List Byte × State :=
  let x := arrAt s c m
  let y := (Tab.get 0 x.acc k).toInt
  let res := (Tab.get 0 x.res k).toNat
  let s := if res ≠ 128 ∧ (y.emod 127).toNat ≠ res then mismatch c m false false false r serial s else s
  let fm := if o = 6 then Fmt.f64 else Fmt.f32
  if e = 0x7FFF ∨ f = 0x7FFF then (bytesOf (ofmtBytes o) fm.nanCode, mFlags c m fInvalid s)
  else
    let (b, fl) := convert fm .near (if y = 0 then .fin false 0 0 else (Num.ofInt y).scale (signedOf 16 e + signedOf 16 f - 14 - 84))
    (bytesOf (ofmtBytes o) b, if fl = 0 then s else mFlags c m fl s)

/-- Row `r` of the combiner cleared. -/
def combClear (r : Nat) (x : Arr) : Arr :=
  (List.range 32).foldl (fun x n => { x with acc := Tab.store 0 x.acc (32 * r + n) 0, res := Tab.store 0 x.res (32 * r + n) 0 }) x

/-- Cycle b + 11: a row handed to the combiner is added, on MFOP 1 and 3 to cleared accumulators (R307). -/
def combTake (c : Nat) (m : Bool) (r : Nat) (j : StreamJob) (out : List Num) (s : State) : State :=
  let s := if mMfop j.mode % 2 = 1 then updArr c m (combClear r) s else s
  foldS (fun e s => combAdd c m r (32 * r + e.2) (mMfsh j.mode) j.serial e.1.toInt s) (out.zip (List.range 32)) s

/-- Cycles b + 12 and b + 13: E_r, and with the first row the 64 bytes of F, are read; the row is rounded, written and cleared. -/
def combGive (c : Nat) (m : Bool) (r i : Nat) (j : StreamJob) (s : State) : StreamJob × State :=
  let (eb, s) := arrRead c 50 m i (j.scl + 64 + 2 * r) 2 s
  let (fb, s) := if r = 0 then arrRead c 50 m i j.scl 64 s else (j.fb, s)
  let (bs, s) := (List.range 32).foldl (fun (st : List Byte × State) n =>
    let (e, s) := combRound c m r (32 * r + n) (numOf eb) (numOf ((fb.drop (2 * n)).take 2)) (mOfmt j.mode) j.serial st.2
    (st.1 ++ e, s)) ([], s)
  let dst := (j.halves.headD (0, 0, 0)).2.2 + r * 32 * ofmtBytes (mOfmt j.mode)
  ({ j with fb := fb }, updCore c (fun k => claim (30 + b2n m) (mUnit m) (i + 1) dst bs.length (unitStore (1 + 2 * b2n m) dst bs (i + 1) k))
    (updArr c m (combClear r) s))

/-! ### Streams by cycle (R251, R313) -/

/-- Extra tree stages of a width (R251). -/
def stageE (w : Nat) : Nat := match w with | 16 => 0 | 8 => 1 | _ => 2
def jobE (j : StreamJob) : Nat := stageE (fmtWidth (mIfmt j.mode))

/-- The row that an event `d` cycles after the issue of row 0's reach is for. -/
def rowAt (j : StreamJob) (d a : Nat) : Option Nat := if j.at_ + d ≤ a ∧ a < j.at_ + d + j.n then some (a - (j.at_ + d)) else none

/-- Cycle b − 1: the feeder reads row `r` and its scales. -/
def feedRow (c : Nat) (m : Bool) (r i : Nat) (j : StreamJob) (s : State) : StreamJob × State :=
  let sc := if fmtMx (mIfmt j.mode) then 4 else 0
  let (parts, s) := j.halves.foldl (fun (st : List (List Byte × List Byte) × State) h =>
    let (b, s) := arrRead c 50 m i (h.1 + 64 * r) 64 st.2
    let (q, s) := arrRead c 50 m i (h.2.1 + 4 * r) sc s
    (st.1 ++ [(b, q)], s)) ([], s)
  ({ j with rows := j.rows ++ [(r, parts)] }, s)

/-- The row check of one half (R261): in integer modes exact. 0 within, 1 mismatch, 2 skipped; with S. -/
def arrRowCheck (code tol : Nat) (h : HalfIn) (a : List Num) (sa : List (Option Int)) (out : List Num) : Nat × Num :=
  let mx := fmtMx code
  if fmtFloat code then
    let none0 := List.replicate 4 (some (0 : Int))
    let si := dotTree true mx false a h.cv (List.zipWith (scalePair false) sa none0)
    let gi := dotTree true mx false (a.map Num.abs) h.dv (List.zipWith (scalePair false) sa none0)
    (floatCheck tol si (treeSum true out) gi, si)
  else
    let si := treeSum false (List.zipWith Num.mul (scaledCol mx true (a, sa)) h.cv)
    (if si.toInt = (treeSum false out).toInt then 0 else 1, si)

/-- A check takes effect: a mismatch, or a skip. -/
def checkTake (c : Nat) (m col half split : Bool) (idx serial res : Nat) (s : State) : State :=
  if res = 2 then checkSkips c m 1 s else if res = 1 then mismatch c m col half split idx serial s else s

/-- Cycle b + 7 + e of one half: the outputs, the row check, the column sums, and with ACC the destination added. Answers the sums, the
values to drain and their flags. -/
def sumHalf (c : Nat) (m : Bool) (r i : Nat) (j : StreamJob) (h : HalfIn) (q : HalfSum) (dst : Nat) (bytes scales : List Byte) (s : State) :
    (HalfSum × List Num × Nat) × State :=
  let code := mIfmt j.mode
  let fl := fmtFloat code
  let mx := fmtMx code
  let xi := mx && !fl
  let sa := scales.map (fun y => e8m0 y.toNat)
  let a := (List.range (rowLen code)).map (rowElem code (numOf bytes))
  let out := h.cols.map (fun w => dotTree fl mx xi a w.1 (List.zipWith (scalePair xi) sa w.2))
  let bad := xi && h.cols.any (fun w => ((sa.zip w.2).take (rowLen code / 32)).any (fun z => (scalePair true z.1 z.2).isNone))
  -- an FP32 that is infinite though every operand was finite (R294)
  let ovf := fl && decide (mOfmt j.mode = 0) && (out.zip h.cols).any (fun z => z.1.isInf && z.2.1.all Num.isFin && a.all Num.isFin)
  let s := if bad then mFlags c m fInvalid s else s
  let (res, si) := arrRowCheck code (getF s (mPg c m) R.MXA_CHK_TOL 0 12) h a sa out
  let s := checkTake c m false h.half (mSplit j.mode) r j.serial res s
  let rnd := fun (x : Num) => if fl then r64 x else x
  let as := scaledCol mx xi (a, sa)
  let plus := fun (p y : Num) => rnd (Num.add p y)
  let q : HalfSum := { r := List.zipWith plus q.r as, rho := List.zipWith plus q.rho (as.map Num.abs), v := List.zipWith plus q.v out,
                       vs := plus q.vs si }
  let flags := if ovf then fOverflow else 0
  if j.acc then
    let (dv, s) := arrRead c 30 m i (dst + r * 4 * out.length) (4 * out.length) s
    let (o, f) := accAdd fl out dv
    ((q, o, flags), if f = 0 then s else mFlags c m f s)
  else ((q, out, flags), s)

/-- Cycle b + 7 + e of row `r`: its halves, half L first. -/
def sumRow (c : Nat) (m : Bool) (r i : Nat) (j : StreamJob) (s : State) : StreamJob × State :=
  let parts := ((j.rows.find? (fun e => e.1 = r)).map (·.2)).getD []
  let hs := (halvesOf (arrAt s c m) j).zip (j.sums.zip (j.halves.zip parts))
  let (l, s) := hs.foldl (fun (st : List (HalfSum × List Num × Nat) × State) e =>
    let (y, s) := sumHalf c m r i j e.1 e.2.1 e.2.2.1.2.2 e.2.2.2.1 e.2.2.2.2 st.2
    (st.1 ++ [y], s)) ([], s)
  ({ j with rows := j.rows.filter (fun e => e.1 ≠ r), sums := l.map (·.1), outs := j.outs ++ [(r, l.map (·.2))] }, s)

/-- The column checks of one half (R263, R264), by column: in integer modes exact; the checksum column is column 32, or 33 of half R. -/
def colChecks (code tol : Nat) (h : HalfIn) (q : HalfSum) : List (Nat × Nat) :=
  let mx := fmtMx code
  let fl := fmtFloat code
  let rb := if fl then q.r.map r32 else q.r
  let rh := q.rho.map r32
  let base := if h.half then 16 else 0
  let data := ((h.cols.zip q.v).zip (List.range 32)).map (fun z =>
    let ws := z.1.1.1
    let sc := z.1.1.2
    (base + z.2,
      if fl then floatCheck tol (dotTree true mx false rb ws sc) z.1.2 (dotTree true mx false rh (ws.map Num.abs) sc)
      else if (treeSum false (List.zipWith Num.mul rb (scaledCol mx true (ws, sc)))).toInt = z.1.2.toInt then 0 else 1))
  let chk :=
    if fl then floatCheck tol (treeSum true (List.zipWith Num.mul rb h.cv)) q.vs (treeSum true (List.zipWith Num.mul rh h.dv))
    else if (treeSum false (List.zipWith Num.mul rb h.cv)).toInt = q.vs.toInt then 0 else 1
  data ++ [(if h.half then 33 else 32, chk)]

/-- Cycle b_last + 8 + e: the column checks, unless the checksum row lost its cycle. -/
def checkCols (c : Nat) (m : Bool) (j : StreamJob) (s : State) : State :=
  if j.lost then s
  else
    foldS (fun (e : HalfIn × HalfSum) s =>
      foldS (fun (z : Nat × Nat) s => checkTake c m true e.1.half (mSplit j.mode) z.1 j.serial z.2 s)
        (colChecks (mIfmt j.mode) (getF s (mPg c m) R.MXA_CHK_TOL 0 12) e.1 e.2) s)
      ((halvesOf (arrAt s c m) j).zip j.sums) s

/-- Cycle b + 9 + e: the drain writes row `r`; a fenced half takes its draws and writes nothing, so it sets no flag (R257, R275, R294). -/
def drainRow (c : Nat) (m : Bool) (r i : Nat) (j : StreamJob) (s : State) : StreamJob × State :=
  let outs := ((j.outs.find? (fun e => e.1 = r)).map (·.2)).getD []
  let s := foldS (fun (e : (List Num × Nat) × (Nat × Nat × Nat) × Nat) s =>
    let (bs, f, g) := drainElems j.mode (arrAt s c m).gen e.1.1
    let s := updArr c m (fun x => { x with gen := g }) s
    if bit (arrAt s c m).fence e.2.2 then s
    else
      let dst := e.2.1.2.2 + r * bs.length
      let s := if f ||| e.1.2 = 0 then s else mFlags c m (f ||| e.1.2) s
      updCore c (fun k => claim (30 + b2n m) (mUnit m) i dst bs.length (unitStore (1 + 2 * b2n m + e.2.2) dst bs i k)) s)
    (outs.zip (j.halves.zip [0, 1])) s
  ({ j with outs := j.outs.filter (fun e => e.1 ≠ r) }, s)

/-- Cycle b + 11 of a stream handed to the combiner. -/
def handRow (c : Nat) (m : Bool) (r : Nat) (j : StreamJob) (s : State) : StreamJob × State :=
  let out := ((((j.outs.find? (fun e => e.1 = r)).map (·.2)).getD []).headD ([], 0)).1
  ({ j with outs := j.outs.filter (fun e => e.1 ≠ r) }, combTake c m r j out s)

/-- Every stream under way takes part in an event of the array. -/
def eachStream (c : Nat) (m : Bool) (f : StreamJob → State → StreamJob × State) (s : State) : State :=
  let (l, s) := (arrAt s c m).strs.foldl (fun (st : List StreamJob × State) j => (fun r => (st.1 ++ [r.1], r.2)) (f j st.2)) ([], s)
  updArr c m (fun x => { x with strs := l }) s

/-- A stream's event for the row that is due. -/
def onRow (d a : Nat) (f : Nat → StreamJob → State → StreamJob × State) (j : StreamJob) (s : State) : StreamJob × State :=
  match rowAt j d a with | some r => f r j s | none => (j, s)

/-- The first cycle with nothing of a stream left (R254). -/
def jobEnd (j : StreamJob) : Nat := j.at_ + j.n + (if mDrain j.mode then 14 else 11 + jobE j)

/-- One cycle `a` of the array's own time, in stepped cycle `i`: reads, sums and checks, then what is written, so that a half fenced by a
check writes nothing from that cycle on (R275). -/
def arrCycle (c : Nat) (m : Bool) (a i : Nat) (s : State) : State :=
  let x := arrAt s c m
  if x.loads.isEmpty && x.strs.isEmpty then s
  else
    let s := loadCycle c m a i s
    let s := eachStream c m (onRow 1 a (fun r => feedRow c m r i)) s
    let s := eachStream c m (fun j => onRow (9 + jobE j) a (fun r => sumRow c m r i) j) s
    let s := eachStream c m (fun (j : StreamJob) s => (j, if a = j.at_ + 9 + jobE j + j.n then checkCols c m j s else s)) s
    let s := eachStream c m (fun j => if mDrain j.mode then onRow 13 a (handRow c m) j else onRow (11 + jobE j) a (fun r => drainRow c m r i) j) s
    let s := eachStream c m (fun j => if mDrain j.mode && decide (2 ≤ mMfop j.mode) then onRow 14 a (fun r => combGive c m r i) j else fun s => (j, s)) s
    updArr c m (fun x => { x with strs := x.strs.filter (fun (j : StreamJob) => decide (a + 1 < jobEnd j)) }) s

/-- The last cycle of the array's own time in which anything is left. -/
def arrHorizon (x : Arr) : Nat := (x.loads.map (fun (j : LoadJob) => j.at_ + 21) ++ x.strs.map jobEnd).foldl Nat.max 0

/-! ### Issue (R244–R249, R255, R308, R309) -/

/-- The array's earlier work advances by `h` cycles while it holds an operation of stepped cycle `i`, and freeze is raised. The operation
itself reads and writes what it would without freeze (R221), so it is performed at once. -/
def arrHold (c : Nat) (m : Bool) (h i : Nat) (s : State) : State :=
  if h = 0 then s
  else
    let a := arrTime (arrAt s c m) i
    raiseDenied c (mUnit m) (updArr c m (fun x => { x with ahead := x.ahead + h })
      (foldS (fun k => arrCycle c m (a + 1 + k) i) (List.range h) s))

/-- The first cycle of the array's own time in which a load may be issued to a plane: an earlier load of it has written, and every row
that multiplies with it has reached its multiply stage (R255). DESIGN CHOICE: the checksum row of a stream with CKR = 0, which a later
stream may still displace, is not waited for. -/
def loadFrom (x : Arr) (p : Bool) : Nat :=
  (x.strs.filter (fun j => j.plane == p)).foldl (fun n j => Nat.max n (j.at_ + j.n + b2n j.ckr - 1)) ((planeOf x p).lastWr - 3)

/-- M-slot LD at stepped cycle `i` (R250). -/
def mLdAt (c : Nat) (m : Bool) (wgt : BitVec 3) (i : Nat) (s : State) : State :=
  let x := arrAt s c m
  if tileOk s c x wgt.toNat then
    let p := shadowOf x false
    loadStart c m p wgt.toNat i (arrHold c m (loadFrom x p - arrTime x i) i s)
  else mCause c m (2 ^ 9) s

/-- Split flag and weight format of a plane: those of the latest load of it in progress, else its own; none where it is invalid. -/
def planeIs (x : Arr) (p : Bool) : Option (Bool × Nat) :=
  match x.loads.reverse.find? (fun j => j.plane == p) with
  | some j => some (j.split, j.wfmt)
  | none => if (planeOf x p).valid then some ((planeOf x p).split, (planeOf x p).wfmt) else none

/-- The causes that a STREAM records, as bits of HDR_FAULT. -/
def streamCauses (s : State) (c : Nat) (x : Arr) (sw ld acc : Bool) (src dst wgt n : Nat) : Nat :=
  let md := x.mode
  let split := mSplit md
  let mx := fmtMx (mIfmt md)
  let rb := (if split then 16 else 32) * ofmtBytes (mOfmt md)
  let size := sizeOfSite s c
  let srcOk := match halfRegs split src with
    | none => false
    | some l => fits s c x l 64 (n * 64) && (!mx || (decide (src < 4) && fits s c x (l.map (· + 4)) 4 (n * 4)))
  let dstOk := match halfRegs split dst with
    | none => false
    | some l => fits s c x l 128 (n * rb) && (!mx || decide (dst < 4))
  let mfOk := !mDrain md || (decide (dst < 4) &&
    (decide (mMfop md < 2) || (decide (arA x (dst + 4) % 64 = 0) && decide (arA x (dst + 4) + 64 + 2 * n ≤ size))))
  let address := !srcOk || !dstOk || !mfOk || (ld && !tileOk s c x wgt)
  let plane := match planeIs x (x.active != sw) with
    | some (sp, wf) => !fmtPair (mIfmt md) wf || (sp != split)
    | none => true
  let add := decide (mMfop md = 0) || decide (mMfop md = 2)
  let mode := (acc && decide (mOfmt md ≠ 0)) ||
    (mDrain md && (decide (64 < n) || (add && (!x.open_ || decide (n ≠ x.height)))))
  b2n address * 2 ^ 9 + b2n plane * 2 ^ 10 + b2n mode * 2 ^ 12

/-- The combiner opens or closes as a STREAM with DRAIN = 1 is issued (R307). -/
def combIssue (x : Arr) (n : Nat) : Arr :=
  if mDrain x.mode then
    (match mMfop x.mode with
     | 1 => { x with open_ := true, height := n }
     | 0 => x
     | _ => { x with open_ := false })
  else x

/-- The increments of R249 for SRC and DST. -/
def streamAdvance (src dst n : Nat) (x : Arr) : Arr :=
  let md := x.mode
  let split := mSplit md
  let rb := (if split then 16 else 32) * ofmtBytes (mOfmt md)
  let x := (if split then [src, src + 1] else [src]).foldl (fun x k =>
    let x := arAdd k (n * 64) x
    if fmtMx (mIfmt md) then arAdd (k + 4) (n * 4) x else x) x
  if mDrain md ∧ mMfop md < 2 then x
  else (if split then [dst, dst + 1] else [dst]).foldl (fun x k => arAdd k (n * rb) x) x

/-- The sums of a half before its first row. -/
def sumsFrom (code cols : Nat) : HalfSum :=
  let z := Num.fin false 0 0
  { r := List.replicate (rowLen code) z, rho := List.replicate (rowLen code) z, v := List.replicate cols z, vs := z }

/-- A stream that an array accepts in cycle `a` of its own time. -/
def streamJob (x : Arr) (acc ckr mp : Bool) (src dst n a : Nat) : StreamJob :=
  let split := mSplit x.mode
  let regs := fun (k : Nat) => if split then [k, k + 1] else [k]
  { at_ := a, n := n, mode := x.mode, acc := acc, ckr := ckr, serial := x.serial, plane := mp,
    halves := (regs src).zip (regs dst) |>.map (fun e => (arA x e.1, arA x (e.1 + 4), arA x e.2)), scl := arA x (dst + 4),
    lost := false, rows := [], outs := [], sums := (regs src).map (fun _ => sumsFrom (mIfmt x.mode) (if split then 16 else 32)), fb := [] }

/-- An earlier stream whose checksum row, not forced, would be broadcast in the cycle of this stream's row 0 has no column check (R263). -/
def ckrLost (a : Nat) (j : StreamJob) : Bool := !j.ckr && !j.lost && decide (j.at_ + j.n = a)

/-- STREAM at stepped cycle `i`. -/
def streamAt (c : Nat) (m : Bool) (sw ld acc ckr : Bool) (src dst wgt : Nat) (count : BitVec 12) (i : Nat) (s : State) : State :=
  let x := arrAt s c m
  let n := if count = 0 then x.cnt else count.toNat
  let bits := streamCauses s c x sw ld acc src dst wgt n
  if bits ≠ 0 then mCause c m bits s
  else
    let mp := x.active != sw
    let a := arrTime x i
    let go := Nat.max (x.feed - 2) (Nat.max ((planeOf x mp).validAt - 4) (if ld then loadFrom x (!mp) else 0))
    let s := arrHold c m (go - a) i s
    let x := arrAt s c m
    let a := arrTime x i
    let s := if x.strs.any (ckrLost a) then satR (mPg c m) R.MXA_CKR_SKIPS 1 s else s
    let s := updArr c m (fun x =>
      let j := streamJob x acc ckr mp src dst n a
      let strs := x.strs.map (fun q => if ckrLost a q then { q with lost := true } else q) ++ [j]
      let x := { x with active := mp, serial := Nat.min (x.serial + 1) 0xFFFF, feed := a + 2 + n + b2n ckr, strs := strs }
      streamAdvance src dst n (combIssue x n)) s
    if ld then loadStart c m (!mp) wgt i s else s

/-! ### Self-test (R272) and states (R234, R276, R314) -/

/-- Every failing row and column is covered by the repair in force (R272): a spare that is in use must not fail, since the row or column it
replaces is then not covered. `cols`: [31:0] data, [32] and [33] checksum
columns, [34] spare column, [35] spare row. -/
def bistPass (s : State) (pg : Nat) (rows : Word) (cols : BitVec 36) : Bool :=
  let v := getR s pg R.MXA_REPAIR
  (List.range 32).all (fun i => !bit rows i || (bit v 31 && decide (fld v 24 5 = i))) &&
  (List.range 34).all (fun i => !bit cols i || (bit v 15 && decide (fld v 0 6 = i))) &&
  !(bit cols 34 && bit v 15) && !(bit cols 35 && bit v 31)

/-- The result of an array self-test recorded (R277). -/
def bistRecord (pg : Nat) (rows : Word) (cols : BitVec 36) (s : State) : State :=
  setR pg R.MXA_BIST_MISC (BitVec.ofNat 32 (0x80000000 + b2n (bit cols 34) * 8 + b2n (bit cols 35) * 4 + b2n (bit cols 33) * 2 + b2n (bit cols 32)))
    (setR pg R.MXA_BIST_COLS (BitVec.ofNat 32 cols.toNat) (setR pg R.MXA_BIST_ROWS rows s))

/-- A page is an MXA page that the chiplet has. -/
def isMxaPage (pg : Nat) : Bool := match pageBlk pg with | some (.mxa, i) => kindHas .mxa (i / 2) | _ => false

/-- MXA_ACTION.BIST (R272, R277): in Stopped the self-test begins; elsewhere it has no effect and sets HDR_IGNORED.RWS. DONE is cleared; what
the last self-test found stands until this one ends (R271). -/
def bistStart (pg : Nat) (s : State) : State :=
  if bstate s pg = B.stopped then
    { setF pg R.MXA_BIST_MISC 31 1 0 s with bist := if s.bist.contains pg then s.bist else s.bist ++ [pg] }
  else ignoredRws pg R.MXA_ACTION s

/-- The rerun self-test completes: an array that passes stays Stopped, a failure records SELFTEST. -/
def bistFinish (pg : Nat) (rows : Word) (cols : BitVec 36) (s : State) : State :=
  if s.bist.contains pg then
    let ok := bistPass s pg rows cols
    let s := bistRecord pg rows cols { s with bist := s.bist.filter (· ≠ pg) }
    if ok then s else fault pg 0 s
  else s

/-- The array of START with RESUME = 0 (R234): planes invalid, plane 0 active, generator seeded. -/
def arrReset (c : Nat) (m : Bool) (s : State) : State :=
  setR (mPg c m) R.MXA_FLAGS 0 (setArr c m { Arr.init with gen := seedOf (getR s (mPg c m) R.MXA_SEED) } s)

/-- Both planes invalid, and no load or stream under way (R237, R276). -/
def planesDrop (c : Nat) (m : Bool) (s : State) : State :=
  updArr c m (fun x => { x with p0 := { x.p0 with valid := false }, p1 := { x.p1 with valid := false }, loads := [], strs := [] }) s

/-- The combiner closes (R314). -/
def combClose (c : Nat) (m : Bool) (s : State) : State :=
  updArr c m (fun x => { x with open_ := false, acc := [], res := [] }) s

/-! ### The commands -/

/-- M-slot NOP (R168, R240). -/
def execMNop (c : Nat) (_m : Bool) (s : State) : Host.Outcome State Fault Refusal := onUnit c nSites (fun s => s) s

/-- MODE. -/
def execMode (c : Nat) (m : Bool) (ifmt wfmt : BitVec 4) (ofmt : BitVec 3) (rnd split drain : Bool) (mfsh : BitVec 5) (mfop : BitVec 2)
    (s : State) : Host.Outcome State Fault Refusal :=
  onUnit c nSites (mOp c m (fun _ => modeAt c m (modeWord ifmt wfmt ofmt rnd split drain mfsh mfop))) s

/-- SETA. -/
def execSeta (c : Nat) (m : Bool) (ar : BitVec 3) (sreg : BitVec 8) (s : State) : Host.Outcome State Fault Refusal :=
  onUnit c nSites (mOp c m (setaAt c m ar sreg)) s

/-- SETAI. -/
def execSetai (c : Nat) (m : Bool) (ar : BitVec 3) (off : BitVec 22) (s : State) : Host.Outcome State Fault Refusal :=
  onUnit c nSites (mOp c m (fun _ => setaiAt c m ar off)) s

/-- SETCNT. -/
def execSetcnt (c : Nat) (m : Bool) (sreg : BitVec 8) (s : State) : Host.Outcome State Fault Refusal :=
  onUnit c nSites (mOp c m (setcntAt c m sreg)) s

/-- M-slot LD. -/
def execMLd (c : Nat) (m : Bool) (wgt : BitVec 3) (s : State) : Host.Outcome State Fault Refusal :=
  onUnit c nSites (mOp c m (mLdAt c m wgt)) s

/-- STREAM. -/
def execStream (c : Nat) (m : Bool) (sw ld acc ckr : Bool) (src dst wgt : BitVec 3) (count : BitVec 12) (s : State) :
    Host.Outcome State Fault Refusal :=
  onUnit c nSites (mOp c m (streamAt c m sw ld acc ckr src.toNat dst.toNat wgt.toNat count)) s

/-- BIST. -/
def execBist (pg : Nat) (s : State) : Host.Outcome State Fault Refusal :=
  if isMxaPage pg then act s (if bstate s pg = B.absent then s else bistStart pg s) else .fault .noSuchUnit

/-- BIST_DONE. -/
def execBistDone (pg : Nat) (rows : Word) (cols : BitVec 36) (s : State) : Host.Outcome State Fault Refusal :=
  if isMxaPage pg then act s (bistFinish pg rows cols s) else .fault .noSuchUnit

end Sys2Proof.Machine
end

