-- ==== Sys2Proof/Machine/Sfu.lean ====
section
/-! DEFINITION. The special functions (R358, R359) and the exponentials of the softmax sequence (R361, R364). The manual
gives each result a bound, not a value: the model computes the exact function to well beyond the output format, lists the
values within the bound, and lets `Config.sfuPick` choose among them. -/

namespace Sys2Proof.Machine

/-- Sticky flags of a vector slot (R350). -/
abbrev vInvalid : Nat := 1
abbrev vOverflow : Nat := 2
abbrev vUnderflow : Nat := 4
abbrev vInexact : Nat := 8
abbrev vDivzero : Nat := 16
abbrev vEmpty : Nat := 32

/-- Fractional bits of the fixed-point values of this file. -/
abbrev fx : Nat := 160

/-- `2^(2^-j)` for j = 1, 2, … as fixed-point roots of 2, multiplied together for the set bits of a fraction (most
significant first): 2^f in fixed point. -/
def exp2Bits : Nat → Nat → Nat → Nat → Nat
  | 0, _, _, acc => acc
  | n + 1, f, root, acc =>
    let root' := Nat.sqrt (root * 2 ^ fx)
    let f2 := 2 * f
    if 2 ^ fx ≤ f2 then exp2Bits n (f2 - 2 ^ fx) root' (acc * root' / 2 ^ fx) else exp2Bits n f2 root' acc

/-- 2^f for 0 ≤ f < 1 in fixed point, between 1 and 2. -/
def exp2Frac (f : Nat) : Nat := exp2Bits 130 f (2 * 2 ^ fx) (2 ^ fx)

/-- The integral and fractional parts of (−1)^neg m 2^e: floor, and the fraction in fixed point. -/
def floorFrac (neg : Bool) (m : Nat) (e : Int) : Int × Nat :=
  let n := if 0 ≤ e then m * 2 ^ e.toNat else m / 2 ^ (-e).toNat
  let r := if 0 ≤ e then 0 else m % 2 ^ (-e).toNat
  let f := if 0 ≤ e then 0 else r * 2 ^ fx / 2 ^ (-e).toNat
  if neg then (if r = 0 then (-(n : Int), 0) else (-(n : Int) - 1, Nat.min (2 ^ fx - f) (2 ^ fx - 1)))
  else ((n : Int), f)

/-- A value is integral. -/
def integral (m : Nat) (e : Int) : Bool := decide (0 ≤ e) || decide (m % 2 ^ (-e).toNat = 0)

/-- The fractional bits of log2 of a fixed-point number between 1 and 2, by squaring. -/
def log2Bits : Nat → Nat → Nat → Nat
  | 0, _, acc => acc
  | n + 1, y, acc =>
    let z := y * y / 2 ^ fx
    if 2 * 2 ^ fx ≤ z then log2Bits n (z / 2) (2 * acc + 1) else log2Bits n z (2 * acc)

/-- log2 (m 2^e) as a signed fixed-point number with 120 fractional bits. -/
def log2Fx (m : Nat) (e : Int) : Int :=
  let y := m * 2 ^ fx / 2 ^ m.log2
  (expOf m e) * (2 : Int) ^ 120 + (log2Bits 120 y 0 : Nat)

/-- log2 e with 192 fractional bits. -/
def log2e : Nat := 9055943544797870567083544809312461607371518589544137143473

/-- tanh of a positive finite value, as a fraction below 1: numerator and exponent of a lower bound. -/
def tanhFx (m : Nat) (e : Int) : Nat × Int :=
  if expOf m e < -13 then
    -- x − x³ / 3, with 300 further bits
    let p : Int := -2 * e + 300
    (m * (3 * 2 ^ p.toNat - m * m * 2 ^ (p + 2 * e).toNat) / 3, e - p)
  else if 4 < expOf m e then (2 ^ fx - 1, -(fx : Int))
  else
    -- 1 − 2 / (2^(2 x log2 e) + 1)
    let (n, f) := floorFrac false (2 * m * log2e) (e - 192)
    let E := exp2Frac f * 2 ^ n.toNat
    (2 ^ fx - 2 * 2 ^ fx * 2 ^ fx / (E + 2 ^ fx) - 1, -(fx : Int))

/-- The unit in the last place of a magnitude in format `f`, as an exponent (R262, R358). -/
def ulpOf (f : Fmt) (m : Nat) (e : Int) : Int :=
  (if m = 0 ∨ expOf m e < 1 - (f.bias : Int) then 1 - (f.bias : Int) else expOf m e) - f.mw

/-- A magnitude rounded to a code, 0 for 0. -/
def magCode (f : Fmt) (r : Rnd) (m : Nat) (e : Int) : Nat := if m = 0 then 0 else (roundMag f r false m e).1

/-- The codes of format `f` whose magnitudes lie within k × 2^u of an exact magnitude between m × 2^e and (m + 1) × 2^e, of its sign; one
of them picked. A magnitude of 0 stands for one below every other. -/
def pickCode (f : Fmt) (m : Nat) (e : Int) (k : Nat) (u : Int) (pick : Nat) : Nat :=
  let g := min e u
  let b := k * 2 ^ (u - g).toNat
  let lo := if m = 0 then 0 else magCode f .up ((m + 1) * 2 ^ (e - g).toNat - b) g
  let hi := Nat.min (magCode f .zero (m * 2 ^ (e - g).toNat + b) g) f.maxMag
  lo + pick % (hi - lo + 1)

/-- A result that is not exact, within k × 2^u: its code and flags; a magnitude beyond the largest finite one is an infinity. -/
def sfuWithin (f : Fmt) (neg : Bool) (m : Nat) (e : Int) (k : Nat) (u : Int) (pick : Nat) : Nat × Nat :=
  if f.maxMag < magCode f .zero m e then (f.signOf neg + f.infMag, vOverflow + vInexact)
  else (f.signOf neg + pickCode f m e k u pick, vInexact + (if m = 0 ∨ belowNormal f m e then vUnderflow else 0))

/-- The same within `k` units in the last place of the exact result. -/
def sfuResult (f : Fmt) (neg : Bool) (m : Nat) (e : Int) (k pick : Nat) : Nat × Nat := sfuWithin f neg m e k (ulpOf f m e) pick

/-- An exact result. -/
def sfuExact (f : Fmt) (x : Num) : Nat × Nat :=
  let (b, fl) := convert f .near x
  (b, if fl = fOverflow then vOverflow + vInexact else 0)

/-- EXP2 of an exact value into format `f`. -/
def exp2Num (f : Fmt) (pick : Nat) : Num → Nat × Nat
  | .nan => (f.nanCode, vInvalid)
  | .inf true => (0, 0)
  | .inf false => (f.infMag, 0)
  | .fin neg m e =>
    let (n, fr) := floorFrac neg m e
    if integral m e ∧ (1 - (f.bias : Int) - f.mw ≤ n) then
      if (f.bias : Int) < n then (f.infMag, vOverflow + vInexact) else sfuExact f (.fin false 1 n)
    else if n < -2000 then sfuResult f false 0 0 1 pick
    else if 2000 < n then (f.infMag, vOverflow + vInexact)
    else sfuResult f false (exp2Frac fr) (n - (fx : Int)) 1 pick

/-- LOG2 (R358, R359): in F32 the absolute bound 2^−22 governs where it is the larger. -/
def log2Num (f : Fmt) (pick : Nat) : Num → Nat × Nat
  | .nan => (f.nanCode, vInvalid)
  | .inf true => (f.nanCode, vInvalid)
  | .inf false => (f.infMag, 0)
  | .fin neg m e =>
    if m = 0 then (f.signOf true + f.infMag, vDivzero)
    else if neg then (f.nanCode, vInvalid)
    else
      let y := log2Fx m e
      if m = 2 ^ m.log2 then sfuExact f (.ofInt (expOf m e))
      else
        let mag := if y < 0 then (-y).toNat - 1 else y.toNat
        let q : Int := -120
        sfuWithin f (decide (y < 0)) mag q 1 (if f = Fmt.f32 then max (ulpOf f mag q) (-22) else ulpOf f mag q) pick

/-- RCP (R358, R359). -/
def rcpNum (f : Fmt) (pick : Nat) : Num → Nat × Nat
  | .nan => (f.nanCode, vInvalid)
  | .inf s => (f.signOf s, 0)
  | .fin neg m e =>
    if m = 0 then (f.signOf neg + f.infMag, vDivzero)
    else if m = 2 ^ m.log2 then sfuExact f (.fin neg 1 (-(expOf m e)))
    else sfuResult f neg (2 ^ (fx + m.log2) / m) (-e - (fx : Int) - m.log2) 1 pick

/-- RSQRT (R358, R359). -/
def rsqrtNum (f : Fmt) (pick : Nat) : Num → Nat × Nat
  | .nan => (f.nanCode, vInvalid)
  | .inf true => (f.nanCode, vInvalid)
  | .inf false => (0, 0)
  | .fin neg m e =>
    if m = 0 then (f.signOf neg + f.infMag, vDivzero)
    else if neg then (f.nanCode, vInvalid)
    else
      -- even exponent
      let (m, e) := if e % 2 = 0 then (m, e) else (2 * m, e - 1)
      if m = 2 ^ m.log2 ∧ m.log2 % 2 = 0 then sfuExact f (.fin false 1 (-((m.log2 : Int) + e) / 2))
      else sfuResult f false (Nat.sqrt (2 ^ (2 * fx + 2 * m.log2) / m)) (-(e / 2) - (fx : Int) - m.log2) 1 pick

/-- TANH (R358, R359): 2 ulp in F32. -/
def tanhNum (f : Fmt) (pick : Nat) : Num → Nat × Nat
  | .nan => (f.nanCode, vInvalid)
  | .inf s => sfuExact f (.fin s 1 0)
  | .fin neg m e =>
    if m = 0 then (f.signOf neg, 0)
    else
      let (n, q) := tanhFx m e
      sfuResult f neg n q (if f = Fmt.f32 then 2 else 1) pick

/-- exp2 of the exact difference of two finite values, within the EXP2 bound, as an FP32 value (R361). -/
def exp2Diff (x m : Num) (pick : Nat) : Num × Nat :=
  let (b, fl) := exp2Num .f32 pick (x.add m.neg)
  (decodeNum .f32 b, fl)

/-- The quotient 2^d / l of a finite exact d and a finite non-zero l into format `f` (R362, R364): correctly rounded where d
is integral, else within the bound. -/
def smxQuot (f : Fmt) (d l : Num) (pick : Nat) : Nat × Nat :=
  match d, l with
  | .fin dn dm de, .fin ln lm le =>
    let (n, fr) := floorFrac dn dm de
    let n := if n < -2000 then -2000 else if 2000 < n then 2000 else n
    let q := exp2Frac fr * 2 ^ (fx + lm.log2) / lm
    let e := n - 2 * (fx : Int) - lm.log2 - le
    if integral dm de then
      -- one rounding of the exact quotient: a sticky bit below stands for the remainder
      let p := 2 ^ (fx + lm.log2)
      let sticky := 2 * (p / lm) + (if p % lm = 0 then 0 else 1)
      let v := Num.fin ln sticky (n - (fx : Int) - lm.log2 - le - 1)
      let (b, fl) := convert f .near v
      (b, (if fl = fOverflow then vOverflow + vInexact else if fl = fUnderflow then vUnderflow + vInexact
           else if decodeNum f b = v ∨ (v.add (decodeNum f b).neg).isZero then 0 else vInexact))
    else sfuResult f ln q e (if f = Fmt.f32 then 2 else 1) pick
  | _, _ => (f.nanCode, vInvalid)

end Sys2Proof.Machine
end

