-- ==== Sys2Proof/Machine/Vec.lean ====
section
/-! DEFINITION. The vector engines (R318–R367): registers and masks with the visibility of R333 and R334, element-wise
arithmetic, conversions, logic, masks, compress and expand, reductions, scratchpad access, the special functions and the
softmax sequence. -/

namespace Sys2Proof.Machine

/-! ### Types (R318–R320) -/

/-- Lanes of the engine for the kind a core runs as (R318, R319). -/
def vLanes (s : State) (c : Nat) : Nat := if runsAs s c = some 1 then 256 else 64

/-- The engine has the SFU and binary64. -/
def vFull (s : State) (c : Nat) : Bool := runsAs s c = some 1

/-- Width of an element type; codes 6–8 are the 8-bit types of conversions. -/
def tWidth (t : Nat) : Nat := match t with | 0 | 3 => 32 | 1 | 2 | 4 => 16 | 5 => 64 | _ => 8

/-- Elements of a type in a register of `l` lanes. -/
def tCount (l t : Nat) : Nat := 32 * l / tWidth t

/-- Float types and their formats. -/
def tFloat (t : Nat) : Bool := match t with | 0 | 1 | 2 | 5 | 6 | 7 => true | _ => false
def tFmt (t : Nat) : Fmt := match t with | 1 => .bf16 | 2 => .f16 | 5 => .f64 | 6 => .e4m3 | 7 => .e5m2 | _ => .f32

/-- Element `e` of a register. -/
def getE (v : BitVec 8192) (t e : Nat) : Nat := v.toNat >>> (e * tWidth t) % 2 ^ tWidth t

/-- A code as a value. -/
def eNum (t bits : Nat) : Num := if tFloat t then decodeNum (tFmt t) bits else .ofInt (signedOf (tWidth t) bits)

/-- An integer wrapped to a type. -/
def eWrap (t : Nat) (i : Int) : Nat := (i.emod (2 ^ tWidth t : Nat)).toNat

/-- Elements side by side, first element lowest. -/
def packE (w : Nat) : List Nat → Nat
  | [] => 0
  | v :: t => v + 2 ^ w * packE w t

/-! ### Registers, masks and flags (R322, R333–R335) -/

/-- A register or mask as an operation issued at stepped index `i` sees it: the writes visible to it, in issue order. -/
def vSeen (x : Vec) (file idx i : Nat) (base : BitVec 8192) : BitVec 8192 :=
  let l := x.pend.filter (fun w => w.file = file ∧ w.idx = idx ∧ w.vis ≤ i)
  let sorted := l.foldl (fun (a : List VPend) w => a.filter (fun y => y.iss ≤ w.iss) ++ [w] ++ a.filter (fun y => w.iss < y.iss)) []
  sorted.foldl (fun v w => (v &&& ~~~ w.en) ||| (w.val &&& w.en)) base

/-- A vector register as seen at `i`. -/
def rdV (x : Vec) (r i : Nat) : BitVec 8192 := vSeen x 0 r i (Tab.get 0 x.v r)

/-- A mask as seen at `i`; m0 reads as all ones. -/
def rdM (x : Vec) (k i : Nat) : BitVec 512 :=
  if k = 0 then BitVec.allOnes 512 else (vSeen x 1 k i ((Tab.get 0 x.m k).zeroExtend 8192)).truncate 512

/-- A result sent toward a register: elements that are `none` keep their value. -/
def wrV (x : Vec) (slot : Bool) (d i lat w : Nat) (els : List (Option Nat)) : Vec :=
  { x with pend := x.pend ++ [{ file := 0, idx := d, val := BitVec.ofNat 8192 (packE w (els.map (·.getD 0))),
                                en := BitVec.ofNat 8192 (packE w (els.map (fun e => if e.isSome then 2 ^ w - 1 else 0))),
                                iss := 2 * i + b2n slot, vis := i + lat }] }

/-- A mask result: every bit of the mask is written; writes to m0 are ignored. -/
def wrM (x : Vec) (slot : Bool) (d i lat : Nat) (v : Nat) : Vec :=
  if d = 0 then x
  else { x with pend := x.pend ++ [{ file := 1, idx := d, val := BitVec.ofNat 8192 v, en := BitVec.allOnes 8192, iss := 2 * i + b2n slot, vis := i + lat }] }

/-- Flags of an operation, raised when its result becomes visible (R335). -/
def wrFl (x : Vec) (slot : Bool) (i lat fl : Nat) : Vec :=
  if fl = 0 then x else { x with pendFl := x.pendFl ++ [{ slot := slot, flags := fl, vis := i + lat }] }

/-- VEC_FLAGS with the flags visible at stepped index `i` (R366). -/
def vecFlags (s : State) (c i : Nat) : Nat :=
  ((vecAt s c).pendFl.filter (fun p => p.vis ≤ i)).foldl (fun v p => v ||| (p.flags <<< (if p.slot then 8 else 0)))
    (getN s (Pg.vec c) R.VEC_FLAGS)

/-- Results and flags that every later operation sees go into the files; flags raised in the cycle of a later VFLAGS stay
apart from what it clears (R335). -/
def vecSettle (c i : Nat) (s : State) : State :=
  let x := vecAt s c
  if x.pend.isEmpty ∧ x.pendFl.isEmpty then s
  else
    let oldest := fun (w : VPend) => !(x.pend.any (fun y => y.file = w.file ∧ y.idx = w.idx ∧ i < y.vis ∧ y.iss < w.iss))
    let done := x.pend.filter (fun w => w.vis ≤ i ∧ oldest w)
    let keys := (done.map (fun w => (w.file, w.idx))).eraseDups
    let keep := { x with pend := x.pend.filter (fun w => ¬ (w.vis ≤ i ∧ oldest w)) }
    let y := keys.foldl (fun (a : Vec) k =>
      let only := { x with pend := done }
      if k.1 = 0 then { a with v := Tab.store 0 a.v k.2 (rdV only k.2 i) } else { a with m := Tab.store 0 a.m k.2 (rdM only k.2 i) }) keep
    let fl := (x.pendFl.filter (fun p => p.vis < i)).foldl (fun v p => v ||| (p.flags <<< (if p.slot then 8 else 0))) (getN s (Pg.vec c) R.VEC_FLAGS)
    setR (Pg.vec c) R.VEC_FLAGS (BitVec.ofNat 32 fl) (setVec c { y with pendFl := x.pendFl.filter (fun p => ¬ p.vis < i) } s)

/-- A vector engine changed. -/
def updVec (c : Nat) (f : Vec → Vec) (s : State) : State := setVec c (f (vecAt s c)) s

/-! ### Issue (R326, R329, R330, R332) -/

/-- An operation records causes (bits 8 OPCODE, 9 TYPE, 10 ADDRESS): VEC_ERR names the first. -/
def vCause (c : Nat) (slot : Bool) (op bits : Nat) (s : State) : State :=
  raise (.page (Pg.vec c) bits)
    (firstR (Pg.vec c) R.VEC_ERR (b2n slot * 2 ^ 30 + op * 2 ^ 20 + (coreAt s c).pos % 4096) s)

/-- Unit number of a V slot (R200). -/
def vUnit (slot : Bool) : Nat := if slot then 3 else 4

/-- A V-slot operation other than NOP reaches its slot: squashed, discarded with CORE on an engine that is not Running
(R332), performed as a NOP where it records a cause, or performed at the core's stepped index. -/
def vOp (c : Nat) (slot : Bool) (op : Nat) (causes : State → Nat) (f : Nat → State → State) (s : State) : State :=
  let k := coreAt s c
  if squashed k (vUnit slot) then s
  else if runs s (Pg.vec c) then
    let b := causes s
    if b ≠ 0 then vCause c slot op b s else f k.steps s
  else ptnFaultOf (ptnOfSite s c) PC.core s

/-- A type that the operation and the engine have. -/
def tOk (s : State) (c : Nat) (types : List Nat) (t : Nat) : Bool := types.contains t && (decide (t ≠ 5) || vFull s c)

abbrev allTypes : List Nat := [0, 1, 2, 3, 4, 5]
abbrev floatTypes : List Nat := [0, 1, 2, 5]
abbrev intTypes : List Nat := [3, 4]
abbrev sfuTypes : List Nat := [0, 1, 2]

/-- Cause bits from an OPCODE and a TYPE condition. -/
def causeBits (opcode type : Bool) : Nat := b2n opcode * 2 ^ 8 + b2n type * 2 ^ 9

/-- Governed writes (R329): results by element under mask and MZ. -/
def governed (m : BitVec 512) (mz : Bool) (els : List Nat) : List (Option Nat) :=
  (els.zip (List.range els.length)).map (fun e => if bit m e.2 then some e.1 else if mz then some 0 else none)

/-- Flags of the elements whose mask bit is 1. -/
def governedFl (m : BitVec 512) (fls : List Nat) : Nat :=
  (fls.zip (List.range fls.length)).foldl (fun a e => if bit m e.2 then a ||| e.1 else a) 0

/-- The latency of an arithmetic operation (R328). -/
def arLat (t : Nat) : Nat := if t = 5 then 6 else if tFloat t then 4 else 2

/-! ### Rounding and draws (R343, R349) -/

/-- A result rounded to a type, with the flags of R350. -/
def vConv (f : Fmt) (r : Rnd) (x : Num) : Nat × Nat :=
  let (b, fl) := convert f r x
  match x with
  | .fin neg m e =>
    let inexact := decide (m ≠ 0) && (decide (fl = fOverflow) || !(roundMag f r neg m e).2)
    (b, fl ||| (if inexact then vInexact else 0))
  | _ => (b, fl)

/-- One draw for each element position, in ascending order within its lane group. -/
def vDraws (w : Nat) : List Nat → Tab Word → List Nat × Tab Word
  | [], g => ([], g)
  | e :: t, g =>
    let k := e * w / 1024
    let d := xorshift (seedOf (Tab.get 0 g k))
    let (l, g') := vDraws w t (Tab.store 0 g k d)
    (d.toNat :: l, g')

/-- Rounding of each element: by draws where SR = 1, else to nearest even. -/
def vRounds (sr : Bool) (w : Nat) (pos : List Nat) (x : Vec) : List Rnd × Vec :=
  if sr then
    let (l, g) := vDraws w pos x.gens
    (l.map Rnd.draw, { x with gens := g })
  else (pos.map (fun _ => Rnd.near), x)

/-! ### Element-wise operations -/

/-- Total order of R345: −0 below +0. -/
def numLt (a b : Num) : Bool := a.lt b || (a.isZero && b.isZero && a.sign && !b.sign)

/-- Minimum and maximum (R345): NaN if either is NaN, A if equal. -/
def numMin (a b : Num) : Num := if a.isNan || b.isNan then .nan else if numLt b a then b else a
def numMax (a b : Num) : Num := if a.isNan || b.isNan then .nan else if numLt a b then b else a

/-- An element-wise operation of three sources on codes of type `t`: result codes and flags. -/
def vElem (t : Nat) (g : Rnd → Nat → Nat → Nat → Nat × Nat) (rs : List Rnd) (a b c : BitVec 8192) : List (Nat × Nat) :=
  (rs.zip (List.range rs.length)).map (fun e => g e.1 (getE a t e.2) (getE b t e.2) (getE c t e.2))

/-- The body of a VR operation that writes each element of D under M (R329). -/
def vrBody (c : Nat) (f : VR) (sr : Bool) (lat : Nat) (g : Rnd → Nat → Nat → Nat → Nat × Nat) (i : Nat) (s : State) : State :=
  let x := vecAt s c
  let t := f.t.toNat
  let n := tCount (vLanes s c) t
  let (rs, x) := vRounds (sr && tFloat t) (tWidth t) (List.range n) x
  let els := vElem t g rs (rdV x f.a.toNat i) (rdV x f.b.toNat i) (rdV x f.c.toNat i)
  let m := rdM x f.m.toNat i
  setVec c (wrFl (wrV x false f.d.toNat i lat (tWidth t) (governed m f.mz (els.map (·.1)))) false i lat (governedFl m (els.map (·.2)))) s

/-- A float operation by its exact result, an integer one by its exact integer wrapped (R343, R347). -/
def arith (t : Nat) (fx : Num → Num → Num → Num) (ix : Int → Int → Int → Int) (r : Rnd) (a b c : Nat) : Nat × Nat :=
  if tFloat t then vConv (tFmt t) r (fx (eNum t a) (eNum t b) (eNum t c))
  else (eWrap t (ix (signedOf (tWidth t) a) (signedOf (tWidth t) b) (signedOf (tWidth t) c)), 0)

/-- MOD and C bits that an operation names: the others must be 0 (R328). -/
def modBad (f : VR) (names : Nat) : Bool := decide (f.md.toNat &&& (31 ^^^ names) ≠ 0)

/-- An operation of the first group of R328: types, MOD bits named, C used. -/
def vrCauses (c : Nat) (f : VR) (types : List Nat) (mods : Nat) (useC : Bool) (s : State) : Nat :=
  causeBits (modBad f mods || (!useC && decide (f.c ≠ 0))) (!tOk s c types f.t.toNat)

/-- VADD. -/
def vaddAt (c : Nat) (f : VR) (i : Nat) (s : State) : State :=
  vrBody c f (bit f.md 4) (arLat f.t.toNat) (arith f.t.toNat (fun a b _ => a.add b) (fun a b _ => a + b)) i s

/-- VSUB. -/
def vsubAt (c : Nat) (f : VR) (i : Nat) (s : State) : State :=
  vrBody c f (bit f.md 4) (arLat f.t.toNat) (arith f.t.toNat (fun a b _ => a.add b.neg) (fun a b _ => a - b)) i s

/-- VMUL. -/
def vmulAt (c : Nat) (f : VR) (i : Nat) (s : State) : State :=
  vrBody c f (bit f.md 4) (arLat f.t.toNat) (arith f.t.toNat (fun a b _ => a.mul b) (fun a b _ => a * b)) i s

/-- VFMA: A × B + C, one rounding. -/
def vfmaAt (c : Nat) (f : VR) (i : Nat) (s : State) : State :=
  vrBody c f (bit f.md 4) (arLat f.t.toNat) (arith f.t.toNat (fun a b d => (a.mul b).add d) (fun a b d => a * b + d)) i s

/-- VFMS: A × B − C. -/
def vfmsAt (c : Nat) (f : VR) (i : Nat) (s : State) : State :=
  vrBody c f (bit f.md 4) (arLat f.t.toNat) (arith f.t.toNat (fun a b d => (a.mul b).add d.neg) (fun a b d => a * b - d)) i s

/-- VFNMA: C − A × B. -/
def vfnmaAt (c : Nat) (f : VR) (i : Nat) (s : State) : State :=
  vrBody c f (bit f.md 4) (arLat f.t.toNat) (arith f.t.toNat (fun a b d => d.add (a.mul b).neg) (fun a b d => d - a * b)) i s

/-- Integer order of two codes, unsigned with U (R328, R345, R346). -/
def codeLt (t : Nat) (u : Bool) (a b : Nat) : Bool :=
  if u then decide (a < b) else decide (signedOf (tWidth t) a < signedOf (tWidth t) b)

/-- Minimum or maximum of two codes. -/
def minMax (t : Nat) (u max : Bool) (_r : Rnd) (a b _c : Nat) : Nat × Nat :=
  if tFloat t then
    let x := eNum t a
    let y := eNum t b
    if x.isNan || y.isNan then ((tFmt t).nanCode, vInvalid)
    else if max then (if numLt x y then (b, 0) else (a, 0)) else (if numLt y x then (b, 0) else (a, 0))
  else if max then (if codeLt t u a b then (b, 0) else (a, 0)) else (if codeLt t u b a then (b, 0) else (a, 0))

/-- VMIN and VMAX. -/
def vminAt (c : Nat) (f : VR) (i : Nat) (s : State) : State := vrBody c f false (arLat f.t.toNat) (minMax f.t.toNat (bit f.md 3) false) i s
def vmaxAt (c : Nat) (f : VR) (i : Nat) (s : State) : State := vrBody c f false (arLat f.t.toNat) (minMax f.t.toNat (bit f.md 3) true) i s

/-- VABS: the sign bit cleared, or the wrapping absolute value. -/
def vabsAt (c : Nat) (f : VR) (i : Nat) (s : State) : State :=
  let t := f.t.toNat
  vrBody c f false 1 (fun _ a _ _ =>
    (if tFloat t then a % 2 ^ (tWidth t - 1) else eWrap t (signedOf (tWidth t) a).natAbs, 0)) i s

/-- VNEG: the sign bit inverted, or 0 − A. -/
def vnegAt (c : Nat) (f : VR) (i : Nat) (s : State) : State :=
  let t := f.t.toNat
  vrBody c f false 1 (fun _ a _ _ =>
    (if tFloat t then (if a.testBit (tWidth t - 1) then a - 2 ^ (tWidth t - 1) else a + 2 ^ (tWidth t - 1)) else eWrap t (-(signedOf (tWidth t) a)), 0)) i s

/-- A rounded to an integral value (R328). -/
def rintNum : Num → Num
  | .fin neg m e => if 0 ≤ e then .fin neg m e else .fin neg (roundAt .near neg m e 0).1 0
  | v => v

/-- VRINT. -/
def vrintAt (c : Nat) (f : VR) (i : Nat) (s : State) : State :=
  let t := f.t.toNat
  vrBody c f false (arLat t) (fun _ a _ _ =>
    let x := eNum t a
    let (b, fl) := vConv (tFmt t) .near (rintNum x)
    (b, fl ||| (match x with
      | .fin neg m e => if (roundAt .near neg m e 0).2 then 0 else if belowNormal (tFmt t) m e then vInexact + vUnderflow else vInexact
      | _ => 0))) i s

/-- A VCMP condition (R346) on codes: the bit, and whether INVALID is raised. -/
def vCond (t : Nat) (u : Bool) (cond a b : Nat) : Bool × Bool :=
  if tFloat t then
    let x := eNum t a
    let y := eNum t b
    if x.isNan || y.isNan then (decide (cond = 1) || decide (cond = 6), decide (2 ≤ cond) && decide (cond ≤ 5))
    else
      let eq := !(x.lt y) && !(y.lt x)
      (match cond with | 0 => eq | 1 => !eq | 2 => x.lt y | 3 => x.lt y || eq | 4 => y.lt x | 5 => y.lt x || eq | _ => false, false)
  else
    (match cond with
     | 0 => decide (a = b) | 1 => decide (a ≠ b) | 2 => codeLt t u a b | 3 => !codeLt t u b a | 4 => codeLt t u b a
     | 5 => !codeLt t u a b | _ => false, false)

/-- VCMP: the mask result is 0 at masked elements (R329). -/
def vcmpAt (c : Nat) (f : VR) (i : Nat) (s : State) : State :=
  let x := vecAt s c
  let t := f.t.toNat
  let n := tCount (vLanes s c) t
  let m := rdM x f.m.toNat i
  let a := rdV x f.a.toNat i
  let b := rdV x f.b.toNat i
  let rs := (List.range n).map (fun e => vCond t (bit f.md 3) (fld f.md 0 3) (getE a t e) (getE b t e))
  let bits := (rs.zip (List.range n)).map (fun e => b2n (e.1.1 && bit m e.2))
  let fl := governedFl m (rs.map (fun r => if r.2 then vInvalid else 0))
  setVec c (wrFl (wrM x false (f.d.toNat % 8) i 1 (packE 1 bits)) false i 1 fl) s

/-- VSEL writes every element: A where the mask bit is 1, else B. -/
def vselAt (c : Nat) (f : VR) (i : Nat) (s : State) : State :=
  let x := vecAt s c
  let t := f.t.toNat
  let n := tCount (vLanes s c) t
  let m := rdM x f.m.toNat i
  let a := rdV x f.a.toNat i
  let b := rdV x f.b.toNat i
  setVec c (wrV x false f.d.toNat i 1 (tWidth t) ((List.range n).map (fun e => some (if bit m e then getE a t e else getE b t e)))) s

/-- VMOV. -/
def vmovAt (c : Nat) (f : VR) (i : Nat) (s : State) : State := vrBody c f false 1 (fun _ a _ _ => (a, 0)) i s

/-- VAND, VOR, VXOR on bit patterns (R347). -/
def vandAt (c : Nat) (f : VR) (i : Nat) (s : State) : State := vrBody c f false 1 (fun _ a b _ => (a &&& b, 0)) i s
def vorAt (c : Nat) (f : VR) (i : Nat) (s : State) : State := vrBody c f false 1 (fun _ a b _ => (a ||| b, 0)) i s
def vxorAt (c : Nat) (f : VR) (i : Nat) (s : State) : State := vrBody c f false 1 (fun _ a b _ => (a ^^^ b, 0)) i s

/-- Shifts by B[4:0] (I32) or B[3:0] (I16). -/
def vshlAt (c : Nat) (f : VR) (i : Nat) (s : State) : State :=
  let w := tWidth f.t.toNat
  vrBody c f false 1 (fun _ a b _ => (a * 2 ^ (b % w) % 2 ^ w, 0)) i s
def vshrAt (c : Nat) (f : VR) (i : Nat) (s : State) : State :=
  let w := tWidth f.t.toNat
  vrBody c f false 1 (fun _ a b _ => (a / 2 ^ (b % w), 0)) i s
def vsraAt (c : Nat) (f : VR) (i : Nat) (s : State) : State :=
  let w := tWidth f.t.toNat
  vrBody c f false 1 (fun _ a b _ => (eWrap f.t.toNat (signedOf w a / (2 : Int) ^ (b % w)), 0)) i s

/-! ### Conversions (R348) -/

/-- An integral value clamped to a signed type: the code and whether it saturated. -/
def clampInt (t : Nat) (i : Int) : Nat × Bool :=
  let hi : Int := (2 : Int) ^ (tWidth t - 1) - 1
  let lo : Int := -(2 : Int) ^ (tWidth t - 1)
  if hi < i then (eWrap t hi, true) else if i < lo then (eWrap t lo, true) else (eWrap t i, false)

/-- One element converted from type `a` to type `b`. -/
def cvtElem (a b : Nat) (r : Rnd) (bits : Nat) : Nat × Nat :=
  let x := eNum a bits
  if tFloat b then vConv (tFmt b) r x
  else if tFloat a then
    match x with
    | .nan => (0, vInvalid)
    | .inf s => ((clampInt b (if s then -(2 : Int) ^ 70 else (2 : Int) ^ 70)).1, vInvalid + vOverflow)
    | .fin neg m e =>
      let (v, exact) := if 0 ≤ e then (m * 2 ^ (Nat.min e.toNat 2000), true) else roundAt .near neg m e 0
      let (code, sat) := clampInt b (if neg then -(v : Int) else v)
      (code, if sat then vInvalid + vOverflow else if exact then 0 else vInexact)
  else
    let (code, sat) := clampInt b x.toInt
    (code, if sat then vOverflow else 0)

/-- P places the part converted (R348). -/
def partOk (l a b p : Nat) : Bool :=
  let ns := tCount l a
  let nd := tCount l b
  if ns = nd then decide (p = 0) else decide ((p + 1) * Nat.min ns nd ≤ Nat.max ns nd)

/-- The mask bit of an element; an 8-bit type, which requires m0, has elements beyond the mask registers' 512 bits, and they are 1 too. -/
def maskOn (m : BitVec 512) (e : Nat) : Bool := decide (512 ≤ e) || bit m e

/-- A conversion from type `a` to type `b` under M and MZ: destination elements outside the part follow MZ. -/
def cvtBody (c : Nat) (f : VR) (a b : Nat) (sr : Bool) (i : Nat) (s : State) : State :=
  let x := vecAt s c
  let l := vLanes s c
  let ns := tCount l a
  let nd := tCount l b
  let p := fld f.c 0 3
  let pos := if nd ≤ ns then List.range nd else (List.range ns).map (· + p * ns)
  let (rs, x) := vRounds (sr && tFloat b) (tWidth b) pos x
  let v := rdV x f.a.toNat i
  let m := rdM x f.m.toNat i
  let els := (rs.zip (List.range rs.length)).map (fun e => cvtElem a b e.1 (getE v a (if nd ≤ ns then e.2 + p * nd else e.2)))
  let at_ := fun (e : Nat) => if nd ≤ ns then els[e]? else if p * ns ≤ e then els[e - p * ns]? else none
  let out := (List.range nd).map (fun e =>
    match at_ e with
    | some r => if maskOn m e then some r.1 else if f.mz then some 0 else none
    | none => if f.mz then some 0 else none)
  let fl := (List.range nd).foldl (fun z e => match at_ e with | some r => if maskOn m e then z ||| r.2 else z | none => z) 0
  setVec c (wrFl (wrV x false f.d.toNat i 3 (tWidth b) out) false i 3 fl) s

/-- VCVT. -/
def vcvtAt (c : Nat) (f : VR) (i : Nat) (s : State) : State := cvtBody c f f.t.toNat (fld f.md 0 4) (bit f.md 4) i s

/-- Causes of VCVT. -/
def vcvtCauses (c : Nat) (f : VR) (s : State) : Nat :=
  let b := fld f.md 0 4
  causeBits (decide (fld f.c 3 2 ≠ 0))
    (!tOk s c allTypes f.t.toNat || decide (8 < b) || (decide (b = 5) && !vFull s c) ||
     (decide (6 ≤ b) && decide (f.m ≠ 0)) || !partOk (vLanes s c) f.t.toNat b (fld f.c 0 3))

/-- VUNPK. -/
def vunpkAt (c : Nat) (f : VR) (i : Nat) (s : State) : State := cvtBody c f (fld f.md 0 4) f.t.toNat false i s

/-- Causes of VUNPK. -/
def vunpkCauses (c : Nat) (f : VR) (s : State) : Nat :=
  let a := fld f.md 0 4
  causeBits (decide (fld f.c 3 2 ≠ 0) || bit f.md 4)
    (!tOk s c [0, 1, 2, 3, 4] f.t.toNat || decide (a < 6) || decide (8 < a) || decide (f.m ≠ 0) ||
     !partOk (vLanes s c) a f.t.toNat (fld f.c 0 3))

/-! ### Masks (R351) -/

/-- A mask operation on all bits. -/
def maskAt (g : Nat → Nat → Nat) (c : Nat) (f : VR) (i : Nat) (s : State) : State :=
  let x := vecAt s c
  let all := 2 ^ (2 * vLanes s c)
  setVec c (wrM x false (f.d.toNat % 8) i 1 (g ((rdM x (f.a.toNat % 8) i).toNat) ((rdM x (f.b.toNat % 8) i).toNat) % all)) s

/-- Causes of the mask operations: M, MZ, T, C and MOD must be 0, and D names a mask; a T of 6 or 7 is reserved as well. -/
def maskCauses (f : VR) (_s : State) : Nat :=
  causeBits (decide (fld f.d 3 2 ≠ 0) || decide (f.m ≠ 0) || f.mz || decide (f.t ≠ 0) || decide (f.c ≠ 0) || decide (f.md ≠ 0)) (decide (5 < f.t.toNat))

/-! ### Immediates, scalars, address registers (R331, R336) -/

/-- Every element of a register written with one value. -/
def splat (c : Nat) (slot : Bool) (d t v i : Nat) (s : State) : State :=
  let n := tCount (vLanes s c) t
  updVec c (fun x => wrV x slot d i 1 (tWidth t) (List.replicate n (some (v % 2 ^ tWidth t)))) s

/-- The element that VLIS forms; a NaN is the default NaN of the type (R331, R344). -/
def vlisElem (t : Nat) (imm : BitVec 16) : Nat :=
  match t with
  | 0 => (convert .f32 .near (decodeNum .bf16 imm.toNat)).1
  | 5 => (convert .f64 .near (decodeNum .bf16 imm.toNat)).1
  | 3 => (imm.signExtend 32).toNat
  | _ => imm.toNat

/-- VLIS. -/
def vlisAt (c : Nat) (d : BitVec 5) (imm : BitVec 16) (t : BitVec 3) (i : Nat) (s : State) : State :=
  splat c false d.toNat t.toNat (vlisElem t.toNat imm) i s

/-- VBCS. -/
def vbcsAt (c : Nat) (d : BitVec 5) (sreg : BitVec 8) (t : BitVec 3) (i : Nat) (s : State) : State :=
  splat c true d.toNat t.toNat (rdReg (coreAt s c) .other 0 sreg.toNat i).toNat i s

/-- VSETA and VSETAI. -/
def vaSet (c : Nat) (ar : BitVec 3) (v : BitVec 22) (s : State) : State :=
  updVec c (fun x => { x with va := Tab.store 0 x.va ar.toNat v }) s

/-! ### Scratchpad access (R337–R342) -/

/-- Offset in an address register. -/
def vaGet (x : Vec) (ar : BitVec 3) : Nat := (Tab.get 0 x.va ar.toNat).toNat

/-- Causes of VLD and VST, each by itself. -/
def vmCauses (c : Nat) (store : Bool) (f : VM) (s : State) : Nat :=
  let t := f.t.toNat
  let a := vaGet (vecAt s c) f.ar
  let size := sizeOfSite s c
  let l := vLanes s c
  let opcode := decide (f.mode = 3) || (decide (f.mode ≠ 2) && decide (f.b ≠ 0)) || (decide (f.mode = 2) && f.post) || (store && decide (f.mode = 1))
  let type := !tOk s c allTypes t || (decide (f.mode = 2) && !([0, 3].contains t))
  let address :=
    match f.mode.toNat with
    | 0 => decide (a % 128 ≠ 0) || decide (size < a + 4 * l)
    | 1 => decide (a % (tWidth t / 8) ≠ 0) || decide (size < a + tWidth t / 8)
    | 2 => decide (a % 4 ≠ 0) || decide (size ≤ a)
    | _ => false
  causeBits opcode type + b2n address * 2 ^ 10

/-- The address register advanced after the access (R340). -/
def vmPost (c : Nat) (f : VM) (s : State) : State :=
  if f.post then
    let step := if f.mode = 1 then tWidth f.t.toNat / 8 else 4 * vLanes s c
    updVec c (fun x => { x with va := Tab.store 0 x.va f.ar.toNat (BitVec.ofNat 22 (vaGet x f.ar + step)) }) s
  else s

/-- INDEXED elements out of range (R341). -/
def vOor (c n : Nat) (s : State) : State := if n = 0 then s else satR (Pg.vec c) R.VEC_OOR n s

/-- A VLD reads a byte range in stepped cycle `t`: its bank claims, and its Glaze (R342, R370). -/
def vRead (c t a len : Nat) (s : State) : State := updCore c (claim 60 (vUnit true) t a len) (verifySpad c 1 t a len s)

/-- VLD (R337): an INDEXED access occupies the scratchpad port, and with it every bank, for four cycles (R338, R371). -/
def vldAt (c : Nat) (f : VM) (i : Nat) (s : State) : State :=
  let x := vecAt s c
  let k := coreAt s c
  let t := f.t.toNat
  let w := tWidth t
  let l := vLanes s c
  let n := tCount l t
  let a := vaGet x f.ar
  let m := rdM x f.m.toNat i
  let s :=
    match f.mode.toNat with
    | 0 =>
      let v := numOf (spadBytes k 1 (i + 1) a (4 * l))
      let els := (List.range n).map (fun e => v >>> (e * w) % 2 ^ w)
      vRead c (i + 1) a (4 * l) (setVec c (wrV x true f.r.toNat i 4 w (governed m f.mz els)) s)
    | 1 =>
      let v := numOf (spadBytes k 1 (i + 1) a (w / 8))
      vRead c (i + 1) a (w / 8) (setVec c (wrV x true f.r.toNat i 4 w (governed m f.mz (List.replicate n v))) s)
    | _ =>
      let size := sizeOfSite s c
      let ix := rdV x f.b.toNat i
      let ad := (List.range n).map (fun e => a + 4 * getE ix 3 e)
      let els := ad.map (fun p => if size < p + 4 then 0 else numOf (spadBytes k 1 (i + 1) p 4))
      let live := (ad.zip (List.range n)).filter (fun p => bit m p.2)
      let oor := (live.filter (fun p => size < p.1 + 4)).length
      let s := setVec c (wrFl (wrV x true f.r.toNat i 4 w (governed m f.mz els)) true i 4 (if oor = 0 then 0 else vInvalid)) s
      vOor c oor (foldS (fun p s => if size < p.1 + 4 then s else verifySpad c 1 (i + 1) p.1 4 s) live
        (updCore c (claimAll 60 (vUnit true) (i + 1) 4) s))
  vmPost c f s

/-- Element stores that touch put together where the next begins where the last ends. -/
def joinRuns : List (Nat × List Byte) → List (Nat × List Byte)
  | [] => []
  | (a, bs) :: t =>
    match joinRuns t with
    | (b, cs) :: r => if b = a + bs.length then (a, bs ++ cs) :: r else (a, bs) :: (b, cs) :: r
    | [] => [(a, bs)]

/-- VST: masked elements are not written; the write is in cycle i + 2. -/
def vstAt (c : Nat) (f : VM) (i : Nat) (s : State) : State :=
  let x := vecAt s c
  let t := f.t.toNat
  let w := tWidth t
  let n := tCount (vLanes s c) t
  let a := vaGet x f.ar
  let m := rdM x f.m.toNat i
  let v := rdV x f.r.toNat i
  let ix := rdV x f.b.toNat i
  let size := sizeOfSite s c
  let ad := fun (e : Nat) => if f.mode = 2 then a + 4 * getE ix 3 e else a + e * (w / 8)
  let live := (List.range n).filter (fun e => bit m e)
  let oor := if f.mode = 2 then (live.filter (fun e => size < ad e + 4)).length else 0
  let outs := (live.filter (fun e => ad e + w / 8 ≤ size)).map (fun e => (ad e, bytesOf (w / 8) (getE v t e)))
  let runs := if f.mode = 2 then outs else joinRuns outs
  let s := updCore c (fun k => runs.foldl (fun k r => unitStore 6 r.1 r.2 (i + 2) k) k) s
  let s := updCore c (fun k => if f.mode = 2 then claimAll 40 (vUnit true) (i + 2) 4 k
    else runs.foldl (fun k r => claim 40 (vUnit true) (i + 2) r.1 r.2.length k) k) s
  vmPost c f (vOor c oor (updVec c (fun x => wrFl x true i 3 (if oor = 0 then 0 else vInvalid)) s))

/-! ### Compress, expand, count, flags (R352–R354, R335) -/

/-- The elements of a register whose mask bit is 1, in order. -/
def chosen (v : BitVec 8192) (m : BitVec 512) (t n : Nat) : List Nat :=
  ((List.range n).filter (fun e => bit m e)).map (fun e => getE v t e)

/-- VCMPR. -/
def vcmprAt (c : Nat) (f : VR) (i : Nat) (s : State) : State :=
  let x := vecAt s c
  let t := f.t.toNat
  let n := tCount (vLanes s c) t
  let l := chosen (rdV x f.a.toNat i) (rdM x f.m.toNat i) t n
  let x := wrV x true f.d.toNat i 4 (tWidth t) ((l ++ List.replicate (n - l.length) 0).map some)
  setVec c (wrM x true (fld f.c 0 3) i 4 (2 ^ l.length - 1)) s

/-- Elements dealt to the set bits of a mask. -/
def expandE (m : BitVec 512) (mz : Bool) : List Nat → List Nat → List (Option Nat)
  | [], _ => []
  | e :: t, src =>
    if bit m e then
      match src with
      | v :: r => some v :: expandE m mz t r
      | [] => some 0 :: expandE m mz t []
    else (if mz then some 0 else none) :: expandE m mz t src

/-- VEXPD. -/
def vexpdAt (c : Nat) (f : VR) (i : Nat) (s : State) : State :=
  let x := vecAt s c
  let t := f.t.toNat
  let n := tCount (vLanes s c) t
  let v := rdV x f.a.toNat i
  setVec c (wrV x true f.d.toNat i 4 (tWidth t) (expandE (rdM x f.m.toNat i) f.mz (List.range n) ((List.range n).map (getE v t)))) s

/-- A value in the INT32 element 0, every other element 0. -/
def wrElem0 (c d lat v : Nat) (i : Nat) (s : State) : State :=
  updVec c (fun x => wrV x true d i lat 32 ((v :: List.replicate (vLanes s c - 1) 0).map some)) s

/-- MCNT. -/
def mcntAt (c : Nat) (f : VR) (i : Nat) (s : State) : State :=
  let m := rdM (vecAt s c) f.m.toNat i
  wrElem0 c f.d.toNat 2 (((List.range (tCount (vLanes s c) f.t.toNat)).filter (fun e => bit m e)).length) i s

/-- VFLAGS: reads the flags visible at `i`; MOD[0] clears both sets after the read, and a flag raised in that cycle
survives. -/
def vflagsAt (c : Nat) (f : VR) (i : Nat) (s : State) : State :=
  let v := vecFlags s c i
  let m := rdM (vecAt s c) f.m.toNat i
  let els := governed m f.mz (v :: List.replicate (vLanes s c - 1) 0)
  let s := updVec c (fun x => wrV x true f.d.toNat i 1 32 els) s
  if bit f.md 0 then
    setR (Pg.vec c) R.VEC_FLAGS 0 (updVec c (fun x => { x with pendFl := x.pendFl.filter (fun p => i ≤ p.vis) }) s)
  else s

/-! ### Reductions (R355–R357) -/

/-- A node of a reduction tree: `none` is an absent input. -/
def nodeOf {α : Type} (g : α → α → α) : Option α → Option α → Option α
  | some a, some b => some (g a b)
  | some a, none => some a
  | none, b => b

/-- The root of a segment. -/
def redRoot {α : Type} (g : α → α → α) (l : List (Option α)) : Option α := ((treeOf (nodeOf g) 10 l).head?).getD none

/-- A value with the flags of its node roundings. -/
def redF (f : Fmt) (g : Num → Num → Num) (a b : Num × Nat) : Num × Nat :=
  let x := g a.1 b.1
  let (c, fl) := vConv f .near x
  (decodeNum f c, a.2 ||| b.2 ||| fl)

/-- The result type of a reduction (R355). -/
def redType (t kind : Nat) : Nat := if 4 ≤ kind then 3 else if tFloat t then (if t = 5 then 5 else 0) else 3

/-- One float segment: code of the result and flags. -/
def redFloat (t kind : Nat) (els : List (Option Nat)) : Nat × Nat :=
  let rf := if t = 5 then Fmt.f64 else Fmt.f32
  let xs := els.map (·.map (eNum t))
  if 4 ≤ kind then
    let ix := (xs.zip (List.range xs.length)).map (fun e => e.1.map (fun v => (v, e.2)))
    match (ix.filterMap id).find? (fun e => e.1.isNan) with
    | some e => (e.2, vInvalid)
    | none =>
      match redRoot (fun a b => if kind = 4 then (if numLt a.1 b.1 then b else a) else (if numLt b.1 a.1 then b else a)) ix with
      | some e => (e.2, 0)
      | none => (0xFFFF, vEmpty)
  else
    let g := match kind with | 0 => Num.add | 1 => Num.mul | 2 => numMax | _ => numMin
    match redRoot (redF rf g) (xs.map (·.map (fun v => (v, 0)))) with
    | some (v, fl) =>
      let (b, f0) := convert rf .near v
      (b, fl ||| (if v.isNan then f0 else 0))
    | none =>
      (match kind with | 0 => 0 | 1 => (convert rf .near (.ofInt 1)).1 | 2 => rf.signOf true + rf.infMag | _ => rf.infMag, vEmpty)

/-- One integer segment. -/
def redInt (t kind : Nat) (els : List (Option Nat)) : Nat × Nat :=
  let xs := els.map (·.map (fun b => signedOf (tWidth t) b))
  if 4 ≤ kind then
    let ix := (xs.zip (List.range xs.length)).map (fun e => e.1.map (fun v => (v, e.2)))
    match redRoot (fun (a b : Int × Nat) => if kind = 4 then (if a.1 < b.1 then b else a) else (if b.1 < a.1 then b else a)) ix with
    | some e => (e.2, 0)
    | none => (0xFFFF, vEmpty)
  else
    let wrap := fun (v : Int) => signedOf 32 (eWrap 3 v)
    let g : Int → Int → Int := match kind with
      | 0 => fun a b => wrap (a + b) | 1 => fun a b => wrap (a * b) | 2 => fun a b => if a < b then b else a | _ => fun a b => if b < a then b else a
    match redRoot g xs with
    | some v => (eWrap 3 v, 0)
    | none => (match kind with | 0 => 0 | 1 => 1 | 2 => 0x80000000 | _ => 0x7FFFFFFF, vEmpty)

/-- Elements of segment `g`, absent where masked. -/
def segment (v : BitVec 8192) (m : BitVec 512) (t sz g : Nat) : List (Option Nat) :=
  (List.range sz).map (fun j => let e := g * sz + j; if bit m e then some (getE v t e) else none)

/-- Empty segments counted (R357, R362). -/
def vEmpties (c n : Nat) (s : State) : State := if n = 0 then s else satR (Pg.vec c) R.VEC_EMPTY n s

/-- VRED. -/
def vredAt (c : Nat) (f : VR) (i : Nat) (s : State) : State :=
  let x := vecAt s c
  let t := f.t.toNat
  let l := vLanes s c
  let n := tCount l t
  let sz := 2 ^ fld f.c 0 4
  let kind := fld f.md 0 3
  let v := rdV x f.a.toNat i
  let m := rdM x f.m.toNat i
  let rs : List (Nat × Nat) := (List.range (n / sz)).map (fun g => let e := segment v m t sz g; if tFloat t then redFloat t kind e else redInt t kind e)
  let rt := redType t kind
  let nd := tCount l rt
  let out : List (Option Nat) := (rs.map (fun r => some r.1)) ++ List.replicate (nd - rs.length) (some 0)
  let fl := rs.foldl (fun a r => a ||| r.2) 0
  vEmpties c (rs.filter (fun r => r.2.testBit 5)).length
    (setVec c (wrFl (wrV x true f.d.toNat i 12 (tWidth rt) out) true i 12 fl) s)

/-- SEG is allowed for a type (R355). -/
def segOk (l t seg : Nat) : Bool :=
  let n := tCount l t
  decide (2 ^ seg ≤ n) && decide (n / 2 ^ seg ≤ l)

/-- Causes of VRED. -/
def vredCauses (c : Nat) (f : VR) (s : State) : Nat :=
  causeBits (decide (5 < fld f.md 0 3) || decide (fld f.md 3 2 ≠ 0) || bit f.c 4 || f.mz)
    (!tOk s c allTypes f.t.toNat || !segOk (vLanes s c) f.t.toNat (fld f.c 0 4))

/-! ### Special functions and softmax (R358–R364) -/

/-- A special function applied to each element under M. -/
def sfuBody (c : Nat) (f : VR) (op lat : Nat) (g : Fmt → Nat → Num → Nat × Nat) (i : Nat) (s : State) : State :=
  let x := vecAt s c
  let t := f.t.toNat
  let n := tCount (vLanes s c) t
  let a := rdV x f.a.toNat i
  let m := rdM x f.m.toNat i
  let els := (List.range n).map (fun e => let b := getE a t e; g (tFmt t) (Config.sfuPick op t b 0) (eNum t b))
  setVec c (wrFl (wrV x true f.d.toNat i lat (tWidth t) (governed m f.mz (els.map (·.1)))) true i lat (governedFl m (els.map (·.2)))) s

/-- Causes of the special functions: an engine without an SFU records OPCODE. -/
def sfuCauses (c : Nat) (f : VR) (s : State) : Nat :=
  causeBits (!vFull s c || decide (f.md ≠ 0) || decide (f.c ≠ 0)) (!tOk s c sfuTypes f.t.toNat)

/-- One row of SMXA (R361): the new state m, l as FP32 codes, and flags. `xs`: unmasked elements, absent where masked. -/
def smxaRow (t : Nat) (xs : List (Option Nat)) (mc lc : Nat) : (Nat × Nat) × Nat :=
  let m := decodeNum .f32 mc
  let l := decodeNum .f32 lc
  let vs : List (Option (Nat × Num)) := xs.map (·.map (fun b => (b, eNum t b)))
  let some_ : List (Nat × Num) := vs.filterMap id
  if some_.any (fun v => v.2.isNan) || m.isNan then ((Fmt.f32.nanCode, Fmt.f32.nanCode), vInvalid)
  else
    let cm := some_.foldl (fun a v => numMax a v.2) (Num.inf true)
    let m2 := numMax m cm
    let m2c := (convert .f32 .near m2).1
    let e2 := fun (b : Nat) (v : Num) => exp2Diff v m2 (Config.sfuPick 0x68 t b m2c)
    let (fv, ff) : Num × Nat :=
      if m = .inf true then (.fin false 0 0, 0) else if m = m2 ∨ (!(m.lt m2) && !(m2.lt m)) then (.ofInt 1, 0)
      else if m2 = .inf false then (.fin false 0 0, 0) else exp2Diff m m2 (Config.sfuPick 0x68 0 mc m2c)
    let term := fun (b : Nat) (v : Num) =>
      if v = .inf true then ((.fin false 0 0 : Num), 0) else if !(v.lt m2) && !(m2.lt v) then (.ofInt 1, 0)
      else if m2 = .inf false then (.fin false 0 0, 0) else e2 b v
    let terms := vs.map (·.map (fun v => term v.1 v.2))
    let (sm, sf) := (redRoot (redF .f32 Num.add) terms).getD (.fin false 0 0, 0)
    let (pb, pf) := vConv .f32 .near (l.mul fv)
    let (qb, qf) := vConv .f32 .near ((decodeNum .f32 pb).add sm)
    ((m2c, qb), ff ||| sf ||| pf ||| qf)

/-- SMXA: element g of D and of D + 1 for each row g. -/
def smxaAt (c : Nat) (f : VR) (i : Nat) (s : State) : State :=
  let x := vecAt s c
  let t := f.t.toNat
  let n := tCount (vLanes s c) t
  let sz := 2 ^ fld f.c 0 4
  let v := rdV x f.a.toNat i
  let m := rdM x f.m.toNat i
  let sm := rdV x f.d.toNat i
  let sl := rdV x (f.d.toNat + 1) i
  let rs := (List.range (n / sz)).map (fun g => smxaRow t (segment v m t sz g) (getE sm 0 g) (getE sl 0 g))
  let pad := List.replicate (vLanes s c - rs.length) none
  let fl := rs.foldl (fun a r => a ||| r.2) 0
  let x := wrV x true f.d.toNat i 16 32 (rs.map (fun r => some r.1.1) ++ pad)
  setVec c (wrFl (wrV x true (f.d.toNat + 1) i 16 32 (rs.map (fun r => some r.1.2) ++ pad)) true i 16 fl) s

/-- The element of SMXN (R362). -/
def smxnElem (t : Nat) (on : Bool) (b mc lc : Nat) : Nat × Nat :=
  let f := tFmt t
  let x := eNum t b
  let m := decodeNum .f32 mc
  let l := decodeNum .f32 lc
  if !on then (0, 0)
  else if m.isNan || x.isNan then (f.nanCode, vInvalid)
  else if m = .inf true then (0, 0)
  else if x = .inf true then (0, 0)
  else
    let same := !(x.lt m) && !(m.lt x)
    if !same && m = .inf false then (0, 0)
    else
      match l with
      | .nan => (f.nanCode, vInvalid)
      | .inf sg =>
        if !same && x = .inf false then (f.nanCode, vInvalid) else (f.signOf sg, 0)
      | .fin sg lm _ =>
        if lm = 0 then (f.signOf sg + f.infMag, vDivzero)
        else if !same && x = .inf false then (f.signOf sg + f.infMag, 0)
        else smxQuot f (if same then .fin false 0 0 else x.add m.neg) l (Config.sfuPick 0x69 t b (mc * 2 ^ 32 + lc))

/-- SMXN writes every element; a row whose m is −∞ counts once. -/
def smxnAt (c : Nat) (f : VR) (i : Nat) (s : State) : State :=
  let x := vecAt s c
  let t := f.t.toNat
  let n := tCount (vLanes s c) t
  let sz := 2 ^ fld f.c 0 4
  let v := rdV x f.a.toNat i
  let m := rdM x f.m.toNat i
  let sm := rdV x f.b.toNat i
  let sl := rdV x (f.b.toNat + 1) i
  let rs := (List.range n).map (fun e => smxnElem t (bit m e) (getE v t e) (getE sm 0 (e / sz)) (getE sl 0 (e / sz)))
  let empties := ((List.range (n / sz)).filter (fun g => getE sm 0 g = 0xFF800000)).length
  let fl := rs.foldl (fun a r => a ||| r.2) (if empties = 0 then 0 else vEmpty)
  vEmpties c empties
    (setVec c (wrFl (wrV x true f.d.toNat i 12 (tWidth t) (rs.map (fun r => some r.1))) true i 12 fl) s)

/-- Causes of SMXA and SMXN: `reg` is the state register. -/
def smxCauses (c : Nat) (f : VR) (reg : BitVec 5) (noMz : Bool) (s : State) : Nat :=
  causeBits (!vFull s c || decide (f.md ≠ 0) || bit f.c 4)
    (!tOk s c sfuTypes f.t.toNat || !segOk (vLanes s c) f.t.toNat (fld f.c 0 4) || bit reg 0 || (noMz && f.mz))

/-! ### State (R323, R325, R365) -/

/-- START of the partition with RESUME = 0 (R325). -/
def vecReset (c : Nat) (s : State) : State :=
  let seed := (getR s (Pg.vec c) R.VEC_SEED).toNat
  let gens := (List.range (vLanes s c / 32)).foldl (fun (g : Tab Word) k =>
    Tab.store 0 g k (seedOf (BitVec.ofNat 32 (seed ^^^ (k * 0x01010101))))) []
  setR (Pg.vec c) R.VEC_FLAGS 0 (setVec c { Vec.init with gens := gens } s)

/-- Registers and masks read 0 (R323, R365); results on their way are dropped and their flags raised. -/
def vecClear (c : Nat) (s : State) : State :=
  let fl := (vecAt s c).pendFl.foldl (fun v p => v ||| (p.flags <<< (if p.slot then 8 else 0))) (getN s (Pg.vec c) R.VEC_FLAGS)
  setR (Pg.vec c) R.VEC_FLAGS (BitVec.ofNat 32 fl) (updVec c (fun x => { x with v := [], m := [], pend := [], pendFl := [] }) s)

end Sys2Proof.Machine
end

