-- ==== Sys2Proof/Machine/Gather.lean ====
section
/-! DEFINITION. The gather engine of an S-core (R382, R399–R406): GQ, the start of a descriptor, the index-by-index work
of a thread, and the completion of a bag with its signal. Lines of this die are read in the step; lines of another die are
requested and wait for RDATA (Machine/Resp.lean). -/

namespace Sys2Proof.Machine

/-! ### Descriptors (R399, R400) -/

def gTable (b : BitVec 512) : Nat := fld b 0 64
def gIdx (b : BitVec 512) : Nat := fld b 64 64
def gOffs (b : BitVec 512) : Nat := fld b 128 64
def gWgt (b : BitVec 512) : Nat := fld b 192 64
def gRows (b : BitVec 512) : Nat := fld b 256 32
def gCtrl (b : BitVec 512) : Word := BitVec.ofNat 32 (fld b 288 32)
def gOut (b : BitVec 512) : Nat := fld b 320 32
def gBags (b : BitVec 512) : Nat := fld b 352 16
def gGroup (b : BitVec 512) : Nat := fld b 368 16
def gWeighted (b : BitVec 512) : Bool := bit (gCtrl b) 31
def gOffsets (b : BitVec 512) : Bool := bit (gCtrl b) 30
def gU64 (b : BitVec 512) : Bool := bit (gCtrl b) 29
def gRowBytes (b : BitVec 512) : Nat := (fld (gCtrl b) 24 3 + 1) * 128
def gEtype (b : BitVec 512) : Nat := fld (gCtrl b) 22 2
def gOtype (b : BitVec 512) : Nat := fld (gCtrl b) 20 2
def gPool (b : BitVec 512) : Nat := fld (gCtrl b) 18 2
def gSig (b : BitVec 512) : Nat := fld (gCtrl b) 0 5

/-- Bytes of an element of ETYPE or OTYPE. -/
def gBytes (t : Nat) : Nat := if t = 0 then 4 else 2

/-- Format of an element code. -/
def gFmt (t : Nat) : Fmt := match t with | 0 => .f32 | 1 => .bf16 | _ => .f16

/-- Elements of a row, and the step between output rows (R401). -/
def gElems (b : BitVec 512) : Nat := gRowBytes b / gBytes (gEtype b)
def gStride (b : BitVec 512) : Nat := (gElems b * gBytes (gOtype b) + 127) / 128 * 128

/-- The layout rules of a gather descriptor; a broken one records DESC. -/
def gatherDescOk (s : State) (c : Nat) (b : BitVec 512) : Bool :=
  decide (fld (gCtrl b) 27 2 = 0) && decide (fld (gCtrl b) 5 13 = 0) && decide (gEtype b ≠ 3) && decide (gOtype b ≠ 3) &&
  decide (gPool b ≠ 3) && !(gWeighted b && decide (gPool b = 2)) && decide (gOut b < 2 ^ 22) && decide (gOut b % 128 = 0) &&
  decide (gOut b + gBags b * gStride b ≤ sizeOfSite s c) && decide (fld b 384 128 = 0) && decide (gRows b ≠ 0) &&
  decide (gBags b ≠ 0) && decide (gGroup b ≠ 0) && (gWeighted b || decide (gWgt b = 0)) &&
  (gOffsets b || (decide (gOffs b ≠ 0) && decide (gOffs b < 65536)))

/-! ### GQ (R382–R387) -/

/-- GQ at stepped index `i`. -/
def gqAt (c : Nat) (x : Bool) (ar : BitVec 2) (post : Bool) (i : Nat) (s : State) : State :=
  xOn c (Pg.mov c) (fun s =>
    if runsAs s c ≠ some 2 then movCause c 8 s
    else
      xOn c (Pg.gth c) (fun s =>
        let k := coreAt s c
        let a := xaGet k x ar
        let g := gthAt s c
        if a % 64 ≠ 0 ∨ sizeOfSite s c < a + 64 then movCause c 9 s
        else if 8 < g.queue.length + xrdCount k true x 64 + 1 ∨ opsFull s c then holdOp c (xUnit x) i (.gq c x ar post) s
        else xBegin c x true ar post a 64 i s) s) s

/-- The descriptor read for GQ is checked and enqueued (R385). -/
def gqDone (c : Nat) (r : XRead) (s : State) : State :=
  let g := gthAt s c
  let d := BitVec.ofNat 512 (numOf r.got)
  if gatherDescOk s c d then setGth c { g with queue := g.queue ++ [d] } s
  else xUndo c r (fault (Pg.gth c) 8 (descErr c r.x r.addr s))

/-! ### Descriptor reads by cycle (R385) -/

/-- 128-byte blocks that a read of descriptors touches, one a cycle from the cycle after issue. -/
def xBlocks (r : XRead) : Nat := (r.addr + r.len + 127) / 128 - r.addr / 128

/-- The piece of a read that stepped cycle `t` reads: its address and length, where it is the next one. -/
def xPiece (r : XRead) (t : Nat) : Option (Nat × Nat) :=
  let a := r.addr + r.got.length
  let k := a / 128 - r.addr / 128
  if r.at_ + 1 + k = t then some (a, Nat.min (r.addr + r.len - a) (128 - a % 128)) else none

/-- Stepped cycle `t` of the X slots: every read under way reads its next block, and with its last one the descriptors are checked and
enqueued, X0 before X1 (R386). -/
def xStep (c t : Nat) (s : State) : State :=
  let s := foldS (fun (r : XRead) s =>
    match xPiece r t with
    | some (a, len) => verifySpad c 2 t a len (updCore c (claim (80 + b2n r.x) (xUnit r.x) t a len) s)
    | none => s) (coreAt s c).xrd s
  let k := coreAt s c
  let l := k.xrd.map (fun r => match xPiece r t with | some (a, len) => { r with got := r.got ++ spadBytes k 2 t a len } | none => r)
  foldS (fun (r : XRead) s => if r.gq then gqDone c r s else xqDone c r s) (l.filter (fun r => decide (r.len ≤ r.got.length)))
    (setCore c { k with xrd := l.filter (fun r => decide (r.got.length < r.len)) } s)

/-! ### Threads -/

/-- A thread's bag. -/
def threadAt (s : State) (c t : Nat) : Option GBag := Tab.find (gthAt s c).threads t

/-- A thread's bag changed; a free thread is not listed. -/
def setThread (c t : Nat) (b : GBag) (s : State) : State :=
  let g := gthAt s c
  setGth c { g with threads := Tab.put g.threads t b } s

/-- The descriptor that a bag belongs to. -/
def bagDesc (s : State) (c : Nat) (b : GBag) : Option GGroup := (gthAt s c).groups.find? (fun g => g.serial = b.serial)

/-- Bags are assigned in ascending order, each to the lowest-numbered free thread, descriptors in order (R405). -/
def assignBags : Nat → Gth → Gth
  | 0, g => g
  | n + 1, g =>
    match g.groups.find? (fun d => d.nextBag < gBags d.desc), (List.range 512).find? (fun t => (Tab.find g.threads t).isNone) with
    | some d, some t =>
      let start : Word := if gPool d.desc = 2 then 0xFF800000 else 0
      let b : GBag := { GBag.init with serial := d.serial, bag := d.nextBag, acc := List.replicate (gElems d.desc) start }
      assignBags n { g with threads := Tab.put g.threads t b,
                            groups := g.groups.map (fun e => if e.serial = d.serial then { e with nextBag := e.nextBag + 1 } else e) }
    | _, _ => g

/-! ### Reads (R403, R405) -/

/-- What reading bytes for a thread gives: the bytes, a wait, or an error reason (R414): 1 error completion, 2 address
rejected, 3 2 KiB tile region. -/
inductive GRes where
  | got (bs : List Byte)
  | later
  | bad (reason : Nat)
deriving DecidableEq, Repr

/-- The line that an address field is in. -/
def lineKey (a : Nat) : Nat := a % 2 ^ 64 / 128

/-- Line `k` requested: read at once where it can be, else outstanding, or, where a page that it needs is in Starting or its line is
busy, not issued yet: the flag says whether it was issued. Its address field is decoded and translated here and nowhere later (R56). -/
def lineFetch (c : Nat) (kind : OpKind) (k : Nat) (s : State) : GRes × Bool × State :=
  let p : Nat × Nat × Nat := (0, k * 128, 128)
  if pieceBad s p then (.bad 2, true, noteReject c (k * 128) 128 s)
  else if (match target s (k * 128) with | .loc l => decide (areaOf l = .homed) && bigTile s l | _ => false) = true then (.bad 3, true, s)
  else if blockHeld s false p then (.later, false, s)
  else
    match readPiece c kind p (localPeak c (localPieces s c [p]) s) with
    | (.got bs, s) => (.got bs, true, s)
    | (.bad, s) => (.bad 1, true, s)
    | (.later, s) => (.later, true, s)

/-- A descriptor in progress changed. -/
def updGroup (c serial : Nat) (f : GGroup → GGroup) (s : State) : State :=
  let g := gthAt s c
  setGth c { g with groups := g.groups.map (fun x => if x.serial = serial then f x else x) } s

/-- A line of the index list, the offsets or the weights of descriptor `serial`: every such line is read once and shared by its
threads. -/
def sharedLine (c serial k : Nat) (s : State) : GRes × State :=
  match (gthAt s c).groups.find? (fun g => g.serial = serial) with
  | none => (.later, s)
  | some g =>
    match Tab.find g.lines k, Tab.find g.failed k with
    | some v, _ => (.got (bytesOf 128 v.toNat), s)
    | none, some r => (.bad r, s)
    | none, none =>
      if g.awaiting.contains k then (.later, s)
      else
        match lineFetch c (.gthRead c (512 + serial) k) k s with
        | (.got bs, _, s) => (.got bs, updGroup c serial (fun g => { g with lines := Tab.put g.lines k (BitVec.ofNat 1024 (numOf bs)) }) s)
        | (.bad r, _, s) => (.bad r, updGroup c serial (fun g => { g with failed := Tab.put g.failed k r }) s)
        | (.later, true, s) => (.later, updGroup c serial (fun g => { g with awaiting := g.awaiting ++ [k] }) s)
        | (.later, false, s) => (.later, s)

/-- A line of the row that thread `t` reads. -/
def rowLine (c t k : Nat) (s : State) : GRes × State :=
  match threadAt s c t with
  | none => (.later, s)
  | some b =>
    match Tab.find b.buf k with
    | some v => (.got (bytesOf 128 v.toNat), s)
    | none =>
      if b.waiting.contains k then (.later, s)
      else
        let upd := fun (f : GBag → GBag) (s : State) => match threadAt s c t with | some b => setThread c t (f b) s | none => s
        match lineFetch c (.gthRead c t k) k s with
        | (.got bs, _, s) => (.got bs, upd (fun b => { b with buf := Tab.put b.buf k (BitVec.ofNat 1024 (numOf bs)) }) s)
        | (.bad r, _, s) => (.bad r, s)
        | (.later, true, s) => (.later, upd (fun b => { b with waiting := b.waiting ++ [k] }) s)
        | (.later, false, s) => (.later, s)

/-- Pieces read in order, each out of the line that `line` gives; every line is issued, and the first error or else a wait is the
outcome. -/
def gatherPieces (line : Nat → State → GRes × State) : List (Nat × Nat × Nat) → State → GRes × State
  | [], s => (.got [], s)
  | p :: l, s =>
    let (r, s) := line (lineKey p.2.1) s
    match r with
    | .bad n => (.bad n, s)
    | _ =>
      let (q, s) := gatherPieces line l s
      match r, q with
      | .got a, .got b => (.got ((a.drop (p.2.1 % 128)).take p.2.2 ++ b), s)
      | _, .bad n => (.bad n, s)
      | _, _ => (.later, s)

/-- `n` bytes from address field `a` of what the threads of a descriptor share. -/
def sharedBytes (c serial a n : Nat) (s : State) : GRes × State := gatherPieces (sharedLine c serial) (piecesOf (a % 2 ^ 64) n) s

/-- `n` bytes of a row, from address field `a`. -/
def rowBytes (c t a n : Nat) (s : State) : GRes × State := gatherPieces (rowLine c t) (piecesOf (a % 2 ^ 64) n) s

/-- Lines of the index list and the weights are read ahead for a bag whose bounds are known: those of its next 32 positions, a DESIGN
CHOICE, as R405 does not say how far ahead. -/
def gatherAhead (c : Nat) (d : BitVec 512) (b : GBag) (s : State) : State :=
  let w := if gU64 d then 8 else 4
  let n := Nat.min 32 (b.stop - b.next)
  if n = 0 then s
  else
    let s := (sharedBytes c b.serial (gIdx d + b.next * w) (n * w) s).2
    if gWeighted d then (sharedBytes c b.serial (gWgt d + b.next * 4) (n * 4) s).2 else s

/-- The next descriptor of the queue starts: its first bags are assigned, and the offsets of each are read. -/
def gatherStart (c : Nat) (s : State) : State :=
  let g := gthAt s c
  match g.queue with
  | d :: rest =>
    if runs s (Pg.gth c) then
      let n := g.serial
      let s := setGth c (assignBags 512 { g with queue := rest, serial := n + 1,
                                                 groups := g.groups ++ [{ serial := n, desc := d, nextBag := 0, done := [], raised := 0,
                                                                          lines := [], awaiting := [], failed := [] }] }) s
      if gOffsets d then
        foldS (fun b s => (sharedBytes c n (gOffs d + 4 * b) 8 s).2)
          (((gthAt s c).threads.filter (fun e => e.2.serial = n)).map (fun e => e.2.bag)) s
      else s
    else s
  | [] => s

/-! ### Pooling (R403, R404) -/

/-- x / n rounded once to FP32. -/
def divRound (x : Num) (n : Nat) : Num :=
  match x with
  | .fin s m e => r32 (.fin s (2 * (m * 2 ^ 100 / n) + (if m * 2 ^ 100 % n = 0 then 0 else 1)) (e - 101))
  | v => v

/-- An operand that is neither a NaN nor an infinity. -/
def Num.finite : Num → Bool
  | .fin _ _ _ => true
  | _ => false

/-- Element `k` of a row of the descriptor, widened. -/
def gElem (b : BitVec 512) (row : List Byte) (k : Nat) : Num :=
  let n := gBytes (gEtype b)
  decodeNum (gFmt (gEtype b)) (numOf ((row.drop (n * k)).take n))

/-- One row pooled into the accumulator (R404). -/
def poolRow (b : BitVec 512) (w : Num) (row : List Byte) (acc : List Word) : List Word :=
  (acc.zip (List.range acc.length)).map (fun e =>
    let x := gElem b row e.2
    let a := decodeNum .f32 e.1.toNat
    let v := match gPool b with
      | 2 => numMax a x
      | _ => if gWeighted b then a.add (w.mul x) else a.add x
    BitVec.ofNat 32 (convert .f32 .near v).1)

/-- The elements to which an operand that is not finite has come, with those of one row more. -/
def poolOdd (b : BitVec 512) (w : Num) (row : List Byte) (odd : BitVec 512) : BitVec 512 :=
  (List.range (gElems b)).foldl (fun o k => if w.finite && (gElem b row k).finite then o else setBit o k true) odd

/-- A read of a bag failed (R403, R414): the partition records MEMERR. -/
def gatherErr (c bag reason : Nat) (s : State) : State :=
  ptnFaultOf (ptnOfSite s c) PC.memerr (firstR (Pg.gth c) R.GTH_ERR (reason * 2 ^ 20 + bag % 65536) s)

/-- GTH_FLAGS. -/
def gthFlag (c n : Nat) (s : State) : State := setR (Pg.gth c) R.GTH_FLAGS (getR s (Pg.gth c) R.GTH_FLAGS ||| BitVec.ofNat 32 n) s

/-- The bounds of a bag once they are known (R402): decreasing offsets make it empty. -/
def bagBounds (c t : Nat) (b : GBag) (lo hi : Nat) (s : State) : State :=
  if hi < lo then gthFlag c 1 (satR (Pg.gth c) R.GTH_BADOFF 1 (setThread c t { b with known := true, next := lo, stop := lo } s))
  else setThread c t { b with known := true, next := lo, stop := hi } s

/-- The current index is done with; lines held for it are dropped. -/
def bagNext (b : GBag) : GBag := { b with next := b.next + 1, buf := [] }

/-- One index of a bag whose bounds are known: its index, weight and row are read, and the row is pooled. -/
def gatherIndex (c t : Nat) (d : BitVec 512) (b : GBag) (s : State) : State :=
  let w := if gU64 d then 8 else 4
  let next := fun (s : State) => match threadAt s c t with | some b => setThread c t (bagNext b) s | none => s
  match sharedBytes c b.serial (gIdx d + b.next * w) w s with
  | (.later, s) => s
  | (.bad r, s) => gatherErr c b.bag r (next s)
  | (.got ib, s) =>
    let i := numOf ib
    if i = 2 ^ (8 * w) - 1 then next s
    else if gRows d ≤ i then satR (Pg.gth c) R.GTH_OOR 1 (next s)
    else
      let (rw, s) := if gWeighted d then sharedBytes c b.serial (gWgt d + b.next * 4) 4 s else (.got [], s)
      let (rr, s) := rowBytes c t (gTable d + i * gRowBytes d) (gRowBytes d) s
      match rw, rr with
      | .bad r, _ => gatherErr c b.bag r (next s)
      | _, .bad r => gatherErr c b.bag r (next s)
      | .got wb, .got row =>
        let x := if gWeighted d then decodeNum .f32 (numOf wb) else .ofInt 1
        wrapR (Pg.gth c) R.GTH_ROWS 1
          (setThread c t { bagNext b with cnt := b.cnt + 1, acc := poolRow d x row b.acc, odd := poolOdd d x row b.odd } s)
      | _, _ => s

/-- A thread goes on with its bag: bounds, then one index. A thread that waits for lines does nothing. -/
def gatherStep (c t : Nat) (s : State) : State :=
  match threadAt s c t with
  | none => s
  | some b =>
    match bagDesc s c b with
    | none => s
    | some g =>
      let d := g.desc
      if !runs s (Pg.gth c) ∨ b.waiting ≠ [] then s
      else
        match b.err with
        | some r =>
          let s := gatherErr c b.bag r s
          if b.known then setThread c t { bagNext b with err := none } s
          else setThread c t { b with known := true, err := none, buf := [] } s
        | none =>
          if b.known then (if b.next < b.stop then gatherIndex c t d b (gatherAhead c d b s) else s)
          else if gOffsets d then
            match sharedBytes c b.serial (gOffs d + 4 * b.bag) 8 s with
            | (.later, s) => s
            | (.bad r, s) => gatherErr c b.bag r (setThread c t { b with known := true } s)
            | (.got ob, s) => bagBounds c t b (numOf (ob.take 4)) (numOf (ob.drop 4)) s
          else bagBounds c t b (b.bag * gOffs d) ((b.bag + 1) * gOffs d) s

/-! ### Completion (R401, R404, R406) -/

/-- The output row of a bag: bytes and flags. A binary32 infinity pooled from finite operands alone sets OVERFLOW (R294, R404). -/
def bagRow (d : BitVec 512) (b : GBag) : List Byte × Nat :=
  let els := (b.acc.zip (List.range b.acc.length)).map (fun e =>
    let x := decodeNum .f32 e.1.toNat
    let x := if gPool d = 1 ∧ b.cnt ≠ 0 then divRound x b.cnt else x
    let (v, fl) := convert (gFmt (gOtype d)) .near x
    let inf := decide (gOtype d = 0) && decide (b.cnt ≠ 0) && !bit b.odd e.2 && (match x with | .inf _ => true | _ => false)
    (bytesOf (gBytes (gOtype d)) v, (fl &&& 3) ||| (if inf then fOverflow else 0)))
  let bs := els.flatMap (·.1)
  (bs ++ List.replicate (gStride d - bs.length) 0, els.foldl (fun a e => a ||| e.2) (if b.cnt = 0 then 4 else 0))

/-- Bags 0 to k − 1 of a descriptor are complete: the largest such k. -/
def bagsDone (g : GGroup) : Nat := ((List.range (gBags g.desc)).takeWhile (fun k => g.done.contains k)).length

/-- Groups raised in descriptor order, without a signal while the partition drains (R142); a descriptor whose last group is raised is complete and leaves. -/
def raiseGroups (c : Nat) : Nat → State → State
  | 0, s => s
  | n + 1, s =>
    let e := gthAt s c
    match e.groups with
    | [] => s
    | g :: rest =>
      let total := (gBags g.desc + gGroup g.desc - 1) / gGroup g.desc
      if g.raised < total then
        if Nat.min ((g.raised + 1) * gGroup g.desc) (gBags g.desc) ≤ bagsDone g then
          raiseGroups c n ((if draining s c then fun s => s else raiseSig c (gSig g.desc) 1) (setGth c { e with groups := { g with raised := g.raised + 1 } :: rest } s))
        else s
      else raiseGroups c n (setGth c { e with groups := rest } s)

/-- A bag whose indices are all treated writes its output row; its thread is free, and the next bag takes it. -/
def bagFinish (c t : Nat) (s : State) : State :=
  match threadAt s c t with
  | none => s
  | some b =>
    match bagDesc s c b with
    | none => s
    | some g =>
      if runs s (Pg.gth c) ∧ b.known ∧ b.next = b.stop ∧ b.waiting = [] ∧ b.err = none then
        let (row, fl) := bagRow g.desc b
        let s := updCore c (fun x => spadPut x (gOut g.desc + b.bag * gStride g.desc) row) s
        let s := wrapR (Pg.gth c) R.GTH_BAGS 1 (if fl = 0 then s else gthFlag c fl s)
        let s := if b.cnt = 0 then satR (Pg.gth c) R.GTH_EMPTY 1 s else s
        let e := gthAt s c
        let e := { e with threads := Tab.erase e.threads t,
                          groups := e.groups.map (fun x => if x.serial = b.serial then { x with done := x.done ++ [b.bag] } else x) }
        raiseGroups c 65600 (setGth c (assignBags 512 e) s)
      else s

/-- ABORT of a GTH page completes its descriptors with error and raises no signal (R409). -/
def gthAbort (c : Nat) (s : State) : State :=
  let s := setGth c Gth.init (updCore c (fun x => { x with xrd := x.xrd.filter (fun r => !r.gq) }) s)
  { s with ops := s.ops.filter (fun o => match o.kind with | .gthRead c' _ _ => c' ≠ c | _ => true),
           opWait := s.opWait.filter (fun o => match o.1.kind with | .gthRead c' _ _ => c' ≠ c | _ => true) }

/-! ### The commands -/

/-- GQ. -/
def execGq (c : Nat) (x : Bool) (ar : BitVec 2) (post : Bool) (s : State) : Host.Outcome State Fault Refusal :=
  onUnit c nSites (xOp c x (.gq c x ar post) (gqAt c x ar post)) s

/-- GATHER_DESCRIPTOR. -/
def execGatherDescriptor (c : Nat) (s : State) : Host.Outcome State Fault Refusal := onUnit c nSites (gatherStart c) s

/-- GATHER_ROW. -/
def execGatherRow (c thread : Nat) (s : State) : Host.Outcome State Fault Refusal := onUnit c nSites (gatherStep c thread) s

/-- BAG_COMPLETE. -/
def execBagComplete (c thread : Nat) (s : State) : Host.Outcome State Fault Refusal := onUnit c nSites (bagFinish c thread) s

end Sys2Proof.Machine
end

