-- ==== Sys2Proof/Machine/Net.lean ====
section
/-! DEFINITION. The bulk network's side of requests and sums: responses at their requesters (R397, R431, R673),
time-outs, multicast (R436–R439), reductions at the spines (R440–R449), and the multicast masks (R463). -/

namespace Sys2Proof.Machine

/-! ### Operations that end -/

/-- Code of a spine as an endpoint: no endpoint has this number (R419). -/
abbrev spineEp : Nat := 0x1FF

/-- RACK to one contributor: a core of this die, or the spine of the die whose partial sum was added (R446). -/
def rackTo (status : Nat) (k : Nat × Nat × Nat) (s : State) : State :=
  let (ep, txn, die) := k
  let f : Flit := { typ := 7, status := BitVec.ofNat 2 status, src := BitVec.ofNat 9 spineEp, dst := BitVec.ofNat 9 ep,
                    txn := BitVec.ofNat 14 txn, ptn := 0, die := BitVec.ofNat 12 die, addr := 0, rtag := 0, rtype := false, last := false,
                    tile := false, glaze := 0, data := 0, ben := 0, ecc := 0, sdie := BitVec.ofNat 12 (dieNum s) }
  if die = dieNum s then flitSend f s else (postFlit die f s).2

/-- One operation of a unit's access has ended. -/
def unitNote (u : Nat) (bad : Bool) (s : State) : State :=
  match Tab.find s.unitJobs u with
  | some j => { s with unitJobs := Tab.put s.unitJobs u { j with left := j.left - 1, bad := j.bad || bad } }
  | none => s

/-- An operation that ends with error (R396, R403, R528, R446). -/
def opError (o : Op) (s : State) : State :=
  match o.kind with
  | .movRead c e n row _ _ _ =>
    updJob c (e = 1) n (fun j => { j with left := j.left - 1, rows := j.rows.filter (fun r => r.1 ≠ row) })
      (jobFail c (e = 1) n 1 o.addr s)
  | .movWrite c e n => jobOps c (e = 1) n false 1 (jobFail c (e = 1) n 1 o.addr s)
  | .gthRead c t line =>
    if 512 ≤ t then updGroup c (t - 512) (fun g => { g with awaiting := g.awaiting.filter (· ≠ line), failed := Tab.put g.failed line 1 }) s
    else
    match threadAt s c t with
    | some b =>
      let b := { b with waiting := b.waiting.filter (· ≠ line), err := some 1 }
      (if b.waiting = [] then gatherStep c t else id) (setThread c t b s)
    | none => s
  | .proxy _ f => respondErr f s
  | .redWrite l _ => foldS (rackTo 1) l s
  | .redContrib c e n => jobOps c (e = 1) n false 1 (jobFail c (e = 1) n 1 o.addr s)
  | .mcastRow c e n => jobOps c (e = 1) n false 1 (jobFail c (e = 1) n 1 o.addr s)
  | .unitRead u _ _ _ | .unitWrite u => unitNote u true s
  | .regAccess _ => send (.access true 0) s

/-- The outstanding operation of a response: transaction number and destination endpoint; from another die, the transaction
number and the die that was asked (R650). -/
def opFind (s : State) (f : Flit) : Option Op :=
  if ownFlit s f then s.ops.find? (fun o => o.txn = f.txn.toNat ∧ o.ep = f.dst.toNat)
  else s.ops.find? (fun o => o.txn = f.txn.toNat ∧ o.die = f.sdie.toNat)

/-- It is outstanding no longer; a multicast row gives up the places of all its flits (R397). -/
def opDone (o : Op) (s : State) : State := { s with ops := s.ops.filter (fun p => ¬ (p.txn = o.txn ∧ p.ep = o.ep)) }

/-- A response that matches no outstanding operation is discarded and counted (R431, R673). -/
def lateResponse (f : Flit) (s : State) : State :=
  if ownFlit s f then satR Pg.netb R.NETB_LATE 1 s else satR (Pg.lkg (routeFirst s f.sdie.toNat)) R.LKG_LATE 1 s

/-- A line that an engine of core `c` read has returned: its Glaze is verified (R373, R392, R540). -/
def lineGood (o : Op) (f : Flit) : Bool := f.glaze == crc32c (glzSeed (o.addr / 128 * 128)) (bytesOf 128 f.data.toNat)

/-- A fill by the proxy that forwarded the read (R528). -/
def fillFor (o : Op) (f : Flit) (s : State) : State :=
  if proxied s o.die o.addr then proxyFill o.die o.addr f.data f.glaze f.tile o.noFill s else s

/-- RDATA with data for an operation. -/
def opData (o : Op) (f : Flit) (s : State) : State :=
  match o.kind with
  | .movRead c e n row pos off len =>
    if f.tile then opError o s
    else
      let s := glazeNote c (lineGood o f) (fillFor o f s)
      let bs := ((bytesOf 128 f.data.toNat).drop off).take len
      match (moverAt s c (e = 1)).jobs.find? (fun j => j.serial = n) with
      | none => s
      | some j =>
        match j.rows.find? (fun r => r.1 = row) with
        | none => jobOps c (e = 1) n false 1 s
        | some (_, buf, miss) =>
          let buf := putAt buf pos bs
          if miss ≤ 1 then
            rowRead c (e = 1) j row buf
              (updJob c (e = 1) n (fun j => { j with left := j.left - 1, rows := j.rows.filter (fun r => r.1 ≠ row) }) s)
          else
            updJob c (e = 1) n (fun j => { j with left := j.left - 1, rows := j.rows.map (fun r => if r.1 = row then (row, buf, miss - 1) else r) }) s
  | .gthRead c t line =>
    let note := fun (s : State) => if f.tile then s else glazeNote c (lineGood o f) (fillFor o f s)
    if 512 ≤ t then
      updGroup c (t - 512) (fun g =>
        let g := { g with awaiting := g.awaiting.filter (· ≠ line) }
        if f.tile then { g with failed := Tab.put g.failed line 3 } else { g with lines := Tab.put g.lines line f.data }) (note s)
    else
    match threadAt s c t with
    | none => s
    | some b =>
      let s := note s
      let b := { b with waiting := b.waiting.filter (· ≠ line) }
      let b := if f.tile then { b with err := some 3 } else { b with buf := Tab.put b.buf line f.data }
      (if b.waiting = [] then gatherStep c t else id) (setThread c t b s)
  | .proxy _ q => respondRd q (bytesOf 128 f.data.toNat) f.glaze f.tile (fillFor o f s)
  | .unitRead u pos off len =>
    if f.tile ∨ !lineGood o f then opError o s
    else
      match Tab.find s.unitJobs u with
      | some j =>
        let bs := ((bytesOf 128 f.data.toNat).drop off).take len
        unitNote u false { s with unitJobs := Tab.put s.unitJobs u { j with buf := Tab.storeList 0 j.buf pos bs } }
      | none => s
  | _ => opError o s

/-- WACK for an operation. -/
def opAck (o : Op) (s : State) : State :=
  match o.kind with
  | .movWrite c e n => jobOps c (e = 1) n false 1 s
  | .proxy _ q => respondWack q s
  | .unitWrite u => unitNote u false s
  | .redWrite l _ => foldS (rackTo 0) l (wrapR Pg.netb R.NETB_RED_DONE 1 s)
  | _ => opError o s

/-! ### Places (R398) -/

/-- The engine that a waiting request belongs to, as a core's places go round them: the move engines, then the gather engine. -/
def opEngine (k : OpKind) : Nat :=
  match k with
  | .movRead _ e _ _ _ _ _ | .movWrite _ e _ | .redContrib _ e _ | .mcastRow _ e _ => e
  | .gthRead _ _ _ => 2
  | _ => 0

/-- The next waiting request that a free place serves: cores in order of arrival of their oldest request, and within a core the engine
whose turn it is or the next one that waits (R398). -/
def opNext (s : State) : Option (Op × Flit) :=
  match s.opWait.find? (fun e => !opsFull s e.1.ep) with
  | none => none
  | some e =>
    let mine := s.opWait.filter (fun x => x.1.ep = e.1.ep)
    let turn := Tab.get 0 s.opTurn e.1.ep
    ([turn, turn + 1, turn + 2].filterMap (fun k => mine.find? (fun x => opEngine x.1.kind = k % 3))).head?

/-- Waiting requests take the places that are free; at most `n` of them. -/
def opGrant : Nat → State → State
  | 0, s => s
  | n + 1, s =>
    match opNext s with
    | none => s
    | some (o, f) =>
      let s := { s with opWait := s.opWait.filter (fun x => !(x.1.txn == o.txn && x.1.ep == o.ep)),
                        opTurn := if o.ep < nSites then Tab.store 0 s.opTurn o.ep ((opEngine o.kind + 1) % 3) else s.opTurn }
      opGrant n (match opGo o f s with
        | (.done, s) => opAck o s
        | (.bad, s) => opError o s
        | (.later, s) => s)

/-- Requests that waited for a place go on as far as there are places. -/
def opDrain (s : State) : State := opGrant s.opWait.length s

/-- A response arrives: header check, match, effect, and the place it frees. -/
def responseOp (good : Op → Flit → State → State) (f : Flit) (s : State) : State :=
  let (go, s) := headerOk f s
  if go then
    match opFind s f with
    | none => lateResponse f s
    | some o =>
      let s := opDone o s
      opDrain (if f.status = 0 then good o f s else opError o s)
  else s

/-- RDATA, WACK, RACK. -/
def rdataOp (f : Flit) (s : State) : State := responseOp opData f s
def wackOp (f : Flit) (s : State) : State := responseOp (fun o _ => opAck o) f s

/-- RACK: a contributor's block is done; at a spine it goes on to that spine's contributors (R446). -/
def rackGood (o : Op) (_f : Flit) (s : State) : State :=
  match o.kind with
  | .redContrib c e n => jobOps c (e = 1) n false 1 s
  | .redWrite _ _ => opAck o s
  | _ => opError o s
def rackOp (f : Flit) (s : State) : State := responseOp rackGood f s

/-- Flit type of a request, for NETB_ERR. -/
def kindType (o : Op) : Nat :=
  match o.kind with
  | .redWrite _ lv => if lv then 8 else 1
  | .movWrite _ _ _ | .unitWrite _ => 1
  | .mcastRow _ _ _ => 4
  | .redContrib _ _ _ => 6
  | .proxy _ f => f.typ.toNat
  | _ => 0

/-- A reduction contribution waits for its sum without limit (R448). -/
def neverTimes (o : Op) : Bool := match o.kind with | .redContrib _ _ _ => true | _ => false

/-- NETB_TXN_TIMEOUT: an operation of this die without a response completes with error (R431). -/
def localTimeout (txn : Nat) (s : State) : State :=
  match s.ops.find? (fun o => o.txn = txn ∧ o.die = dieNum s ∧ !neverTimes o) with
  | none => s
  | some o =>
    let s := firstR Pg.netb R.NETB_ERR (kindType o * 2 ^ 27 + 2 ^ 24 + o.ep) (satR Pg.netb R.NETB_TIMEOUTS 1 (opDone o s))
    opDrain (opError o s)

/-- TXN_TIMEOUT: the same for a destination on another die, counted in the group the request left by (R673). -/
def farTimeout (txn : Nat) (s : State) : State :=
  match s.ops.find? (fun o => o.txn = txn ∧ o.die ≠ dieNum s ∧ !neverTimes o) with
  | none => s
  | some o => opDrain (opError o (satR (Pg.lkg ((route s o.die).getD (routeFirst s o.die))) R.LKG_TIMEOUTS 1 (opDone o s)))

/-- Every outstanding operation ends with error (R432: ABORT of NETB), or those toward a die that is lost (R672). -/
def opsLost (p : Op → Bool) (s : State) : State :=
  let l := s.ops.filter p
  let s := foldS (fun o s => if s.ops.any (fun q => q.txn = o.txn ∧ q.ep = o.ep) then opError o (opDone o s) else s) l s
  let w := s.opWait.filter (fun e => p e.1)
  foldS (fun (e : Op × Flit) s => opError e.1 s) w { s with opWait := s.opWait.filter (fun e => !p e.1) }

/-! ### Multicast (R436–R439, R463) -/

/-- The mask of a group: group 0 holds every logical core that has a site (R436). -/
def netmMask (s : State) (g : Nat) : Nat :=
  if g = 0 then ((List.range 120).filter (fun n => (siteOf s n).isSome)).foldl (fun a n => a + 2 ^ n) 0
  else (Tab.get 0 s.netmMasks g).toNat

/-- NETM_MASK3 commits the buffered mask of the selected group; group 0 ignores it (R436, R463). -/
def maskCommit (v : Word) (s : State) : State :=
  let g := getF s Pg.netm R.NETM_SEL 0 8
  let w := fun (o : Nat) => (Tab.get 0 s.wbuf (regKey Pg.netm o)).toNat
  if g = 0 then s
  else
    let m := w R.NETM_MASK0 + w R.NETM_MASK1 * 2 ^ 32 + w R.NETM_MASK2 * 2 ^ 64 + (v.toNat % 2 ^ 24) * 2 ^ 96
    { s with netmMasks := Tab.store 0 s.netmMasks g (BitVec.ofNat 120 m) }

/-- A target whose copies go nowhere (R438): no site, or its COR page is Absent or Retired. -/
def mcGone (s : State) (n : Nat) : Bool :=
  match siteOf s n with
  | none => true
  | some c => bstate s (Pg.cor c) = B.absent || bstate s (Pg.cor c) = B.retired

/-- One flit written to a target's scratchpad; `false` where it does not fit. -/
def mcWrite (n : Nat) (f : Flit) (s : State) : Bool × State :=
  match siteOf s n with
  | none => (false, s)
  | some c =>
    let off := f.addr.toNat / 128 * 128
    if off + 128 ≤ sizeOfSite s c then (true, updCore c (fun x => spadPut x off (bytesOf 128 f.data.toNat)) s) else (false, s)

/-- The row of a source and transaction. -/
def mcRow (s : State) (k : Nat × Nat) : Option Mcast := s.mcasts.find? (fun m => m.ep = k.1 ∧ m.txn = k.2)

/-- That row changed. -/
def updMc (k : Nat × Nat) (g : Mcast → Mcast) (s : State) : State :=
  { s with mcasts := s.mcasts.map (fun m => if m.ep = k.1 ∧ m.txn = k.2 then g m else m) }

/-- The row that a multicast flit belongs to. -/
def mcKey (f : Flit) : Nat × Nat := (f.src.toNat, f.txn.toNat)

/-! Outputs of the replication path (R436): a leaf's output to target `n` is `n`; a spine's output to leaf L is `128 + L`; the source
leaf's output to the spine is `mcUp`; `mcSrc` is the source's own port, where a flit waits for credit (R424). -/

/-- A source leaf's output to the spine. -/
abbrev mcUp : Nat := 160
/-- The port of the source. -/
abbrev mcSrc : Nat := 192

/-- The spine of a multicast flit: DST is its source endpoint (R436). -/
def mcSpine (s : State) (f : Flit) : Nat := spineOf s f.addr.toNat f.src.toNat

/-- Two copies at outputs of one number are in one replication buffer. -/
def mcSame (s : State) (o : Nat) (f g : Flit) : Bool :=
  if o < 128 then portOfAddr f.addr.toNat == portOfAddr g.addr.toNat
  else if o < mcUp then mcSpine s f == mcSpine s g
  else if o = mcUp then leafOf f.src.toNat == leafOf g.src.toNat && mcSpine s f == mcSpine s g
  else f.src == g.src && flitPort s f == flitPort s g

/-- Copies held in the buffer that a copy of `f` at output `o` enters. -/
def mcCount (s : State) (o : Nat) (f : Flit) : Nat :=
  ((s.mcasts.flatMap (·.held)).filter (fun h => h.1 = o && mcSame s o f h.2)).length

/-- A flit that entered at leaf 20 toward a core that does not wait for its push (R439, R717). -/
def pushShut (s : State) (f : Flit) (n : Nat) : Bool := decide (f.src.toNat = 0x180) && !(s.alm.waits.contains n)

/-- Targets of a row on a leaf that a flit may still reach. -/
def mcLive (s : State) (f : Flit) (r : Mcast) (leaf : Nat) : List Nat :=
  (bitsSet 120 r.mask.toNat).filter (fun n =>
    decide ((siteOf s n).bind leafOf = some leaf) && !mcGone s n && !bit r.dropped n && !pushShut s f n)

/-- The leaves with a target that a flit may still reach. -/
def mcLeaves (s : State) (f : Flit) (r : Mcast) : List Nat := (List.range 12).filter (fun l => mcLive s f r l ≠ [])

/-- A target is marked missed, counted once. -/
def mcMiss (k : Nat × Nat) (n : Nat) (s : State) : State :=
  match mcRow s k with
  | none => s
  | some r => if bit r.missed n then s else updMc k (fun m => { m with missed := setBit m.missed n true }) (satR Pg.netm R.NETM_MC_MISSED 1 s)

/-- A copy is dropped, and with it everything of its row toward the targets beneath its output: they are marked missed, and the first drop
is recorded with the lowest of them (R437, R438, R463). -/
def mcDrop (k : Nat × Nat) (beneath : List Nat) (s : State) : State :=
  match mcRow s k, beneath with
  | some r, n :: _ =>
    let s := firstR Pg.netm R.NETM_LAST_DROP (r.grp * 256 + n) (satR Pg.netm R.NETM_MC_DROPS 1 s)
    let s := updMc k (fun m => { m with dropped := beneath.foldl (fun d t => setBit d t true) m.dropped,
                                        held := m.held.filter (fun h => !(beneath.contains h.1)) }) s
    foldS (fun t => mcMiss k t) beneath s
  | _, _ => s

/-- A copy of `f` holds at an output with the targets `beneath` it; with NETM_MC_HOLD = 0 it is dropped at once (R437, R438). -/
def mcHold (o : Nat) (beneath : List Nat) (f : Flit) (s : State) : State :=
  if o ≠ mcSrc ∧ getF s Pg.netm R.NETM_MC_HOLD 0 16 = 0 then mcDrop (mcKey f) beneath s
  else
    let s := updMc (mcKey f) (fun m => { m with held := m.held ++ [(o, f)] }) s
    if o = mcSrc then s else satR Pg.netm R.NETM_MC_HOLDS 1 s

/-- A copy of `f` reaches target `n`: written, held for want of credit or behind another, or missed. -/
def mcTarget (blocked : BitVec 120) (f : Flit) (n : Nat) (s : State) : State :=
  if bit blocked n ∨ mcCount s n f ≠ 0 then mcHold n [n] f s
  else
    let (ok, s) := mcWrite n f s
    if ok then s else mcMiss (mcKey f) n s

/-- A leaf takes a copy of `f` when each of its outputs toward a target has room in its buffer of 4. -/
def mcLeafRoom (s : State) (blocked : BitVec 120) (f : Flit) (r : Mcast) (leaf : Nat) : Bool :=
  (mcLive s f r leaf).all (fun n => (!bit blocked n && decide (mcCount s n f = 0)) || decide (mcCount s n f < 4))

/-- A copy of `f` in a leaf goes to that leaf's targets. -/
def mcLeaf (blocked : BitVec 120) (f : Flit) (leaf : Nat) (s : State) : State :=
  match mcRow s (mcKey f) with
  | none => s
  | some r => foldS (mcTarget blocked f) (mcLive s f r leaf) s

/-- A copy of `f` on its spine goes to each leaf with a target that is not the source's own; one that a leaf cannot take holds at the
output to that leaf. -/
def mcSpineGo (blocked : BitVec 120) (f : Flit) (s : State) : State :=
  match mcRow s (mcKey f) with
  | none => s
  | some r =>
    foldS (fun l s =>
      if decide (mcCount s (128 + l) f = 0) && mcLeafRoom s blocked f r l then mcLeaf blocked f l s
      else mcHold (128 + l) (mcLive s f r l) f s) ((mcLeaves s f r).filter (fun l => leafOf f.src.toNat ≠ some l)) s

/-- A spine takes a copy of `f` when each of its outputs toward a leaf with a target has room. -/
def mcSpineRoom (s : State) (f : Flit) (r : Mcast) : Bool :=
  ((mcLeaves s f r).filter (fun l => leafOf f.src.toNat ≠ some l)).all (fun l => decide (mcCount s (128 + l) f < 4))

/-- Targets of a flit that lie on another leaf than its source. -/
def mcBeyond (s : State) (f : Flit) (r : Mcast) : List Nat :=
  ((mcLeaves s f r).filter (fun l => leafOf f.src.toNat ≠ some l)).flatMap (mcLive s f r)

/-- A flit in its source leaf: its copies go to the targets of that leaf, and one to the spine if another leaf has a target. -/
def mcSourceGo (blocked : BitVec 120) (f : Flit) (s : State) : State :=
  match mcRow s (mcKey f) with
  | none => s
  | some r =>
    let beyond := mcBeyond s f r
    let s := match leafOf f.src.toNat with | some l => mcLeaf blocked f l s | none => s
    if beyond = [] then s
    else if decide (mcCount s mcUp f = 0) && mcSpineRoom s f r then mcSpineGo blocked f s
    else mcHold mcUp beyond f s

/-- A source leaf takes a flit when its own outputs have room for it. -/
def mcSourceRoom (s : State) (blocked : BitVec 120) (f : Flit) (r : Mcast) : Bool :=
  (match leafOf f.src.toNat with | some l => mcLeafRoom s blocked f r l | none => true) && decide (mcCount s mcUp f < 4)

/-- A held copy is taken out of its buffer. -/
def mcUnhold (o : Nat) (f : Flit) (s : State) : State := updMc (mcKey f) (fun m => { m with held := m.held.erase (o, f) }) s

/-- The held copies at outputs that `p` selects, rows in the order in which they entered. -/
def mcHeldAt (s : State) (p : Nat → Bool) : List (Nat × Flit) := (s.mcasts.flatMap (·.held)).filter (fun h => p h.1)

/-- Copies held for a target that has credit again are written in order. -/
def mcRelease (blocked : BitVec 120) (s : State) : State :=
  foldS (fun (h : Nat × Flit) s =>
    if bit blocked h.1 then s
    else
      let (ok, s) := mcWrite h.1 h.2 (collectBusy ((siteOf s h.1).getD 0x1FF) (mcUnhold h.1 h.2 s))
      if ok then s else mcMiss (mcKey h.2) h.1 s) (mcHeldAt s (fun o => decide (o < 128))) s

/-- Copies held further up go on where the buffers they wait for have room: at spines, then at source leaves, then at sources. The first
of each buffer goes first. -/
def mcAdvance (blocked : BitVec 120) (s : State) : State :=
  let first := fun (s : State) (h : Nat × Flit) => (mcHeldAt s (fun o => o = h.1)).find? (fun g => mcSame s h.1 h.2 g.2) == some h
  let row := fun (s : State) (h : Nat × Flit) => (mcRow s (mcKey h.2)).getD ⟨0, 0, 0, 0, 0, 0, [], [], none⟩
  let s := foldS (fun h s =>
    if first s h && mcLeafRoom s blocked h.2 (row s h) (h.1 - 128) then mcLeaf blocked h.2 (h.1 - 128) (mcUnhold h.1 h.2 s) else s)
    (mcHeldAt s (fun o => decide (128 ≤ o) && decide (o < mcUp))) s
  let s := foldS (fun h s => if first s h && mcSpineRoom s h.2 (row s h) then mcSpineGo blocked h.2 (mcUnhold h.1 h.2 s) else s)
    (mcHeldAt s (fun o => o = mcUp)) s
  foldS (fun h s => if first s h && mcSourceRoom s blocked h.2 (row s h) then mcSourceGo blocked h.2 (mcUnhold h.1 h.2 s) else s)
    (mcHeldAt s (fun o => o = mcSrc)) s

/-- MCREP for the row of flit `f` (R439): the delivery mask, or an error completion. -/
def mcReport (f : Flit) (status missed : Nat) (s : State) : State :=
  let g : Flit := { f with typ := 5, status := BitVec.ofNat 2 status, src := f.dst, dst := f.src, data := BitVec.ofNat 1024 missed, rtag := 0,
                           last := false, glaze := 0, sdie := BitVec.ofNat 12 (dieNum s) }
  if ownFlit s f then flitSend g s else (postFlit f.sdie.toNat g s).2

/-- Rows whose last flit is resolved at every branch send their reports (R439). -/
def mcSettle (s : State) : State :=
  let done := s.mcasts.filter (fun r => r.last.isSome && decide (r.held = []))
  foldS (fun (r : Mcast) s => match r.last with
    | some f => mcReport f 0 r.missed.toNat s
    | none => s) done { s with mcasts := s.mcasts.filter (fun r => !(r.last.isSome && decide (r.held = []))) }

/-- A multicast flit enters its source leaf and reaches the branches; `blocked` names the targets whose outputs have no credit. A flit
seen before brings only credit. While NETB is neither Running nor Stopping the row completes with error (R432). -/
def mcOp (f : Flit) (blocked : BitVec 120) (s : State) : State :=
  let (go, s) := headerOk f s
  if go then
    if bstate s Pg.netb = B.starting then { s with heldReqs := s.heldReqs ++ [(Pg.netb, f)] }
    else if bstate s Pg.netb ≠ B.running ∧ bstate s Pg.netb ≠ B.stopping then mcReport f 1 0 s
    else
      let k := mcKey f
      let s := match mcRow s k with
        | some _ => s
        | none =>
          let grp := f.rtag.toNat / 256
          wrapR Pg.netm R.NETM_MC_SENT 1 { s with mcasts := s.mcasts ++
            [{ ep := k.1, txn := k.2, grp := grp, mask := BitVec.ofNat 120 (netmMask s grp), missed := 0, dropped := 0, seen := [], held := [], last := none }] }
      let s := mcAdvance blocked (mcRelease blocked s)
      match mcRow s k with
      | none => mcSettle s
      | some r =>
        if r.seen.contains f.addr.toNat then mcSettle s
        else
          let s := updMc k (fun m => { m with seen := m.seen ++ [f.addr.toNat], last := if f.last then some f else m.last }) s
          let s := foldS (fun n s => if mcGone s n ∨ pushShut s f n then mcMiss k n s else s) (bitsSet 120 r.mask.toNat) s
          mcSettle (if decide (mcCount s mcSrc f = 0) && mcSourceRoom s blocked f r then mcSourceGo blocked f s else mcHold mcSrc [] f s)
  else s

/-- Targets beneath an output on which a copy of `f` holds. -/
def mcBeneath (s : State) (o : Nat) (f : Flit) (r : Mcast) : List Nat :=
  if o < 128 then [o] else if o < mcUp then mcLive s f r (o - 128) else if o = mcUp then mcBeyond s f r else []

/-- NETM_MC_HOLD runs out on the copy that holds toward a target, at the output nearest to it (R437, R438). -/
def mcExpire (txn target : Nat) (s : State) : State :=
  match (s.mcasts.filter (fun m => m.txn = txn)).findSome? (fun r =>
      ([target, 128 + ((siteOf s target).bind leafOf).getD 0, mcUp].findSome? (fun o => r.held.find? (fun h => h.1 = o))).map (fun h => (r, h))) with
  | none => s
  | some (r, h) =>
    let beneath := mcBeneath s h.1 h.2 r
    if beneath.contains target then mcSettle (mcAdvance 0 (mcDrop (mcKey h.2) beneath (mcUnhold h.1 h.2 s))) else s

/-- MCREP reaches the source engine: it writes the delivery record, and the row is done (R391, R439). -/
def mcrepOp (f : Flit) (s : State) : State :=
  let (go, s) := headerOk f s
  if go then
    match opFind s f with
    | none => lateResponse f s
    | some o =>
      let s := opDone o s
      match o.kind with
      | .mcastRow c e n =>
        if f.status ≠ 0 then opDrain (opError o s)
        else
        match (moverAt s c (e = 1)).jobs.find? (fun j => j.serial = n) with
        | none => opDrain s
        | some j =>
          let m := f.data.toNat % 2 ^ 120
          let s := updCore c (fun x => spadPut x (dSStride j.bits) (bytesOf 16 m)) s
          let s := if m = 0 then s else satR (Pg.mov c) R.MOV_MC_MISSES 1 s
          opDrain (jobOps c (e = 1) n false 1 s)
      | _ => opDrain (opError o s)
  else s

/-! ### Reductions (R440–R449) -/

/-- Address of the tag table, if it is local, 2 MiB aligned and within the home size (R460). -/
def rtabBase (s : State) : Option Nat :=
  match ownAddr s (getQ s Pg.netb R.NETB_RTAB_LO).toNat with
  | some a => if a % 2097152 = 0 ∧ a + 2097152 ≤ homeSize s then some a else none
  | none => none

/-- A tag's entry, read where the chiplet's cache of 256 entries does not hold it (R442). Which entry makes room is left
open. -/
def rtabRead (tag : Nat) (s : State) : Option (BitVec 256) × State :=
  match s.tagCache.find? (fun e => e.1 = tag) with
  | some e => (some e.2, s)
  | none =>
    let s := wrapR Pg.netb R.NETB_RTAB_MISS 1 s
    match rtabBase s with
    | none => (none, s)
    | some a =>
      match homeOf s (a + 32 * tag) with
      | .error _ => (none, s)
      | .ok h =>
        if isUe s h.key then (none, s)
        else
          let e := BitVec.ofNat 256 (numOf (dramBytes s h.key 32))
          let (k, s) := if s.tagCache.length < 256 then (256, s) else let (v, s) := fresh s; (v.toNat % 256, s)
          (some e, { s with tagCache := s.tagCache.eraseIdx k ++ [(tag, e)] })

/-- Fields of an entry (R440). -/
def rtMask (e : BitVec 256) : Nat := fld e 0 120
def rtValid (e : BitVec 256) : Bool := bit e 135
def rtLeaven (e : BitVec 256) : Bool := bit e 134
def rtInt (e : BitVec 256) : Bool := bit e 133
def rtPtn (e : BitVec 256) : Nat := fld e 128 4
def rtCount (e : BitVec 256) (k : Nat) : Nat := fld e (144 + 8 * k) 8

/-- The block that a contribution is for: the parameter block of an LVN flit (R427). -/
def redAddr (f : Flit) : Nat := if f.typ = 8 then f.addr.toNat / 65536 * 128 else f.addr.toNat / 128 * 128

/-- Rank of a contributor in the order of R443. -/
def redRank (grp logical die : Nat) : Nat := if grp = 8 then logical else 120 + (grp - 4) * 4096 + die

/-- Contributions already added, the leading ones in the order of R443: local contributors that are all there, then whole link groups.
Within a group the die numbers that are still to come are not known, so its sums are added once all of them are there. -/
def redPrefix (r : RedBlk) : Nat :=
  let locals := bitsSet 120 r.mask
  let n := (locals.takeWhile (fun n => r.parts.any (fun p => p.1 = n))).length
  if n < locals.length then n
  else
    let got := fun (k : Nat) => (r.parts.filter (fun p => p.2.2 = 4 + k)).length
    let want := fun (k : Nat) => (r.counts[k]?).getD 0
    let whole := ((List.range 4).takeWhile (fun k => got k = want k)).length
    n + ((List.range whole).map want).foldl (· + ·) 0

/-- Contributions of a block that are parked. -/
def redParked (r : RedBlk) : Nat := r.parts.length - redPrefix r

/-- All contributions of a block are there. -/
def redFull (r : RedBlk) : Bool :=
  (bitsSet 120 r.mask).all (fun n => r.parts.any (fun p => p.1 = n)) &&
  (List.range 4).all (fun k => (r.parts.filter (fun p => p.2.2 = 4 + k)).length = (r.counts[k]?).getD 0)

/-- One add of 32 elements (R443). -/
def addRow (int : Bool) (a b : Nat) : Nat :=
  packE 32 ((List.range 32).map (fun k =>
    let x := a >>> (32 * k) % 2 ^ 32
    let y := b >>> (32 * k) % 2 ^ 32
    if int then (x + y) % 2 ^ 32 else (convert .f32 .near ((decodeNum .f32 x).add (decodeNum .f32 y))).1))

/-- The parts of a block in the order of R443. -/
def redOrder (l : List (Nat × Flit × Nat)) : List (Nat × Flit × Nat) :=
  l.foldl (fun a p => a.filter (fun q => q.1 ≤ p.1) ++ [p] ++ a.filter (fun q => p.1 < q.1)) []

/-- The sum of a block. -/
def redSum (r : RedBlk) : Nat :=
  match redOrder r.parts with
  | [] => 0
  | p :: t => t.foldl (fun a q => addRow r.int a q.2.1.data.toNat) p.2.1.data.toNat

/-- NETB_RED_OPEN. -/
def redOpenNote (s : State) : State := setR Pg.netb R.NETB_RED_OPEN (BitVec.ofNat 32 s.reds.length) s

/-- Who is told of a sum: the core of this die that contributed, or the spine of the die whose partial sum was added (R446). -/
def redSource (s : State) (grp : Nat) (f : Flit) : Nat × Nat × Nat :=
  if grp = 8 then (f.src.toNat, f.txn.toNat, dieNum s) else (spineEp, f.txn.toNat, f.sdie.toNat)

/-- A complete block's sum leaves the spine (R445): written on this die, or sent on as a partial sum. -/
def redFinish (r : RedBlk) (s : State) : State :=
  let s := redOpenNote { s with reds := s.reds.filter (fun b => ¬ (b.tag = r.tag ∧ b.die = r.die ∧ b.addr = r.addr)) }
  let contribs := (redOrder r.parts).map (fun p => redSource s p.2.2 p.2.1)
  match (redOrder r.parts).head? with
  | none => s
  | some p =>
    let f := p.2.1
    let (t, s) := newTxn s
    let v := redSum r
    let a := redAddr f
    let here := decide (r.die = dieNum s)
    let g : Flit := { f with typ := if r.leaven then 8 else if here then 1 else 6, src := BitVec.ofNat 9 spineEp,
                             dst := BitVec.ofNat 9 (redDst s r.die a), txn := BitVec.ofNat 14 t,
                             ptn := BitVec.ofNat 4 r.ptn, data := BitVec.ofNat 1024 v, ben := BitVec.allOnes 128, ecc := 0,
                             glaze := crc32c (glzSeed a) (bytesOf 128 v), sdie := BitVec.ofNat 12 (dieNum s),
                             rtag := if here && !r.leaven then 0 else f.rtag, rtype := f.rtype && !here && !r.leaven }
    let o : Op := { mkOp s t spineEp r.die a (.redWrite contribs r.leaven) with ptn := r.ptn }
    if here then flitSend g { s with ops := s.ops ++ [o] }
    else
      let (went, s) := postFlit r.die g s
      if went then { s with ops := s.ops ++ [o] } else foldS (rackTo 1) contribs s

/-- A stray contribution: an error completion to its source, counted (R447). -/
def redStray (f : Flit) (grp : Nat) (s : State) : State :=
  let s := firstR Pg.netb R.NETB_ERR (f.typ.toNat * 2 ^ 27 + 3 * 2 ^ 24 + f.src.toNat) (satR Pg.netb R.NETB_RED_STRAY 1 s)
  rackTo 1 (redSource s grp f) s

/-- A contribution is stray by its entry alone (R447). -/
def redBad (s : State) (e : BitVec 256) (f : Flit) (grp : Nat) : Bool :=
  let logical := if grp = 8 then logicalAt s f.src.toNat else none
  let lv := decide (f.typ = 8)
  !rtValid e || (decide (grp = 8) && (match logical with | some n => !(rtMask e).testBit n | none => true)) ||
  decide (f.ptn.toNat ≠ rtPtn e) || f.rtype != rtInt e || lv != rtLeaven e || (lv && decide (grp = G.off))

/-- The Glaze of a contribution that is added is verified (R540). -/
def redGlaze (p : Nat) (f : Flit) (s : State) : State :=
  if f.glaze == crc32c (glzSeed (redAddr f)) (bytesOf 128 f.data.toNat) then s else ptnFault p PC.glaze s

/-- A contribution that came through group `grp` (8: a core of this die) at its spine: discarded, stray, added or parked; `false` where it
must wait in its queue (R444, R448). -/
def redArrive (f : Flit) (grp : Nat) (s : State) : Bool × State :=
  let (e, s) := rtabRead f.rtag.toNat s
  match e with
  | none => (true, redStray f grp s)
  | some e =>
    let p := rtPtn e
    if rtValid e ∧ s.redDead.contains p then (true, satR Pg.netb R.NETB_RED_DISCARD 1 s)
    else if redBad s e f grp then (true, redStray f grp s)
    else
      let lv := decide (f.typ = 8)
      let a := if lv then f.addr.toNat else redAddr f
      let die := f.die.toNat
      let rank := redRank grp ((if grp = 8 then logicalAt s f.src.toNat else none).getD 0) f.sdie.toNat
      let sp := spineOf s (redAddr f) (redDst s die (redAddr f))
      let counts := (List.range 4).map (rtCount e)
      let here := s.reds.filter (fun x => x.spine = sp)
      let parked : Nat := (here.map redParked).foldl (· + ·) 0
      -- the block with this contribution: the next in order, the last one, or one that takes a parking place
      let fits := fun (b b2 : RedBlk) => decide (redPrefix b < redPrefix b2) || redFull b2 || decide (parked < 512)
      match s.reds.find? (fun b => b.tag = f.rtag.toNat ∧ b.die = die ∧ b.addr = a) with
      | some b =>
        if b.parts.any (fun q => q.1 = rank) then (false, s)
        else if grp ≠ 8 ∧ (b.counts[grp - 4]?).getD 0 ≤ (b.parts.filter (fun q => q.2.2 = grp)).length then (true, redStray f grp s)
        else
          let b2 := { b with parts := b.parts ++ [(rank, f, grp)] }
          if fits b b2 then
            let s := { s with reds := s.reds.map (fun x => if x = b then b2 else x) }
            (true, redGlaze p f (if redFull b2 then redFinish b2 s else s))
          else (false, s)
      | none =>
        let b0 : RedBlk := { tag := f.rtag.toNat, die := die, addr := a, ptn := p, leaven := lv, int := rtInt e, spine := sp, parts := [],
                             mask := rtMask e, counts := counts }
        let b := { b0 with parts := [(rank, f, grp)] }
        if grp ≠ 8 ∧ (counts[grp - 4]?).getD 0 = 0 then (true, redStray f grp s)
        else if 256 ≤ here.length ∨ !fits b0 b then (false, s)
        else
          let s := redOpenNote { s with reds := s.reds ++ [b] }
          (true, redGlaze p f (if redFull b then redFinish b s else s))

/-- The queue of a spine input that a contribution stands in: one for each source endpoint (R444). -/
def redQueue (s : State) (e : Nat × Flit) : Nat × Nat × Nat × Nat :=
  (e.1, e.2.src.toNat, e.2.sdie.toNat, spineOf s (redAddr e.2) (redDst s e.2.die.toNat (redAddr e.2)))

/-- Contributions that wait are offered again, each queue from its first one on, until one must wait. -/
def redPass (s : State) : State :=
  let w := s.redWait
  (w.foldl (fun (st : List (Nat × Nat × Nat × Nat) × State) e =>
    let q := redQueue st.2 e
    if st.1.contains q then (st.1, { st.2 with redWait := st.2.redWait ++ [e] })
    else
      let (took, s) := redArrive e.2 e.1 st.2
      if took then (st.1, s) else (st.1 ++ [q], { s with redWait := s.redWait ++ [e] })) ([], { s with redWait := [] })).2

/-- Passes over the waiting contributions until none of them goes on. -/
def redPasses : Nat → State → State
  | 0, s => s
  | n + 1, s =>
    let t := redPass s
    if t.redWait.length < s.redWait.length then redPasses n t else t

/-- Contributions that waited go on as far as the spines have room. -/
def redSettle (s : State) : State := redPasses s.redWait.length s

/-- RED and LVN contributions at a spine. A partial sum for another die is only forwarded (R573). -/
def redOp (f : Flit) (grp : Nat) (s : State) : State :=
  let (go, s) := headerOk f s
  if go then
    if bstate s Pg.netb = B.starting then { s with redWait := s.redWait ++ [(grp, f)] }
    else if bstate s Pg.netb ≠ B.running ∧ bstate s Pg.netb ≠ B.stopping then rackTo 1 (redSource s grp f) s
    else redSettle { s with redWait := s.redWait ++ [(grp, f)] }
  else s

/-- NETB enters Running: what it held while Starting is taken up (R86). -/
def netbRunning (s : State) : State :=
  let fs := s.heldReqs.filterMap (fun e => if e.1 = Pg.netb ∧ e.2.typ = 4 then some e.2 else none)
  redSettle (foldS (fun f => mcOp f 0) fs { s with heldReqs := s.heldReqs.filter (fun e => !(e.1 = Pg.netb ∧ e.2.typ = 4)) })

/-- The group that a contribution from another die came through, where the command does not say. -/
def redGroup (s : State) (f : Flit) : Nat := if ownFlit s f then 8 else routeFirst s f.sdie.toNat

/-- Cached entries of a partition dropped at its tick (R442). -/
def tagsDrop (p : Nat) (s : State) : State := { s with tagCache := s.tagCache.filter (fun e => rtPtn e.2 ≠ p) }

/-! ### The commands -/

/-- RACK. -/
def execRack (f : Flit) (s : State) : Host.Outcome State Fault Refusal := act s (rackOp f s)

/-- MCREP. -/
def execMcrep (f : Flit) (s : State) : Host.Outcome State Fault Refusal := act s (mcrepOp f s)

/-- MC_HOLD_EXPIRE. -/
def execMcHoldExpire (txn : BitVec 14) (target : Nat) (s : State) : Host.Outcome State Fault Refusal :=
  onUnit target 120 (mcExpire txn.toNat target) s

/-- RED. -/
def execRed (f : Flit) (s : State) : Host.Outcome State Fault Refusal := act s (redOp f (redGroup s f) s)

/-- NETM_MASK_COMMIT. -/
def execNetmMaskCommit (v : Word) (s : State) : Host.Outcome State Fault Refusal := act s (maskCommit v s)

end Sys2Proof.Machine
end

