-- ==== Sys2Proof/Machine/Leaven.lean ====
section
/-! DEFINITION. Leaven (R573–R605): staging of gradient records, commit and discard notices, batches, the update rules and
the preconditioner. -/

namespace Sys2Proof.Machine

/-! ### Records -/

/-- LVN_STAGED and LVN_READY follow the records of slice `i`; ready records are staged until they are applied. -/
def lvnNote (i : Nat) (s : State) : State :=
  let x := sliceAt s i
  let ready := x.batches.foldl (fun n b => n + b.recs.length) 0
  setR (Pg.lvn i) R.LVN_READY (BitVec.ofNat 32 ready) (setR (Pg.lvn i) R.LVN_STAGED (BitVec.ofNat 32 (x.lvnRecs.length + ready)) s)

/-- The staging store has room: 8,192 records per way of LVN_STAGE_WAYS (R577). -/
def lvnRoom (s : State) (i : Nat) : Bool :=
  decide (getN s (Pg.lvn i) R.LVN_STAGED < 8192 * (bitsSet 16 (getN s (Pg.lvn i) R.LVN_STAGE_WAYS)).length)

/-- Parameter block address and group of an LVN flit (R427). -/
def lvnBlk (f : Flit) : Nat := f.addr.toNat / 65536 * 128
def lvnGroup (f : Flit) : Nat := fld f.addr 4 12

/-- An LVN flit is refused with an error completion (R576). -/
def lvnRefuse (f : Flit) (s : State) : State := respond 3 1 [] 0 false f s

/-- A record staged and acknowledged (R575). -/
def lvnStage (i : Nat) (h : Home) (f : Flit) (origins : List (BitVec 12 × BitVec 4)) (s : State) : State :=
  let r : LvnRec := { blk := lvnBlk f, line := h.off / 128, group := lvnGroup f, data := f.data, glaze := f.glaze,
                      origins := (origins.take 8).map (fun o => (o.1.toNat, o.2.toNat, 0, false)) }
  respondWack f (lvnNote i (updSlice i (fun x => { x with lvnRecs := x.lvnRecs ++ [r] }) s))

/-- An LVN flit at its slice: refused, staged, or waiting while the page is Starting or the store is full (R575–R577, R86).
Flits beyond the first 64 of the queue stand in the network. -/
def lvnTake (i : Nat) (h : Home) (f : Flit) (origins : List (BitVec 12 × BitVec 4)) (s : State) : State :=
  let wait := updSlice i (fun x => { x with lvnQueue := x.lvnQueue ++ [(f, origins)] }) s
  if bstate s (Pg.lvn i) = B.starting then wait
  else if !runs s (Pg.lvn i) || decide (getF s (Pg.lvn i) R.LVN_GROUPS 0 13 ≤ lvnGroup f)
    || f.glaze != crc32c (glzSeed (lvnBlk f)) (bytesOf 128 f.data.toNat) then lvnRefuse f s
  else if lvnRoom s i && (sliceAt s i).lvnQueue.isEmpty then lvnStage i h f origins s
  else wait

/-- A gradient sum that arrives while NETB is in Starting waits in its slice's queue (R86). -/
def lvnKeep (f : Flit) (origins : List (BitVec 12 × BitVec 4)) (s : State) : State :=
  match homeOf s (lvnBlk f) with
  | .ok h => updSlice h.slice (fun x => { x with lvnQueue := x.lvnQueue ++ [(f, origins)] }) s
  | .error _ => lvnRefuse f s

/-- LVN: a gradient sum reaches its home slice. -/
def lvnOp (f : Flit) (origins : List (BitVec 12 × BitVec 4)) (s : State) : State :=
  let (go, s) := headerOk f s
  if go then
    if bstate s Pg.netb = B.starting then lvnKeep f origins s
    else if !runs s Pg.netb then lvnRefuse f s
    else
      match homeOf s (lvnBlk f) with
      | .error (r, some i) => lvnRefuse f (sliceErr i r (lvnBlk f) (rqPtn s f) s)
      | .error (_, none) => lvnRefuse f s
      | .ok h => lvnTake h.slice h f origins s
  else s

/-- A place of the 64-flit queue has come free for a flit that stood in the network: the wait is counted (R577, R453). -/
def lvnWaited (i : Nat) (s : State) : State :=
  if 64 ≤ (sliceAt s i).lvnQueue.length then collectBusy (0x100 + i) (satFree (Pg.lvn i) R.LVN_FULL_BC s) else s

/-- LVN_QUEUE_STAGE: the first flit of the slice's queue is staged once the store has room (R577), or refused if the page
has left Running. -/
def lvnQueueOp (i : Nat) (s : State) : State :=
  match (sliceAt s i).lvnQueue with
  | [] => s
  | (f, o) :: t =>
    let out := lvnWaited i (updSlice i (fun x => { x with lvnQueue := t }) s)
    if bstate s (Pg.lvn i) = B.starting ∨ bstate s Pg.netb = B.starting then s
    else
      match homeOf s (lvnBlk f) with
      | .error _ => lvnRefuse f out
      | .ok h =>
        if !runs s (Pg.lvn i) || decide (getF s (Pg.lvn i) R.LVN_GROUPS 0 13 ≤ lvnGroup f)
          || f.glaze != crc32c (glzSeed (lvnBlk f)) (bytesOf 128 f.data.toNat) then lvnRefuse f out
        else if lvnRoom s i then lvnStage i h f o out else s

/-! ### Notices (R578–R583) -/

/-- Origin (d, p) of a record is waited for. -/
def waitsFor (d p : Nat) (r : LvnRec) : Bool := r.origins.any (fun o => o.1 = d && o.2.1 = p && !o.2.2.2)

/-- The origin marked committed with the Sol sequence of the notice. -/
def markOrigin (d p : Nat) (q : DWord) (r : LvnRec) : LvnRec :=
  { r with origins := r.origins.map (fun o => if o.1 = d ∧ o.2.1 = p ∧ o.2.2.2 = false then (d, p, q, true) else o) }

/-- Every origin has committed. -/
def recReady (r : LvnRec) : Bool := r.origins.all (fun o => o.2.2.2)

/-- LVN_COMMIT at slice `i` (R581, R584): what becomes ready forms one batch. -/
def lvnCommitAt (d p : Nat) (q : DWord) (i : Nat) (s : State) : State :=
  let x := sliceAt s i
  let marked := x.lvnRecs.map (fun r => (waitsFor d p r, markOrigin d p q r))
  let ready := (marked.filter (fun e => e.1 && recReady e.2)).map (·.2)
  let rest := (marked.filter (fun e => !(e.1 && recReady e.2))).map (·.2)
  let b := if ready = [] then [] else [{ at_ := s.time, recs := ready : LvnBatch }]
  if x.lvnRecs = [] then s else lvnNote i (setSlice i { x with lvnRecs := rest, batches := x.batches ++ b } s)

/-- A staged record is discarded by a notice or by the loss of a die (R581–R583): one of which an origin had committed is a
split. -/
def lvnDropRec (i : Nat) (r : LvnRec) (s : State) : State :=
  let s := satR (Pg.lvn i) R.LVN_DISCARDS 1 s
  if r.origins.any (fun o => o.2.2.2) then namedAlarm (Pg.lvn i) 1 (satR (Pg.lvn i) R.LVN_SPLITS 1 s) else s

/-- Staged records that are not ready and satisfy a test are discarded. -/
def lvnDropIf (i : Nat) (t : LvnRec → Bool) (s : State) : State :=
  let l := (sliceAt s i).lvnRecs.filter t
  if l = [] then s
  else lvnNote i (foldS (lvnDropRec i) l (updSlice i (fun x => { x with lvnRecs := x.lvnRecs.filter (fun r => !t r) }) s))

/-- LVN_COMMIT and LVN_DISCARD reach every slice of the die. -/
def lvnCommitOp (d p : Nat) (q : DWord) (s : State) : State := foldS (lvnCommitAt d p q) (List.range nSlices) s
def lvnDiscardOp (d p : Nat) (s : State) : State := foldS (fun i => lvnDropIf i (waitsFor d p)) (List.range nSlices) s

/-- A die has become unreachable (R583). -/
def lvnDieLost (d : Nat) (s : State) : State :=
  foldS (fun i => lvnDropIf i (fun r => r.origins.any (fun o => o.1 = d && !o.2.2.2))) (List.range nSlices) s

/-- ABORT discards every staged record, ready ones included (R602); requests held for them go on. -/
def lvnAbort (i : Nat) (s : State) : State :=
  let x := sliceAt s i
  let ready := (x.batches.map (·.recs)).flatten
  let n := x.lvnRecs.length + ready.length
  let q := x.lvnQueue
  let s := setSlice i { x with lvnRecs := [], batches := [], lvnQueue := [] } s
  let s := lvnNote i (if n = 0 then s else satR (Pg.lvn i) R.LVN_DISCARDS n s)
  let s := foldS (fun (e : Flit × List (BitVec 12 × BitVec 4)) => lvnRefuse e.1) q s
  foldS (fun r => lineFree i r.line) ready s

/-- START: the cache drops its lines in the ways of LVN_STAGE_WAYS (R602). -/
def lvnStart (i : Nat) (s : State) : State :=
  let ws := getR s (Pg.lvn i) R.LVN_STAGE_WAYS
  foldS (fun k => cacheDrop i k) ((s.cache.filter (fun e => e.1 / 131072 = i && bit ws (e.1 % 16))).map (·.1)) s

/-- START records CONFIG (R605). -/
def lvnConfigBad (s : State) (i : Nat) : Bool :=
  let pg := Pg.lvn i
  let n := getF s pg R.LVN_GROUPS 0 13
  let a := getN s pg R.LVN_GTAB_LO + getF s pg R.LVN_GTAB_HI 0 16 * 2 ^ 32
  let piv := decodeNum Fmt.f32 (getN s pg R.LVN_PIVOT_MIN)
  let ws := getF s pg R.LVN_STAGE_WAYS 0 16
  n = 0 || decide (4096 < n) || decide (a % 4096 ≠ 0) || decide (homeSize s < a + 128 * n) ||
    !(piv.isFin && !piv.isZero && !piv.sign) || ws = 0 || decide (8 < (bitsSet 16 ws).length) ||
    decide (ws &&& getF s (Pg.cch i) R.CCH_WAYMASK 0 16 ≠ 0) || decide (ws &&& getF s (Pg.cch i) R.CCH_WAY_FAIL 0 16 ≠ 0)

/-! ### Arithmetic of the rules (R594) -/

/-- Sign and quotient of two finite values with enough bits that one rounding is correct. -/
def divTo (f : Fmt) (x y : Num) : Num :=
  match x, y with
  | .nan, _ => .nan
  | _, .nan => .nan
  | .inf _, .inf _ => .nan
  | .inf a, .fin t _ _ => .inf (a != t)
  | .fin s _ _, .inf b => .fin (s != b) 0 0
  | .fin s m e, .fin t n g =>
    if n = 0 then (if m = 0 then .nan else .inf (s != t))
    else
      let k := 72 + n.log2
      let q := m * 2 ^ k / n
      roundTo f (.fin (s != t) (2 * q + b2n (decide (m * 2 ^ k % n ≠ 0))) (e - g - k - 1))

/-- The square root, correctly rounded; that of a negative value is a NaN, that of −0 is −0. -/
def sqrtTo (f : Fmt) (x : Num) : Num :=
  match x with
  | .nan => .nan
  | .inf s => if s then .nan else .inf false
  | .fin s m e =>
    if m = 0 then .fin s 0 0
    else if s then .nan
    else
      let k := 140 + (e % 2).toNat
      let v := m * 2 ^ k
      let r := Nat.sqrt v
      roundTo f (.fin false (2 * r + b2n (decide (r * r ≠ v))) ((e - k) / 2 - 1))

def add32 (x y : Num) : Num := r32 (x.add y)
def sub32 (x y : Num) : Num := r32 (x.add y.neg)
def mul32 (x y : Num) : Num := r32 (x.mul y)
def add64 (x y : Num) : Num := r64 (x.add y)
def sub64 (x y : Num) : Num := r64 (x.add y.neg)
def mul64 (x y : Num) : Num := r64 (x.mul y)

/-- The value one. -/
def numOne : Num := .fin false 1 0

/-- β^n by square-and-multiply over the bits of `n` from the most significant, in binary64 (R594). -/
def powMsb (b : Num) (n : Nat) : Nat → Num → Num
  | 0, r => r
  | k + 1, r =>
    let r := mul64 r r
    powMsb b n k (if n.testBit k then mul64 r b else r)

/-- β^n rounded to binary32. -/
def powBeta (b : Num) (n : Nat) : Num := if n = 0 then numOne else r32 (powMsb b n n.log2 b)

/-- FP32 elements of bytes, and back. -/
def numsOf (bs : List Byte) : List Num := (List.range (bs.length / 4)).map (fun k => decodeNum Fmt.f32 (numOf ((bs.drop (4 * k)).take 4)))
def numBytes (l : List Num) : List Byte := (l.map (fun x => bytesOf 4 (convert Fmt.f32 .near x).1)).flatten

/-! ### Descriptors and curves (R588, R591, R592) -/

/-- A group descriptor as it was read: its 128 bytes. -/
abbrev LvnDesc := BitVec 1024

def gValid (g : LvnDesc) : Bool := bit g 31
def gFrozen (g : LvnDesc) : Bool := bit g 30
def gRule (g : LvnDesc) : Nat := fld g 27 3
def gBias (g : LvnDesc) : Bool := bit g 26
def gRefresh (g : LvnDesc) : Nat := fld g 18 8
def gOwner (g : LvnDesc) : Nat × Nat := (fld g 32 12, fld g 48 4)
def gPoints (g : LvnDesc) : Nat := fld g 56 8
def gQ (g : LvnDesc) (o : Nat) : Nat := fld g (8 * o) 64
def gF32 (g : LvnDesc) (o : Nat) : Num := decodeNum Fmt.f32 (fld g (8 * o) 32)

/-- Local address of a 64-bit field. -/
def gAddr (g : LvnDesc) (o : Nat) : Nat := gQ g o

/-- A block that Leaven reads (R600): `none` where the read completes with error or fails its Glaze. A block in a region of
2 KiB tiles counts as one that fails (R590). -/
def lvnRead (a : Nat) (s : State) : Option (List Byte) × State :=
  match homeOf s (a / 128 * 128) with
  | .error _ => (none, s)
  | .ok h =>
    let (ok, s) := homeLoad h s
    if ok ∧ bigTile s a = false ∧ (Tab.find s.badGlz h.key).isNone then (some (dramBytes s h.key 128), s) else (none, s)

/-- Consecutive blocks. -/
def lvnReads : Nat → Nat → State → Option (List Byte) × State
  | 0, _, s => (some [], s)
  | n + 1, a, s =>
    match lvnRead a s with
    | (none, s) => (none, s)
    | (some b, s) =>
      match lvnReads n (a + 128) s with
      | (none, s) => (none, s)
      | (some r, s) => (some (b ++ r), s)

/-- A changed block written with the Glaze of its new contents (R600), passed to the twin with the owner's SEQ (R601). A
block that is not changed is not written. -/
def lvnWrite (i : Nat) (owner : Nat × Nat) (q : DWord) (a : Nat) (bs : List Byte) (s : State) : State :=
  match homeOf s a with
  | .error _ => s
  | .ok h =>
    if dramBytes s h.key 128 = bs then s
    else
      let s := stackAccess h.slice 5 (chanOf h.key) (putDram h.key bs s)
      let s := clearUe h.key { s with badGlz := Tab.erase s.badGlz h.key }
      let s := dirSweep h.slice (h.off / 128) a (twinWrote true a h.key s)
      if bit (getR s (Pg.lvn i) R.LVN_CFG) 0 ∧ owner.1 = dieNum s ∧ ships s owner.2 then
        shipSend 5 owner.2 q (BitVec.ofNat 64 a) (blockBytes s a h.key) s
      else s

/-- Blocks of 128 bytes written in ascending order. -/
def lvnWrites (i : Nat) (owner : Nat × Nat) (q : DWord) (a : Nat) (bs : List Byte) (s : State) : State :=
  foldS (fun k => lvnWrite i owner q (a + 128 * k) ((bs.drop (128 * k)).take 128)) (List.range (bs.length / 128)) s

/-- The points of the schedule curve: step and value; `none` for reason CURVE. -/
def curveRead (g : LvnDesc) (s : State) : Option (List (Nat × Num)) × State :=
  let n := gPoints g
  if 64 < n then (none, s)
  else if n = 0 then (some [], s)
  else
    let a := gAddr g 0x28
    match lvnReads ((a % 128 + 8 * n + 127) / 128) (a / 128 * 128) s with
    | (none, s) => (none, s)
    | (some bs, s) =>
      let bs := bs.drop (a % 128)
      let pts := (List.range n).map (fun k => (numOf ((bs.drop (8 * k)).take 4), decodeNum Fmt.f32 (numOf ((bs.drop (8 * k + 4)).take 4))))
      (if (pts.zip (pts.drop 1)).all (fun e => decide (e.1.1 < e.2.1)) then some pts else none, s)

/-- The segment of the curve that holds t'. -/
def curveAt (t : Nat) : List (Nat × Num) → Num
  | [] => numOne
  | [(_, v)] => v
  | (a, v) :: (b, w) :: r =>
    if t ≤ a then v
    else if t < b then
      r32 (add64 v (divTo Fmt.f64 (mul64 (sub64 w v) (Num.ofInt (t - a))) (Num.ofInt (b - a))))
    else curveAt t ((b, w) :: r)

/-- The step counter of R591. -/
def stepOf (g : LvnDesc) (q : DWord) : Nat := (gQ g 0x38 + (q.toNat - gQ g 0x30)) % 2 ^ 64

/-- The learning rate η (R592). -/
def etaOf (g : LvnDesc) (pts : List (Nat × Num)) (t : Nat) : Num := mul32 (gF32 g 0x40) (curveAt (Nat.min t 0xFFFFFFFF) pts)

/-- g: scaled, then clamped (R593). -/
def gradOf (g : LvnDesc) (raw : Num) : Num :=
  let x := mul32 (gF32 g 0x54) raw
  let c := gF32 g 0x58
  if c.isZero then x else if c.lt x then c else if x.lt c.neg then c.neg else x

/-! ### The element rules (R593) -/

/-- η and the group's constants for one batch. -/
structure LvnStep where
  eta : Num
  b1 : Num
  b2 : Num
  eps : Num
  wd : Num
  bias : Bool
  /-- β1^(t+1) and β2^(t+1) -/
  p1 : Num
  p2 : Num
deriving DecidableEq, Repr

/-- w − η × x. -/
def stepW (k : LvnStep) (w x : Num) : Num := sub32 w (mul32 k.eta x)

/-- β·m + (1 − β)·x. -/
def blend (b m x : Num) : Num := add32 (mul32 b m) (mul32 (sub32 numOne b) x)

/-- The sign of R593; that of a NaN is open. -/
def signOf (blk e : Nat) (x : Num) : Num :=
  if x.isNan then decodeNum Fmt.f32 (Config.signNan blk e).toNat
  else if x.isZero then .fin false 0 0 else .fin x.sign 1 0

/-- One element under rules 0–3: parameter, gradient, state 0 and 1 to parameter, state 0, state 1. -/
def elemStep (rule : Nat) (k : LvnStep) (blk e : Nat) (w g m v : Num) : Num × Num × Num :=
  let lw := mul32 k.wd w
  match rule with
  | 0 => (stepW k w (add32 g lw), m, v)
  | 1 =>
    let m := add32 (mul32 k.b1 m) (add32 g lw)
    (stepW k w m, m, v)
  | 2 =>
    let m := blend k.b1 m g
    let v := blend k.b2 v (mul32 g g)
    let mh := if k.bias then divTo Fmt.f32 m (sub32 numOne k.p1) else m
    let vh := if k.bias then divTo Fmt.f32 v (sub32 numOne k.p2) else v
    (stepW k w (add32 (divTo Fmt.f32 mh (add32 (sqrtTo Fmt.f32 vh) k.eps)) lw), m, v)
  | _ =>
    let u := signOf blk e (blend k.b1 m g)
    (stepW k w (add32 u lw), blend k.b2 m g, v)

/-! ### The preconditioner (R596, R597) -/

/-- Element (i, j) of a 32 × 32 matrix kept row by row. -/
def mat (l : List Num) (i j : Nat) : Num := (l[32 * i + j]?).getD (.fin false 0 0)

/-- One attempt of the factorisation: the rows of L formed so far, row by row; `none` where a pivot fails. -/
def cholRow (a : List Num) (d lim : Num) (i : Nat) (l : List (List Num)) : Option (List (List Num)) :=
  let at_ := fun (r : List Num) (j : Nat) => (r[j]?).getD (.fin false 0 0)
  let row := (List.range i).foldl (fun (r : List Num) j =>
    let lj := (l[j]?).getD []
    let v := (List.range j).foldl (fun x k => sub64 x (mul64 (at_ r k) (at_ lj k))) (mat a i j)
    r ++ [divTo Fmt.f64 v (at_ lj j)]) []
  let piv := (List.range i).foldl (fun x k => sub64 x (mul64 (at_ row k) (at_ row k))) (add64 (mat a i i) d)
  if piv.isNan ∨ lim.lt piv = false then none else some (l ++ [row ++ [sqrtTo Fmt.f64 piv]])

/-- All rows. -/
def cholesky (a : List Num) (d lim : Num) : Option (List (List Num)) :=
  (List.range 32).foldl (fun o i => o.bind (cholRow a d lim i)) (some [])

/-- The codes of L, row by row, that the inverse is formed from. -/
def lCodes (l : List (List Num)) : List Nat := l.flatten.map (fun x => (convert Fmt.f64 .near x).1)

/-- The identity. -/
def matOne : List Num := (List.range 1024).map (fun k => if k / 32 = k % 32 then numOne else .fin false 0 0)

/-- A refresh of P from G: the new P, and 0 undamped, 1 damped, 2 fallback. -/
def refreshP (g : List Num) (eps lim : Num) : List Num × Nat :=
  let tr := (List.range 32).foldl (fun x i => add64 x (mat g i i)) (.fin false 0 0)
  let d := fun (a : Nat) =>
    if a = 0 then Num.fin false 0 0
    else divTo Fmt.f64 (mul64 (if a = 1 then eps else mul64 (Num.ofInt 16) eps) tr) (Num.ofInt 32)
  match (List.range 3).findSome? (fun a => (cholesky g (d a) lim).map (fun l => (a, l))) with
  | some (a, l) => ((List.range 1024).map (fun k => decodeNum Fmt.f32 (Config.precondInverse (lCodes l) k).toNat), if a = 0 then 0 else 1)
  | none => (matOne, 2)

/-! ### A batch (R584–R599) -/

/-- A record of a batch discarded (R599). -/
def lvnErr (i reason : Nat) (r : LvnRec) (s : State) : State :=
  let s := if bit (getR s (Pg.lvn i) R.LVN_ERR) 31 then s
    else setQ (Pg.lvn i) R.LVN_ERR_ADDR_LO (BitVec.ofNat 64 r.blk) (firstR (Pg.lvn i) R.LVN_ERR (reason * 2 ^ 24 + r.group % 4096) s)
  namedAlarm (Pg.lvn i) 2 (satR (Pg.lvn i) R.LVN_ERRS 1 s)

/-- LVN_FLAGS. -/
def lvnFlag (i b : Nat) (s : State) : State := setR (Pg.lvn i) R.LVN_FLAGS (setBit (getR s (Pg.lvn i) R.LVN_FLAGS) b true) s

/-- Records in ascending group, then block, those of one block in order of staging (R584, R585). -/
def lvnSort (l : List LvnRec) : List LvnRec :=
  let key := fun (r : LvnRec) => r.group * 2 ^ 48 + r.blk
  l.foldl (fun a r => a.filter (fun x => key x ≤ key r) ++ [r] ++ a.filter (fun x => key r < key x)) []

/-- The staged line's Glaze still matches (reason STAGE). -/
def recGood (r : LvnRec) : Bool := r.glaze == crc32c (glzSeed r.blk) (bytesOf 128 r.data.toNat)

/-- The sum of two records of one block (R585), with the Glaze of the sum. -/
def lvnSum (r q : LvnRec) : LvnRec :=
  let v := addRow false r.data.toNat q.data.toNat
  { r with data := BitVec.ofNat 1024 v, glaze := crc32c (glzSeed r.blk) (bytesOf 128 v), origins := r.origins ++ q.origins }

/-- Records of one group and block merged; each merge is counted. A line that fails its Glaze is dropped first. -/
def lvnMerge (i : Nat) : List LvnRec → List LvnRec → State → List LvnRec × State
  | acc, [], s => (acc, s)
  | acc, r :: t, s =>
    if recGood r then
      match acc.getLast? with
      | some p =>
        if p.group = r.group ∧ p.blk = r.blk then
          lvnMerge i (acc.dropLast ++ [lvnSum p r]) t (lvnFlag i 3 (satR (Pg.lvn i) R.LVN_DUPS 1 s))
        else lvnMerge i (acc ++ [r]) t s
      | none => lvnMerge i [r] t s
    else lvnMerge i acc t (lvnErr i 7 r s)

/-- The owner's SEQ for a record, if the owner is in its origin set (R591). -/
def ownerSeq (g : LvnDesc) (r : LvnRec) : Option DWord :=
  (r.origins.find? (fun o => o.1 = (gOwner g).1 ∧ o.2.1 = (gOwner g).2)).map (fun o => o.2.2.1)

/-- The record's parameter block lies in the group (reason RANGE). -/
def inGroup (g : LvnDesc) (r : LvnRec) : Bool := decide (gAddr g 0x08 ≤ r.blk) && decide (r.blk + 128 ≤ gAddr g 0x08 + gQ g 0x10)

/-- Number of state tensors of a rule. -/
def ruleStates (rule : Nat) : Nat := match rule with | 0 => 0 | 1 => 1 | 2 => 2 | 3 => 1 | _ => 2

/-- Blocks of state tensor `k` for a record: one block, or the 4 KiB of its page (R590). -/
def stateBlk (g : LvnDesc) (k : Nat) (r : LvnRec) : Nat × Nat :=
  let base := gAddr g (0x18 + 8 * k)
  if gRule g = 4 then (base + (r.blk - gAddr g 0x08) / 4096 * 4096, 32) else (base + (r.blk - gAddr g 0x08), 1)

/-- Every state block is served by this slice (reason PLACE). -/
def placeOk (s : State) (i : Nat) (g : LvnDesc) (r : LvnRec) : Bool :=
  (List.range (ruleStates (gRule g))).all (fun k =>
    let (a, n) := stateBlk g k r
    (List.range n).all (fun j => match homeOf s (a + 128 * j) with | .ok h => h.slice = i | .error _ => false))

/-- Elements of g of a record. -/
def recGrad (g : LvnDesc) (r : LvnRec) : List Num := (numsOf (bytesOf 128 r.data.toNat)).map (gradOf g)

/-- Constants of a step. -/
def stepFor (g : LvnDesc) (pts : List (Nat × Num)) (q : DWord) : LvnStep :=
  let t := stepOf g q
  { eta := etaOf g pts t, b1 := gF32 g 0x44, b2 := gF32 g 0x48, eps := gF32 g 0x4C, wd := gF32 g 0x50, bias := gBias g,
    p1 := powBeta (gF32 g 0x44) (t + 1), p2 := powBeta (gF32 g 0x48) (t + 1) }

/-- A record applied: counted. -/
def lvnApplied (i : Nat) (s : State) : State := wrapR (Pg.lvn i) R.LVN_APPLIED 1 s

/-- One record of a group of rules 0–3: parameter and state are read, stepped and written back. -/
def applyElem (i : Nat) (g : LvnDesc) (pts : List (Nat × Num)) (q : DWord) (r : LvnRec) (s : State) : State :=
  let n := ruleStates (gRule g)
  let sa := fun k => (stateBlk g k r).1
  match lvnRead r.blk s with
  | (none, s) => lvnErr i 6 r s
  | (some w, s) =>
    match (if 1 ≤ n then lvnRead (sa 0) s else (some [], s)) with
    | (none, s) => lvnErr i 6 r s
    | (some m, s) =>
      match (if 2 ≤ n then lvnRead (sa 1) s else (some [], s)) with
      | (none, s) => lvnErr i 6 r s
      | (some v, s) =>
        let k := stepFor g pts q
        let z := Num.fin false 0 0
        let out := (List.range 32).map (fun e =>
          elemStep (gRule g) k r.blk e (((numsOf w)[e]?).getD z) (((recGrad g r)[e]?).getD z) (((numsOf m)[e]?).getD z) (((numsOf v)[e]?).getD z))
        let s := lvnWrite i (gOwner g) q r.blk (numBytes (out.map (·.1))) s
        let s := if 1 ≤ n then lvnWrite i (gOwner g) q (sa 0) (numBytes (out.map (·.2.1))) s else s
        let s := if 2 ≤ n then lvnWrite i (gOwner g) q (sa 1) (numBytes (out.map (·.2.2))) s else s
        lvnApplied i s

/-- The parameter blocks of a page's records; a record whose block cannot be read is discarded before the statistic is
formed, so that it changes no state (R599). -/
def pageParams (i : Nat) : List LvnRec → State → List (LvnRec × List Byte) × State
  | [], s => ([], s)
  | r :: t, s =>
    match lvnRead r.blk s with
    | (none, s) => pageParams i t (lvnErr i 6 r s)
    | (some w, s) =>
      let (l, s) := pageParams i t s
      ((r, w) :: l, s)

/-- The steps of R596 on a page whose blocks have been read: G `gb`, P `pb`, and the records `rs` with their parameters. -/
def pageStep (i : Nat) (g : LvnDesc) (pts : List (Nat × Num)) (q : DWord) (gb pb : List Byte) (r0 : LvnRec)
    (rs : List (LvnRec × List Byte)) (s : State) : State :=
  let k := stepFor g pts q
  let z := Num.fin false 0 0
  let grads := rs.map (fun e => recGrad g e.1)
  let sum := (List.range 1024).map (fun e =>
    let terms := grads.map (fun x => mul32 ((x[e / 32]?).getD z) ((x[e % 32]?).getD z))
    match terms with | [] => z | a :: t => t.foldl add32 a)
  let gn := ((numsOf gb).zip sum).map (fun x => blend k.b2 x.1 x.2)
  let s := lvnWrites i (gOwner g) q (stateBlk g 0 r0).1 (numBytes gn) s
  let fresh := stepOf g q % gRefresh g = 0
  let (p, how) := if fresh then refreshP gn k.eps (decodeNum Fmt.f32 (getN s (Pg.lvn i) R.LVN_PIVOT_MIN)) else (numsOf pb, 0)
  let s := if how = 1 then lvnFlag i 1 (satR (Pg.lvn i) R.LVN_DAMPED 1 s)
    else if how = 2 then lvnFlag i 0 (satR (Pg.lvn i) R.LVN_FALLBACKS 1 s) else s
  let s := if fresh then lvnWrites i (gOwner g) q (stateBlk g 1 r0).1 (numBytes p) s else s
  foldS (fun (e : LvnRec × List Byte) s =>
    let x := recGrad g e.1
    let out := (List.range 32).map (fun n =>
      let pg := treeSum true ((List.range 32).map (fun j => mul32 (mat p n j) ((x[j]?).getD z)))
      stepW k (((numsOf e.2)[n]?).getD z) (add32 pg (mul32 k.wd (((numsOf e.2)[n]?).getD z))))
    lvnApplied i (lvnWrite i (gOwner g) q e.1.blk (numBytes out) s)) rs s

/-- Records of one PRECOND page, in ascending address (R596). -/
def applyPage (i : Nat) (g : LvnDesc) (pts : List (Nat × Num)) (q : DWord) (rs : List LvnRec) (s : State) : State :=
  match rs with
  | [] => s
  | r0 :: _ =>
    match lvnReads 32 (stateBlk g 0 r0).1 s with
    | (none, s) => foldS (lvnErr i 6) rs s
    | (some gb, s) =>
      match lvnReads 32 (stateBlk g 1 r0).1 s with
      | (none, s) => foldS (lvnErr i 6) rs s
      | (some pb, s) =>
        let (l, s) := pageParams i rs s
        if l.isEmpty then s else pageStep i g pts q gb pb r0 l s

/-- The records of a batch that the rule reaches: those that meet no case of R599 and whose g is finite (R595). -/
def lvnScreen (i : Nat) (g : LvnDesc) (curve : Bool) : List LvnRec → State → List LvnRec × State
  | [], s => ([], s)
  | r :: t, s =>
    let (keep, s) :=
      if !inGroup g r then (false, lvnErr i 2 r s)
      else if !placeOk s i g r then (false, lvnErr i 3 r s)
      else if (ownerSeq g r).isNone then (false, lvnErr i 4 r s)
      else if !curve then (false, lvnErr i 5 r s)
      else if (recGrad g r).any (fun x => !x.isFin) then (false, lvnFlag i 2 (satR (Pg.lvn i) R.LVN_NONFINITE 1 s))
      else (true, s)
    let (l, s) := lvnScreen i g curve t s
    (if keep then r :: l else l, s)

/-- The pages of a group's records, ascending. -/
def lvnPages (g : LvnDesc) (rs : List LvnRec) : List (List LvnRec) :=
  let page := fun (r : LvnRec) => (r.blk - gAddr g 0x08) / 4096
  ((rs.map page).dedup).map (fun n => rs.filter (fun r => page r = n))

/-- The records of one group (R588, R589, R598): the descriptor is read once. -/
def lvnGroupApply (i grp : Nat) (rs : List LvnRec) (s : State) : State :=
  let a := getN s (Pg.lvn i) R.LVN_GTAB_LO + getF s (Pg.lvn i) R.LVN_GTAB_HI 0 16 * 2 ^ 32 + 128 * grp
  match lvnRead a s with
  | (none, s) => foldS (lvnErr i 1) rs s
  | (some bs, s) =>
    let g : LvnDesc := BitVec.ofNat 1024 (numOf bs)
    if !gValid g || decide (4 < gRule g) || (decide (gRule g = 4) && decide (gRefresh g = 0)) then foldS (lvnErr i 1) rs s
    else if gFrozen g then satR (Pg.lvn i) R.LVN_FROZEN_DROPS rs.length s
    else
      let (pts, s) := curveRead g s
      let (rs, s) := lvnScreen i g pts.isSome rs s
      let pts := pts.getD []
      if gRule g = 4 then
        foldS (fun l s => applyPage i g pts (((l.head?).bind (ownerSeq g)).getD 0) l s) (lvnPages g rs) s
      else foldS (fun r s => applyElem i g pts ((ownerSeq g r).getD 0) r s) rs s

/-- BATCH_APPLY: the slice's oldest batch (R584). Requests that waited for its blocks go on (R586). -/
def batchOp (i : Nat) (s : State) : State :=
  let x := sliceAt s i
  match x.batches with
  | [] => s
  | b :: t =>
    if runs s (Pg.lvn i) ∨ bstate s (Pg.lvn i) = B.stopping then
      let (rs, s) := lvnMerge i [] (lvnSort b.recs) s
      let s := foldS (fun grp s => lvnGroupApply i grp (rs.filter (fun r => r.group = grp)) s) ((rs.map (·.group)).dedup) s
      let s := lvnNote i (updSlice i (fun x => { x with batches := t }) s)
      let s := setR (Pg.lvn i) R.LVN_LAST_NS (BitVec.ofNat 32 (Nat.min (s.time - b.at_).toNat 0xFFFFFF)) s
      foldS (fun r => lineFree i r.line) b.recs s
    else s

/-! ### The commands -/

/-- LVN. -/
def execLvn (f : Flit) (origins : List (BitVec 12 × BitVec 4)) (s : State) : Host.Outcome State Fault Refusal :=
  act s (lvnOp { f with typ := 8 } origins s)

/-- LVN_QUEUE_STAGE. -/
def execLvnQueueStage (i : Nat) (s : State) : Host.Outcome State Fault Refusal := onUnit i nSlices (lvnQueueOp i) s

/-- LVN_COMMIT. -/
def execLvnCommit (sdie : BitVec 12) (p : BitVec 4) (q : DWord) (s : State) : Host.Outcome State Fault Refusal :=
  act s (lvnCommitOp sdie.toNat p.toNat q s)

/-- LVN_DISCARD. -/
def execLvnDiscard (sdie : BitVec 12) (p : BitVec 4) (_q : DWord) (s : State) : Host.Outcome State Fault Refusal :=
  act s (lvnDiscardOp sdie.toNat p.toNat s)

/-- BATCH_APPLY. -/
def execBatchApply (i : Nat) (s : State) : Host.Outcome State Fault Refusal := onUnit i nSlices (batchOp i) s

end Sys2Proof.Machine
end

