-- ==== Sys2Proof/Machine/Medium.lean ====
section
/-! DEFINITION. Medium management (R545–R563): roles and takeover, refresh and targeted refresh, corrected and
uncorrectable lines, patrol scrub, row retirement, and the keep layer. -/

namespace Sys2Proof.Machine

/-! ### Refresh (R547–R551) -/

/-- The slice issues its channel's medium commands: manager or acting manager. -/
def medIssues (s : State) (i : Nat) : Bool := decide (medRole s i = 0) || decide (medRole s i = 2)

/-- tREFI in force (R549). -/
def trefi (s : State) (i : Nat) : Nat :=
  let t := getF s (Pg.med i) R.MED_REFRESH 0 12
  if (sliceAt s i).refHalf then t / 2 else t

/-- One REF: the next row group of every bank. -/
def refOnce (i : Nat) (s : State) : State := updSlice i (fun x => { x with refPos := x.refPos + 1 }) (stackSend i 8 0 0 s)

/-- `n` REFs. -/
def refMany (i : Nat) : Nat → State → State
  | 0, s => s
  | n + 1, s => refMany i n (refOnce i s)

/-- REFRESH: tREFI has elapsed and the slice that refreshes the channel issues REF, in every state but Absent and Retired. -/
def refreshOp (i : Nat) (s : State) : State :=
  if medLives s i ∧ medIssues s i ∧ (sliceAt s i).refreshing then refOnce i s else s

/-- Physical block of the keep system area that a takeover reads of each copy: the manual lays the area out in two copies and
gives no more of it (R557), a DESIGN CHOICE. -/
def sysBlock (second : Bool) : Nat := if second then 32768 else 0

/-- The medium state is read from both copies of the keep system area (R547). -/
def sysRead (i : Nat) (s : State) : State :=
  stackSend i 0x10 (sysBlock true) 0 (stackSend i 0x10 (sysBlock false) 0
    (updSlice i (fun x => { x with keepOps := x.keepOps ++ [{ who := .sys false, blk := 0, write := none }, { who := .sys true, blk := 0, write := none }] }) s))

/-- A peer takes over (R547): every REF missed since the last notice, up to 16, the medium state read, the alarm, the
count. -/
def takeover (i : Nat) (s : State) : State :=
  if medRole s i = 1 ∧ medLives s i then
    let n := Nat.min 16 ((s.time - (sliceAt s i).lastRef).toNat / Nat.max 1 (trefi s i))
    let s := refMany i n (updSlice i (fun x => { x with acting := true, refreshing := true }) s)
    satR (Pg.med i) R.MED_TAKEOVERS 1 (namedAlarm (Pg.med i) 1 (sysRead i s))
  else s

/-- REF_WATCH: no REF notice for 4 × tREFI, once the peer has armed the test. -/
def refWatchOp (i : Nat) (s : State) : State := if (sliceAt s i).armed then takeover i s else s

/-- REF_NOTICE: the peer arms its watch and follows the refresh position. -/
def refNoticeOp (i : Nat) (s : State) : State :=
  if medRole s i = 1 then updSlice i (fun x => { x with armed := true, lastRef := s.time, refPos := x.refPos + 1 }) s else s

/-- PEER_ARM: 50 ms after START. -/
def peerArmOp (i : Nat) (s : State) : State :=
  if medRole s i = 1 then updSlice i (fun x => { x with armed := true, lastRef := if x.armed then x.lastRef else s.time }) s else s

/-- MANAGER_WAIT (R548): after 4 × tREFI a manager sends CLAIM if REF notices came, else begins refresh at once. -/
def managerWaitOp (i : Nat) (notices : Bool) (s : State) : State :=
  let x := sliceAt s i
  if medRole s i = 0 ∧ x.waitMgr then
    let s := setSlice i { x with waitMgr := false } s
    if notices then
      match portOfSlice s i with
      | some j => peerMsg j (.peerPos 0 (peerSlot j) x.refPos) s
      | none => s
    else refOnce i (updSlice i (fun x => { x with refreshing := true }) s)
  else s

/-- CLAIM at an acting manager: it hands refresh back with its position (R548). -/
def claimOp (i : Nat) (s : State) : State :=
  let x := sliceAt s i
  if medRole s i = 2 then
    let s := setSlice i { x with acting := false, refreshing := false, lastRef := s.time } s
    match portOfSlice s i with
    | some j => peerMsg j (.peerPos 1 (peerSlot j) x.refPos) s
    | none => s
  else s

/-- RELEASE at the manager: it refreshes from that position and sends HANDBACK (R548). -/
def releaseOp (i pos : Nat) (s : State) : State :=
  if medRole s i = 0 then
    namedAlarm (Pg.med i) 2 (refOnce i (updSlice i (fun x => { x with refreshing := true, refPos := pos }) s))
  else s

/-- A temperature report (R549, R564): above HOT halves tREFI, at or below HOT − 3 °C restores it; the HOT alarm above
95 °C, armed again at 92 °C. -/
def tempOp (i : Nat) (t : BitVec 16) (s : State) : State :=
  if medLives s i then
    let s := setR (Pg.med i) R.MED_TEMP (BitVec.ofNat 32 (0x80000000 + t.toNat)) s
    let v := t.toInt
    let hot : Int := getF s (Pg.med i) R.MED_REFRESH 16 7
    let s := updSlice i (fun x => { x with refHalf := if hot * 16 < v then true else if v ≤ (hot - 3) * 16 then false else x.refHalf }) s
    if 1520 < v ∧ (sliceAt s i).hotSent = false then namedAlarm (Pg.med i) 6 (updSlice i (fun x => { x with hotSent := true }) s)
    else if v ≤ 1472 then updSlice i (fun x => { x with hotSent := false }) s
    else s
  else s

/-- TRR_REQ of a peer (R551). -/
def trrReqOp (r : PeerRow) (s : State) : State :=
  if medLives s r.slice ∧ medIssues s r.slice then stackSend r.slice 9 r.bank r.row s else s

/-! ### Retirement of rows (R554–R556) -/

/-- Spare rows of a bank in use. -/
def sparesUsed (s : State) (i bank : Nat) : Nat := ((sliceAt s i).remap.filter (fun e => e.1 / 1048576 = bank)).length

/-- A row is retired already, or on its way. -/
def rowGoing (s : State) (i bank row : Nat) : Bool :=
  let x := sliceAt s i
  let same := fun (r : PeerRow) => decide (r.bank = bank) && decide (r.row = row)
  (x.remapping.any same) || x.heldRows.any same

/-- The next row waiting for retirement begins: REMAP_BEGIN to the peer. -/
def retireNext (i : Nat) (s : State) : State :=
  let x := sliceAt s i
  match x.remapping, x.heldRows, portOfSlice s i with
  | none, r :: t, some j =>
    let s := setSlice i { x with remapping := some r, heldRows := t } s
    peerMsg j (.peer 0 { r with slice := peerSlot j }) s
  | _, _, _ => s

/-- The manager retires a row (R554), unless no spare row of its bank is left (R556). -/
def retireRow (i bank row : Nat) (s : State) : State :=
  if medIssues s i ∧ !rowGoing s i bank row ∧ sparesUsed s i bank < 256 then
    retireNext i (updSlice i (fun x => { x with heldRows := x.heldRows ++ [{ slice := i, bank := bank, row := row, spare := 0 }] }) s)
  else s

/-- An uncorrectable line at channel address `x` found by a slice: the manager retires the row, a peer reports it. -/
def foundUe (i x : Nat) (s : State) : State :=
  if medIssues s i then retireRow i (bankOf x) (chRowOf x) s
  else
    match portOfSlice s i with
    | some j => peerMsg j (.peerAddr 3 (peerSlot j) x true) s
    | none => s

/-- A corrected line of a row counts toward MED_CE_LIMIT within one scrub pass (R554). -/
def countCe (i x : Nat) (s : State) : State :=
  let k := rowKey (bankOf x) (chRowOf x)
  let n := Tab.get 0 (sliceAt s i).rowCe k + 1
  let s := updSlice i (fun y => { y with rowCe := Tab.put y.rowCe k n }) s
  if getF s (Pg.med i) R.MED_CE_LIMIT 0 8 ≤ n then retireRow i (bankOf x) (chRowOf x) s else s

/-- A corrected line: counted by the manager, reported by a peer. -/
def foundCe (i x : Nat) (s : State) : State :=
  let s := satR (Pg.med i) R.MED_CE 1 s
  if medIssues s i then countCe i x s
  else
    match portOfSlice s i with
    | some j => peerMsg j (.peerAddr 3 (peerSlot j) x false) s
    | none => s

/-- ROW_REPORT of a peer. -/
def rowReportOp (i x : Nat) (uncorr : Bool) (s : State) : State :=
  if medIssues s i then (if uncorr then retireRow i (bankOf x) (chRowOf x) s else countCe i x s) else s

/-- REMAP_BEGIN at the peer: accesses to the row are held from here. -/
def remapBeginOp (r : PeerRow) (s : State) : State :=
  if medRole s r.slice = 1 then peerAck r.slice (updSlice r.slice (fun x => { x with remapping := some r, acked := false }) s) else s

/-- REMAP_ACK at the manager (R555, R556): the 16 lines are copied to the next free spare row of the bank; `bad` marks the
lines whose codewords are uncorrectable, which still fail after the copy. -/
def remapAckOp (r : PeerRow) (bad : BitVec 16) (s : State) : State :=
  let i := r.slice
  let x := sliceAt s i
  match x.remapping, portOfSlice s i with
  | some q, some j =>
    if medIssues s i ∧ q.bank = r.bank ∧ q.row = r.row then
      let old := physRow s i r.bank r.row
      let spare := 540672 + sparesUsed s i r.bank
      let base := r.row * 32768 + r.bank * 2048
      let s := stackSend i 1 r.bank spare (stackSend i 1 r.bank old s)
      let s := foldS (fun k s => stackSend i 5 r.bank k (stackSend i 4 r.bank k s)) (List.range 16) s
      let ue := ((List.range 16).filter (fun k => bit bad k)).map (fun k => (chanKey j (base + 128 * k)) / 128)
      let s := { s with ueLines := s.ueLines ++ ue.filter (fun l => !(s.ueLines.contains l)) }
      let s := updSlice i (fun y => { y with remap := Tab.put y.remap (rowKey r.bank r.row) spare, remapping := none }) s
      let used := (sliceAt s i).remap.length
      let s := namedAlarm (Pg.med i) 3 (setR (Pg.med i) R.MED_REMAP_USED (BitVec.ofNat 32 used) s)
      let s := if 3840 < used ∧ (sliceAt s i).spareLow = false then
          namedAlarm (Pg.med i) 4 (updSlice i (fun y => { y with spareLow := true }) s) else s
      retireNext i (peerMsg j (.peer 1 { slice := peerSlot j, bank := r.bank, row := r.row, spare := spare }) s)
    else s
  | _, _ => s

/-- REMAP_DONE at the peer: the row lies in the spare row, and what was held proceeds. -/
def remapDoneOp (r : PeerRow) (s : State) : State :=
  let i := r.slice
  if medRole s i = 1 then
    let s := updSlice i (fun y => { y with remap := Tab.put y.remap (rowKey r.bank r.row) r.spare, remapping := none, acked := false }) s
    match portOfSlice s i with
    | none => s
    | some j =>
      let ls := ((sliceAt s i).waits.filterMap (fun w => match w with | .behind _ l => some l | _ => none)).dedup
      foldS (fun l s => lineFree i l s) (ls.filter (fun l =>
        let y := sideBase s i j + l * 128
        decide (bankOf y = r.bank) && decide (chRowOf y = r.row))) s
  else s

/-! ### Lines that come back (R552, R553, R543, R657) -/

/-- 1,024 free bits: what a read returns beyond the reach of the line code (R552). -/
def freshLine (s : State) : BitVec 1024 × State :=
  (List.range 16).foldl (fun (st : BitVec 1024 × State) k =>
    let (v, s) := fresh st.2
    (st.1 ||| (v.zeroExtend 1024 <<< (64 * k)), s)) (0, s)

/-- A line of the slice's own range is rewritten corrected. -/
def rewriteLine (i key : Nat) (s : State) : State := stackAccess i 5 (chanOf key) s

/-- STACK_RD_RESPONSE: the codeword of the oldest outstanding read of slice `i` returns with `bad` bad bytes: up to 4 are
corrected, up to 12 detected, beyond that the data is open (R552). -/
def stackRdOp (i bad : Nat) (s : State) : State :=
  match takeStackRead i s with
  | (none, s) => s
  | (some (f, l), s) =>
    match homeHeld s f.addr.toNat with
    | .error _ => lineFree i l (respondErr f (sliceErr i 5 f.addr.toNat (rqPtn s f) s))
    | .ok h =>
      let h := lineHome h
      let a := f.addr.toNat
      let s :=
        if isUe s h.key ∨ (4 < bad ∧ bad ≤ 12) then
          let s := if isUe s h.key then s else { s with ueLines := s.ueLines ++ [h.key / 128] }
          let s := foundUe i (chanOf h.key) (satR (Pg.med i) R.MED_UE 1 s)
          respondErr f (sliceErr i 2 a (rqPtn s f) s)
        else
          let (g, t) := lineGlaze s a h
          if bad ≤ 4 then
            let s := if bad = 0 then s else rewriteLine i h.key (foundCe i (chanOf h.key) s)
            respondRd f (dramBytes s h.key 128) g t (homeFill i h.off s)
          else
            let (v, s) := freshLine s
            respondRd f (bytesOf 128 v.toNat) g t s
      peerAck i (lineFree i l s)

/-- PATROL_SCRUB: the next line of the pass, of either range (R553, R554). -/
def scrubOp (i bad : Nat) (s : State) : State :=
  match portOfSlice s i with
  | none => s
  | some j =>
    if runs s (Pg.med i) ∧ medIssues s i ∧ bit (getR s (Pg.med i) R.MED_SCRUB) 31 then
      let x := (sliceAt s i).scrubAddr
      let cut := getF s (Pg.slc i) R.SLC_HOME 0 8 * 536870912
      let mine := if sideB j then decide (cut ≤ x) else decide (x < cut)
      let key := chanKey j x
      let s := stackAccess i 4 x s
      let s :=
        if (mine ∧ isUe s key) ∨ 4 < bad then
          let s := if mine ∧ !isUe s key then { s with ueLines := s.ueLines ++ [key / 128] } else s
          retireRow i (bankOf x) (chRowOf x) (satR (Pg.med i) R.MED_UE 1 s)
        else if bad = 0 then s
        else
          let s := countCe i x (satR (Pg.med i) R.MED_CE 1 s)
          if mine then rewriteLine i key s else peerMsg j (.peerAddr 2 (peerSlot j) x false) s
      let y := (x + 128) % 2 ^ 34
      let s := updSlice i (fun z => { z with scrubAddr := y, rowCe := if y = 0 then [] else z.rowCe }) s
      let s := setR (Pg.med i) R.MED_SCRUB_POS (BitVec.ofNat 32 (y / 2048)) s
      if y = 0 then wrapR (Pg.med i) R.MED_SCRUB_PASSES 1 s else s
    else s

/-- SCRUB_FIX at the peer: the line is read again and rewritten corrected. -/
def scrubFixOp (i x : Nat) (s : State) : State :=
  if medRole s i = 1 then stackAccess i 5 x (stackAccess i 4 x s) else s

/-! ### The keep layer (R557–R563) -/

/-- Stack of a memory port: its link group. -/
def stackOf (j : Nat) : Nat := j / 8
def poolAt (s : State) (k : Nat) : KeepPool := Tab.get KeepPool.init s.keepPools k
def setPool (k : Nat) (v : KeepPool) (s : State) : State := { s with keepPools := Tab.store KeepPool.init s.keepPools k v }

/-- Logical block of the stack for block `b` of the share of memory port `j`; the peer's share is that of the other side.
The manual does not number the shares: a DESIGN CHOICE. -/
def keepLogical (j b : Nat) (peer : Bool) : Nat := (8 * b2n (sideB j != peer) + j % 8) * 196608 + b
def keepKey (j l : Nat) : Nat := stackOf j * 2 ^ 22 + l

/-- Physical block of a logical block: the default map is a DESIGN CHOICE. -/
def keepPhys (p : KeepPool) (l : Nat) : Nat := Tab.get (65536 + l) p.map l

/-- Free reserve blocks, and the one with the least count. -/
def keepFree (p : KeepPool) : Nat := 4194304 - p.next + p.back.length
def keepLeast (p : KeepPool) : Option Nat :=
  if p.next < 4194304 then some p.next
  else p.back.foldl (fun m b => match m with
    | none => some b
    | some c => if Tab.get 0 p.counts b < Tab.get 0 p.counts c then some b else some c) none

/-- A free block taken for a logical block; the old one returns to the reserve or leaves the pool. -/
def keepMove (p : KeepPool) (l new : Nat) (back : Bool) : KeepPool :=
  let old := keepPhys p l
  { p with map := Tab.put p.map l new, next := if new = p.next then p.next + 1 else p.next,
           back := p.back.filter (· ≠ new) ++ (if back then [old] else []) }

/-- Where a write of logical block `l` goes (R562): elsewhere if the current block's count exceeds the least free count by
10,000 or more, or has reached 1,000,000. -/
def keepPlace (p : KeepPool) (l : Nat) : KeepPool :=
  let c := Tab.get 0 p.counts (keepPhys p l)
  match keepLeast p with
  | none => p
  | some b => if 1000000 ≤ c then keepMove p l b false else if Tab.get 0 p.counts b + 10000 ≤ c then keepMove p l b true else p

/-- MED_KEEP_FREE and MED_KEEP_MAXW of the pages that manage a stack, and KEEP_LOW once per shortage (R562, R571). -/
def keepNote (i j : Nat) (s : State) : State :=
  let p := poolAt s (stackOf j)
  let low := decide (keepFree p < 40960)
  let s := if low ∧ p.low = false then namedAlarm (Pg.med i) 5 s else s
  let s := setPool (stackOf j) { poolAt s (stackOf j) with low := low } s
  let mx := p.counts.foldl (fun m e => Nat.max m e.2) 0
  foldS (fun k s =>
    if medIssues s k ∧ (portOfSlice s k).map stackOf = some (stackOf j) then
      setR (Pg.med k) R.MED_KEEP_MAXW (BitVec.ofNat 32 mx) (setR (Pg.med k) R.MED_KEEP_FREE (BitVec.ofNat 32 (keepFree p)) s)
    else s) (List.range nSlices) s

/-- KRD or KWR issued for a logical block (R559): a write counts, and resets the age. With no free reserve block a write
completes with error: `false`. -/
def keepIssue (i j : Nat) (who : KeepWho) (l : Nat) (w : Option KeepRec) (s : State) : Bool × State :=
  let k := stackOf j
  match w with
  | none =>
    (true, updSlice i (fun x => { x with keepOps := x.keepOps ++ [{ who := who, blk := l, write := none }] })
      (stackSend i 0x10 (keepPhys (poolAt s k) l) 0 s))
  | some r =>
    if keepFree (poolAt s k) = 0 then (false, s)
    else
      let p := keepPlace (poolAt s k) l
      let b := keepPhys p l
      let p := { p with counts := Tab.put p.counts b (Tab.get 0 p.counts b + 1), age := Tab.put p.age l 0 }
      let s := keepNote i j (setPool k p s)
      (true, updSlice i (fun x => { x with keepOps := x.keepOps ++ [{ who := who, blk := l, write := some r }] })
        (stackSend i 0x11 b 0 { s with keepRecs := Tab.put s.keepRecs (keepKey j l) r }))

/-- Tiles of a record: number, bytes each, and their saved Glaze. -/
def recTiles (r : KeepRec) : List (Nat × List Byte × Word) :=
  let n := if r.big then 2048 else 128
  (List.range (4096 / n)).map (fun k => (k, (r.data.drop (n * k)).take n, (r.glz[if r.big then 16 * k else k]?).getD 0))

/-- A tile passes against its saved Glaze and the saved address (R560). -/
def tilePasses (r : KeepRec) (t : Nat × List Byte × Word) : Bool :=
  t.2.2 == crc32c (glzSeed (r.addr + (if r.big then 2048 else 128) * t.1)) t.2.1

/-- The record of slice page `n` of port `j`, and how many of its tiles mismatch (R560). -/
def pageRecord (s : State) (i j n : Nat) : KeepRec × Nat :=
  let off := n * 4096
  let key := chanKey j (sideBase s i j + off)
  let a := lineAddrOf s j off
  let big := bigTile s a
  let m := if big then 2048 else 128
  let g := (List.range (4096 / m)).map (fun k => storedGlz s (a + m * k) (key + m * k) m)
  let glz := if big then (List.range 32).map (fun k => if k = 0 then (g[0]?).getD 0 else if k = 16 then (g[1]?).getD 0 else 0) else g
  ({ data := dramBytes s key 4096, glz := glz, addr := a, big := big },
   ((List.range (4096 / m)).filter (fun k => (Tab.find s.badGlz (key + m * k)).isSome)).length)

/-- A record that was loaded goes to slice page `n` (R560): passing tiles are written with the Glaze of their new address.
Answers the number of tiles that failed. -/
def putRecord (i j n : Nat) (r : KeepRec) (s : State) : Nat × State :=
  let off := n * 4096
  let key := chanKey j (sideBase s i j + off)
  let a := lineAddrOf s j off
  let m := if r.big then 2048 else 128
  let good := (recTiles r).filter (tilePasses r)
  let s := foldS (fun (t : Nat × List Byte × Word) s =>
    let s := putDram (key + m * t.1) t.2.1 s
    foldS (fun q s =>
      let k := key + m * t.1 + 128 * q
      let s := clearUe k { stackAccess i 5 (chanOf k) s with badGlz := Tab.erase s.badGlz k }
      let l := a + m * t.1 + 128 * q
      dirSweep i ((off + m * t.1 + 128 * q) / 128) l (twinWrote false l k s)) (List.range (m / 128)) s) good s
  ((recTiles r).length - good.length, s)

/-- No record. -/
def KeepRec.none_ : KeepRec := { data := [], glz := [], addr := 0, big := false }

/-- MED_KEEP_STATUS after a change: BUSY, blocks moved. -/
def keepMoved (i : Nat) (s : State) : State := setF (Pg.med i) R.MED_KEEP_STATUS 0 18 (getF s (Pg.med i) R.MED_KEEP_STATUS 0 18 + 1) s

/-- Failures of a transfer counted (R560). -/
def keepErrs (i n : Nat) (s : State) : State :=
  if n = 0 then s
  else updSlice i (fun x => { x with keep := x.keep.map (fun k => { k with errs := k.errs + n }) }) (satR (Pg.med i) R.MED_KEEP_ERRS n s)

/-- The next block of a transfer begins while the page is Running and nothing of it is outstanding (R558, R559). A peer
sends the record, or asks for it; a block that cannot be written is counted and passed over. -/
def keepNext (i : Nat) : Nat → State → State
  | 0, s => s
  | fuel + 1, s =>
    let x := sliceAt s i
    match x.keep, portOfSlice s i with
    | some k, some j =>
      if k.left = 0 ∨ !runs s (Pg.med i) then s
      else
        let k2 := { k with page := k.page + 1, blk := k.blk + 1, left := k.left - 1 }
        let s := setSlice i { x with keep := some k2 } s
        if k.load then
          if medIssues s i then (keepIssue i j .own (keepLogical j k.blk false) none s).2
          else peerMsg j (.peerKeep 0 (peerSlot j) k.blk false KeepRec.none_) s
        else
          let (r, bad) := pageRecord s i j k.page
          let s := keepErrs i bad s
          if medIssues s i then
            let (ok, s) := keepIssue i j .own (keepLogical j k.blk false) (some r) s
            if ok then s else keepNext i fuel (keepErrs i 1 s)
          else peerMsg j (.peerKeep 0 (peerSlot j) k.blk true r) s
    | _, _ => s

/-- The transfer goes on after a block. -/
def keepGo (i : Nat) (s : State) : State := keepNext i (((sliceAt s i).keep.map (·.left)).getD 0 + 1) s

/-- MED_KEEP_CMD with GO (R558, R561). -/
def keepStart (i : Nat) (load : Bool) (s : State) : State :=
  let pg := Pg.med i
  let n := getF s pg R.MED_KEEP_COUNT 0 18
  match portOfSlice s i with
  | none => s
  | some j =>
    if runs s pg then
      let share := (if sideB j then getF s (Pg.slc i) R.SLC_HOME 16 8 else getF s (Pg.slc i) R.SLC_HOME 0 8) * 131072
      if bit (getR s pg R.MED_KEEP_STATUS) 31 ∨ n = 0 ∨ share < getF s pg R.MED_KEEP_DRAM 0 22 + n ∨
          196608 < getF s pg R.MED_KEEP_BLOCK 0 18 + n ∨ (medRole s i = 1 ∧ !reachable s (peerDieOf s j)) then
        if bit (getR s pg R.MED_KEEP_STATUS) 31 then setF pg R.MED_KEEP_STATUS 27 3 2 s else setF pg R.MED_KEEP_STATUS 27 4 10 s
      else
        let s := setR pg R.MED_KEEP_STATUS 0x80000000 s
        let k : KeepX := { load := load, page := getF s pg R.MED_KEEP_DRAM 0 22, blk := getF s pg R.MED_KEEP_BLOCK 0 18, left := n, errs := 0, stop := false }
        keepGo i (updSlice i (fun x => { x with keep := some k }) s)
    else s

/-- A block of the slice's own transfer has come back: a loaded record is written to its page. -/
def keepBack (i : Nat) (r : Option KeepRec) (s : State) : State :=
  match (sliceAt s i).keep, portOfSlice s i with
  | some k, some j =>
    let (bad, s) := match r with | some r => putRecord i j (k.page - 1) r s | none => (0, s)
    keepGo i (keepMoved i (keepErrs i bad s))
  | _, _ => s

/-- The first outstanding keep operation of a kind, taken out. -/
def keepTake (i : Nat) (wr : Bool) (s : State) : Option KeepOp × State :=
  let l := (sliceAt s i).keepOps
  match l.find? (fun o => o.write.isSome = wr) with
  | some o => (some o, updSlice i (fun x => { x with keepOps := l.erase o }) s)
  | none => (none, s)

/-- Tiles of a record that the keep code could not correct come back changed, so that they fail their saved Glaze: bit k
of the mask names the tile whose first line is line k of the page. -/
def breakTiles (r : KeepRec) (mask : Word) : KeepRec :=
  { r with glz := (List.range 32).map (fun k =>
      let g := (r.glz[k]?).getD 0
      if bit mask k then
        crc32c (glzSeed (r.addr + 128 * k)) ((r.data.drop (128 * k)).take (if r.big then 2048 else 128)) ^^^ 1
      else g) }

/-- KEEP_RECORD: the record of the oldest outstanding KRD returns, `bits` bit errors corrected by the keep code (R563).
Over 32 corrected bits, or for a rewrite, it is written again. A copy of the system area with more than the 64 bit errors that
the code corrects cannot be read; both copies so record KEEPMAP (R572). -/
def keepRecordOp (i bits : Nat) (mask : Word) (s : State) : State :=
  match keepTake i false s, portOfSlice s i with
  | (some o, s), some j =>
    let r := breakTiles (Tab.get KeepRec.none_ s.keepRecs (keepKey j o.blk)) mask
    let s := match o.who with
      | .rewrite => (keepIssue i j .rewrite o.blk (some r) s).2
      | .sys _ => s
      | _ => if 32 < bits then (keepIssue i j .rewrite o.blk (some r) s).2 else s
    match o.who with
    | .sys false => updSlice i (fun x => { x with sysBad := decide (64 < bits) }) s
    | .sys true => if 64 < bits ∧ (sliceAt s i).sysBad then fault (Pg.med i) 9 s else s
    | .own => keepBack i (some r) s
    | .peer => peerMsg j (.peerKeep 1 (peerSlot j) (o.blk % 196608) false r) s
    | .rewrite => s
  | (_, s), _ => s

/-- VERIFY_STATUS: the verify status of the oldest outstanding KWR (R562): a block that fails leaves the pool, and its record
is written again elsewhere. -/
def verifyOp (i : Nat) (ok : Bool) (s : State) : State :=
  match keepTake i true s, portOfSlice s i with
  | (some o, s), some j =>
    let done := fun (s : State) => match o.who with
      | .own => keepBack i none s
      | .peer => peerMsg j (.peerKeep 1 (peerSlot j) (o.blk % 196608) true KeepRec.none_) s
      | .rewrite | .sys _ => s
    if ok then done s
    else
      match keepLeast (poolAt s (stackOf j)) with
      | none => done (if o.who = .own then keepErrs i 1 s else s)
      | some b =>
        let s := keepNote i j (setPool (stackOf j) (keepMove (poolAt s (stackOf j)) o.blk b false) s)
        let (went, s) := keepIssue i j o.who o.blk o.write s
        if went then s else done (if o.who = .own then keepErrs i 1 s else s)
  | (_, s), _ => s

/-- KEEP_REQ: a peer's block is written or read on its behalf (R559). -/
def keepReqOp (i : Nat) (write : Bool) (blk : Nat) (r : KeepRec) (s : State) : State :=
  match portOfSlice s i with
  | some j =>
    if medIssues s i ∧ runs s (Pg.med i) then (keepIssue i j .peer (keepLogical j blk true) (if write then some r else none) s).2 else s
  | none => s

/-- KEEP_DATA: the manager's answer to a peer's transfer. -/
def keepDataOp (i blk : Nat) (r : KeepRec) (s : State) : State :=
  match (sliceAt s i).keep with
  | some k => if medRole s i = 1 ∧ k.blk = blk + 1 then keepBack i (if k.load then some r else none) s else s
  | none => s

/-- KEEP_TRANSFER_DONE: nothing of the transfer is left (R558, R560, R571). -/
def keepDoneOp (i : Nat) (s : State) : State :=
  let x := sliceAt s i
  match x.keep with
  | some k =>
    if k.left = 0 ∧ !(x.keepOps.any (fun o => o.who = .own)) then
      let res := if k.stop then 1 else if k.errs = 0 then 1 else 3
      let moved := getF s (Pg.med i) R.MED_KEEP_STATUS 0 18
      setR (Pg.med i) R.MED_KEEP_STATUS (BitVec.ofNat 32 (0x40000000 + res * 2 ^ 27 + moved)) (setSlice i { x with keep := none } s)
    else s
  | none => s

/-- STOP ends a transfer after the block in progress (R571). -/
def medStop (i : Nat) (s : State) : State :=
  updSlice i (fun x => { x with keep := x.keep.map (fun k => { k with left := 0, stop := true }) }) s

/-- 2^(r / 10) in 1/65,536, r = 0–9, rounded down: the resolution is a DESIGN CHOICE. -/
def ageSteps : List Nat := [65536, 70239, 75281, 80684, 86475, 92681, 99334, 106463, 114104, 122294]

/-- Weighted hours in 1/65,536 that one hour at a mean of `t` °C adds (R563). -/
def ageHour (t : Int) : Nat :=
  if t < 55 then 65536
  else
    let n := (t - 55).toNat
    (ageSteps[n % 10]?).getD 65536 * 2 ^ (n / 10)

/-- AGE_UPDATE: each hour the manager ages the blocks of its channel and rewrites those that have reached the limit. -/
def ageOp (i : Nat) (t : Int) (s : State) : State :=
  match portOfSlice s i with
  | none => s
  | some j =>
    if medIssues s i ∧ runs s (Pg.med i) then
      let k := stackOf j
      let mine := fun (l : Nat) => decide (l / 196608 % 8 = j % 8)
      let p := poolAt s k
      let p := { p with age := p.age.map (fun e => if mine e.1 then (e.1, e.2 + ageHour t) else e) }
      let s := setPool k p s
      let limit := getF s (Pg.med i) R.MED_KEEP_AGE 0 16 * 24 * 65536
      foldS (fun l s => (keepIssue i j .rewrite l none s).2) ((p.age.filter (fun e => mine e.1 && decide (limit ≤ e.2))).map (·.1)) s
    else s

/-- START records CONFIG (R572). -/
def medConfigBad (s : State) (i : Nat) : Bool :=
  let pg := Pg.med i
  let hot := getF s pg R.MED_REFRESH 16 7
  let t := getF s pg R.MED_REFRESH 0 12
  let l := getF s pg R.MED_TRR 0 16
  let per := getF s pg R.MED_SCRUB 0 10
  let age := getF s pg R.MED_KEEP_AGE 0 16
  decide (hot < 70) || decide (85 < hot) || decide (t < 1000) || decide (3900 < t) || decide (l < 256) || decide (32768 < l) ||
    decide (per < 1) || decide (720 < per) || decide (getF s pg R.MED_CE_LIMIT 0 8 = 0) || decide (age < 7) || decide (365 < age)

/-- A MED page enters Running (R547, R548): a manager waits for REF notices, a peer arms its watch anew. -/
def medRunning (i : Nat) (s : State) : State :=
  let s := match medRole s i, portOfSlice s i with
    | 0, some j => keepNote i j (updSlice i (fun x => { x with waitMgr := true }) s)
    | 1, _ => updSlice i (fun x => { x with armed := false }) s
    | _, _ => s
  keepGo i s

/-! ### The commands -/

/-- STACK_RD_RESPONSE. -/
def execStackRdResponse (i bad : Nat) (s : State) : Host.Outcome State Fault Refusal := onUnit i nSlices (stackRdOp i bad) s

/-- KEEP_RECORD. -/
def execKeepRecord (i bits : Nat) (mask : Word) (s : State) : Host.Outcome State Fault Refusal := onUnit i nSlices (keepRecordOp i bits mask) s

/-- VERIFY_STATUS. -/
def execVerifyStatus (i : Nat) (ok : Bool) (s : State) : Host.Outcome State Fault Refusal := onUnit i nSlices (verifyOp i ok) s

/-- STAT_STATUS: the status word's layout is the stack's (R657); temperature and port state reach the registers by the notices
of R659. -/
def execStatStatus (i : Nat) (_v : DWord) (s : State) : Host.Outcome State Fault Refusal := onUnit i nSlices id s

/-- REF_NOTICE. -/
def execRefNotice (i : Nat) (s : State) : Host.Outcome State Fault Refusal := onUnit i nSlices (refNoticeOp i) s

/-- PORT_DOWN. -/
def execPortDown (i : Nat) (s : State) : Host.Outcome State Fault Refusal := onUnit i nSlices (takeover i) s

/-- PORT_UP: handback is the manager's to ask for (R548), so nothing changes here. -/
def execPortUp (i : Nat) (s : State) : Host.Outcome State Fault Refusal := onUnit i nSlices id s

/-- TEMP. -/
def execTemp (i : Nat) (t : BitVec 16) (s : State) : Host.Outcome State Fault Refusal := onUnit i nSlices (tempOp i t) s

/-- REFRESH. -/
def execRefresh (i : Nat) (s : State) : Host.Outcome State Fault Refusal := onUnit i nSlices (refreshOp i) s

/-- REF_WATCH. -/
def execRefWatch (i : Nat) (s : State) : Host.Outcome State Fault Refusal := onUnit i nSlices (refWatchOp i) s

/-- PEER_ARM. -/
def execPeerArm (i : Nat) (s : State) : Host.Outcome State Fault Refusal := onUnit i nSlices (peerArmOp i) s

/-- MANAGER_WAIT. -/
def execManagerWait (i : Nat) (notices : Bool) (s : State) : Host.Outcome State Fault Refusal := onUnit i nSlices (managerWaitOp i notices) s

/-- CLAIM. -/
def execClaim (i _pos : Nat) (s : State) : Host.Outcome State Fault Refusal := onUnit i nSlices (claimOp i) s

/-- RELEASE. -/
def execRelease (i pos : Nat) (s : State) : Host.Outcome State Fault Refusal := onUnit i nSlices (releaseOp i pos) s

/-- REMAP_BEGIN. -/
def execRemapBegin (r : PeerRow) (s : State) : Host.Outcome State Fault Refusal := onUnit r.slice nSlices (remapBeginOp r) s

/-- REMAP_ACK. -/
def execRemapAck (r : PeerRow) (bad : BitVec 16) (s : State) : Host.Outcome State Fault Refusal := onUnit r.slice nSlices (remapAckOp r bad) s

/-- REMAP_DONE. -/
def execRemapDone (r : PeerRow) (s : State) : Host.Outcome State Fault Refusal := onUnit r.slice nSlices (remapDoneOp r) s

/-- SCRUB_FIX. -/
def execScrubFix (i : Nat) (x : BitVec 34) (s : State) : Host.Outcome State Fault Refusal := onUnit i nSlices (scrubFixOp i x.toNat) s

/-- ROW_REPORT. -/
def execRowReport (i : Nat) (x : BitVec 34) (uncorr : Bool) (s : State) : Host.Outcome State Fault Refusal :=
  onUnit i nSlices (rowReportOp i x.toNat uncorr) s

/-- TRR_REQ. -/
def execTrrReq (r : PeerRow) (s : State) : Host.Outcome State Fault Refusal := onUnit r.slice nSlices (trrReqOp r) s

/-- KEEP_REQ. -/
def execKeepReq (i : Nat) (write : Bool) (blk : Nat) (r : KeepRec) (s : State) : Host.Outcome State Fault Refusal :=
  onUnit i nSlices (keepReqOp i write blk r) s

/-- KEEP_DATA. -/
def execKeepData (i blk : Nat) (r : KeepRec) (s : State) : Host.Outcome State Fault Refusal := onUnit i nSlices (keepDataOp i blk r) s

/-- PATROL_SCRUB. -/
def execPatrolScrub (i bad : Nat) (s : State) : Host.Outcome State Fault Refusal := onUnit i nSlices (scrubOp i bad) s

/-- KEEP_SAVE. -/
def execKeepSave (i : Nat) (s : State) : Host.Outcome State Fault Refusal := onUnit i nSlices (keepStart i false) s

/-- KEEP_LOAD. -/
def execKeepLoad (i : Nat) (s : State) : Host.Outcome State Fault Refusal := onUnit i nSlices (keepStart i true) s

/-- KEEP_TRANSFER_DONE. -/
def execKeepTransferDone (i : Nat) (s : State) : Host.Outcome State Fault Refusal := onUnit i nSlices (keepDoneOp i) s

/-- AGE_UPDATE. -/
def execAgeUpdate (i : Nat) (t : Int) (s : State) : Host.Outcome State Fault Refusal := onUnit i nSlices (ageOp i t) s

end Sys2Proof.Machine
end

