-- ==== Sys2Proof/Machine/Flags.lean ====
section
/-! DEFINITION. The comparisons that set predicates (R189) and the tests that set them (R207, R497). The scalar unit has
no condition flags (R189: "sets no flag"); the sticky flags of arrays and vector engines are in Machine/Float.lean. -/

namespace Sys2Proof.Machine

/-- CMPEQ (R189). -/
def cmpEq (a b : DWord) : Bool := a == b

/-- CMPLT, signed (R189). -/
def cmpLt (a b : DWord) : Bool := decide (a.toInt < b.toInt)

/-- CMPLTU, unsigned (R189). -/
def cmpLtu (a b : DWord) : Bool := decide (a.toNat < b.toNat)

/-- Signed and unsigned minimum and maximum (R189). -/
def minS (a b : DWord) : DWord := if a.toInt ≤ b.toInt then a else b
def maxS (a b : DWord) : DWord := if b.toInt ≤ a.toInt then a else b
def minU (a b : DWord) : DWord := if a.toNat ≤ b.toNat then a else b
def maxU (a b : DWord) : DWord := if b.toNat ≤ a.toNat then a else b

/-- Shift amounts are bits [5:0] (R189). -/
def shAmt (b : DWord) : Nat := b.toNat % 64

end Sys2Proof.Machine
end

