-- ==== Sys2Proof/Machine/Scalar.lean ====
section
/-! DEFINITION. The S slot and the second scalar pipeline (R183–R212): arithmetic, predicates, loads and stores, special
values, waits, and the sequencer's branch, loop and guard operations. An operation is performed at the core's current
stepped index; SYLLABLE_ISSUE (Machine/Stream.lean) performs a whole syllable and advances it. -/

namespace Sys2Proof.Machine

/-- An LD. -/
def isLd (op : Instr) : Bool := match op with | .ld _ _ _ _ _ => true | _ => false

/-- A scalar operation reaches its pipeline (R210, R217): pipeline 0 holds it behind an operation it already holds;
pipeline 1 exists on a core that runs as S and obeys the GUARD of its syllable (R166, R200). While pipeline 0 holds, an LD of pipeline 1
is performed with the operations it holds, so that it sees every earlier ST of theirs (R195, R196, R221); it raises no freeze. -/
def scalarOp (c : Nat) (q : Pipe) (op : Instr) (f : Nat → State → State) (s : State) : State :=
  let x := coreAt s c
  match q with
  | .p0 => if unitHolds x 7 then holdOp c 7 x.steps op s else f x.steps s
  | .p1 =>
    if runsAs s c = some 2 then
      (if squashed x 4 then s else if isLd op && unitHolds x 7 then holdQuiet c 4 x.steps op s else f x.steps s)
    else s

/-- Registers of pipeline `q` as it sees them at stepped index `i`. -/
def rdQ (x : Core) (q : Pipe) (idx : BitVec 8) (i : Nat) : DWord := rdReg x (rdOf q) (fileOf q) idx.toNat i

/-- D ← f(A, B), latency 1 (R189, R192). -/
def binAt (f : DWord → DWord → DWord) (c : Nat) (q : Pipe) (d a b : BitVec 8) (i : Nat) (s : State) : State :=
  updCore c (fun x => wrReg x q (fileOf q) d.toNat i 1 (f (rdQ x q a i) (rdQ x q b i))) s

/-- PD ← f(A, B) (R189). -/
def cmpAt (f : DWord → DWord → Bool) (c : Nat) (q : Pipe) (pd : BitVec 4) (a b : BitVec 8) (i : Nat) (s : State) : State :=
  updCore c (fun x => wrPred x q pd.toNat i (f (rdQ x q a i) (rdQ x q b i))) s

/-- PD ← f(PA, PB) (R189). -/
def predAt (f : Bool → Bool → Bool) (c : Nat) (q : Pipe) (pd pa pb : BitVec 4) (i : Nat) (s : State) : State :=
  updCore c (fun x => wrPred x q pd.toNat i (f (rdPred x (rdOf q) pa.toNat i) (rdPred x (rdOf q) pb.toNat i))) s

/-- D ← f(A) with an immediate folded into `f`. -/
def unAt (f : DWord → DWord) (c : Nat) (q : Pipe) (d a : BitVec 8) (i : Nat) (s : State) : State :=
  updCore c (fun x => wrReg x q (fileOf q) d.toNat i 1 (f (rdQ x q a i))) s

/-- The address of LD and ST (R191): the exact sum A + 8 × IMM8. -/
def ldstAddr (x : Core) (q : Pipe) (a imm : BitVec 8) (i : Nat) : Nat := (rdQ x q a i).toNat + 8 * imm.toNat

/-- An LD or ST address that the core may use (R191). -/
def ldstOk (s : State) (c a : Nat) : Bool := decide (a % 8 = 0) && decide (a + 8 ≤ sizeOfSite s c)

/-- Rank of a scalar access to a bank (R370). -/
def scalarRank (q : Pipe) : Nat := match q with | .p0 => 10 | .p1 => 11

/-- LD (R191, R192): a 64-bit word of the own scratchpad, latency 4; the Glaze is not verified (R373). -/
def ldAt (c : Nat) (q : Pipe) (d a imm : BitVec 8) (i : Nat) (s : State) : State :=
  let ad := ldstAddr (coreAt s c) q a imm i
  if ldstOk s c ad then
    updCore c (fun x => claim (scalarRank q) 7 i ad 8 (wrReg x q (fileOf q) d.toNat i 4 (BitVec.ofNat 64 (numOf (spadBytes x 0 i ad 8))))) s
  else coreFault c 4 s

/-- ST (R191, R195): seen by LD from the next syllable, by other units from the third after. -/
def stAt (c : Nat) (q : Pipe) (d a imm : BitVec 8) (i : Nat) (s : State) : State :=
  let x := coreAt s c
  let ad := ldstAddr x q a imm i
  if ldstOk s c ad then
    updCore c (fun x => claim (scalarRank q) 7 i ad 8 (spadStore x ad (bytesOf 8 (rdQ x q d i).toNat)
      (match q with | .p0 => 2 * i + 1 | .p1 => 2 * i) (i + 1) (i + 3) (i + 3))) s
  else coreFault c 4 s

/-- The special values of MFS (R208). -/
def mfsValue (s : State) (c i : Nat) (index : Nat) : Option DWord :=
  match index with
  | 0 => some (match ptnOfSite s c with | some p => getQ s (Pg.ptn p) R.PTN_SOL_SEQ_LO | none => 0)
  | 1 => some (BitVec.ofNat 64 i)
  | 2 => some (BitVec.ofNat 64 ((logicalAt s c).getD 0xFF))
  | 3 => some (BitVec.ofNat 64 ((ptnOfSite s c).getD 0))
  | 4 => some (BitVec.ofNat 64 ((runsAs s c).getD 0xF))
  | 5 => some (BitVec.ofNat 64 c)
  | 6 => some (BitVec.ofNat 64 (dieNum s))
  | _ => none

/-- MFS (R208): any other index is ILLEGAL. -/
def mfsAt (c : Nat) (q : Pipe) (d index : BitVec 8) (i : Nat) (s : State) : State :=
  match mfsValue s c i index.toNat with
  | some v => updCore c (fun x => wrReg x q (fileOf q) d.toNat i 1 v) s
  | none => coreFault c 1 s

/-- MOVX (R211): sD ← tA in the S slot, tD ← sA in pipeline 1; ILLEGAL on a core not running as S. -/
def movxAt (c : Nat) (q : Pipe) (d a : BitVec 8) (i : Nat) (s : State) : State :=
  if runsAs s c = some 2 then
    updCore c (fun x => wrReg x q (fileOf q) d.toNat i 1 (rdReg x (rdOf q) (1 - fileOf q) a.toNat i)) s
  else coreFault c 1 s

/-! ### Waits and tests (R204–R207) -/

/-- WAIT and WAITR with their count (R204). -/
def waitOn (c sig need i : Nat) (op : Instr) (s : State) : State :=
  if need ≤ sigCount s c sig then setSig c sig (sigCount s c sig - need) s else holdOp c 7 i op s

/-- WAIT at stepped index `i`. -/
def waitAt (c : Nat) (sig : BitVec 5) (count : BitVec 16) (i : Nat) (s : State) : State :=
  waitOn c sig.toNat count.toNat i (.wait c sig count) s

/-- WAITR: the count is A[31:0], read as the sequencer sees it (R193). -/
def waitrAt (c : Nat) (sig : BitVec 5) (a : BitVec 8) (i : Nat) (s : State) : State :=
  waitOn c sig.toNat ((rdReg (coreAt s c) .other 0 a.toNat i).toNat % 2 ^ 32) i (.waitr c sig a) s

/-- WAITL (R206): a COUNT of 0 is satisfied at issue; a limit of 0 tests the count once. -/
def waitlAt (c : Nat) (pd : BitVec 4) (sig : BitVec 5) (count : BitVec 7) (a : BitVec 8) (i : Nat) (s : State) : State :=
  let n := sigCount s c sig.toNat
  if count = 0 then updCore c (fun x => wrPred x .p0 pd.toNat i true) s
  else if count.toNat ≤ n then
    updCore c (fun x => wrPred x .p0 pd.toNat i true) (setSig c sig.toNat (n - count.toNat) s)
  else if (rdQ (coreAt s c) .p0 a i).toNat % 2 ^ 32 = 0 then updCore c (fun x => wrPred x .p0 pd.toNat i false) s
  else holdOp c 7 i (.waitl c pd sig count a) s

/-- TESTS (R207, R190): A must be 0. -/
def testsAt (c : Nat) (pd : BitVec 4) (sig : BitVec 5) (count : BitVec 7) (i : Nat) (s : State) : State :=
  let v := decide (count.toNat ≤ sigCount s c sig.toNat)
  updCore c (fun x => wrPred x .p0 pd.toNat i v) s

/-- A WAITL. -/
def isWaitl (op : Instr) : Bool := match op with | .waitl _ _ _ _ _ => true | _ => false

/-- The limit of a held WAITL runs out (R206): PD is set to 0, nothing is subtracted, and the stream proceeds. The limit is counted from
issue, so the oldest held WAITL runs out, whatever unit S holds before it. -/
def waitlExpire (c : Nat) (s : State) : State :=
  match (coreAt s c).holds.find? (fun h => decide (h.1 = 7) && isWaitl h.2.2) with
  | some (u, i, .waitl c' pd sig count a) =>
    let op := Instr.waitl c' pd sig count a
    updCore c (fun x =>
      { wrPred x .p0 pd.toNat i false with
        holds := x.holds.map (fun h => if h = (u, i, op) then (u, i, Instr.sNop c .p0) else h) }) s
  | _ => s

/-! ### The sequencer (R197–R203, R213) -/

/-- A branch or guard condition P XOR NEG as the sequencer sees it. -/
def seqCond (x : Core) (p : BitVec 4) (neg : Bool) (i : Nat) : Bool := (rdPred x .other p.toNat i) != neg

/-- The current syllable is the END of an open loop. -/
def atEnd (x : Core) : Bool := x.loops.any (fun l => l.stop = x.pos)

/-- BR (R197, R199): taken, it leaves two delay syllables before TARGET; in the END syllable of an open loop, or as a
delay syllable, it is ILLEGAL. -/
def brAt (c : Nat) (p : BitVec 4) (neg : Bool) (target : BitVec 12) (i : Nat) (s : State) : State :=
  let x := coreAt s c
  if x.branch.isSome then coreFault c 1 s
  else if seqCond x p neg i then
    if atEnd x then coreFault c 1 s else setCore c { x with branch := some (2, target.toNat) } s
  else s

/-- LOOPI and LOOPR with their count (R201, R203): END at or before the loop, beyond the enclosing END, or a fifth level
is LOOP; N = 0 goes on at END + 1, else a level opens. -/
def loopAt (c stop n : Nat) (s : State) : State :=
  let x := coreAt s c
  if x.branch.isSome then coreFault c 1 s
  else if stop ≤ x.pos ∨ x.loops.head?.any (fun l => l.stop < stop) ∨ (n ≠ 0 ∧ 4 ≤ x.loops.length) then coreFault c 2 s
  else if n = 0 then setCore c { x with pos := (stop + 1) % 4096 } s
  else setCore c { x with loops := { start := (x.pos + 1) % 4096, stop := stop, count := n } :: x.loops, pos := (x.pos + 1) % 4096 } s

/-- LOOPI. -/
def loopiAt (c : Nat) (stop count : BitVec 12) (_i : Nat) (s : State) : State := loopAt c stop.toNat count.toNat s

/-- LOOPR: the count is A[31:0] as the sequencer sees it (R193). -/
def looprAt (c : Nat) (stop : BitVec 12) (a : BitVec 8) (i : Nat) (s : State) : State :=
  loopAt c stop.toNat ((rdReg (coreAt s c) .other 0 a.toNat i).toNat % 2 ^ 32) s

/-- GUARD (R200): the named slots of its own syllable are squashed when P XOR NEG = 0. -/
def guardAt (c : Nat) (p : BitVec 4) (neg : Bool) (slots : BitVec 7) (i : Nat) (s : State) : State :=
  let x := coreAt s c
  if seqCond x p neg i then s else setCore c { x with squash := x.squash ||| slots } s

/-- SOL_END (R213, R199): the core issues no further syllable in this Sol. -/
def solEndAt (c : Nat) (_i : Nat) (s : State) : State :=
  if (coreAt s c).branch.isSome then coreFault c 1 s
  else updCore c (fun x => { x with ended := true }) s

/-! ### The commands -/

/-- A sequencer operation is performed at issue (R189). -/
def seqOp (c : Nat) (f : Nat → State → State) (s : State) : State := f (coreAt s c).steps s

/-- S-slot NOP (R168). -/
def execSNop (c : Nat) (q : Pipe) (s : State) : Host.Outcome State Fault Refusal :=
  onUnit c nSites (scalarOp c q (.sNop c q) (fun _ s => s)) s

/-- BR. -/
def execBr (c : Nat) (p : BitVec 4) (neg : Bool) (target : BitVec 12) (s : State) : Host.Outcome State Fault Refusal :=
  onUnit c nSites (seqOp c (brAt c p neg target)) s

/-- LOOPI. -/
def execLoopi (c : Nat) (stop count : BitVec 12) (s : State) : Host.Outcome State Fault Refusal :=
  onUnit c nSites (seqOp c (loopiAt c stop count)) s

/-- LOOPR. -/
def execLoopr (c : Nat) (stop : BitVec 12) (a : BitVec 8) (s : State) : Host.Outcome State Fault Refusal :=
  onUnit c nSites (seqOp c (looprAt c stop a)) s

/-- GUARD. -/
def execGuard (c : Nat) (p : BitVec 4) (neg : Bool) (slots : BitVec 7) (s : State) : Host.Outcome State Fault Refusal :=
  onUnit c nSites (seqOp c (guardAt c p neg slots)) s

/-- WAIT. -/
def execWait (c : Nat) (sig : BitVec 5) (count : BitVec 16) (s : State) : Host.Outcome State Fault Refusal :=
  onUnit c nSites (scalarOp c .p0 (.wait c sig count) (waitAt c sig count)) s

/-- WAITR. -/
def execWaitr (c : Nat) (sig : BitVec 5) (a : BitVec 8) (s : State) : Host.Outcome State Fault Refusal :=
  onUnit c nSites (scalarOp c .p0 (.waitr c sig a) (waitrAt c sig a)) s

/-- WAITL. -/
def execWaitl (c : Nat) (pd : BitVec 4) (sig : BitVec 5) (count : BitVec 7) (a : BitVec 8) (s : State) :
    Host.Outcome State Fault Refusal :=
  onUnit c nSites (scalarOp c .p0 (.waitl c pd sig count a) (waitlAt c pd sig count a)) s

/-- WAITL_TIMEOUT. -/
def execWaitlTimeout (c : Nat) (s : State) : Host.Outcome State Fault Refusal := onUnit c nSites (waitlExpire c) s

/-- TESTS. -/
def execTests (c : Nat) (pd : BitVec 4) (sig : BitVec 5) (count : BitVec 7) (s : State) : Host.Outcome State Fault Refusal :=
  onUnit c nSites (scalarOp c .p0 (.tests c pd sig count) (testsAt c pd sig count)) s

/-- ADD (R189). -/
def addAt (c : Nat) (q : Pipe) (d a b : BitVec 8) (i : Nat) (s : State) : State := binAt (fun a b => a + b) c q d a b i s
def execAdd (c : Nat) (q : Pipe) (d a b : BitVec 8) (s : State) : Host.Outcome State Fault Refusal :=
  onUnit c nSites (scalarOp c q (.add c q d a b) (addAt c q d a b)) s

/-- SUB (R189). -/
def subAt (c : Nat) (q : Pipe) (d a b : BitVec 8) (i : Nat) (s : State) : State := binAt (fun a b => a - b) c q d a b i s
def execSub (c : Nat) (q : Pipe) (d a b : BitVec 8) (s : State) : Host.Outcome State Fault Refusal :=
  onUnit c nSites (scalarOp c q (.sub c q d a b) (subAt c q d a b)) s

/-- AND (R189). -/
def andAt (c : Nat) (q : Pipe) (d a b : BitVec 8) (i : Nat) (s : State) : State := binAt (fun a b => a &&& b) c q d a b i s
def execAnd (c : Nat) (q : Pipe) (d a b : BitVec 8) (s : State) : Host.Outcome State Fault Refusal :=
  onUnit c nSites (scalarOp c q (.and c q d a b) (andAt c q d a b)) s

/-- OR (R189). -/
def orAt (c : Nat) (q : Pipe) (d a b : BitVec 8) (i : Nat) (s : State) : State := binAt (fun a b => a ||| b) c q d a b i s
def execOr (c : Nat) (q : Pipe) (d a b : BitVec 8) (s : State) : Host.Outcome State Fault Refusal :=
  onUnit c nSites (scalarOp c q (.or c q d a b) (orAt c q d a b)) s

/-- XOR (R189). -/
def xorAt (c : Nat) (q : Pipe) (d a b : BitVec 8) (i : Nat) (s : State) : State := binAt (fun a b => a ^^^ b) c q d a b i s
def execXor (c : Nat) (q : Pipe) (d a b : BitVec 8) (s : State) : Host.Outcome State Fault Refusal :=
  onUnit c nSites (scalarOp c q (.xor c q d a b) (xorAt c q d a b)) s

/-- SHL (R189). -/
def shlAt (c : Nat) (q : Pipe) (d a b : BitVec 8) (i : Nat) (s : State) : State := binAt (fun a b => a <<< shAmt b) c q d a b i s
def execShl (c : Nat) (q : Pipe) (d a b : BitVec 8) (s : State) : Host.Outcome State Fault Refusal :=
  onUnit c nSites (scalarOp c q (.shl c q d a b) (shlAt c q d a b)) s

/-- SHR (R189). -/
def shrAt (c : Nat) (q : Pipe) (d a b : BitVec 8) (i : Nat) (s : State) : State := binAt (fun a b => a >>> shAmt b) c q d a b i s
def execShr (c : Nat) (q : Pipe) (d a b : BitVec 8) (s : State) : Host.Outcome State Fault Refusal :=
  onUnit c nSites (scalarOp c q (.shr c q d a b) (shrAt c q d a b)) s

/-- SRA (R189). -/
def sraAt (c : Nat) (q : Pipe) (d a b : BitVec 8) (i : Nat) (s : State) : State := binAt (fun a b => a.sshiftRight (shAmt b)) c q d a b i s
def execSra (c : Nat) (q : Pipe) (d a b : BitVec 8) (s : State) : Host.Outcome State Fault Refusal :=
  onUnit c nSites (scalarOp c q (.sra c q d a b) (sraAt c q d a b)) s

/-- MUL (R189). -/
def mulAt (c : Nat) (q : Pipe) (d a b : BitVec 8) (i : Nat) (s : State) : State := binAt (fun a b => a * b) c q d a b i s
def execMul (c : Nat) (q : Pipe) (d a b : BitVec 8) (s : State) : Host.Outcome State Fault Refusal :=
  onUnit c nSites (scalarOp c q (.mul c q d a b) (mulAt c q d a b)) s

/-- MIN (R189). -/
def minAt (c : Nat) (q : Pipe) (d a b : BitVec 8) (i : Nat) (s : State) : State := binAt (fun a b => minS a b) c q d a b i s
def execMin (c : Nat) (q : Pipe) (d a b : BitVec 8) (s : State) : Host.Outcome State Fault Refusal :=
  onUnit c nSites (scalarOp c q (.min c q d a b) (minAt c q d a b)) s

/-- MAX (R189). -/
def maxAt (c : Nat) (q : Pipe) (d a b : BitVec 8) (i : Nat) (s : State) : State := binAt (fun a b => maxS a b) c q d a b i s
def execMax (c : Nat) (q : Pipe) (d a b : BitVec 8) (s : State) : Host.Outcome State Fault Refusal :=
  onUnit c nSites (scalarOp c q (.max c q d a b) (maxAt c q d a b)) s

/-- MINU (R189). -/
def minuAt (c : Nat) (q : Pipe) (d a b : BitVec 8) (i : Nat) (s : State) : State := binAt (fun a b => minU a b) c q d a b i s
def execMinu (c : Nat) (q : Pipe) (d a b : BitVec 8) (s : State) : Host.Outcome State Fault Refusal :=
  onUnit c nSites (scalarOp c q (.minu c q d a b) (minuAt c q d a b)) s

/-- MAXU (R189). -/
def maxuAt (c : Nat) (q : Pipe) (d a b : BitVec 8) (i : Nat) (s : State) : State := binAt (fun a b => maxU a b) c q d a b i s
def execMaxu (c : Nat) (q : Pipe) (d a b : BitVec 8) (s : State) : Host.Outcome State Fault Refusal :=
  onUnit c nSites (scalarOp c q (.maxu c q d a b) (maxuAt c q d a b)) s

/-- ADDI (R189). -/
def addiAt (c : Nat) (q : Pipe) (d a : BitVec 8) (imm : BitVec 8) (i : Nat) (s : State) : State := unAt (fun a => a + imm.signExtend 64) c q d a i s
def execAddi (c : Nat) (q : Pipe) (d a : BitVec 8) (imm : BitVec 8) (s : State) : Host.Outcome State Fault Refusal :=
  onUnit c nSites (scalarOp c q (.addi c q d a imm) (addiAt c q d a imm)) s

/-- SHLI (R189). -/
def shliAt (c : Nat) (q : Pipe) (d a : BitVec 8) (imm : BitVec 6) (i : Nat) (s : State) : State := unAt (fun a => a <<< imm.toNat) c q d a i s
def execShli (c : Nat) (q : Pipe) (d a : BitVec 8) (imm : BitVec 6) (s : State) : Host.Outcome State Fault Refusal :=
  onUnit c nSites (scalarOp c q (.shli c q d a imm) (shliAt c q d a imm)) s

/-- SHRI (R189). -/
def shriAt (c : Nat) (q : Pipe) (d a : BitVec 8) (imm : BitVec 6) (i : Nat) (s : State) : State := unAt (fun a => a >>> imm.toNat) c q d a i s
def execShri (c : Nat) (q : Pipe) (d a : BitVec 8) (imm : BitVec 6) (s : State) : Host.Outcome State Fault Refusal :=
  onUnit c nSites (scalarOp c q (.shri c q d a imm) (shriAt c q d a imm)) s

/-- LIS (R189). -/
def lisAt (c : Nat) (q : Pipe) (d : BitVec 8) (imm : BitVec 16) (i : Nat) (s : State) : State := unAt (fun _ => imm.signExtend 64) c q d 0 i s
def execLis (c : Nat) (q : Pipe) (d : BitVec 8) (imm : BitVec 16) (s : State) : Host.Outcome State Fault Refusal :=
  onUnit c nSites (scalarOp c q (.lis c q d imm) (lisAt c q d imm)) s

/-- LIH (R189). -/
def lihAt (c : Nat) (q : Pipe) (d : BitVec 8) (imm : BitVec 16) (i : Nat) (s : State) : State := unAt (fun x => (x <<< 16) ||| imm.zeroExtend 64) c q d d i s
def execLih (c : Nat) (q : Pipe) (d : BitVec 8) (imm : BitVec 16) (s : State) : Host.Outcome State Fault Refusal :=
  onUnit c nSites (scalarOp c q (.lih c q d imm) (lihAt c q d imm)) s

/-- CMPEQ (R189). -/
def cmpeqAt (c : Nat) (q : Pipe) (pd : BitVec 4) (a b : BitVec 8) (i : Nat) (s : State) : State := cmpAt cmpEq c q pd a b i s
def execCmpeq (c : Nat) (q : Pipe) (pd : BitVec 4) (a b : BitVec 8) (s : State) : Host.Outcome State Fault Refusal :=
  onUnit c nSites (scalarOp c q (.cmpeq c q pd a b) (cmpeqAt c q pd a b)) s

/-- CMPLT (R189). -/
def cmpltAt (c : Nat) (q : Pipe) (pd : BitVec 4) (a b : BitVec 8) (i : Nat) (s : State) : State := cmpAt cmpLt c q pd a b i s
def execCmplt (c : Nat) (q : Pipe) (pd : BitVec 4) (a b : BitVec 8) (s : State) : Host.Outcome State Fault Refusal :=
  onUnit c nSites (scalarOp c q (.cmplt c q pd a b) (cmpltAt c q pd a b)) s

/-- CMPLTU (R189). -/
def cmpltuAt (c : Nat) (q : Pipe) (pd : BitVec 4) (a b : BitVec 8) (i : Nat) (s : State) : State := cmpAt cmpLtu c q pd a b i s
def execCmpltu (c : Nat) (q : Pipe) (pd : BitVec 4) (a b : BitVec 8) (s : State) : Host.Outcome State Fault Refusal :=
  onUnit c nSites (scalarOp c q (.cmpltu c q pd a b) (cmpltuAt c q pd a b)) s

/-- PAND (R189). -/
def pandAt (c : Nat) (q : Pipe) (pd pa pb : BitVec 4) (i : Nat) (s : State) : State := predAt (fun a b => a && b) c q pd pa pb i s
def execPand (c : Nat) (q : Pipe) (pd pa pb : BitVec 4) (s : State) : Host.Outcome State Fault Refusal :=
  onUnit c nSites (scalarOp c q (.pand c q pd pa pb) (pandAt c q pd pa pb)) s

/-- POR (R189). -/
def porAt (c : Nat) (q : Pipe) (pd pa pb : BitVec 4) (i : Nat) (s : State) : State := predAt (fun a b => a || b) c q pd pa pb i s
def execPor (c : Nat) (q : Pipe) (pd pa pb : BitVec 4) (s : State) : Host.Outcome State Fault Refusal :=
  onUnit c nSites (scalarOp c q (.por c q pd pa pb) (porAt c q pd pa pb)) s

/-- PXOR (R189). -/
def pxorAt (c : Nat) (q : Pipe) (pd pa pb : BitVec 4) (i : Nat) (s : State) : State := predAt (fun a b => a != b) c q pd pa pb i s
def execPxor (c : Nat) (q : Pipe) (pd pa pb : BitVec 4) (s : State) : Host.Outcome State Fault Refusal :=
  onUnit c nSites (scalarOp c q (.pxor c q pd pa pb) (pxorAt c q pd pa pb)) s

/-- LD. -/
def execLd (c : Nat) (q : Pipe) (d a imm : BitVec 8) (s : State) : Host.Outcome State Fault Refusal :=
  onUnit c nSites (scalarOp c q (.ld c q d a imm) (ldAt c q d a imm)) s

/-- ST. -/
def execSt (c : Nat) (q : Pipe) (d a imm : BitVec 8) (s : State) : Host.Outcome State Fault Refusal :=
  onUnit c nSites (scalarOp c q (.st c q d a imm) (stAt c q d a imm)) s

/-- MFS. -/
def execMfs (c : Nat) (q : Pipe) (d index : BitVec 8) (s : State) : Host.Outcome State Fault Refusal :=
  onUnit c nSites (scalarOp c q (.mfs c q d index) (mfsAt c q d index)) s

/-- MOVX. -/
def execMovx (c : Nat) (q : Pipe) (d a : BitVec 8) (s : State) : Host.Outcome State Fault Refusal :=
  onUnit c nSites (scalarOp c q (.movx c q d a) (movxAt c q d a)) s

end Sys2Proof.Machine
end

