-- ==== Sys2Proof/Machine/VecCmd.lean ====
section
/-! DEFINITION. The commands of the V slots (R328): each operation with its causes and its effect. -/

namespace Sys2Proof.Machine

/-- V-slot NOP. -/
def execVNop (c : Nat) (_v1 : Bool) (s : State) : Host.Outcome State Fault Refusal := onUnit c nSites (fun s => s) s

/-- VADD. -/
def vaddOp (c : Nat) (f : VR) (s : State) : State :=
  vOp c false 0x01 (vrCauses c f allTypes 16 false) (vaddAt c f) s
def execVadd (c : Nat) (f : VR) (s : State) : Host.Outcome State Fault Refusal := onUnit c nSites (vaddOp c f) s

/-- VSUB. -/
def vsubOp (c : Nat) (f : VR) (s : State) : State :=
  vOp c false 0x02 (vrCauses c f allTypes 16 false) (vsubAt c f) s
def execVsub (c : Nat) (f : VR) (s : State) : Host.Outcome State Fault Refusal := onUnit c nSites (vsubOp c f) s

/-- VMUL. -/
def vmulOp (c : Nat) (f : VR) (s : State) : State :=
  vOp c false 0x03 (vrCauses c f allTypes 16 false) (vmulAt c f) s
def execVmul (c : Nat) (f : VR) (s : State) : Host.Outcome State Fault Refusal := onUnit c nSites (vmulOp c f) s

/-- VFMA. -/
def vfmaOp (c : Nat) (f : VR) (s : State) : State :=
  vOp c false 0x04 (vrCauses c f floatTypes 16 true) (vfmaAt c f) s
def execVfma (c : Nat) (f : VR) (s : State) : Host.Outcome State Fault Refusal := onUnit c nSites (vfmaOp c f) s

/-- VFMS. -/
def vfmsOp (c : Nat) (f : VR) (s : State) : State :=
  vOp c false 0x05 (vrCauses c f floatTypes 16 true) (vfmsAt c f) s
def execVfms (c : Nat) (f : VR) (s : State) : Host.Outcome State Fault Refusal := onUnit c nSites (vfmsOp c f) s

/-- VFNMA. -/
def vfnmaOp (c : Nat) (f : VR) (s : State) : State :=
  vOp c false 0x06 (vrCauses c f floatTypes 16 true) (vfnmaAt c f) s
def execVfnma (c : Nat) (f : VR) (s : State) : Host.Outcome State Fault Refusal := onUnit c nSites (vfnmaOp c f) s

/-- VMIN. -/
def vminOp (c : Nat) (f : VR) (s : State) : State :=
  vOp c false 0x07 (vrCauses c f allTypes 8 false) (vminAt c f) s
def execVmin (c : Nat) (f : VR) (s : State) : Host.Outcome State Fault Refusal := onUnit c nSites (vminOp c f) s

/-- VMAX. -/
def vmaxOp (c : Nat) (f : VR) (s : State) : State :=
  vOp c false 0x08 (vrCauses c f allTypes 8 false) (vmaxAt c f) s
def execVmax (c : Nat) (f : VR) (s : State) : Host.Outcome State Fault Refusal := onUnit c nSites (vmaxOp c f) s

/-- VABS. -/
def vabsOp (c : Nat) (f : VR) (s : State) : State :=
  vOp c false 0x09 (vrCauses c f allTypes 0 false) (vabsAt c f) s
def execVabs (c : Nat) (f : VR) (s : State) : Host.Outcome State Fault Refusal := onUnit c nSites (vabsOp c f) s

/-- VNEG. -/
def vnegOp (c : Nat) (f : VR) (s : State) : State :=
  vOp c false 0x0A (vrCauses c f allTypes 0 false) (vnegAt c f) s
def execVneg (c : Nat) (f : VR) (s : State) : Host.Outcome State Fault Refusal := onUnit c nSites (vnegOp c f) s

/-- VRINT. -/
def vrintOp (c : Nat) (f : VR) (s : State) : State :=
  vOp c false 0x0B (vrCauses c f floatTypes 0 false) (vrintAt c f) s
def execVrint (c : Nat) (f : VR) (s : State) : Host.Outcome State Fault Refusal := onUnit c nSites (vrintOp c f) s

/-- VMOV. -/
def vmovOp (c : Nat) (f : VR) (s : State) : State :=
  vOp c false 0x12 (vrCauses c f allTypes 0 false) (vmovAt c f) s
def execVmov (c : Nat) (f : VR) (s : State) : Host.Outcome State Fault Refusal := onUnit c nSites (vmovOp c f) s

/-- VAND. -/
def vandOp (c : Nat) (f : VR) (s : State) : State :=
  vOp c false 0x18 (vrCauses c f allTypes 0 false) (vandAt c f) s
def execVand (c : Nat) (f : VR) (s : State) : Host.Outcome State Fault Refusal := onUnit c nSites (vandOp c f) s

/-- VOR. -/
def vorOp (c : Nat) (f : VR) (s : State) : State :=
  vOp c false 0x19 (vrCauses c f allTypes 0 false) (vorAt c f) s
def execVor (c : Nat) (f : VR) (s : State) : Host.Outcome State Fault Refusal := onUnit c nSites (vorOp c f) s

/-- VXOR. -/
def vxorOp (c : Nat) (f : VR) (s : State) : State :=
  vOp c false 0x1A (vrCauses c f allTypes 0 false) (vxorAt c f) s
def execVxor (c : Nat) (f : VR) (s : State) : Host.Outcome State Fault Refusal := onUnit c nSites (vxorOp c f) s

/-- VSHL. -/
def vshlOp (c : Nat) (f : VR) (s : State) : State :=
  vOp c false 0x1B (vrCauses c f intTypes 0 false) (vshlAt c f) s
def execVshl (c : Nat) (f : VR) (s : State) : Host.Outcome State Fault Refusal := onUnit c nSites (vshlOp c f) s

/-- VSHR. -/
def vshrOp (c : Nat) (f : VR) (s : State) : State :=
  vOp c false 0x1C (vrCauses c f intTypes 0 false) (vshrAt c f) s
def execVshr (c : Nat) (f : VR) (s : State) : Host.Outcome State Fault Refusal := onUnit c nSites (vshrOp c f) s

/-- VSRA. -/
def vsraOp (c : Nat) (f : VR) (s : State) : State :=
  vOp c false 0x1D (vrCauses c f intTypes 0 false) (vsraAt c f) s
def execVsra (c : Nat) (f : VR) (s : State) : Host.Outcome State Fault Refusal := onUnit c nSites (vsraOp c f) s

/-- VCMP. -/
def vcmpOp (c : Nat) (f : VR) (s : State) : State :=
  vOp c false 0x10 (fun s => causeBits (bit f.md 4 || decide (fld f.md 0 3 = 7) || decide (f.c ≠ 0) || decide (fld f.d 3 2 ≠ 0)) (!tOk s c allTypes f.t.toNat)) (vcmpAt c f) s
def execVcmp (c : Nat) (f : VR) (s : State) : Host.Outcome State Fault Refusal := onUnit c nSites (vcmpOp c f) s

/-- VSEL. -/
def vselOp (c : Nat) (f : VR) (s : State) : State :=
  vOp c false 0x11 (fun s => causeBits (decide (f.md ≠ 0) || decide (f.c ≠ 0)) (!tOk s c allTypes f.t.toNat || f.mz)) (vselAt c f) s
def execVsel (c : Nat) (f : VR) (s : State) : Host.Outcome State Fault Refusal := onUnit c nSites (vselOp c f) s

/-- VCVT. -/
def vcvtOp (c : Nat) (f : VR) (s : State) : State :=
  vOp c false 0x20 (vcvtCauses c f) (vcvtAt c f) s
def execVcvt (c : Nat) (f : VR) (s : State) : Host.Outcome State Fault Refusal := onUnit c nSites (vcvtOp c f) s

/-- VUNPK. -/
def vunpkOp (c : Nat) (f : VR) (s : State) : State :=
  vOp c false 0x21 (vunpkCauses c f) (vunpkAt c f) s
def execVunpk (c : Nat) (f : VR) (s : State) : Host.Outcome State Fault Refusal := onUnit c nSites (vunpkOp c f) s

/-- MAND. -/
def mandOp (c : Nat) (f : VR) (s : State) : State :=
  vOp c false 0x28 (maskCauses f) (maskAt (fun a b => a &&& b) c f) s
def execMand (c : Nat) (f : VR) (s : State) : Host.Outcome State Fault Refusal := onUnit c nSites (mandOp c f) s

/-- MOR. -/
def morOp (c : Nat) (f : VR) (s : State) : State :=
  vOp c false 0x29 (maskCauses f) (maskAt (fun a b => a ||| b) c f) s
def execMor (c : Nat) (f : VR) (s : State) : Host.Outcome State Fault Refusal := onUnit c nSites (morOp c f) s

/-- MXOR. -/
def mxorOp (c : Nat) (f : VR) (s : State) : State :=
  vOp c false 0x2A (maskCauses f) (maskAt (fun a b => a ^^^ b) c f) s
def execMxor (c : Nat) (f : VR) (s : State) : Host.Outcome State Fault Refusal := onUnit c nSites (mxorOp c f) s

/-- MANDN. -/
def mandnOp (c : Nat) (f : VR) (s : State) : State :=
  vOp c false 0x2B (maskCauses f) (maskAt (fun a b => a &&& (b ^^^ (2 ^ 512 - 1))) c f) s
def execMandn (c : Nat) (f : VR) (s : State) : Host.Outcome State Fault Refusal := onUnit c nSites (mandnOp c f) s

/-- VLIS. -/
def vlisOp (c : Nat) (d : BitVec 5) (imm : BitVec 16) (t : BitVec 3) (s : State) : State :=
  vOp c false 0x30 (fun s => causeBits false (!tOk s c allTypes t.toNat)) (vlisAt c d imm t) s
def execVlis (c : Nat) (d : BitVec 5) (imm : BitVec 16) (t : BitVec 3) (s : State) : Host.Outcome State Fault Refusal :=
  onUnit c nSites (vlisOp c d imm t) s

/-- VLD. -/
def vldOp (c : Nat) (f : VM) (s : State) : State :=
  vOp c true 0x40 (vmCauses c false f) (vldAt c f) s
def execVld (c : Nat) (f : VM) (s : State) : Host.Outcome State Fault Refusal := onUnit c nSites (vldOp c f) s

/-- VST. -/
def vstOp (c : Nat) (f : VM) (s : State) : State :=
  vOp c true 0x41 (vmCauses c true f) (vstAt c f) s
def execVst (c : Nat) (f : VM) (s : State) : Host.Outcome State Fault Refusal := onUnit c nSites (vstOp c f) s

/-- VSETA. -/
def vsetaOp (c : Nat) (ar : BitVec 3) (sreg : BitVec 8) (s : State) : State :=
  vOp c true 0x42 (fun s => if (rdReg (coreAt s c) .other 0 sreg.toNat (coreAt s c).steps).toNat < 2 ^ 22 then 0 else 2 ^ 10)
    (fun i s => vaSet c ar (BitVec.ofNat 22 (rdReg (coreAt s c) .other 0 sreg.toNat i).toNat) s) s
def execVseta (c : Nat) (ar : BitVec 3) (sreg : BitVec 8) (s : State) : Host.Outcome State Fault Refusal := onUnit c nSites (vsetaOp c ar sreg) s

/-- VSETAI. -/
def vsetaiOp (c : Nat) (ar : BitVec 3) (off : BitVec 22) (s : State) : State := vOp c true 0x43 (fun _ => 0) (fun _ => vaSet c ar off) s
def execVsetai (c : Nat) (ar : BitVec 3) (off : BitVec 22) (s : State) : Host.Outcome State Fault Refusal := onUnit c nSites (vsetaiOp c ar off) s

/-- VBCS. -/
def vbcsOp (c : Nat) (d : BitVec 5) (sreg : BitVec 8) (t : BitVec 3) (s : State) : State :=
  vOp c true 0x44 (fun s => causeBits false (!tOk s c allTypes t.toNat)) (vbcsAt c d sreg t) s
def execVbcs (c : Nat) (d : BitVec 5) (sreg : BitVec 8) (t : BitVec 3) (s : State) : Host.Outcome State Fault Refusal :=
  onUnit c nSites (vbcsOp c d sreg t) s

/-- VRED. -/
def vredOp (c : Nat) (f : VR) (s : State) : State :=
  vOp c true 0x48 (vredCauses c f) (vredAt c f) s
def execVred (c : Nat) (f : VR) (s : State) : Host.Outcome State Fault Refusal := onUnit c nSites (vredOp c f) s

/-- VCMPR. -/
def vcmprOp (c : Nat) (f : VR) (s : State) : State :=
  vOp c true 0x50 (fun s => causeBits (decide (f.md ≠ 0) || decide (fld f.c 3 2 ≠ 0) || f.mz) (!tOk s c allTypes f.t.toNat)) (vcmprAt c f) s
def execVcmpr (c : Nat) (f : VR) (s : State) : Host.Outcome State Fault Refusal := onUnit c nSites (vcmprOp c f) s

/-- VEXPD. -/
def vexpdOp (c : Nat) (f : VR) (s : State) : State :=
  vOp c true 0x51 (fun s => causeBits (decide (f.md ≠ 0) || decide (f.c ≠ 0)) (!tOk s c allTypes f.t.toNat)) (vexpdAt c f) s
def execVexpd (c : Nat) (f : VR) (s : State) : Host.Outcome State Fault Refusal := onUnit c nSites (vexpdOp c f) s

/-- MCNT. -/
def mcntOp (c : Nat) (f : VR) (s : State) : State :=
  vOp c true 0x52 (fun s => causeBits (decide (f.md ≠ 0) || decide (f.c ≠ 0)) (!tOk s c allTypes f.t.toNat)) (mcntAt c f) s
def execMcnt (c : Nat) (f : VR) (s : State) : Host.Outcome State Fault Refusal := onUnit c nSites (mcntOp c f) s

/-- VFLAGS. -/
def vflagsOp (c : Nat) (f : VR) (s : State) : State :=
  vOp c true 0x53 (fun s => causeBits (decide (f.md.toNat &&& 30 ≠ 0) || decide (f.c ≠ 0)) (!tOk s c allTypes f.t.toNat)) (vflagsAt c f) s
def execVflags (c : Nat) (f : VR) (s : State) : Host.Outcome State Fault Refusal := onUnit c nSites (vflagsOp c f) s

/-- EXP2. -/
def exp2Op (c : Nat) (f : VR) (s : State) : State :=
  vOp c true 0x60 (sfuCauses c f) (sfuBody c f 0x60 8 exp2Num) s
def execExp2 (c : Nat) (f : VR) (s : State) : Host.Outcome State Fault Refusal := onUnit c nSites (exp2Op c f) s

/-- LOG2. -/
def log2Op (c : Nat) (f : VR) (s : State) : State :=
  vOp c true 0x61 (sfuCauses c f) (sfuBody c f 0x61 8 log2Num) s
def execLog2 (c : Nat) (f : VR) (s : State) : Host.Outcome State Fault Refusal := onUnit c nSites (log2Op c f) s

/-- RCP. -/
def rcpOp (c : Nat) (f : VR) (s : State) : State :=
  vOp c true 0x62 (sfuCauses c f) (sfuBody c f 0x62 8 rcpNum) s
def execRcp (c : Nat) (f : VR) (s : State) : Host.Outcome State Fault Refusal := onUnit c nSites (rcpOp c f) s

/-- RSQRT. -/
def rsqrtOp (c : Nat) (f : VR) (s : State) : State :=
  vOp c true 0x63 (sfuCauses c f) (sfuBody c f 0x63 8 rsqrtNum) s
def execRsqrt (c : Nat) (f : VR) (s : State) : Host.Outcome State Fault Refusal := onUnit c nSites (rsqrtOp c f) s

/-- TANH. -/
def tanhOp (c : Nat) (f : VR) (s : State) : State :=
  vOp c true 0x64 (sfuCauses c f) (sfuBody c f 0x64 10 tanhNum) s
def execTanh (c : Nat) (f : VR) (s : State) : Host.Outcome State Fault Refusal := onUnit c nSites (tanhOp c f) s

/-- SMXA. -/
def smxaOp (c : Nat) (f : VR) (s : State) : State :=
  vOp c true 0x68 (smxCauses c f f.d false) (smxaAt c f) s
def execSmxa (c : Nat) (f : VR) (s : State) : Host.Outcome State Fault Refusal := onUnit c nSites (smxaOp c f) s

/-- SMXN. -/
def smxnOp (c : Nat) (f : VR) (s : State) : State :=
  vOp c true 0x69 (smxCauses c f f.b true) (smxnAt c f) s
def execSmxn (c : Nat) (f : VR) (s : State) : Host.Outcome State Fault Refusal := onUnit c nSites (smxnOp c f) s

end Sys2Proof.Machine
end

