-- ==== Sys2Proof/Machine/Slots.lean ====
section
/-! DEFINITION. The slots of a syllable (R165) decoded to the commands that perform them: the S slot and the second scalar
pipeline (R188–R190), the M slots (R238–R240), the V slots (R326–R328), the X slots (R382) and the C slot (R494, R495). A
decoder answers none for an opcode that is absent or a reserved field that is not zero. -/

namespace Sys2Proof.Machine

/-- A field of a slot as a bit vector. -/
def sl {w : Nat} (x : BitVec w) (lo len : Nat) : BitVec len := BitVec.ofNat len (fld x lo len)

/-- A field is zero. -/
def z {w : Nat} (x : BitVec w) (lo len : Nat) : Bool := decide (fld x lo len = 0)

/-- An instruction if its reserved fields are zero. -/
def whenZ (ok : Bool) (i : Instr) : Option Instr := if ok then some i else none

/-- The arithmetic opcodes of R189, which both pipelines accept. -/
def decodeScalar (c : Nat) (q : Pipe) (w : BitVec 32) : Option Instr :=
  let d : BitVec 8 := sl w 16 8
  let a : BitVec 8 := sl w 8 8
  let b : BitVec 8 := sl w 0 8
  let pd : BitVec 4 := sl w 20 4
  match fld w 24 8 with
  | 0x00 => whenZ (z w 0 24) (.sNop c q)
  | 0x20 => some (.add c q d a b)
  | 0x21 => some (.sub c q d a b)
  | 0x22 => some (.and c q d a b)
  | 0x23 => some (.or c q d a b)
  | 0x24 => some (.xor c q d a b)
  | 0x25 => some (.shl c q d a b)
  | 0x26 => some (.shr c q d a b)
  | 0x27 => some (.sra c q d a b)
  | 0x28 => some (.mul c q d a b)
  | 0x29 => some (.min c q d a b)
  | 0x2A => some (.max c q d a b)
  | 0x2B => some (.minu c q d a b)
  | 0x2C => some (.maxu c q d a b)
  | 0x30 => some (.addi c q d a b)
  | 0x31 => some (.lis c q d (sl w 0 16))
  | 0x32 => some (.lih c q d (sl w 0 16))
  | 0x33 => whenZ (z w 6 2) (.shli c q d a (sl w 0 6))
  | 0x34 => whenZ (z w 6 2) (.shri c q d a (sl w 0 6))
  | 0x38 => whenZ (z w 16 4) (.cmpeq c q pd a b)
  | 0x39 => whenZ (z w 16 4) (.cmplt c q pd a b)
  | 0x3A => whenZ (z w 16 4) (.cmpltu c q pd a b)
  | 0x3C => whenZ (z w 16 4 && z w 0 8) (.pand c q pd (sl w 12 4) (sl w 8 4))
  | 0x3D => whenZ (z w 16 4 && z w 0 8) (.por c q pd (sl w 12 4) (sl w 8 4))
  | 0x3E => whenZ (z w 16 4 && z w 0 8) (.pxor c q pd (sl w 12 4) (sl w 8 4))
  | 0x40 => some (.ld c q d a b)
  | 0x41 => some (.st c q d a b)
  | 0x48 => whenZ (z w 8 8) (.mfs c q d b)
  | 0x49 => whenZ (z w 0 8) (.movx c q d a)
  | _ => none

/-- The S slot (R189). -/
def decodeS (c : Nat) (w : BitVec 32) : Option Instr :=
  match fld w 24 8 with
  | 0x01 => whenZ (z w 0 24) (.solEnd c)
  | 0x04 => whenZ (z w 12 7) (.br c (sl w 20 4) (bit w 19) (sl w 0 12))
  | 0x08 => some (.loopi c (sl w 12 12) (sl w 0 12))
  | 0x09 => whenZ (z w 8 4) (.loopr c (sl w 12 12) (sl w 0 8))
  | 0x0C => whenZ (z w 7 12) (.guard c (sl w 20 4) (bit w 19) (sl w 0 7))
  | 0x10 => whenZ (z w 21 3) (.wait c (sl w 16 5) (sl w 0 16))
  | 0x11 => whenZ (z w 21 3 && z w 8 8) (.waitr c (sl w 16 5) (sl w 0 8))
  | 0x12 => some (.waitl c (sl w 20 4) (sl w 15 5) (sl w 8 7) (sl w 0 8))
  | 0x13 => whenZ (z w 0 8) (.tests c (sl w 20 4) (sl w 15 5) (sl w 8 7))
  | _ => decodeScalar c .p0 w

/-- An M slot (R239, R240). -/
def decodeM (c : Nat) (m : Bool) (w : BitVec 40) : Option Instr :=
  match fld w 34 6 with
  | 0x00 => whenZ (z w 0 34) (.mNop c m)
  | 0x01 => whenZ (z w 0 13) (.mode c m (sl w 30 4) (sl w 26 4) (sl w 23 3) (bit w 22) (bit w 21) (bit w 20) (sl w 15 5) (sl w 13 2))
  | 0x02 => whenZ (z w 0 23) (.seta c m (sl w 31 3) (sl w 23 8))
  | 0x03 => whenZ (z w 22 9) (.setai c m (sl w 31 3) (sl w 0 22))
  | 0x04 => whenZ (z w 0 26) (.setcnt c m (sl w 26 8))
  | 0x08 => whenZ (z w 0 31) (.mLd c m (sl w 31 3))
  | 0x10 => whenZ (z w 12 9) (.stream c m (bit w 33) (bit w 32) (bit w 31) (bit w 30) (sl w 27 3) (sl w 24 3) (sl w 21 3) (sl w 0 12))
  | _ => none

/-- The VR format (R327). -/
def vrOf (w : BitVec 40) : VR :=
  { d := sl w 27 5, a := sl w 22 5, b := sl w 17 5, c := sl w 12 5, m := sl w 9 3, mz := bit w 8, t := sl w 5 3, md := sl w 0 5 }

/-- The VM format (R327). -/
def vmOf (w : BitVec 40) : VM :=
  { r := sl w 27 5, ar := sl w 24 3, mode := sl w 22 2, b := sl w 17 5, m := sl w 9 3, mz := bit w 8, t := sl w 5 3, post := bit w 4 }

/-- Slot V0 (R328). -/
def decodeV0 (c : Nat) (w : BitVec 40) : Option Instr :=
  let f := vrOf w
  match fld w 32 8 with
  | 0x00 => whenZ (z w 0 32) (.vNop c false)
  | 0x01 => some (.vadd c f)
  | 0x02 => some (.vsub c f)
  | 0x03 => some (.vmul c f)
  | 0x04 => some (.vfma c f)
  | 0x05 => some (.vfms c f)
  | 0x06 => some (.vfnma c f)
  | 0x07 => some (.vmin c f)
  | 0x08 => some (.vmax c f)
  | 0x09 => some (.vabs c f)
  | 0x0A => some (.vneg c f)
  | 0x0B => some (.vrint c f)
  | 0x10 => some (.vcmp c f)
  | 0x11 => some (.vsel c f)
  | 0x12 => some (.vmov c f)
  | 0x18 => some (.vand c f)
  | 0x19 => some (.vor c f)
  | 0x1A => some (.vxor c f)
  | 0x1B => some (.vshl c f)
  | 0x1C => some (.vshr c f)
  | 0x1D => some (.vsra c f)
  | 0x20 => some (.vcvt c f)
  | 0x21 => some (.vunpk c f)
  | 0x28 => some (.mand c f)
  | 0x29 => some (.mor c f)
  | 0x2A => some (.mxor c f)
  | 0x2B => some (.mandn c f)
  | 0x30 => whenZ (z w 24 3 && z w 0 5) (.vlis c (sl w 27 5) (sl w 8 16) (sl w 5 3))
  | _ => none

/-- Slot V1 (R328). -/
def decodeV1 (c : Nat) (w : BitVec 40) : Option Instr :=
  let f := vrOf w
  match fld w 32 8 with
  | 0x00 => whenZ (z w 0 32) (.vNop c true)
  | 0x40 => whenZ (z w 12 5 && z w 0 4) (.vld c (vmOf w))
  | 0x41 => whenZ (z w 12 5 && z w 0 4) (.vst c (vmOf w))
  | 0x42 => whenZ (z w 0 21) (.vseta c (sl w 29 3) (sl w 21 8))
  | 0x43 => whenZ (z w 22 7) (.vsetai c (sl w 29 3) (sl w 0 22))
  | 0x44 => whenZ (z w 8 11 && z w 0 5) (.vbcs c (sl w 27 5) (sl w 19 8) (sl w 5 3))
  | 0x48 => some (.vred c f)
  | 0x50 => some (.vcmpr c f)
  | 0x51 => some (.vexpd c f)
  | 0x52 => some (.mcnt c f)
  | 0x53 => some (.vflags c f)
  | 0x60 => some (.exp2 c f)
  | 0x61 => some (.log2 c f)
  | 0x62 => some (.rcp c f)
  | 0x63 => some (.rsqrt c f)
  | 0x64 => some (.tanh c f)
  | 0x68 => some (.smxa c f)
  | 0x69 => some (.smxn c f)
  | _ => none

/-- An X slot (R382). -/
def decodeX (c : Nat) (x : Bool) (w : BitVec 24) : Option Instr :=
  match fld w 19 5 with
  | 0x00 => whenZ (z w 0 19) (.xNop c x)
  | 0x01 => whenZ (z w 0 9) (.xseta c x (sl w 17 2) (sl w 9 8))
  | 0x02 => some (.xsetai c x (sl w 17 2) (sl w 0 17))
  | 0x04 => whenZ (z w 0 16) (.xq c x (sl w 17 2) (bit w 16))
  | 0x05 => whenZ (z w 0 12) (.xqn c x (sl w 17 2) (bit w 16) (sl w 12 4))
  | 0x08 => whenZ (z w 0 16) (.gq c x (sl w 17 2) (bit w 16))
  | _ => none

/-- The C slot (R494, R495). -/
def decodeC (c : Nat) (w : BitVec 16) : Option Instr :=
  match fld w 12 4 with
  | 0x0 => whenZ (z w 0 12) (.cNop c)
  | 0x1 => whenZ (z w 8 4) (.arr c ⟨sl w 0 8, false⟩)
  | 0x2 => whenZ (z w 8 4) (.waitb c (sl w 0 8))
  | 0x3 => whenZ (z w 8 4) (.arwt c ⟨sl w 0 8, false⟩)
  | 0x4 => some (.testb c (sl w 8 4) (sl w 0 8))
  | 0x8 => whenZ (z w 5 7) (.raise c (sl w 0 5))
  | _ => none

/-! ### Operations by command -/

/-- A scalar operation at stepped index `i` of its core: what the S slot or the second pipeline performs. -/
def scalarDo (op : Instr) (i : Nat) (s : State) : State :=
  match op with
  | .add c q d a b => addAt c q d a b i s
  | .sub c q d a b => subAt c q d a b i s
  | .and c q d a b => andAt c q d a b i s
  | .or c q d a b => orAt c q d a b i s
  | .xor c q d a b => xorAt c q d a b i s
  | .shl c q d a b => shlAt c q d a b i s
  | .shr c q d a b => shrAt c q d a b i s
  | .sra c q d a b => sraAt c q d a b i s
  | .mul c q d a b => mulAt c q d a b i s
  | .min c q d a b => minAt c q d a b i s
  | .max c q d a b => maxAt c q d a b i s
  | .minu c q d a b => minuAt c q d a b i s
  | .maxu c q d a b => maxuAt c q d a b i s
  | .addi c q d a imm => addiAt c q d a imm i s
  | .lis c q d imm => lisAt c q d imm i s
  | .lih c q d imm => lihAt c q d imm i s
  | .shli c q d a imm => shliAt c q d a imm i s
  | .shri c q d a imm => shriAt c q d a imm i s
  | .cmpeq c q pd a b => cmpeqAt c q pd a b i s
  | .cmplt c q pd a b => cmpltAt c q pd a b i s
  | .cmpltu c q pd a b => cmpltuAt c q pd a b i s
  | .pand c q pd pa pb => pandAt c q pd pa pb i s
  | .por c q pd pa pb => porAt c q pd pa pb i s
  | .pxor c q pd pa pb => pxorAt c q pd pa pb i s
  | .ld c q d a imm => ldAt c q d a imm i s
  | .st c q d a imm => stAt c q d a imm i s
  | .mfs c q d index => mfsAt c q d index i s
  | .movx c q d a => movxAt c q d a i s
  | .wait c sig count => waitAt c sig count i s
  | .waitr c sig a => waitrAt c sig a i s
  | .waitl c pd sig count a => waitlAt c pd sig count a i s
  | .tests c pd sig count => testsAt c pd sig count i s
  | _ => s

/-- An X-slot operation at stepped index `i`. -/
def xDo (op : Instr) (i : Nat) (s : State) : State :=
  match op with
  | .xseta c x ar sreg => xsetaAt c x ar sreg i s
  | .xsetai c x ar off => xsetaiAt c x ar off i s
  | .xq c x ar post => xqAt c x ar post 1 (.xq c x ar post) i s
  | .xqn c x ar post n1 => xqAt c x ar post (n1.toNat + 1) (.xqn c x ar post n1) i s
  | .gq c x ar post => gqAt c x ar post i s
  | _ => s

/-- An M-slot operation. -/
def mDo (op : Instr) (s : State) : State :=
  match op with
  | .mode c m ifmt wfmt ofmt rnd split drain mfsh mfop => mOp c m (fun _ => modeAt c m (modeWord ifmt wfmt ofmt rnd split drain mfsh mfop)) s
  | .seta c m ar sreg => mOp c m (setaAt c m ar sreg) s
  | .setai c m ar off => mOp c m (fun _ => setaiAt c m ar off) s
  | .setcnt c m sreg => mOp c m (setcntAt c m sreg) s
  | .mLd c m wgt => mOp c m (mLdAt c m wgt) s
  | .stream c m sw ld acc ckr src dst wgt count => mOp c m (streamAt c m sw ld acc ckr src.toNat dst.toNat wgt.toNat count) s
  | _ => s

/-- A V-slot operation. -/
def vDo (op : Instr) (s : State) : State :=
  match op with
  | .vadd c f => vaddOp c f s
  | .vsub c f => vsubOp c f s
  | .vmul c f => vmulOp c f s
  | .vfma c f => vfmaOp c f s
  | .vfms c f => vfmsOp c f s
  | .vfnma c f => vfnmaOp c f s
  | .vmin c f => vminOp c f s
  | .vmax c f => vmaxOp c f s
  | .vabs c f => vabsOp c f s
  | .vneg c f => vnegOp c f s
  | .vrint c f => vrintOp c f s
  | .vcmp c f => vcmpOp c f s
  | .vsel c f => vselOp c f s
  | .vmov c f => vmovOp c f s
  | .vand c f => vandOp c f s
  | .vor c f => vorOp c f s
  | .vxor c f => vxorOp c f s
  | .vshl c f => vshlOp c f s
  | .vshr c f => vshrOp c f s
  | .vsra c f => vsraOp c f s
  | .vcvt c f => vcvtOp c f s
  | .vunpk c f => vunpkOp c f s
  | .mand c f => mandOp c f s
  | .mor c f => morOp c f s
  | .mxor c f => mxorOp c f s
  | .mandn c f => mandnOp c f s
  | .vred c f => vredOp c f s
  | .vcmpr c f => vcmprOp c f s
  | .vexpd c f => vexpdOp c f s
  | .mcnt c f => mcntOp c f s
  | .vflags c f => vflagsOp c f s
  | .exp2 c f => exp2Op c f s
  | .log2 c f => log2Op c f s
  | .rcp c f => rcpOp c f s
  | .rsqrt c f => rsqrtOp c f s
  | .tanh c f => tanhOp c f s
  | .smxa c f => smxaOp c f s
  | .smxn c f => smxnOp c f s
  | .vlis c d imm t => vlisOp c d imm t s
  | .vld c f => vldOp c f s
  | .vst c f => vstOp c f s
  | .vseta c ar sreg => vsetaOp c ar sreg s
  | .vsetai c ar off => vsetaiOp c ar off s
  | .vbcs c d sreg t => vbcsOp c d sreg t s
  | _ => s

end Sys2Proof.Machine
end

