-- ==== Sys2Proof/Machine/Stream.lean ====
section
/-! DEFINITION. The chip stream (R165–R226): the C slot, the syllable of every core issued in lockstep, stream faults,
branches and loops, freeze, and the end of a core's work in a Sol. -/

namespace Sys2Proof.Machine

/-! ### The C slot (R494–R498) -/

/-- A barrier operation of a core that belongs to an active partition: partition and logical core. A barrier that is not
enabled or belongs to another partition discards it, and the partition records BARRIER (R467). -/
def barOp (c b : Nat) (f : Nat → Nat → State → State) (s : State) : State :=
  match ptnOfSite s c, logicalAt s c with
  | some p, some n => if barNamed s p b then f p n s else ptnFault p PC.barrier s
  | _, _ => s

/-- ARR (R470, R496). -/
def arrOpAt (c : Nat) (bar : BitVec 8) (bad : Bool) (_i : Nat) (s : State) : State := barOp c bar.toNat (fun p n => coreArrive p n bar.toNat bad) s

/-- WAITB (R477, R496). -/
def waitbAt (c : Nat) (bar : BitVec 8) (i : Nat) (s : State) : State :=
  barOp c bar.toNat (fun _ n s => if barPasses s n bar.toNat then s else holdOp c 0 i (.waitb c bar) s) s

/-- ARWT: it arrives, then waits as WAITB. -/
def arwtAt (c : Nat) (bar : BitVec 8) (bad : Bool) (i : Nat) (s : State) : State :=
  barOp c bar.toNat (fun p n s => waitbAt c bar i (coreArrive p n bar.toNat bad s)) s

/-- TESTB (R497): visible to every reader from syllable i + 3. -/
def testbAt (c : Nat) (pd : BitVec 4) (bar : BitVec 8) (i : Nat) (s : State) : State :=
  barOp c bar.toNat (fun _ n s => updCore c (fun x => wrOther x 2 pd.toNat i 3 (if barPasses s n bar.toNat then 1 else 0)) s) s

/-- RAISE (R379, R498). -/
def raiseAt (c : Nat) (sig : BitVec 5) (_i : Nat) (s : State) : State := raiseSig c sig.toNat 1 s

/-- A C-slot operation reaches Calends: squashed by GUARD, held behind a held one, or performed (R200, R217). An arrival waits for
nothing: ARR and the arrival of ARWT are made at issue, and only the wait of an ARWT is held (R477). -/
def cOp (c : Nat) (op : Instr) (f : Nat → State → State) (s : State) : State :=
  let x := coreAt s c
  if squashed x 0 then s
  else if unitHolds x 0 then
    match op with
    | .arr _ ⟨bar, bad⟩ => arrOpAt c bar bad x.steps s
    | .arwt _ ⟨bar, bad⟩ => barOp c bar.toNat (fun p n s => holdOp c 0 x.steps (.waitb c bar) (coreArrive p n bar.toNat bad s)) s
    | _ => holdOp c 0 x.steps op s
  else f x.steps s

/-- A C-slot operation at stepped index `i`. -/
def cDo (op : Instr) (i : Nat) (s : State) : State :=
  match op with
  | .arr c ⟨bar, bad⟩ => arrOpAt c bar bad i s
  | .waitb c bar => waitbAt c bar i s
  | .arwt c ⟨bar, bad⟩ => arwtAt c bar bad i s
  | .testb c pd bar => testbAt c pd bar i s
  | .raise c sig => raiseAt c sig i s
  | _ => s

/-! ### Stream faults (R224, R225) -/

/-- The slots of a syllable (R165). -/
structure Slots where
  m0 : BitVec 40
  m1 : BitVec 40
  v0 : BitVec 40
  v1 : BitVec 40
  s : BitVec 32
  x0 : BitVec 24
  x1 : BitVec 24
  c : BitVec 16
deriving DecidableEq, Repr

/-- The syllable cut into its slots. -/
def slotsOf (w : Syllable) : Slots :=
  { m0 := sl w 216 40, m1 := sl w 176 40, v0 := sl w 136 40, v1 := sl w 96 40, s := sl w 64 32, x0 := sl w 40 24,
    x1 := sl w 16 24, c := sl w 0 16 }

/-- The slots that the syllable's own GUARD squashes (R200). -/
def guardMask (x : Core) (op : Option Instr) (i : Nat) : BitVec 7 :=
  match op with
  | some (.guard _ p neg slots) => if seqCond x p neg i then 0 else slots
  | _ => 0

/-- A MFS or MOVX that is ILLEGAL on this core (R208, R211). -/
def scalarIllegal (s : State) (c i : Nat) (op : Instr) : Bool :=
  match op with
  | .mfs _ _ _ index => (mfsValue s c i index.toNat).isNone
  | .movx _ _ _ _ => runsAs s c ≠ some 2
  | _ => false

/-- A sequencer operation that a delay syllable may not hold (R199). -/
def delayBad (op : Instr) : Bool :=
  match op with
  | .br _ _ _ _ | .loopi _ _ _ | .loopr _ _ _ | .solEnd _ => true
  | _ => false

/-- A BR that is taken in the END syllable of an open loop (R199). -/
def brAtEnd (x : Core) (i : Nat) (op : Instr) : Bool :=
  match op with
  | .br _ p neg _ => seqCond x p neg i && atEnd x
  | _ => false

/-- ILLEGAL (R167, R190, R199, R208, R211, R495). -/
def sylIllegal (s : State) (c : Nat) (k : Slots) (i : Nat) : Bool :=
  let x := coreAt s c
  let kind := (runsAs s c).getD 3
  let op := decodeS c k.s
  let pipe1 := decide (kind = 2) && !bit (guardMask x op i) 4
  (decide (kind ≠ 0) && (decide (k.m0 ≠ 0) || decide (k.m1 ≠ 0))) ||
  (decide (kind = 2) && (decide (fld k.v0 32 8 ≠ 0) || decide (k.v1 ≠ 0))) ||
  op.isNone || (!bit (guardMask x op i) 0 && (decodeC c k.c).isNone) || op.any (scalarIllegal s c i) ||
  (pipe1 && (match decodeScalar c .p1 (sl k.v0 0 32) with | none => true | some o => scalarIllegal s c i o)) ||
  (x.branch.isSome && (atEnd x || op.any delayBad)) || op.any (brAtEnd x i)

/-- LOOP (R203). -/
def sylLoopBad (s : State) (c : Nat) (k : Slots) (i : Nat) : Bool :=
  let x := coreAt s c
  let bad := fun (stop n : Nat) => decide (stop ≤ x.pos) || x.loops.head?.any (fun l => decide (l.stop < stop)) || (decide (n ≠ 0) && decide (4 ≤ x.loops.length))
  match decodeS c k.s with
  | some (.loopi _ stop count) => bad stop.toNat count.toNat
  | some (.loopr _ stop a) => bad stop.toNat ((rdReg x .other 0 a.toNat i).toNat % 2 ^ 32)
  | _ => false

/-- SCRATCH of one scalar operation (R191). -/
def scratchBad (s : State) (c i : Nat) (op : Instr) : Bool :=
  match op with
  | .ld _ q _ a imm | .st _ q _ a imm => !ldstOk s c (ldstAddr (coreAt s c) q a imm i)
  | _ => false

/-- An operation that waits for a signal. -/
def isWait (op : Instr) : Bool := match op with | .wait _ _ _ | .waitr _ _ _ | .waitl _ _ _ _ _ => true | _ => false

/-- The state in which a core's pipeline 0 has performed what it holds, used only to form the address of a further LD or ST: no wait
writes a register, and no load that is held can reach an address within the skid (R192, R217). -/
def scalarCopy (c : Nat) (s : State) : State :=
  foldS (fun h s => if isWait h.2.2 then s else scalarDo h.2.2 h.2.1 s) ((coreAt s c).holds.filter (fun h => h.1 = 7)) s

/-- SCRATCH of a syllable, checked at issue, an access that pipeline 0 must hold included (R225). -/
def sylScratchBad (s : State) (c : Nat) (k : Slots) (i : Nat) : Bool :=
  let x := coreAt s c
  let op := decodeS c k.s
  op.any (scratchBad (if unitHolds x 7 then scalarCopy c s else s) c i) ||
  (decide (runsAs s c = some 2) && !bit (guardMask x op i) 4 && (decodeScalar c .p1 (sl k.v0 0 32)).any (scratchBad s c i))

/-- The syllable at the stream position may be issued: resident, or an overlay syllable whose valid bit is set (R181). -/
def fetchOk (x : Core) : Bool := decide (x.pos < x.res) || x.valid.contains x.pos

/-- The stream fault of a syllable, as COR_ERR.FAULT codes it. DESIGN CHOICE, where R203 and R224 give no priority among the conditions that
one syllable meets: one fault is recorded, the first in the order FETCH, ILLEGAL, LOOP, SCRATCH. -/
def sylFault (s : State) (c : Nat) (k : Slots) (i : Nat) : Option Nat :=
  if !fetchOk (coreAt s c) then some 3
  else if sylIllegal s c k i then some 1
  else if sylLoopBad s c k i then some 2
  else if sylScratchBad s c k i then some 4
  else none

/-! ### The next position (R197–R202) -/

/-- Levels whose END is `p` count down; those that reach zero close (R202). Answers the START to go on at. -/
def loopEnd (p : Nat) : List Loop → List Loop × Option Nat
  | [] => ([], none)
  | l :: t => if l.stop = p then (if l.count ≤ 1 then loopEnd p t else ({ l with count := l.count - 1 } :: t, some l.start)) else (l :: t, none)

/-- The position after a syllable that is no delay syllable, no taken branch and opened no loop. -/
def afterPlain (x : Core) : Core :=
  let (ls, go) := loopEnd x.pos x.loops
  { x with loops := ls, pos := go.getD ((x.pos + 1) % 4096) }

/-- The position after a delay syllable, of which `n` were left (R197, R198). -/
def afterDelay (x : Core) (n target : Nat) : Core :=
  if 2 ≤ n then { x with pos := (x.pos + 1) % 4096, branch := some (n - 1, target) }
  else { x with pos := target, branch := none, loops := x.loops.filter (fun l => decide (l.start ≤ target) && decide (target ≤ l.stop)) }

/-- The position after the syllable just issued; `was`: the branch under way before it, `jumped`: it held a LOOPI or
LOOPR, which set the position. -/
def advance (was : Option (Nat × Nat)) (jumped : Bool) (x : Core) : Core :=
  match was with
  | some (n, t) => afterDelay x n t
  | none =>
    if jumped then x
    else if x.branch.isSome then { x with pos := (x.pos + 1) % 4096 }
    else afterPlain x

/-! ### One core's cycle -/

/-- SOL_END issues (R213); a combiner of the core that is open discards its tile, and that array records MODE (R314). -/
def solEndIssue (c i : Nat) (s : State) : State :=
  let s := solEndAt c i s
  foldS (fun m s => if (arrAt s c m).open_ then mCause c m (2 ^ 12) (combClose c m s) else s) [false, true] s

/-- A sequencer operation that takes effect after the other slots of its syllable have been performed: the position they see is their own. -/
def isLate (op : Instr) : Bool := match op with | .loopi _ _ _ | .loopr _ _ _ | .solEnd _ => true | _ => false

/-- A sequencer operation. -/
def seqDo (op : Instr) (i : Nat) (s : State) : State :=
  match op with
  | .br c p neg target => brAt c p neg target i s
  | .loopi c stop count => loopiAt c stop count i s
  | .loopr c stop a => looprAt c stop a i s
  | .guard c p neg slots => guardAt c p neg slots i s
  | .solEnd c => solEndIssue c i s
  | _ => s

/-- The operation belongs to the sequencer. -/
def isSeq (op : Instr) : Bool :=
  match op with
  | .br _ _ _ _ | .loopi _ _ _ | .loopr _ _ _ | .guard _ _ _ _ | .solEnd _ => true
  | _ => false

/-- The S slot performed: the sequencer never waits, pipeline 0 holds behind what it holds (R217). -/
def sSlot (c : Nat) (op : Instr) (s : State) : State :=
  if isSeq op then seqDo op (coreAt s c).steps s else scalarOp c .p0 op (scalarDo op) s

/-- Causes beside OPCODE of a V slot that does not decode, by the format of its opcode (R327, R330). -/
def vRestCauses (c : Nat) (w : BitVec 40) (s : State) : Nat :=
  match fld w 32 8 with
  | 0x40 => vmCauses c false (vmOf w) s
  | 0x41 => vmCauses c true (vmOf w) s
  | 0x42 => if (rdReg (coreAt s c) .other 0 (fld w 21 8) (coreAt s c).steps).toNat < 2 ^ 22 then 0 else 2 ^ 10
  | 0x43 => 0
  | 0x30 | 0x44 => causeBits false (!tOk s c allTypes (fld w 5 3))
  | _ => causeBits false (((decodeV0 c w).isSome || (decodeV1 c w).isSome) && decide (5 < fld w 5 3))

/-- An M, V or X slot performed, or its OPCODE cause (R244, R330, R383). DESIGN CHOICE: an M or X slot that does not decode records OPCODE
and nothing else. -/
def mSlot (c : Nat) (m : Bool) (w : BitVec 40) (s : State) : State :=
  match decodeM c m w with
  | some op => mDo op s
  | none => mOp c m (fun _ s => mCause c m (2 ^ 8) s) s
def vSlot (c : Nat) (v1 : Bool) (w : BitVec 40) (s : State) : State :=
  match (if v1 then decodeV1 c w else decodeV0 c w) with
  | some op => vDo op s
  | none => vOp c v1 (fld w 32 8) (fun s => 2 ^ 8 ||| vRestCauses c w s) (fun _ s => s) s
def xSlot (c : Nat) (x : Bool) (w : BitVec 24) (s : State) : State :=
  match decodeX c x w with
  | some (.xNop _ _) => xOp c x (.xNop c x) (fun _ s => s) s
  | some op => xOp c x op (xDo op) s
  | none => if squashed (coreAt s c) (xUnit x) then s else xOn c (Pg.mov c) (movCause c 8) s

/-- Every slot of a syllable but C performed: the M slots before the V slots, whose loads see the drains that an array's hold brings
forward; LOOPI, LOOPR and SOL_END last. -/
def performSlots (c : Nat) (k : Slots) (s : State) : State :=
  let kind := (runsAs s c).getD 3
  let op := decodeS c k.s
  let s := op.elim s (fun op => if isLate op then s else sSlot c op s)
  let s := if kind = 0 then mSlot c true k.m1 (mSlot c false k.m0 s) else s
  let s :=
    if kind = 2 then (decodeScalar c .p1 (sl k.v0 0 32)).elim s (fun op => scalarOp c .p1 op (scalarDo op) s)
    else vSlot c true k.v1 (vSlot c false k.v0 s)
  let s := xSlot c true k.x1 (xSlot c false k.x0 s)
  op.elim s (fun op => if isLate op then sSlot c op s else s)

/-- An arrival with what becomes of its message (R459). -/
def withParity (bad : Bool) (op : Instr) : Instr :=
  match op with
  | .arr c a => .arr c { a with parityBad := bad }
  | .arwt c a => .arwt c { a with parityBad := bad }
  | _ => op

/-- The C slot performed. A RAISE of it is captured a cc later (R498), when the core is at its next position. `bad`: its arrival's message
meets a parity error. -/
def performC (c : Nat) (bad : Bool) (k : Slots) (s : State) : State :=
  match (decodeC c k.c).map (withParity bad) with
  | some (.cNop _) => cOp c (.cNop c) (fun _ s => s) s
  | some op => cOp c op (cDo op) s
  | none => s

/-- Results that are due at the core's stepped index go into its files and scratchpad; what a held operation may still
read as it was stays pending. -/
def settleCore (c : Nat) (s : State) : State :=
  let x := coreAt s c
  let i := x.holds.foldl (fun m h => Nat.min m h.2.1) x.steps
  vecSettle c x.steps (updCore c (settle i) s)

/-- What the arrays and the X slots of a core do in stepped cycle `t`. -/
def unitCycle (c t : Nat) (s : State) : State :=
  xStep c t (foldS (fun m s => arrCycle c m (arrTime (arrAt s c m) t) t s) [false, true] s)

/-- The end of a stepped cycle, in which bank claims are decided (R371), and the next one. -/
def stepCore (c : Nat) (s : State) : State :=
  let t := (coreAt s c).steps
  unitCycle c (t + 1) (settleCore c (updCore c (fun x => { x with steps := t + 1, squash := 0 }) (bankStep c t s)))

/-- One core issues the syllable at its position. `bad`: the sites whose arrival of this cycle meets a parity error. -/
def issueCore (bad : List Nat) (c : Nat) (s : State) : State :=
  let x := coreAt s c
  if x.parked then s
  else if x.ended then stepCore c s
  else
    let k := slotsOf (Tab.get 0 x.script x.pos)
    match sylFault s c k x.steps with
    | some code => stepCore c (updCore c (advance x.branch false) (coreFault c code s))
    | none =>
      let jumped := match decodeS c k.s with | some (.loopi _ _ _) => true | some (.loopr _ _ _) => true | _ => false
      stepCore c (performC c (bad.contains c) k (updCore c (advance x.branch jumped) (performSlots c k s)))

/-- SYLLABLE_ISSUE: a stepped cycle of a partition (R215), which issues while freeze has not stopped it (R217, R218). -/
def issueOp (p : Nat) (bad : List Nat) (s : State) : State :=
  let y := ptnAt s p
  if y.phase = .sol ∧ s.pwr.pllsOff = false ∧ y.skid ≠ some 2 ∧ y.domain.any (fun c => !(coreAt s c).parked) then
    let s := foldS (issueCore bad) y.domain s
    match y.skid with
    | some n => updPtn p (fun z => { z with skid := z.skid.map (fun _ => n + 1) }) s
    | none => s
  else s

/-! ### Freeze lowers (R218–R220) -/

/-- A held operation performed at its own stepped index. -/
def heldDo (u i : Nat) (op : Instr) (s : State) : State :=
  if u = 7 ∨ u = 4 then scalarDo op i s else if u = 0 then cDo op i s else xDo op i s

/-- Unit `u` of a core can perform every operation it holds. -/
def unitCan (s : State) (c u : Nat) : Bool :=
  let hs := (coreAt s c).holds.filter (fun h => h.1 = u)
  let s0 := updCore c (fun x => { x with holds := [] }) s
  !(unitHolds (coreAt (foldS (fun h s => if unitHolds (coreAt s c) u then s else heldDo u h.2.1 h.2.2 s) hs s0) c) u)

/-- The held operations of one core for one stepped index, unit by unit; with `inOrder`, an operation behind one that blocks again is held
again (R220). -/
def heldCycle (inOrder : Bool) (hs : List (Nat × Nat × Instr)) (i c : Nat) (s : State) : State :=
  foldS (fun u s =>
    foldS (fun (h : Nat × Nat × Instr) s => if inOrder && unitHolds (coreAt s c) u then holdQuiet c u i h.2.2 s else heldDo u i h.2.2 s)
      (hs.filter (fun h => h.1 = u ∧ h.2.1 = i)) s) [7, 4, 2, 1, 0] s

/-- What the units of a partition hold is performed, in issue order, with the descriptor reads that follow from it (R219). -/
def heldPass (inOrder : Bool) (p : Nat) (s : State) : State :=
  let held := ((ptnAt s p).domain.map (fun c => (c, (coreAt s c).holds))).filter (fun e => !e.2.isEmpty)
  let idx := held.flatMap (fun e => e.2.map (fun h => h.2.1))
  let lo := idx.foldl Nat.min ((idx.head?).getD 0)
  let hi := (held.map (fun e => (coreAt s e.1).steps)).foldl Nat.max lo
  let s := foldS (fun (e : Nat × List (Nat × Nat × Instr)) => updCore e.1 (fun x => { x with holds := [] })) held s
  foldS (fun k s => foldS (fun (e : Nat × List (Nat × Nat × Instr)) s => xStep e.1 (lo + k + 1) (heldCycle inOrder e.2 (lo + k) e.1 s)) held s)
    (List.range (hi - lo)) s

/-- FREEZE_LOWER: where every unit can perform what it holds, all of it is performed and issue resumes; until then nothing that is held
takes effect (R218, R219). A unit that blocks again keeps the freeze raised (R220). -/
def lowerOp (p : Nat) (s : State) : State :=
  let cs := (ptnAt s p).domain
  if (ptnAt s p).phase = .sol ∧ (ptnAt s p).skid.isSome ∧ cs.all (fun c => [7, 4, 2, 1, 0].all (unitCan s c)) then
    let s := heldPass true p (foldS (fun c => updCore c (fun x => { x with denied := 0 })) cs s)
    if cs.all (fun c => (coreAt s c).holds.isEmpty) then trace 1 Pg.nets (foldS settleCore cs (unfreeze p s)) else s
  else s

/-! ### The end of a core's work (R213, R214) -/

/-- Stepped cycles until the arrays and the X slots of a core have nothing under way. -/
def cyclesLeft (s : State) (c : Nat) : Nat :=
  let x := coreAt s c
  ([false, true].map (fun m => arrHorizon (arrAt s c m) - arrTime (arrAt s c m) x.steps) ++
    x.xrd.map (fun r => r.at_ + xBlocks r - x.steps)).foldl Nat.max 0

/-- Every result still on its way is written. -/
def drainCore (c : Nat) (s : State) : State :=
  let t := (coreAt s c).steps
  let far := 2 ^ 40
  vecSettle c far (updCore c (fun x => settle far { x with claims := [], denied := 0 }) (foldS (fun k => unitCycle c (t + 1 + k)) (List.range (cyclesLeft s c)) s))

/-- SOL_END_COMPLETE: nothing is held and every result is written: the core is parked. -/
def parkOp (c : Nat) (s : State) : State :=
  let x := coreAt s c
  if x.ended ∧ !x.parked ∧ x.holds = [] then drainCore c (setCore c { x with parked := true } s) else s

/-- SOL_END as a command of its own: the syllable that holds it has issued, so the position goes on past it (R213). -/
def solEndOp (c : Nat) (s : State) : State :=
  let x := coreAt s c
  if x.ended then s
  else if x.branch.isSome then solEndAt c x.steps s
  else updCore c (advance none false) (solEndIssue c x.steps s)

/-! ### The commands -/

/-- SYLLABLE_ISSUE. -/
def execSyllableIssue (cycle : IssueCycle) (s : State) : Host.Outcome State Fault Refusal := onUnit cycle.ptn nPtns (issueOp cycle.ptn cycle.parityBad) s

/-- FREEZE_LOWER. -/
def execFreezeLower (p : Nat) (s : State) : Host.Outcome State Fault Refusal := onUnit p nPtns (lowerOp p) s

/-- SOL_END. -/
def execSolEnd (c : Nat) (s : State) : Host.Outcome State Fault Refusal := onUnit c nSites (solEndOp c) s

/-- SOL_END_COMPLETE. -/
def execSolEndComplete (c : Nat) (s : State) : Host.Outcome State Fault Refusal := onUnit c nSites (parkOp c) s

/-- C-slot NOP. -/
def execCNop (c : Nat) (s : State) : Host.Outcome State Fault Refusal := onUnit c nSites (fun s => s) s

/-- ARR. -/
def execArr (c : Nat) (a : BarArrival) (s : State) : Host.Outcome State Fault Refusal :=
  onUnit c nSites (cOp c (.arr c a) (arrOpAt c a.bar a.parityBad)) s

/-- WAITB. -/
def execWaitb (c : Nat) (bar : BitVec 8) (s : State) : Host.Outcome State Fault Refusal := onUnit c nSites (cOp c (.waitb c bar) (waitbAt c bar)) s

/-- ARWT. -/
def execArwt (c : Nat) (a : BarArrival) (s : State) : Host.Outcome State Fault Refusal :=
  onUnit c nSites (cOp c (.arwt c a) (arwtAt c a.bar a.parityBad)) s

/-- TESTB. -/
def execTestb (c : Nat) (pd : BitVec 4) (bar : BitVec 8) (s : State) : Host.Outcome State Fault Refusal :=
  onUnit c nSites (cOp c (.testb c pd bar) (testbAt c pd bar)) s

/-- RAISE. -/
def execRaise (c : Nat) (sig : BitVec 5) (s : State) : Host.Outcome State Fault Refusal := onUnit c nSites (cOp c (.raise c sig) (raiseAt c sig)) s

end Sys2Proof.Machine
end

