-- ==== Sys2Proof/Machine/Power.lean ====
section
/-! DEFINITION. Rails, clocks, the governor, temperature and telemetry (R760–R787), what a reset leaves (R693, R764), and the
Annals' own commands (R791–R802). -/

namespace Sys2Proof.Machine

/-! ### Reset -/

/-- Registers of the ANN page that a reset leaves where the buffer survives (R798). -/
def annKeptRegs : List Nat :=
  [R.ANN_ALARMS, R.ANN_MSGS, R.ANN_COALESCED, R.ANN_OTHER, R.ANN_RING_OVER, R.ANN_LOG_DROPS, R.ANN_TRACE_DROPS, R.ANN_INCIDENT,
   R.ANN_INC_TIME_LO, R.ANN_INC_TIME_HI, R.ANN_ALARM_HEAD, R.ANN_LOG_HEAD, R.ANN_TRACE_HEAD, R.ANN_TRACE_TAIL]

/-- The incident closes (R791, R794): the frozen area is held, entries that have been sent are freed. -/
def incidentShut (s : State) : State :=
  if annOpen s then
    let s := setF Pg.ann R.ANN_STATUS 30 1 1 (setF Pg.ann R.ANN_STATUS 31 1 0 s)
    { s with ann := { s.ann with keys := [], coal := s.ann.coal.filter (fun e => e.count ≠ 0) } }
  else s

/-- What a reset leaves: the stacks' memory, which peers refresh (R719), the fuses, and the Annals where `keep` (R764, R798). -/
def chipReset (keep : Bool) (s : State) : State :=
  let old := incidentShut s
  let r := { State.reset with
    pending := s.pending, outbox := s.outbox, freeCtr := s.freeCtr, fuses := s.fuses, tripped := s.tripped, dram := s.dram, badGlz := s.badGlz,
    ueLines := s.ueLines, keepPools := s.keepPools, keepRecs := s.keepRecs, recCopies := s.recCopies }
  if keep then
    let r := { r with ann := { old.ann with slotBusy := false, slotHeld := true, kept := true, traceSkip := 0 } }
    let r := foldS (fun o r => setR Pg.ann o (getR old Pg.ann o) r) annKeptRegs r
    setF Pg.ann R.ANN_STATUS 0 7 (annSlots old) (setF Pg.ann R.ANN_STATUS 30 1 (b2n (annHeld old)) r)
  else r

/-! ### Clocks of the halves -/

/-- Setting in force of a half (PWR_CCLK), MHz. -/
def halfMhz (s : State) (south : Bool) : Nat := getF s Pg.pwr R.PWR_CCLK (if south then 16 else 0) 12
def slewOf (s : State) (south : Bool) : Option Nat := if south then s.pwr.slewS else s.pwr.slewN

/-- Cap duty and thermal duty of a half. -/
def capDuty (s : State) : Nat := getF s Pg.pwr R.PWR_DUTY 0 8
def thermDuty (s : State) : Nat := getF s Pg.pwr R.PWR_DUTY 8 8
def setDuties (cap therm : Nat) (s : State) : State :=
  setR Pg.pwr R.PWR_DUTY (BitVec.ofNat 32 (cap + therm * 256 + cap * 65536 + therm * 16777216)) s

/-- A half counts as below a clock (R780). -/
def halfBelow (s : State) (south : Bool) (mhz : Nat) : Bool :=
  decide (Nat.min (halfMhz s south) ((slewOf s south).getD (halfMhz s south)) < mhz) || decide (capDuty s ≠ 0) || decide (thermDuty s ≠ 0)

/-- Some core of partition `p` runs in a half below PTN_SCHED_MHZ (R146). -/
def ptnSlowNow (s : State) (p : Nat) : Bool :=
  let mhz := getF s (Pg.ptn p) R.PTN_SCHED_MHZ 0 12
  decide (mhz ≠ 0) && (ptnSites s p).any (fun c => halfBelow s (southOf c) mhz)

/-- Partitions in a Sol note that a half is slow. -/
def noteSlow (s : State) : State :=
  foldS (fun p s => if ((ptnAt s p).phase = .sol) ∧ ptnSlowNow s p then updPtn p (fun x => { x with slow := true }) s else s)
    (s.ptns.map (·.1)) s

/-- A partition spans the seam (R777). -/
def spansSeam (s : State) (p : Nat) : Bool := (ptnSites s p).any southOf && (ptnSites s p).any (fun c => !southOf c)

/-- A partition that spans the seam holds changes (R778). -/
def holdsChanges (s : State) (p : Nat) : Bool :=
  let st := bstate s (Pg.ptn p)
  spansSeam s p && (decide (st = B.running) || decide (st = B.stopping) || (decide (st = B.starting) && !(ptnAt s p).clockWait))
def changesHeld (s : State) : Bool := (List.range nPtns).any (holdsChanges s)

/-- A change is held or a half slews (R779). -/
def changeBusy (s : State) : Bool := bit (getR s Pg.pwr R.PWR_STATUS) 30 || s.pwr.slewN.isSome || s.pwr.slewS.isSome

/-- Partitions that waited under R779 go on once no change is held or slewing. -/
def clockGo (s : State) : State :=
  if changeBusy s then s else foldS (fun p => updPtn p (fun x => { x with clockWait := false })) (s.ptns.map (·.1)) s

/-- Fused maximum of the variant: clock in MHz, power in W (R1). -/
def maxMhz (s : State) : Nat := match s.fuses.variant with | 0 => 2100 | 1 => 1900 | _ => 1600
def maxWatt (s : State) : Nat := match s.fuses.variant with | 0 => 800 | 1 => 640 | _ => 470

/-- A setting of a plan: rounded down to 25 MHz and clamped (R770). -/
def clampMhz (s : State) (v : Nat) : Nat := Nat.max 400 (Nat.min (v / 25 * 25) (maxMhz s))

/-- The targets differ from what is in force or under way. -/
def changeWanted (s : State) : Bool :=
  decide (s.pwr.tgtN ≠ s.pwr.slewN.getD (halfMhz s false)) || decide (s.pwr.tgtS ≠ s.pwr.slewS.getD (halfMhz s true))

/-- The targets of the latest accepted plan are applied: each half slews toward its own (R767, R770). -/
def applyTargets (s : State) : State :=
  let n := if s.pwr.tgtN = halfMhz s false ∧ s.pwr.slewN = none then none else some s.pwr.tgtN
  let m := if s.pwr.tgtS = halfMhz s true ∧ s.pwr.slewS = none then none else some s.pwr.tgtS
  clockGo (noteSlow (setF Pg.pwr R.PWR_STATUS 30 1 0 { s with pwr := { s.pwr with slewN := n, slewS := m } }))

/-- PLAN (R769, R770, R778). -/
def planOp (body : DWord) (s : State) : State :=
  let serial : BitVec 16 := BitVec.ofNat 16 (fld body 48 16)
  let ok := match s.pwr.serial with | none => true | some l => decide (0 < signedOf 16 (serial - l).toNat)
  if !ok then satR Pg.pwr R.PWR_PLAN_STALE 1 s
  else
    let pick := fun (v : Nat) (south : Bool) => if v = 0 then (slewOf s south).getD (halfMhz s south) else clampMhz s v
    let s := { s with pwr := { s.pwr with serial := some serial, tgtN := pick (fld body 12 12) false, tgtS := pick (fld body 24 12) true } }
    let s := setF Pg.pwr R.PWR_STATUS 31 1 1 (setQ Pg.pwr R.PWR_PLAN_LO body s)
    let s := trace 4 Pg.pwr s
    if !changeWanted s then applyTargets s
    else if changesHeld s then
      if bit (getR s Pg.pwr R.PWR_STATUS) 30 then s else namedAlarm Pg.pwr 5 (setF Pg.pwr R.PWR_STATUS 30 1 1 s)
    else applyTargets s

/-- SLEW_DONE. -/
def slewDoneOp (south : Bool) (s : State) : State :=
  match slewOf s south with
  | none => s
  | some v =>
    let s := setF Pg.pwr R.PWR_CCLK (if south then 16 else 0) 12 v s
    clockGo { s with pwr := if south then { s.pwr with slewS := none } else { s.pwr with slewN := none } }

/-- HELD_CHANGE_APPLY. -/
def heldApplyOp (s : State) : State := if bit (getR s Pg.pwr R.PWR_STATUS) 30 ∧ !changesHeld s then applyTargets s else s

/-! ### Power (R763, R768, R771, R772) -/

/-- The power limit L in W. -/
def powerLimit (s : State) : Nat :=
  let cap := if bit (getR s Pg.pwr R.PWR_STATUS) 31 then fld (getR s Pg.pwr R.PWR_PLAN_HI) 6 10 else 0
  let own := getF s Pg.pwr R.PWR_CAP 0 10
  let l := if cap = 0 then maxWatt s else Nat.min cap (maxWatt s)
  if own = 0 then l else Nat.min own l

/-- Operating range of a rail in mV, in the order of PWR_RAIL0–6 (R847). -/
def railRange (k : Nat) : Nat × Nat :=
  match k with
  | 0 | 1 => (530, 880) | 2 => (728, 772) | 3 | 4 => (776, 824) | 5 => (1164, 1236) | _ => (1710, 1890)

/-- A point of the fused curve: mV and MHz (R768). -/
def vfPoint (s : State) (k : Nat) : Nat × Nat := (getF s Pg.pwr (R.PWR_VF0 + 4 * k) 16 16, getF s Pg.pwr (R.PWR_VF0 + 4 * k) 0 16)

/-- The clock that the curve allows at a voltage, rounded down to 25 MHz (R768). -/
def vfClock (s : State) (mv : Nat) : Nat :=
  let p := vfPoint s
  if mv < (p 0).1 then 400
  else
    match [2, 1, 0].find? (fun k => (p k).1 ≤ mv) with
    | some k =>
      let a := p k
      let b := p (k + 1)
      if b.1 ≤ mv then (if k = 2 then b.2 / 25 * 25 else a.2 / 25 * 25)
      else (a.2 + (b.2 - a.2) * (mv - a.1) / (b.1 - a.1)) / 25 * 25
    | none => 400

/-- A rail fault (R763): one RAIL alarm if the base layer can send it, then the internal reset. -/
def railFault (bad : List Nat) (s : State) : State :=
  let s := if bad.contains 2 ∨ bad.contains 4 ∨ bad.contains 6 then s else alarmFull Pg.pwr 0x0103 0 true [] s
  chipReset (!(bad.contains 2) && !(bad.contains 3)) s

/-- POWER_SAMPLE. -/
def powerSampleOp (rails : List (BitVec 16 × BitVec 16)) (p16 : Nat) (s : State) : State :=
  if s.inReset then s
  else
    let s := foldS (fun (e : (BitVec 16 × BitVec 16) × Nat) => setR Pg.pwr (R.PWR_RAIL0 + 4 * e.2) (BitVec.ofNat 32 (e.1.1.toNat * 65536 + e.1.2.toNat)))
      ((rails.take 7).zipIdx) s
    let mv := fun k => getF s Pg.pwr (R.PWR_RAIL0 + 4 * k) 16 16
    let bad := (List.range 7).filter (fun k => k < rails.length ∧ (mv k < (railRange k).1 ∨ (railRange k).2 < mv k))
    if bad.any (s.pwr.railsBad.contains ·) then railFault bad s
    else
      let vn := if rails.length = 0 then s.pwr.vfN else vfClock s (mv 0)
      let vs := if rails.length < 2 then s.pwr.vfS else vfClock s (mv 1)
      let s := { s with pwr := { s.pwr with railsBad := bad, vfN := vn, vfS := vs } }
      let s := setF Pg.pwr R.PWR_STATUS 29 1 (b2n (decide (vn < halfMhz s false) || decide (vs < halfMhz s true))) s
      let l := powerLimit s
      let d := capDuty s
      if 16 * l < p16 then noteSlow (setDuties (Nat.max d (Nat.min 15 ((p16 - 16 * l + l - 1) / l))) (thermDuty s) s) else s

/-- GOVERNOR_INTERVAL. -/
def governorOp (mean : Nat) (s : State) : State :=
  let s := setR Pg.pwr R.PWR_POWER (BitVec.ofNat 32 mean) s
  let l := powerLimit s
  let d := capDuty s
  if 16 * l < mean ∧ d = 15 then
    let n := s.pwr.overL + 1
    if 10 ≤ n ∧ !s.pwr.limitSent then namedAlarm Pg.pwr 4 { s with pwr := { s.pwr with overL := n, limitSent := true } }
    else { s with pwr := { s.pwr with overL := n } }
  else
    let s := { s with pwr := { s.pwr with overL := 0, limitSent := false } }
    if mean * 100 < 95 * 16 * l then setDuties (d - 1) (thermDuty s) s else s

/-! ### Temperature (R781–R783) -/

/-- The highest of the readings and its first sensor. -/
def hottest (temps : List (BitVec 16)) : Int × Nat :=
  (temps.zipIdx).foldl (fun m e => if m.1 < e.1.toInt then (e.1.toInt, e.2) else m) (((temps.head?).getD 0).toInt, 0)

/-- THERMTRIP: the half PLLs stop, the cause and the alarm, and the pin (R783). -/
def thermTrip (s : State) : State :=
  let s := setF Pg.pwr R.PWR_STATUS 27 1 1 { s with pwr := { s.pwr with pllsOff := true } }
  { (alarmFull Pg.pwr 0x0102 0 true [] (fault Pg.pwr 9 s)) with tripped := true }

/-- THERMAL_SAMPLE. -/
def thermalOp (temps : List (BitVec 16)) (s : State) : State :=
  if s.inReset ∨ temps = [] then s
  else
    let temps := temps.take 64
    let s := foldS (fun (e : BitVec 16 × Nat) => setF Pg.pwr (R.PWR_TEMP0 + 4 * (e.2 / 2)) (16 * (e.2 % 2)) 16 e.1.toNat) (temps.zipIdx) s
    let (t, k) := hottest temps
    let s := setR Pg.pwr R.PWR_TEMP_MAX (BitVec.ofNat 32 (k * 65536 + (BitVec.ofInt 16 t).toNat)) s
    let hot : Int := 16 * (getF s Pg.pwr R.PWR_THERM 0 7 : Nat)
    let s := setF Pg.pwr R.PWR_STATUS 28 1 (b2n (decide (hot < t))) s
    let s :=
      if hot < t then
        let s := noteSlow (setDuties (capDuty s) (Nat.min 15 (thermDuty s + 1)) s)
        if s.pwr.hotArmed then namedAlarm Pg.pwr 1 { s with pwr := { s.pwr with hotArmed := false } } else s
      else if t ≤ hot - 48 then setDuties (capDuty s) (thermDuty s - 1) { s with pwr := { s.pwr with hotArmed := true } }
      else s
    let bad := ((temps.zipIdx).filter (fun e => 1840 ≤ e.1.toInt)).map (·.2)
    let trip := bad.any (s.pwr.sensorsBad.contains ·)
    let s := { s with pwr := { s.pwr with sensorsBad := bad } }
    if trip ∧ !bit (getR s Pg.pwr R.PWR_STATUS) 27 then thermTrip s else s

/-! ### Droop (R775) -/

def droopOp (south : Bool) (s : State) : State :=
  let s := satR Pg.pwr (if south then R.PWR_DROOP_S else R.PWR_DROOP_N) 1 s
  { s with pwr := if south then { s.pwr with droopS := true, evS := Nat.min 65535 (s.pwr.evS + 1) }
                  else { s.pwr with droopN := true, evN := Nat.min 65535 (s.pwr.evN + 1) } }
def droopEndOp (south : Bool) (s : State) : State :=
  { s with pwr := if south then { s.pwr with droopS := false } else { s.pwr with droopN := false } }

/-! ### Telemetry (R785–R787) -/

/-- The POWER record. -/
def powerRecord (s : State) : List Byte :=
  let st := getR s Pg.pwr R.PWR_STATUS
  bytesOf 8 s.time.toNat ++ bytesOf 2 ((s.pwr.serial.map (·.toNat)).getD 0) ++ bytesOf 2 (powerLimit s) ++ bytesOf 4 (getN s Pg.pwr R.PWR_POWER) ++
    ((List.range 7).map (fun k => bytesOf 2 (getF s Pg.pwr (R.PWR_RAIL0 + 4 * k) 16 16) ++ bytesOf 2 (getF s Pg.pwr (R.PWR_RAIL0 + 4 * k) 0 16))).flatten ++
    bytesOf 2 (halfMhz s false) ++ bytesOf 2 (halfMhz s true) ++ bytesOf 1 (Nat.max (capDuty s) (thermDuty s)) ++ bytesOf 1 (Nat.max (capDuty s) (thermDuty s)) ++
    bytesOf 2 (getF s Pg.pwr R.PWR_TEMP_MAX 0 16) ++ bytesOf 1 (getF s Pg.pwr R.PWR_TEMP_MAX 16 6) ++
    bytesOf 1 (b2n (bit st 29) + 2 * b2n (bit st 30) + 4 * b2n (bit st 28)) ++ bytesOf 2 s.pwr.evN ++ bytesOf 2 s.pwr.evS ++ bytesOf 6 0

/-- The THERMAL record. -/
def thermalRecord (s : State) : List Byte := ((List.range 32).map (fun k => bytesOf 4 (getN s Pg.pwr (R.PWR_TEMP0 + 4 * k)))).flatten

/-- A telemetry record leaves, or is skipped. -/
def telemSend (kind : Nat) (bs : List Byte) (room : Bool) (s : State) : State :=
  if room then postMsg 0xFFF Cls.dbg (bs.length / 8) (.telem kind bs) s else satR Pg.pwr R.PWR_TELEM_SKIPS 1 s

/-- TELEM_PERIOD. -/
def telemOp (room : Bool) (s : State) : State :=
  if runs s Pg.pwr ∧ bit (getR s Pg.pwr R.PWR_TELEM) 31 then
    let s := telemSend 1 (powerRecord s) room s
    let n := s.pwr.periods + 1
    let s := if room then { s with pwr := { s.pwr with evN := 0, evS := 0, periods := n } } else { s with pwr := { s.pwr with periods := n } }
    let s := if n % 16 = 0 then telemSend 2 (thermalRecord s) room s else s
    if groupVersion s G.io = 2 then
      match (List.range nPorts).find? (fun k => getF s (Pg.lnk ((s.pwr.eyePort + k) % nPorts)) R.LNK_STATUS 29 3 = 3) with
      | some k =>
        let p := (s.pwr.eyePort + k) % nPorts
        telemSend 3 (bytesOf 8 p ++ ((List.range 18).map (fun i => bytesOf 4 (getN s (Pg.lst p) (R.LST_EYE0 + 4 * i)))).flatten) room
          { s with pwr := { s.pwr with eyePort := (p + 1) % nPorts } }
      | none => s
    else s
  else s

/-- START with a field of 0x064–0x070 out of range (R800). -/
def pwrConfigBad (s : State) : Bool :=
  let mv := getF s Pg.pwr R.PWR_DROOP_MV 0 7
  let hot := getF s Pg.pwr R.PWR_THERM 0 7
  let per := getF s Pg.pwr R.PWR_TELEM 0 20
  decide (mv < 10) || decide (100 < mv) || decide (hot < 85) || decide (110 < hot) || decide (per < 10) || decide (100000 < per)

/-! ### The Annals' commands (R791–R802) -/

/-- ALARM_SLOT_FREE. -/
def alarmSlotFreeOp (s : State) : State := slotService { s with ann := { s.ann with slotBusy := false } }

/-- A write of ANN_TRACE_TAIL. -/
def traceTailOp (v : Word) (s : State) : State :=
  let s := setR Pg.ann R.ANN_TRACE_TAIL (BitVec.ofNat 32 (v.toNat % 262144)) s
  traceAdjust { s with ann := { s.ann with traceFull := false } }

/-- ANN_ACTION.RELEASE. -/
def annReleaseOp (s : State) : State :=
  if annOpen s then s else setF Pg.ann R.ANN_STATUS 0 7 0 (setF Pg.ann R.ANN_STATUS 30 1 0 s)

/-- ANN_ACTION.CLEAR. -/
def annClearOp (s : State) : State :=
  if annOpen s ∨ s.ann.coal.any (fun e => e.count ≠ 0) then ignoredCmd Pg.ann s
  else
    let s := annReleaseOp s
    let s := foldS (fun o => setR Pg.ann o 0)
      [R.ANN_ALARMS, R.ANN_MSGS, R.ANN_COALESCED, R.ANN_OTHER, R.ANN_RING_OVER, R.ANN_LOG_DROPS, R.ANN_TRACE_DROPS] s
    let s := foldS (fun (e : Nat × Word) => setR Pg.ann e.1 e.2)
      [(R.ANN_ALARM_HEAD, 0x20000), (R.ANN_LOG_HEAD, 0x30000), (R.ANN_TRACE_HEAD, 0x3C000), (R.ANN_TRACE_TAIL, 0x3C000)] s
    { s with ann := { s.ann with buf := [], coal := [], alarmRecs := [], logRecs := [], traceFull := false } }

/-- ANN_ACTION.TRACE_RESTART. -/
def traceRestartOp (s : State) : State := setF Pg.ann R.ANN_STATUS 28 1 0 s

/-! ### The commands -/

/-- PLAN. -/
def execPlan (body : DWord) (s : State) : Host.Outcome State Fault Refusal := act s (planOp body s)

/-- POWER_SAMPLE. -/
def execPowerSample (rails : List (BitVec 16 × BitVec 16)) (p16 : Nat) (s : State) : Host.Outcome State Fault Refusal :=
  act s (powerSampleOp rails p16 s)

/-- GOVERNOR_INTERVAL. -/
def execGovernorInterval (mean : Nat) (s : State) : Host.Outcome State Fault Refusal := act s (governorOp mean s)

/-- THERMAL_SAMPLE. -/
def execThermalSample (temps : List (BitVec 16)) (s : State) : Host.Outcome State Fault Refusal := act s (thermalOp temps s)

/-- DROOP. -/
def execDroop (south : Bool) (s : State) : Host.Outcome State Fault Refusal := act s (droopOp south s)

/-- DROOP_END. -/
def execDroopEnd (south : Bool) (s : State) : Host.Outcome State Fault Refusal := act s (droopEndOp south s)

/-- SLEW_DONE. -/
def execSlewDone (south : Bool) (s : State) : Host.Outcome State Fault Refusal := act s (slewDoneOp south s)

/-- HELD_CHANGE_APPLY. -/
def execHeldChangeApply (s : State) : Host.Outcome State Fault Refusal := act s (heldApplyOp s)

/-- REFCLK_LOSS (R765): every PLL stops; the chiplet keeps only what R764 allows, until CHIP_RESET_N (R720). -/
def execRefclkLoss (s : State) : Host.Outcome State Fault Refusal := act s (chipReset true s)

/-- TELEM_PERIOD. -/
def execTelemPeriod (room : Bool) (s : State) : Host.Outcome State Fault Refusal := act s (telemOp room s)

/-- ALARM_SLOT_FREE. -/
def execAlarmSlotFree (s : State) : Host.Outcome State Fault Refusal := act s (alarmSlotFreeOp s)

/-- INCIDENT_CLOSE. -/
def execIncidentClose (s : State) : Host.Outcome State Fault Refusal := act s (incidentShut s)

/-- TRACE_TAIL_WRITE. -/
def execTraceTailWrite (v : Word) (s : State) : Host.Outcome State Fault Refusal := act s (traceTailOp v s)

/-- ANN_RELEASE. -/
def execAnnRelease (s : State) : Host.Outcome State Fault Refusal := act s (annReleaseOp s)

/-- ANN_CLEAR. -/
def execAnnClear (s : State) : Host.Outcome State Fault Refusal := act s (annClearOp s)

/-- TRACE_RESTART. -/
def execTraceRestart (s : State) : Host.Outcome State Fault Refusal := act s (traceRestartOp s)

end Sys2Proof.Machine
end

