-- ==== Sys2Proof/Machine/Units.lean ====
section
/-! DEFINITION. Memory accesses of units that are not engines: dumps, loads, script images, firmware. Local blocks are read and
written at once; blocks of other dies by flits whose responses end the unit's job. -/

namespace Sys2Proof.Machine

/-- Endpoint number under which the chiplet's own units wait for responses: a reserved number (R419), a DESIGN CHOICE. -/
abbrev unitEp : Nat := 0x1FE

/-- A new job of a unit. -/
def unitOpen (u stage : Nat) (s : State) : State := { s with unitJobs := Tab.put s.unitJobs u { left := 0, bad := false, buf := [], stage := stage } }

/-- The job of a unit. -/
def unitJob (s : State) (u : Nat) : Option UnitJob := Tab.find s.unitJobs u

/-- The job is forgotten, with what it awaits. -/
def unitClose (u : Nat) (s : State) : State :=
  let mine := fun (o : Op) => match o.kind with | .unitRead v _ _ _ | .unitWrite v => decide (v = u) | _ => false
  { s with unitJobs := Tab.erase s.unitJobs u, ops := s.ops.filter (fun o => !mine o), opWait := s.opWait.filter (fun e => !mine e.1) }

def updUnit (u : Nat) (f : UnitJob → UnitJob) (s : State) : State :=
  match unitJob s u with
  | some j => { s with unitJobs := Tab.put s.unitJobs u (f j) }
  | none => s
def unitFail (u : Nat) (s : State) : State := updUnit u (fun j => { j with bad := true }) s

/-- A request of a unit that waits for its response: to another die, or for a block of this die that is not to be had at once. -/
def unitSend (u ep d a : Nat) (kind : OpKind) (mk : Nat → Flit) (s : State) : State :=
  let (t, s) := newTxn s
  match opIssue (mkOp s t ep d a kind) (mk t) s with
  | (.later, s) => updUnit u (fun j => { j with left := j.left + 1 }) s
  | (.done, s) => s
  | (.bad, s) => unitFail u s

/-- One piece of a read: position in the unit's buffer, address field, length. -/
def unitReadPiece (u ep : Nat) (p : Nat × Nat × Nat) (s : State) : State :=
  let (pos, a, n) := p
  match target s a with
  | .bad => unitFail u s
  | .loc l =>
    if blockHeld s false p ∨ opsFull s ep then unitSend u ep (dieNum s) l (.unitRead u pos (l % 128) n) (fun t => engineFlit s ep 0 t (dieNum s) l) s
    else
    match readBlock ep l s with
    | (some (bs, true), s) => updUnit u (fun j => { j with buf := Tab.storeList 0 j.buf pos ((bs.drop (l % 128)).take n) }) s
    | (_, s) => unitFail u s
  | .far d l => unitSend u ep d l (.unitRead u pos (l % 128) n) (fun t => engineFlit s ep 0 t d l) s

/-- `len` bytes from address field `a` are read into the unit's buffer at `pos`. -/
def unitRead (u ep pos a len : Nat) (s : State) : State :=
  foldS (fun (p : Nat × Nat × Nat) => unitReadPiece u ep (pos + p.1, p.2.1, p.2.2)) (piecesOf a len) s

/-- One piece of a write. -/
def unitWritePiece (u ep : Nat) (bs : List Byte) (p : Nat × Nat × Nat) (s : State) : State :=
  let (pos, a, n) := p
  let part := (bs.drop pos).take n
  match target s a with
  | .bad => unitFail u s
  | .loc l =>
    match writeBlock ep (.unitWrite u) l part s with
    | (.done, s) => s
    | (.bad, s) => unitFail u s
    | (.later, s) => updUnit u (fun j => { j with left := j.left + 1 }) s
  | .far d l => unitSend u ep d l (.unitWrite u) (fun t => engineWrite s ep t d l part) s

/-- Bytes written from address field `a`. -/
def unitWrite (u ep a : Nat) (bs : List Byte) (s : State) : State := foldS (unitWritePiece u ep bs) (piecesOf a bs.length) s

/-- `len` bytes of the unit's buffer. -/
def unitBytes (j : UnitJob) (pos len : Nat) : List Byte := Tab.slice 0 j.buf pos len

/-- The number in `len` bytes of a table of bytes. -/
def tabNum (t : Tab Byte) (pos len : Nat) : Nat := numOf (Tab.slice 0 t pos len)

/-- Bytes as a table. -/
def tabOf (bs : List Byte) : Tab Byte := Tab.storeList 0 [] 0 bs

/-- CRC-32C as the manual's records use it, over bytes with seed 0 (R136, R137, R173). -/
def crcOf (bs : List Byte) : Nat := (crc32c 0 bs).toNat

end Sys2Proof.Machine
end

