-- ==== Sys2Proof/Machine/Sol.lean ====
section
/-! DEFINITION. The Sol frame (R107–R164): package time, ticks, starting a partition and its script images, end point, snapshot
and commit with what it releases, overrun, faults, REPLAY, DUMP and LOAD. -/

namespace Sys2Proof.Machine

/-! ### Package time (R107–R113) -/

/-- The link delay measured at training (R107, R676): of the lowest in-service port of the IO group. -/
def linkDelay (s : State) : Nat :=
  match portsIn s G.io with
  | p :: _ => getF s (Pg.lnk p) R.LNK_DELAY_NS 0 16
  | [] => 0

/-- SEQ_TIME_STATUS.VALID. -/
def timeValid (s : State) : Bool := bit (getR s Pg.seq R.SEQ_TIME_STATUS) 31

/-- The local copy has reached at least `t`. -/
def timeTo (t : DWord) (s : State) : State := if s.time < t then { s with time := t } else s

/-- One nanosecond of REFCLK: the local copy advances, a correction of at most 100 ns is slewed by 1 ns in each 100 ns, and a
copy that is more than 100 ns ahead is held to 1 ns in each 100 ns (R109, R110). -/
def tickNs (s : State) : State :=
  if s.inReset then s
  else
    let f := (s.timeFrac + 1) % 100
    let s := { s with timeFrac := f }
    if s.timePend < -100 then
      if f = 0 then { s with time := s.time + 1 } else { s with timePend := s.timePend + 1 }
    else if f = 0 ∧ 0 < s.timePend then { s with time := s.time + 2, timePend := s.timePend - 1 }
    else if f = 0 ∧ s.timePend < 0 then { s with timePend := s.timePend + 1 }
    else { s with time := s.time + 1 }

/-- SEQ leaves Running or time is lost or stepped: TIME for every partition that depends on it (R126, R163). -/
def timeFault (s : State) : State :=
  foldS (fun p s =>
    let st := bstate s (Pg.ptn p)
    if st = B.starting ∨ st = B.running ∨ st = B.stopping then ptnFault p PC.time s else s) (List.range nPtns) s

/-- TIME (R107–R112): an acquisition loads the local copy; a correction of at most 100 ns is slewed; a larger one steps forward
or holds, and records TIME_STEP. DESIGN CHOICE: the 16-bit signed field of SEQ_TIME_STATUS for the last correction stops at −32,768
and 32,767, where R110 and R159 name no rule for a larger correction. -/
def timeOp (v : DWord) (s : State) : State :=
  let ref := v - BitVec.ofNat 64 (linkDelay s)
  let st := getR s Pg.seq R.SEQ_TIME_STATUS
  if !timeValid s then
    if dieValid s then setR Pg.seq R.SEQ_TIME_STATUS (setBit (setBit st 31 true) 30 false) { s with time := ref, timePend := 0 } else s
  else
    let e : Int := (ref.toNat : Int) - (s.time.toNat : Int)
    let c : Int := if e < -32768 then -32768 else if 32767 < e then 32767 else e
    let s := setR Pg.seq R.SEQ_TIME_STATUS (setFld (setBit st 30 false) 0 16 (BitVec.ofInt 16 c).toNat) s
    if e ≤ 100 ∧ -100 ≤ e then { s with timePend := e }
    else
      let s := if 100 < e then { s with time := ref, timePend := 0 } else { s with timePend := e }
      let s := fault Pg.seq 9 s
      timeFault s

/-- HOLDOVER. -/
def holdoverOp (s : State) : State := if timeValid s then setF Pg.seq R.SEQ_TIME_STATUS 30 1 1 s else s

/-- TIME_LOST: the cause, and VALID reads 0. -/
def timeLostOp (s : State) : State :=
  if timeValid s then timeFault (fault Pg.seq 8 (setF Pg.seq R.SEQ_TIME_STATUS 31 1 0 s)) else s

/-- Ticks are raised (R112). -/
def ticksRun (s : State) : Bool := timeValid s && runs s Pg.seq

def solPeriod (s : State) : Nat := getF s Pg.seq R.SEQ_SOL_PERIOD 0 24
def solGuard (s : State) : Nat := getF s Pg.seq R.SEQ_SOL_GUARD 0 17
def solEpoch (s : State) : Nat := (getQ s Pg.seq R.SEQ_SOL_EPOCH_LO).toNat

/-- PACKAGE_TICK (R113): package time has reached the start of package Sol k. -/
def packageTickOp (k : Nat) (s : State) : State :=
  if ticksRun s then timeTo (BitVec.ofNat 64 (solEpoch s + k * solPeriod s)) s else s

/-- SEQ_SOL_INDEX, read (R159). -/
def solIndex (s : State) : Nat :=
  if ticksRun s ∧ solEpoch s ≤ s.time.toNat ∧ solPeriod s ≠ 0 then (s.time.toNat - solEpoch s) / solPeriod s else 0

/-! ### A partition's Sol (R115, R116) -/

def ptnMult (s : State) (p : Nat) : Nat := getF s (Pg.ptn p) R.PTN_TIMING 0 9
def ptnAlign (s : State) (p : Nat) : Nat := getF s (Pg.ptn p) R.PTN_TIMING 24 8
def ptnPhase (s : State) (p : Nat) : Nat := getF s (Pg.ptn p) R.PTN_PHASE 0 24

/-- L. -/
def solLen (s : State) (p : Nat) : Nat := ptnMult s p * solPeriod s

/-- T(j). -/
def tickTime (s : State) (p j : Nat) : Nat := solEpoch s + (ptnAlign s p + j * ptnMult s p) * solPeriod s + ptnPhase s p

/-- The first tick at or after a package time. -/
def nextTick (s : State) (p t : Nat) : Nat :=
  let t0 := tickTime s p 0
  let l := Nat.max 1 (solLen s p)
  if t ≤ t0 then t0 else t0 + (t - t0 + l - 1) / l * l

/-- The deadline of the Sol under way. -/
def deadline (s : State) (p : Nat) : Nat := (ptnAt s p).tickAt.toNat + solLen s p - solGuard s

def ptnSeq (s : State) (p : Nat) : DWord := getQ s (Pg.ptn p) R.PTN_SOL_SEQ_LO
def setPtnSeq (p : Nat) (q : DWord) (s : State) : State := setQ (Pg.ptn p) R.PTN_SOL_SEQ_LO q s
def snapValid (s : State) (p : Nat) : Bool := bit (getR s (Pg.ptn p) R.PTN_SNAP_STATUS) 31

/-- PTN_CFG.RESUME. -/
def ptnResume (s : State) (p : Nat) : Bool := bit (getR s (Pg.ptn p) R.PTN_CFG) 1

/-! ### Snapshot records (R135–R137) -/

/-- Open loop levels, outermost first, 16 bytes each (R186). DESIGN CHOICE: every byte of a closed level is 0, where R186 gives only
its open byte. -/
def loopBytes (x : Core) : List Byte :=
  let ls := x.loops.reverse
  ((List.range 4).map (fun k => match ls[k]? with
    | some l => bytesOf 2 l.start ++ bytesOf 2 l.stop ++ bytesOf 4 l.count ++ bytesOf 8 1
    | none => bytesOf 16 0)).flatten

/-- The register state of an array (R232). -/
def arrBytes (x : Arr) : List Byte :=
  let ps := b2n x.p0.valid + 2 * b2n x.p1.valid + 4 * b2n x.active + 16 * x.p0.wfmt + 256 * x.p1.wfmt + 4096 * b2n x.p0.split + 8192 * b2n x.p1.split
  bytesOf 4 x.mode.toNat ++ bytesOf 4 x.cnt ++ ((List.range 8).map (fun k => bytesOf 4 (Tab.get 0 x.a k).toNat)).flatten ++ bytesOf 4 ps ++ bytesOf 84 0

/-- Does the kind that a core runs as use arrays, a vector engine? -/
def usesArr (s : State) (c : Nat) : Bool := decide (runsAs s c = some 0)
def usesVec (s : State) (c : Nat) : Bool := decide (runsAs s c = some 0) || decide (runsAs s c = some 1)

/-- The per-core record of logical core `n` at site `c` (R136), without its CRC. -/
def coreRecord (s : State) (n c : Nat) (q : DWord) : List Byte :=
  let x := coreAt s c
  let am := usesArr s c
  let vm := usesVec s c
  let v := vecAt s c
  let vf := getN s (Pg.vec c) R.VEC_FLAGS
  let arr := fun (m : Bool) => if am then arrBytes (arrAt s c m) else bytesOf 128 0
  bytesOf 8 q.toNat ++ bytesOf 2 n ++ bytesOf 2 c ++ bytesOf 1 ((runsAs s c).getD 0) ++ bytesOf 3 0 ++ bytesOf 4 x.pos ++ bytesOf 44 0 ++
    loopBytes x ++
    bytesOf 2 (x.preds.toNat ||| 1) ++ (if am then bytesOf 1 (getN s (mPg c false) R.MXA_FLAGS % 32) ++ bytesOf 1 (getN s (mPg c true) R.MXA_FLAGS % 32) else bytesOf 2 0) ++
    (if vm then bytesOf 1 (vf % 64) ++ bytesOf 1 (vf / 256 % 64) else bytesOf 2 0) ++ bytesOf 1 (getN s (Pg.gth c) R.GTH_FLAGS % 8) ++ bytesOf 121 0 ++
    ((List.range 32).map (fun k => bytesOf 4 (sigCount s c k))).flatten ++
    (if am then bytesOf 4 (arrAt s c false).gen.toNat ++ bytesOf 4 (arrAt s c true).gen.toNat else bytesOf 8 0) ++
    ((List.range 8).map (fun g => bytesOf 4 (if vm then (Tab.get 0 v.gens g).toNat else 0))).flatten ++ bytesOf 88 0 ++
    ((List.range 256).map (fun k => bytesOf 8 (Tab.get 0 x.sreg k).toNat)).flatten ++
    ((List.range 256).map (fun k => bytesOf 8 (if runsAs s c = some 2 then (Tab.get 0 x.treg k).toNat else 0))).flatten ++
    arr false ++ arr true ++ ((List.range 8).map (fun k => bytesOf 4 (if vm then (Tab.get 0 v.va k).toNat else 0))).flatten ++ bytesOf 224 0 ++
    ((List.range 8).map (fun k => bytesOf 4 (Tab.get 0 x.xa k).toNat)).flatten ++ bytesOf 2528 0 ++ bytesOf 508 0

/-- The partition record (R137), without its CRC. -/
def ptnRecord (s : State) (p : Nat) (q : DWord) (tick : Nat) : List Byte :=
  bytesOf 8 q.toNat ++ bytesOf 8 tick ++ bytesOf 16 (ptnMask s p) ++ bytesOf 4 (ptnLogicals s p).length ++ bytesOf 28 0 ++
    ((List.range 256).map (fun b => bytesOf 1 (if barEn s b ∧ barPtn s b = p then (barAt s b).gen else 255))).flatten ++ bytesOf 188 0

/-- A record with the CRC-32C of its bytes at its end. -/
def withCrc (bs : List Byte) : List Byte := bs ++ bytesOf 4 (crcOf bs)

/-- A record's CRC holds. -/
def crcOk (t : Tab Byte) (len : Nat) : Bool := decide (tabNum t (len - 4) 4 = crcOf (Tab.slice 0 t 0 (len - 4)))

/-- Buffers by number: per-core records, plane saves and partition records with selector `k`. -/
def snapKey (c : Nat) (k : Bool) : Nat := 2 * c + b2n k
def snapTab (s : State) (c : Nat) (k : Bool) : Tab Byte := Tab.get [] s.snap (snapKey c k)
def precTab (s : State) (p : Nat) (k : Bool) : Tab Byte := Tab.get [] s.prec (2 * p + b2n k)
def putSnap (c : Nat) (k : Bool) (t : Tab Byte) (s : State) : State := { s with snap := Tab.store [] s.snap (snapKey c k) t }
def putPrec (p : Nat) (k : Bool) (t : Tab Byte) (s : State) : State := { s with prec := Tab.store [] s.prec (2 * p + b2n k) t }
def planesAt (s : State) (c : Nat) (k m : Bool) : List Plane := Tab.get [] s.psave (2 * snapKey c k + b2n m)
def putPlanes (c : Nat) (k m : Bool) (l : List Plane) (s : State) : State := { s with psave := Tab.store [] s.psave (2 * snapKey c k + b2n m) l }

/-- The logical cores of a partition with their sites, ascending. -/
def ptnCores (s : State) (p : Nat) : List (Nat × Nat) := (ptnLogicals s p).filterMap (fun n => (siteOf s n).map (fun c => (n, c)))

/-- Every logical core of the mask has a site. -/
def allPlaced (s : State) (p : Nat) : Bool := (ptnLogicals s p).all (fun n => (siteOf s n).isSome)

/-- Every core's state is copied into the buffer that is not in use, with the record of Sol sequence `q` (R129, R235). -/
def snapCopy (p : Nat) (q : DWord) (tick : Nat) (s : State) : State :=
  let k := !(ptnAt s p).sel
  let cs := ptnCores s p
  let s := foldS (fun (e : Nat × Nat) s =>
    let s := putSnap e.2 k (tabOf (withCrc (coreRecord s e.1 e.2 q))) s
    if usesArr s e.2 then
      foldS (fun m s => putPlanes e.2 k m [(arrAt s e.2 m).p0, (arrAt s e.2 m).p1] s) [false, true] s
    else s) cs s
  updPtn p (fun x => { x with nextAt := cs }) (putPrec p k (tabOf (withCrc (ptnRecord s p q tick))) s)

/-- The copy taken last becomes the committed snapshot (R130). -/
def snapFlip (p : Nat) (s : State) : State :=
  setF (Pg.ptn p) R.PTN_SNAP_STATUS 31 1 1 (updPtn p (fun x => { x with sel := !x.sel, snapAt := x.nextAt, nextAt := [] }) s)

/-- A snapshot is copied and committed at once, as on entry to Running (R123). -/
def snapCommit (p : Nat) (q : DWord) (tick : Nat) (s : State) : State := snapFlip p (snapCopy p q tick s)

/-! ### Restoring a snapshot (R148, R236, R325, R407) -/

/-- A plane restored: contents from the plane save, its state from the record. -/
def restorePlane (t : Tab Byte) (base : Nat) (k : Nat) (saved : Option Plane) : Plane :=
  let st := BitVec.ofNat 32 (tabNum t (base + 0x28) 4)
  match saved with
  | some y => { y with valid := y.valid && bit st k, split := bit st (12 + k), wfmt := fld st (4 + 4 * k) 4, validAt := 0, lastWr := 0 }
  | none => Plane.init

/-- An array restored. -/
def restoreArr (c : Nat) (m : Bool) (t : Tab Byte) (saved : List Plane) (s : State) : State :=
  let b := 0x1200 + 0x80 * b2n m
  let a := (List.range 8).foldl (fun (u : Tab (BitVec 22)) k => Tab.store 0 u k (BitVec.ofNat 22 (tabNum t (b + 8 + 4 * k) 4))) []
  let x : Arr := { Arr.init with
    mode := BitVec.ofNat 32 (tabNum t b 4), cnt := tabNum t (b + 4) 4, a := a, gen := BitVec.ofNat 32 (tabNum t (0x180 + 4 * b2n m) 4),
    active := (tabNum t (b + 0x28) 4).testBit 2, p0 := restorePlane t b 0 (saved[0]?), p1 := restorePlane t b 1 (saved[1]?) }
  setR (mPg c m) R.MXA_FLAGS (BitVec.ofNat 32 (tabNum t (0x82 + b2n m) 1 % 32)) (setArr c m x s)

/-- The vector engine restored. -/
def restoreVec (c : Nat) (t : Tab Byte) (s : State) : State :=
  let va := (List.range 8).foldl (fun (u : Tab (BitVec 22)) k => Tab.store 0 u k (BitVec.ofNat 22 (tabNum t (0x1300 + 4 * k) 4))) []
  let gens := (List.range 8).foldl (fun (u : Tab Word) k => Tab.store 0 u k (BitVec.ofNat 32 (tabNum t (0x188 + 4 * k) 4))) []
  setR (Pg.vec c) R.VEC_FLAGS (BitVec.ofNat 32 (tabNum t 0x84 1 + 256 * tabNum t 0x85 1)) (setVec c { Vec.init with va := va, gens := gens } s)

/-- Registers of a record restored; register 0 holds 0 whatever the record says (R183, R210). -/
def restoreRegs (t : Tab Byte) (base : Nat) : Tab DWord :=
  (List.range 256).foldl (fun (u : Tab DWord) k => Tab.store 0 u k (if k = 0 then 0 else BitVec.ofNat 64 (tabNum t (base + 8 * k) 8))) []

/-- One core's record restored onto site `c`; its script is loaded anew where the site differs (R148). -/
def restoreCore (c : Nat) (t : Tab Byte) (planes : Bool → List Plane) (s : State) : State :=
  let loops := ((List.range 4).filterMap (fun k =>
    let b := 0x40 + 16 * k
    if tabNum t (b + 8) 1 = 0 then none else some ({ start := tabNum t b 2 % 4096, stop := tabNum t (b + 2) 2 % 4096, count := tabNum t (b + 4) 4 } : Loop))).reverse
  let xa := (List.range 8).foldl (fun (u : Tab (BitVec 22)) k => Tab.store 0 u k (BitVec.ofNat 22 (tabNum t (0x1400 + 4 * k) 4))) []
  let s := updCore c (fun x => { x with
    sreg := restoreRegs t 0x200, treg := restoreRegs t 0xA00, preds := BitVec.ofNat 16 (tabNum t 0x80 2), pend := [], loops := loops, branch := none,
    valid := [], pos := tabNum t 0x10 4 % 4096, steps := 0, ended := true, parked := true, holds := [], squash := 0, pendSt := [], xa := xa,
    xrd := [], claims := [], denied := 0,
    loading := decide (tabNum t 0xA 2 ≠ c) }) s
  let s := foldS (fun k => setSig c k (tabNum t (0x100 + 4 * k) 4)) (List.range 32) s
  let s := setR (Pg.gth c) R.GTH_FLAGS (BitVec.ofNat 32 (tabNum t 0x86 1)) s
  let s := if usesArr s c then foldS (fun m => restoreArr c m t (planes m)) [false, true] s else s
  if usesVec s c then restoreVec c t s else s

/-- The state of a core at START with RESUME = 0 (R122, R187, R234, R325, R407). -/
def clearCore (c : Nat) (s : State) : State :=
  let s := updCore c (fun x => { x with
    sreg := [], treg := [], preds := 0, pend := [], loops := [], branch := none, valid := [], pos := 0, steps := 0, ended := true, parked := true,
    holds := [], squash := 0, pendSt := [], xa := [], xrd := [], claims := [], denied := 0 }) s
  let s := foldS (fun k => setSig c k 0) (List.range 32) s
  let s := setR (Pg.gth c) R.GTH_FLAGS 0 s
  let s := if usesArr s c then foldS (fun m => arrReset c m) [false, true] s else s
  if usesVec s c then vecReset c s else s

/-- Barriers of a partition restored (R488): at generation 0, or at the generations of its record. -/
def restoreBars (p : Nat) (gens : Option (Tab Byte)) (s : State) : State :=
  foldS (fun b s =>
    if runs s (barPage b) ∧ (barAt s b).st ≠ 0 then
      match gens with
      | none => barRestore b 0 s
      | some t =>
        let g := tabNum t (0x40 + b) 1
        barRestore b (if g = 255 then (barAt s b).gen else g) s
    else s) (ptnBars s p) s

/-- The record checks of R140 on the committed snapshot: logical core, Sol sequence and kind of every record. -/
def recordsOk (s : State) (p : Nat) : Bool :=
  let x := ptnAt s p
  let q := tabNum (precTab s p x.sel) 0 8
  (ptnLogicals s p).all (fun n =>
    match x.snapAt.find? (fun e => e.1 = n) with
    | some (_, c) =>
      let t := snapTab s c x.sel
      decide (tabNum t 8 2 = n) && decide (tabNum t 0 8 = q) && decide (tabNum t 0xC 1 = kindOfLogical s n)
    | none => false)

/-- The mask copy of the committed snapshot. -/
def maskSame (s : State) (p : Nat) : Bool := decide (tabNum (precTab s p (ptnAt s p).sel) 0x10 16 = ptnMask s p)

/-- The committed snapshot's records restored (R148 step 3); the barriers follow once the scripts are in (steps 4 and 5). -/
def snapRestore (p : Nat) (s : State) : State :=
  let k := (ptnAt s p).sel
  let at_ := (ptnAt s p).snapAt
  let s0 := s
  let s := foldS (fun (e : Nat × Nat) s =>
    match at_.find? (fun r => r.1 = e.1) with
    | some (_, d) => restoreCore e.2 (snapTab s0 d k) (fun m => planesAt s0 d k m) s
    | none => s) (ptnCores s p) s
  setPtnSeq p (BitVec.ofNat 64 (tabNum (precTab s p k) 0 8)) (updPtn p (fun x => { x with barsLeft := true }) s)

/-- Barrier generations are restored from the partition record once no core still loads its script (R148 step 5). -/
def barsGo (p : Nat) (s : State) : State :=
  let x := ptnAt s p
  if x.barsLeft ∧ x.domain.all (fun c => !(coreAt s c).loading) then
    restoreBars p (some (precTab s p x.sel)) (setPtn p { x with barsLeft := false } s)
  else s

/-! ### Script images (R173–R177) -/

/-- Unit number of a core's script loader. -/
abbrev imgUnit (c : Nat) : Nat := 64 + c

/-- RES of an image header. -/
def imgRes (j : UnitJob) : Nat := tabNum j.buf 4 2

/-- The checks of R174 on the header. -/
def imgHeaderOk (s : State) (c : Nat) (j : UnitJob) : Bool :=
  let t := j.buf
  decide (tabNum t 0 2 = 1) && decide (some (tabNum t 2 1) = runsAs s c) && decide (tabNum t 3 1 = 0) && decide (1 ≤ imgRes j) &&
    decide (imgRes j ≤ 4096) && decide (tabNum t 6 2 < imgRes j) && decide (tabNum t 0xC 4 = 0) && decide (tabNum t 0x18 36 = 0) &&
    decide (tabNum t 0x3C 4 = crcOf (Tab.slice 0 t 0 60))

/-- The header has been read: the resident syllables are read next, if it passes. Stage 2: nothing more is read. -/
def imgStep (c : Nat) (s : State) : State :=
  match unitJob s (imgUnit c) with
  | some j =>
    if j.stage = 0 ∧ j.left = 0 then
      if j.bad ∨ !imgHeaderOk s c j then updUnit (imgUnit c) (fun j => { j with stage := 2 }) s
      else
        unitRead (imgUnit c) c 64 (((getQ s (Pg.cor c) R.COR_SCRIPT_ADDR_LO).toNat + 64) % 2 ^ 64) (32 * imgRes j)
          (updUnit (imgUnit c) (fun j => { j with stage := 1 }) s)
    else s
  | none => s

/-- A core begins to load its script image with its move engine 0 (R173, R175). -/
def imgStart (c : Nat) (s : State) : State :=
  let s := unitOpen (imgUnit c) 0 (updCore c (fun x => { x with loading := true }) s)
  imgStep c (unitRead (imgUnit c) c 0 (getQ s (Pg.cor c) R.COR_SCRIPT_ADDR_LO).toNat 64 s)

/-- The start of the core's partition may go on: time is valid and SEQ runs (R124), every row is fixed (R708), and no clock change
holds it (R779). -/
def startOpen (s : State) (c : Nat) : Bool :=
  match ptnOfSite s c with
  | some p => ticksRun s && allPlaced s p && !(ptnAt s p).clockWait
  | none => true

/-- The core's partition is in Starting and loads: a load that ABORT, STOP or a fault has ended is installed no more (R80). -/
def loadsScript (s : State) (c : Nat) : Bool :=
  match ptnOfSite s c with
  | some p => decide (bstate s (Pg.ptn p) = B.starting) && (match (ptnAt s p).phase with | .loading _ => true | _ => false)
  | none => false

/-- SCRIPT_LOAD_DONE: the image is checked and becomes the resident region, or the core records LOAD (R172, R174). -/
def scriptLoadOp (c : Nat) (s : State) : State :=
  match unitJob s (imgUnit c) with
  | some j =>
    if (coreAt s c).loading ∧ j.left = 0 ∧ j.stage ≠ 0 ∧ loadsScript s c ∧ startOpen s c then
      let res := imgRes j
      let body := Tab.slice 0 j.buf 64 (32 * res)
      let s := unitClose (imgUnit c) (updCore c (fun x => { x with loading := false }) s)
      if j.stage = 2 ∨ j.bad ∨ !imgHeaderOk s c j ∨ tabNum j.buf 8 4 ≠ crcOf body then coreFault c 5 s
      else
        let script := (List.range res).foldl (fun (t : Tab Syllable) k => Tab.store 0 t k (syllableOf ((body.drop (32 * k)).take 32))) []
        let fresh0 := match ptnOfSite s c with
          | some p => (match (ptnAt s p).phase with | .loading r => !r && !ptnResume s p | _ => false)
          | none => false
        let s := updCore c (fun x => { x with script := script, res := res, entry := tabNum j.buf 6 2, valid := [], loaded := true,
                                              pos := if fresh0 then tabNum j.buf 6 2 else x.pos }) s
        match ptnOfSite s c with | some p => barsGo p s | none => s
    else s
  | none => s

/-- Loads of a partition's cores are given up. -/
def ptnCancel (p : Nat) (s : State) : State :=
  foldS (fun c s => unitClose (imgUnit c) (updCore c (fun x => { x with loading := false }) s)) (ptnSites s p) s

/-! ### START of a partition (R118–R124) -/

/-- A START that its checks refuse: CONFIG is recorded, and a page that does not enter Faulted returns to Stopped (R868). -/
def startRefused (pg cause : Nat) (s : State) : State :=
  let s := fault pg cause s
  if bstate s pg = B.starting then setBState pg B.stopped s else s

/-- An enabled barrier of the partition names a logical core outside its mask (R466). -/
def barsOutside (s : State) (p : Nat) : Bool := (ptnBars s p).any (fun b => decide (barMask s b &&& ptnMask s p ≠ barMask s b))

/-- START records CONFIG (R118, R120, R122, R466). -/
def ptnConfigBad (s : State) (p : Nat) : Bool :=
  let mult := ptnMult s p
  let mask := ptnMask s p
  let others := (List.range nPtns).any (fun r => r ≠ p && ptnActive s r && decide (ptnMask s r &&& mask ≠ 0))
  decide (mult = 0) || decide (256 < mult) || decide (mult ≤ ptnAlign s p) || decide (solPeriod s ≤ ptnPhase s p) || decide (1000000000 < solLen s p) ||
    decide (solLen s p < 2 * solGuard s) || decide (mask = 0) || others || barsOutside s p ||
    (ptnLogicals s p).any (fun n => rowFixed s (rowOf (homeSite s n)) && (siteOf s n).isNone) ||
    (ptnResume s p && (!snapValid s p || !maskSame s p || !recordsOk s p))

/-- Every core of the mask has its site: scripts load; with RESUME = 1 the committed snapshot is restored, else the cores are cleared. -/
def ptnBegin (p : Nat) (s : State) : State :=
  let s := updPtn p (fun x => { x with domain := ptnSites s p }) s
  let s := if ptnResume s p then snapRestore p s
    else setPtnSeq p 0 (restoreBars p none (foldS (fun (e : Nat × Nat) => clearCore e.2) (ptnCores s p) s))
  barsGo p (foldS (fun (e : Nat × Nat) => imgStart e.2) (ptnCores s p) s)

/-- START accepted. The partition waits in Starting while the row of one of its cores is not fixed (R708). -/
def ptnStart (p : Nat) (s : State) : State :=
  let s := setR (Pg.ptn p) R.PTN_MIN_SLACK 0x3FFFFFFF s
  let wait := spansSeam s p && changeBusy s
  let s := updPtn p (fun x => { x with phase := .loading false, stopWait := false, deferred := 0, pendFault := 0, skid := none, clockWait := wait, barsLeft := false }) s
  if allPlaced s p then ptnBegin p s else s

/-- A core of the mask runs on a reserve (R164). -/
def ptnDegraded (s : State) (p : Nat) : Bool := (ptnSites s p).any (fun c => kindOfSite c = 3)

/-- The partition can leave Starting (R121, R124, R488, R779). -/
def ptnReady (s : State) (p : Nat) : Bool :=
  ticksRun s && allPlaced s p && (ptnSites s p).all (fun c => !(coreAt s c).loading) && !(ptnAt s p).barsLeft && !(ptnAt s p).clockWait &&
    (ptnBars s p).all (fun b => decide ((barAt s b).st = 1))

/-- The partition enters Running with an initial snapshot of its starting state (R121, R123, R148, R150). -/
def ptnRunning (p : Nat) (s : State) : State :=
  match (ptnAt s p).phase with
  | .loading replay =>
    if bstate s (Pg.ptn p) = B.starting ∧ ptnReady s p then
      let since := s.time.toNat + (if replay then 0 else 1000)
      let s := setBState (Pg.ptn p) B.running s
      let s := setDegraded (Pg.ptn p) (ptnDegraded s p) { s with redDead := s.redDead.filter (· ≠ p) }
      let s := foldS (fun c s => vecClear c (updCore c (fun x => { x with valid := [] }) s)) (ptnAt s p).domain s
      let s := updPtn p (fun x => { x with phase := .armed, since := BitVec.ofNat 64 since }) s
      let s := snapCommit p (ptnSeq s p) (nextTick s p since) s
      let s := if replay then setF (Pg.ptn p) R.PTN_ACTION_STATUS 0 3 1 s
        else setR (Pg.ptn p) R.PTN_AUTO_LEFT (BitVec.ofNat 32 (getF s (Pg.ptn p) R.PTN_CFG 8 8)) s
      trace 0 (Pg.ptn p) s
    else s
  | _ => s

/-! ### The tick (R117, R133) -/

/-- One core at the tick: it resumes; overlay valid bits, vector registers, fences and combiners clear (R178, R275, R314, R323). -/
def coreTick (c : Nat) (s : State) : State :=
  let s := updCore c (fun x => { x with steps := 0, ended := false, parked := false, valid := [], squash := 0, xrd := [], claims := [], denied := 0 }) s
  let s := vecClear c s
  let s := foldS (fun m s =>
    let s := combClose c m s
    updArr c m (fun x => { x with fence := 0, mismatch := false, serial := 0, ahead := 0, feed := 0, loads := [], strs := [],
                                  p0 := { x.p0 with validAt := 0, lastWr := 0 }, p1 := { x.p1 with validAt := 0, lastWr := 0 } }) s)
    [false, true] s
  let s := foldS (fun e s => setMover c e { moverAt s c e with serial := 0 } s) [false, true] s
  setGth c { gthAt s c with serial := 0 } s

/-- PARTITION_TICK. -/
def ptnTickOp (p j : Nat) (s : State) : State :=
  let x := ptnAt s p
  let t := tickTime s p j
  let st := bstate s (Pg.ptn p)
  if ticksRun s ∧ (st = B.running ∨ st = B.stopping) ∧ ((x.phase = .waiting ∧ x.tickAt.toNat < t) ∨ (x.phase = .armed ∧ x.since.toNat ≤ t)) then
    let s := timeTo (BitVec.ofNat 64 t) s
    let s := foldS coreTick x.domain (tagsDrop p s)
    updPtn p (fun x => { x with phase := .sol, tickAt := BitVec.ofNat 64 t, tick := j, skid := none, slow := ptnSlowNow s p, leavenDies := [],
                                digest := 0, digN := 0 }) s
  else s

/-! ### End point and commit (R127–R138, R141, R150, R151, R268) -/

/-- No operation of the partition's cores is outstanding (R127, R478). -/
def ptnQuiet (s : State) (p : Nat) : Bool :=
  (ptnCores s p).all (fun e =>
    s.ops.all (fun o => o.ep ≠ e.2) && s.opWait.all (fun o => o.1.ep ≠ e.2) &&
    [false, true].all (fun m => (moverAt s e.2 m).queue.isEmpty && (moverAt s e.2 m).jobs.isEmpty) &&
    (gthAt s e.2).queue.isEmpty && (gthAt s e.2).groups.isEmpty)

def noArrivals (s : State) (p : Nat) : Bool :=
  s.bars.all (fun b => b.2.open_.all (fun a => !((ptnMask s p).testBit a.1)) || !(barEn s b.1 && decide (barPtn s b.1 = p)))

/-- Every core has executed SOL_END and every operation has ended. -/
def atEndPoint (s : State) (p : Nat) : Bool :=
  (ptnAt s p).domain.all (fun c => (coreAt s c).parked) && ptnQuiet s p && noArrivals s p

/-- Arrays of the partition count consecutive Sols with a mismatch; at the limit they record HARD. A Sol without one sets the count to
0 if it reached its end point (R268). -/
def hardRuns (reached : Bool) (p : Nat) (s : State) : State :=
  foldS (fun (e : Nat × Bool) s =>
    let pg := mPg e.1 e.2
    if (arrAt s e.1 e.2).mismatch then
      let n := Nat.min 15 (getF s pg R.MXA_HARD_RUN 0 4 + 1)
      let lim := getF s pg R.MXA_HARD_LIMIT 0 4
      let s := setR pg R.MXA_HARD_RUN (BitVec.ofNat 32 n) s
      if lim ≠ 0 ∧ lim ≤ n then fault pg 14 s else s
    else if reached then setR pg R.MXA_HARD_RUN 0 s
    else s)
    (((ptnAt s p).domain.filter (usesArr s)).map (fun c => [(c, false), (c, true)])).flatten s

/-- At the end point of a Sol. -/
def hardCount (p : Nat) (s : State) : State := hardRuns true p s

/-- Why a REPLAY is refused (R147): 2 state or SELFTEST, 3 no snapshot, 4 mask, record or placement; 0 accepted. -/
def replayRefusal (s : State) (p : Nat) : Nat :=
  let pg := Pg.ptn p
  if bstate s pg ≠ B.faulted ∨ bit (getR s pg R.HDR_FAULT) 0 then 2
  else if !snapValid s p then 3
  else if !maskSame s p ∨ !recordsOk s p ∨ !allPlaced s p then 4
  else 0

/-- A REPLAY accepted (R148); a barrier that names a core outside the mask refuses it with CONFIG (R466). DESIGN CHOICE, where R161
is silent: such a refused REPLAY counts in PTN_REPLAYS and SEQ_REPLAYS, since R147 accepted it; PTN_ACTION_STATUS keeps BUSY 0 and
RESULT 0 while a REPLAY runs and shows RESULT 1 from the entry to Running, so that a REPLAY which faults in Starting leaves 0. -/
def replayStart (p : Nat) (s : State) : State :=
  let pg := Pg.ptn p
  let s := setBState pg B.starting (setR pg R.HDR_FAULT 0 s)
  let s := satR Pg.seq R.SEQ_REPLAYS 1 (satR pg R.PTN_REPLAYS 1 s)
  if barsOutside s p then startRefused pg PC.config (updPtn p (fun x => { x with phase := .idle, deferred := 0, pendFault := 0 }) s)
  else
  let wait := spansSeam s p && changeBusy s
  let dom := ptnSites s p
  let s := updPtn p (fun x =>
    { x with phase := .loading true, stopWait := false, deferred := 0, pendFault := 0, skid := none, clockWait := wait,
             leavenDies := [], domain := dom }) s
  let s := setF pg R.PTN_ACTION_STATUS 0 3 0 s
  let s := snapRestore p s
  let s := barsGo p (foldS (fun (e : Nat × Nat) s => if (coreAt s e.2).loading then imgStart e.2 s else s) (ptnCores s p) s)
  trace 3 pg s

/-- REPLAY, as PTN_ACTION asks. -/
def replayOp (p : Nat) (s : State) : State :=
  match replayRefusal s p with
  | 0 => replayStart p s
  | r => setF (Pg.ptn p) R.PTN_ACTION_STATUS 0 3 r s

/-- Deferred causes are taken: the Sol does not commit; where every one of them may be replayed automatically and a replay is
left, one starts (R141, R150). REPLAY_LIMIT is recorded with them where no replay is left (R151). `atEnd`: this is the end point, where
the arrays count the Sol (R268). A cause that the Sol's end brings beside them, such as CORE from an array's HARD, forbids the automatic
replay; causes recorded earlier do not. DESIGN CHOICE: a STOP that waits when an automatic replay starts is forgotten, where R125 names
only the next Sol commit; the partition returns to Running. -/
def takeDeferred (atEnd : Bool) (p : Nat) (s : State) : State :=
  let pg := Pg.ptn p
  let bits := (ptnAt s p).deferred
  let auto := bit (getR s pg R.PTN_CFG) 0 && decide (bits &&& (getN s pg R.PTN_AUTO_MASK &&& deferredMask) = bits)
  let left := getF s pg R.PTN_AUTO_LEFT 0 8
  let before := getN s pg R.HDR_FAULT
  let s := raise (.page pg (bits + limitBit s p)) (updPtn p (fun x => { x with deferred := 0 }) s)
  let s := if atEnd then hardCount p s else s
  if auto ∧ left ≠ 0 ∧ getN s pg R.HDR_FAULT ||| (before ||| bits) = before ||| bits ∧ replayRefusal s p = 0 then
    replayStart p (setR pg R.PTN_AUTO_LEFT (BitVec.ofNat 32 (left - 1)) s)
  else s

/-- SOL_END_POINT. After the deadline there is one only where OVERRUN is disabled, so that the late Sol was not stopped (R70, R144). -/
def endPointOp (p : Nat) (now : DWord) (s : State) : State :=
  let x := ptnAt s p
  if x.phase = .sol ∧ atEndPoint s p ∧ x.tickAt ≤ now ∧ (now.toNat ≤ deadline s p ∨ bit (getR s (Pg.ptn p) R.HDR_FAULT_EN) PC.overrun = false) then
    let s := timeTo now s
    let slack := deadline s p - now.toNat
    let s := if slack < getN s (Pg.ptn p) R.PTN_MIN_SLACK then setR (Pg.ptn p) R.PTN_MIN_SLACK (BitVec.ofNat 32 slack) s else s
    let s := updPtn p (fun x => { x with endAt := now }) s
    if x.deferred ≠ 0 then takeDeferred true p s
    else
      let s := snapCopy p (ptnSeq s p + 1) (x.tickAt.toNat + solLen s p) (updPtn p (fun x => { x with phase := .copying }) s)
      hardCount p s
  else s

/-! ### What a commit sends to the twin (R734, R740–R742) -/

/-- The dump image of R139: the partition record, then the per-core records in ascending logical order. -/
def dumpImage (s : State) (p : Nat) : List Byte :=
  let x := ptnAt s p
  Tab.slice 0 (precTab s p x.sel) 0 512 ++ (x.snapAt.map (fun e => Tab.slice 0 (snapTab s e.2 x.sel) 0 8192)).flatten

/-- A plane save as bytes (R733). -/
def planeBytes (l : List Plane) : List Byte :=
  ((List.range 2).map (fun k => match l[k]? with
    | some y => bytesOf 2048 y.wts.toNat ++ bytesOf 128 y.scales.toNat
    | none => bytesOf 2176 0)).flatten

/-- Pieces of at most 1,024 bytes: offset and bytes. -/
def kibs (bs : List Byte) : List (Nat × List Byte) :=
  (List.range ((bs.length + 1023) / 1024)).map (fun k => (1024 * k, (bs.drop (1024 * k)).take 1024))

/-- TWN_CARRY ranges that a core of a kind matches: offset and length in bytes. -/
def carryRanges (s : State) (kind : Nat) : List (Nat × Nat) :=
  (List.range 4).filterMap (fun k =>
    let v := getR s Pg.twn (R.TWN_CARRY0 + 4 * k)
    if bit v 31 ∧ fld v 29 2 = kind then some (fld v 13 12 * 1024, fld v 0 13 * 1024) else none)

/-- The enabled rings of a partition, ascending. -/
def enabledRings (s : State) (p : Nat) : List Nat :=
  ((List.range 256).map (fun d =>
    ((List.range 8).map (fun w =>
      (bitsSet 32 (getN s (Pg.dbl d) (if w < 4 then R.DBL_ENABLE0 + 4 * w else R.DBL_ENABLE4 + 4 * (w - 4)))).map (fun i => 256 * d + 32 * w + i))).flatten)).flatten.filter
    (fun r => decide ((ringDesc s r).ptn = p))

/-- Shipment `q` of partition `p`: SNAP, PLANE, CARRY and RING. DONE follows at SHIPMENT_DONE. -/
def shipment (p : Nat) (q : DWord) (s : State) : State :=
  let s := foldS (fun (e : Nat × List Byte) => shipSend 2 p q (BitVec.ofNat 64 e.1) e.2) (kibs (dumpImage s p)) s
  let x := ptnAt s p
  let s := foldS (fun (e : Nat × Nat) s =>
    if usesArr s e.2 then
      foldS (fun m s => foldS (fun (k : Nat × List Byte) => shipSend 3 p q (BitVec.ofNat 64 (k.1 * 65536 + b2n m * 256 + e.1)) k.2)
        (kibs (planeBytes (planesAt s e.2 x.sel m))) s) [false, true] s
    else s) x.snapAt s
  let s := foldS (fun (e : Nat × Nat) s =>
    foldS (fun (r : Nat × Nat) s =>
      let y := coreAt s e.2
      foldS (fun (k : Nat × List Byte) => shipSend 4 p q (BitVec.ofNat 64 ((r.1 + k.1) * 256 + e.1)) k.2) (kibs (spadBytes y 2 y.steps r.1 r.2)) s)
      (carryRanges s ((runsAs s e.2).getD 3)) s) (ptnCores s p) s
  let s := foldS (fun r s =>
    let d := ringDesc s r
    shipSend 6 p q (BitVec.ofNat 64 r) (bytesOf 4 d.prod ++ bytesOf 4 d.cons) s) (enabledRings s p) s
  { s with twn := { s.twn with doneWait := s.twn.doneWait ++ [(p, q)] } }

/-- TWN_PSEQ of a partition. -/
def setPseq (p : Nat) (q : DWord) (s : State) : State := { s with twn := { s.twn with pseq := Tab.store 0 s.twn.pseq p q } }

/-- Both digests of a Sol are there: they agree, or the partition has diverged (R741). -/
def digestCheck (p : Nat) (q : DWord) (s : State) : State :=
  match s.twn.mine.find? (fun e => e.1 = p ∧ e.2.1 = q), s.twn.theirs.find? (fun e => e.1 = p ∧ e.2.1 = q) with
  | some a, some b =>
    let drop := fun (l : List (Nat × DWord × DWord × DWord)) => l.filter (fun e => ¬ (e.1 = p ∧ e.2.1 = q))
    let s := { s with twn := { s.twn with mine := drop s.twn.mine, theirs := drop s.twn.theirs } }
    if a.2.2 = b.2.2 then (if bit (getR s Pg.twn R.TWN_DIVERGED) p then s else setPseq p q s)
    else namedAlarm Pg.twn 3 (setR Pg.twn R.TWN_DIVERGED (setBit (getR s Pg.twn R.TWN_DIVERGED) p true) s)
  | _, _ => s

/-- What the commit that ends Sol `q` of partition `p` tells the twin. -/
def twinCommit (p : Nat) (q : DWord) (s : State) : State :=
  let s := if ships s p then shipment p q s else s
  let s :=
    if twnMode s = 2 ∧ twnPtn s p ∧ runs s Pg.twn then
      let x := ptnAt s p
      if twnUp s then
        let s := twinSend 9 p q x.digN (bytesOf 8 x.digest.toNat) s
        digestCheck p q { s with twn := { s.twn with mine := s.twn.mine ++ [(p, q, x.digN, x.digest)] } }
      else if pstate s = 6 then setPseq p q s else s
    else s
  let owed := s.twn.owed.filter (· ≠ p)
  { s with twn := { s.twn with owed := owed, forwarding := s.twn.forwarding && !(owed = [] && s.twn.owed ≠ []) } }

/-- A partition enters Stopped (R125, R616). -/
def ptnStopped (p : Nat) (s : State) : State :=
  ringStopped p (setBState (Pg.ptn p) B.stopped (updPtn p (fun x => { x with phase := .idle, stopWait := false, clockWait := false }) s))

/-- SOL_COMMIT (R130, R138): a parity error in the copy records SNAPSHOT and nothing commits; a deferred cause recorded since
the end point keeps the Sol from committing (R134). -/
def commitOp (p : Nat) (bad : Bool) (s : State) : State :=
  let x := ptnAt s p
  let pg := Pg.ptn p
  if x.phase = .copying then
    if bad then
      let s := fault pg PC.snapshot s
      if bstate s pg = B.faulted then s else updPtn p (fun x => { x with phase := .waiting }) (lvnNotices false p (retryRings (ringDiscard p s)))
    else if x.deferred ≠ 0 then takeDeferred false p s
    else
      let q := ptnSeq s p
      let s := snapFlip p s
      let s := retryRings (ringCommit p s)
      let s := lvnNotices true p s
      let s := setPtnSeq p (q + 1) s
      let s := setR pg R.PTN_LAST_END (BitVec.ofNat 32 (x.endAt - x.tickAt).toNat) s
      let s := setR pg R.PTN_AUTO_LEFT (BitVec.ofNat 32 (getF s pg R.PTN_CFG 8 8)) s
      let s := trace 0 pg (twinCommit p q s)
      if x.stopWait then ptnStopped p s else updPtn p (fun x => { x with phase := .waiting }) s
  else s

/-! ### Overrun and faults (R142–R146) -/

/-- SOL_OVERRUN: OVERRUN, with CLOCK where a half was slow, and the partition stops as for an immediate cause. -/
def overrunOp (p : Nat) (s : State) : State :=
  let x := ptnAt s p
  if x.phase = .sol then
    let pg := Pg.ptn p
    let s := timeTo (BitVec.ofNat 64 (deadline s p)) s
    let late := (x.domain.filter (fun c => !(coreAt s c).parked)).length
    let out := (x.domain.map (coreOps s)).foldl (· + ·) 0
    let s := setR pg R.PTN_OVR (BitVec.ofNat 32 (Nat.min 65535 out * 65536 + late % 128)) s
    let s := satR Pg.seq R.SEQ_OVERRUNS 1 s
    let s := ptnFault p PC.overrun s
    if x.slow then ptnFault p PC.clock s else s
  else s

/-- PARTITION_FAULTED: the last outstanding operation has ended (R142). What the units hold is performed where it can be, with the work
that follows from it, and the rest is discarded (R226). Causes deferred earlier in the Sol are recorded too (R69). -/
def ptnFaultedOp (p : Nat) (s : State) : State :=
  let x := ptnAt s p
  if x.phase = .draining ∧ ptnQuiet s p then
    let s := foldS drainCore x.domain (ptnDropHeld p (heldPass false p s))
    if ptnQuiet s p then
      redSettle (retryRings (raise (.page (Pg.ptn p) (x.pendFault ||| x.deferred)) (hardRuns false p s)))
    else s
  else s

/-! ### DUMP and LOAD (R139, R140) -/

/-- PTN_ACTION_STATUS: BUSY and RESULT. -/
def actionDone (p result : Nat) (s : State) : State := setR (Pg.ptn p) R.PTN_ACTION_STATUS (BitVec.ofNat 32 result) s

/-- A DUMP or LOAD under way is given up, as ABORT asks (R80): RESULT 5. -/
def actionCancel (p : Nat) (s : State) : State := if (unitJob s p).isSome then actionDone p 5 (unitClose p s) else s

/-- A DUMP whose writes have all ended. -/
def dumpSettle (p : Nat) (s : State) : State :=
  match unitJob s p with
  | some j => if j.stage = 0 ∧ j.left = 0 then actionDone p (if j.bad then 5 else 1) (unitClose p s) else s
  | none => s

/-- DUMP. DESIGN CHOICE, where R161 is silent: an action written while a DUMP or LOAD is BUSY starts no second DUMP or LOAD and leaves the
status as it is; a REPLAY goes on beside it. -/
def dumpOp (p : Nat) (s : State) : State :=
  if (unitJob s p).isSome then s
  else if !snapValid s p then actionDone p 3 s
  else
    let s := setR (Pg.ptn p) R.PTN_ACTION_STATUS 0x80000000 (unitOpen p 0 s)
    dumpSettle p (unitWrite p unitEp (getQ s (Pg.ptn p) R.PTN_DUMP_ADDR_LO).toNat (dumpImage s p) s)

/-- Per-core record `k` of a dump in a unit's buffer. -/
def dumpRec (j : UnitJob) (k : Nat) : Tab Byte := tabOf (Tab.slice 0 j.buf (512 + 8192 * k) 8192)

/-- The outcome of the checks of R140 on a dump: RESULT. -/
def loadCheck (s : State) (p : Nat) (j : UnitJob) : Nat :=
  let ns := ptnLogicals s p
  let t := j.buf
  if j.bad ∨ !crcOk t 512 then 5
  else if tabNum t 0x10 16 ≠ ptnMask s p ∨ tabNum t 0x20 4 ≠ ns.length then 4
  else
    (ns.zipIdx).foldl (fun r e =>
      if r ≠ 1 then r
      else
        let c := dumpRec j e.2
        if !crcOk c 8192 then 5
        else if tabNum c 8 2 ≠ e.1 ∨ tabNum c 0 8 ≠ tabNum t 0 8 ∨ tabNum c 0xC 1 ≠ kindOfLogical s e.1 then 4 else 1) 1

/-- A LOAD that has read everything: the dump becomes the committed snapshot, or is refused. Stage 1: the partition record is
being read; stage 2: the per-core records. -/
def loadSettle (p : Nat) (s : State) : State :=
  match unitJob s p with
  | some j =>
    if j.left ≠ 0 then s
    else if j.stage = 1 then
      if j.bad ∨ !crcOk j.buf 512 then actionDone p 5 (unitClose p s)
      else if tabNum j.buf 0x10 16 ≠ ptnMask s p ∨ tabNum j.buf 0x20 4 ≠ (ptnLogicals s p).length then actionDone p 4 (unitClose p s)
      else
        unitRead p unitEp 512 (((getQ s (Pg.ptn p) R.PTN_DUMP_ADDR_LO).toNat + 512) % 2 ^ 64) (8192 * (ptnLogicals s p).length)
          (updUnit p (fun j => { j with stage := 2 }) s)
    else if j.stage = 2 then
      let r := loadCheck s p j
      let s := unitClose p s
      if r ≠ 1 then actionDone p r s
      else
        let k := !(ptnAt s p).sel
        let at_ := (ptnLogicals s p).map (fun n => (n, (siteOf s n).getD (homeSite s n)))
        let s := foldS (fun (e : (Nat × Nat) × Nat) s =>
          let s := putSnap e.1.2 k (dumpRec j e.2) s
          foldS (fun m s => planesDrop e.1.2 m (putPlanes e.1.2 k m [] s)) [false, true] s) (at_.zipIdx) s
        let s := putPrec p k (tabOf (Tab.slice 0 j.buf 0 512)) s
        let s := setF (Pg.ptn p) R.PTN_SNAP_STATUS 31 1 1 (updPtn p (fun x => { x with sel := k, snapAt := at_ }) s)
        actionDone p 1 (setPtnSeq p (BitVec.ofNat 64 (tabNum j.buf 0 8)) s)
    else s
  | none => s

/-- LOAD, only in Stopped. -/
def loadOp (p : Nat) (s : State) : State :=
  if (unitJob s p).isSome then s
  else if bstate s (Pg.ptn p) ≠ B.stopped then actionDone p 2 s
  else
    let s := setR (Pg.ptn p) R.PTN_ACTION_STATUS 0x80000000 (unitOpen p 1 s)
    loadSettle p (loadSettle p (unitRead p unitEp 0 (getQ s (Pg.ptn p) R.PTN_DUMP_ADDR_LO).toNat 512 s))

/-- SEQ_SOL_PERIOD or SEQ_SOL_GUARD out of range (R160). -/
def seqConfigBad (s : State) : Bool :=
  decide (solPeriod s < 10000) || decide (16700000 < solPeriod s) || decide (solGuard s < 500) || decide (100000 < solGuard s)

/-! ### The commands -/

/-- TIME. -/
def execTime (v : DWord) (s : State) : Host.Outcome State Fault Refusal := act s (timeOp v s)

/-- HOLDOVER. -/
def execHoldover (s : State) : Host.Outcome State Fault Refusal := act s (holdoverOp s)

/-- TIME_LOST. -/
def execTimeLost (s : State) : Host.Outcome State Fault Refusal := act s (timeLostOp s)

/-- PACKAGE_TICK. -/
def execPackageTick (k : Nat) (s : State) : Host.Outcome State Fault Refusal := act s (packageTickOp k s)

/-- PARTITION_TICK. -/
def execPartitionTick (p j : Nat) (s : State) : Host.Outcome State Fault Refusal := onUnit p nPtns (ptnTickOp p j) s

/-- SOL_END_POINT. -/
def execSolEndPoint (p : Nat) (now : DWord) (s : State) : Host.Outcome State Fault Refusal := onUnit p nPtns (endPointOp p now) s

/-- SOL_COMMIT. -/
def execSolCommit (p : Nat) (bad : Bool) (s : State) : Host.Outcome State Fault Refusal := onUnit p nPtns (commitOp p bad) s

/-- SOL_OVERRUN. -/
def execSolOverrun (p : Nat) (s : State) : Host.Outcome State Fault Refusal := onUnit p nPtns (overrunOp p) s

/-- PARTITION_FAULTED. -/
def execPartitionFaulted (p : Nat) (s : State) : Host.Outcome State Fault Refusal := onUnit p nPtns (ptnFaultedOp p) s

/-- REPLAY. -/
def execReplay (p : Nat) (s : State) : Host.Outcome State Fault Refusal := onUnit p nPtns (replayOp p) s

/-- REPLAY_RESTORE_DONE. -/
def execReplayRestoreDone (p : Nat) (s : State) : Host.Outcome State Fault Refusal := onUnit p nPtns (ptnRunning p) s

/-- DUMP. -/
def execDump (p : Nat) (s : State) : Host.Outcome State Fault Refusal := onUnit p nPtns (dumpOp p) s

/-- LOAD. -/
def execLoad (p : Nat) (s : State) : Host.Outcome State Fault Refusal := onUnit p nPtns (loadOp p) s

/-- SCRIPT_LOAD_DONE. -/
def execScriptLoadDone (c : Nat) (s : State) : Host.Outcome State Fault Refusal := onUnit c nSites (scriptLoadOp c) s

end Sys2Proof.Machine
end

