-- ==== Sys2Proof/Machine/Twin.lean ====
section
/-! DEFINITION. The twin unit (R727–R759): pairing, the shipments that a standby stages and applies, lockstep digests, loss of the
peer, TAKE, and the SILVER and FOSTER copies. What a commit and a write send stands in Machine/Sol.lean and
Machine/TwinBase.lean. -/

namespace Sys2Proof.Machine

def updTwn (f : Twn → Twn) (s : State) : State := { s with twn := f s.twn }

/-- TWN_CFG.PTNS. -/
def twnPtns (s : State) : Nat := getF s Pg.twn R.TWN_CFG 16 16

/-- PSTATE with DEGRADED, which stands while the pair is STALE or PEER_LOST. -/
def enterPstate (v : Nat) (s : State) : State := setDegraded Pg.twn (decide (v = 5) || decide (v = 6)) (setPstate v s)

/-- The pair becomes STALE: one LAG alarm; it applies no further shipment until a resilver completes (R739). -/
def markStale (s : State) : State :=
  if s.twn.stale then s
  else
    let s := updTwn (fun t => { t with stale := true }) s
    let s := if pstate s = 6 then s else enterPstate 5 s
    namedAlarm Pg.twn 2 s

/-! ### Pairing (R727–R731) -/

/-- TWN_STAGE: address and length in bytes. -/
def stageAddr (s : State) : Nat := getN s Pg.twn R.TWN_STAGE_LO + getF s Pg.twn R.TWN_STAGE_HI 0 16 * 2 ^ 32
def stageBytes (s : State) : Nat := getF s Pg.twn R.TWN_STAGE_MIB 0 15 * 1048576

/-- An enabled TWN_CARRY or TWN_MR register out of range. -/
def carryBad (s : State) (k : Nat) : Bool :=
  let v := getR s Pg.twn (R.TWN_CARRY0 + 4 * k)
  bit v 31 && (decide (fld v 29 2 = 3) || decide (fld v 0 13 = 0) || decide (4096 < fld v 0 13) ||
    decide (spadSize (fld v 29 2) < (fld v 13 12 + fld v 0 13) * 1024))
def mirrorBad (s : State) (r : Nat) : Bool :=
  let w0 := getR s Pg.twn (R.TWN_MR0 + 8 * r)
  bit w0 31 && decide (homeSize s < (fld w0 0 27 + fld (getR s Pg.twn (R.TWN_MR0 + 8 * r + 4)) 0 18 + 1) * 2097152)

/-- START records CONFIG (R728, R759). -/
def twnConfigBad (s : State) : Bool :=
  let mib := getF s Pg.twn R.TWN_STAGE_MIB 0 15
  let us := fun (v : Nat) => decide (v < 100) || decide (1000000 < v)
  !bit (getR s Pg.twn R.TWN_PEER) 31 || inPackage s (twnPeer s) || (portsIn s G.off).isEmpty ||
    !(decide (twnMode s = 1) || decide (twnMode s = 2)) || decide (stageAddr s % 2097152 ≠ 0) || decide (mib < 64) || decide (16384 < mib) ||
    decide (homeSize s < stageAddr s + stageBytes s) || us (getF s Pg.twn R.TWN_LOSS_US 0 20) || us (getF s Pg.twn R.TWN_DIGEST_US 0 20) ||
    (List.range 4).any (carryBad s) || (List.range 8).any (mirrorBad s)

/-- HELLO sent (R729). -/
def helloSend (s : State) : State :=
  twinSend 1 0 (BitVec.ofNat 64 (getN s Pg.twn R.TWN_EPOCH)) (BitVec.ofNat 64 (twnPtns s * 65536 + b2n (twnStandby s) * 4 + twnMode s)) [] s

/-- START accepted: a new pairing begins with a HELLO. -/
def twnStart (s : State) : State :=
  let s := updTwn (fun t => { Twn.init with pseq := t.pseq }) s
  helloSend (enterPstate 1 (setF Pg.twn R.TWN_STATUS 0 16 0 s))

/-- The page leaves Starting once the pair is formed. -/
def twnReady (s : State) : Bool := s.twn.formed

/-- STOP, ABORT or a fault ends the pair. -/
def twnStop (s : State) : State :=
  let s := updTwn (fun t => { Twn.init with pseq := t.pseq, action := t.action, moved := t.moved, actBad := t.actBad }) s
  enterPstate 0 (setF Pg.twn R.TWN_STATUS 0 16 0 s)

/-- HELLO captured. -/
def helloOp (epoch : Word) (ptns : Nat) (role : Bool) (mode : Nat) (s : State) : State :=
  if bstate s Pg.twn = B.starting ∧ !s.twn.formed ∧ pstate s = 1 then
    if epoch = getR s Pg.twn R.TWN_EPOCH ∧ ptns = twnPtns s ∧ mode = twnMode s ∧ role ≠ twnStandby s then
      enterPstate 3 (updTwn (fun t => { t with formed := true }) s)
    else fault Pg.twn 9 s
  else s

/-- HELLO_TIMER: a side whose peer has not been heard sends HELLO. -/
def helloTimerOp (s : State) : State :=
  if bstate s Pg.twn = B.starting ∧ !s.twn.formed ∧ pstate s = 1 then helloSend s else s

/-- BEAT_TIMER. -/
def beatTimerOp (s : State) : State := if twnUp s then twinSend 11 0 s.time 0 [] s else s

/-! ### TAKE (R749, R750) -/

/-- START of a Stopped partition. -/
def startPtn (p : Nat) (s : State) : State :=
  if bstate s (Pg.ptn p) = B.stopped then
    let s := setBState (Pg.ptn p) B.starting s
    if ptnConfigBad s p then startRefused (Pg.ptn p) PC.config s else ptnStart p s
  else s

/-- Every VALID ring of a partition is enabled. -/
def enableRings (p : Nat) (s : State) : State :=
  foldS (fun r s => let d := ringDesc s r; if d.valid ∧ d.ptn = p then ringEnableOp r s else s) (List.range 65536) s

/-- The partitions of a mask move to this side. -/
def takePtns (mask : Nat) (s : State) : State :=
  foldS (fun p s =>
    let s := updTwn (fun t => { t with staged := t.staged.filter (fun m => m.p ≠ p), lost := t.lost.filter (fun e => e.1 ≠ p),
                                       taken := t.taken.filter (· ≠ p) ++ [p] }) s
    enableRings p s) (bitsSet 16 mask) s

/-- TWN_ACTION_STATUS: BUSY, DONE and RESULT. -/
def twnBusy (s : State) : Bool := bit (getR s Pg.twn R.TWN_ACTION_STATUS) 31
def twnResult (busy done : Bool) (r : Nat) (s : State) : State :=
  setR Pg.twn R.TWN_ACTION_STATUS (BitVec.ofNat 32 (b2n busy * 2 ^ 31 + b2n done * 2 ^ 30 + r * 2 ^ 27)) s

/-- TAKE. -/
def takeOp (s : State) : State :=
  if twnBusy s then s
  else if !twnStandby s then twnResult false true 3 s
  else if !(runs s Pg.twn && (decide (pstate s = 4) || decide (pstate s = 6))) then twnResult false true 2 s
  else twnResult false true 1 (takePtns (getF s Pg.twn R.TWN_TAKE_MASK 0 16 &&& twnPtns s) s)

/-! ### Loss of the peer (R731, R747) -/

/-- The side declares PEER_LOST: one alarm; it stops sending and discards what it holds in part; with AUTO_TAKE a standby takes
all of PTNS and starts them. -/
def twinLost (s : State) : State :=
  if twnUp s then
    let s := updTwn (fun t => { t with staged := [], lost := [], forwarding := false, owed := [], doneWait := [], sent := [] }) s
    let s := namedAlarm Pg.twn 1 (enterPstate 6 s)
    if bit (getR s Pg.twn R.TWN_CFG) 3 ∧ twnStandby s then
      foldS startPtn (bitsSet 16 (twnPtns s)) (takePtns (twnPtns s) s)
    else s
  else s

/-! ### The standby's side of a shipment (R735–R737, R739) -/

/-- Bytes of the staging area in use. -/
def stagedBytes (s : State) : Nat := (s.twn.staged.map (fun m => if 4 ≤ m.kind then m.bytes.length else 0)).foldl (· + ·) 0

/-- A message of a shipment arrives at the standby: staged, or discarded with the rest of its shipment where the staging area
cannot hold it. -/
def stageMsg (m : ShipMsg) (s : State) : State :=
  if twnUp s ∧ twnStandby s then
    if s.twn.taken.contains m.p ∨ s.twn.lost.contains (m.p, m.q) then s
    else if 4 ≤ m.kind ∧ stageBytes s < stagedBytes s + m.bytes.length then
      markStale (updTwn (fun t => { t with lost := t.lost ++ [(m.p, m.q)], staged := t.staged.filter (fun x => ¬ (x.p = m.p ∧ x.q = m.q)) }) s)
    else updTwn (fun t => { t with staged := t.staged ++ [m] }) s
  else s

/-- Bytes written to homed memory by the twin unit; whether a slice serves every line. -/
def twinPut (a : Nat) (bs : List Byte) (s : State) : Bool × State :=
  (List.range ((bs.length + 127) / 128)).foldl (fun st k =>
    match homeOf st.2 (a + 128 * k) with
    | .ok h => (st.1, memPut (a + 128 * k) ((bs.drop (128 * k)).take 128) (clearUe h.key st.2))
    | .error _ => (false, st.2)) (true, s)

/-- Glaze of the block at an address. -/
def blockGlaze (a : Nat) (bs : List Byte) : Word := crc32c (glzSeed a) bs

/-- The dump image that the SNAP messages of a shipment hold. -/
def snapImage (ms : List ShipMsg) : Tab Byte :=
  (ms.filter (fun m => m.kind = 2)).foldl (fun t m => Tab.storeList 0 t m.whr.toNat m.bytes) []

/-- A plane save from bytes. -/
def planesOf (t : Tab Byte) : List Plane :=
  (List.range 2).map (fun k =>
    { Plane.init with valid := true, wts := BitVec.ofNat 16384 (tabNum t (2176 * k) 2048), scales := BitVec.ofNat 1024 (tabNum t (2176 * k + 2048) 128) })

/-- The plane save of array `m` of logical core `n` that the PLANE messages hold. -/
def planeImage (ms : List ShipMsg) (n : Nat) (m : Bool) : Tab Byte :=
  (ms.filter (fun x => x.kind = 3 ∧ x.whr.toNat % 256 = n ∧ x.whr.toNat.testBit 8 = m)).foldl
    (fun t x => Tab.storeList 0 t (x.whr.toNat / 65536 % 65536) x.bytes) []

/-- The checks of R736: 0 passes, 1 refused for the mask, 2 for count or Glaze. -/
def shipCheck (s : State) (p : Nat) (q : DWord) (count : Nat) (ms : List ShipMsg) : Nat :=
  if s.twn.taken.contains p ∨ bstate s (Pg.ptn p) ≠ B.stopped then 1
  else if s.twn.stale ∨ s.twn.lost.contains (p, q) ∨ ms.length + 1 ≠ count then 2
  else if ms.any (fun m => m.kind = 5 && (m.glaze != blockGlaze m.whr.toNat m.bytes)) then 2
  else if tabNum (snapImage ms) 0x10 16 ≠ ptnMask s p then 1
  else 0

/-- One staged BLOCK, CARRY or RING applied. -/
def shipApply (m : ShipMsg) (s : State) : State :=
  let w := m.whr.toNat
  match m.kind with
  | 4 =>
    match siteOf s (w % 256) with
    | some c => if w / 256 + m.bytes.length ≤ sizeOfSite s c then updCore c (fun x => spadPut x (w / 256 % 2 ^ 24) m.bytes) s else s
    | none => s
  | 5 => (twinPut w m.bytes s).2
  | _ => s

/-- PROD and CONS of a RING message written in the descriptor. -/
def ringApply (m : ShipMsg) (s : State) : State :=
  if m.kind = 6 then setRingWord m.whr.toNat 0x14 (numOf (m.bytes.drop 4)) (setRingWord m.whr.toNat 0x10 (numOf (m.bytes.take 4)) s) else s

/-- The snapshot and plane saves of a shipment become the committed ones. -/
def snapApply (p : Nat) (q : DWord) (ms : List ShipMsg) (s : State) : State :=
  let k := !(ptnAt s p).sel
  let img := snapImage ms
  let at_ := (ptnLogicals s p).map (fun n => (n, (siteOf s n).getD (homeSite s n)))
  let s := foldS (fun (e : (Nat × Nat) × Nat) s =>
    let s := putSnap e.1.2 k (tabOf (Tab.slice 0 img (512 + 8192 * e.2) 8192)) s
    foldS (fun m s => putPlanes e.1.2 k m (planesOf (planeImage ms e.1.1 m)) s) [false, true] s) (at_.zipIdx) s
  let s := putPrec p k (tabOf (Tab.slice 0 img 0 512)) s
  setF (Pg.ptn p) R.PTN_SNAP_STATUS 31 1 1 (setPtnSeq p (q + 1) (updPtn p (fun x => { x with sel := k, snapAt := at_ }) s))

/-- A partition is in sync after SILVERED; with the last one the pair becomes IN_SYNC (R755). -/
def syncBit (p : Nat) (s : State) : State :=
  if s.twn.silvered then
    let s := setR Pg.twn R.TWN_STATUS (setBit (getR s Pg.twn R.TWN_STATUS) p true) s
    if getF s Pg.twn R.TWN_STATUS 0 16 &&& twnPtns s = twnPtns s ∧ pstate s = 3 then namedAlarm Pg.twn 4 (enterPstate 4 s) else s
  else s

/-- DONE captured (R736): the shipment is applied and acknowledged, or refused. -/
def doneOp (p : Nat) (q : DWord) (count : Nat) (s : State) : State :=
  if twnUp s ∧ twnStandby s then
    let ms := s.twn.staged.filter (fun m => m.p = p ∧ m.q = q)
    let r := shipCheck s p q count ms
    let moved := s.twn.taken.contains p || decide (bstate s (Pg.ptn p) ≠ B.stopped)
    let s := updTwn (fun t => { t with staged := t.staged.filter (fun m => ¬ (m.p = p ∧ m.q = q)), lost := t.lost.filter (· ≠ (p, q)) }) s
    if r ≠ 0 then
      let s := twinSend 8 p q (BitVec.ofNat 64 r) [] s
      if moved then s else markStale s
    else
      let s := foldS shipApply ms s
      let s := foldS ringApply ms (snapApply p q ms s)
      let s := setPseq p q (twinSend 8 p q 0 [] s)
      syncBit p (wrapR Pg.twn R.TWN_SHIPS 1 s)
  else s

/-! ### The active's side (R734, R736, R741) -/

/-- Every slice has finished its Leaven batch for the notice of (p, q). -/
def batchesDone (s : State) (p : Nat) (q : DWord) : Bool :=
  s.slices.all (fun e => e.2.batches.all (fun b => b.recs.all (fun r =>
    r.origins.all (fun o => ¬ (o.1 = dieNum s ∧ o.2.1 = p ∧ o.2.2.1 = q)))))

/-- SHIPMENT_DONE: DONE leaves for the oldest shipment of the partition that waits. -/
def shipDoneOp (p : Nat) (s : State) : State :=
  match s.twn.doneWait.find? (fun e => e.1 = p) with
  | some (_, q) =>
    if twnUp s ∧ batchesDone s p q then
      let n := ((s.twn.sent.find? (fun e => e.1 = p ∧ e.2.1 = q)).map (fun e => e.2.2)).getD 0
      let s := twinSend 7 p q (BitVec.ofNat 64 (n + 1)) [] s
      let s := updTwn (fun t => { t with doneWait := t.doneWait.erase (p, q), sent := t.sent.filter (fun e => ¬ (e.1 = p ∧ e.2.1 = q)) }) s
      wrapR Pg.twn R.TWN_SHIPS 1 s
    else s
  | none => s

/-- ACK captured: a shipment acknowledged as applied. -/
def ackOp (p : Nat) (q : DWord) (code : DWord) (s : State) : State :=
  if twnUp s ∧ !twnStandby s ∧ code = 0 then syncBit p (setPseq p q s) else s

/-- DIGEST captured. -/
def digestOp (p : Nat) (q n d : DWord) (s : State) : State :=
  if twnUp s ∧ twnMode s = 2 ∧ twnPtn s p then
    digestCheck p q (updTwn (fun t => { t with theirs := t.theirs ++ [(p, q, n, d)] }) s)
  else s

/-- DIGEST_TIMEOUT: the oldest local digest of the partition still without its peer's. -/
def digestTimeoutOp (p : Nat) (s : State) : State :=
  match s.twn.mine.find? (fun e => e.1 = p ∧ !(s.twn.lagged.contains (p, e.2.1))) with
  | some e => if twnUp s then namedAlarm Pg.twn 2 (updTwn (fun t => { t with lagged := t.lagged ++ [(p, e.2.1)] }) s) else s
  | none => s

/-! ### SILVER (R754, R755) -/

/-- A SILVER message of the 1 KiB piece at a local address whose bytes lie at `key`. -/
def silverPiece (die a key : Nat) (s : State) : State :=
  let bs := dramBytes s key 1024
  let glz := ((List.range 8).map (fun k => bytesOf 4 (blockGlaze (a + 128 * k) ((bs.drop (128 * k)).take 128)).toNat)).flatten
  postMsg die Cls.mem 134 (.twin 10 0 0 (BitVec.ofNat 64 a) (bs ++ glz)) s

/-- SILVER messages of `n` chunks whose bytes read 0. They are recorded as one entry of the outbox. -/
def silverZeros (die a n step len : Nat) (s : State) : State :=
  if n = 0 then s
  else
    match route s die with
    | some _ => if s.unreach.contains die then s else send (.silverRun die a n step len) s
    | none => lkgDiscard (routeFirst s die) 1 die s

/-- The pieces of `len` bytes, by key / `len`, in which something is listed: bytes, a Glaze that does not match, a line that
cannot be corrected. -/
def listedPieces (s : State) (len : Nat) : Tab Unit :=
  let add := fun (t : Tab Unit) (k : Nat) => if (t.getLast?.map (·.1)) = some k then t else Tab.put t k ()
  let t := s.dram.foldl (fun t e => add t (e.1 / len)) []
  let t := s.badGlz.foldl (fun t e => add t (e.1 / len)) t
  s.ueLines.foldl (fun t e => add t (e * 128 / len)) t

/-- A range of keys cannot be read: a line that cannot be corrected, or a tile (`big`: of 2 KiB) whose Glaze does not match. -/
def unreadable (s : State) (big : Bool) (key len : Nat) : Bool :=
  s.badGlz.any (fun e => decide ((if big then key / 2048 * 2048 else key) ≤ e.1) && decide (e.1 < key + len)) ||
    s.ueLines.any (fun l => decide (key ≤ l * 128) && decide (l * 128 < key + len))

/-- The local address of a key of this chiplet's home, by the placement in force. -/
def localOfKey (s : State) (key : Nat) : Option Nat :=
  let j := key / 2 ^ 34
  match sliceOfPort s j with
  | none => none
  | some i =>
    let x := key % 2 ^ 34
    let b := sideBase s i j
    if x < b then none
    else
      let off := x - b
      (segs s).findSome? (fun g =>
        let u := (g.used[j / 8]?).getD 0
        match g.groups.findIdx? (· = j / 8) with
        | some k => if u ≤ off ∧ off < u + g.step then some (g.base + ((off - u) / 4096 * (8 * g.groups.length) + 8 * k + j % 8) * 4096 + off % 4096) else none
        | none => none)

/-- The first address of the home that no slice serves, if any. -/
def firstUnserved (s : State) : Nat :=
  (segs s).foldl (fun m g =>
    (List.range (8 * g.groups.length)).foldl (fun m k =>
      let a := g.base + 4096 * k
      match homeOf s a with
      | .ok _ => m
      | .error _ => Nat.min m a) m) (homeSize s)

/-- The listed 1 KiB pieces of the home by local address, with their keys. -/
def homePieces (s : State) : Tab Nat :=
  (listedPieces s 1024).foldl (fun t e =>
    match localOfKey s (e.1 * 1024) with
    | some a => Tab.put t a (e.1 * 1024)
    | none => t) []

/-- The whole home is copied in ascending local address, up to the first piece that cannot be read. -/
def silverCopy (s : State) : State :=
  let die := twnPeer s
  let ps := homePieces s
  let bad := ps.foldl (fun m e => if unreadable s (bigTile s e.1) e.2 1024 then Nat.min m e.1 else m) (firstUnserved s)
  let r := (ps.filter (fun e => decide (e.1 < bad))).foldl (fun (st : Nat × State) e =>
    (e.1 + 1024, silverPiece die e.1 e.2 (silverZeros die st.1 ((e.1 - st.1) / 1024) 1024 1024 st.2))) (0, s)
  let s := silverZeros die r.1 ((bad - r.1) / 1024) 1024 1024 r.2
  updTwn (fun t => { t with action := 1, moved := bad, actBad := decide (bad < homeSize s) }) s

/-- SILVER. -/
def silverOp (s : State) : State :=
  if twnBusy s then s
  else if twnStandby s then twnResult false true 3 s
  else if !twnUp s then twnResult false true 2 s
  else
    let s := silverCopy (enterPstate 2 (setF Pg.twn R.TWN_STATUS 0 16 0 s))
    twnResult true false 0 (updTwn (fun t => { t with forwarding := true, silvered := false, owed := [] }) s)

/-- A copy has ended: TWN_MOVED_MIB, the result, and the SILVERED alarm of one that is complete. -/
def copyEnd (s : State) : State :=
  let s := setR Pg.twn R.TWN_MOVED_MIB (satAdd 0 (s.twn.moved / 1048576)) s
  let bad := s.twn.actBad
  let s := twnResult false true (if bad then 4 else 1) (updTwn (fun t => { t with action := 0 }) s)
  if bad then s else namedAlarm Pg.twn 5 s

/-- SILVER_DONE: SILVERED, then one shipment of the committed state of every twinned partition that has one; writes go on being
forwarded until each of those has committed once more. A copy that met an error, or whose pair has ended, sends nothing. -/
def silverDoneOp (s : State) : State :=
  if s.twn.action = 1 then
    if !twnUp s then twnResult false true 2 (updTwn (fun t => { t with action := 0, forwarding := false }) s)
    else if s.twn.actBad then copyEnd (enterPstate 3 (updTwn (fun t => { t with forwarding := false }) s))
    else
      let s := twinSend 12 0 0 (BitVec.ofNat 64 s.twn.moved) [] s
      let ps := (bitsSet 16 (twnPtns s)).filter (snapValid s)
      let s := updTwn (fun t => { t with silvered := true, owed := ps, forwarding := decide (ps ≠ []) }) (enterPstate 3 s)
      let s := foldS (fun p s => shipment p (ptnSeq s p - 1) s) ps s
      copyEnd s
  else s

/-- A SILVER message captured (R752, R755): from the peer of a formed pair, or, in PEER_LOST, from a die of another package. -/
def silverMsgOp (sdie a : Nat) (bs : List Byte) (glzs : List Word) (s : State) : State :=
  let foster := runs s Pg.twn && decide (pstate s = 6) && !inPackage s sdie
  if foster ∨ (twnUp s ∧ sdie = twnPeer s) then
    let s := if foster then s
      else
        let s := if a = 0 then updTwn (fun t => { t with silverBad := false }) s else s
        if pstate s = 5 ∧ a ≠ 0 then s else enterPstate 2 s
    let good := (List.range 8).all (fun k => glzs[k]? == some (blockGlaze (a + 128 * k) ((bs.drop (128 * k)).take 128))) && decide (bs.length = 1024)
    let served := (List.range 8).all (fun k => match homeOf s (a + 128 * k) with | .ok _ => true | .error _ => false)
    if good ∧ served then (twinPut a bs s).2
    else markStale (updTwn (fun t => { t with silverBad := true }) s)
  else s

/-- SILVERED captured: the resilver is complete, and the first shipments are awaited. -/
def silveredOp (s : State) : State :=
  if twnUp s ∧ twnStandby s then
    if s.twn.silverBad then enterPstate 5 s
    else enterPstate 3 (updTwn (fun t => { t with stale := false, silvered := true }) (setF Pg.twn R.TWN_STATUS 0 16 0 s))
  else s

/-- BLOCK captured: with SEQ 0 it is checked and written at once (R755), else it is staged. -/
def blockOp (p : Nat) (q whr : DWord) (bs : List Byte) (tile : Bool) (glaze : Word) (s : State) : State :=
  if q = 0 then
    if twnUp s ∧ twnStandby s then
      if glaze = blockGlaze whr.toNat bs then (twinPut whr.toNat bs s).2
      else markStale (updTwn (fun t => { t with silverBad := true }) s)
    else s
  else stageMsg { kind := 5, p := p, q := q, whr := whr, bytes := bs, tile := tile, glaze := glaze } s

/-! ### FOSTER (R752) -/

/-- Chunks `lo` to `hi` of a run of 4 KiB pages that no cut takes out, as zero runs between the cuts. -/
def zeroGaps (die a0 step : Nat) (cuts : Tab Nat) (hi : Nat) (s : State) : State :=
  let r := cuts.foldl (fun (st : Nat × State) c =>
    (Nat.max st.1 c.2, silverZeros die (a0 + st.1 * step) (Nat.min c.1 hi - st.1) step 4096 st.2)) (0, s)
  silverZeros die (a0 + r.1 * step) (hi - r.1) step 4096 r.2

/-- Mirror regions as page ranges of a run: pages `n` with an address `a0 + n * step` in the region. -/
def mirrorCuts (s : State) (a0 step : Nat) : List (Nat × Nat) :=
  (List.range 8).filterMap (fun r =>
    let w0 := getR s Pg.twn (R.TWN_MR0 + 8 * r)
    if bit w0 31 then
      let lo := fld w0 0 27 * 2097152
      let hi := lo + (fld (getR s Pg.twn (R.TWN_MR0 + 8 * r + 4)) 0 18 + 1) * 2097152
      let up := fun x => if x ≤ a0 then 0 else (x - a0 + step - 1) / step
      if up lo < up hi then some (up lo, up hi) else none
    else none)

/-- One channel's part of one segment: its pages are sent up to the first that cannot be read. -/
def fosterRun (die a0 step key0 cnt : Nat) (s : State) : State :=
  let skip := mirrorCuts s a0 step
  let inSkip := fun (n : Nat) => skip.any (fun (c : Nat × Nat) => decide (c.1 ≤ n) && decide (n < c.2))
  let listed := ((listedPieces s 4096).map (·.1)).filterMap (fun k =>
    if key0 ≤ k * 4096 ∧ k * 4096 < key0 + cnt * 4096 then some (k - key0 / 4096) else none)
  let bad := (listed.filter (fun n => !inSkip n && unreadable s false (key0 + n * 4096) 4096)).foldl Nat.min cnt
  let pages := (listed.filter (fun n => !inSkip n)).filter (fun n => decide (n < bad))
  let cuts : Tab Nat := (skip ++ pages.map (fun n => (n, n + 1))).foldl (fun (t : Tab Nat) (c : Nat × Nat) => Tab.put t c.1 (Nat.max c.2 (Tab.get 0 t c.1))) []
  let s := zeroGaps die a0 step cuts bad s
  let s := foldS (fun n => foldS (fun k => silverPiece die (a0 + n * step + 1024 * k) (key0 + n * 4096 + 1024 * k)) (List.range 4)) pages s
  updTwn (fun t => { t with moved := t.moved + bad * 4096, actBad := t.actBad || decide (bad < cnt) }) s

/-- The lost neighbour's home range on one channel: this chiplet's group `g` and channel `ch`, the neighbour's group `h`. -/
def fosterChannel (g h ch : Nat) (s : State) : State :=
  let j := 8 * g + ch
  match sliceOfPort s j with
  | none => updTwn (fun t => { t with actBad := true }) s
  | some i =>
    if runs s (Pg.slc i) then
      let hs := (List.range 4).map (fun k => getF s Pg.twn R.TWN_FOSTER_H (8 * k) 8 * 536870912)
      let nb := if sideB j then 0 else (s.heights[g]?).getD 0 * 536870912
      let die := getF s Pg.twn R.TWN_FOSTER 0 12
      foldS (fun (sg : Seg) s =>
        match sg.groups.findIdx? (· = h) with
        | some k =>
          let m := 8 * sg.groups.length
          fosterRun die (sg.base + (8 * k + ch) * 4096) (m * 4096) (chanKey j (nb + (sg.used[h]?).getD 0)) (sg.step / 4096) s
        | none => s) (segments 4 0 hs [0, 0, 0, 0]) s
    else updTwn (fun t => { t with actBad := true }) s

/-- FOSTER. -/
def fosterOp (s : State) : State :=
  if twnBusy s then s
  else
    let v := getR s Pg.twn R.TWN_FOSTER
    let d := fld v 16 12
    let east := inPackage s d && decide (neighbour s G.east = d) && decide (d ≠ dieNum s)
    let west := inPackage s d && decide (neighbour s G.west = d) && decide (d ≠ dieNum s)
    if runs s Pg.twn ∧ bit v 31 ∧ s.unreach.contains d ∧ (east ∨ west) then
      let s := updTwn (fun t => { t with action := 2, moved := 0, actBad := false }) s
      let pairs := (if east then [(1, 0), (3, 2)] else []) ++ (if west then [(0, 1), (2, 3)] else [])
      let s := foldS (fun (e : Nat × Nat) => foldS (fosterChannel e.1 e.2) (List.range 8)) pairs s
      twnResult true false 0 s
    else twnResult false true 2 s

/-- FOSTER_DONE. -/
def fosterDoneOp (s : State) : State := if s.twn.action = 2 then copyEnd s else s

/-! ### The commands -/

/-- TAKE. -/
def execTake (s : State) : Host.Outcome State Fault Refusal := act s (takeOp s)

/-- SILVER. -/
def execSilver (s : State) : Host.Outcome State Fault Refusal := act s (silverOp s)

/-- SILVER_DONE. -/
def execSilverDone (s : State) : Host.Outcome State Fault Refusal := act s (silverDoneOp s)

/-- FOSTER. -/
def execFoster (s : State) : Host.Outcome State Fault Refusal := act s (fosterOp s)

/-- FOSTER_DONE. -/
def execFosterDone (s : State) : Host.Outcome State Fault Refusal := act s (fosterDoneOp s)

/-- HELLO. -/
def execHello (epoch : Word) (ptns : BitVec 16) (role : Bool) (mode : BitVec 2) (s : State) : Host.Outcome State Fault Refusal :=
  act s (helloOp epoch ptns.toNat role mode.toNat s)

/-- HELLO_TIMER. -/
def execHelloTimer (s : State) : Host.Outcome State Fault Refusal := act s (helloTimerOp s)

/-- BEAT: it rearms the loss watch, which the model does not time (PEER_LOST is a command of its own). -/
def execBeat (_t : DWord) (s : State) : Host.Outcome State Fault Refusal := .next s

/-- BEAT_TIMER. -/
def execBeatTimer (s : State) : Host.Outcome State Fault Refusal := act s (beatTimerOp s)

/-- PEER_LOST. -/
def execPeerLost (s : State) : Host.Outcome State Fault Refusal := act s (twinLost s)

/-- SNAP. -/
def execSnap (p : BitVec 4) (q whr : DWord) (bytes : List Byte) (s : State) : Host.Outcome State Fault Refusal :=
  act s (stageMsg { kind := 2, p := p.toNat, q := q, whr := whr, bytes := bytes, tile := false, glaze := 0 } s)

/-- PLANE. -/
def execPlane (p : BitVec 4) (q whr : DWord) (bytes : List Byte) (s : State) : Host.Outcome State Fault Refusal :=
  act s (stageMsg { kind := 3, p := p.toNat, q := q, whr := whr, bytes := bytes, tile := false, glaze := 0 } s)

/-- CARRY. -/
def execCarry (p : BitVec 4) (q whr : DWord) (bytes : List Byte) (s : State) : Host.Outcome State Fault Refusal :=
  act s (stageMsg { kind := 4, p := p.toNat, q := q, whr := whr, bytes := bytes, tile := false, glaze := 0 } s)

/-- BLOCK. -/
def execBlock (p : BitVec 4) (q whr : DWord) (bytes : List Byte) (tile : Bool) (glaze : Word) (s : State) : Host.Outcome State Fault Refusal :=
  act s (blockOp p.toNat q whr bytes tile glaze s)

/-- TWIN_RING. -/
def execTwinRing (p : BitVec 4) (q whr : DWord) (prod cons : Word) (s : State) : Host.Outcome State Fault Refusal :=
  act s (stageMsg { kind := 6, p := p.toNat, q := q, whr := whr, bytes := bytesOf 4 prod.toNat ++ bytesOf 4 cons.toNat, tile := false, glaze := 0 } s)

/-- DONE. -/
def execDone (p : BitVec 4) (q : DWord) (count : Word) (s : State) : Host.Outcome State Fault Refusal := act s (doneOp p.toNat q count.toNat s)

/-- SHIPMENT_DONE. -/
def execShipmentDone (p : Nat) (s : State) : Host.Outcome State Fault Refusal := onUnit p nPtns (shipDoneOp p) s

/-- ACK. -/
def execAck (p : BitVec 4) (q code : DWord) (s : State) : Host.Outcome State Fault Refusal := act s (ackOp p.toNat q code s)

/-- DIGEST. -/
def execDigest (p : BitVec 4) (q n d : DWord) (s : State) : Host.Outcome State Fault Refusal := act s (digestOp p.toNat q n d s)

/-- DIGEST_TIMEOUT. -/
def execDigestTimeout (p : Nat) (s : State) : Host.Outcome State Fault Refusal := onUnit p nPtns (digestTimeoutOp p) s

/-- SILVER message. -/
def execSilverMessage (sdie : BitVec 12) (whr : DWord) (bytes : List Byte) (glazes : List Word) (s : State) : Host.Outcome State Fault Refusal :=
  act s (silverMsgOp sdie.toNat whr.toNat bytes glazes s)

/-- SILVERED. -/
def execSilvered (_bytesCopied : DWord) (s : State) : Host.Outcome State Fault Refusal := act s (silveredOp s)

/-- ALARM: the record of another die's alarm arrives. The manual gives it no effect on this die's state. -/
def execAlarm (_sdie : BitVec 12) (_record : BitVec 512) (s : State) : Host.Outcome State Fault Refusal := .next s

end Sys2Proof.Machine
end

