-- ==== Sys2Proof/Machine/Links.lean ====
section
/-! DEFINITION. Die-to-die lanes (R629–R686): frames and retry, lane degradation, training and discovery, service sets and
remaps, lost dies, and messages that cross the chiplet. -/

namespace Sys2Proof.Machine

/-! ### Fields of the pages -/

-- LNK_STATUS.LSTATE (R682).
namespace LS

abbrev down : Nat := 0
abbrev train : Nat := 1
abbrev id : Nat := 2
abbrev up : Nat := 3
abbrev offline : Nat := 4

end LS

def lstate (s : State) (p : Nat) : Nat := getF s (Pg.lnk p) R.LNK_STATUS 29 3
def setLstate (p v : Nat) (s : State) : State := setF (Pg.lnk p) R.LNK_STATUS 29 3 v s

/-- Stage of a direction (false: receive): 0 FULL … 4 RETIRED. -/
def stageOf (s : State) (p : Nat) (tx : Bool) : Nat := getF s (Pg.lnk p) R.LNK_STATUS (if tx then 23 else 26) 3

/-- The port's page is in service: frames are sent and received. A retired last port of a group still drains (R669). -/
def portLive (s : State) (p : Nat) : Bool :=
  let st := bstate s (Pg.lnk p)
  (decide (st ≠ B.absent) && decide (st ≠ B.retired)) || (grpAt s (groupOf p)).drain

/-- Frames pass: the port is past TRAIN. -/
def portHears (s : State) (p : Nat) : Bool := portLive s p && decide (LS.id ≤ lstate s p)

/-- The ports of a group that are wired (R31, R32). -/
def wiredPorts (s : State) (g : Nat) : List Nat := (groupPorts g).filter (fun p => bit s.fuses.wired p)

/-- Index of a port within its group. -/
def portIdx (p : Nat) : Nat := p - groupFirst (groupOf p)

/-! ### Lost dies (R671, R672) -/

/-- Barriers with a member on die `d` record LINK (R485), all of them before anything that follows from it (R486). -/
def barsLost (d : Nat) (s : State) : State :=
  cascade 4096 (((s.bars.map (·.1)).filter (fun b => barEn s b && (barMembers s b).any (fun m => m.2.1 = d))).map (fun b => FaultEv.bar b BC.link none)) s

/-- A die becomes unreachable: the alarm, and the report to the slices, Leaven, the doorbells, Calends and the twin unit
(R672, R719). Requests already sent end by R673. -/
def dieLost (d : Nat) (s : State) : State :=
  if s.unreach.contains d ∨ (dieValid s ∧ d = dieNum s) then s
  else
    let pg := Pg.lkg (routeFirst s d)
    let s := { s with unreach := s.unreach ++ [d] }
    let s := send (.dieLost d) (namedAlarm pg 1 s)
    let s := barsLost d (ringsLost d (lvnDieLost d (memoryLost d s)))
    if twnPeer s = d then twinLost s else s

/-- The dies that this chiplet has a reason to reach: its package, its primary, barrier members, MSG peers, the twin. -/
def knownDies (s : State) : List Nat :=
  let l := (if dieValid s then (List.range (pkgCount s)).map (dieOfPos s) else []) ++ [0xFFF] ++
    ((s.bars.map (·.1)).map (fun b => (barMembers s b).map (fun m => m.2.1))).flatten ++
    s.msgRings.map (fun m => m.peer.1) ++ (if s.twn.formed then [twnPeer s] else [])
  (l.filter (fun d => ¬ (dieValid s ∧ d = dieNum s))).dedup

/-- After service was lost, dies without a route are unreachable (R671). -/
def checkRoutes (s : State) : State :=
  foldS (fun d s => if route s d = none then dieLost d s else s) (knownDies s) s

/-- A group has become unavailable: the slices bound to its ports record PORT (R569), and routes are looked at again. -/
def groupGone (g : Nat) (s : State) : State :=
  if g < 4 then
    foldS (fun j s => match sliceOfPort s j with | some i => fault (Pg.slc i) 9 s | none => s) (groupPorts g) s
  else checkRoutes s

/-! ### The service set (R661, R685) -/

/-- Fewer than all wired ports of a group are in service (R685). -/
def groupShort (s : State) (g : Nat) : Bool := decide (getF s (Pg.lkg g) R.LKG_STATUS 8 8 < (wiredPorts s g).length)

/-- A port's bit in LKG_STATUS; DEGRADED follows. -/
def serviceBit (p : Nat) (on : Bool) (s : State) : State :=
  let g := groupOf p
  let v := setBit (getR s (Pg.lkg g) R.LKG_STATUS) (portIdx p) on
  let n := (bitsSet 8 v.toNat).length
  setDegraded (Pg.lkg g) (decide (n < (wiredPorts s g).length)) (setR (Pg.lkg g) R.LKG_STATUS (setFld v 8 8 n) s)

/-- The set changes at once. -/
def setService (p : Nat) (on : Bool) (s : State) : State :=
  let g := groupOf p
  let was := groupAvail s g
  let s := serviceBit p on s
  if was && !groupAvail s g then groupGone g s else if on ∧ g < 4 then portFlush p s else s

/-- What a port does once it has left the set: it trains again, or stays offline (R663, R680). -/
def afterLeave (p : Nat) (s : State) : State :=
  if (portAt s p).retraining then setLstate p LS.train s
  else if bstate s (Pg.lnk p) = B.retired ∨ lstate s p = LS.down then s
  else setLstate p LS.offline s

/-- A control word sent on a port (R666). -/
def ctrlSend (p op arg1 seq : Nat) (s : State) : State := send (.ctrl p op arg1 seq) (portSend p 4 s)

/-- The other in-service ports of a port's group, on which a handover can go: not on the IO group under version 1
(R662, R679). -/
def heirs (s : State) (p : Nat) : List Nat :=
  let g := groupOf p
  if g < 4 ∨ (g = G.io ∧ groupVersion s g = 1) then []
  else (portsIn s g).filter (fun q => q ≠ p ∧ lstate s q = LS.up)

/-- A port is to leave the set: the remap is entered, and where frames remain, CTRL RETIRE goes out on another port
(R661, R662). A stack port, or one without heir, leaves at once. -/
def leaveSet (p : Nat) (s : State) : State :=
  let g := groupOf p
  if !(portsIn s g).contains p then afterLeave p s
  else
    let r := grpAt s g
    if r.remap.contains (p, false) then s
    else
      match heirs s p with
      | [] =>
        if g < 4 ∨ lstate s p = LS.down ∨ bstate s (Pg.lnk p) = B.retired then afterLeave p (setService p false s)
        else setGrp g { r with remap := r.remap.filter (fun e => e.1 ≠ p) ++ [(p, false)] } s
      | q :: _ =>
        let s := setGrp g { r with remap := r.remap.filter (fun e => e.1 ≠ p) ++ [(p, false)] } s
        if (portAt s p).buf = [] then s
        else satR (Pg.lkg g) R.LKG_HANDOVERS 1 (ctrlSend q 5 (portIdx p) (portAt s p).rx s)

/-- A port is to join the set: at once where nothing is in service yet or on a stack group, else by a remap. -/
def joinSet (p : Nat) (s : State) : State :=
  let g := groupOf p
  let r := grpAt s g
  if (portsIn s g).contains p then setGrp g { r with remap := r.remap.filter (fun e => e.1 ≠ p) } s
  else if g < 4 ∨ portsIn s g = [] then setService p true s
  else setGrp g { r with remap := r.remap.filter (fun e => e.1 ≠ p) ++ [(p, true)] } s

/-- REMAP_RESUME: every retry buffer of the group is empty, so the new set applies and the group resumes (R661). Frames that
waited at a port that has left are placed anew. -/
def remapResumeOp (g : Nat) (s : State) : State :=
  let r := grpAt s g
  if r.remap = [] ∨ !((portsIn s g).all (fun p => (portAt s p).buf.isEmpty && ((portAt s p).queue.filter (8 ≤ ·)).isEmpty)) then s
  else
    let s := setGrp g { r with remap := [] } s
    let s := foldS (fun (e : Nat × Bool) s => if e.2 then setService e.1 true s else s) r.remap s
    let s := foldS (fun (e : Nat × Bool) s => if e.2 then s else afterLeave e.1 (setService e.1 false s)) r.remap s
    let s := foldS (fun (e : Nat × Bool) s =>
      if e.2 then s
      else
        let w := (portAt s e.1).queue.filter (· < 4)
        let s := updPort e.1 (fun x => { x with queue := [] }) s
        match portsIn s g with
        | [] => s
        | q :: _ => foldS (portSend q) w s) r.remap s
    foldS portFlush (portsIn s g) s

/-! ### Retrain and retirement (R663, R668–R670) -/

/-- A port retrains: it leaves the set first; a stack port trains at once. -/
def retrainOp (p : Nat) (restore : Bool) (s : State) : State :=
  if runs s (Pg.lnk p) ∧ lstate s p ≠ LS.train then
    let s := namedAlarm (Pg.lnk p) 4 (satR (Pg.lnk p) R.LNK_RETRAINS 1 s)
    leaveSet p (updPort p (fun x => { x with retraining := true, restore := restore || x.restore }) s)
  else s

/-- Requests that wait for the stack of a slice whose frames are discarded complete with error (R542, R668, R680): writes whose
frames no ACK has passed, and where the port retires reads too. -/
def sliceStranded (i reason : Nat) (reads : Bool) (s : State) : State :=
  let drop := fun (w : SWait) (f : Flit) (l : Nat) (s : State) =>
    lineFree i l (respondErr f (sliceErr i reason f.addr.toNat (rqPtn s f) (updSlice i (fun x => { x with waits := x.waits.filter (· ≠ w) }) s)))
  foldS (fun w s => match w with
    | .stackRead f l => if reads then drop w f l s else s
    | .stackWrite f l n => if stackAcked s i n then s else drop w f l s
    | .inval f l _ n => if stackAcked s i n then s else drop w f l s
    | _ => s) (sliceAt s i).waits s

/-- Both directions of a port retire (R665, R668): the page enters Retired, the port leaves its group by a remap with
handover, or as the last port drains (R669); a stack-link port records PORT on its slice. -/
def portRetire (p : Nat) (s : State) : State :=
  if bstate s (Pg.lnk p) = B.retired ∨ bstate s (Pg.lnk p) = B.absent then s
  else
    let g := groupOf p
    let s := setF (Pg.lnk p) R.LNK_STATUS 23 6 (4 * 8 + 4) s
    let s := namedAlarm (Pg.lnk p) 3 s
    let last := decide (heirs s p = []) && (portsIn s g).contains p
    let s := setBState (Pg.lnk p) B.retired s
    let s := if last ∧ ¬ g < 4 ∧ (portAt s p).buf ≠ [] then setGrp g { grpAt s g with drain := true } s else s
    let s := leaveSet p s
    if g < 4 then
      portClear p (match sliceOfPort s p with
        | some i => sliceStranded i 5 true (fault (Pg.slc i) 9 s)
        | none => s)
    else s

/-! ### Lane degradation (R664–R667) -/

/-- Spare field of LNK_SPARES: the used bit and the position's low bit, for a direction and spare 0 or 1. -/
def spareBit (tx : Bool) (k : Nat) : Nat := 31 - 16 * b2n tx - 8 * k
def spareLo (tx : Bool) (k : Nat) : Nat := 24 - 16 * b2n tx - 8 * k

/-- The spare that carries a position. -/
def spareOf (s : State) (p : Nat) (tx : Bool) (pos : Nat) : Option Nat :=
  let v := getR s (Pg.lnk p) R.LNK_SPARES
  (List.range 2).find? (fun k => bit v (spareBit tx k) && decide (fld v (spareLo tx k) 4 = pos))

/-- The lane that carries a position. -/
def laneOf (s : State) (p : Nat) (tx : Bool) (pos : Nat) : Nat :=
  match spareOf s p tx pos with
  | some k => 16 + k
  | none => pos

/-- The position that a lane carries. -/
def posOf (s : State) (p : Nat) (tx : Bool) (lane : Nat) : Option Nat := (List.range 16).find? (fun pos => laneOf s p tx pos = lane)

/-- Failed lanes of a direction. -/
def failedReg (tx : Bool) : Nat := if tx then R.LNK_TX_FAILED else R.LNK_RX_FAILED

/-- A direction moves to a new stage: logged, alarm, DEGRADED (R665, R680). -/
def stageTo (p : Nat) (tx : Bool) (st lane : Nat) (s : State) : State :=
  let s := setF (Pg.lnk p) R.LNK_STATUS (if tx then 23 else 26) 3 st s
  let s := firstR (Pg.lnk p) R.LNK_STAGE_LOG (b2n tx * 2 ^ 30 + st * 2 ^ 27 + lane * 2 ^ 22) s
  if st ≤ 2 then namedAlarm (Pg.lnk p) 1 s
  else if st = 3 then setDegraded (Pg.lnk p) true (namedAlarm (Pg.lnk p) 2 s)
  else portRetire p s

/-- The half of the lanes in use at HALF. -/
def halfOf (s : State) (p : Nat) (tx : Bool) : Nat := getF s (Pg.lnk p) R.LNK_STATUS (if tx then 20 else 21) 1

/-- A lane of a direction has failed: the stage goes on (R665). The answer is the new stage where it changed. -/
def laneStage (p : Nat) (tx : Bool) (lane : Nat) (s : State) : Option Nat × State :=
  if bit (getR s (Pg.lnk p) (failedReg tx)) lane then (none, s)
  else
    let st := stageOf s p tx
    let pos := posOf s p tx lane
    let s := setR (Pg.lnk p) (failedReg tx) (setBit (getR s (Pg.lnk p) (failedReg tx)) lane true) s
    if st < 2 then (some (st + 1), stageTo p tx (st + 1) lane s)
    else if st = 2 then
      let h := match pos with | some q => if q < 8 then 1 else 0 | none => 0
      (some 3, stageTo p tx 3 lane (setF (Pg.lnk p) R.LNK_STATUS (if tx then 20 else 21) 1 h s))
    else if st = 3 then
      match pos with
      | some q => if q / 8 = halfOf s p tx then (some 4, stageTo p tx 4 lane s) else (none, s)
      | none => (none, s)
    else (none, s)

/-- A receive lane fails: the far side is asked for a spare or for half width (R664, R666). A spare that carries nothing
needs no swap. -/
def rxFail (p lane : Nat) (s : State) : State :=
  let pos := posOf s p false lane
  let (st, s) := laneStage p false lane s
  match st with
  | some 3 => ctrlSend p 3 (halfOf s p false) 0 s
  | some 4 | none => s
  | some _ =>
    match pos with
    | some q => ctrlSend p 1 q 0 s
    | none => s

/-- One error counted against a receive lane (R642, R664, R684). -/
def laneErr (p lane : Nat) (s : State) : State :=
  let o := R.LST_LANE_ERR0 + 4 * lane
  let v := getR s (Pg.lst p) o
  let w := Nat.min (fld v 16 16 + 1) 65535
  let s := setR (Pg.lst p) o (setFld (setFld v 16 16 w) 0 16 (Nat.min (fld v 0 16 + 1) 65535)) s
  if getF s (Pg.lnk p) R.LNK_LANE_LIMIT 0 16 ≤ w then rxFail p lane s else s

/-- A spare for a position, in a direction: lane 16 before lane 17, neither failed nor in use. -/
def freeSpare (s : State) (p : Nat) (tx : Bool) : Option Nat :=
  (List.range 2).find? (fun k => !bit (getR s (Pg.lnk p) R.LNK_SPARES) (spareBit tx k) && !bit (getR s (Pg.lnk p) (failedReg tx)) (16 + k))

/-- A position is carried by a spare from now on. -/
def useSpare (p : Nat) (tx : Bool) (k pos : Nat) (s : State) : State :=
  let v := getR s (Pg.lnk p) R.LNK_SPARES
  let v := match spareOf s p tx pos with | some j => setBit v (spareBit tx j) false | none => v
  setR (Pg.lnk p) R.LNK_SPARES (setBit (setFld v (spareLo tx k) 4 pos) (spareBit tx k) true) s

/-- SWAPREQ: this sender's lane of a position has failed at the far side; a spare takes the position from the next frame
on (R666, R667). -/
def swapReqOp (p pos : Nat) (s : State) : State :=
  if portLive s p ∧ pos < 16 then
    let (st, s) := laneStage p true (laneOf s p true pos) s
    match st, freeSpare s p true with
    | some n, some k => if n ≤ 2 then ctrlSend p 2 (16 * k + pos) (portAt s p).tx (useSpare p true k pos s) else s
    | _, _ => s
  else s

/-- SWAP: the receiver follows. -/
def swapOp (p arg : Nat) (s : State) : State :=
  if portLive s p ∧ arg / 16 < 2 then useSpare p false (arg / 16) (arg % 16) s else s

/-- HALFREQ: this sender goes to half width, and says from which frame. -/
def halfReqOp (p h : Nat) (s : State) : State :=
  if portLive s p ∧ stageOf s p true < 3 then
    let s := setF (Pg.lnk p) R.LNK_STATUS 20 1 (h % 2) s
    let failed := (List.range 16).filter (fun pos => pos / 8 ≠ h % 2 ∧ !bit (getR s (Pg.lnk p) R.LNK_TX_FAILED) (laneOf s p true pos))
    let s := stageTo p true 3 (laneOf s p true ((failed.head?).getD 0)) s
    ctrlSend p 4 (h % 2) (portAt s p).tx s
  else s

/-- HALF: the receiver follows. -/
def halfOp (p h : Nat) (s : State) : State := if portLive s p then setF (Pg.lnk p) R.LNK_STATUS 21 1 (h % 2) s else s

/-! ### Retry (R639–R643) -/

/-- Buffered frames from `seq` on are sent again; a frame that was sent 16 times makes the port retrain. -/
def resendFrom (p seq : Nat) (s : State) : State :=
  let x := portAt s p
  let go := x.buf.filter (fun e => decide (0 ≤ seqDiff e.1 seq))
  if go = [] then s
  else if go.any (fun e => 16 ≤ e.2.2) then retrainOp p false s
  else
    let s := setPort p { x with buf := x.buf.map (fun e => if 0 ≤ seqDiff e.1 seq then (e.1, e.2.1, e.2.2 + 1) else e) } s
    let s := wrapR (Pg.lst p) R.LST_FRAMES_TX go.length (satR (Pg.lst p) R.LST_RETRIES go.length s)
    send (.resend p (go.map (·.1))) s

/-- A drain ends when the last buffered frame is acknowledged (R669). -/
def drainCheck (g : Nat) (s : State) : State :=
  if (grpAt s g).drain ∧ (groupPorts g).all (fun p => (portAt s p).buf.isEmpty) then setGrp g { grpAt s g with drain := false } s else s

/-- ACK, NAK and CREDITS of a frame that passed its CRC (R640, R641, R647). -/
def frameAcks (p : Nat) (f : Frame) (s : State) : State :=
  let x := portAt s p
  let ack := f.ack.toNat
  let c := f.cclass.toNat
  let back := (f.credits.toNat + 256 - nth4 x.lastCount c % 256) % 256
  let s := setPort p { x with buf := x.buf.filter (fun e => decide (0 ≤ seqDiff e.1 ack)), credit := x.credit.set c (nth4 x.credit c + back),
                              lastCount := x.lastCount.set c f.credits.toNat,
                              memAck := x.memAck + (x.buf.filter (fun e => decide (seqDiff e.1 ack < 0) && decide (e.2.1 = 0))).length } s
  let s := if groupOf p < 4 then (match sliceOfPort s p with | some i => peerAck i (stackAcks i s) | none => s) else s
  let s := if f.nak then resendFrom p ack s else s
  drainCheck (groupOf p) (portFlush p s)

/-- The half of the lanes on which frames arrive: none at full width (R631, R665). -/
def rxHalf (s : State) (p : Nat) : Option Nat := if stageOf s p false = 3 then some (halfOf s p false) else none

/-- One error against the lane of each of the data positions (R642). -/
def posErrs (p : Nat) (l : List Nat) (s : State) : State := foldS (fun pos s => laneErr p (laneOf s p false pos) s) l s

/-- A sequenced frame that passed its CRC: accepted if it carries the expected SEQ, else discarded (R640). The accepted copy is
compared byte by byte with the first failed copy, and each data position on which they differ counts against its lane (R642). -/
def frameSeq (p : Nat) (f : Frame) (s : State) : Bool × State :=
  let x := portAt s p
  if f.seq.toNat = x.rx then
    let s := wrapR (Pg.lst p) R.LST_FRAMES_RX 1 (setPort p { x with rx := (x.rx + 1) % 4096, nak := false, copy := none } s)
    (true, match x.copy with | some c => posErrs p (diffPositions (rxHalf s p) c f.bits) s | none => s)
  else (false, s)

/-- The receiver releases one credit of a class once the frame's bytes are delivered (R647). -/
def release1 (p c : Nat) (s : State) : State :=
  updPort p (fun x => { x with released := x.released.set c ((nth4 x.released c + 1) % 256) }) s

/-- A frame that failed its CRC (R640, R642): counted; a sequenced one sets NAK, and its first copy is kept. -/
def failedFrame (p : Nat) (f : BitVec 640) (s : State) : State :=
  let s := satR (Pg.lst p) R.LST_CRC_ERRS 1 s
  if sequencedKind (frameKind f) then updPort p (fun x => { x with nak := true, copy := x.copy.or (some f) }) s else s

/-- Symbols that the FEC corrected on an off-package port count against the lanes of their positions (R645). -/
def fecCount (p : Nat) (l : List Nat) (s : State) : State :=
  if groupOf p = G.off then posErrs p (l.map (· % 16)) (satR (Pg.lst p) R.LST_FEC_CORR l.length s) else s

/-- A frame arrives at a port that is past TRAIN (R640): checked, and acted on if it passes. -/
def frameIn (p : Nat) (f : Frame) (act : State → State) (s : State) : State :=
  if portHears s p then
    let s := fecCount p f.corr s
    if frameBad f.bits then failedFrame p f.bits s else act s
  else s

/-- IDLE: its ACK, NAK and credits are acted on. -/
def idleOp (p : Nat) (f : Frame) (s : State) : State := frameIn p f (frameAcks p f) s

/-- DATA: accepted in sequence and delivered to the class stream; the messages it completes are commands of their own. -/
def dataOp (p : Nat) (f : Frame) (s : State) : State :=
  frameIn p f (fun s =>
    let (ok, s) := frameSeq p f s
    frameAcks p f (if ok then release1 p f.cls.toNat s else s)) s

/-- HOVR: the next frame of a retired port is fed into that port's streams, in HSEQ order (R662). -/
def hovrOp (p : Nat) (f : Frame) (s : State) : State :=
  frameIn p f (fun s =>
    let (ok, s) := frameSeq p f s
    let q := groupFirst (groupOf p) + f.hport.toNat
    let s := if ok then
        let s := release1 p f.cls.toNat s
        if f.hport.toNat < groupSize (groupOf p) ∧ f.hseq.toNat = (portAt s q).hseq then updPort q (fun x => { x with hseq := (x.hseq + 1) % 4096 }) s else s
      else s
    frameAcks p f s) s

/-- Frames that failed: one of them, or on an off-package port the 8 frames of an uncorrectable codeword (R645). -/
def failedFramesOp (p : Nat) (fs : List (BitVec 640)) (s : State) : State :=
  if portHears s p then
    foldS (failedFrame p) fs (if groupOf p = G.off ∧ fs.length = 8 then satR (Pg.lst p) R.LST_FEC_UNCORR 1 s else s)
  else s

/-- ACK_TIMEOUT: every buffered frame is sent again (R641). -/
def ackTimeoutOp (p : Nat) (s : State) : State :=
  match (portAt s p).buf with
  | [] => s
  | e :: _ => if portHears s p then resendFrom p e.1 s else s

/-! ### Control words (R662, R666) -/

/-- CTRL RETIRE: the far side names the frame it expects on a leaving port; this side's buffered frames from there on go out
as HOVR on the surviving port, and this side answers if it has not begun the handover itself. -/
def retireWordOp (p idx expected : Nat) (s : State) : State :=
  let g := groupOf p
  let q := groupFirst g + idx
  if groupSize g ≤ idx ∨ q = p ∨ g < 4 then s
  else
    let begun := (grpAt s g).remap.contains (q, false)
    let s := updPort q (fun x => { x with hseq := x.rx }) s
    let x := portAt s q
    let go := x.buf.filter (fun e => decide (0 ≤ seqDiff e.1 expected) && decide (e.2.1 < 4))
    let s := setPort q { x with buf := [] } s
    let s := if begun then s
      else
        let r := grpAt s g
        let s := if (portsIn s g).contains q then setGrp g { r with remap := r.remap.filter (fun e => e.1 ≠ q) ++ [(q, false)] } s else s
        satR (Pg.lkg g) R.LKG_HANDOVERS 1 (ctrlSend p 5 idx x.rx s)
    foldS (fun (e : Nat × Nat × Nat) s => portSend p (8 + e.2.1) (send (.hovr q p e.1) s)) go s

/-- OFFLINE: the named port leaves service without retiring. -/
def offlineOp (p idx : Nat) (s : State) : State :=
  let g := groupOf p
  let q := groupFirst g + idx
  if groupSize g ≤ idx ∨ !portLive s q then s
  else leaveSet q (updPort q (fun x => { x with farOff := true }) s)

/-- ONLINE: it may rejoin, if this side serves it. -/
def onlineOp (p idx : Nat) (s : State) : State :=
  let g := groupOf p
  let q := groupFirst g + idx
  if groupSize g ≤ idx then s
  else
    let s := updPort q (fun x => { x with farOff := false }) s
    if runs s (Pg.lnk q) ∧ lstate s q = LS.offline then joinSet q (setLstate q LS.up s)
    else if runs s (Pg.lnk q) ∧ lstate s q = LS.up then joinSet q s
    else s

/-- CTRL: the frame in sequence, then its control word. -/
def ctrlOp (p : Nat) (f : Frame) (s : State) : State :=
  frameIn p f (fun s =>
    let (ok, s) := frameSeq p f s
    let s := frameAcks p f s
    let arg1 := f.ctrlArg.toNat
    if ok then
      match f.ctrlOp.toNat with
      | 1 => swapReqOp p arg1 s
      | 2 => swapOp p arg1 s
      | 3 => halfReqOp p arg1 s
      | 4 => halfOp p arg1 s
      | 5 => retireWordOp p arg1 f.ctrlSeq.toNat s
      | 6 => offlineOp p arg1 s
      | 7 => onlineOp p arg1 s
      | _ => s
    else s) s

/-! ### Training and discovery (R660, R674–R679, R683) -/

/-- Training fails: the port is DOWN and retries every 1 ms. -/
def trainFail (p : Nat) (s : State) : State :=
  setLstate p LS.down (updPort p (fun x => { x with failSince := some (x.failSince.getD s.time), ids := 0, delays := [], lastId := none }) s)

/-- Highest common version with a far side's bit mask (R675, R679). -/
def commonVersion (m : Nat) : Nat := if m.testBit 1 then 2 else if m.testBit 0 then 1 else 0

/-- The state of a direction's sequence numbers and credits at training; frames still buffered are numbered anew
(R647). -/
def portFresh (p : Nat) (s : State) : State :=
  let x := portAt s p
  let buf := (x.buf.zipIdx).map (fun e => (e.2, e.1.2.1, 1))
  setPort p { x with buf := buf, tx := buf.length, rx := 0, nak := false, copy := none, credit := [128, 128, 128, 128],
                     lastCount := [0, 0, 0, 0], released := [0, 0, 0, 0], ids := 0, delays := [], lastId := none } s

/-- TRAIN_DONE (R660): lanes that failed the test are failed, after RESTORE afresh (R670); a wiring of neither kind, or no
common version, fails training. -/
def trainDoneOp (p : Nat) (rxFailed : Nat) (reversed wired : Bool) (versions : Nat) (s : State) : State :=
  if runs s (Pg.lnk p) ∧ lstate s p = LS.train then
    if !wired ∨ commonVersion versions = 0 then trainFail p s
    else
      let s := if (portAt s p).restore then
          let s := setR (Pg.lnk p) R.LNK_RX_FAILED 0 (setR (Pg.lnk p) R.LNK_TX_FAILED 0 (setR (Pg.lnk p) R.LNK_SPARES 0 s))
          setDegraded (Pg.lnk p) false (setF (Pg.lnk p) R.LNK_STATUS 20 2 0 (setF (Pg.lnk p) R.LNK_STATUS 23 6 0 s))
        else s
      let s := updPort p (fun x => { x with restore := false }) (portFresh p s)
      let s := setF (Pg.lnk p) R.LNK_STATUS 22 1 (b2n reversed) s
      let s := setF (Pg.lnk p) R.LNK_STATUS 17 2 (commonVersion versions) s
      foldS (fun l s => if bstate s (Pg.lnk p) = B.retired then s else rxFail p l s) (bitsSet 18 rxFailed) (setLstate p LS.id s)
  else s

/-- TRAIN_RETRY. -/
def trainRetryOp (p : Nat) (s : State) : State :=
  if runs s (Pg.lnk p) ∧ lstate s p = LS.down then setLstate p LS.train s else s

/-- TRAIN_LIMIT: training has failed without a break for LNK_TRAIN_LIMIT. -/
def trainLimitOp (p : Nat) (s : State) : State :=
  if runs s (Pg.lnk p) ∧ (portAt s p).failSince ≠ none then fault (Pg.lnk p) 10 s else s

/-- An ID frame leaves (R675). -/
def idOut (p : Nat) (tx : DWord) (s : State) : State :=
  let x := portAt s p
  let (e, h) := match x.lastId with | some (t, at_) => (t, tx - at_) | none => (0, 0)
  let r : IdRec := { kind := 1, versions := 3, valid := dieValid s, die := BitVec.ofNat 12 (dieNum s), portByte := BitVec.ofNat 8 p,
                     group := BitVec.ofNat 8 (groupOf p), base := BitVec.ofNat 12 (pkgBase s), count := BitVec.ofNat 4 (pkgCount s),
                     pos := BitVec.ofNat 4 (pkgPos s), txTime := tx, echo := e, echoHold := h, rxTime := 0, uid := s.fuses.dieId }
  let (f, s) := idleFrame p 3 (idPayload r) s
  wrapR (Pg.lst p) R.LST_FRAMES_TX 1 (send (.frame p f) s)

/-- ID_SEND. -/
def idSendOp (p : Nat) (tx : DWord) (s : State) : State :=
  if runs s (Pg.lnk p) ∧ lstate s p = LS.id then idOut p tx s else s

/-- The far kind of a group: stacks, the I/O die, another package's chiplet or a switch, a chiplet (R29, R37). -/
def farKindOk (g kind : Nat) : Bool :=
  if g < 4 then kind = 3 else if g = G.io then kind = 2 else if g = G.off then kind = 1 || kind = 4 else kind = 1

/-- The check of a group's own row of R678 on one port's record. -/
def orderOk (s : State) (g p : Nat) (r : IdRec) : Bool :=
  let n := pkgCount s
  let same := (groupPorts g).all (fun q => match (portAt s q).farPos with
    | some x => decide (x.uid = r.uid)
    | none => true)
  if g < 4 then
    decide (r.kind = 3) && same && decide (bit r.portByte 7 = decide (g % 2 = 1)) && decide (fld r.portByte 0 3 = p % 8)
  else if g = G.io then decide (r.kind = 2) && same
  else if g = G.off then true
  else decide (r.kind = 1) && (decide (g = G.west) || decide (r.base.toNat = pkgBase s)) &&
    decide (r.pos.toNat = (if g = G.east then pkgPos s + 1 else pkgPos s + n - 1) % Nat.max 1 n) &&
    decide (r.group.toNat = (if g = G.east then G.west else G.east))

/-- The check of the "All" row (R678). -/
def wireOk (s : State) (p : Nat) (r : IdRec) : Bool :=
  farKindOk (groupOf p) r.kind.toNat &&
  (List.range nPorts).all (fun q => q = p || (match (portAt s q).farPos with
    | some x => !(decide (x.uid = r.uid) && decide (x.portByte = r.portByte))
    | none => true))

/-- The checks of R678 on a port once both sides are VALID. ORDER makes the group unavailable (R686). -/
def portChecks (p : Nat) (s : State) : State :=
  match (portAt s p).farPos with
  | none => s
  | some r =>
    if dieValid s ∧ r.valid then
      let g := groupOf p
      let s := if wireOk s p r then s else fault (Pg.lnk p) 9 s
      if orderOk s g p r then s
      else
        let was := groupAvail s g
        let s := fault (Pg.lkg g) 9 s
        if was && !groupAvail s g then groupGone g s else s
    else s

/-- The checks of a group, at START of its page (R686). -/
def groupChecks (g : Nat) (s : State) : State := foldS portChecks (groupPorts g) s

/-- A port has reached UP: it joins its group; the Annals' message slot is free again once the I/O link is UP (R798). -/
def portUpOp (p : Nat) (s : State) : State :=
  let s := updPort p (fun x => { x with failSince := none, retraining := false }) (setLstate p LS.up s)
  let s := joinSet p s
  if groupOf p = G.io ∧ s.ann.slotHeld then slotService { s with ann := { s.ann with slotHeld := false } } else s

/-- An ID record: delay (R676), version (R679), far side, checks (R678); 8 echoed frames end the stage (R674). -/
def idRecord (p : Nat) (r : IdRec) (s : State) : State :=
  if runs s (Pg.lnk p) ∧ LS.id ≤ lstate s p then
    let v := commonVersion r.versions.toNat
    if v = 0 then (if lstate s p = LS.id then trainFail p s else s)
    else
      let g := groupOf p
      let x := portAt s p
      let ds := if r.echo = 0 then x.delays
        else (x.delays ++ [(((r.rxTime - r.echo) - r.echoHold).toNat / 2)]).reverse.take 8 |>.reverse
      let s := setPort p { x with lastId := some (r.txTime, r.rxTime), farPos := some r, delays := ds, ids := if r.echo = 0 then x.ids else x.ids + 1 } s
      let s := if ds = [] then s else setR (Pg.lnk p) R.LNK_DELAY_NS (BitVec.ofNat 32 ((ds.foldl (· + ·) 0 / ds.length) % 65536)) s
      let s := setR (Pg.lnk p) R.LNK_FAR (BitVec.ofNat 32 (r.kind.toNat % 16 * 2 ^ 28 + r.die.toNat * 2 ^ 16 + r.portByte.toNat * 2 ^ 8)) s
      let s := setF (Pg.lnk p) R.LNK_STATUS 17 2 v s
      let s := setR (Pg.lkg g) R.LKG_FAR (BitVec.ofNat 32 (r.kind.toNat % 16 * 2 ^ 28 + r.die.toNat * 2 ^ 16 + v * 2 ^ 14)) s
      let s := if lstate s p = LS.id ∧ 8 ≤ (portAt s p).ids then portUpOp p s else s
      portChecks p s
  else s

/-- ID: a frame outside the sequence, whose ACK, NAK and credits are acted on (R640), and its record. -/
def idOp (p : Nat) (f : Frame) (rx : DWord) (s : State) : State :=
  frameIn p f (fun s =>
    let s := frameAcks p f s
    match f.idRec rx with | some r => idRecord p r s | none => s) s

/-! ### DOWN, drains, dies -/

/-- LINK_DOWN (R671, R672): the port is DOWN. While another port of the group serves, it leaves by a remap; once every
in-service port is DOWN the group is empty, their buffers are discarded, and the die it faces directly is unreachable. -/
def linkDownOp (p : Nat) (s : State) : State :=
  if portLive s p ∧ LS.id ≤ lstate s p then
    let g := groupOf p
    let inSet := (portsIn s g).contains p
    let s := namedAlarm (Pg.lnk p) 5 (setLstate p LS.down s)
    let s := updPort p (fun x => { x with failSince := some s.time, ids := 0, delays := [], lastId := none }) s
    if !inSet then s
    else if g < 4 ∨ (portsIn s g).any (fun q => lstate s q = LS.up) then leaveSet p s
    else
      let ps := portsIn s g
      let s := foldS portClear ps s
      let s := setGrp g ⟨[], false⟩ s
      let s := if g = G.off then foldS (fun q => setService q false) ps s else foldS (fun q => serviceBit q false) ps s
      if g = G.io then checkRoutes (dieLost 0xFFF s)
      else if (g = G.east ∨ g = G.west) ∧ dieValid s then checkRoutes (dieLost (neighbour s g) s)
      else s
  else s

/-- DRAIN_TIMEOUT (R669). -/
def drainTimeoutOp (g : Nat) (s : State) : State :=
  if (grpAt s g).drain then
    let n := ((groupPorts g).map (fun p => (portAt s p).buf.length)).foldl (· + ·) 0
    let s := foldS portClear (groupPorts g) s
    satR (Pg.lkg g) R.LKG_DRAIN_LOST n (setGrp g { grpAt s g with drain := false } s)
  else s

/-- PRIM DIE_DOWN. -/
def dieDownOp (d : Nat) (s : State) : State := checkRoutes (dieLost d s)

/-- PRIM DIE_UP: reachable again where a route exists. -/
def dieUpOp (d : Nat) (s : State) : State :=
  if (route s d).isSome then { s with unreach := s.unreach.filter (· ≠ d) } else s

/-! ### Blocks: what START, STOP, ABORT and RETIRE of the pages do (R680, R683, R685, R686) -/

/-- The page enters Running: it trains, or tells the far side that it may rejoin. -/
def lnkRunning (p : Nat) (s : State) : State :=
  if lstate s p = LS.offline then
    let s := ctrlSend p 7 (portIdx p) 0 s
    if (portAt s p).farOff then s else joinSet p (setLstate p LS.up s)
  else if lstate s p = LS.down then setLstate p LS.train s
  else s

/-- STOP: OFFLINE, and out of service by a remap. -/
def lnkStop (p : Nat) (s : State) : State :=
  if lstate s p = LS.up then leaveSet p (ctrlSend p 6 (portIdx p) 0 s) else s

/-- ABORT discards the retry buffer and the queues without a handover. -/
def lnkAbort (p : Nat) (s : State) : State :=
  let s := if groupOf p < 4 then (match sliceOfPort s p with | some i => sliceStranded i 6 false s | none => s) else s
  let s := portClear p s
  let r := grpAt s (groupOf p)
  let s := setGrp (groupOf p) { r with remap := r.remap.filter (fun e => e.1 ≠ p) } s
  let s := if (portsIn s (groupOf p)).contains p then setService p false s else s
  if lstate s p = LS.up then setLstate p LS.offline s else s

/-- START with a field out of range: CONFIG (R683, R686). -/
def lnkConfigBad (s : State) (p : Nat) : Bool :=
  let n := fun (o len : Nat) => getF s (Pg.lnk p) o 0 len
  decide (n R.LNK_LANE_LIMIT 16 = 0) || decide (n R.LNK_LANE_WINDOW 14 = 0) || decide (10000 < n R.LNK_LANE_WINDOW 14) ||
  decide (n R.LNK_ACK_TIMEOUT 16 < 100) || decide (n R.LNK_DEAD_NS 16 < 500) || decide (n R.LNK_TRAIN_LIMIT 16 < 100) ||
  decide (60000 < n R.LNK_TRAIN_LIMIT 16)
def lkgConfigBad (s : State) (g : Nat) : Bool :=
  let v := getF s (Pg.lkg g) R.LKG_DRAIN_US 0 14
  decide (v < 10) || decide (10000 < v)

/-- LKG_REACH, read (R671, R685). -/
def lkgReach (s : State) : Word :=
  let n := if dieValid s then pkgCount s else 0
  let v := (List.range n).foldl (fun a q => if dieOfPos s q = dieNum s || reachable s (dieOfPos s q) then a + 2 ^ q else a) 0
  BitVec.ofNat 32 (v % 256 + (if reachable s 0xFFF then 256 else 0))

/-! ### Messages -/

/-- Class of a message type (R649). -/
def classOf (mtype : Nat) : Option Nat :=
  if mtype = 0 then none
  else if mtype = 1 ∨ mtype = 3 ∨ mtype = 5 ∨ mtype = 6 then some Cls.mem
  else if mtype = 2 ∨ mtype = 13 then some Cls.coh
  else if 7 ≤ mtype ∧ mtype ≤ 12 then some Cls.int
  else if mtype = 14 ∨ mtype = 15 then some Cls.dbg
  else none

/-- Hash of a message that is forwarded (R653). -/
def fwdHash (mtype ddie sdie : Nat) (body : List Byte) : Nat :=
  if mtype = 1 ∨ mtype = 2 then (numOf ((body.drop 8).take 6) / 128 % 128) ^^^ (ddie % 128) else sdie ^^^ ddie

/-- MESSAGE_FORWARD (R649, R654, R655): a message that arrived on a group for another die. -/
def forwardOp (g mtype ddie sdie hops cls : Nat) (body : List Byte) (s : State) : State :=
  if classOf mtype ≠ some cls then lkgDiscard g 3 ddie s
  else if g = G.off then lkgDiscard g 4 ddie s
  else if hops = 0 then lkgDiscard g 2 ddie s
  else
    match route s ddie with
    | none => lkgDiscard g 1 ddie s
    | some o =>
      if s.unreach.contains ddie then lkgDiscard g 1 ddie s
      else if o = g then lkgDiscard g 2 ddie s
      else groupPost o (fwdHash mtype ddie sdie body) cls (body.length / 8) (.forward o mtype ddie sdie (hops - 1) cls body)
        (wrapR (Pg.lkg o) R.LKG_RELAYED 1 s)

/-- A flit from a link, with SRC the endpoint of the arriving group (R419, R650). -/
def linkFlit (g : Nat) (f : Flit) : Flit := { f with src := BitVec.ofNat 9 (0x180 + (g - 4)) }

/-- A multicast flit of the I/O die enters at leaf 20 (R439). Which targets' outputs have credit is not known from the command, and left
free. -/
def mcFromIo (f : Flit) (s : State) : State :=
  let (a, s) := fresh s
  let (b, s) := fresh s
  mcOp f (BitVec.ofNat 120 (a.toNat + b.toNat * 2 ^ 64)) s

/-- FLIT: a bulk flit is delivered to its endpoint by its type; a multicast flit enters at leaf 20 only (R439). INV and IACK
belong to CFLIT. -/
def flitOp (g : Nat) (f : Flit) (s : State) : State :=
  let f := linkFlit g f
  match f.typ.toNat with
  | 0 | 1 => reqFlit f s
  | 2 => rdataOp f s
  | 3 => wackOp f s
  | 4 => if g = G.io then mcFromIo f s else lkgDiscard g 3 (dieNum s) s
  | 5 => mcrepOp f s
  | 6 | 8 => redOp f g s
  | 7 => rackOp f s
  | _ => lkgDiscard g 3 (dieNum s) s

/-- CFLIT: INV or IACK. -/
def cflitOp (g : Nat) (f : Flit) (s : State) : State :=
  let f := linkFlit g f
  match f.typ.toNat with
  | 9 => invOp f s
  | 10 => iackOp f s
  | _ => lkgDiscard g 3 (dieNum s) s

/-- PRIM ASSIGN (R677): the first one after CHIP_RESET_N sets the numbers and ID frames go out again on every UP port; the
repair fuses are then read and applied (R688 step 5, R272). A later one with other values is refused. -/
def assignOp (die base count pos : Nat) (s : State) : State :=
  if !dieValid s then
    let s := setR Pg.glb R.GLB_DIE_NUM (BitVec.ofNat 32 (0x80000000 + die)) s
    let s := setR Pg.glb R.GLB_PKG (BitVec.ofNat 32 (base * 65536 + count * 16 + pos)) s
    let s := foldS (fun p s => if lstate s p = LS.up then (let (t, s) := fresh s; idOut p t s) else s) (List.range nPorts) s
    let s := foldS (fun (e : Nat × Word) => setR (mPg (e.1 / 2) (decide (e.1 % 2 = 1))) R.MXA_REPAIR (e.2 &&& 0x9F00803F)) s.fuses.repairs s
    foldS portChecks (List.range nPorts) s
  else if dieNum s = die ∧ pkgBase s = base ∧ pkgCount s = count ∧ pkgPos s = pos then s
  else lkgDiscard G.io 5 die s

/-! ### The commands -/

/-- IDLE. -/
def execIdle (p : Nat) (f : Frame) (s : State) : Host.Outcome State Fault Refusal := onUnit p nPorts (idleOp p f) s

/-- DATA. -/
def execData (p : Nat) (f : Frame) (s : State) : Host.Outcome State Fault Refusal := onUnit p nPorts (dataOp p f) s

/-- CTRL. -/
def execCtrl (p : Nat) (head : BitVec 64) (payload : BitVec 512) (tail : BitVec 64) (corr : List Nat) (s : State) : Host.Outcome State Fault Refusal :=
  onUnit p nPorts (ctrlOp p (frameOf head payload tail corr)) s

/-- ID. -/
def execId (p : Nat) (f : TimedFrame) (s : State) : Host.Outcome State Fault Refusal := onUnit p nPorts (idOp p f.frame f.rxTime) s

/-- HOVR. -/
def execHovr (p : Nat) (f : Frame) (s : State) : Host.Outcome State Fault Refusal := onUnit p nPorts (hovrOp p f) s

/-- ACK_TIMEOUT. -/
def execAckTimeout (p : Nat) (s : State) : Host.Outcome State Fault Refusal := onUnit p nPorts (ackTimeoutOp p) s

/-- SWAPREQ. -/
def execSwapreq (p : Nat) (pos : BitVec 8) (s : State) : Host.Outcome State Fault Refusal := onUnit p nPorts (swapReqOp p pos.toNat) s

/-- SWAP. -/
def execSwap (p : Nat) (arg1 : BitVec 8) (_seq : BitVec 12) (s : State) : Host.Outcome State Fault Refusal :=
  onUnit p nPorts (swapOp p arg1.toNat) s

/-- HALFREQ. -/
def execHalfreq (p : Nat) (h : BitVec 8) (s : State) : Host.Outcome State Fault Refusal := onUnit p nPorts (halfReqOp p h.toNat) s

/-- HALF. -/
def execHalf (p : Nat) (h : BitVec 8) (_seq : BitVec 12) (s : State) : Host.Outcome State Fault Refusal := onUnit p nPorts (halfOp p h.toNat) s

/-- CTRL_RETIRE. -/
def execCtrlRetire (p : Nat) (idx : BitVec 8) (e : BitVec 12) (s : State) : Host.Outcome State Fault Refusal :=
  onUnit p nPorts (retireWordOp p idx.toNat e.toNat) s

/-- OFFLINE. -/
def execOffline (p : Nat) (idx : BitVec 8) (s : State) : Host.Outcome State Fault Refusal := onUnit p nPorts (offlineOp p idx.toNat) s

/-- ONLINE. -/
def execOnline (p : Nat) (idx : BitVec 8) (s : State) : Host.Outcome State Fault Refusal := onUnit p nPorts (onlineOp p idx.toNat) s

/-- REMAP_RESUME. -/
def execRemapResume (g : Nat) (s : State) : Host.Outcome State Fault Refusal := onUnit g 8 (remapResumeOp g) s

/-- LANE_WINDOW: the counts of the window restart. -/
def execLaneWindow (p : Nat) (s : State) : Host.Outcome State Fault Refusal :=
  onUnit p nPorts (foldS (fun i => setF (Pg.lst p) (R.LST_LANE_ERR0 + 4 * i) 16 16 0) (List.range 18)) s

/-- LANE_LOCK_LOSS. -/
def execLaneLockLoss (p lane : Nat) (s : State) : Host.Outcome State Fault Refusal :=
  onUnit p nPorts (fun s => if lane < 18 ∧ portHears s p then rxFail p lane s else s) s

/-- TRAIN_DONE. -/
def execTrainDone (p : Nat) (rxFailed : BitVec 18) (reversed wired : Bool) (v : BitVec 8) (s : State) : Host.Outcome State Fault Refusal :=
  onUnit p nPorts (trainDoneOp p rxFailed.toNat reversed wired v.toNat) s

/-- TRAIN_RETRY. -/
def execTrainRetry (p : Nat) (s : State) : Host.Outcome State Fault Refusal := onUnit p nPorts (trainRetryOp p) s

/-- TRAIN_LIMIT. -/
def execTrainLimit (p : Nat) (s : State) : Host.Outcome State Fault Refusal := onUnit p nPorts (trainLimitOp p) s

/-- ID_SEND. -/
def execIdSend (p : Nat) (t : DWord) (s : State) : Host.Outcome State Fault Refusal := onUnit p nPorts (idSendOp p t) s

/-- RETRAIN: a write of LNK_ACTION. -/
def execRetrain (p : Nat) (v : Word) (s : State) : Host.Outcome State Fault Refusal :=
  onUnit p nPorts (fun s => if bit v 0 then retrainOp p (bit v 1) s else s) s

/-- LINK_DOWN. -/
def execLinkDown (p : Nat) (s : State) : Host.Outcome State Fault Refusal := onUnit p nPorts (linkDownOp p) s

/-- DRAIN_TIMEOUT. -/
def execDrainTimeout (g : Nat) (s : State) : Host.Outcome State Fault Refusal := onUnit g 8 (drainTimeoutOp g) s

/-- MESSAGE_FORWARD. -/
def execMessageForward (g : Nat) (mtype : BitVec 4) (ddie sdie : BitVec 12) (hops : BitVec 4) (cls : BitVec 2) (body : List Byte) (s : State) :
    Host.Outcome State Fault Refusal :=
  onUnit g 8 (forwardOp g mtype.toNat ddie.toNat sdie.toNat hops.toNat cls.toNat body) s

/-- CFLIT. -/
def execCflit (g : Nat) (f : Flit) (s : State) : Host.Outcome State Fault Refusal := onUnit g 8 (cflitOp g f) s

/-- ASSIGN. -/
def execAssign (die base : BitVec 12) (count pos : BitVec 4) (s : State) : Host.Outcome State Fault Refusal :=
  act s (assignOp die.toNat base.toNat count.toNat pos.toNat s)

/-- DIE_DOWN. -/
def execDieDown (d : BitVec 12) (s : State) : Host.Outcome State Fault Refusal := act s (dieDownOp d.toNat s)

/-- DIE_UP. -/
def execDieUp (d : BitVec 12) (s : State) : Host.Outcome State Fault Refusal := act s (dieUpOp d.toNat s)

/-- FAILED_CRC_FRAME. -/
def execFailedCrcFrame (p : Nat) (first : BitVec 640) (rest : List (BitVec 640)) (s : State) : Host.Outcome State Fault Refusal :=
  onUnit p nPorts (failedFramesOp p (first :: rest)) s

end Sys2Proof.Machine
end

