-- ==== Sys2Proof/Machine/Pages.lean ====
section
/-! DEFINITION. What leaves with a page: the work that ABORT and RETIRE discard (R80, R696), held requests, and a page brought to
Retired or Absent. -/

namespace Sys2Proof.Machine

/-- The flit of a wait in a slice. -/
def SWait.flit : SWait → Flit
  | .stackRead f _ | .inval f _ _ _ | .stackWrite f _ _ | .evict f _ _ _ | .behind f _ => f

/-- Every request that a slice holds completes with error. -/
def sliceAbort (i : Nat) (s : State) : State :=
  let ws := (sliceAt s i).waits
  let s := updSlice i (fun x => { x with waits := [] }) s
  let s := foldS (fun (w : SWait) s => respondErr w.flit (sliceErr i 5 w.flit.addr.toNat (rqPtn s w.flit) s)) ws s
  foldS (fun (t : Stage) => dropStage i t.tile) (sliceAt s i).tiles s

/-- A register access, which the control network carries (R454, R455). -/
def onControl (o : Op) : Bool := match o.kind with | .regAccess _ => true | _ => false

/-- ABORT of NETB: every flit in the network is discarded, and every outstanding operation ends with error (R397, R432). -/
def netAbort (s : State) : State :=
  opsLost (fun o => !onControl o) (setR Pg.netb R.NETB_RED_OPEN 0 { s with reds := [], redWait := [], mcasts := [] })

/-- What a block discards at ABORT and RETIRE, every pending request completed with error (R80). -/
def pageAbort (pg : Nat) (s : State) : State :=
  match pageBlk pg with
  | some (.cor, c) => unitClose (imgUnit c) (updCore c (fun x => { x with loading := false }) s)
  | some (.mov, c) => movAbort c s
  | some (.gth, c) => gthAbort c s
  | some (.mxa, i) => combClose (i / 2) (decide (i % 2 = 1)) (planesDrop (i / 2) (decide (i % 2 = 1)) s)
  | some (.vec, c) => vecClear c s
  | some (.slc, i) => sliceAbort i s
  | some (.cch, i) => cacheDropIf i (fun _ => true) s
  | some (.med, i) => medStop i s
  | some (.lvn, i) => lvnAbort i s
  | some (.lnk, p) => lnkAbort p s
  | some (.dbl, d) => dblDiscard d s
  | some (.netb, _) => netAbort s
  | some (.cal, k) => calDisable k s
  | some (.twn, _) => twnStop s
  | _ => s

/-- A page is brought to Retired: its work is discarded, and what depends on it learns that it left service; the retirement of a
page of a core is CORE for its partition whatever state the page was in (R163). -/
def pageRetire (pg : Nat) (s : State) : State :=
  let st := bstate s pg
  if st = B.absent ∨ st = B.retired then s
  else
    let evs := if st = B.starting ∨ st = B.running ∨ st = B.stopping ∨ (siteOfPage pg).isSome then pageDown pg s else []
    let s := cascade 4096 evs (setBState pg B.retired s)
    let s := match pageBlk pg with | some (.slc, i) => sliceRetired i s | _ => s
    releaseHeld pg (pageAbort pg s)

/-- The seven pages of a site. -/
def sitePages (c : Nat) : List Nat := (List.range 7).map (Pg.cor c + ·)

/-- The four pages of a slice. -/
def slicePages (i : Nat) : List Nat := [Pg.slc i, Pg.lvn i, Pg.med i, Pg.cch i]

/-- A page is powered off. -/
def pageOff (pg : Nat) (s : State) : State := if bstate s pg = B.absent then s else setBState pg B.absent s

/-- A powered-off site comes back: its block-specific registers take their reset values, with what reads had captured of them and
writes had buffered, and its memories are clear (R66, R89, R90, R374). Page headers are kept in the base layer. -/
def sitePower (c : Nat) (s : State) : State :=
  let mine := fun (k : Nat) => decide (Pg.cor c * 0x1000 ≤ k) && decide (k < (Pg.cor c + 7) * 0x1000) && decide (0x40 ≤ k % 0x1000)
  let s := { s with regs := s.regs.filter (fun e => !mine e.1), capt := s.capt.filter (fun e => !mine e.1), wbuf := s.wbuf.filter (fun e => !mine e.1) }
  let s := setGth c Gth.init (setVec c Vec.init (setCore c Core.init s))
  let s := foldS (fun m => setArr c m Arr.init) [false, true] s
  foldS (fun e => setMover c e ⟨[], [], 0⟩) [false, true] s

/-- A partition's DEGRADED follows the sites in force while it runs (R164). -/
def ptnsDegraded (s : State) : State :=
  foldS (fun p s => if runs s (Pg.ptn p) then setDegraded (Pg.ptn p) (ptnDegraded s p) s else s) (List.range nPtns) s

/-- Per-slice height of a link group, in 512 MiB units, from SLC_HOME of the lowest-numbered slice bound to one of its ports
(R514, R517). -/
def groupHeight (s : State) (g : Nat) : Nat :=
  match (List.range nSlices).find? (fun i => match portOfSlice s i with | some j => decide (j / 8 = g) | none => false) with
  | some i => getF s (Pg.slc i) R.SLC_HOME (if g % 2 = 1 then 16 else 0) 8
  | none => (s.heights[g]?).getD 0

/-- An SLC page enters Running: the first one recomputes the placement (R519); the spare on a north port is DEGRADED (R566).
A change of the segments is a change of the Almanac's table 4 (R712). -/
def slcRunning (i : Nat) (s : State) : State :=
  let old := segs s
  let s := if (List.range nSlices).all (fun k => k = i || !runs s (Pg.slc k)) then { s with heights := (List.range 4).map (groupHeight s) } else s
  let s := if segs s = old then s else wrapR Pg.alm R.ALM_SEQ 1 s
  setDegraded (Pg.slc i) (decide (i = 32) && (match portOfSlice s i with | some j => decide (j < 16) | none => false)) s

/-- CCH is DEGRADED while any way is disabled. -/
def cchRunning (i : Nat) (s : State) : State := setDegraded (Pg.cch i) (decide (getF s (Pg.cch i) R.CCH_WAY_FAIL 0 16 ≠ 0)) s

end Sys2Proof.Machine
end

