-- ==== Sys2Proof/Machine/Almanac.lean ====
section
/-! DEFINITION. Bring-up and the Almanac (R687–R712, R723–R726): BOOT and self-test, the repair record, which sites and slices are
used, the logical map, substitution of a site in service, the capability class and the tables. -/

namespace Sys2Proof.Machine

def updAlm (f : Alm → Alm) (s : State) : State := { s with alm := f s.alm }

/-- A table or the class has changed (R712). -/
def almSeq (s : State) : State := wrapR Pg.alm R.ALM_SEQ 1 s

/-! ### The capability class (R709, R725) -/

def kindSited (s : State) (k : Nat) : Nat := ((List.range 120).filter (fun n => kindOfLogical s n = k && (siteOf s n).isSome)).length
def portsServed (s : State) : Nat := ((List.range 32).filter (fun j => (sliceOfPort s j).isSome)).length

/-- ALM_CLASS of the hardware in use. -/
def classValue (s : State) : Word :=
  let m := kindSited s 0
  let v := kindSited s 1
  let c := kindSited s 2
  let p := portsServed s
  BitVec.ofNat 32 (b2n (decide (m < 96)) * 2 ^ 31 + b2n (decide (v < 12)) * 2 ^ 30 + b2n (decide (c < 12)) * 2 ^ 29 + b2n (decide (p < 32)) * 2 ^ 28 +
    p * 2 ^ 22 + m * 2 ^ 15 + v * 2 ^ 11 + c * 2 ^ 7)

/-- ALM_STATUS.MAP_DONE. -/
def mapDone (s : State) : Bool := bit (getR s Pg.alm R.ALM_STATUS) 31

/-- The class after MAP_DONE follows the hardware, with one CLASS alarm at each change. -/
def classUpdate (s : State) : State :=
  let v := classValue s
  if mapDone s ∧ getR s Pg.alm R.ALM_CLASS ≠ v then
    namedAlarm Pg.alm 1 (setDegraded Pg.alm (decide (v.toNat / 2 ^ 28 ≠ 0)) (almSeq (setR Pg.alm R.ALM_CLASS v s)))
  else s

/-- The first class, at MAP_DONE: a CLASS alarm only if it is reduced. -/
def classFirst (s : State) : State :=
  let v := classValue s
  let s := setR Pg.alm R.ALM_STATUS (setBit (getR s Pg.alm R.ALM_STATUS) 31 true) (almSeq (setR Pg.alm R.ALM_CLASS v s))
  if v.toNat / 2 ^ 28 ≠ 0 then namedAlarm Pg.alm 1 (setDegraded Pg.alm true s) else s

/-- The sites or slices in use have changed. -/
def almChange (s : State) : State := classUpdate (almSeq s)

/-! ### The repair record (R701–R705) -/

/-- Bytes of an entry. -/
def entryBytes (e : RecEntry) : List Byte := bytesOf 1 e.kind ++ bytesOf 1 0 ++ bytesOf 2 e.unit ++ bytesOf 4 e.value.toNat ++ bytesOf 8 e.time.toNat

/-- A copy of the record as a 4 KiB block. -/
def recBytes (s : State) (seq : DWord) (es : List RecEntry) : List Byte :=
  let body := bytesOf 4 1 ++ bytesOf 4 es.length ++ bytesOf 8 seq.toNat ++ bytesOf 16 s.fuses.dieId.toNat ++ bytesOf 8 (if timeValid s then s.time.toNat else 0) ++
    bytesOf 24 0 ++ (es.map entryBytes).flatten
  withCrc (body ++ List.replicate (0xFFC - body.length) 0)

/-- The entries and sequence of a copy, if it is valid (R703). -/
def recParse (s : State) (bs : List Byte) : Option (DWord × List RecEntry) :=
  let t := tabOf bs
  let n := tabNum t 4 4
  if bs.length = 4096 ∧ crcOk t 4096 ∧ tabNum t 0 4 = 1 ∧ n ≤ 250 ∧ tabNum t 0x10 16 = s.fuses.dieId.toNat then
    some (BitVec.ofNat 64 (tabNum t 8 8), (List.range n).map (fun k =>
      let b := 0x40 + 16 * k
      { kind := tabNum t b 1, unit := tabNum t (b + 2) 2, value := BitVec.ofNat 32 (tabNum t (b + 4) 4), time := BitVec.ofNat 64 (tabNum t (b + 8) 8) }))
  else none

/-- A MED page of a link group is Running, so that the group's stack can be reached (R701). -/
def medOfGroup (s : State) (g : Nat) : Bool :=
  (List.range 8).any (fun j => match sliceOfPort s (8 * g + j) with | some i => runs s (Pg.med i) | none => false)

/-- ALM_REC_COUNT and ALM_REC_SEQ follow the record in force. -/
def recNote (s : State) : State :=
  setR Pg.alm R.ALM_REC_SEQ (BitVec.ofNat 32 s.alm.recSeq.toNat) (setR Pg.alm R.ALM_REC_COUNT (BitVec.ofNat 32 s.alm.entries.length) s)

/-- Copy A and then copy B rewritten, with the write sequence incremented (R704): a copy that cannot be written gives one RECORD
alarm, and neither records REC_LOST. -/
def recWrite (s : State) : State :=
  let s := recNote (updAlm (fun a => { a with recSeq := a.recSeq + 1 }) s)
  let bs := recBytes s s.alm.recSeq s.alm.entries
  let put := fun (k : Nat) (g : Nat) (s : State) =>
    if medOfGroup s g then { s with recCopies := Tab.put s.recCopies k bs } else namedAlarm Pg.alm 2 s
  let lost := !medOfGroup s 0 && !medOfGroup s 2
  let s := put 1 2 (put 0 0 s)
  if lost then fault Pg.alm 9 s else s

/-- An event is appended (R704, R705); until the record has been read or counted unreadable it waits. -/
def recAppend (kind unit : Nat) (value : Word) (s : State) : State :=
  let e : RecEntry := { kind := kind, unit := unit, value := value, time := if timeValid s then s.time else 0 }
  if !s.alm.recDone then updAlm (fun a => { a with recPend := a.recPend ++ [e] }) s
  else if 250 ≤ s.alm.entries.length then namedAlarm Pg.alm 2 (setF Pg.alm R.ALM_STATUS 28 1 1 s)
  else recWrite (updAlm (fun a => { a with entries := a.entries ++ [e] }) s)

/-- The record in force names a unit. -/
def listed (s : State) (kind unit : Nat) : Bool := s.alm.entries.any (fun e => e.kind = kind && e.unit = unit)

/-! ### Retirements (R696, R704) -/

/-- A site is retired in service or at bring-up: its present pages, a SITE entry, one RETIRED alarm. A site in use leaves
the map; a reserve of a fixed row turns unusable in table 0 (R711, R712). -/
def siteRetire (c : Nat) (s : State) : State :=
  let used := siteUsed s c
  let s := foldS pageRetire (sitePages c) s
  let s := setFamilyBit Pg.alm R.ALM_USED0 c false s
  let s := ptnsDegraded (recAppend 1 c 0 (namedAlarm Pg.alm 4 s))
  if used then almChange s else if rowFixed s (rowOf c) && decide (c % 11 = 10) then almSeq s else s

/-- A slice is retired by its SLC page: a SLICE entry and one RETIRED alarm. -/
def sliceEntry (i : Nat) (s : State) : State := almChange (recAppend 3 i 0 (namedAlarm Pg.alm 4 s))

/-- A spine leaves service (R423). -/
def spineOut (k : Nat) (s : State) : State :=
  if bit (getR s Pg.netb R.NETB_SPINES) k then setDegraded Pg.netb true (setR Pg.netb R.NETB_SPINES (setBit (getR s Pg.netb R.NETB_SPINES) k false) s) else s

/-! ### Rows (R694, R695, R697, R708) -/

def fuseGood (s : State) (c : Nat) : Bool := bit s.fuses.siteGood c

/-- A page is still in self-test: in the Starting that a reset, a retest or a substitution began, not in that of a START (R76, R78). -/
def inSelftest (s : State) (pg : Nat) : Bool := decide (bstate s pg = B.starting) && !s.testEnded.contains pg

/-- A page of the list has recorded SELFTEST. -/
def anyFailed (s : State) (pgs : List Nat) : Bool := pgs.any (fun pg => bit (getR s pg R.HDR_FAULT) 0)

/-- A site can be used (R695, R697). -/
def siteUsable (s : State) (c : Nat) : Bool :=
  fuseGood s c && !listed s 1 c && !anyFailed s (sitePages c) && decide (bstate s (Pg.cor c) ≠ B.retired) && decide (bstate s (Pg.cor c) ≠ B.absent)

/-- The outcome of a site at the fixing of its row. -/
def siteDecide (c : Nat) (s : State) : State :=
  if !fuseGood s c then foldS pageOff (sitePages c) s
  else if listed s 1 c then namedAlarm Pg.alm 4 (foldS pageRetire (sitePages c) s)
  else if anyFailed s (sitePages c) then siteRetire c s
  else s

/-- Pages of a reserve that the kind it runs as lacks read Absent. -/
def reservePages (c kind : Nat) (s : State) : State :=
  let s := if kind = 0 then s else pageOff (Pg.mxa c 1) (pageOff (Pg.mxa c 0) s)
  let s := if kind = 2 then pageOff (Pg.vec c) s else s
  if kind = 2 then s else pageOff (Pg.gth c) s

/-- The home site of a row that its reserve stands in for: the S-core site, the V-core site, the lowest M-core site. -/
def rowNeeds (s : State) (row : Nat) : Option Nat :=
  ([9, 8] ++ List.range 8).findSome? (fun col => if siteUsable s (row * 11 + col) then none else some (row * 11 + col))

/-- The partitions in Starting whose START waits for a row (R708). -/
def rowWaiters (s : State) : List Nat :=
  (List.range nPtns).filter (fun p => decide (bstate s (Pg.ptn p) = B.starting) && decide ((ptnAt s p).phase = .loading false) && !allPlaced s p)

/-- A row has been fixed: a START that waited goes on once all its cores have sites, and is refused where one has none (R120). -/
def rowGo (p : Nat) (s : State) : State :=
  if (ptnLogicals s p).any (fun n => rowFixed s (rowOf (homeSite s n)) && (siteOf s n).isNone) then
    startRefused (Pg.ptn p) PC.config (updPtn p (fun x => { x with phase := .idle }) s)
  else if allPlaced s p then ptnBegin p s else s

/-- The placement of a row is fixed once its self-tests have ended and the record is known. -/
def rowFix (row : Nat) (s : State) : State :=
  let cs := (List.range 11).map (row * 11 + ·)
  if rowFixed s row ∨ !s.alm.recDone ∨ cs.any (fun c => (sitePages c).any (inSelftest s)) then s
  else
    let wait := rowWaiters s
    let s := foldS siteDecide cs s
    let r := reserveOf row
    let s := foldS (fun c s => if siteUsable s c then setFamilyBit Pg.alm R.ALM_USED0 c true s else s) (cs.take 10) s
    let s :=
      if siteUsable s r then
        match rowNeeds s row with
        | some h => setFamilyBit Pg.alm R.ALM_USED0 r true (reservePages r (kindOfSite h) { s with standIn := Tab.put s.standIn row h })
        | none => foldS pageOff (sitePages r) s
      else s
    let s := almSeq (setR Pg.alm R.ALM_STATUS (setBit (getR s Pg.alm R.ALM_STATUS) (12 + row) true) s)
    foldS rowGo wait (if (List.range 12).all (rowFixed s) then classFirst s else s)

/-- The outcomes of the slices (R700): the unusable ones are retired, and the spare is bound to the port of the lowest-numbered one. -/
def slicesFix (s : State) : State :=
  let all := List.range nSlices
  if s.alm.slicesDone ∨ !s.alm.recDone ∨ all.any (fun i => (slicePages i).any (inSelftest s)) then s
  else
    let bad := fun (s : State) (i : Nat) => !bit s.fuses.sliceGood i || listed s 3 i || anyFailed s (slicePages i) || decide (bstate s (Pg.slc i) = B.retired)
    let lost := all.filter (bad s)
    let s := updAlm (fun a => { a with slicesDone := true }) s
    let s := foldS (fun i s =>
      let inForce := decide (bstate s (Pg.slc i) ≠ B.retired)
      let new := bit s.fuses.sliceGood i && !listed s 3 i && inForce
      let s := foldS pageRetire (slicePages i) s
      if new then sliceEntry i s else if inForce then almChange (namedAlarm Pg.alm 4 s) else s) lost s
    match lost with
    | i :: _ =>
      if i < 32 ∧ !lost.contains 32 then
        let s := setR (Pg.slc 32) R.SLC_BIND (BitVec.ofNat 32 (0x80000000 + getF s (Pg.slc i) R.SLC_BIND 0 6)) s
        almChange (slcRunning 32 s)
      else s
    | [] => s

/-- Decisions that can now be made. -/
def decide_ (s : State) : State := slicesFix (foldS rowFix (List.range 12) s)

/-! ### Self-test (R77, R91, R691, R699) -/

/-- A page is in self-test again. -/
def testAgain (pg : Nat) (s : State) : State := { s with testEnded := s.testEnded.filter (· ≠ pg), selfFailed := s.selfFailed.filter (· ≠ pg) }

/-- The implemented bits of MXA_REPAIR (R278). -/
def repairBits (v : Word) : Word := v &&& 0x9F00803F

/-- An array tests again with a repair that has been written. READY follows the outcome (R91). -/
def arrayRetest (pg : Nat) (append : Bool) (s : State) : State :=
  let s := testAgain pg (setR pg R.HDR_FAULT (setBit (getR s pg R.HDR_FAULT) 0 false) (setBState pg B.starting s))
  updAlm (fun a => { a with retest := a.retest.filter (fun e => e.1 ≠ pg) ++ [(pg, append)] }) s

/-- The covering MXA_REPAIR of R699, if the failures of an array allow one: at most one row and one column, spares sound. -/
def coverFor (rows : Word) (cols : BitVec 36) : Option Word :=
  let rs := bitsSet 32 rows.toNat
  let cs := bitsSet 34 cols.toNat
  if rs.length ≤ 1 ∧ cs.length ≤ 1 ∧ (rs = [] ∨ !bit cols 35) ∧ (cs = [] ∨ !bit cols 34) then
    some (BitVec.ofNat 32 ((match rs with | r :: _ => 2 ^ 31 + r * 2 ^ 24 | [] => 0) + (match cs with | c :: _ => 2 ^ 15 + c | [] => 0)))
  else none

/-- SEC's self-test (R807): the key status and the public key. -/
def secTested (s : State) : State :=
  let s := setF Pg.sec R.SEC_STATUS 30 1 (b2n s.fuses.rootValid) s
  if s.fuses.keyGood then
    foldS (fun k => setR Pg.sec (R.SEC_PUBKEY0 + 4 * k) (BitVec.ofNat 32 (Config.dieKey.toNat >>> (32 * k)))) (List.range 24) (setF Pg.sec R.SEC_STATUS 31 1 1 s)
  else setF Pg.sec R.SEC_STATUS 29 1 1 s

/-- A page enters its settled state (R63, R77). -/
def pageSettle (pg : Nat) (s : State) : State :=
  match pageBlk pg with
  | none => s
  | some (b, i) =>
    let s := setReady pg true (setBState pg (if b.settlesRunning then B.running else B.stopped) s)
    let s := match b with
      | .slc => slcRunning i s
      | .cch => cchRunning i s
      | .med => medRunning i s
      | .lnk => lnkRunning i s
      | .lkg => setDegraded (Pg.lkg i) (groupShort s i) s
      | .sec => secTested s
      | _ => s
    releaseHeld pg s

/-- ALM_ST_SITE: every page of the site has passed. -/
def siteNote (c : Nat) (s : State) : State :=
  if (sitePages c).any (inSelftest s) then s else setFamilyBit Pg.alm R.ALM_ST_SITE0 c (!anyFailed s (sitePages c)) s

/-- The block was released to self-test (R688, R691). -/
def testReleased (s : State) (pg : Nat) : Bool :=
  s.alm.booted || (match pageBlk pg with | some (b, _) => decide (b = .dir ∨ b = .glb ∨ b = .alm ∨ b = .lnk ∨ b = .lst ∨ b = .lkg) | none => false)

/-- The site whose reserve is under test for ALM_SUBST. -/
def substSite (s : State) : Option Nat := s.alm.subst.map (fun n => reserveOf (rowOf (homeSite s n)))

/-- The self-test of a page has ended. -/
def selftestOp (pg : Nat) (pass : Bool) (rows : Word) (cols : BitVec 36) (s : State) : State :=
  if inSelftest s pg ∧ testReleased s pg ∧ (siteOfPage pg = none ∨ siteOfPage pg ≠ substSite s) then
    let mxa := isMxaPage pg
    let again := s.alm.retest.find? (fun e => e.1 = pg)
    let s := updAlm (fun a => { a with retest := a.retest.filter (fun e => e.1 ≠ pg) }) s
    let s := if mxa then bistRecord pg rows cols s else s
    let s := match pageBlk pg with | some (.cch, i) => if pass then setR (Pg.cch i) R.CCH_WAY_FAIL (BitVec.ofNat 32 (rows.toNat % 65536)) s else s | _ => s
    let s :=
      if !pass then releaseHeld pg (fault pg 0 s)
      else if mxa ∧ !bistPass s pg rows cols then
        match coverFor rows cols with
        | some v => if again.isSome then releaseHeld pg (fault pg 0 s) else arrayRetest pg true (setR pg R.MXA_REPAIR v s)
        | none => releaseHeld pg (fault pg 0 s)
      else
        let s := pageSettle pg s
        if again = some (pg, true) then (match pageBlk pg with | some (.mxa, i) => recAppend 2 i (getR s pg R.MXA_REPAIR) s | _ => s) else s
    let s := if pg = Pg.netb then foldS (fun k s => if bit (getR s Pg.netb R.NETB_SPINES) k then recAppend 4 k 0 (spineOut k s) else s) (bitsSet 8 rows.toNat) s else s
    decide_ (match siteOfPage pg with | some c => siteNote c s | none => s)
  else s

/-! ### BOOT and the record (R689, R701, R703) -/

/-- BOOT. -/
def bootOp (ms : Nat) (s : State) : State :=
  if dieValid s ∧ !s.alm.booted then
    let s := updAlm (fun a => { a with booted := true }) s
    if ms = 0 then s else setR Pg.glb R.GLB_CMD_TIMEOUT (BitVec.ofNat 32 ms) s
  else s

/-- Both copies have been read or counted unreadable: the record in force is chosen and applied. -/
def recChoose (s : State) : State :=
  let a := s.alm
  if a.recDone ∨ a.readA = 0 ∨ a.readB = 0 then s
  else
    let pend := a.recPend
    let useA := a.readA = 2 ∧ (a.readB ≠ 2 ∨ a.seqB.toNat ≤ a.seqA.toNat)
    let s :=
      if useA then updAlm (fun a => { a with entries := a.entA, recSeq := a.seqA }) s
      else if a.readB = 2 then updAlm (fun a => { a with entries := a.entB, recSeq := a.seqB }) s
      else s
    let s := recNote (updAlm (fun a => { a with recDone := true, recPend := [] }) s)
    let s := if a.readA = 2 ∨ a.readB = 2 then setF Pg.alm R.ALM_STATUS 30 1 1 s
      else namedAlarm Pg.alm 2 (setF Pg.alm R.ALM_STATUS 29 1 1 s)
    let s := foldS (fun (e : RecEntry) s =>
      if e.kind = 4 ∧ e.unit < 8 then spineOut e.unit s
      else if e.kind = 2 ∧ e.unit < 264 then
        let pg := mPg (e.unit / 2) (decide (e.unit % 2 = 1))
        let s := setR pg R.MXA_REPAIR (repairBits e.value) s
        if bit (getR s pg R.HDR_READY) 0 ∨ bit (getR s pg R.HDR_FAULT) 0 then arrayRetest pg false s else s
      else s) s.alm.entries s
    decide_ (foldS (fun (e : RecEntry) => recAppend e.kind e.unit e.value) pend s)

/-- REPAIR_RECORD_READ of one copy. -/
def recReadOp (copyB readable : Bool) (bs : List Byte) (s : State) : State :=
  let seen := if copyB then s.alm.readB else s.alm.readA
  if s.alm.booted ∧ seen = 0 ∧ medOfGroup s 0 ∧ medOfGroup s 2 then
    let p := if readable then recParse s bs else none
    let r := if p.isSome then 2 else 1
    let (q, es) := p.getD (0, [])
    recChoose (updAlm (fun a => if copyB then { a with readB := r, seqB := q, entB := es } else { a with readA := r, seqA := q, entA := es }) s)
  else s

/-- RECORD_TIMEOUT: copies not read within 100 ms of BOOT count as unreadable. -/
def recTimeoutOp (s : State) : State :=
  if s.alm.booted then recChoose (updAlm (fun a => { a with readA := Nat.max 1 a.readA, readB := Nat.max 1 a.readB }) s) else s

/-- REC_CLEAR. -/
def recClearOp (s : State) : State :=
  if s.alm.recDone then recWrite (updAlm (fun a => { a with entries := [] }) (setF Pg.alm R.ALM_STATUS 28 1 0 s)) else s

/-! ### Substitution (R710) -/

/-- ALM_SUBST_STATUS. -/
def substResult (busy done : Bool) (r n : Nat) (s : State) : State :=
  setR Pg.alm R.ALM_SUBST_STATUS (BitVec.ofNat 32 (b2n busy * 2 ^ 31 + b2n done * 2 ^ 30 + r * 2 ^ 27 + n)) s

/-- A reserve that can stand in and stands in for nothing. -/
def reserveFree (s : State) (row : Nat) : Bool :=
  let r := reserveOf row
  fuseGood s r && !listed s 1 r && familyBit s Pg.alm R.ALM_ST_SITE0 r && decide (bstate s (Pg.cor r) = B.absent) && (Tab.find s.standIn row).isNone

/-- A write to ALM_SUBST. -/
def substOp (v : Word) (s : State) : State :=
  let n := fld v 0 7
  if !bit v 31 then s
  else if s.alm.subst.isSome then ignoredCmd Pg.alm s
  else if !(decide (n < 120) && runs s Pg.alm && decide (bstate s (Pg.cor (homeSite s n)) = B.retired)) then substResult false true 2 n s
  else
    let row := rowOf (homeSite s n)
    if !(rowFixed s row && reserveFree s row) then substResult false true 3 n s
    else
      let r := reserveOf row
      let s := sitePower r s
      let s := foldS (fun pg s => testAgain pg (setBState pg B.starting s)) (sitePages r) s
      substResult true false 0 n (updAlm (fun a => { a with subst := some n }) s)

/-- SUBST_DONE: the reserve takes the home site's place, or is retired. -/
def substDoneOp (n : Nat) (pass : Bool) (s : State) : State :=
  if s.alm.subst = some n then
    let h := homeSite s n
    let r := reserveOf (rowOf h)
    let s := updAlm (fun a => { a with subst := none }) s
    if pass then
      let s := foldS (fun pg s => setReady pg true (setBState pg B.stopped s)) (sitePages r) s
      let s := reservePages r (kindOfSite h) { s with standIn := Tab.put s.standIn (rowOf h) h }
      ptnsDegraded (almChange (substResult false true 1 n (setFamilyBit Pg.alm R.ALM_USED0 r true s)))
    else substResult false true 4 n (siteRetire r (setFamilyBit Pg.alm R.ALM_ST_SITE0 r false s))
  else s

/-! ### The map (R706) and the tables (R711) -/

/-- ALM_MAP as written. -/
def mapByte (s : State) (n : Nat) : Nat := getF s Pg.alm (R.ALM_MAP0 + 4 * (n / 4)) (8 * (n % 4)) 8

/-- START records CONFIG: a column above 9, or a site named twice. -/
def almConfigBad (s : State) : Bool :=
  let l := (List.range 120).map (mapByte s)
  l.any (fun c => decide (9 < c % 11) || decide (nSites ≤ c)) || decide (l.dedup.length < 120)

/-- START accepted: the map is in force. -/
def almStart (s : State) : State :=
  let h := (List.range 120).foldl (fun (t : Tab Nat) n => if mapByte s n = defaultHome n then t else Tab.put t n (mapByte s n)) []
  if h = s.homes then s else almChange { s with homes := h }

/-- One-way latency in bc of an endpoint pair (R425). From a core to a slice it lies with the distance of the core's row to the
slices: 33 bc at the least, from rows 0–1 and 10–11, and 59 bc at the most, from rows 5–6 (R26). DESIGN CHOICE: the nearest rows,
those between and the farthest have a third of that range each, every pair any value within its third. -/
def latency (a b : Nat) : Nat :=
  let f := Config.latency a b
  if a < nSites ∧ 256 ≤ b ∧ b < 256 + nSlices then
    let far := Nat.min (a / 11) (11 - a / 11)
    (if far < 2 then 33 else if far < 5 then 42 else 51) + f % 9
  else 33 + f % 27

/-- One-way latency from a site to a slice, the spare's path included (R516, R711). -/
def sliceLatency (s : State) (c i : Nat) : Nat :=
  latency c (256 + i) + (match portOfSlice s i with | some j => if i = 32 ∧ j < 16 then 12 else 0 | none => 0)

/-- A row of the Almanac tables. -/
def almTable (s : State) (table row : Nat) : List Byte :=
  let byte := fun (f : Nat → Nat) => (List.range 128).map (fun k => BitVec.ofNat 8 (f k))
  let site := fun (n : Nat) => (siteOf s n).getD 255
  match table, row with
  | 0, 0 => byte (fun k => if k < 120 then site k else 0)
  | 0, 1 => byte (fun k =>
      if k < 12 then
        match Tab.find s.standIn k with
        | some h => h
        | none => if rowFixed s k && !reserveFree s k && decide (substSite s ≠ some (reserveOf k)) then 0xFE else 0xFF
      else 0)
  | 1, n => byte (fun k =>
      let i := k / 2
      match siteOf s n with
      | some c =>
        if n < 120 ∧ i < nSlices ∧ (portOfSlice s i).any (fun j => sliceOfPort s j = some i) then
          let l := sliceLatency s c i
          if k % 2 = 0 then l else (2 * (2 * l + 24) + 1) / 3
        else 0
      | none => 0)
  | 2, n => byte (fun k =>
      if k < 120 ∧ n < 120 then (match siteOf s n, siteOf s k with | some c, some d => latency c d | _, _ => 0xFF) else 0)
  | 3, n => byte (fun k => if k < 4 ∧ n < 120 then (match siteOf s n with | some c => latency c (0x180 + k) | none => 0) else 0)
  | 4, 0 => byte (fun k => if k < 32 then (sliceOfPort s k).getD 0xFF else 0)
  | 4, 1 =>
    let es := (segs s).map (fun g => bytesOf 8 g.base ++ bytesOf 8 (8 * g.groups.length * g.step) ++
      bytesOf 4 (g.groups.foldl (fun a k => a + 0xFF * 2 ^ (8 * k)) 0) ++ bytesOf 8 g.step ++ bytesOf 4 0)
    (es.flatten ++ List.replicate 128 0).take 128
  | _, _ => List.replicate 128 0

/-! ### The commands -/

/-- SELFTEST_DONE. -/
def execSelftestDone (pg : Nat) (pass : Bool) (rows : Word) (cols : BitVec 36) (s : State) : Host.Outcome State Fault Refusal :=
  if (pageBlk pg).isSome then act s (selftestOp pg pass rows cols s) else .fault .noSuchUnit

/-- BOOT. -/
def execBoot (ms : BitVec 10) (s : State) : Host.Outcome State Fault Refusal := act s (bootOp ms.toNat s)

/-- REPAIR_RECORD_READ. -/
def execRepairRecordRead (copyB readable : Bool) (bytes : List Byte) (s : State) : Host.Outcome State Fault Refusal :=
  act s (recReadOp copyB readable bytes s)

/-- RECORD_TIMEOUT. -/
def execRecordTimeout (s : State) : Host.Outcome State Fault Refusal := act s (recTimeoutOp s)

/-- ALM_SUBST. -/
def execAlmSubst (v : Word) (s : State) : Host.Outcome State Fault Refusal := act s (substOp v s)

/-- SUBST_DONE. -/
def execSubstDone (n : Nat) (pass : Bool) (s : State) : Host.Outcome State Fault Refusal := act s (substDoneOp n pass s)

/-- REC_CLEAR. -/
def execRecClear (s : State) : Host.Outcome State Fault Refusal := act s (recClearOp s)

end Sys2Proof.Machine
end

