-- ==== Sys2Proof/Machine/Firmware.lean ====
section
/-! DEFINITION. Firmware loads (R713–R718), the manifest check and its log (R808–R814), attestation (R815–R819). -/

namespace Sys2Proof.Machine

/-- Cryptographic values from bytes: byte `i` at bits [8 i + 7 : 8 i] (R804), or big-endian as an integer (R803). -/
def beNum (bs : List Byte) : Nat := numOf bs.reverse

/-- Unit numbers of the Almanac's manifest reads, of SEC, and of a core's slice fetch. -/
abbrev manUnit : Nat := 17
abbrev secUnit : Nat := 19
abbrev sliceUnit (c : Nat) : Nat := 256 + c

/-! ### The manifest log and the core map (R812, R813) -/

/-- Byte of the log, and of the core map. -/
def pageByte (s : State) (o : Nat) : Nat := getF s Pg.sec (o / 4 * 4) (8 * (o % 4)) 8
def setPageByte (o v : Nat) (s : State) : State := setF Pg.sec (o / 4 * 4) (8 * (o % 4)) 8 v s

def coreMap (s : State) (n : Nat) : Nat := pageByte s (R.SEC_CORE_MAP0 + n)

/-- Cores that reference log entry `i`. -/
def logRefs (s : State) (i : Nat) : Nat := ((List.range 120).filter (fun n => coreMap s n = i)).length

/-- Log entry `i` is valid. -/
def logValid (s : State) (i : Nat) : Bool := decide (pageByte s (R.SEC_LOG0 + 64 * i + 0x38) % 2 = 1)

/-- Reference counts and the number of entries in use follow the core map. -/
def logNote (s : State) : State :=
  let s := foldS (fun i => setPageByte (R.SEC_LOG0 + 64 * i + 0x39) (logRefs s i)) (List.range 8) s
  setF Pg.sec R.SEC_STATUS 0 4 ((List.range 8).filter (logValid s)).length s

/-- Byte `n` of the core map. -/
def setCoreMap (n v : Nat) (s : State) : State := logNote (setPageByte (R.SEC_CORE_MAP0 + n) v s)

/-- COR_SCRIPT_ADDR_HI was written on site `c` (R813). -/
def scriptAddrWritten (c : Nat) (s : State) : State := match logicalAt s c with | some n => setCoreMap n 0xFF s | none => s

/-- Digest of log entry `i`. -/
def logDigest (s : State) (i : Nat) : BitVec 384 :=
  BitVec.ofNat 384 (numOf ((List.range 48).map (fun k => BitVec.ofNat 8 (pageByte s (R.SEC_LOG0 + 64 * i + 8 + k)))))

/-- The entry that an accepted manifest takes: its own, a free one, else the lowest that no core references (R812). -/
def logPlace (s : State) (d : BitVec 384) : Option Nat :=
  match (List.range 8).find? (fun i => logValid s i && logDigest s i == d) with
  | some i => some i
  | none =>
    match (List.range 8).find? (fun i => !logValid s i) with
    | some i => some i
    | none => (List.range 8).find? (fun i => decide (logRefs s i = 0))

/-- Log entry `i` written. -/
def logPut (i : Nat) (serial : Nat) (d : BitVec 384) (s : State) : State :=
  let bs := bytesOf 8 serial ++ bytesOf 48 d.toNat ++ [1]
  logNote (foldS (fun (e : Byte × Nat) => setPageByte (R.SEC_LOG0 + 64 * i + e.2) e.1.toNat) (bs.zipIdx) s)

/-! ### The manifest (R713, R714, R808–R810) -/

def manCount (t : Tab Byte) : Nat := tabNum t 2 2

/-- Reason code of the first check of R810 that refuses the manifest; 0: accepted. -/
def manifestCheck (s : State) (t : Tab Byte) : Nat :=
  let b := 0x40 + 80 * manCount t
  let key := BitVec.ofNat 768 (tabNum t (b + 0x10) 96)
  let r := beNum (Tab.slice 0 t (b + 0x70) 48)
  let z := beNum (Tab.slice 0 t (b + 0xA0) 48)
  let d := Config.sha384 (Tab.slice 0 t 0 b)
  let n := Config.p384Order
  if tabNum t b 2 ≠ 1 ∨ tabNum t (b + 2) 14 ≠ 0 then 1
  else if !bit (getR s Pg.sec R.SEC_STATUS) 30 || Config.sha384 (Tab.slice 0 t (b + 0x10) 96) != s.fuses.rootHash then 2
  else if !Config.onCurve key then 3
  else if r = 0 ∨ n ≤ r ∨ z = 0 ∨ n ≤ z then 4
  else if !Config.ecdsaVerify key (BitVec.ofNat 384 r) (BitVec.ofNat 384 z) d then 5
  else if (logPlace s d).isNone then 6
  else 0

/-- Entry `i` of a manifest. -/
def manEntry (t : Tab Byte) (i : Nat) : FwEntry :=
  let b := 0x40 + 80 * i
  let g := tabNum t b 2
  { kindForm := g.testBit 15, tgt := if g.testBit 15 then g % 4 else g % 128, size := tabNum t (b + 4) 4, dest := tabNum t (b + 8) 4,
    scriptOff := tabNum t (b + 12) 4, src := tabNum t (b + 0x10) 8, digest := BitVec.ofNat 384 (tabNum t (b + 0x18) 48) }

/-- The rules of R714 on entry `i`. -/
def entryOk (s : State) (t : Tab Byte) (i : Nat) : Bool :=
  let b := 0x40 + 80 * i
  let g := tabNum t b 2
  let e := manEntry t i
  let form := if e.kindForm then decide (g % 32768 < 3) else decide (g < 120)
  let room := spadSize (if e.kindForm then e.tgt else kindOfLogical s e.tgt)
  form && decide (tabNum t (b + 2) 2 = 0) && decide (e.size % 128 = 0) && decide (128 ≤ e.size) && decide (e.dest % 128 = 0) &&
    decide (e.dest + e.size ≤ room) && (decide (e.scriptOff = 0xFFFFFFFF) || (decide (e.scriptOff % 64 = 0) && decide (e.scriptOff < e.size))) &&
    decide (tabNum t (b + 0x48) 8 = 0)

/-- The manifest is well formed (R713, R714). -/
def manifestOk (s : State) (t : Tab Byte) : Bool :=
  let n := manCount t
  let v := tabNum t 4 1
  let tgts := (List.range n).map (fun i => tabNum t (0x40 + 80 * i) 2)
  decide (tabNum t 0 2 = 1) && decide (1 ≤ n) && decide (n ≤ 256) && decide (v < 8) && v.testBit (getF s Pg.glb R.GLB_VARIANT 0 2) &&
    decide (tabNum t 5 3 = 0) && decide (tabNum t 0x10 48 = 0) && (List.range n).all (entryOk s t) && decide (tgts.dedup.length = n)

/-! ### A load (R715–R718) -/

/-- ALM_FW_STATUS. -/
def fwStatus (busy done : Bool) (r : Nat) (s : State) : State :=
  let v := getN s Pg.alm R.ALM_FW_STATUS % 2 ^ 14
  setR Pg.alm R.ALM_FW_STATUS (BitVec.ofNat 32 (b2n busy * 2 ^ 31 + b2n done * 2 ^ 30 + r * 2 ^ 27 + v)) s

/-- The load ends without moving anything. -/
def fwRefuse (r : Nat) (s : State) : State := fwStatus false true r (unitClose manUnit (updAlm (fun a => { a with fw := none }) s))

/-- Every named core has loaded or failed: DONE. -/
def fwFinish (s : State) : State :=
  match s.alm.fw with
  | some j => if j.accepted ∧ j.cores = [] then fwStatus false true 1 (updAlm (fun a => { a with fw := none }) s) else s
  | none => s

/-- A core leaves the load. -/
def fwDrop (n : Nat) (s : State) : State :=
  updAlm (fun a => { a with fw := a.fw.map (fun j => { j with cores := j.cores.filter (fun c => c.n ≠ n) }) }) s
def fwPhase (n ph : Nat) (s : State) : State :=
  updAlm (fun a => { a with fw := a.fw.map (fun j => { j with cores := j.cores.map (fun c => if c.n = n then { c with phase := ph } else c) }) }) s

/-- fail(n). -/
def fwFail (n : Nat) (s : State) : State :=
  let s := setFamilyBit Pg.alm R.ALM_FW_FAIL0 n true (fwDrop n s)
  let s := setF Pg.alm R.ALM_FW_STATUS 7 7 (getF s Pg.alm R.ALM_FW_STATUS 7 7 + 1) s
  namedAlarm Pg.alm 3 (setCoreMap n 0xFF s)

/-- loaded(n), with the script address of an entry that has a script. -/
def fwLoaded (n : Nat) (e : FwEntry) (log : Nat) (s : State) : State :=
  let s := match siteOf s n with
    | some c => if e.scriptOff = 0xFFFFFFFF then s
        else setQ (Pg.cor c) R.COR_SCRIPT_ADDR_LO (BitVec.ofNat 64 (0xE00000000000 + n * 0x400000 + e.dest + e.scriptOff)) s
    | none => s
  let s := setF Pg.alm R.ALM_FW_STATUS 0 7 (getF s Pg.alm R.ALM_FW_STATUS 0 7 + 1) (fwDrop n s)
  setCoreMap n log s

/-- Index of the entry that serves logical core `n`: its own, else its kind's. -/
def entryFor (s : State) (es : List FwEntry) (n : Nat) : Option Nat :=
  match es.findIdx? (fun e => !e.kindForm && decide (e.tgt = n)) with
  | some i => some i
  | none => es.findIdx? (fun e => e.kindForm && decide (e.tgt = kindOfLogical s n))

/-- The manifest is accepted: each named core begins. -/
def fwBegin (es : List FwEntry) (log : Nat) (s : State) : State :=
  let mask := (List.range 4).foldl (fun a k => a + getN s Pg.alm (R.ALM_FW_MASK0 + 4 * k) * 2 ^ (32 * k)) 0
  let wait := ((s.alm.fw.map (·.wait)).getD 0)
  let s := updAlm (fun a => { a with fw := a.fw.map (fun j => { j with accepted := true, ents := es, log := log }) }) s
  let s := foldS (fun n s =>
    let ok := match siteOf s n with | some c => decide (bstate s (Pg.cor c) = B.stopped) | none => false
    match entryFor s es n with
    | some i =>
      if ok then
        let pushed := ((s.alm.fw.map (·.pushed)).getD []).contains i
        let ph := if 0 < wait ∧ groupVersion s G.io = 2 ∧ !pushed then 0 else 1
        updAlm (fun a => { a with fw := a.fw.map (fun j => { j with cores := j.cores ++ [{ n := n, entry := i, phase := ph }] }) }) s
      else fwFail n s
    | none => fwFail n s) (bitsSet 120 mask) s
  fwFinish (unitClose manUnit s)

/-- The manifest's header or rest has been read: stage 0 the header, stage 1 the rest, stage 2 all of it, waiting for SEC. -/
def manSettle (s : State) : State :=
  match unitJob s manUnit with
  | some j =>
    if j.left ≠ 0 then s
    else if j.stage = 0 then
      let n := manCount j.buf
      if j.bad then fwRefuse 5 s
      else if n < 1 ∨ 256 < n then fwRefuse 4 s
      else
        unitRead manUnit unitEp 64 (((getQ s Pg.alm R.ALM_FW_MAN_LO).toNat + 64) % 2 ^ 64) (80 * n + 208) (updUnit manUnit (fun j => { j with stage := 1 }) s)
    else if j.stage = 1 then
      if j.bad then fwRefuse 5 s else updUnit manUnit (fun j => { j with stage := 2 }) s
    else s
  | none => s

/-- ALM_FW_CMD (R715): refused while BUSY, or while the Almanac is not Running. -/
def fwCmdOp (v : Word) (s : State) : State :=
  if !bit v 0 then s
  else if !runs s Pg.alm then ignoredCmd Pg.alm s
  else if s.alm.fw.isSome then setF Pg.alm R.ALM_FW_STATUS 27 3 2 s
  else
    let s := foldS (fun k s => setR Pg.alm (R.ALM_FW_UNICAST0 + 4 * k) 0 (setR Pg.alm (R.ALM_FW_FAIL0 + 4 * k) 0 s)) (List.range 4) s
    let s := setR Pg.alm R.ALM_FW_STATUS 0x80000000 s
    let j : FwJob := { wait := getF s Pg.alm R.ALM_FW_PUSH_WAIT 0 20, pushed := [], accepted := false, ents := [], log := 0, cores := [] }
    let s := unitOpen manUnit 0 (updAlm (fun a => { a with fw := some j }) s)
    if runs s Pg.sec then manSettle (manSettle (unitRead manUnit unitEp 0 (getQ s Pg.alm R.ALM_FW_MAN_LO).toNat 64 s)) else fwRefuse 3 s

/-- MANIFEST_CHECK (R810). -/
def manCheckOp (s : State) : State :=
  match unitJob s manUnit with
  | some j =>
    if j.stage ≠ 2 then s
    else if !runs s Pg.sec then fwRefuse 3 s
    else
      let r := manifestCheck s j.buf
      if r ≠ 0 then
        let s := firstR Pg.sec R.SEC_MAN_ERR (r * 2 ^ 24) (satR Pg.sec R.SEC_MAN_REFUSED 1 s)
        fwRefuse 3 (if r = 6 then setF Pg.sec R.SEC_STATUS 28 1 1 s else s)
      else
        let d := Config.sha384 (Tab.slice 0 j.buf 0 (0x40 + 80 * manCount j.buf))
        let i := (logPlace s d).getD 0
        let s := wrapR Pg.sec R.SEC_MAN_ACCEPTED 1 (logPut i (tabNum j.buf 8 8) d s)
        if manifestOk s j.buf then fwBegin ((List.range (manCount j.buf)).map (manEntry j.buf)) i s else fwRefuse 4 s
  | none => s

/-- PUSH_DONE of an entry (R716). -/
def pushDoneOp (i : Nat) (s : State) : State :=
  updAlm (fun a => { a with fw := a.fw.map (fun j => { j with
    pushed := if j.pushed.contains i then j.pushed else j.pushed ++ [i],
    cores := j.cores.map (fun c => if c.phase = 0 ∧ c.entry = i then { c with phase := 1 } else c) }) }) s

/-- PUSH_WAIT_TIMEOUT: no core waits any longer. -/
def pushWaitOp (s : State) : State :=
  updAlm (fun a => { a with fw := a.fw.map (fun j => { j with cores := j.cores.map (fun c => if c.phase = 0 then { c with phase := 1 } else c) }) }) s

/-- The slice of a core matches its digest, every block's Glaze with it. -/
def sliceGood (s : State) (c : Nat) (e : FwEntry) : Bool :=
  let x := coreAt s c
  !rangeBad x e.dest e.size && Config.sha384 (spadBytes x 2 x.steps e.dest e.size) == e.digest

/-- A unicast fetch that has read everything: the slice is written, or the core fails. -/
def fetchSettle (c : Nat) (s : State) : State :=
  match unitJob s (sliceUnit c), s.alm.fw with
  | some j, some w =>
    if j.left ≠ 0 then s
    else
      match w.cores.find? (fun x => x.phase = 2 ∧ siteOf s x.n = some c) with
      | some x =>
        let s := unitClose (sliceUnit c) s
        match w.ents[x.entry]? with
        | some e => if j.bad then fwFinish (fwFail x.n s)
            else fwPhase x.n 3 (updCore c (fun k => spadPut k e.dest (unitBytes j 0 e.size)) s)
        | none => s
      | none => unitClose (sliceUnit c) s
  | _, _ => s

/-- HASH: the row's engine serves the ready core with the lowest logical number (R718). -/
def hashOp (row : Nat) (s : State) : State :=
  match s.alm.fw with
  | none => s
  | some w =>
    let here := fun (x : FwCore) => match siteOf s x.n with | some c => rowOf c = row | none => rowOf (homeSite s x.n) = row
    let ready := w.cores.filter (fun x => (x.phase = 1 || x.phase = 3) && here x)
    match ready with
    | [] => s
    | x :: t =>
      let x := t.foldl (fun m y => if y.n < m.n then y else m) x
      match siteOf s x.n, w.ents[x.entry]? with
      | some c, some e =>
        if sliceGood s c e then fwFinish (fwLoaded x.n e w.log s)
        else if x.phase = 3 then fwFinish (fwFail x.n s)
        else
          let s := setFamilyBit Pg.alm R.ALM_FW_UNICAST0 x.n true (fwPhase x.n 2 s)
          fetchSettle c (unitRead (sliceUnit c) c 0 e.src e.size (unitOpen (sliceUnit c) 0 s))
      | _, _ => fwFinish (fwFail x.n s)

/-! ### Attestation (R815–R819) -/

/-- SEC_ATT_STATUS. -/
def attResult (busy done : Bool) (r : Nat) (s : State) : State :=
  setR Pg.sec R.SEC_ATT_STATUS (BitVec.ofNat 32 (b2n busy * 2 ^ 31 + b2n done * 2 ^ 30 + r * 2 ^ 27)) s

/-- Bytes of consecutive registers of a page. -/
def regBytes (s : State) (pg o n : Nat) : List Byte := ((List.range n).map (fun k => bytesOf 4 (getN s pg (o + 4 * k)))).flatten

/-- The Almanac digest (R817). -/
def almDigest (s : State) : BitVec 384 :=
  Config.sha384 (almTable s 0 0 ++ almTable s 0 1 ++ almTable s 4 0 ++ almTable s 4 1 ++ regBytes s Pg.alm R.ALM_CLASS 1 ++
    (List.range 120).map (fun n => BitVec.ofNat 8 (mapByte s n)))

/-- Bytes 0x000–0x39F of the report (R818). -/
def reportBody (s : State) : List Byte :=
  bytesOf 4 1 ++ bytesOf 4 1024 ++ bytesOf 8 s.time.toNat ++ bytesOf 2 (b2n (dieValid s) * 32768 + dieNum s) ++ bytesOf 1 (getF s Pg.glb R.GLB_VARIANT 0 2) ++
    bytesOf 1 (b2n (bit (getR s Pg.sec R.SEC_STATUS) 30) + 2 * b2n (mapDone s) + 4 * b2n (timeValid s)) ++ bytesOf 12 0 ++
    regBytes s Pg.sec R.SEC_DIE_ID0 4 ++ regBytes s Pg.sec R.SEC_NONCE0 8 ++ regBytes s Pg.sec R.SEC_PUBKEY0 24 ++ regBytes s Pg.alm R.ALM_FUSE_SITE0 5 ++
    regBytes s Pg.alm R.ALM_FUSE_MISC 1 ++ regBytes s Pg.alm R.ALM_FUSE_SLICES 1 ++ regBytes s Pg.pwr R.PWR_VF0 4 ++ bytesOf 4 0 ++
    regBytes s Pg.alm R.ALM_SEQ 1 ++ regBytes s Pg.alm R.ALM_CLASS 1 ++ bytesOf 8 0 ++ bytesOf 48 (almDigest s).toNat ++
    regBytes s Pg.sec R.SEC_LOG0 128 ++ regBytes s Pg.sec R.SEC_CORE_MAP0 30 ++ bytesOf 8 0

/-- SEC_ATT_CMD.GO: the inputs are captured. -/
def attestOp (s : State) : State :=
  if !runs s Pg.sec ∨ bit (getR s Pg.sec R.SEC_ATT_STATUS) 31 then ignoredCmd Pg.sec s
  else if !bit (getR s Pg.sec R.SEC_STATUS) 31 then attResult false true 2 s
  else
    let a := (getQ s Pg.sec R.SEC_ATT_ADDR_LO).toNat
    let s := { s with report := some (reportBody s), unitJobs := Tab.put s.unitJobs secUnit { left := 0, bad := false, buf := tabOf (bytesOf 8 a), stage := 0 } }
    attResult true false 0 s

/-- The report's writes have all ended: stage 1. -/
def attSettle (s : State) : State :=
  match unitJob s secUnit with
  | some j =>
    if j.stage = 1 ∧ j.left = 0 then
      let s := unitClose secUnit s
      if j.bad then attResult false true 3 s else wrapR Pg.sec R.SEC_ATT_COUNT 1 (attResult false true 1 s)
    else s
  | none => s

/-- A SEC report's address can be written: 1,024-byte aligned, and, in this chiplet's home, with 128-byte tiles (R816). -/
def attAddrOk (s : State) (a : Nat) : Bool :=
  decide (a % 1024 = 0) && (match target s a with | .bad => false | .loc l => !bigTile s l | .far _ _ => true)

/-- ATTEST_DONE: the signed report is written. -/
def attDoneOp (s : State) : State :=
  match s.report, unitJob s secUnit with
  | some body, some j =>
    let a := tabNum j.buf 0 8
    let (r, z) := Config.sign (Config.sha384 body)
    let s := updUnit secUnit (fun j => { j with stage := 1 }) { s with report := none }
    attSettle (if attAddrOk s a then unitWrite secUnit unitEp a (body ++ (bytesOf 48 r.toNat).reverse ++ (bytesOf 48 z.toNat).reverse) s else unitFail secUnit s)
  | _, _ => s

/-! ### The commands -/

/-- ALM_FW_CMD. -/
def execAlmFwCmd (v : Word) (s : State) : Host.Outcome State Fault Refusal := act s (fwCmdOp v s)

/-- MANIFEST_CHECK. -/
def execManifestCheck (s : State) : Host.Outcome State Fault Refusal := act s (manCheckOp s)

/-- PUSH_DONE. -/
def execPushDone (i : BitVec 9) (s : State) : Host.Outcome State Fault Refusal := act s (pushDoneOp i.toNat s)

/-- PUSH_WAIT_TIMEOUT. -/
def execPushWaitTimeout (s : State) : Host.Outcome State Fault Refusal := act s (pushWaitOp s)

/-- HASH. -/
def execHash (row : Nat) (s : State) : Host.Outcome State Fault Refusal := onUnit row 12 (hashOp row) s

/-- ATTEST. -/
def execAttest (s : State) : Host.Outcome State Fault Refusal := act s (attestOp s)

/-- ATTEST_DONE. -/
def execAttestDone (s : State) : Host.Outcome State Fault Refusal := act s (attDoneOp s)

end Sys2Proof.Machine
end

