-- ==== Sys2Proof/Machine/Migrate.lean ====
section
/-! DEFINITION. Migration of a scratchpad to a reserve core (R376, R377). -/

namespace Sys2Proof.Machine

/-- Kind whose scratchpad size is copied: what the reserve runs as, or the kind of the source column while it stands in for
nothing (R376). -/
def migKind (s : State) (c src : Nat) : Nat := (runsAs s c).getD (kindOfSite src)

/-- A write of COR_MIGRATE (R376): GO, and the source column in the row. -/
def migrateOp (c : Nat) (v : Word) (s : State) : State :=
  let pg := Pg.cor c
  if bstate s pg = B.absent then s
  else if c % 11 = 10 ∧ bstate s pg = B.stopped ∧ fld v 0 4 ≤ 9 ∧ bit (getR s pg R.COR_MIG_STATUS) 31 = false then
    if bit v 31 then
      setR pg R.COR_MIG_STATUS 0x80000000 (updCore c (fun x => { x with migrating := some (rowOf c * 11 + fld v 0 4) }) s)
    else s
  else ignoredRws pg R.COR_MIGRATE s

/-- A source block that does not arrive: the source page is Absent, the block is unreadable, or it fails its Glaze. -/
def migLost (s : State) (src unreadable b : Nat) : Bool :=
  bstate s (Pg.cor src) = B.absent || unreadable.testBit b || (Tab.find (coreAt s src).badGlz b).isSome

/-- The copy ends (R376, R377): `unreadable` has bit `b` set for each source block that cannot be read. -/
def migrateDoneOp (c unreadable : Nat) (s : State) : State :=
  match (coreAt s c).migrating with
  | none => s
  | some src =>
    let size := spadSize (migKind s c src)
    let from_ := retireStores ((coreAt s src).pendSt.foldl (fun m w => Nat.max m (Nat.max w.visLd (Nat.max w.visV w.visO))) 0) (coreAt s src)
    let lost := ((List.range (size / 128)).filter (migLost s src unreadable)).length
    let spad := from_.spad.filter (fun e => decide (e.1 < size) && !migLost s src unreadable (e.1 / 128))
    let s := updCore c (fun x => { x with migrating := none, pendSt := [], spad := spad ++ x.spad.filter (fun e => decide (size ≤ e.1)),
                                          badGlz := x.badGlz.filter (fun e => decide (size / 128 ≤ e.1)) }) s
    let s := setR (Pg.cor c) R.COR_MIG_STATUS (BitVec.ofNat 32 (0x40000000 + min lost 0xFFFF)) s
    if lost = 0 then s else fault (Pg.cor c) 14 s

/-- COR_MIGRATE. -/
def execCorMigrate (c : Nat) (v : Word) (s : State) : Host.Outcome State Fault Refusal := onUnit c nSites (migrateOp c v) s

/-- MIGRATE_DONE. -/
def execMigrateDone (c : Nat) (unreadable : Nat) (s : State) : Host.Outcome State Fault Refusal := onUnit c nSites (migrateDoneOp c unreadable) s

end Sys2Proof.Machine
end

