-- ==== Sys2Proof/Machine/Resp.lean ====
section
/-! DEFINITION. Responses and time-outs at the requesters, with what the chiplet's own units do next when their accesses have
ended (R139, R140, R174, R715, R801, R815), and the dump of the Annals. -/

namespace Sys2Proof.Machine

/-! ### The Annals' dump (R801, R802) -/

/-- Unit number of the Annals. -/
abbrev annUnit : Nat := 16

/-- A dump of the Annals whose writes have all ended: DONE, and RESULT 1 or 2. -/
def annSettle (s : State) : State :=
  match unitJob s annUnit with
  | some j => if j.left = 0 then setR Pg.ann R.ANN_DUMP_STATUS (BitVec.ofNat 32 (0x40000000 + if j.bad then 2 else 1)) (unitClose annUnit s) else s
  | none => s

/-- ANN_ACTION.DUMP: the whole buffer is written to ANN_DUMP_ADDR. -/
def annDumpOp (s : State) : State :=
  if bit (getR s Pg.ann R.ANN_DUMP_STATUS) 31 then ignoredCmd Pg.ann s
  else
    let s := unitOpen annUnit 0 (setR Pg.ann R.ANN_DUMP_STATUS 0x80000000 s)
    annSettle (unitWrite annUnit unitEp (getQ s Pg.ann R.ANN_DUMP_LO).toNat (Tab.slice 0 s.ann.buf 0 262144) s)

/-! ### Units whose accesses have ended -/

/-- What a unit does next: 0–15 a partition's DUMP or LOAD, 16 the Annals, 17 the manifest, 19 SEC's report, 64 + site a script
image, 256 + site a firmware slice. -/
def settleUnit (u : Nat) (s : State) : State :=
  if u < 16 then loadSettle u (loadSettle u (dumpSettle u s))
  else if u = annUnit then annSettle s
  else if u = 17 then manSettle (manSettle s)
  else if u = 19 then attSettle s
  else if 64 ≤ u ∧ u < 64 + nSites then imgStep (u - 64) s
  else if 256 ≤ u then fetchSettle (u - 256) s
  else s

/-- Every unit with a job under way goes on if it can. -/
def settleUnits (s : State) : State := foldS settleUnit (s.unitJobs.map (·.1)) s

/-! ### The commands -/

/-- RDATA. -/
def execRdata (f : Flit) (s : State) : Host.Outcome State Fault Refusal := act s (settleUnits (rdataOp f s))

/-- WACK. -/
def execWack (f : Flit) (s : State) : Host.Outcome State Fault Refusal := act s (settleUnits (wackOp f s))

/-- MC. -/
def execMc (f : Flit) (blocked : BitVec 120) (s : State) : Host.Outcome State Fault Refusal := act s (mcOp f blocked s)

/-- NETB_TXN_TIMEOUT. -/
def execNetbTxnTimeout (txn : BitVec 14) (s : State) : Host.Outcome State Fault Refusal := act s (settleUnits (localTimeout txn.toNat s))

/-- TXN_TIMEOUT. -/
def execTxnTimeout (txn : BitVec 14) (s : State) : Host.Outcome State Fault Refusal := act s (settleUnits (farTimeout txn.toNat s))

/-- FLIT. -/
def execFlit (g : Nat) (f : Flit) (s : State) : Host.Outcome State Fault Refusal := onUnit g 8 (fun s => settleUnits (flitOp g f s)) s

/-- ANN_DUMP. -/
def execAnnDump (s : State) : Host.Outcome State Fault Refusal := act s (annDumpOp s)

end Sys2Proof.Machine
end

