-- ==== Sys2Proof/Machine/Blocks.lean ====
section
/-! DEFINITION. The commands of HDR_CMD in every state (R76–R83, R868), what each block does at START, STOP, ABORT and RETIRE, the
ends of Starting and Stopping (R78), and CHIP_RESET_N (R688, R693, R845, R849). -/

namespace Sys2Proof.Machine

/-! ### Which commands a block ignores -/

/-- Blocks that ignore STOP (R82, R456, R459, R463, and the chapters of LKG and TST). -/
def ignoresStop (b : Blk) : Bool :=
  match b with
  | .dir | .glb | .ann | .sec | .netc | .nets | .tst | .lkg => true
  | _ => false

/-- Blocks that ignore ABORT: those, and ALM and PWR (R723). -/
def ignoresAbort (b : Blk) : Bool := ignoresStop b || (match b with | .alm | .pwr => true | _ => false)

/-- Blocks that ignore RETIRE: those, and NETB and DBL (R432). -/
def ignoresRetire (b : Blk) : Bool := ignoresAbort b || (match b with | .netb | .dbl => true | _ => false)

/-! ### CONFIG at START (R868) -/

/-- MXA_REPAIR or MXA_CHK_TOL refuse the START (R271). -/
def mxaConfigBad (s : State) (pg : Nat) : Bool :=
  let r := getR s pg R.MXA_REPAIR
  let b := getR s pg R.MXA_BIST_MISC
  (bit r 15 && decide (33 < fld r 0 6)) || (bit r 31 && bit b 2) || (bit r 15 && bit b 3) || decide (getF s pg R.MXA_CHK_TOL 0 12 = 0)

/-- A slice whose SLC_BIND is VALID and that is in service holds a port. -/
def slcHolds (s : State) (i : Nat) : Bool :=
  bit (getR s (Pg.slc i) R.SLC_BIND) 31 && decide (bstate s (Pg.slc i) ≠ B.retired) && decide (bstate s (Pg.slc i) ≠ B.absent)

/-- SLC_HOME or SLC_BIND refuse the START (R515). -/
def slcConfigBad (s : State) (i : Nat) : Bool :=
  let port := fun (k : Nat) => getF s (Pg.slc k) R.SLC_BIND 0 6
  let home := fun (k : Nat) => getR s (Pg.slc k) R.SLC_HOME
  let others := (List.range nSlices).filter (fun k => decide (k ≠ i) && slcHolds s k)
  let v := bit (getR s (Pg.slc i) R.SLC_BIND) 31
  decide (fld (home i) 0 8 + fld (home i) 16 8 ≠ 32) || (v && decide (31 < port i)) || (v && others.any (fun k => decide (port k = port i))) ||
    (v && (match others.find? (fun k => decide (port k / 8 = port i / 8)) with | some k => decide (home k ≠ home i) | none => false))

/-- DBL_RTAB refuses the START (R628). -/
def dblConfigBad (s : State) : Bool := decide (ringTab s % 0x400000 ≠ 0) || decide (homeSize s < ringTab s + 0x400000)

/-- The cause that a START records where the checks of the block refuse it. -/
def startBad (s : State) (b : Blk) (pg i : Nat) : Option Nat :=
  let c := fun (cause : Nat) (bad : Bool) => if bad then some cause else none
  match b with
  | .seq => c 10 (seqConfigBad s)
  | .ptn => c PC.config (ptnConfigBad s i)
  | .mxa => c 13 (mxaConfigBad s pg)
  | .cor => c 15 (decide (getF s pg R.COR_ASYNC_GUARD 0 6 < 4))
  | .vgl => c 8 (decide (getN s pg R.VGL_WINDOW < 4096) || decide (2147483648 < getN s pg R.VGL_WINDOW))
  | .cal => c 8 (calConfigBad s i)
  | .lvn => c 8 (lvnConfigBad s i)
  | .netb => c 8 (decide (getF s pg R.NETB_TXN_TIMEOUT 0 24 < 4096))
  | .slc => c 8 (slcConfigBad s i)
  | .med => c 8 (medConfigBad s i)
  | .lkg => c 8 (lkgConfigBad s i)
  | .lnk => c 8 (lnkConfigBad s i)
  | .pwr => c 8 (pwrConfigBad s)
  | .alm => c 8 (almConfigBad s)
  | .twn => c 8 (twnConfigBad s)
  | .dbl => c 8 (dblConfigBad s)
  | _ => none

/-! ### What a command does to a block's own work -/

/-- START accepted. -/
def startHook (b : Blk) (pg i : Nat) (s : State) : State :=
  match b with
  | .ptn => ptnStart i s
  | .twn => twnStart s
  | .alm => almStart s
  | .lvn => lvnStart i s
  | .mxa => combClose (i / 2) (decide (i % 2 = 1)) s
  | .mov => setR pg R.MOV_DONE1 0 (setR pg R.MOV_DONE0 0 s)
  | .gth => setR pg R.GTH_ROWS 0 (setR pg R.GTH_BAGS 0 s)
  | .slc => classUpdate s
  | _ => s

/-- STOP: what the block finishes or gives up, and who learns of it. The page is already Stopping; `ran`: it was Running. DESIGN
CHOICE, where R125 speaks only of a partition's next Sol commit: STOP of a partition that is still in Starting gives up its script loads,
and its Stopping ends in Stopped without a commit. -/
def stopHook (b : Blk) (i : Nat) (ran : Bool) (s : State) : State :=
  match b with
  | .seq => if ran then timeFault s else s
  | .cal => foldS (fun k => raise (.bar (16 * i + k) BC.page none)) (List.range 16) s
  | .cor =>
    match ptnOfSite s i with
    | some p =>
      let st := bstate s (Pg.ptn p)
      if st = B.starting ∨ st = B.running ∨ st = B.stopping then ptnFault p PC.core s else s
    | none => s
  | .mxa => combClose (i / 2) (decide (i % 2 = 1)) s
  | .cch => cacheDropIf i (fun _ => true) s
  | .med => medStop i s
  | .dbl => dblDiscard i s
  | .twn => twnStop s
  | .lnk => lnkStop i s
  | .ptn =>
    match (ptnAt s i).phase with
    | .idle | .loading _ => ptnCancel i (updPtn i (fun x => { x with phase := .idle }) s)
    | _ => updPtn i (fun x => { x with stopWait := true }) s
  | _ => s

/-- A block enters Running other than by self-test. -/
def runHook (b : Blk) (i : Nat) (s : State) : State :=
  match b with
  | .slc => slcRunning i s
  | .cch => cchRunning i s
  | .med => medRunning i s
  | .lnk => lnkRunning i s
  | .cal => calStartOp i s
  | .netb => netbRunning s
  | .lkg => setDegraded (Pg.lkg i) (groupShort s i) (groupChecks i s)
  | _ => s

/-- A page records causes that are not a partition's own; a partition's barriers then record PARTITION (R143, R487). -/
def pageFault (pg bits : Nat) (s : State) : State :=
  match pageBlk pg with
  | some (.ptn, p) =>
    let hit := decide (getN s pg R.HDR_FAULT_EN &&& bits ≠ 0)
    let bars := if hit then (liveBars s p).map (fun i => FaultEv.bar i BC.partition none) else []
    cascade 4096 (bars ++ [.page pg bits]) s
  | _ => raise (.page pg bits) s

/-! ### The commands (R79) -/

/-- START. -/
def startOp (b : Blk) (pg i : Nat) (s : State) : State :=
  let st := bstate s pg
  if st = B.stopped then
    let s := setBState pg B.starting s
    match startBad s b pg i with
    | some cause => startRefused pg cause s
    | none => startHook b pg i s
  else if st = B.starting ∨ st = B.running then s
  else ignoredCmd pg s

/-- STOP. -/
def stopOp (b : Blk) (pg i : Nat) (s : State) : State :=
  let st := bstate s pg
  if ignoresStop b then ignoredCmd pg s
  else if st = B.starting then releaseHeld pg (stopHook b i false (setBState pg B.stopping s))
  else if st = B.running then stopHook b i true (setBState pg B.stopping s)
  else if st = B.stopped ∨ st = B.stopping then s
  else ignoredCmd pg s

/-- ABORT: all work is discarded, every pending request completes with error, ABORTED is recorded (R80). -/
def abortOp (b : Blk) (pg i : Nat) (s : State) : State :=
  let st := bstate s pg
  if ignoresAbort b then ignoredCmd pg s
  else if st = B.starting ∨ st = B.running ∨ st = B.stopping then
    let s := match b with | .ptn => ptnCancel i (actionCancel i s) | _ => s
    opDrain (settleUnits (releaseHeld pg (pageAbort pg (pageFault pg 2 s))))
  else if st = B.stopped ∨ st = B.faulted then s
  else ignoredCmd pg s

/-- CLEAR (R81). -/
def clearOp (b : Blk) (pg i : Nat) (s : State) : State :=
  let st := bstate s pg
  if st = B.faulted then
    if bit (getR s pg R.HDR_FAULT) 0 ∨ s.selfFailed.contains pg then ignoredCmd pg s
    else
      let s := setR pg R.HDR_FAULT 0 s
      match b with | .ptn => ptnStopped i s | _ => setBState pg B.stopped s
  else if st = B.stopped then s
  else ignoredCmd pg s

/-- RETIRE. The COR page takes its site with it (R696, R704); a slice leaves the record an entry. -/
def retireOp (b : Blk) (pg i : Nat) (s : State) : State :=
  let st := bstate s pg
  if ignoresRetire b then ignoredCmd pg s
  else if st = B.stopped ∨ st = B.faulted then
    match b with
    | .cor => siteRetire i s
    | .slc => sliceEntry i (pageRetire pg s)
    | .lnk => portRetire i s
    | _ => pageRetire pg s
  else if st = B.retired then s
  else ignoredCmd pg s

/-! ### Starting and Stopping end (R78) -/

/-- A Starting that follows START ends in Running. A partition waits for its scripts, its barriers and time (R121, R124); a twin
for its pair (R729). The Starting of self-test ends with SELFTEST_DONE. -/
def startingDoneOp (b : Blk) (pg i : Nat) (s : State) : State :=
  if bstate s pg = B.starting ∧ inSelftest s pg = false then
    match b with
    | .ptn => ptnRunning i s
    | _ =>
      if b = .twn ∧ !twnReady s then s else releaseHeld pg (runHook b i (setBState pg B.running s))
  else s

/-- What a Stopping block still has to finish: a slice its requests (R566), a Leaven unit its records (R602), a partition its Sol
(R125). -/
def stopBusy (s : State) (b : Blk) (i : Nat) : Bool :=
  match b with
  | .slc => !(sliceAt s i).waits.isEmpty
  | .lvn => !(sliceAt s i).lvnRecs.isEmpty || !(sliceAt s i).batches.isEmpty || !(sliceAt s i).lvnQueue.isEmpty
  | .ptn => decide ((ptnAt s i).phase ≠ .idle)
  | .netb => !s.reds.isEmpty || !s.redWait.isEmpty || !s.mcasts.isEmpty
  | _ => false

/-- Stopping ends in Stopped. -/
def stoppingDoneOp (b : Blk) (pg i : Nat) (s : State) : State :=
  if bstate s pg = B.stopping ∧ stopBusy s b i = false then
    match b with | .ptn => ptnStopped i s | _ => setBState pg B.stopped s
  else s

/-- GLB_CMD_TIMEOUT: a block still in Starting or Stopping records TIMEOUT (R78). A block that is not yet released to self-test runs no
timer (R691). -/
def cmdTimeoutOp (b : Blk) (pg i : Nat) (s : State) : State :=
  let st := bstate s pg
  if st = B.starting ∧ inSelftest s pg ∧ !testReleased s pg then s
  else if st = B.starting ∨ st = B.stopping then
    let s := match b with | .ptn => if decide (getN s pg R.HDR_FAULT_EN &&& 4 ≠ 0) then ptnCancel i s else s | _ => s
    let s := pageFault pg 4 s
    if bstate s pg = st then s else decide_ (releaseHeld pg s)
  else s

/-- A command on a page that the chiplet has. -/
def onPage (pg : Nat) (f : Blk → Nat → Nat → State → State) (s : State) : Host.Outcome State Fault Refusal :=
  match pageBlk pg with
  | some (b, i) => act s (f b pg i s)
  | none => .fault .noSuchUnit

/-! ### CHIP_RESET_N -/

/-- A low pulse of `ns` resets the chiplet (R845). -/
def pulseResets (ns : Nat) : Bool := decide (10000 ≤ ns) || (decide (100 ≤ ns) && Config.pulseResets ns)

/-- CHIP_RESET_N is asserted: everything takes its reset value, but the Annals while VDD_B and VDD_M stay in range (R693, R764);
THERMTRIP_N is released (R845). -/
def resetAssertOp (ns : Nat) (kept : Bool) (s : State) : State :=
  if pulseResets ns then
    let s := { s with tripped := false }
    if s.inReset ∧ kept then s else chipReset kept s
  else s

/-- Ports that find no termination read Absent until the next CHIP_RESET_N (R32, R633). -/
def portsAbsent (s : State) : State :=
  foldS (fun p s => if bit s.fuses.wired p then s else setBState (Pg.lst p) B.absent (setBState (Pg.lnk p) B.absent s)) (List.range nPorts) s

/-- CHIP_RESET_N is released (R688, R798, R820, R849). -/
def resetReleaseOp (testEn railsOk : Bool) (s : State) : State :=
  if s.inReset ∧ railsOk then
    let s := portsAbsent { s with inReset := false, testEn := testEn, tap := Tap.init }
    let s := setF Pg.tst R.TST_STATUS 31 1 (b2n testEn) s
    if s.ann.kept then setF Pg.ann R.ANN_STATUS 29 1 1 s else s
  else s

/-! ### The commands -/

/-- RESET_RELEASE. -/
def execResetRelease (testEn railsOk : Bool) (s : State) : Host.Outcome State Fault Refusal := .next (resetReleaseOp testEn railsOk s)

/-- RESET_ASSERT. -/
def execResetAssert (ns : Nat) (kept : Bool) (s : State) : Host.Outcome State Fault Refusal := .next (resetAssertOp ns kept s)

/-- START. -/
def execStart (pg : Nat) (s : State) : Host.Outcome State Fault Refusal := onPage pg startOp s

/-- STOP. -/
def execStop (pg : Nat) (s : State) : Host.Outcome State Fault Refusal := onPage pg stopOp s

/-- ABORT. -/
def execAbort (pg : Nat) (s : State) : Host.Outcome State Fault Refusal := onPage pg abortOp s

/-- CLEAR. -/
def execClear (pg : Nat) (s : State) : Host.Outcome State Fault Refusal := onPage pg clearOp s

/-- RETIRE. -/
def execRetire (pg : Nat) (s : State) : Host.Outcome State Fault Refusal := onPage pg retireOp s

/-- STARTING_DONE. -/
def execStartingDone (pg : Nat) (s : State) : Host.Outcome State Fault Refusal := onPage pg startingDoneOp s

/-- STOPPING_DONE. -/
def execStoppingDone (pg : Nat) (s : State) : Host.Outcome State Fault Refusal := onPage pg stoppingDoneOp s

/-- CMD_TIMEOUT. -/
def execCmdTimeout (pg : Nat) (s : State) : Host.Outcome State Fault Refusal := onPage pg cmdTimeoutOp s

end Sys2Proof.Machine
end

