-- ==== Sys2Proof/Machine/Control.lean ====
section
/-! DEFINITION. The control space: reads and writes of registers by access code (R9–R15, R66–R75, R89, R90, R95–R102), what a write
to a command or action register starts, registers whose value is formed when they are read, accesses of the chiplet's own sources and
register messages between dies (R61, R651). -/

namespace Sys2Proof.Machine

/-! ### Quantities of two words -/

/-- Offsets of the low words of quantities wider than 32 bits (R9, R89). -/
def wideLows (b : Blk) : List Nat :=
  match b with
  | .glb => [R.GLB_ACC_ERR_ADDR_LO]
  | .seq => [R.SEQ_TIME_LO, R.SEQ_SOL_EPOCH_LO, R.SEQ_SOL_INDEX_LO]
  | .ptn => [R.PTN_DUMP_ADDR_LO, R.PTN_SOL_SEQ_LO]
  | .cor => [R.COR_SCRIPT_ADDR_LO]
  | .mov => [R.MOV_ERR_ADDR_LO]
  | .netb => [R.NETB_RTAB_LO]
  | .vgl => [R.VGL_LAST_TIME_LO]
  | .slc => [R.SLC_ERR_ADDR_LO]
  | .lvn => [R.LVN_GTAB_LO, R.LVN_ERR_ADDR_LO]
  | .dbl => [R.DBL_RTAB_LO]
  | .alm => [R.ALM_FW_MAN_LO]
  | .twn => [R.TWN_STAGE_LO, R.TWN_PSEQ_LO]
  | .pwr => [R.PWR_PLAN_LO]
  | .ann => [R.ANN_INC_TIME_LO, R.ANN_DUMP_LO]
  | .sec => [R.SEC_ATT_ADDR_LO]
  | _ => []

/-- Low words of the RW quantities whose writes R90 buffers, and the first words of SLC_GRT entries, which take effect with the
second (R535). -/
def bufferedLow (b : Blk) (o : Nat) : Bool :=
  match b with
  | .ptn => o = R.PTN_DUMP_ADDR_LO
  | .cor => o = R.COR_SCRIPT_ADDR_LO
  | .netb => o = R.NETB_RTAB_LO
  | .alm => o = R.ALM_FW_MAN_LO
  | .ann => o = R.ANN_DUMP_LO
  | .sec => o = R.SEC_ATT_ADDR_LO
  | .slc => 0x400 ≤ o && o < 0x600 && o % 8 = 0
  | _ => false

/-! ### Values formed when they are read -/

/-- Stepped cycles of core `c` since the tick. -/
def stepsOf (s : State) (c : Nat) : Nat := (coreAt s c).steps

/-- The stepped cycle that an array of core `c` has reached: a core that is parked or in no Sol has none of its operations left. -/
def arrayNow (s : State) (c : Nat) : Nat :=
  if (coreAt s c).parked || !((ptnOfSite s c).any (fun p => decide ((ptnAt s p).phase = .sol))) then 2 ^ 40 else stepsOf s c

/-- MXA_STATUS (R279). -/
def mxaStatus (s : State) (c : Nat) (m : Bool) : Nat :=
  let x := arrAt s c m
  let now := arrayNow s c
  let rows := fun (j : StreamJob) => Nat.min j.n (j.at_ + 2 + j.n - (now + x.ahead))
  let left := ((x.strs.map rows).find? (0 < ·)).getD 0
  let loading := !x.loads.isEmpty
  b2n (decide (0 < left)) * 2 ^ 31 + b2n loading * 2 ^ 30 + b2n (bit x.mode 19) * 2 ^ 29 + b2n x.active * 2 ^ 28 + b2n x.p1.valid * 2 ^ 27 +
    b2n x.p0.valid * 2 ^ 26 + left

/-- VEC_STATUS (R366): by the kind that the core runs as. -/
def vecStatus (s : State) (c : Nat) : Nat :=
  match runsAs s c with
  | some 0 => 64
  | some 1 => 0x600 + 256
  | _ => 0

/-- COR_ID (R410). -/
def corId (s : State) (c : Nat) : Nat := (logicalAt s c).getD 0xFF * 2 ^ 16 + (runsAs s c).getD 15 * 16 + kindOfSite c

/-- Freeze holds the issue of core `c`. -/
def issueHeld (s : State) (c : Nat) : Bool := (freezePtn s c).any (ptnHeld s)

/-- COR_STREAM (R410). -/
def corStream (s : State) (c : Nat) : Nat :=
  let x := coreAt s c
  b2n x.parked * 2 ^ 31 + b2n (issueHeld s c) * 2 ^ 30 + x.pos % 4096

/-- A register of barrier `i` at block offset `o` (R508). -/
def barReg (s : State) (i o : Nat) : Option Nat :=
  let x := barAt s i
  if o = R.CAL_STATE then some (x.st * 2 ^ 30 + b2n x.sent * 2 ^ 29 + b2n x.sat * 2 ^ 28 + x.gen % 256)
  else if o = R.CAL_COUNT then some (Nat.min x.n1 0xFFFF * 65536 + Nat.min x.n0 0xFFFF)
  else if o = R.CAL_CHILDREN then some (x.ch1.toNat * 256 + x.ch0.toNat)
  else if o = R.CAL_FAULT then some x.cause.toNat
  else if o = R.CAL_RELEASES then some x.releases.toNat
  else if o = R.CAL_LAST_NS then some (Nat.min x.lastNs 0xFFFFFF)
  else none

/-- PROD or CONS in force of ring `r` (R627); 0 for a ring that is not enabled. -/
def ringReg (s : State) (r : Nat) (prod : Bool) : Nat :=
  if ringEnabled s r then (if prod then (ringDesc s r).prod else (ringDesc s r).cons) else 0

/-- The word at byte offset `4 k` of a list of bytes. -/
def wordAt (bs : List Byte) (k : Nat) : Nat := numOf ((bs.drop (4 * k)).take 4)

/-- VGL_IDLE: how far a partition's counter has come is left free while Vigil watches it; the counter of any other is 0 (R501, R502). -/
def idleBits (s : State) (v : DWord) : Nat := (List.range nPtns).foldl (fun a p => if vigilWatches s p && bit v p then a + 2 ^ p else a) 0

/-- Registers that hold a count of cycles which is still under way when they are read: COR_FROZEN_CC of a core whose issue is held, and
VGL_IDLE. -/
def countNow (b : Blk) (pg i o : Nat) (s : State) : State :=
  match b with
  | .cor => if o = R.COR_FROZEN_CC ∧ issueHeld s i then satFree pg o s else s
  | .vgl => if o = R.VGL_IDLE then let (v, s) := fresh s; setR pg o (BitVec.ofNat 32 (idleBits s v)) s else s
  | _ => s

/-- The register at offset `o` of page `pg`, unit `i` of its block. -/
def regNow (s : State) (b : Blk) (pg i o : Nat) : Nat :=
  let raw := getN s pg o
  match b with
  | .dir =>
    if 0x800 ≤ o then
      (List.range 32).foldl (fun a j =>
        match pageOfSlot (8 * (o - 0x800) + j) with
        | some q => if bit (getR s q R.HDR_READY) 0 then a + 2 ^ j else a
        | none => a) 0
    else raw
  | .seq =>
    if o = R.SEQ_TIME_LO then s.time.toNat % 2 ^ 32
    else if o = R.SEQ_TIME_HI then s.time.toNat / 2 ^ 32
    else if o = R.SEQ_SOL_INDEX_LO then solIndex s % 2 ^ 32
    else if o = R.SEQ_SOL_INDEX_HI then solIndex s / 2 ^ 32
    else raw
  | .mxa => if o = R.MXA_STATUS then mxaStatus s (i / 2) (decide (i % 2 = 1)) else raw
  | .vec => if o = R.VEC_STATUS then vecStatus s i else if o = R.VEC_FLAGS then vecFlags s i (stepsOf s i) else raw
  | .cor =>
    if o = R.COR_ID then corId s i
    else if o = R.COR_SPAD then sizeOfSite s i
    else if o = R.COR_STREAM then corStream s i
    else if o = R.COR_STEPS then stepsOf s i % 2 ^ 32
    else raw
  | .mov =>
    if o = R.MOV_QUEUE then (moverAt s i true).queue.length * 65536 + (moverAt s i false).queue.length
    else if o = R.MOV_OUTSTANDING then coreOps s i * 65536 + chipOps s
    else if o = R.MOV_PEAK then Nat.max (fld (BitVec.ofNat 32 raw) 16 11) (coreOps s i) * 65536 + peakOf s i
    else raw
  | .sig => if o = R.SIG_WAITING then sigWaits s i else raw
  | .gth => if o = R.GTH_QUEUE then (gthAt s i).threads.length * 65536 + (gthAt s i).queue.length else raw
  | .cal =>
    if o = R.CAL_FAULTED then (List.range 16).foldl (fun a k => if (barAt s (16 * i + k)).st = 2 then a + 2 ^ k else a) 0
    else if 0x100 ≤ o ∧ o < 0x900 then (barReg s (16 * i + (o - 0x100) / 0x80) ((o - 0x100) % 0x80)).getD raw
    else raw
  | .slc => if o = R.SLC_SIDE then (match portOfSlice s i with | some j => b2n (sideB j) | none => 0) else raw
  | .med => if o = R.MED_ROLE then medRole s i else raw
  | .dbl =>
    if 0x800 ≤ o then ringReg s (256 * i + (o - 0x800) / 8) (decide (o % 8 = 0)) else raw
  | .lkg => if o = R.LKG_REACH then (lkgReach s).toNat else raw
  | .nets =>
    if o = R.NETS_FREEZE then (List.range nPtns).foldl (fun a p => if ptnHeld s p then a + 2 ^ p else a) 0 else raw
  | .netm =>
    if R.NETM_MASK0 ≤ o ∧ o ≤ R.NETM_MASK3 then netmMask s (getF s pg R.NETM_SEL 0 8) / 2 ^ (8 * (o - R.NETM_MASK0)) % 2 ^ 32 else raw
  | .alm =>
    if R.ALM_TAB_DATA0 ≤ o ∧ o < R.ALM_TAB_DATA0 + 128 then
      wordAt (almTable s (getF s pg R.ALM_TAB_SEL 24 8) (getF s pg R.ALM_TAB_SEL 0 8)) ((o - R.ALM_TAB_DATA0) / 4)
    else raw
  | .twn =>
    let q := (Tab.get 0 s.twn.pseq (getF s pg R.TWN_PSEL 0 4)).toNat
    if o = R.TWN_PSEQ_LO then q % 2 ^ 32 else if o = R.TWN_PSEQ_HI then q / 2 ^ 32 else raw
  | .ann =>
    if R.ANN_DATA0 ≤ o ∧ o < R.ANN_DATA0 + 128 then
      numOf (Tab.slice 0 s.ann.buf (getF s pg R.ANN_WIN 7 11 * 128 + (o - R.ANN_DATA0)) 4)
    else raw
  | _ => raw

/-- The 64-bit quantity whose low word is at `o`. -/
def wideNow (s : State) (b : Blk) (pg i o : Nat) : BitVec 64 :=
  BitVec.ofNat 64 (regNow s b pg i o + regNow s b pg i (o + 4) * 2 ^ 32)

/-! ### Reads -/

/-- An RC register as a read leaves it (R11). -/
def rcClear (b : Blk) (pg i o : Nat) (s : State) : State :=
  let s := setR pg o (resetReg s.fuses pg o) s
  if b = .mov ∧ o = R.MOV_PEAK then peakClear i s else s

/-- A read of the register at offset `o` of page `pg`: its value, and what the read changes (R11 RC, R89). -/
def regRead (b : Blk) (pg i o : Nat) (s : State) : Word × State :=
  if 0x40 ≤ o ∧ bstate s pg = B.absent then (0, s)
  else if (wideLows b).contains o then
    let q := wideNow s b pg i o
    (BitVec.ofNat 32 q.toNat, { s with capt := Tab.put s.capt (regKey pg o) q })
  else if 4 ≤ o ∧ (wideLows b).contains (o - 4) then
    match Tab.find s.capt (regKey pg (o - 4)) with
    | some q => (BitVec.ofNat 32 (q.toNat / 2 ^ 32), s)
    | none => (resetReg s.fuses pg o, s)
  else
    let s := countNow b pg i o s
    (BitVec.ofNat 32 (regNow s b pg i o), if (b.row o).any (·.rc) then rcClear b pg i o s else s)

/-! ### Writes -/

/-- HDR_CMD (R79, R82, R83). -/
def cmdWrite (b : Blk) (pg i : Nat) (v : Word) (s : State) : State :=
  match v.toNat with
  | 1 => startOp b pg i s
  | 2 => stopOp b pg i s
  | 3 => abortOp b pg i s
  | 4 => clearOp b pg i s
  | 5 => retireOp b pg i s
  | _ => ignoredCmd pg s

/-- The register with the bits of a mask taken from `v`. -/
def maskIn (old v : Word) (mask : Nat) : Word := BitVec.ofNat 32 ((old.toNat - (old.toNat &&& mask)) ||| (v.toNat &&& mask))

/-- The page header's registers (R67–R75). -/
def headerWrite (b : Blk) (pg i o : Nat) (v : Word) (s : State) : State :=
  if o = R.HDR_CMD then cmdWrite b pg i v s
  else if o = R.HDR_FAULT then setR pg o (getR s pg o &&& ~~~v) s
  else if o = R.HDR_FAULT_EN then
    if bstate s pg = B.stopped then setR pg o (maskIn (getR s pg o) v (b.causes ||| 0xC)) s else ignoredRws pg o s
  else if o = R.HDR_ROUTE then setR pg o (maskIn (getR s pg o) v 0xFFFF000E) s
  else if o = R.HDR_IGNORED then
    let n := getR s pg o &&& ~~~(v &&& 3)
    setR pg o (if bit n 0 then n else setFld n 8 12 0) s
  else s

/-- May the RWS fields at `o` be written now? Registers shared by the pages of a block ask that every one of them is Stopped (R603,
R626); Absent and Retired pages hold nothing up. -/
def rwsOpen (s : State) (b : Blk) (pg o : Nat) : Bool :=
  let all := fun (n : Nat) (page : Nat → Nat) => (List.range n).all (fun k =>
    decide (bstate s (page k) = B.stopped) || decide (bstate s (page k) = B.absent) || decide (bstate s (page k) = B.retired))
  let here := decide (bstate s pg = B.stopped)
  match b with
  | .lvn => if 0x40 ≤ o ∧ o < 0x50 then here && all nSlices Pg.lvn else here
  | .dbl => if o = R.DBL_RTAB_LO ∨ o = R.DBL_RTAB_HI then here && all 256 Pg.dbl else here
  | _ => here

/-- Registers that a cleared VALID bit clears with it: the record's own word and those at the offsets named. What a read of a low word
has captured of them stays captured (R89). -/
def recordOf (b : Blk) (o : Nat) : Option (List Nat) :=
  match b with
  | .glb => if o = R.GLB_ACC_ERR then some [o, R.GLB_ACC_ERR_ADDR_LO, R.GLB_ACC_ERR_ADDR_HI] else none
  | .mxa => if o = R.MXA_CHK_ROW then some [o, R.MXA_CHK_ROW_AT] else if o = R.MXA_CHK_COL then some [o, R.MXA_CHK_COL_AT] else none
  | .vec => if o = R.VEC_ERR then some [o] else none
  | .cor => if o = R.COR_ERR then some [o] else none
  | .netb => if o = R.NETB_ERR then some [o] else none
  | .vgl => if o = R.VGL_LAST then some [o, R.VGL_LAST_TIME_LO, R.VGL_LAST_TIME_HI] else none
  | .slc => if o = R.SLC_ERR then some [o, R.SLC_ERR_ADDR_LO, R.SLC_ERR_ADDR_HI] else none
  | .lvn => if o = R.LVN_ERR then some [o, R.LVN_ERR_ADDR_LO, R.LVN_ERR_ADDR_HI] else none
  | .dbl => if o = R.DBL_ERR then some [o] else none
  | .mov => if o = R.MOV_ERR then some [o, R.MOV_ERR_ADDR_LO, R.MOV_ERR_ADDR_HI] else if o = R.MOV_DESC_ERR then some [o] else none
  | .gth => if o = R.GTH_ERR then some [o] else none
  | .netm => if o = R.NETM_LAST_DROP then some [o] else none
  | .lnk => if o = R.LNK_STAGE_LOG then some [o] else none
  | .lkg => if o = R.LKG_ERR then some [o] else none
  | .sec => if o = R.SEC_MAN_ERR then some [o] else none
  | _ => none

/-- A write by the access codes of the register's bits (R11, R75). DESIGN CHOICE, where R681 and R683 say neither that the value is clamped
nor that CONFIG is recorded: LNK_TXN_TIMEOUT takes any value of its 27 bits, one outside 10,000 to 100,000,000 too. -/
def rowWrite (b : Blk) (pg o : Nat) (r : RegRow) (v : Word) (s : State) : State :=
  let free := r.rws ≠ 0 && rwsOpen s b pg o
  let new := maskIn (getR s pg o) v (r.rw ||| (if free then r.rws else 0))
  let new := BitVec.ofNat 32 (new.toNat - (new.toNat &&& (v.toNat &&& r.w1c)))
  let s := match recordOf b o with
    | some l => if bit v 31 then foldS (fun k s => setR pg k 0 s) l s else s
    | none => setR pg o new s
  if r.rws ≠ 0 ∧ !free then ignoredRws pg o s else s

/-- Several bits of an action register: the write is refused unless an action is under way. -/
def oneOf (v : Word) (n : Nat) : Option Nat :=
  match bitsSet n v.toNat with
  | [] => none
  | [k] => some k
  | _ => some n

/-- PTN_ACTION (R161). -/
def ptnAction (p : Nat) (v : Word) (s : State) : State :=
  match oneOf v 3 with
  | none => s
  | some 0 => replayOp p s
  | some 1 => dumpOp p s
  | some 2 => loadOp p s
  | some _ => if (unitJob s p).isSome then s else setF (Pg.ptn p) R.PTN_ACTION_STATUS 0 3 2 s

/-- TWN_ACTION (R758). -/
def twnAction (v : Word) (s : State) : State :=
  match oneOf v 3 with
  | none => s
  | some 0 => takeOp s
  | some 1 => silverOp s
  | some 2 => fosterOp s
  | some _ => if twnBusy s then s else twnResult false true 2 s

/-- ANN_ACTION (R801): each bit set acts, lowest first. -/
def annAction (v : Word) (s : State) : State :=
  let s := if bit v 0 then annReleaseOp s else s
  let s := if bit v 1 then traceRestartOp s else s
  let s := if bit v 2 then annDumpOp s else s
  if bit v 3 then annClearOp s else s

/-- DBL_ENABLE word `k` of page `d`: each bit that changes enables or disables its ring (R609, R611). -/
def enableWrite (d k : Nat) (v : Word) (s : State) : State :=
  foldS (fun j s =>
    let r := 256 * d + 32 * k + j
    if bit v j then ringEnableOp r s else ringDisableOp r s) (List.range 32) s

/-- A write of a register whose write does more than store its bits; `none` for every other register. -/
def actWrite (b : Blk) (pg i o : Nat) (v : Word) (s : State) : Option State :=
  match b with
  | .glb =>
    if o = R.GLB_CMD_TIMEOUT then some (setR pg o (BitVec.ofNat 32 (Nat.max 1 (Nat.min 2000 (fld v 0 11)))) s) else none
  | .ptn => if o = R.PTN_ACTION then some (ptnAction i v s) else none
  | .mxa => if o = R.MXA_ACTION then some (if bit v 0 then bistStart pg s else s) else none
  | .cor => if o = R.COR_MIGRATE then some (migrateOp i v s) else none
  | .cal =>
    if o = R.CAL_FORCE then some (calForceWrite i v s)
    else if o = R.CAL_XARRIVE then some (calXarriveWrite i v s)
    else if o = R.CAL_CLEAR then some (calClearWrite i v s)
    else none
  | .med => if o = R.MED_KEEP_CMD then some (if bit v 0 then keepStart i (bit v 1) s else s) else none
  | .dbl =>
    if R.DBL_ENABLE0 ≤ o ∧ o < R.DBL_ENABLE0 + 16 then some (enableWrite i ((o - R.DBL_ENABLE0) / 4) v s)
    else if R.DBL_ENABLE4 ≤ o ∧ o < R.DBL_ENABLE4 + 16 then some (enableWrite i (4 + (o - R.DBL_ENABLE4) / 4) v s)
    else if 0x800 ≤ o then some (doorbellWrite (256 * i + (o - 0x800) / 8) (decide (o % 8 = 0)) v s)
    else none
  | .lnk => if o = R.LNK_ACTION then some (if bit v 0 then retrainOp i (bit v 1) s else s) else none
  | .alm =>
    if o = R.ALM_SUBST then some (substOp v s)
    else if o = R.ALM_ACTION then some (if bit v 0 then recClearOp s else s)
    else if o = R.ALM_FW_CMD then some (fwCmdOp v s)
    else none
  | .twn => if o = R.TWN_ACTION then some (twnAction v s) else none
  | .ann =>
    if o = R.ANN_ACTION then some (annAction v s)
    else if o = R.ANN_QUIET then some (setR pg o (BitVec.ofNat 32 (Nat.max 10 (Nat.min 100000 (fld v 0 17)))) s)
    else if o = R.ANN_TRACE_TAIL then some (traceTailOp v s)
    else none
  | .sec => if o = R.SEC_ATT_CMD then some (if bit v 0 then attestOp s else s) else none
  | .netm => if o = R.NETM_MASK3 then some (maskCommit v s) else none
  | _ => none

/-- What the write of a most significant word brings with it: cached tag entries go (R442), the core map forgets a core (R813). -/
def commitHook (b : Blk) (i o : Nat) (s : State) : State :=
  match b with
  | .netb => if o = R.NETB_RTAB_HI then { s with tagCache := [] } else s
  | .cor => if o = R.COR_SCRIPT_ADDR_HI then scriptAddrWritten i s else s
  | _ => s

/-- Is a write of this word kept in the buffer (R90, R463)? -/
def isBuffered (b : Blk) (o : Nat) : Bool := bufferedLow b o || (decide (b = .netm) && decide (R.NETM_MASK0 ≤ o) && decide (o < R.NETM_MASK3))

/-- The buffered low word takes effect. -/
def commitLow (pg o : Nat) (s : State) : State :=
  let k := regKey pg o
  match Tab.find s.wbuf k with
  | some w => setR pg o w { s with wbuf := Tab.erase s.wbuf k }
  | none => s

/-- A write of `v` to the register at offset `o` of page `pg`. DESIGN CHOICE, where R66 says only that a write to a block register of an
Absent page has no effect and R11 and R73 that an RWS write in any state but Stopped is noted: such a write sets no bit of HDR_IGNORED,
while one to HDR_FAULT_EN, in the header that an Absent page keeps, does. -/
def regWrite (b : Blk) (pg i o : Nat) (v : Word) (s : State) : State :=
  if o < 0x40 then headerWrite b pg i o v s
  else if bstate s pg = B.absent then s
  else
    match actWrite b pg i o v s with
    | some t => t
    | none =>
      match b.row o with
      | none => s
      | some r =>
        if isBuffered b o then { s with wbuf := Tab.put s.wbuf (regKey pg o) (maskIn 0 v r.rw) }
        else if 4 ≤ o ∧ bufferedLow b (o - 4) then commitHook b i o (rowWrite b pg o r v (commitLow pg (o - 4) s))
        else rowWrite b pg o r v s

/-! ### Accesses -/

/-- NETC counts an access that the control network carried, and keeps the longest; how long this one took is left free (R461). -/
def accCount (err : Bool) (s : State) : State :=
  let s := wrapR Pg.netc R.NETC_ACCESSES 1 s
  let (v, s) := fresh s
  let s := setR Pg.netc R.NETC_MAX_NS (BitVec.ofNat 32 (Nat.max (getN s Pg.netc R.NETC_MAX_NS) (v.toNat % 2 ^ 32))) s
  if err then satR Pg.netc R.NETC_ERRORS 1 s else s

/-- One access of the local control space at byte offset `a` of it: `none` in place of a value where it completes with error (R10,
R13, R60, R98). -/
def regAccess (write : Bool) (a : Nat) (v : Word) (s : State) : Option Word × State :=
  if a % 4 ≠ 0 then (none, accCount true (accErr 1 (0xF00000000000 + a) s))
  else
    match pageOfSlot (a / 0x1000) with
    | none => (some 0, accCount false s)
    | some pg =>
      match pageBlk pg with
      | none => (some 0, accCount false s)
      | some (b, i) =>
        if write then (some 0, accCount false (settleUnits (regWrite b pg i (a % 0x1000) v s)))
        else
          let (w, s) := regRead b pg i (a % 0x1000) s
          (some w, accCount false s)

/-- Where a register access goes. -/
inductive CtlTgt where
  /-- this die's control space, byte offset -/
  | here (a : Nat)
  | far (d a : Nat)
  | bad
  /-- reserved address bits (R50) -/
  | badBits
deriving DecidableEq, Repr

/-- A local address as a register access reaches it. -/
def ctlLocal (l : Nat) : CtlTgt := if areaOf l = .control then .here (l - 0xF00000000000) else .bad

/-- Decoding of the address field of a register access by a source of this die (R49–R57). -/
def ctlTarget (s : State) (a : DWord) : CtlTgt :=
  let l := a.toNat % 2 ^ 48
  if fld a 60 3 ≠ 0 ∨ (bit a 63 = false ∧ fld a 48 12 ≠ 0) then .badBits
  else if bit a 63 then
    if !dieValid s then .bad
    else if fld a 48 12 = dieNum s then ctlLocal l
    else if areaOf l = .window then .bad
    else .far (fld a 48 12) l
  else if areaOf l = .window then
    let v := getR s Pg.glb (R.GLB_WIN0 + 4 * ((l - 0xC000000000) / 2 ^ 34))
    let l2 := fld v 0 14 * 2 ^ 34 + l % 2 ^ 34
    if !bit v 31 ∨ !dieValid s ∨ areaOf l2 = .window then .bad
    else if fld v 16 12 = dieNum s then ctlLocal l2
    else .far (fld v 16 12) l2
  else ctlLocal l

/-- Endpoint number under which register accesses to other dies wait: a reserved number (R419), a DESIGN CHOICE. -/
abbrev ctlEp : Nat := 0x1FD

/-- An access to another die (R99, R102, R651): a request with a tag, whose completion ends it; no route, and it completes with error. -/
def farAccess (write : Bool) (d a : Nat) (v : Word) (s : State) : State :=
  if !reachable s d then send (.access true 0) (if (route s d).isNone then lkgDiscard (routeFirst s d) 1 d s else s)
  else
    let (t, s) := newTxn s
    let tag := t % 4096
    postMsg d Cls.mem 2 (.regReq d tag write (BitVec.ofNat 48 a) v) { s with ops := s.ops ++ [mkOp s t ctlEp d a (.regAccess tag)] }

/-- An access by a source of this die (R61): its completion returns after the access has taken effect (R98). -/
def accessOp (write : Bool) (a : DWord) (v : Word) (s : State) : State :=
  match ctlTarget s a with
  | .here l =>
    let (r, s) := regAccess write l v s
    send (.access r.isNone (r.getD 0)) s
  | .far d l => farAccess write d l v s
  | .bad => send (.access true 0) (accCount true s)
  | .badBits => send (.access true 0) (accCount true (accErr 2 a.toNat s))

/-! ### Register messages (R651) -/

/-- A request from another die, or a completion for an access of this one. -/
def regMsgOp (compl write err : Bool) (sdie tag : Nat) (addr : BitVec 48) (v : Word) (s : State) : State :=
  if compl then
    match s.ops.find? (fun o => decide (o.kind = .regAccess tag) && decide (o.die = sdie)) with
    | some o => send (.access err (if write then 0 else v)) (opDone o s)
    | none => satR (Pg.lkg (routeFirst s sdie)) R.LKG_LATE 1 s
  else
    let reply := fun (r : Option Word) (s : State) =>
      postMsg sdie Cls.mem 2 (.regCompl sdie tag write r.isNone addr (if write then 0 else r.getD 0)) s
    match ctlLocal addr.toNat with
    | .here a => let (r, s) := regAccess write a v s; reply r s
    | _ => reply none (accCount true s)

/-! ### The commands -/

/-- REGISTER_WRITE. -/
def execRegisterWrite (addr : DWord) (v : Word) (s : State) : Host.Outcome State Fault Refusal := act s (accessOp true addr v s)

/-- RC_READ. -/
def execRcRead (addr : DWord) (s : State) : Host.Outcome State Fault Refusal := act s (accessOp false addr 0 s)

/-- WIDE_READ_CAPTURE. -/
def execWideReadCapture (addr : DWord) (s : State) : Host.Outcome State Fault Refusal := act s (accessOp false addr 0 s)

/-- WIDE_WRITE_COMMIT. -/
def execWideWriteCommit (addr : DWord) (v : Word) (s : State) : Host.Outcome State Fault Refusal := act s (accessOp true addr v s)

/-- REG. -/
def execReg (compl write err : Bool) (sdie tag : BitVec 12) (addr : BitVec 48) (v : Word) (s : State) :
    Host.Outcome State Fault Refusal :=
  act s (regMsgOp compl write err sdie.toNat tag.toNat addr v s)

end Sys2Proof.Machine
end

