-- ==== Sys2Proof/Machine/Test.lean ====
section
/-! DEFINITION. Test access: the TAP driven by the pins or by TEST messages (R820–R827), its data registers, the CSA instrument and the
other instruments of the IEEE 1687 network (R828–R830). -/

namespace Sys2Proof.Machine

/-- The TAP changed. -/
def updTap (f : Tap → Tap) (s : State) : State := { s with tap := f s.tap }

/-! ### The TAP controller -/

/-- TST_STATUS: PINS, state and instruction in force (R832). -/
def tapPins (s : State) : Bool := bit (getR s Pg.tst R.TST_STATUS) 31
def tapState (s : State) : Nat := getF s Pg.tst R.TST_STATUS 8 4
def tapInstr (s : State) : Nat := getF s Pg.tst R.TST_STATUS 0 8
def setTapState (v : Nat) (s : State) : State := setF Pg.tst R.TST_STATUS 8 4 v s
def setTapInstr (v : Nat) (s : State) : State := setF Pg.tst R.TST_STATUS 0 8 v s

-- State codes. The manual gives 0xF for Test-Logic-Reset and names IEEE 1149.1 for the rest: PRESUMED, the family's usual codes.
namespace TS

abbrev reset : Nat := 0xF
abbrev idle : Nat := 0xC
abbrev selDr : Nat := 7
abbrev capDr : Nat := 6
abbrev shDr : Nat := 2
abbrev ex1Dr : Nat := 1
abbrev pauseDr : Nat := 3
abbrev ex2Dr : Nat := 0
abbrev updDr : Nat := 5
abbrev selIr : Nat := 4
abbrev capIr : Nat := 0xE
abbrev shIr : Nat := 0xA
abbrev ex1Ir : Nat := 9
abbrev pauseIr : Nat := 0xB
abbrev ex2Ir : Nat := 8
abbrev updIr : Nat := 0xD

end TS

/-- The state after an edge of TCK with TMS. -/
def tapNext (st : Nat) (tms : Bool) : Nat :=
  match st with
  | 0xF => if tms then TS.reset else TS.idle
  | 0xC => if tms then TS.selDr else TS.idle
  | 7 => if tms then TS.selIr else TS.capDr
  | 6 => if tms then TS.ex1Dr else TS.shDr
  | 2 => if tms then TS.ex1Dr else TS.shDr
  | 1 => if tms then TS.updDr else TS.pauseDr
  | 3 => if tms then TS.ex2Dr else TS.pauseDr
  | 0 => if tms then TS.updDr else TS.shDr
  | 5 => if tms then TS.selDr else TS.idle
  | 4 => if tms then TS.reset else TS.capIr
  | 0xE => if tms then TS.ex1Ir else TS.shIr
  | 0xA => if tms then TS.ex1Ir else TS.shIr
  | 9 => if tms then TS.updIr else TS.pauseIr
  | 0xB => if tms then TS.ex2Ir else TS.pauseIr
  | 8 => if tms then TS.updIr else TS.shIr
  | _ => if tms then TS.selDr else TS.idle

/-- `n` bits that the manual leaves open. -/
def freshBits (s : State) : Nat → List Bool × State
  | 0 => ([], s)
  | n + 1 =>
    let (l, s) := freshBits (fresh s).2 n
    (bit (fresh s).1 0 :: l, s)

/-- The bits of a number, least significant first. -/
def bitsOf (n v : Nat) : List Bool := (List.range n).map v.testBit

/-- The number that bits spell, first bit least significant. -/
def bitsNum (l : List Bool) : Nat := l.foldr (fun b a => b2n b + 2 * a) 0

/-- Capture of the data register that the instruction selects (R822): pins, and the structure of the network, are not the
manual's. -/
def drCapture (s : State) : List Bool × State :=
  match tapInstr s with
  | 0x00 => freshBits s Config.boundaryLen
  | 0x01 => freshBits s Config.boundaryLen
  | 0x02 => (bitsOf 32 (idcodeOf s.fuses.variant).toNat, s)
  | 0x10 =>
    let (f, t) := fresh s
    ((List.range (Config.ijtagLen s.tap.net)).map (fun i => Config.ijtagBit s.tap.net s.tap.csa.toNat i f.toNat), t)
  | _ => ([false], s)

/-- Capture of the instruction register: the two bits nearest TDO are 1 and 0; the manual gives no others. -/
def irCapture (s : State) : List Bool × State :=
  let (l, s) := freshBits s 6
  (true :: false :: l, s)

/-! ### Instruments (R828–R830) -/

/-- Instruments: 0 CSA, 1 FUSE, 2 + site, 134 + slice, 167 + port, 221 THERM. -/
abbrev nInstruments : Nat := 222

/-- The core pages of a site that are present. -/
def presentPages (s : State) (c : Nat) : List Nat :=
  ((List.range 7).map (fun k => Pg.cor c + k)).filter (fun pg => bstate s pg ≠ B.absent)

/-- The precondition to start, and to go on. -/
def instrReady (s : State) (k : Nat) : Bool :=
  let rest := fun (pg : Nat) => decide (bstate s pg = B.stopped) || decide (bstate s pg = B.faulted)
  if k < 2 then true
  else if k < 134 then (presentPages s (k - 2)).all rest
  else if k < 167 then (List.range 4).all (fun j => rest (Pg.slc (k - 134) + j))
  else if k < 221 then decide (bstate s (Pg.lnk (k - 167)) = B.stopped) || decide (bstate s (Pg.lnk (k - 167)) = B.absent)
  else true

/-- Status of an instrument: 0 idle, 1 running, 2 done, 3 REFUSED, 4 ABORTED; and its result. -/
def instrAt (s : State) (k : Nat) : Nat × DWord := Tab.get (0, 0) s.tap.instr k
def setInstr (k : Nat) (v : Nat × DWord) (s : State) : State := updTap (fun t => { t with instr := Tab.store (0, 0) t.instr k v }) s

/-- An instrument is started (R830). -/
def instrStart (k : Nat) (s : State) : State :=
  if k = 0 ∨ nInstruments ≤ k ∨ (instrAt s k).1 = 1 then s
  else if instrReady s k then setInstr k (1, 0) s
  else setInstr k (3, 0) s

/-- The CSA instrument at Update-DR (R829): with GO = 1 and no access outstanding, one access of the local control space. -/
def csaUpdate (w : BitVec 64) (s : State) : State :=
  if bit w 63 ∧ s.tap.csaBusy = false then
    let a := fld w 32 26
    let (r, s) := regAccess (bit w 62) a (BitVec.ofNat 32 w.toNat) s
    let cap := BitVec.ofNat 64 (b2n r.isNone * 2 ^ 62 + a * 2 ^ 32 + (r.getD 0).toNat)
    updTap (fun t => { t with csa := cap, csaBusy := true }) (wrapR Pg.tst R.TST_CSA_COUNT 1 s)
  else s

/-- Update-DR. -/
def drUpdate (s : State) : State :=
  match tapInstr s with
  | 0x00 => updTap (fun t => { t with bound := t.dr }) s
  | 0x01 => updTap (fun t => { t with bound := t.dr }) s
  | 0x10 =>
    let d := s.tap.dr
    let s := match Config.ijtagCsa d with | some w => csaUpdate w s | none => s
    updTap (fun t => { t with net := d }) (foldS instrStart (Config.ijtagStarts d) s)
  | _ => s

/-! ### Edges and scans -/

/-- A shift register moved by one: the bit that leaves toward TDO, and the register with TDI at its far end. -/
def shiftOne (l : List Bool) (tdi : Bool) : Bool × List Bool :=
  match l with
  | [] => (tdi, [])
  | b :: t => (b, t ++ [tdi])

/-- What the edge does in the state it finds. -/
def tapAct (tdi : Bool) (s : State) : State :=
  let st := tapState s
  if st = TS.capDr then
    let (l, s) := drCapture s
    updTap (fun t => { t with dr := l, tdo := none }) s
  else if st = TS.capIr then
    let (l, s) := irCapture s
    updTap (fun t => { t with ir := l, tdo := none }) s
  else if st = TS.shDr then updTap (fun t => { t with tdo := some (shiftOne t.dr tdi).1, dr := (shiftOne t.dr tdi).2 }) s
  else if st = TS.shIr then updTap (fun t => { t with tdo := some (shiftOne t.ir tdi).1, ir := (shiftOne t.ir tdi).2 }) s
  else updTap (fun t => { t with tdo := none }) s

/-- What entering a state does: Test-Logic-Reset selects IDCODE (R821), the update states update. -/
def tapEnter (st : Nat) (s : State) : State :=
  let s := setTapState st s
  if st = TS.reset then setTapInstr 0x02 s
  else if st = TS.updIr then setTapInstr (bitsNum s.tap.ir) s
  else if st = TS.updDr then drUpdate s
  else s

/-- One edge of TCK. -/
def tapEdge (tms tdi : Bool) (s : State) : State := tapEnter (tapNext (tapState s) tms) (tapAct tdi s)

/-- Edges in order; the TDO bits of those that shifted. -/
def tapRun : List (Bool × Bool) → State → List Bool × State
  | [], s => ([], s)
  | (tms, tdi) :: t, s =>
    let s := tapEdge tms tdi s
    let o := s.tap.tdo
    let (l, s) := tapRun t s
    ((match o with | some b => b :: l | none => l), s)

/-- The edges of a scan of `n` bits between Run-Test/Idle and Run-Test/Idle, after those that lead to Capture. -/
def scanEdges (lead : List Bool) (n : Nat) (tdi : List Bool) : List (Bool × Bool) :=
  lead.map (·, false) ++ (List.range n).map (fun k => (decide (k + 1 = n), (tdi[k]?).getD false)) ++ [(true, false), (false, false)]

/-- From Test-Logic-Reset one edge leads to Run-Test/Idle. -/
def tapIdle (s : State) : State := if tapState s = TS.reset then tapEdge false false s else s

/-- A scan that a TEST message carries (R826): discarded and counted while the pins drive the TAP or with NBITS out of range. -/
def scanOp (op nbits : Nat) (ok : Bool) (f : State → List Bool × State) (s : State) : State :=
  if tapPins s ∨ ok = false then satR Pg.tst R.TST_TEST_DROPS 1 s
  else
    let (l, s) := f s
    postMsg 0xFFF Cls.dbg ((l.length + 63) / 64) (.test op nbits l) (wrapR Pg.tst R.TST_SCANS 1 s)

/-- TEST RESET. -/
def testResetOp (nbits : Nat) (s : State) : State :=
  scanOp 1 nbits (decide (nbits = 0)) (tapRun ([true, true, true, true, true, false].map (·, false))) s

/-- TEST IR. -/
def testIrOp (nbits : Nat) (tdi : List Bool) (s : State) : State :=
  scanOp 2 nbits (decide (nbits = 8)) (fun s => tapRun (scanEdges [true, true, false, false] 8 tdi) (tapIdle s)) s

/-- NBITS of a DR or IDLE scan. -/
def nbitsOk (n : Nat) : Bool := decide (1 ≤ n) && decide (n ≤ 16320)

/-- TEST DR. -/
def testDrOp (nbits : Nat) (tdi : List Bool) (s : State) : State :=
  scanOp 3 nbits (nbitsOk nbits) (fun s => tapRun (scanEdges [true, false, false] nbits tdi) (tapIdle s)) s

/-- TEST IDLE: TDO is not driven, so the bits returned are open. -/
def testIdleOp (nbits : Nat) (s : State) : State :=
  scanOp 4 nbits (nbitsOk nbits) (fun s => freshBits (updTap (fun t => { t with tdo := none }) (tapIdle s)) nbits) s

/-- The instruction in force becomes `v`. -/
def selectInstr (v : Nat) (s : State) : State := setTapInstr v s

/-! ### The commands -/

/-- TEST_RESET. -/
def execTestReset (nbits : Nat) (s : State) : Host.Outcome State Fault Refusal := act s (testResetOp nbits s)

/-- TEST_IR. -/
def execTestIr (nbits : Nat) (tdi : List Bool) (s : State) : Host.Outcome State Fault Refusal := act s (testIrOp nbits tdi s)

/-- TEST_DR. -/
def execTestDr (nbits : Nat) (tdi : List Bool) (s : State) : Host.Outcome State Fault Refusal := act s (testDrOp nbits tdi s)

/-- TEST_IDLE. -/
def execTestIdle (nbits : Nat) (s : State) : Host.Outcome State Fault Refusal := act s (testIdleOp nbits s)

/-- EXTEST. -/
def execExtest (s : State) : Host.Outcome State Fault Refusal := act s (selectInstr 0x00 s)

/-- SAMPLE_PRELOAD. -/
def execSamplePreload (s : State) : Host.Outcome State Fault Refusal := act s (selectInstr 0x01 s)

/-- IDCODE. -/
def execIdcode (s : State) : Host.Outcome State Fault Refusal := act s (selectInstr 0x02 s)

/-- IJTAG. -/
def execIjtag (s : State) : Host.Outcome State Fault Refusal := act s (selectInstr 0x10 s)

/-- BYPASS. -/
def execBypass (s : State) : Host.Outcome State Fault Refusal := act s (selectInstr 0xFF s)

/-- INSTRUMENT_ABORT: a block has left its precondition state, and its running instrument stops. -/
def execInstrumentAbort (k : Nat) (s : State) : Host.Outcome State Fault Refusal :=
  onUnit k nInstruments (fun s => if (instrAt s k).1 = 1 ∧ instrReady s k = false then setInstr k (4, 0) s else s) s

/-- INSTRUMENT_DONE: an instrument finishes, or the completion of a CSA access returns. -/
def execInstrumentDone (k : Nat) (result : DWord) (s : State) : Host.Outcome State Fault Refusal :=
  onUnit k nInstruments (fun s =>
    if k = 0 then
      if s.tap.csaBusy then updTap (fun t => { t with csa := t.csa ||| 0x8000000000000000, csaBusy := false }) s else s
    else if (instrAt s k).1 = 1 then setInstr k (2, result) s else s) s

/-- TCK: an edge of the pin, while the pins drive the TAP. -/
def execTck (tms tdi : Bool) (s : State) : Host.Outcome State Fault Refusal := act s (if tapPins s then tapEdge tms tdi s else s)

/-- TRST_N asserted, while the pins drive the TAP. -/
def execTrstN (s : State) : Host.Outcome State Fault Refusal := act s (if tapPins s then tapEnter TS.reset s else s)

end Sys2Proof.Machine
end

