-- ==== Sys2Proof/Machine/Dispatch.lean ====
section
/-! DEFINITION. Which meaning each command has: one arm per row of the opcode table. -/

namespace Sys2Proof.Machine

/-- The command's effect on everything but the queue. -/
def exec (i : Instr) (s : State) : Host.Outcome State Fault Refusal :=
  match i with
  | .resetRelease testEn railsOk => Sys2Proof.Machine.execResetRelease testEn railsOk s
  | .resetAssert pulseNs railsKept => Sys2Proof.Machine.execResetAssert pulseNs railsKept s
  | .start pg => Sys2Proof.Machine.execStart pg s
  | .stop pg => Sys2Proof.Machine.execStop pg s
  | .abort pg => Sys2Proof.Machine.execAbort pg s
  | .clear pg => Sys2Proof.Machine.execClear pg s
  | .retire pg => Sys2Proof.Machine.execRetire pg s
  | .startingDone pg => Sys2Proof.Machine.execStartingDone pg s
  | .stoppingDone pg => Sys2Proof.Machine.execStoppingDone pg s
  | .cmdTimeout pg => Sys2Proof.Machine.execCmdTimeout pg s
  | .selftestDone pg pass rows cols => Sys2Proof.Machine.execSelftestDone pg pass rows cols s
  | .registerWrite addr v => Sys2Proof.Machine.execRegisterWrite addr v s
  | .rcRead addr => Sys2Proof.Machine.execRcRead addr s
  | .wideReadCapture addr => Sys2Proof.Machine.execWideReadCapture addr s
  | .wideWriteCommit addr v => Sys2Proof.Machine.execWideWriteCommit addr v s
  | .reg compl write err sdie tag addr v => Sys2Proof.Machine.execReg compl write err sdie tag addr v s
  | .time v => Sys2Proof.Machine.execTime v s
  | .holdover => Sys2Proof.Machine.execHoldover s
  | .timeLost => Sys2Proof.Machine.execTimeLost s
  | .packageTick k => Sys2Proof.Machine.execPackageTick k s
  | .partitionTick p j => Sys2Proof.Machine.execPartitionTick p j s
  | .solEndPoint p now => Sys2Proof.Machine.execSolEndPoint p now s
  | .solCommit p parityBad => Sys2Proof.Machine.execSolCommit p parityBad s
  | .solOverrun p => Sys2Proof.Machine.execSolOverrun p s
  | .partitionFaulted p => Sys2Proof.Machine.execPartitionFaulted p s
  | .replay p => Sys2Proof.Machine.execReplay p s
  | .replayRestoreDone p => Sys2Proof.Machine.execReplayRestoreDone p s
  | .dump p => Sys2Proof.Machine.execDump p s
  | .load p => Sys2Proof.Machine.execLoad p s
  | .scriptLoadDone c => Sys2Proof.Machine.execScriptLoadDone c s
  | .syllableIssue cycle => Sys2Proof.Machine.execSyllableIssue cycle s
  | .freezeLower p => Sys2Proof.Machine.execFreezeLower p s
  | .sNop c q => Sys2Proof.Machine.execSNop c q s
  | .solEnd c => Sys2Proof.Machine.execSolEnd c s
  | .solEndComplete c => Sys2Proof.Machine.execSolEndComplete c s
  | .br c p neg target => Sys2Proof.Machine.execBr c p neg target s
  | .loopi c stop count => Sys2Proof.Machine.execLoopi c stop count s
  | .loopr c stop a => Sys2Proof.Machine.execLoopr c stop a s
  | .guard c p neg slots => Sys2Proof.Machine.execGuard c p neg slots s
  | .wait c sig count => Sys2Proof.Machine.execWait c sig count s
  | .waitr c sig a => Sys2Proof.Machine.execWaitr c sig a s
  | .waitl c pd sig count a => Sys2Proof.Machine.execWaitl c pd sig count a s
  | .waitlTimeout c => Sys2Proof.Machine.execWaitlTimeout c s
  | .tests c pd sig count => Sys2Proof.Machine.execTests c pd sig count s
  | .add c q d a b => Sys2Proof.Machine.execAdd c q d a b s
  | .sub c q d a b => Sys2Proof.Machine.execSub c q d a b s
  | .and c q d a b => Sys2Proof.Machine.execAnd c q d a b s
  | .or c q d a b => Sys2Proof.Machine.execOr c q d a b s
  | .xor c q d a b => Sys2Proof.Machine.execXor c q d a b s
  | .shl c q d a b => Sys2Proof.Machine.execShl c q d a b s
  | .shr c q d a b => Sys2Proof.Machine.execShr c q d a b s
  | .sra c q d a b => Sys2Proof.Machine.execSra c q d a b s
  | .mul c q d a b => Sys2Proof.Machine.execMul c q d a b s
  | .min c q d a b => Sys2Proof.Machine.execMin c q d a b s
  | .max c q d a b => Sys2Proof.Machine.execMax c q d a b s
  | .minu c q d a b => Sys2Proof.Machine.execMinu c q d a b s
  | .maxu c q d a b => Sys2Proof.Machine.execMaxu c q d a b s
  | .addi c q d a imm => Sys2Proof.Machine.execAddi c q d a imm s
  | .lis c q d imm => Sys2Proof.Machine.execLis c q d imm s
  | .lih c q d imm => Sys2Proof.Machine.execLih c q d imm s
  | .shli c q d a imm => Sys2Proof.Machine.execShli c q d a imm s
  | .shri c q d a imm => Sys2Proof.Machine.execShri c q d a imm s
  | .cmpeq c q pd a b => Sys2Proof.Machine.execCmpeq c q pd a b s
  | .cmplt c q pd a b => Sys2Proof.Machine.execCmplt c q pd a b s
  | .cmpltu c q pd a b => Sys2Proof.Machine.execCmpltu c q pd a b s
  | .pand c q pd pa pb => Sys2Proof.Machine.execPand c q pd pa pb s
  | .por c q pd pa pb => Sys2Proof.Machine.execPor c q pd pa pb s
  | .pxor c q pd pa pb => Sys2Proof.Machine.execPxor c q pd pa pb s
  | .ld c q d a imm => Sys2Proof.Machine.execLd c q d a imm s
  | .st c q d a imm => Sys2Proof.Machine.execSt c q d a imm s
  | .mfs c q d index => Sys2Proof.Machine.execMfs c q d index s
  | .movx c q d a => Sys2Proof.Machine.execMovx c q d a s
  | .mNop c m => Sys2Proof.Machine.execMNop c m s
  | .mode c m ifmt wfmt ofmt rnd split drain mfsh mfop => Sys2Proof.Machine.execMode c m ifmt wfmt ofmt rnd split drain mfsh mfop s
  | .seta c m ar sreg => Sys2Proof.Machine.execSeta c m ar sreg s
  | .setai c m ar offset => Sys2Proof.Machine.execSetai c m ar offset s
  | .setcnt c m sreg => Sys2Proof.Machine.execSetcnt c m sreg s
  | .mLd c m wgt => Sys2Proof.Machine.execMLd c m wgt s
  | .stream c m sw ld acc ckr src dst wgt count => Sys2Proof.Machine.execStream c m sw ld acc ckr src dst wgt count s
  | .bist pg => Sys2Proof.Machine.execBist pg s
  | .bistDone pg rows cols => Sys2Proof.Machine.execBistDone pg rows cols s
  | .vNop c v1 => Sys2Proof.Machine.execVNop c v1 s
  | .vadd c f => Sys2Proof.Machine.execVadd c f s
  | .vsub c f => Sys2Proof.Machine.execVsub c f s
  | .vmul c f => Sys2Proof.Machine.execVmul c f s
  | .vfma c f => Sys2Proof.Machine.execVfma c f s
  | .vfms c f => Sys2Proof.Machine.execVfms c f s
  | .vfnma c f => Sys2Proof.Machine.execVfnma c f s
  | .vmin c f => Sys2Proof.Machine.execVmin c f s
  | .vmax c f => Sys2Proof.Machine.execVmax c f s
  | .vabs c f => Sys2Proof.Machine.execVabs c f s
  | .vneg c f => Sys2Proof.Machine.execVneg c f s
  | .vrint c f => Sys2Proof.Machine.execVrint c f s
  | .vcmp c f => Sys2Proof.Machine.execVcmp c f s
  | .vsel c f => Sys2Proof.Machine.execVsel c f s
  | .vmov c f => Sys2Proof.Machine.execVmov c f s
  | .vand c f => Sys2Proof.Machine.execVand c f s
  | .vor c f => Sys2Proof.Machine.execVor c f s
  | .vxor c f => Sys2Proof.Machine.execVxor c f s
  | .vshl c f => Sys2Proof.Machine.execVshl c f s
  | .vshr c f => Sys2Proof.Machine.execVshr c f s
  | .vsra c f => Sys2Proof.Machine.execVsra c f s
  | .vcvt c f => Sys2Proof.Machine.execVcvt c f s
  | .vunpk c f => Sys2Proof.Machine.execVunpk c f s
  | .mand c f => Sys2Proof.Machine.execMand c f s
  | .mor c f => Sys2Proof.Machine.execMor c f s
  | .mxor c f => Sys2Proof.Machine.execMxor c f s
  | .mandn c f => Sys2Proof.Machine.execMandn c f s
  | .vlis c d imm t => Sys2Proof.Machine.execVlis c d imm t s
  | .vld c f => Sys2Proof.Machine.execVld c f s
  | .vst c f => Sys2Proof.Machine.execVst c f s
  | .vseta c ar sreg => Sys2Proof.Machine.execVseta c ar sreg s
  | .vsetai c ar offset => Sys2Proof.Machine.execVsetai c ar offset s
  | .vbcs c d sreg t => Sys2Proof.Machine.execVbcs c d sreg t s
  | .vred c f => Sys2Proof.Machine.execVred c f s
  | .vcmpr c f => Sys2Proof.Machine.execVcmpr c f s
  | .vexpd c f => Sys2Proof.Machine.execVexpd c f s
  | .mcnt c f => Sys2Proof.Machine.execMcnt c f s
  | .vflags c f => Sys2Proof.Machine.execVflags c f s
  | .exp2 c f => Sys2Proof.Machine.execExp2 c f s
  | .log2 c f => Sys2Proof.Machine.execLog2 c f s
  | .rcp c f => Sys2Proof.Machine.execRcp c f s
  | .rsqrt c f => Sys2Proof.Machine.execRsqrt c f s
  | .tanh c f => Sys2Proof.Machine.execTanh c f s
  | .smxa c f => Sys2Proof.Machine.execSmxa c f s
  | .smxn c f => Sys2Proof.Machine.execSmxn c f s
  | .xNop c x => Sys2Proof.Machine.execXNop c x s
  | .xseta c x ar sreg => Sys2Proof.Machine.execXseta c x ar sreg s
  | .xsetai c x ar offset => Sys2Proof.Machine.execXsetai c x ar offset s
  | .xq c x ar post => Sys2Proof.Machine.execXq c x ar post s
  | .xqn c x ar post nMinus1 => Sys2Proof.Machine.execXqn c x ar post nMinus1 s
  | .gq c x ar post => Sys2Proof.Machine.execGq c x ar post s
  | .copy c e => Sys2Proof.Machine.execCopy c e s
  | .fill c e => Sys2Proof.Machine.execFill c e s
  | .script c e => Sys2Proof.Machine.execScript c e s
  | .mcast c e => Sys2Proof.Machine.execMcast c e s
  | .reduce c e => Sys2Proof.Machine.execReduce c e s
  | .leaven c e => Sys2Proof.Machine.execLeaven c e s
  | .moveComplete c m => Sys2Proof.Machine.execMoveComplete c m s
  | .gatherDescriptor c => Sys2Proof.Machine.execGatherDescriptor c s
  | .gatherRow c thread => Sys2Proof.Machine.execGatherRow c thread s
  | .bagComplete c thread => Sys2Proof.Machine.execBagComplete c thread s
  | .corMigrate c v => Sys2Proof.Machine.execCorMigrate c v s
  | .migrateDone c unreadable => Sys2Proof.Machine.execMigrateDone c unreadable s
  | .cNop c => Sys2Proof.Machine.execCNop c s
  | .arr c a => Sys2Proof.Machine.execArr c a s
  | .waitb c bar => Sys2Proof.Machine.execWaitb c bar s
  | .arwt c a => Sys2Proof.Machine.execArwt c a s
  | .testb c pd bar => Sys2Proof.Machine.execTestb c pd bar s
  | .raise c sig => Sys2Proof.Machine.execRaise c sig s
  | .spanArrive gen dbar sbar sdie rest => Sys2Proof.Machine.execSpanArrive gen dbar sbar sdie rest s
  | .spanRelease gen dbar sbar sdie rest => Sys2Proof.Machine.execSpanRelease gen dbar sbar sdie rest s
  | .spanFault gen dbar sbar sdie cause rest => Sys2Proof.Machine.execSpanFault gen dbar sbar sdie cause rest s
  | .calForce k v => Sys2Proof.Machine.execCalForce k v s
  | .calXarrive k v => Sys2Proof.Machine.execCalXarrive k v s
  | .calClear k v => Sys2Proof.Machine.execCalClear k v s
  | .quietExpire b => Sys2Proof.Machine.execQuietExpire b s
  | .vigilDetect p => Sys2Proof.Machine.execVigilDetect p s
  | .rd f => Sys2Proof.Machine.execRd f s
  | .wr f => Sys2Proof.Machine.execWr f s
  | .rdata f => Sys2Proof.Machine.execRdata f s
  | .wack f => Sys2Proof.Machine.execWack f s
  | .mc f blocked => Sys2Proof.Machine.execMc f blocked s
  | .mcrep f => Sys2Proof.Machine.execMcrep f s
  | .mcHoldExpire txn target => Sys2Proof.Machine.execMcHoldExpire txn target s
  | .red f => Sys2Proof.Machine.execRed f s
  | .rack f => Sys2Proof.Machine.execRack f s
  | .netbTxnTimeout txn => Sys2Proof.Machine.execNetbTxnTimeout txn s
  | .netmMaskCommit v => Sys2Proof.Machine.execNetmMaskCommit v s
  | .inv f => Sys2Proof.Machine.execInv f s
  | .iack f => Sys2Proof.Machine.execIack f s
  | .cohn sdie => Sys2Proof.Machine.execCohn sdie s
  | .stackTimeout slice => Sys2Proof.Machine.execStackTimeout slice s
  | .tileStageTimeout slice tileAddr => Sys2Proof.Machine.execTileStageTimeout slice tileAddr s
  | .stackRdResponse slice badBytes => Sys2Proof.Machine.execStackRdResponse slice badBytes s
  | .keepRecord slice bitErrors failMask => Sys2Proof.Machine.execKeepRecord slice bitErrors failMask s
  | .verifyStatus slice ok => Sys2Proof.Machine.execVerifyStatus slice ok s
  | .statStatus slice v => Sys2Proof.Machine.execStatStatus slice v s
  | .refNotice slice => Sys2Proof.Machine.execRefNotice slice s
  | .portDown slice => Sys2Proof.Machine.execPortDown slice s
  | .portUp slice => Sys2Proof.Machine.execPortUp slice s
  | .temp slice t => Sys2Proof.Machine.execTemp slice t s
  | .refresh slice => Sys2Proof.Machine.execRefresh slice s
  | .refWatch slice => Sys2Proof.Machine.execRefWatch slice s
  | .peerArm slice => Sys2Proof.Machine.execPeerArm slice s
  | .managerWait slice notices => Sys2Proof.Machine.execManagerWait slice notices s
  | .claim slice pos => Sys2Proof.Machine.execClaim slice pos s
  | .release slice pos => Sys2Proof.Machine.execRelease slice pos s
  | .remapBegin r => Sys2Proof.Machine.execRemapBegin r s
  | .remapAck r bad => Sys2Proof.Machine.execRemapAck r bad s
  | .remapDone r => Sys2Proof.Machine.execRemapDone r s
  | .scrubFix slice chanAddr => Sys2Proof.Machine.execScrubFix slice chanAddr s
  | .rowReport slice chanAddr uncorr => Sys2Proof.Machine.execRowReport slice chanAddr uncorr s
  | .trrReq r => Sys2Proof.Machine.execTrrReq r s
  | .keepReq slice write blk rec => Sys2Proof.Machine.execKeepReq slice write blk rec s
  | .keepData slice blk rec => Sys2Proof.Machine.execKeepData slice blk rec s
  | .patrolScrub slice badBytes => Sys2Proof.Machine.execPatrolScrub slice badBytes s
  | .keepSave slice => Sys2Proof.Machine.execKeepSave slice s
  | .keepLoad slice => Sys2Proof.Machine.execKeepLoad slice s
  | .keepTransferDone slice => Sys2Proof.Machine.execKeepTransferDone slice s
  | .ageUpdate slice meanTemp => Sys2Proof.Machine.execAgeUpdate slice meanTemp s
  | .lvn f origins => Sys2Proof.Machine.execLvn f origins s
  | .lvnQueueStage slice => Sys2Proof.Machine.execLvnQueueStage slice s
  | .lvnCommit sdie ptn seq => Sys2Proof.Machine.execLvnCommit sdie ptn seq s
  | .lvnDiscard sdie ptn seq => Sys2Proof.Machine.execLvnDiscard sdie ptn seq s
  | .batchApply slice => Sys2Proof.Machine.execBatchApply slice s
  | .ringEnable ring => Sys2Proof.Machine.execRingEnable ring s
  | .ringDisable ring => Sys2Proof.Machine.execRingDisable ring s
  | .dblProd ring v => Sys2Proof.Machine.execDblProd ring v s
  | .dblCons ring v => Sys2Proof.Machine.execDblCons ring v s
  | .msgSend ring => Sys2Proof.Machine.execMsgSend ring s
  | .ring ring sdie index entry => Sys2Proof.Machine.execRing ring sdie index entry s
  | .msgAck ring index => Sys2Proof.Machine.execMsgAck ring index s
  | .msgCredit ring n reenable => Sys2Proof.Machine.execMsgCredit ring n reenable s
  | .idle port f => Sys2Proof.Machine.execIdle port f s
  | .data port f => Sys2Proof.Machine.execData port f s
  | .ctrl port head payload tail corr => Sys2Proof.Machine.execCtrl port head payload tail corr s
  | .id port f => Sys2Proof.Machine.execId port f s
  | .hovr port f => Sys2Proof.Machine.execHovr port f s
  | .ackTimeout port => Sys2Proof.Machine.execAckTimeout port s
  | .swapreq port position => Sys2Proof.Machine.execSwapreq port position s
  | .swap port arg1 seq => Sys2Proof.Machine.execSwap port arg1 seq s
  | .halfreq port half => Sys2Proof.Machine.execHalfreq port half s
  | .half port half seq => Sys2Proof.Machine.execHalf port half seq s
  | .ctrlRetire port index expected => Sys2Proof.Machine.execCtrlRetire port index expected s
  | .offline port index => Sys2Proof.Machine.execOffline port index s
  | .online port index => Sys2Proof.Machine.execOnline port index s
  | .remapResume group => Sys2Proof.Machine.execRemapResume group s
  | .laneWindow port => Sys2Proof.Machine.execLaneWindow port s
  | .laneLockLoss port lane => Sys2Proof.Machine.execLaneLockLoss port lane s
  | .trainDone port rxFailed reversed wired farVersions => Sys2Proof.Machine.execTrainDone port rxFailed reversed wired farVersions s
  | .trainRetry port => Sys2Proof.Machine.execTrainRetry port s
  | .trainLimit port => Sys2Proof.Machine.execTrainLimit port s
  | .idSend port txTime => Sys2Proof.Machine.execIdSend port txTime s
  | .retrain port v => Sys2Proof.Machine.execRetrain port v s
  | .linkDown port => Sys2Proof.Machine.execLinkDown port s
  | .drainTimeout group => Sys2Proof.Machine.execDrainTimeout group s
  | .txnTimeout txn => Sys2Proof.Machine.execTxnTimeout txn s
  | .messageForward group mtype ddie sdie hops cls body => Sys2Proof.Machine.execMessageForward group mtype ddie sdie hops cls body s
  | .flit group f => Sys2Proof.Machine.execFlit group f s
  | .cflit group f => Sys2Proof.Machine.execCflit group f s
  | .assign die base count pos => Sys2Proof.Machine.execAssign die base count pos s
  | .dieDown die => Sys2Proof.Machine.execDieDown die s
  | .dieUp die => Sys2Proof.Machine.execDieUp die s
  | .boot timeoutMs => Sys2Proof.Machine.execBoot timeoutMs s
  | .repairRecordRead copyB readable bytes => Sys2Proof.Machine.execRepairRecordRead copyB readable bytes s
  | .recordTimeout => Sys2Proof.Machine.execRecordTimeout s
  | .almSubst v => Sys2Proof.Machine.execAlmSubst v s
  | .substDone logical pass => Sys2Proof.Machine.execSubstDone logical pass s
  | .recClear => Sys2Proof.Machine.execRecClear s
  | .almFwCmd v => Sys2Proof.Machine.execAlmFwCmd v s
  | .manifestCheck => Sys2Proof.Machine.execManifestCheck s
  | .pushDone entry => Sys2Proof.Machine.execPushDone entry s
  | .pushWaitTimeout => Sys2Proof.Machine.execPushWaitTimeout s
  | .hash row => Sys2Proof.Machine.execHash row s
  | .plan body => Sys2Proof.Machine.execPlan body s
  | .powerSample rails powerW16 => Sys2Proof.Machine.execPowerSample rails powerW16 s
  | .governorInterval meanW16 => Sys2Proof.Machine.execGovernorInterval meanW16 s
  | .thermalSample temps => Sys2Proof.Machine.execThermalSample temps s
  | .droop south => Sys2Proof.Machine.execDroop south s
  | .droopEnd south => Sys2Proof.Machine.execDroopEnd south s
  | .slewDone south => Sys2Proof.Machine.execSlewDone south s
  | .heldChangeApply => Sys2Proof.Machine.execHeldChangeApply s
  | .refclkLoss => Sys2Proof.Machine.execRefclkLoss s
  | .telemPeriod queueRoom => Sys2Proof.Machine.execTelemPeriod queueRoom s
  | .alarmSlotFree => Sys2Proof.Machine.execAlarmSlotFree s
  | .incidentClose => Sys2Proof.Machine.execIncidentClose s
  | .traceTailWrite v => Sys2Proof.Machine.execTraceTailWrite v s
  | .annRelease => Sys2Proof.Machine.execAnnRelease s
  | .annDump => Sys2Proof.Machine.execAnnDump s
  | .annClear => Sys2Proof.Machine.execAnnClear s
  | .traceRestart => Sys2Proof.Machine.execTraceRestart s
  | .attest => Sys2Proof.Machine.execAttest s
  | .attestDone => Sys2Proof.Machine.execAttestDone s
  | .testReset nbits => Sys2Proof.Machine.execTestReset nbits s
  | .testIr nbits tdi => Sys2Proof.Machine.execTestIr nbits tdi s
  | .testDr nbits tdi => Sys2Proof.Machine.execTestDr nbits tdi s
  | .testIdle nbits => Sys2Proof.Machine.execTestIdle nbits s
  | .extest => Sys2Proof.Machine.execExtest s
  | .samplePreload => Sys2Proof.Machine.execSamplePreload s
  | .idcode => Sys2Proof.Machine.execIdcode s
  | .ijtag => Sys2Proof.Machine.execIjtag s
  | .bypass => Sys2Proof.Machine.execBypass s
  | .instrumentAbort k => Sys2Proof.Machine.execInstrumentAbort k s
  | .take => Sys2Proof.Machine.execTake s
  | .silver => Sys2Proof.Machine.execSilver s
  | .silverDone => Sys2Proof.Machine.execSilverDone s
  | .foster => Sys2Proof.Machine.execFoster s
  | .fosterDone => Sys2Proof.Machine.execFosterDone s
  | .hello epoch ptns role mode => Sys2Proof.Machine.execHello epoch ptns role mode s
  | .helloTimer => Sys2Proof.Machine.execHelloTimer s
  | .beat t => Sys2Proof.Machine.execBeat t s
  | .beatTimer => Sys2Proof.Machine.execBeatTimer s
  | .peerLost => Sys2Proof.Machine.execPeerLost s
  | .snap p q whr bytes => Sys2Proof.Machine.execSnap p q whr bytes s
  | .plane p q whr bytes => Sys2Proof.Machine.execPlane p q whr bytes s
  | .carry p q whr bytes => Sys2Proof.Machine.execCarry p q whr bytes s
  | .block p q whr bytes tile glaze => Sys2Proof.Machine.execBlock p q whr bytes tile glaze s
  | .twinRing p q whr prod cons => Sys2Proof.Machine.execTwinRing p q whr prod cons s
  | .done p q count => Sys2Proof.Machine.execDone p q count s
  | .shipmentDone p => Sys2Proof.Machine.execShipmentDone p s
  | .ack p q code => Sys2Proof.Machine.execAck p q code s
  | .digest p q n d => Sys2Proof.Machine.execDigest p q n d s
  | .digestTimeout p => Sys2Proof.Machine.execDigestTimeout p s
  | .silverMessage sdie whr bytes glazes => Sys2Proof.Machine.execSilverMessage sdie whr bytes glazes s
  | .silvered bytesCopied => Sys2Proof.Machine.execSilvered bytesCopied s
  | .tck tms tdi => Sys2Proof.Machine.execTck tms tdi s
  | .trstN => Sys2Proof.Machine.execTrstN s
  | .failedCrcFrame port first rest => Sys2Proof.Machine.execFailedCrcFrame port first rest s
  | .alarm sdie record => Sys2Proof.Machine.execAlarm sdie record s
  | .instrumentDone k result => Sys2Proof.Machine.execInstrumentDone k result s

end Sys2Proof.Machine
end

