-- ==== Sys2Proof/WellFormed.lean ====
section
/-! DEFINITION. Well-formed commands: each unit that a command names by number is one that the chiplet has (R19, R26, R29, R45, R60, R468). -/

namespace Sys2Proof

open Sys2Proof.Machine

/-- The page of an array of a site that has arrays (R20, R65): columns 0–7, and the reserve in column 10. -/
def mxaPage (pg : Nat) : Bool :=
  match pageBlk pg with
  | some (.mxa, i) => decide (i / 2 % 11 < 8) || decide (i / 2 % 11 = 10)
  | _ => false

/-- A span message delivered by the row of TYPE `t`: that TYPE, or a reserved one (R479, R483). -/
def spanType (m : SpanRest) (t : Nat) : Bool := m.typ.toNat = t || m.typ = 0 || 3 < m.typ.toNat

/-- A frame with the KIND of its row (R636). -/
def kindIs (f : Frame) (kind : Nat) : Bool := decide ((f.bits.extractLsb' 60 4).toNat = kind)

/-- A span message or a frame is one that its row delivers: by TYPE, by KIND, and on ports 36–41 eight frames that fail together (R644). -/
def Instr.rowOk : Instr → Bool
  | .spanArrive _ _ _ _ m => spanType m 1
  | .spanRelease _ _ _ _ m => spanType m 2
  | .spanFault _ _ _ _ _ m => spanType m 3
  | .idle _ f => kindIs f 0
  | .data _ f => kindIs f 1
  | .ctrl _ h _ _ _ => decide ((h.extractLsb' 60 4).toNat = 2)
  | .id _ f => kindIs f.frame 3
  | .hovr _ f => kindIs f 4
  | .failedCrcFrame n _ fs => fs.isEmpty || (decide (36 ≤ n ∧ n ≤ 41) && decide (fs.length = 7))
  | _ => true

/-- Every unit that the command names exists. -/
def Instr.unitsExist : Instr → Bool
  | .resetRelease _ _ | .resetAssert _ _ | .registerWrite _ _ | .rcRead _ | .wideReadCapture _ | .wideWriteCommit _ _ | .reg _ _ _ _ _ _ _
  | .time _ | .holdover | .timeLost | .packageTick _ | .rd _
  | .wr _ | .rdata _ | .wack _ | .mc _ _ | .mcrep _ | .red _ | .rack _ | .netbTxnTimeout _ | .netmMaskCommit _ | .inv _ | .iack _ | .cohn _
  | .lvn _ _ | .lvnCommit _ _ _ | .lvnDiscard _ _ _ | .ring _ _ _ _ | .msgAck _ _ | .msgCredit _ _ _ | .txnTimeout _ | .assign _ _ _ _
  | .dieDown _ | .dieUp _ | .boot _ | .repairRecordRead _ _ _ | .recordTimeout | .almSubst _ | .substDone _ _ | .recClear | .almFwCmd _
  | .manifestCheck | .pushDone _ | .pushWaitTimeout | .plan _ | .powerSample _ _ | .governorInterval _ | .thermalSample _ | .droop _
  | .droopEnd _ | .slewDone _ | .heldChangeApply | .refclkLoss | .telemPeriod _ | .alarmSlotFree | .incidentClose | .traceTailWrite _
  | .annRelease | .annDump | .annClear | .traceRestart | .attest | .attestDone | .testReset _ | .testIr _ _ | .testDr _ _ | .testIdle _
  | .extest | .samplePreload | .idcode | .ijtag | .bypass | .take | .silver | .silverDone | .foster | .fosterDone | .hello _ _ _ _
  | .helloTimer | .beat _ | .beatTimer | .peerLost | .snap _ _ _ _ | .plane _ _ _ _ | .carry _ _ _ _ | .block _ _ _ _ _ _
  | .twinRing _ _ _ _ _ | .done _ _ _ | .ack _ _ _ | .digest _ _ _ _ | .silverMessage _ _ _ _ | .silvered _ | .tck _ _ | .trstN
  | .alarm _ _ | .spanArrive _ _ _ _ _ | .spanRelease _ _ _ _ _ | .spanFault _ _ _ _ _ _ => true
  | .start n | .stop n | .abort n | .clear n | .retire n | .startingDone n | .stoppingDone n | .cmdTimeout n | .selftestDone n _ _ _ => (pageBlk n).isSome
  | .partitionTick n _ | .solEndPoint n _ | .solCommit n _ | .solOverrun n | .partitionFaulted n | .replay n | .replayRestoreDone n
  | .dump n | .load n | .syllableIssue ⟨n, _⟩ | .freezeLower n | .vigilDetect n | .shipmentDone n | .digestTimeout n => decide (n < nPtns)
  | .scriptLoadDone n | .sNop n _ | .solEnd n | .solEndComplete n | .br n _ _ _ | .loopi n _ _ | .loopr n _ _ | .guard n _ _ _
  | .wait n _ _ | .waitr n _ _ | .waitl n _ _ _ _ | .waitlTimeout n | .tests n _ _ _ | .add n _ _ _ _ | .sub n _ _ _ _ | .and n _ _ _ _
  | .or n _ _ _ _ | .xor n _ _ _ _ | .shl n _ _ _ _ | .shr n _ _ _ _ | .sra n _ _ _ _ | .mul n _ _ _ _ | .min n _ _ _ _ | .max n _ _ _ _
  | .minu n _ _ _ _ | .maxu n _ _ _ _ | .addi n _ _ _ _ | .lis n _ _ _ | .lih n _ _ _ | .shli n _ _ _ _ | .shri n _ _ _ _
  | .cmpeq n _ _ _ _ | .cmplt n _ _ _ _ | .cmpltu n _ _ _ _ | .pand n _ _ _ _ | .por n _ _ _ _ | .pxor n _ _ _ _ | .ld n _ _ _ _
  | .st n _ _ _ _ | .mfs n _ _ _ | .movx n _ _ _ | .mNop n _ | .mode n _ _ _ _ _ _ _ _ _ | .seta n _ _ _ | .setai n _ _ _ | .setcnt n _ _
  | .mLd n _ _ | .stream n _ _ _ _ _ _ _ _ _ | .vNop n _ | .vadd n _ | .vsub n _ | .vmul n _ | .vfma n _ | .vfms n _ | .vfnma n _
  | .vmin n _ | .vmax n _ | .vabs n _ | .vneg n _ | .vrint n _ | .vcmp n _ | .vsel n _ | .vmov n _ | .vand n _ | .vor n _ | .vxor n _
  | .vshl n _ | .vshr n _ | .vsra n _ | .vcvt n _ | .vunpk n _ | .mand n _ | .mor n _ | .mxor n _ | .mandn n _ | .vlis n _ _ _ | .vld n _
  | .vst n _ | .vseta n _ _ | .vsetai n _ _ | .vbcs n _ _ _ | .vred n _ | .vcmpr n _ | .vexpd n _ | .mcnt n _ | .vflags n _ | .exp2 n _
  | .log2 n _ | .rcp n _ | .rsqrt n _ | .tanh n _ | .smxa n _ | .smxn n _ | .xNop n _ | .xseta n _ _ _ | .xsetai n _ _ _ | .xq n _ _ _
  | .xqn n _ _ _ _ | .gq n _ _ _ | .copy n _ | .fill n _ | .script n _ | .mcast n _ | .reduce n _ | .leaven n _ | .moveComplete n _
  | .gatherDescriptor n | .gatherRow n _ | .bagComplete n _ | .corMigrate n _ | .migrateDone n _ | .cNop n | .arr n _ | .waitb n _
  | .arwt n _ | .testb n _ _ | .raise n _ => decide (n < nSites)
  | .bist n | .bistDone n _ _ => mxaPage n
  | .calForce n _ | .calXarrive n _ | .calClear n _ => decide (n < 16)
  | .quietExpire n => decide (n < 256)
  | .mcHoldExpire _ n => decide (n < 120)
  | .stackTimeout n | .tileStageTimeout n _ | .stackRdResponse n _ | .keepRecord n _ _ | .verifyStatus n _ | .statStatus n _ | .refNotice n
  | .portDown n | .portUp n | .temp n _ | .refresh n | .refWatch n | .peerArm n | .managerWait n _ | .claim n _ | .release n _
  | .scrubFix n _ | .rowReport n _ _ | .keepReq n _ _ _ | .keepData n _ _ | .patrolScrub n _ | .keepSave n | .keepLoad n
  | .keepTransferDone n | .ageUpdate n _ | .lvnQueueStage n | .batchApply n => decide (n < nSlices)
  | .remapBegin r | .remapAck r _ | .remapDone r | .trrReq r => decide (r.slice < nSlices)
  | .ringEnable n | .ringDisable n | .dblProd n _ | .dblCons n _ | .msgSend n => decide (n < 65536)
  | .idle n _ | .data n _ | .ctrl n _ _ _ _ | .id n _ | .hovr n _ | .failedCrcFrame n _ _ | .ackTimeout n | .swapreq n _ | .swap n _ _ | .halfreq n _ | .half n _ _
  | .ctrlRetire n _ _ | .offline n _ | .online n _ | .laneWindow n | .laneLockLoss n _ | .trainDone n _ _ _ _ | .trainRetry n
  | .trainLimit n | .idSend n _ | .retrain n _ | .linkDown n => decide (n < nPorts)
  | .remapResume n | .drainTimeout n | .messageForward n _ _ _ _ _ _ | .flit n _ | .cflit n _ => decide (n < nGroups)
  | .hash n => decide (n < 12)
  | .instrumentAbort n | .instrumentDone n _ => decide (n < 222)

/-- A well-formed command: its units exist, and what it carries is of its row. -/
def Instr.wf (i : Instr) : Bool := i.unitsExist && i.rowOk

end Sys2Proof
end

