-- ==== Sys2Proof/Safety.lean ====
section
/-! DEFINITION. What the statements mean by a sound state: the control registers and the stacks' memory in their canonical form, so
that equal contents are equal data, and what never changes while a chiplet runs. -/

namespace Sys2Proof.Machine

/-- The canonical form of a memory held as bytes by address: addresses strictly rising, no entry that reads as an unlisted one. -/
def Memory.wf (m : Tab Byte) : Bool := Tab.wf 0 m

/-- The canonical form of the control registers: keys strictly rising, no entry that holds its reset value. -/
def regsWf (f : Fuses) (r : Tab Word) : Bool := Tab.sortedFrom 0 r && r.all (fun e => decide (e.2 ≠ resetKey f e.1))

/-- The canonical form of the units' tables: keys strictly rising, no entry that holds the initial value, and so for the
scratchpad of each core. -/
def unitsWf (s : State) : Bool :=
  Tab.wf Core.init s.cores && s.cores.all (fun e => Memory.wf e.2.spad) && Tab.wf Arr.init s.arrs && Tab.wf Vec.init s.vecs &&
    Tab.wf Ptn.init s.ptns && Tab.wf Bar.init s.bars && Tab.wf Slice.init s.slices && Tab.wf Port.init s.ports && Tab.wf ⟨[], false⟩ s.grps

/-- The sound states of a chiplet with fuses `F`: the fuses are those; registers, memory and the units' tables are canonical. -/
def Sound (F : Fuses) (s : State) : Prop :=
  s.fuses = F ∧ regsWf s.fuses s.regs = true ∧ Memory.wf s.dram = true ∧ unitsWf s = true

/-- A run of commands is safe where every one of them is well formed: none of them stops the machine. -/
def SafeQueue (s : State) : Prop := ∀ c ∈ s.pending, Instr.wf c = true

/-- The command answers the next state `t`. -/
def Gives (i : Instr) (s t : State) : Prop := exec i s = .next t

/-- The command answers a next state, of which `P` holds. -/
def Does (i : Instr) (s : State) (P : State → Prop) : Prop := ∃ t, exec i s = .next t ∧ P t

/-- Pipeline `q` of core `c` performs the operation of the slot now (R166, R168, R197): the core exists; pipeline 0 is not held behind an
operation of unit S; pipeline 1 is that of a core that runs as S, and its slot is not squashed. -/
def Issues (s : State) (c : Nat) (q : Pipe) : Prop :=
  s.inReset = false ∧ c < nSites ∧
    match q with
    | .p0 => unitHolds (coreAt s c) 7 = false
    | .p1 => runsAs s c = some 2 ∧ squashed (coreAt s c) 4 = false

/-- The vector engine of core `c` performs the operation of a V slot now: the slot is not squashed and the VEC page runs. -/
def VIssues (s : State) (c : Nat) (slot : Bool) : Prop :=
  s.inReset = false ∧ c < nSites ∧ squashed (coreAt s c) (vUnit slot) = false ∧ runs s (Pg.vec c) = true

end Sys2Proof.Machine
end

