-- ==== Sys2Proof/Certificates/Slice0/Obligations.lean ====
section
/-! DEFINITION. The statements for the provers. `Gives i s t`: the command answers the next state `t`; `Does i s P`: it answers a next state of
which `P` holds. -/

open Sys2Proof Sys2Proof.Machine

/-- A step runs the command at the front of the queue. Rests on Scope of the block: the queue of waiting commands. -/
def Obligations.StepRunsTheFrontCommand : Prop :=
  ∀ (i : Instr) (rest : List Instr) (s : State), step { s with pending := i :: rest } = exec i { s with pending := rest }

/-- With nothing waiting a step is 1 ns of REFCLK (the model's choice). Rests on 03_sol_frame.md R109; notes/assumptions: what a step does on an
empty queue. -/
def Obligations.EmptyQueueMovesPackageTimeOn : Prop :=
  ∀ (s : State), s.pending = [] →
    step s = .next (tickNs s) ∧ (tickNs s).pending = [] ∧ (tickNs s).dram = s.dram ∧ (tickNs s).cores = s.cores

/-- A command whose units exist always answers a next state, a well-formed one with it; one that names a missing unit stops by name. Rests on
00_scope.md; WellFormed.lean: the units of R19, R26, R29, R45, R60, R468. -/
def Obligations.CommandsStopOnlyAtMissingUnits : Prop :=
  ∀ (i : Instr) (s : State), (Instr.unitsExist i = true → ∃ t, exec i s = .next t) ∧ (Instr.unitsExist i = false → exec i s = .fault .noSuchUnit) ∧
    (Instr.wf i = true → Instr.unitsExist i = true)

/-- ADD to MAXU write the result of R189 with latency 1 and change nothing else. Rests on R189; R192; R193; R210. -/
def Obligations.ScalarArithmeticWritesItsResult : Prop :=
  ∀ (s : State) (c : Nat) (q : Pipe) (d a b : BitVec 8), Issues s c q →
    let x := coreAt s c
    let va := rdReg x (rdOf q) (fileOf q) a.toNat x.steps
    let vb := rdReg x (rdOf q) (fileOf q) b.toNat x.steps
    let res : DWord → State := fun v => setCore c (wrReg x q (fileOf q) d.toNat x.steps 1 v) s
    Gives (.add c q d a b) s (res (va + vb)) ∧ Gives (.sub c q d a b) s (res (va - vb)) ∧
    Gives (.and c q d a b) s (res (va &&& vb)) ∧ Gives (.or c q d a b) s (res (va ||| vb)) ∧
    Gives (.xor c q d a b) s (res (va ^^^ vb)) ∧ Gives (.shl c q d a b) s (res (va <<< (vb.toNat % 64))) ∧
    Gives (.shr c q d a b) s (res (va >>> (vb.toNat % 64))) ∧ Gives (.sra c q d a b) s (res (va.sshiftRight (vb.toNat % 64))) ∧
    Gives (.mul c q d a b) s (res (va * vb)) ∧
    Gives (.min c q d a b) s (res (if va.toInt ≤ vb.toInt then va else vb)) ∧
    Gives (.max c q d a b) s (res (if vb.toInt ≤ va.toInt then va else vb)) ∧
    Gives (.minu c q d a b) s (res (if va.toNat ≤ vb.toNat then va else vb)) ∧
    Gives (.maxu c q d a b) s (res (if vb.toNat ≤ va.toNat then va else vb))

/-- The S-slot immediates, moves, compares and predicate operations give the results of R189, R208 and R211. Rests on R189; R192; R208; R211;
R168; R193; R210. -/
def Obligations.ScalarImmediatesAndComparesWriteTheirResult : Prop :=
  (∀ (s : State) (c : Nat) (q : Pipe) (d a : BitVec 8), Issues s c q →
    let x := coreAt s c
    let va := rdReg x (rdOf q) (fileOf q) a.toNat x.steps
    let vd := rdReg x (rdOf q) (fileOf q) d.toNat x.steps
    let res : DWord → State := fun v => setCore c (wrReg x q (fileOf q) d.toNat x.steps 1 v) s
    Gives (.sNop c q) s s ∧
    (∀ imm : BitVec 8, Gives (.addi c q d a imm) s (res (va + imm.signExtend 64))) ∧
    (∀ imm : BitVec 16, Gives (.lis c q d imm) s (res (imm.signExtend 64))) ∧
    (∀ imm : BitVec 16, Gives (.lih c q d imm) s (res ((vd <<< 16) ||| imm.zeroExtend 64))) ∧
    (∀ imm : BitVec 6, Gives (.shli c q d a imm) s (res (va <<< imm.toNat))) ∧
    (∀ imm : BitVec 6, Gives (.shri c q d a imm) s (res (va >>> imm.toNat))) ∧
    (∀ (k : BitVec 8) (v : DWord), mfsValue s c x.steps k.toNat = some v → Gives (.mfs c q d k) s (res v)) ∧
    (∀ k : BitVec 8, 7 ≤ k.toNat → Gives (.mfs c q d k) s (coreFault c 1 s)) ∧
    (runsAs s c = some 2 → Gives (.movx c q d a) s (res (rdReg x (rdOf q) (1 - fileOf q) a.toNat x.steps))) ∧
    (runsAs s c ≠ some 2 → Gives (.movx c q d a) s (coreFault c 1 s))) ∧
  (∀ (s : State) (c : Nat) (q : Pipe) (pd pa pb : BitVec 4) (a b : BitVec 8), Issues s c q →
    let x := coreAt s c
    let va := rdReg x (rdOf q) (fileOf q) a.toNat x.steps
    let vb := rdReg x (rdOf q) (fileOf q) b.toNat x.steps
    let ka := decide (rdReg x (rdOf q) 2 pa.toNat x.steps ≠ 0)
    let kb := decide (rdReg x (rdOf q) 2 pb.toNat x.steps ≠ 0)
    let res : Bool → State := fun v => setCore c (wrReg x q 2 pd.toNat x.steps 1 (if v then 1 else 0)) s
    Gives (.cmpeq c q pd a b) s (res (decide (va = vb))) ∧ Gives (.cmplt c q pd a b) s (res (decide (va.toInt < vb.toInt))) ∧
    Gives (.cmpltu c q pd a b) s (res (decide (va.toNat < vb.toNat))) ∧
    Gives (.pand c q pd pa pb) s (res (ka && kb)) ∧ Gives (.por c q pd pa pb) s (res (ka || kb)) ∧
    Gives (.pxor c q pd pa pb) s (res (ka != kb)))

/-- LD reads and ST stores 64 bits at A + 8 × IMM8, each claims its bank, an LD of pipeline 1 waits behind a held pipeline 0, and a bad address
records SCRATCH. Rests on R191; R192; R195; R196; R221; R370; R373. -/
def Obligations.ScratchpadLoadsAndStores : Prop :=
  ∀ (s : State) (c : Nat) (q : Pipe) (d a imm : BitVec 8), Issues s c q →
    let x := coreAt s c
    let i := x.steps
    let ad := (rdReg x (rdOf q) (fileOf q) a.toNat i).toNat + 8 * imm.toNat
    let iss := match q with | .p0 => 2 * i + 1 | .p1 => 2 * i
    let w : PendStore := { src := 0, addr := ad, bytes := bytesOf 8 (rdReg x (rdOf q) (fileOf q) d.toNat i).toNat, iss := iss, visLd := i + 1, visV := i + 3, visO := i + 3 }
    let rank := match q with | .p0 => 10 | .p1 => 11
    let ready := q = .p0 ∨ unitHolds x 7 = false
    (¬ ready → Gives (.ld c q d a imm) s (holdQuiet c 4 i (.ld c q d a imm) s)) ∧
    (ad % 8 = 0 ∧ ad + 8 ≤ sizeOfSite s c →
      (ready → Gives (.ld c q d a imm) s
        (setCore c (claim rank 7 i ad 8 (wrReg x q (fileOf q) d.toNat i 4 (BitVec.ofNat 64 (numOf (spadBytes x 0 i ad 8))))) s)) ∧
      Gives (.st c q d a imm) s (setCore c (claim rank 7 i ad 8 { x with pendSt := x.pendSt ++ [w] }) s)) ∧
    (¬ (ad % 8 = 0 ∧ ad + 8 ≤ sizeOfSite s c) →
      (ready → Gives (.ld c q d a imm) s (coreFault c 4 s)) ∧ Gives (.st c q d a imm) s (coreFault c 4 s))

/-- WAIT, WAITR, WAITL and TESTS act on the signal as R204 to R207 say, and a WAITL whose limit runs out sets PD to 0. Rests on R204; R206;
R207; R217; R416. -/
def Obligations.SignalWaitsTestsAndLimits : Prop :=
  (∀ (s : State) (c : Nat) (sig : BitVec 5) (a : BitVec 8) (pd : BitVec 4), Issues s c .p0 →
    let x := coreAt s c
    let i := x.steps
    let n := (getR s (Pg.sig c) (R.SIG_COUNT0 + 4 * sig.toNat)).toNat
    let va := (rdReg x .other 0 a.toNat i).toNat % 2 ^ 32
    let left : Nat → State := fun k => setR (Pg.sig c) (R.SIG_COUNT0 + 4 * sig.toNat) (BitVec.ofNat 32 (n - k)) s
    let pdIs : Bool → State → State := fun v t => setCore c (wrReg (coreAt t c) .p0 2 pd.toNat i 1 (if v then 1 else 0)) t
    let held : Instr → State := fun op => holdOp c 7 i op s
    (∀ k : BitVec 16, (k.toNat ≤ n → Gives (.wait c sig k) s (left k.toNat)) ∧ (n < k.toNat → Gives (.wait c sig k) s (held (.wait c sig k)))) ∧
    (va ≤ n → Gives (.waitr c sig a) s (left va)) ∧ (n < va → Gives (.waitr c sig a) s (held (.waitr c sig a))) ∧
    (∀ k : BitVec 7, Gives (.tests c pd sig k) s (pdIs (decide (k.toNat ≤ n)) s)) ∧
    Gives (.waitl c pd sig 0 a) s (pdIs true s) ∧
    (∀ k : BitVec 7, k ≠ 0 →
      (k.toNat ≤ n → Gives (.waitl c pd sig k a) s (pdIs true (left k.toNat))) ∧
      (n < k.toNat → (rdReg x .pipe0 0 a.toNat i).toNat % 2 ^ 32 = 0 → Gives (.waitl c pd sig k a) s (pdIs false s)) ∧
      (n < k.toNat → (rdReg x .pipe0 0 a.toNat i).toNat % 2 ^ 32 ≠ 0 → Gives (.waitl c pd sig k a) s (held (.waitl c pd sig k a))))) ∧
  (∀ (s : State) (c i : Nat) (pd : BitVec 4) (sig : BitVec 5) (k : BitVec 7) (a : BitVec 8) (pre rest : List (Nat × Nat × Instr)),
    s.inReset = false → c < nSites →
    let w : Nat × Nat × Instr := (7, i, .waitl c pd sig k a)
    ((coreAt s c).holds = pre ++ w :: rest → (∀ h ∈ pre, h.1 = 7 → isWaitl h.2.2 = false) → w ∉ pre → w ∉ rest →
      Gives (.waitlTimeout c) s (setCore c { wrReg (coreAt s c) .p0 2 pd.toNat i 1 0 with holds := pre ++ (7, i, .sNop c .p0) :: rest } s)) ∧
    ((∀ h ∈ (coreAt s c).holds, h.1 = 7 → isWaitl h.2.2 = false) → Gives (.waitlTimeout c) s s))

/-- BR, LOOPI, LOOPR, GUARD and SOL_END act on the core's position, loops, squashed slots and end as R197 to R213 say. Rests on R197; R199;
R200; R201; R203; R213. -/
def Obligations.SequencerOperations : Prop :=
  ∀ (s : State) (c : Nat) (p : BitVec 4) (neg : Bool) (target stop k : BitVec 12) (a : BitVec 8) (slots : BitVec 7),
    s.inReset = false → c < nSites →
    let x := coreAt s c
    let taken := decide ((rdReg x .other 2 p.toNat x.steps ≠ 0)) != neg
    let na := (rdReg x .other 0 a.toNat x.steps).toNat % 2 ^ 32
    let opens : Nat → State := fun n => setCore c { x with loops := { start := (x.pos + 1) % 4096, stop := stop.toNat, count := n } :: x.loops, pos := (x.pos + 1) % 4096 } s
    let skips : State := setCore c { x with pos := (stop.toNat + 1) % 4096 } s
    let fits : Nat → Prop := fun n => x.pos < stop.toNat ∧ (∀ l ∈ x.loops.head?, stop.toNat ≤ l.stop) ∧ (n = 0 ∨ x.loops.length < 4)
    (taken = false → Gives (.guard c p neg slots) s (setCore c { x with squash := x.squash ||| slots } s)) ∧
    (taken = true → Gives (.guard c p neg slots) s s) ∧
    (x.branch = none →
      (taken = true → (∀ l ∈ x.loops, l.stop ≠ x.pos) → Gives (.br c p neg target) s (setCore c { x with branch := some (2, target.toNat) } s)) ∧
      (taken = true → (∃ l ∈ x.loops, l.stop = x.pos) → Gives (.br c p neg target) s (coreFault c 1 s)) ∧
      (taken = false → Gives (.br c p neg target) s s) ∧
      (fits k.toNat → k ≠ 0 → Gives (.loopi c stop k) s (opens k.toNat)) ∧ (fits 0 → Gives (.loopi c stop 0) s skips) ∧
      (¬ fits k.toNat → Gives (.loopi c stop k) s (coreFault c 2 s)) ∧
      (fits na → na ≠ 0 → Gives (.loopr c stop a) s (opens na)) ∧ (fits na → na = 0 → Gives (.loopr c stop a) s skips) ∧
      (¬ fits na → Gives (.loopr c stop a) s (coreFault c 2 s)) ∧
      (x.ended = false → (∀ l ∈ x.loops, l.stop ≠ x.pos) → (arrAt s c false).open_ = false → (arrAt s c true).open_ = false →
        Gives (.solEnd c) s (setCore c { x with ended := true, pos := (x.pos + 1) % 4096 } s))) ∧
    (x.ended = true → Gives (.solEnd c) s s) ∧
    (x.branch ≠ none → x.ended = false → Gives (.solEnd c) s (coreFault c 1 s)) ∧
    (x.branch ≠ none → Gives (.br c p neg target) s (coreFault c 1 s) ∧ Gives (.loopi c stop k) s (coreFault c 1 s) ∧ Gives (.loopr c stop a) s (coreFault c 1 s))

/-- Each reader sees the latest-issued write that is visible to it, else the previous value. The rule: R194. -/
def Obligations.LatestVisibleWriteIsRead : Prop :=
  ∀ (x : Core) (r : Rd) (file idx i : Nat), idx ≠ 0 →
    let seen : PendWrite → Prop := fun w => w ∈ x.pend ∧ w.file = file ∧ w.idx = idx ∧ w.vis r ≤ i
    ((∃ w, seen w) → ∃ w, seen w ∧ (∀ v, seen v → v.iss ≤ w.iss) ∧ rdReg x r file idx i = w.val) ∧
    ((¬ ∃ w, seen w) → rdReg x r file idx i = coreBase x file idx)

/-- A scalar result is read by its own pipeline after its latency, by everyone else after at least three, and by no one earlier. Rests on R183;
R184; R192; R193; R194; R210. -/
def Obligations.ResultsBecomeVisibleOnTime : Prop :=
  ∀ (x : Core) (q : Pipe) (r : Rd) (file idx i lat j : Nat) (v : DWord),
    (∀ w ∈ x.pend, w.file = file → w.idx = idx → w.iss ≤ 2 * i) →
    let y := wrReg x q file idx i lat v
    (idx = 0 → y = x ∧ rdReg x r file 0 j = (if file = 2 then 1 else 0)) ∧
    (idx ≠ 0 → rdReg y r file idx j = if i + (if r = rdOf q then lat else max lat 3) ≤ j then v else rdReg x r file idx j) ∧
    (∀ f k, (f, k) ≠ (file, idx) → rdReg y r f k j = rdReg x r f k j)

/-- SYLLABLE_ISSUE steps every core of the partition's freeze domain, a stopped issue stays stopped, and FREEZE_LOWER ends a freeze that no unit
keeps and does nothing while one keeps it. Rests on R213; R214; R215; R217; R218; R219; R458. -/
def Obligations.SyllableIssueAndFreeze : Prop :=
  ∀ (F : Fuses) (s : State) (p c : Nat) (bad : List Nat), Sound F s → s.inReset = false →
    let dom := (ptnAt s p).domain
    (p < nPtns → (ptnAt s p).phase = .sol → s.pwr.pllsOff = false →
      (dom.any (fun k => !(coreAt s k).parked) = true →
        ((ptnAt s p).skid = none → Gives (.syllableIssue ⟨p, bad⟩) s (foldS (issueCore bad) dom s)) ∧
        (∀ k, k ≠ 2 → (ptnAt s p).skid = some k → Gives (.syllableIssue ⟨p, bad⟩) s
          (let t := foldS (issueCore bad) dom s
           setPtn p { ptnAt t p with skid := (ptnAt t p).skid.map (fun _ => k + 1) } t))) ∧
      ((ptnAt s p).skid = some 2 → Gives (.syllableIssue ⟨p, bad⟩) s s) ∧
      ((ptnAt s p).skid ≠ none → (∀ k ∈ dom, (coreAt s k).holds = []) →
        Gives (.freezeLower p) s (trace 1 Pg.nets (foldS settleCore dom
          (unfreeze p (foldS (fun k t => setCore k { coreAt t k with denied := 0 } t) dom s)))))) ∧
    (p < nPtns → (ptnAt s p).phase ≠ .sol → Gives (.syllableIssue ⟨p, bad⟩) s s ∧ Gives (.freezeLower p) s s) ∧
    (p < nPtns → (ptnAt s p).skid = none → Gives (.freezeLower p) s s) ∧
    (p < nPtns → (∃ k ∈ dom, ∃ u ∈ [7, 4, 2, 1, 0], unitCan s k u = false) → Gives (.freezeLower p) s s) ∧
    ((coreAt s c).parked = true → issueCore bad c s = s) ∧
    ((coreAt s c).parked = false → (coreAt s c).ended = true → issueCore bad c s = stepCore c s) ∧
    (c < nSites → (coreAt s c).ended = true → (coreAt s c).parked = false → (coreAt s c).holds = [] →
      Gives (.solEndComplete c) s (drainCore c (setCore c { coreAt s c with parked := true } s)))

/-- The C slot's NOP, ARR, WAITB, ARWT, TESTB and RAISE act on barriers, predicates and signals; behind a held operation arrivals are still made
at issue and the rest is held. Rests on R200; R217; R459; R467; R470; R477; R496; R497; R498. -/
def Obligations.ControlSlotOperations : Prop :=
  ∀ (s : State) (c p n : Nat) (bar : BitVec 8) (bad : Bool) (pd : BitVec 4) (sig : BitVec 5),
    s.inReset = false → c < nSites → squashed (coreAt s c) 0 = false →
    let x := coreAt s c
    let b := bar.toNat
    let hold : Instr → State → State := fun op t => holdOp c 0 x.steps op t
    Gives (.cNop c) s s ∧
    (unitHolds x 0 = false → Gives (.raise c sig) s (raiseSig c sig.toNat 1 s)) ∧
    (unitHolds x 0 = true → Gives (.raise c sig) s (hold (.raise c sig) s) ∧ Gives (.waitb c bar) s (hold (.waitb c bar) s) ∧
      Gives (.testb c pd bar) s (hold (.testb c pd bar) s)) ∧
    (ptnOfSite s c = some p → logicalAt s c = some n →
      (barNamed s p b = true →
        Gives (.arr c ⟨bar, bad⟩) s (coreArrive p n b bad s) ∧
        (unitHolds x 0 = true → Gives (.arwt c ⟨bar, bad⟩) s (hold (.waitb c bar) (coreArrive p n b bad s))) ∧
        (unitHolds x 0 = false →
          (barPasses s n b = true → Gives (.waitb c bar) s s) ∧
          (barPasses s n b = false → Gives (.waitb c bar) s (hold (.waitb c bar) s)) ∧
          Gives (.arwt c ⟨bar, bad⟩) s (waitbAt c bar x.steps (coreArrive p n b bad s)) ∧
          Gives (.testb c pd bar) s (setCore c (wrOther x 2 pd.toNat x.steps 3 (if barPasses s n b then 1 else 0)) s))) ∧
      (barNamed s p b = false →
        Gives (.arr c ⟨bar, bad⟩) s (ptnFault p PC.barrier s) ∧ Gives (.arwt c ⟨bar, bad⟩) s (ptnFault p PC.barrier s) ∧
        (unitHolds x 0 = false → Gives (.waitb c bar) s (ptnFault p PC.barrier s) ∧ Gives (.testb c pd bar) s (ptnFault p PC.barrier s))))

/-- A raise beyond 0xFFFF_FFFF leaves the count at the top, sets the bit in SIG_SAT and records SIGOVF. The rule: R381. -/
def Obligations.ARaisePastTheTopSaturates : Prop :=
  ∀ (F : Fuses) (s : State) (c : Nat) (sig : BitVec 5), Sound F s → s.inReset = false → c < nSites →
    (coreAt s c).holds = [] → squashed (coreAt s c) 0 = false → bstate s (Pg.cor c) ≠ B.absent → bstate s (Pg.cor c) ≠ B.retired →
    getR s (Pg.sig c) (R.SIG_COUNT0 + 4 * sig.toNat) = 0xFFFFFFFF →
    Does (.raise c sig) s (fun t =>
      getR t (Pg.sig c) (R.SIG_COUNT0 + 4 * sig.toNat) = 0xFFFFFFFF ∧
      bit (getR t (Pg.sig c) R.SIG_SAT) sig.toNat = true ∧ bit (getR t (Pg.cor c) R.HDR_FAULT) 13 = true)

/-- An arrival counts toward g, carries to g + 1, or saturates; a barrier that is met and has no parent releases; an arrival whose message meets
a parity error is discarded. Rests on R459; R470; R471; R473; R474; R476; R477; R483; R485. -/
def Obligations.BarrierArrivalsCount : Prop :=
  ∀ (s : State) (p n b : Nat), barEn s b = true → barPtn s b = p →
    let s1 := wrapR Pg.nets R.NETS_MSGS 1 s
    let x := barAt s b
    let y : Bar := { x with n0 := x.n0 + 1, who0 := x.who0 ++ [n], open_ := x.open_ ++ [(n, x.gen)] }
    let met := barMet (setBar b y s1) b
    coreArrive p n b true s = raise (.bar b BC.parity none) (satR Pg.nets R.NETS_ERRORS 1 s) ∧
    (x.st = 0 → coreArrive p n b false s = ptnFault p PC.barrier s1) ∧
    (x.st = 2 ∨ x.st = 3 → coreArrive p n b false s = satR (barPage b) R.CAL_STALE 1 s1) ∧
    (x.st = 1 → (barMask s b).testBit n = false → coreArrive p n b false s = raise (.bar b BC.stray none) s1) ∧
    (x.st = 1 → (barMask s b).testBit n = true → n < 120 → barTarget s b = 0 →
      (n ∉ x.who0 → met = false → coreArrive p n b false s = setBar b y s1) ∧
      (n ∉ x.who0 → met = true → barMember s b 0 = none → x.metAt = none →
        coreArrive p n b false s = barCheck 2 b (barRelease b (setBar b { y with metAt := some s.time } (setBar b y s1)))) ∧
      (n ∈ x.who0 → n ∈ x.who1 → coreArrive p n b false s = barSaturate b s1) ∧
      (n ∈ x.who0 → n ∉ x.who1 → coreArrive p n b false s = barCount b n true s1))

/-- Span messages, the control writes of a barrier page and Vigil act on barriers as their rules say. Rests on R459; R479; R480; R481; R482;
R483; R488; R489; R491; R501; R503; R504. -/
def Obligations.SpanMessagesBarrierControlsAndVigil : Prop :=
  (∀ (s : State) (msg : BitVec 64), s.inReset = false →
    let typ := (msg.extractLsb' 60 4).toNat
    let gen := (msg.extractLsb' 52 8).toNat
    let b := (msg.extractLsb' 44 8).toNat
    let s1 := wrapR Pg.nets R.NETS_MSGS 1 s
    let x := barAt s b
    let from_ := memberOf s1 b ((msg.extractLsb' 24 12).toNat, (msg.extractLsb' 36 8).toNat)
    let stale := satR (barPage b) R.CAL_STALE 1 s1
    let each : Bool → State → Prop := fun bad t =>
      Gives (spanArriveRow msg bad) s t ∧ Gives (spanReleaseRow msg bad) s t ∧ Gives (spanFaultRow msg bad) s t
    (x.st = 1 →
      (typ = 1 →
        (∀ k, from_ = some (k + 1) → gen = x.gen → bit x.ch0 k = false → each false (barCheck 3 b (setBar b { x with ch0 := setBit x.ch0 k true } s1))) ∧
        (∀ k, from_ = some (k + 1) → gen ≠ x.gen → gen = nextGen x.gen → bit x.ch1 k = false →
          each false (setBar b { x with ch1 := setBit x.ch1 k true } s1)) ∧
        (from_ = none ∨ from_ = some 0 → each false (raise (.bar b BC.stray none) s1))) ∧
      (typ = 2 →
        (from_ = some 0 → gen = x.gen → each false (barCheck 3 b (barRelease b s1))) ∧
        (from_ = some 0 → gen ≠ x.gen → each false stale) ∧ (from_ ≠ some 0 → each false (raise (.bar b BC.stray none) s1))) ∧
      (typ = 3 → (∀ m, from_ = some m → each false (raise (.bar b BC.remote (some m)) s1)) ∧ (from_ = none → each false stale))) ∧
    (x.st ≠ 1 ∨ typ = 0 ∨ 3 < typ → each false stale) ∧
    each true (raise (.bar b BC.parity none) (satR Pg.nets R.NETS_ERRORS 1 s))) ∧
  (∀ (s : State) (k i p : Nat), s.inReset = false →
    let b := 16 * k + i
    let x := barAt s b
    (k < 16 → i < 16 →
      (x.st = 1 →
        Gives (.calForce k (BitVec.ofNat 32 (16 + i))) s (barCheck 3 b (barRelease b (setBar b { barAt s b with metAt := none }
          (annLog (barPage b) 0 (forceBody s b) (satR (barPage b) R.CAL_FORCED 1 s))))) ∧
        (∀ e, e < 12 → (getN s (barPage b) (barOff b R.CAL_XMASK)).testBit e = true →
          Gives (.calXarrive k (BitVec.ofNat 32 (256 + 16 * i + e))) s (barArriveOpen b (128 + e) s))) ∧
      (x.st = 2 → runs s (Pg.cal k) = true → bstate s (Pg.ptn (barPtn s b)) = B.stopped →
        Gives (.calClear k (BitVec.ofNat 32 (2 ^ i))) s (barRestore b x.gen s)) ∧
      (x.st = 3 → Gives (.quietExpire b) s (setBar b { x with st := 1 } s))) ∧
    (p < nPtns → vigilWatches s p = true →
      let s1 := if bit (getR s Pg.vgl R.VGL_LAST) 31 then s else setQ Pg.vgl R.VGL_LAST_TIME_LO s.time (firstR Pg.vgl R.VGL_LAST p s)
      let s2 := satR Pg.vgl R.VGL_ALARMS 1 (alarmFull Pg.vgl 0x0101 0 false (vigilRecord s p) s1)
      Gives (.vigilDetect p) s (if bit (getR s2 Pg.vgl R.VGL_CFG) 16 then ptnFault p PC.vigil (satR Pg.vgl R.VGL_ABORTS 1 s2) else s2)))

/-- MODE, SETA, SETAI, SETCNT and the M-slot NOP set the array registers, and the array self-test may run again. Rests on R168; R200; R240;
R243; R244; R245; R272; R277. -/
def Obligations.MatrixSlotOperationsAndSelfTest : Prop :=
  (∀ (s : State) (c : Nat) (m : Bool) (ifmt wfmt : BitVec 4) (ofmt : BitVec 3) (rnd split drain : Bool) (mfsh : BitVec 5) (mfop : BitVec 2)
    (ar : BitVec 3) (sreg : BitVec 8) (off : BitVec 22), s.inReset = false → c < nSites →
    let k := coreAt s c
    let x := arrAt s c m
    let v := (rdReg k .other 0 sreg.toNat k.steps).toNat
    let md := modeWord ifmt wfmt ofmt rnd split drain mfsh mfop
    let mode := Instr.mode c m ifmt wfmt ofmt rnd split drain mfsh mfop
    Gives (.mNop c m) s s ∧
    (squashed k (mUnit m) = false → runs s (mPg c m) = true →
      (modeOk md = true → Gives mode s (setArr c m { x with mode := md } s)) ∧
      (modeOk md = false → Gives mode s (mCause c m (2 ^ 12) s)) ∧
      (v < 2 ^ 22 → Gives (.seta c m ar sreg) s (setArr c m { x with a := Tab.store 0 x.a ar.toNat (BitVec.ofNat 22 v) } s)) ∧
      (2 ^ 22 ≤ v → Gives (.seta c m ar sreg) s (mCause c m (2 ^ 9) s)) ∧
      Gives (.setai c m ar off) s (setArr c m { x with a := Tab.store 0 x.a ar.toNat off } s) ∧
      (1 ≤ v → v ≤ 16777216 → Gives (.setcnt c m sreg) s (setArr c m { x with cnt := v } s)) ∧
      (v = 0 ∨ 16777216 < v → Gives (.setcnt c m sreg) s (mCause c m (2 ^ 11) s))) ∧
    (squashed k (mUnit m) = false → runs s (mPg c m) = false →
      let lost := ptnFaultOf (ptnOfSite s c) PC.core s
      Gives mode s lost ∧ Gives (.seta c m ar sreg) s lost ∧ Gives (.setai c m ar off) s lost ∧ Gives (.setcnt c m sreg) s lost) ∧
    (squashed k (mUnit m) = true →
      Gives mode s s ∧ Gives (.seta c m ar sreg) s s ∧ Gives (.setai c m ar off) s s ∧ Gives (.setcnt c m sreg) s s)) ∧
  (∀ (s : State) (pg : Nat) (rows : Word) (cols : BitVec 36), s.inReset = false → isMxaPage pg = true →
    (bstate s pg = B.stopped → pg ∉ s.bist →
      Gives (.bist pg) s { setF pg R.MXA_BIST_MISC 31 1 0 s with bist := s.bist ++ [pg] }) ∧
    (bstate s pg ≠ B.stopped → bstate s pg ≠ B.absent → Gives (.bist pg) s (ignoredRws pg R.MXA_ACTION s)) ∧
    (bstate s pg = B.absent → Gives (.bist pg) s s) ∧
    (pg ∉ s.bist → Gives (.bistDone pg rows cols) s s) ∧
    (pg ∈ s.bist →
      let t := bistRecord pg rows cols { s with bist := s.bist.filter (· ≠ pg) }
      (bistPass s pg rows cols = true → Gives (.bistDone pg rows cols) s t) ∧
      (bistPass s pg rows cols = false → Gives (.bistDone pg rows cols) s (fault pg 0 t))))

/-- An M-slot LD whose tile is in bounds begins to load the shadow plane, reads 128 bytes of it in each of 16 cycles, and the plane is valid
from cycle i + 21. Rests on R231; R237; R246; R248; R249; R250; R255. -/
def Obligations.WeightLoadsFillTheShadowPlane : Prop :=
  (∀ (s : State) (c : Nat) (m : Bool) (wgt : BitVec 3), s.inReset = false → c < nSites →
    squashed (coreAt s c) (mUnit m) = false → runs s (mPg c m) = true →
    let x := arrAt s c m
    let k := wgt.toNat
    let i := (coreAt s c).steps
    let a := arrTime x i
    let op := Instr.mLd c m wgt
    (tileOk s c x k = false → Gives op s (mCause c m (2 ^ 9) s)) ∧
    (tileOk s c x k = true →
      Gives op s (loadStart c m (!x.active) k i (arrHold c m (loadFrom x (!x.active) - a) i s)) ∧
      (loadFrom x (!x.active) ≤ a → Does op s (fun t =>
        let y := arrAt t c m
        let p := planeOf y (!x.active)
        t = { s with arrs := t.arrs } ∧ y.active = x.active ∧ y.mode = x.mode ∧ y.strs = x.strs ∧
        p.valid = false ∧ p.validAt = a + 21 ∧ planeOf y x.active = planeOf x x.active ∧
        (mSplit x.mode = false →
          y.loads = x.loads ++ [{ plane := !x.active, at_ := a, split := false, wfmt := mWfmt x.mode, bases := [(arA x k, arA x (k + 4))], got := [([], [])] }] ∧
          (fmtMx (mWfmt x.mode) = false → y.a = Tab.store 0 x.a k (BitVec.ofNat 22 (arA x k + 2048)))))))) ∧
  (∀ (s : State) (c a i base sc : Nat) (m : Bool) (j : LoadJob) (g q : List Byte),
    let x := arrAt s c m
    let p := planeOf x j.plane
    let full : Plane := { p with valid := true, split := false, wfmt := j.wfmt, wts := BitVec.ofNat 16384 (numOf g), scales := BitVec.ofNat 1024 (numOf q) }
    x.loads = [j] → j.split = false → fmtMx j.wfmt = false → (coreAt s c).badGlz = [] → j.bases = [(base, sc)] → j.got = [(g, q)] →
    (j.at_ < a → a ≤ j.at_ + 16 →
      arrAt (loadCycle c m a i s) c m =
        { x with loads := [{ j with got := [(g ++ spadBytes (coreAt s c) 2 i (base + 128 * (a - j.at_ - 1)) 128, q)] }] }) ∧
    (j.at_ + 21 ≤ a → loadCycle c m a i s = setArr c m (setPlane j.plane full { x with loads := [] }) s))

/-- A STREAM that records no cause and need not wait swaps the planes as told, enters the array and leaves the feeder where its rows end; one
with a cause is a NOP. Its rows are read as they are fed, and drained where they are written. Rests on R232; R236; R244; R246; R247; R251; R253;
R255; R263; R275. -/
def Obligations.StreamsAdvanceTheArray : Prop :=
  (∀ (s : State) (c : Nat) (m sw ld acc ckr : Bool) (src dst wgt : BitVec 3) (count : BitVec 12), s.inReset = false → c < nSites →
    squashed (coreAt s c) (mUnit m) = false → runs s (mPg c m) = true →
    let x := arrAt s c m
    let n := if count = 0 then x.cnt else count.toNat
    let a := arrTime x (coreAt s c).steps
    let mp := x.active != sw
    let bits := streamCauses s c x sw ld acc src.toNat dst.toNat wgt.toNat n
    let op := Instr.stream c m sw ld acc ckr src dst wgt count
    (bits = 0 → x.feed ≤ a + 2 → (planeOf x mp).validAt ≤ a + 4 → (ld = true → loadFrom x (!mp) ≤ a) → Does op s (fun t =>
      let y := arrAt t c m
      y.active = mp ∧ y.feed = a + 2 + n + (if ckr then 1 else 0) ∧ y.mode = x.mode ∧ y.serial = min (x.serial + 1) 0xFFFF ∧
      y.strs = x.strs.map (fun j => if ckrLost a j then { j with lost := true } else j) ++ [streamJob x acc ckr mp src.toNat dst.toNat n a] ∧
      t.dram = s.dram ∧ t.cores = s.cores)) ∧
    (bits ≠ 0 → Gives op s (mCause c m bits s))) ∧
  (∀ (F : Fuses) (s : State) (c r i from_ scl to_ fl : Nat) (m : Bool) (j : StreamJob) (vals : List Machine.Num), Sound F s →
    let x := arrAt s c m
    let k := coreAt s c
    let d := drainElems j.mode x.gen vals
    let at_ := to_ + r * d.1.length
    j.halves = [(from_, scl, to_)] →
    (fmtMx (mIfmt j.mode) = false → k.badGlz = [] →
      (feedRow c m r i j s).1 = { j with rows := j.rows ++ [(r, [(spadBytes k 2 i (from_ + 64 * r) 64, [])])] }) ∧
    (j.outs = [(r, [(vals, fl)])] →
      (bit x.fence 0 = true → (drainRow c m r i j s).2 = setArr c m { x with gen := d.2.2 } s) ∧
      (bit x.fence 0 = false → d.2.1 ||| fl = 0 → (drainRow c m r i j s).2 =
        setCore c (claim (30 + b2n m) (mUnit m) i at_ d.1.length { k with pendSt := k.pendSt ++
          [{ src := 1 + 2 * b2n m, addr := at_, bytes := d.1, iss := 2 * i, visLd := i + 1, visV := i + 1, visO := i + 1 }] })
          (setArr c m { x with gen := d.2.2 } s))))

/-- The V slot's arithmetic operations write each element of D from the elements of the sources. Rests on R168; R326; R328; R329; R343; R345;
R347; R349; R350. -/
def Obligations.VectorArithmeticByElement : Prop :=
  ∀ (s : State) (c : Nat) (f : VR), VIssues s c false →
    let i := (coreAt s c).steps
    let t := f.t.toNat
    let w := tWidth t
    let sr := bit f.md 4
    let plain := vrCauses c f allTypes 16 false s = 0
    let fused := vrCauses c f floatTypes 16 true s = 0
    let num : (Machine.Num → Machine.Num → Machine.Num → Machine.Num) → (Int → Int → Int → Int) → State := fun g h =>
      vrBody c f sr (arLat t) (fun r a b d => if tFloat t then vConv (tFmt t) r (g (eNum t a) (eNum t b) (eNum t d))
        else (eWrap t (h (signedOf w a) (signedOf w b) (signedOf w d)), 0)) i s
    Gives (.vNop c false) s s ∧ Gives (.vNop c true) s s ∧
    (plain → Gives (.vadd c f) s (num (fun a b _ => a.add b) (fun a b _ => a + b))) ∧
    (plain → Gives (.vsub c f) s (num (fun a b _ => a.add b.neg) (fun a b _ => a - b))) ∧
    (plain → Gives (.vmul c f) s (num (fun a b _ => a.mul b) (fun a b _ => a * b))) ∧
    (fused → Gives (.vfma c f) s (num (fun a b d => (a.mul b).add d) (fun a b d => a * b + d))) ∧
    (fused → Gives (.vfms c f) s (num (fun a b d => (a.mul b).add d.neg) (fun a b d => a * b - d))) ∧
    (fused → Gives (.vfnma c f) s (num (fun a b d => d.add (a.mul b).neg) (fun a b d => d - a * b))) ∧
    (vrCauses c f allTypes 8 false s = 0 →
      Gives (.vmin c f) s (vrBody c f false (arLat t) (minMax t (bit f.md 3) false) i s) ∧
      Gives (.vmax c f) s (vrBody c f false (arLat t) (minMax t (bit f.md 3) true) i s)) ∧
    (vrCauses c f allTypes 0 false s = 0 →
      Gives (.vabs c f) s (vrBody c f false 1 (fun _ a _ _ => (if tFloat t then a % 2 ^ (w - 1) else eWrap t (signedOf w a).natAbs, 0)) i s) ∧
      Gives (.vneg c f) s (vrBody c f false 1 (fun _ a _ _ =>
        (if tFloat t then (if a.testBit (w - 1) then a - 2 ^ (w - 1) else a + 2 ^ (w - 1)) else eWrap t (-(signedOf w a)), 0)) i s)) ∧
    (vrCauses c f floatTypes 0 false s = 0 → Gives (.vrint c f) s (vrintAt c f i s))

/-- The V slot's moves, logic, shifts, selects, compares, conversions and mask operations write what their rows say. Rests on R328; R329; R331;
R346; R347; R348; R351. -/
def Obligations.VectorLogicMasksAndConversions : Prop :=
  ∀ (s : State) (c : Nat) (f : VR) (d : BitVec 5) (imm : BitVec 16) (ty : BitVec 3) (sreg : BitVec 8), VIssues s c false →
    let x := vecAt s c
    let i := (coreAt s c).steps
    let t := f.t.toNat
    let w := tWidth t
    let n := tCount (vLanes s c) t
    let m := rdM x f.m.toNat i
    let a := rdV x f.a.toNat i
    let b := rdV x f.b.toNat i
    let ma := (rdM x (f.a.toNat % 8) i).toNat
    let mb := (rdM x (f.b.toNat % 8) i).toNat
    let each : (Nat → Nat → Nat) → State := fun g => vrBody c f false 1 (fun _ p q _ => (g p q, 0)) i s
    let mask : Nat → State := fun v => setVec c (wrM x false (f.d.toNat % 8) i 1 (v % 2 ^ (2 * vLanes s c))) s
    let all : Bool → BitVec 5 → Nat → Nat → State := fun slot r k v =>
      setVec c (wrV x slot r.toNat i 1 (tWidth k) (List.replicate (tCount (vLanes s c) k) (some (v % 2 ^ tWidth k)))) s
    (vrCauses c f allTypes 0 false s = 0 →
      Gives (.vmov c f) s (each (fun p _ => p)) ∧ Gives (.vand c f) s (each (fun p q => p &&& q)) ∧
      Gives (.vor c f) s (each (fun p q => p ||| q)) ∧ Gives (.vxor c f) s (each (fun p q => p ^^^ q))) ∧
    (vrCauses c f intTypes 0 false s = 0 →
      Gives (.vshl c f) s (each (fun p q => p * 2 ^ (q % w) % 2 ^ w)) ∧ Gives (.vshr c f) s (each (fun p q => p / 2 ^ (q % w))) ∧
      Gives (.vsra c f) s (each (fun p q => eWrap t (signedOf w p / (2 : Int) ^ (q % w))))) ∧
    (tOk s c allTypes t = true → f.c = 0 → f.md = 0 → f.mz = false → Gives (.vsel c f) s
      (setVec c (wrV x false f.d.toNat i 1 w ((List.range n).map (fun e => some (if bit m e then getE a t e else getE b t e)))) s)) ∧
    (tOk s c allTypes t = true → f.c = 0 → bit f.md 4 = false → fld f.md 0 3 ≠ 7 → fld f.d 3 2 = 0 → Gives (.vcmp c f) s (vcmpAt c f i s)) ∧
    (vcvtCauses c f s = 0 → Gives (.vcvt c f) s (cvtBody c f t (fld f.md 0 4) (bit f.md 4) i s)) ∧
    (vunpkCauses c f s = 0 → Gives (.vunpk c f) s (cvtBody c f (fld f.md 0 4) t false i s)) ∧
    (maskCauses f s = 0 → Gives (.mand c f) s (mask (ma &&& mb)) ∧ Gives (.mor c f) s (mask (ma ||| mb)) ∧
      Gives (.mxor c f) s (mask (ma ^^^ mb)) ∧ Gives (.mandn c f) s (mask (ma &&& (mb ^^^ (2 ^ 512 - 1))))) ∧
    (tOk s c allTypes ty.toNat = true → Gives (.vlis c d imm ty) s (all false d ty.toNat (vlisElem ty.toNat imm))) ∧
    (tOk s c allTypes ty.toNat = true → VIssues s c true →
      Gives (.vbcs c d sreg ty) s (all true d ty.toNat (rdReg (coreAt s c) .other 0 sreg.toNat i).toNat))

/-- The second V slot's loads, stores, address registers, reductions, counts and special functions act as their rows say. Rests on R330; R335;
R336; R337; R340; R352; R353; R354; R355; R358; R361; R362. -/
def Obligations.VectorSecondSlotOperations : Prop :=
  ∀ (s : State) (c : Nat) (f : VR) (g : VM) (ar : BitVec 3) (sreg : BitVec 8) (off : BitVec 22), s.inReset = false → c < nSites →
    let k := coreAt s c
    let i := k.steps
    let v := (rdReg k .other 0 sreg.toNat i).toNat
    let x := vecAt s c
    (VIssues s c true →
      (v < 2 ^ 22 → Gives (.vseta c ar sreg) s (setVec c { x with va := Tab.store 0 x.va ar.toNat (BitVec.ofNat 22 v) } s)) ∧
      (2 ^ 22 ≤ v → Gives (.vseta c ar sreg) s (vCause c true 0x42 (2 ^ 10) s)) ∧
      Gives (.vsetai c ar off) s (setVec c { x with va := Tab.store 0 x.va ar.toNat off } s) ∧
      (vmCauses c false g s = 0 → Gives (.vld c g) s (vldAt c g i s)) ∧
      (vmCauses c true g s = 0 → Gives (.vst c g) s (vstAt c g i s)) ∧
      (vmCauses c false g s ≠ 0 → Gives (.vld c g) s (vCause c true 0x40 (vmCauses c false g s) s)) ∧
      (vmCauses c true g s ≠ 0 → Gives (.vst c g) s (vCause c true 0x41 (vmCauses c true g s) s)) ∧
      (vredCauses c f s = 0 → Gives (.vred c f) s (vredAt c f i s)) ∧
      (tOk s c allTypes f.t.toNat = true → f.md = 0 →
        (fld f.c 3 2 = 0 → f.mz = false → Gives (.vcmpr c f) s (vcmprAt c f i s)) ∧
        (f.c = 0 → Gives (.vexpd c f) s (vexpdAt c f i s) ∧
          Gives (.mcnt c f) s (setVec c (wrV x true f.d.toNat i 2 32
            (((((List.range (tCount (vLanes s c) f.t.toNat)).filter (fun e => bit (rdM x f.m.toNat i) e)).length) ::
              List.replicate (vLanes s c - 1) 0).map some)) s))) ∧
      (tOk s c allTypes f.t.toNat = true → f.c = 0 → f.md.toNat &&& 30 = 0 → Gives (.vflags c f) s (vflagsAt c f i s)) ∧
      (sfuCauses c f s = 0 →
        Gives (.exp2 c f) s (sfuBody c f 0x60 8 exp2Num i s) ∧ Gives (.log2 c f) s (sfuBody c f 0x61 8 log2Num i s) ∧
        Gives (.rcp c f) s (sfuBody c f 0x62 8 rcpNum i s) ∧ Gives (.rsqrt c f) s (sfuBody c f 0x63 8 rsqrtNum i s) ∧
        Gives (.tanh c f) s (sfuBody c f 0x64 10 tanhNum i s)) ∧
      (smxCauses c f f.d false s = 0 → Gives (.smxa c f) s (smxaAt c f i s)) ∧
      (smxCauses c f f.b true s = 0 → Gives (.smxn c f) s (smxnAt c f i s))) ∧
    (squashed k 3 = false → runs s (Pg.vec c) = false →
      let lost := ptnFaultOf (ptnOfSite s c) PC.core s
      Gives (.vld c g) s lost ∧ Gives (.vst c g) s lost ∧ Gives (.vsetai c ar off) s lost ∧ Gives (.vred c f) s lost ∧ Gives (.exp2 c f) s lost)

/-- A vector result replaces exactly the elements it governs, from its cycle on, and no other register. Rests on R322; R329; R333; R334. -/
def Obligations.VectorResultsReachTheirElements : Prop :=
  ∀ (x : Vec) (slot : Bool) (d i lat j t : Nat) (els : List (Option Nat)),
    (∀ w ∈ x.pend, w.file = 0 → w.idx = d → w.iss ≤ 2 * i) → els.length * tWidth t ≤ 8192 → (∀ v, some v ∈ els → v < 2 ^ tWidth t) →
    let y := wrV x slot d i lat (tWidth t) els
    (i + lat ≤ j → ∀ e o, els[e]? = some o → getE (rdV y d j) t e = o.getD (getE (rdV x d j) t e)) ∧
    (j < i + lat → rdV y d j = rdV x d j) ∧
    (∀ r, r ≠ d → rdV y r j = rdV x r j) ∧ (∀ k, rdM y k j = rdM x k j)

/-- X-slot operations read descriptors and queue them, and move engines perform them. Rests on R168; R217; R382; R383; R384; R385; R386; R387;
R399; R390; R394; R395. -/
def Obligations.DescriptorsAreQueuedAndPerformed : Prop :=
  (∀ (s : State) (c : Nat) (x : Bool) (ar : BitVec 2) (sreg : BitVec 8) (off : BitVec 17) (post : Bool) (n1 : BitVec 4),
    s.inReset = false → c < nSites → squashed (coreAt s c) (xUnit x) = false → unitHolds (coreAt s c) (xUnit x) = false →
    let k := coreAt s c
    let i := k.steps
    let v := (rdReg k .other 0 sreg.toNat i).toNat
    let a := xaGet k x ar
    let room : Nat → Prop := fun n => (moverAt s c x).queue.length + xrdCount k false x 32 + n ≤ 16 ∧ opsFull s c = false
    let lies : Nat → Prop := fun n => a % 32 = 0 ∧ a + 32 * n ≤ sizeOfSite s c
    let reads : Bool → Nat → State := fun gq len =>
      let y : Core := { k with xrd := k.xrd ++ [{ x := x, gq := gq, ar := ar, post := post, addr := a, len := len, at_ := i, got := [] }] }
      setCore c (if post then xaSet x ar (a + len) y else y) s
    let hold : Instr → State := fun op => holdOp c (xUnit x) i op s
    Gives (.xNop c x) s s ∧
    (runs s (Pg.mov c) = true →
      (v < 2 ^ 22 → Gives (.xseta c x ar sreg) s (setCore c (xaSet x ar v k) s)) ∧
      (2 ^ 22 ≤ v → Gives (.xseta c x ar sreg) s (fault (Pg.mov c) 9 s)) ∧
      Gives (.xsetai c x ar off) s (setCore c (xaSet x ar (off.toNat * 32) k) s) ∧
      (lies 1 → room 1 → Gives (.xq c x ar post) s (reads false 32)) ∧
      (lies (n1.toNat + 1) → room (n1.toNat + 1) → Gives (.xqn c x ar post n1) s (reads false (32 * (n1.toNat + 1)))) ∧
      (¬ lies 1 → Gives (.xq c x ar post) s (fault (Pg.mov c) 9 s)) ∧
      (¬ lies (n1.toNat + 1) → Gives (.xqn c x ar post n1) s (fault (Pg.mov c) 9 s)) ∧
      (lies 1 → ¬ room 1 → Gives (.xq c x ar post) s (hold (.xq c x ar post))) ∧
      (lies (n1.toNat + 1) → ¬ room (n1.toNat + 1) → Gives (.xqn c x ar post n1) s (hold (.xqn c x ar post n1)))) ∧
    (runs s (Pg.mov c) = false →
      let lost := ptnFaultOf (ptnOfSite s c) PC.core s
      Gives (.xseta c x ar sreg) s lost ∧ Gives (.xsetai c x ar off) s lost ∧ Gives (.xq c x ar post) s lost ∧ Gives (.xqn c x ar post n1) s lost) ∧
    (x = true → (∃ h ∈ k.holds, h.1 = 2 ∧ isGq h.2.2 = true) → Gives (.gq c x ar post) s (hold (.gq c x ar post))) ∧
    (runsAs s c = some 2 → runs s (Pg.mov c) = true → runs s (Pg.gth c) = true → a % 64 = 0 → a + 64 ≤ sizeOfSite s c →
      (x = true → ∀ h ∈ k.holds, h.1 = 2 → isGq h.2.2 = false) → (gthAt s c).queue.length + xrdCount k true x 64 + 1 ≤ 8 → opsFull s c = false →
      Gives (.gq c x ar post) s (reads true 64))) ∧
  (∀ (s : State) (c t : Nat) (r : XRead),
    let k := coreAt s c
    let m := moverAt s c r.x
    let full : XRead := { r with got := spadBytes k 2 t r.addr r.len }
    let read := setCore c { claim (80 + b2n r.x) (xUnit r.x) t r.addr r.len k with xrd := [] } s
    let descs := (List.range (r.len / 32)).map (fun q => (r.addr + 32 * q, BitVec.ofNat 256 (numOf ((r.got.drop (32 * q)).take 32))))
    let new := (descs.zip (List.range (r.len / 32))).map (fun e => ({ serial := m.serial + e.2, at_ := e.1.1, bits := e.1.2, left := 0, bad := false, rows := [] } : MoveDesc))
    (k.xrd = [r] → r.at_ + 1 = t → r.got = [] → 0 < r.len → r.addr % 128 + r.len ≤ 128 → k.badGlz = [] →
      xStep c t s = if r.gq then gqDone c full read else xqDone c full read) ∧
    (descs.all (fun d => moveDescOk s c d.2) = true → xqDone c r s = setMover c r.x { m with queue := m.queue ++ new, serial := m.serial + r.len / 32 } s) ∧
    (∀ d, descs.find? (fun e => !moveDescOk s c e.2) = some d → xqDone c r s = xUndo c r (descErr c r.x d.1 s)) ∧
    (gatherDescOk s c (BitVec.ofNat 512 (numOf r.got)) = true →
      gqDone c r s = setGth c { gthAt s c with queue := (gthAt s c).queue ++ [BitVec.ofNat 512 (numOf r.got)] } s)) ∧
  (∀ (s : State) (c : Nat) (e bad : Bool) (j : MoveDesc) (rest : List MoveDesc), s.inReset = false → c < nSites →
    let m := moverAt s c e
    (m.queue = j :: rest → runs s (Pg.mov c) = true → descHeld s c j = false →
      let t := runRows c e j (List.range (dRows j.bits)) (setMover c e { m with queue := rest, jobs := m.jobs ++ [j] } s)
      (dKind j.bits = 0 → Gives (.copy c e) s t) ∧ (dKind j.bits = 1 → Gives (.fill c e) s t) ∧
      (dKind j.bits = 2 → Gives (.script c e) s t) ∧ (dKind j.bits = 3 → Gives (.mcast c e) s t) ∧
      (dKind j.bits = 4 → Gives (.reduce c e) s t) ∧ (dKind j.bits = 5 → Gives (.leaven c e) s t)) ∧
    (m.jobs = j :: rest → j.left = 0 →
      let s1 := wrapR (Pg.mov c) (if e then R.MOV_DONE1 else R.MOV_DONE0) 1 (setMover c e { m with jobs := rest } s)
      let s2 := if j.bad then satR (Pg.mov c) R.MOV_ERRORS 1 s1 else s1
      let s3 := if dSigEn j.bits then raiseSig c (dSig j.bits) 1 s2 else s2
      (draining s c = true → Gives (.moveComplete c ⟨e, bad⟩) s s2) ∧
      (draining s c = false →
        (dArrive j.bits = false → Gives (.moveComplete c ⟨e, bad⟩) s s3) ∧
        (∀ p n, dArrive j.bits = true → ptnOfSite s3 c = some p → logicalAt s3 c = some n →
          Gives (.moveComplete c ⟨e, bad⟩) s (coreArrive p n (dBar j.bits) bad s3)))))

/-- The gather engine starts descriptors, steps and finishes bags, and COR_MIGRATE copies a scratchpad. Rests on R376; R377; R401; R402; R403;
R404; R405; R406. -/
def Obligations.GatherThreadsAndMigration : Prop :=
  ∀ (s : State) (c t : Nat) (v : Word), s.inReset = false → c < nSites →
    let g := gthAt s c
    (∀ d rest, g.queue = d :: rest → runs s (Pg.gth c) = true →
      let new : GGroup := { serial := g.serial, desc := d, nextBag := 0, done := [], raised := 0, lines := [], awaiting := [], failed := [] }
      let u := setGth c (assignBags 512 { g with queue := rest, serial := g.serial + 1, groups := g.groups ++ [new] }) s
      (gOffsets d = false → Gives (.gatherDescriptor c) s u) ∧
      (gOffsets d = true → Gives (.gatherDescriptor c) s (foldS (fun b w => (sharedBytes c g.serial (gOffs d + 4 * b) 8 w).2)
        (((gthAt u c).threads.filter (fun e => e.2.serial = g.serial)).map (fun e => e.2.bag)) u))) ∧
    (∀ b q, threadAt s c t = some b → bagDesc s c b = some q → runs s (Pg.gth c) = true → b.waiting = [] → b.err = none →
      (b.known = true → b.next < b.stop → Gives (.gatherRow c t) s (gatherIndex c t q.desc b (gatherAhead c q.desc b s))) ∧
      (b.known = false → gOffsets q.desc = false →
        Gives (.gatherRow c t) s (bagBounds c t b (b.bag * gOffs q.desc) ((b.bag + 1) * gOffs q.desc) s)) ∧
      (b.known = true → b.next = b.stop →
        let out := bagRow q.desc b
        let s1 := setCore c (spadPut (coreAt s c) (gOut q.desc + b.bag * gStride q.desc) out.1) s
        let s2 := wrapR (Pg.gth c) R.GTH_BAGS 1 (if out.2 = 0 then s1 else gthFlag c out.2 s1)
        let s3 := if b.cnt = 0 then satR (Pg.gth c) R.GTH_EMPTY 1 s2 else s2
        Gives (.bagComplete c t) s (raiseGroups c 65600 (setGth c (assignBags 512 { g with threads := Tab.erase g.threads t, groups := g.groups.map (fun y => if y.serial = b.serial then { y with done := y.done ++ [b.bag] } else y) }) s3)))) ∧
    (c % 11 = 10 → bstate s (Pg.cor c) = B.stopped → fld v 0 4 ≤ 9 → bit v 31 = true → bit (getR s (Pg.cor c) R.COR_MIG_STATUS) 31 = false →
      Gives (.corMigrate c v) s (setR (Pg.cor c) R.COR_MIG_STATUS 0x80000000
        (setCore c { coreAt s c with migrating := some (rowOf c * 11 + fld v 0 4) } s))) ∧
    (∀ src, (coreAt s c).migrating = some src →
      let size := spadSize (migKind s c src)
      let k := coreAt s src
      let y := retireStores (k.pendSt.foldl (fun n w => Nat.max n (Nat.max w.visLd (Nat.max w.visV w.visO))) 0) k
      let lost := ((List.range (size / 128)).filter (migLost s src 0)).length
      let x := coreAt s c
      let s1 := setR (Pg.cor c) R.COR_MIG_STATUS (BitVec.ofNat 32 (0x40000000 + min lost 0xFFFF)) (setCore c
        { x with migrating := none, pendSt := [], badGlz := x.badGlz.filter (fun e => decide (size / 128 ≤ e.1)), spad := y.spad.filter (fun e => decide (e.1 < size) && !migLost s src 0 (e.1 / 128)) ++ x.spad.filter (fun e => decide (size ≤ e.1)) } s)
      Gives (.migrateDone c 0) s (if lost = 0 then s1 else fault (Pg.cor c) 14 s1))

/-- RDATA, WACK and RACK end the operation they match, late ones are counted, and a time-out ends it with error. Rests on R396; R398; R403;
R430; R431; R446; R528; R673. -/
def Obligations.NetworkResponsesEndOperations : Prop :=
  ∀ (s : State) (f : Flit) (o : Op) (txn : BitVec 14), s.inReset = false →
    (f.ecc = 0 → opFind s f = some o →
      let s1 := opDone o s
      (f.status = 0 →
        Gives (.rdata f) s (settleUnits (opDrain (opData o f s1))) ∧ Gives (.wack f) s (settleUnits (opDrain (opAck o s1))) ∧
        Gives (.rack f) s (opDrain (rackGood o f s1))) ∧
      (f.status ≠ 0 →
        Gives (.rdata f) s (settleUnits (opDrain (opError o s1))) ∧ Gives (.wack f) s (settleUnits (opDrain (opError o s1))) ∧
        Gives (.rack f) s (opDrain (opError o s1)))) ∧
    (f.ecc = 0 → opFind s f = none → ownFlit s f = true →
      Gives (.rdata f) s (settleUnits (satR Pg.netb R.NETB_LATE 1 s)) ∧ Gives (.wack f) s (settleUnits (satR Pg.netb R.NETB_LATE 1 s)) ∧
      Gives (.rack f) s (satR Pg.netb R.NETB_LATE 1 s)) ∧
    (s.ops.find? (fun p => p.txn = txn.toNat ∧ p.die = dieNum s ∧ !neverTimes p) = some o →
      Gives (.netbTxnTimeout txn) s (settleUnits (opDrain (opError o
        (firstR Pg.netb R.NETB_ERR (kindType o * 2 ^ 27 + 2 ^ 24 + o.ep) (satR Pg.netb R.NETB_TIMEOUTS 1 (opDone o s))))))) ∧
    (s.ops.find? (fun p => p.txn = txn.toNat ∧ p.die ≠ dieNum s ∧ !neverTimes p) = some o →
      let s1 := opDone o s
      Gives (.txnTimeout txn) s (settleUnits (opDrain (opError o (satR (Pg.lkg ((route s1 o.die).getD (routeFirst s1 o.die))) R.LKG_TIMEOUTS 1 s1)))))

/-- A multicast flit enters its source leaf and is written to every target that can take it; what cannot is missed, dropped or held. Rests on R432;
R436; R437; R438; R439; R463; R717. -/
def Obligations.MulticastFlitsReachTheirTargets : Prop :=
  ∀ (s : State) (f : Flit) (bl : BitVec 120) (n c o : Nat) (l : List Nat) (r : Mcast) (v : Word) (txn : BitVec 14),
    let k := mcKey f
    let a := f.addr.toNat / 128 * 128
    (mcRow s k = some r →
      (bit r.missed n = false →
        mcMiss k n s = updMc k (fun m => { m with missed := setBit m.missed n true }) (satR Pg.netm R.NETM_MC_MISSED 1 s)) ∧
      (bit r.missed n = true → mcMiss k n s = s) ∧
      mcDrop k (n :: l) s = foldS (mcMiss k) (n :: l)
        (updMc k (fun m => { m with dropped := (n :: l).foldl (fun d t => setBit d t true) m.dropped, held := m.held.filter (fun h => !((n :: l).contains h.1)) })
          (firstR Pg.netm R.NETM_LAST_DROP (r.grp * 256 + n) (satR Pg.netm R.NETM_MC_DROPS 1 s)))) ∧
    (o ≠ mcSrc → getF s Pg.netm R.NETM_MC_HOLD 0 16 = 0 → mcHold o l f s = mcDrop k l s) ∧
    (o ≠ mcSrc → getF s Pg.netm R.NETM_MC_HOLD 0 16 ≠ 0 →
      mcHold o l f s = satR Pg.netm R.NETM_MC_HOLDS 1 (updMc k (fun m => { m with held := m.held ++ [(o, f)] }) s)) ∧
    (bit bl n = true → mcTarget bl f n s = mcHold n [n] f s) ∧
    (bit bl n = false → mcCount s n f = 0 → siteOf s n = some c →
      (a + 128 ≤ sizeOfSite s c → mcTarget bl f n s = setCore c (spadPut (coreAt s c) a (bytesOf 128 f.data.toNat)) s) ∧
      (sizeOfSite s c < a + 128 → mcTarget bl f n s = mcMiss k n s)) ∧
    (s.inReset = false →
      (f.ecc = 0 →
        (bstate s Pg.netb = B.starting → Gives (.mc f bl) s { s with heldReqs := s.heldReqs ++ [(Pg.netb, f)] }) ∧
        (bstate s Pg.netb ≠ B.starting → bstate s Pg.netb ≠ B.running → bstate s Pg.netb ≠ B.stopping → Gives (.mc f bl) s (mcReport f 1 0 s)) ∧
        (bstate s Pg.netb = B.running → s.mcasts = [] →
          let g := f.rtag.toNat / 256
          let r1 : Mcast := { ep := k.1, txn := k.2, grp := g, mask := BitVec.ofNat 120 (netmMask s g), missed := 0, dropped := 0, seen := [f.addr.toNat], held := [], last := if f.last then some f else none }
          let s1 : State := { wrapR Pg.netm R.NETM_MC_SENT 1 s with mcasts := [r1] }
          Gives (.mc f bl) s (mcSettle (mcSourceGo bl f
            (foldS (fun q u => if mcGone u q ∨ pushShut u f q then mcMiss k q u else u) (bitsSet 120 r1.mask.toNat) s1))))) ∧
      (n < 120 →
        (∀ rest, s.mcasts.filter (fun m => m.txn = txn.toNat) = r :: rest → r.held.find? (fun h => h.1 = n) = some (n, f) →
          Gives (.mcHoldExpire txn n) s (mcSettle (mcAdvance 0 (mcDrop k [n] (mcUnhold n f s))))) ∧
        ((∀ m ∈ s.mcasts, m.txn ≠ txn.toNat) → Gives (.mcHoldExpire txn n) s s)) ∧
      (∀ q e ser j, f.ecc = 0 → f.status = 0 → opFind s f = some q → q.kind = .mcastRow c e ser → (moverAt s c (e = 1)).jobs.find? (fun d => d.serial = ser) = some j →
        let m := f.data.toNat % 2 ^ 120
        let s1 := opDone q s
        let s2 := setCore c (spadPut (coreAt s1 c) (dSStride j.bits) (bytesOf 16 m)) s1
        Gives (.mcrep f) s (opDrain (jobOps c (e = 1) ser false 1 (if m = 0 then s2 else satR (Pg.mov c) R.MOV_MC_MISSES 1 s2)))) ∧
      (let g := getF s Pg.netm R.NETM_SEL 0 8
       let w := fun (a : Nat) => (Tab.get 0 s.wbuf (regKey Pg.netm a)).toNat
       (g = 0 → Gives (.netmMaskCommit v) s s) ∧
       (g ≠ 0 → Gives (.netmMaskCommit v) s { s with netmMasks := Tab.store 0 s.netmMasks g (BitVec.ofNat 120 (w R.NETM_MASK0 + w R.NETM_MASK1 * 2 ^ 32 + w R.NETM_MASK2 * 2 ^ 64 + (v.toNat % 2 ^ 24) * 2 ^ 96)) })))

/-- The sum of a reduction block does not depend on the order in which its contributions arrived. Rests on R443. -/
def Obligations.ReductionSumIgnoresArrivalOrder : Prop :=
  ∀ (r q : RedBlk), r.int = q.int → r.parts.Perm q.parts → (r.parts.map (fun p => p.1)).Nodup → redSum r = redSum q

/-- A RED contribution opens a block, joins it, waits, is stray, or is discarded. Rests on R86; R432; R441; R442; R443; R444; R446; R447; R448;
R449. -/
def Obligations.ReductionContributions : Prop :=
  (∀ (s : State) (f : Flit), s.inReset = false → f.ecc = 0 →
    let grp := redGroup s f
    let z := redArrive f grp s
    (bstate s Pg.netb = B.running → s.redWait = [] →
      Gives (.red f) s (if z.1 then z.2 else { z.2 with redWait := z.2.redWait ++ [(grp, f)] })) ∧
    (bstate s Pg.netb = B.starting → Gives (.red f) s { s with redWait := s.redWait ++ [(grp, f)] }) ∧
    (bstate s Pg.netb ≠ B.starting → bstate s Pg.netb ≠ B.running → bstate s Pg.netb ≠ B.stopping →
      Gives (.red f) s (rackTo 1 (redSource s grp f) s))) ∧
  (∀ (s : State) (f : Flit) (e : BitVec 256) (n : Nat), rtabRead f.rtag.toNat s = (some e, s) → f.typ = 6 →
    let p := rtPtn e
    let a := redAddr f
    let sp := spineOf s a (redDst s f.die.toNat a)
    let here := s.reds.filter (fun x => x.spine = sp)
    let b : RedBlk := { tag := f.rtag.toNat, die := f.die.toNat, addr := a, ptn := p, leaven := false, int := rtInt e, spine := sp, parts := [(redRank 8 n f.sdie.toNat, f, 8)], mask := rtMask e, counts := (List.range 4).map (rtCount e) }
    let mine := s.reds.find? (fun x => x.tag = f.rtag.toNat ∧ x.die = f.die.toNat ∧ x.addr = a)
    (∀ grp, rtValid e = true → p ∈ s.redDead → redArrive f grp s = (true, satR Pg.netb R.NETB_RED_DISCARD 1 s)) ∧
    (∀ grp, rtValid e = false → redArrive f grp s = (true, redStray f grp s)) ∧
    (∀ grp, p ∉ s.redDead → redBad s e f grp = true → redArrive f grp s = (true, redStray f grp s)) ∧
    (p ∉ s.redDead → redBad s e f 8 = false → logicalAt s f.src.toNat = some n →
      (mine = none →
        (256 ≤ here.length → redArrive f 8 s = (false, s)) ∧
        (here.length < 256 → (here.map redParked).foldl (· + ·) 0 < 512 → redFull b = false → f.glaze = crc32c (glzSeed a) (bytesOf 128 f.data.toNat) →
          redArrive f 8 s = (true, redOpenNote { s with reds := s.reds ++ [b] }))) ∧
      (∀ q, mine = some q → q.parts.any (fun y => y.1 = redRank 8 n f.sdie.toNat) = true → redArrive f 8 s = (false, s))))

/-- A WR of a whole line to homed memory stores exactly its 128 bytes at the line's place. Rests on R525; R537; R538; R540. -/
def Obligations.HomedWriteStoresItsBytes : Prop :=
  ∀ (F : Fuses) (s : State) (f : Flit) (h : Home), Sound F s → s.inReset = false → f.ecc = 0 → runs s Pg.netb = true →
    (f.die.toNat = dieNum s ∨ dieValid s = false) → areaOf f.addr.toNat = .homed → homeHolds s f.addr.toNat = none →
    homeOf s f.addr.toNat = .ok h → lineBusy s h.slice (h.off / 128) = false → ringsInLine s f.addr.toNat = [] →
    bigTile s f.addr.toNat = false → f.ben = BitVec.allOnes 128 → glazeOk f = true →
    let k := h.key / 128 * 128
    Does (.wr f) s (fun t =>
      (∀ a, a < 128 → Tab.get 0 t.dram (k + a) = BitVec.ofNat 8 (f.data.toNat >>> (8 * a))) ∧
      (∀ a, a < k ∨ k + 128 ≤ a → Tab.get 0 t.dram a = Tab.get 0 s.dram a) ∧
      t.cores = s.cores)

/-- A scratchpad window write is read back, and no byte outside its block changes. Rests on R58; R59; R372; R375. -/
def Obligations.WindowWriteThenRead : Prop :=
  ∀ (F : Fuses) (s : State) (f : Flit) (c : Nat), Sound F s → s.inReset = false → f.ecc = 0 → runs s Pg.netb = true →
    (f.die.toNat = dieNum s ∨ dieValid s = false) → areaOf f.addr.toNat = .spad →
    let a := f.addr.toNat / 128 * 128
    let off := (windowOf a).2
    (windowSite s a 128 = some c → bstate s (Pg.cor c) ≠ B.starting → (coreAt s c).pendSt = [] →
      Does (.wr f) s (fun t =>
        t.cores = Tab.store Core.init s.cores c (spadPut (coreAt s c) off (mergeBytes f (spadBytes (coreAt s c) 2 (coreAt s c).steps off 128))) ∧
        t.dram = s.dram) ∧
      (let x := spadPut (coreAt s c) off (mergeBytes f (spadBytes (coreAt s c) 2 (coreAt s c).steps off 128))
       spadBytes x 2 x.steps off 128 = mergeBytes f (spadBytes (coreAt s c) 2 (coreAt s c).steps off 128) ∧
       ∀ b, b < off ∨ off + 128 ≤ b → Tab.get 0 x.spad b = Tab.get 0 (coreAt s c).spad b)) ∧
    (windowSite s a 128 = none → Does (.wr f) s (fun t => t.dram = s.dram ∧ t.cores = s.cores) ∧
      Does (.rd f) s (fun t => t.dram = s.dram ∧ t.cores = s.cores))

/-- RD, INV, IACK, COHN, STACK_TIMEOUT and TILE_STAGE_TIMEOUT act at the slice as their rules say. Rests on R524; R528; R529; R531; R532; R539;
R542. -/
def Obligations.SliceReadsAndCoherence : Prop :=
  ∀ (s : State) (f : Flit) (h : Home) (i : Nat) (d : BitVec 12) (a : BitVec 48), s.inReset = false →
    (f.ecc = 0 → f.typ = 0 → runs s Pg.netb = true → (f.die.toNat = dieNum s ∨ dieValid s = false) → areaOf f.addr.toNat = .homed →
      homeHolds s f.addr.toNat = none → homeOf s f.addr.toNat = .ok h → lineBusy s h.slice (h.off / 128) = false → ownFlit s f = true →
      let k := lineHome h
      let z := homeHit h.slice k.off (slcServed h.slice s)
      (z.1 = true → Gives (.rd f) s (respondRd f (dramBytes z.2 k.key 128) (lineGlaze z.2 f.addr.toNat k).1 (lineGlaze z.2 f.addr.toNat k).2 z.2)) ∧
      (z.1 = false → Gives (.rd f) s (addWait h.slice (.stackRead f (k.off / 128)) (stackAccess h.slice 4 (chanOf k.key) z.2)))) ∧
    (f.ecc = 0 → Gives (.inv f) s (invOp f s) ∧
      (inPackage s f.sdie.toNat = true → homeSpot s f.addr.toNat = some h →
        Gives (.iack f) s (ackLine h.slice (h.off / 128) (f.sdie.toNat - pkgBase s) s))) ∧
    Gives (.cohn d) s (foldS (fun q => cacheDropIf q (fun l => l.remote && l.tag / 2 ^ 48 = d.toNat)) (List.range nSlices) s) ∧
    (i < nSlices →
      (∀ g l, (takeStackRead i s).1 = some (g, l) →
        let s1 := (takeStackRead i s).2
        Gives (.stackTimeout i) s (peerAck i (lineFree i l (respondErr g (sliceErr i 6 g.addr.toNat (rqPtn s1 g) s1))))) ∧
      Gives (.tileStageTimeout i a) s (dropStage i (a.toNat / 2048 * 2048) s))

/-- LVN stages or refuses a gradient sum, notices commit or discard records, and BATCH_APPLY applies the oldest batch. Rests on R575; R576;
R577; R579; R581; R584; R586. -/
def Obligations.LeavenStagesAndAppliesGradients : Prop :=
  ∀ (s : State) (f : Flit) (og : List (BitVec 12 × BitVec 4)) (h : Home) (i : Nat) (d : BitVec 12) (p : BitVec 4) (q : DWord), s.inReset = false →
    let g : Flit := { f with typ := 8 }
    let j := h.slice
    let sound := decide (lvnGroup f < getF s (Pg.lvn j) R.LVN_GROUPS 0 13) && (f.glaze == crc32c (glzSeed (lvnBlk f)) (bytesOf 128 f.data.toNat))
    (f.ecc = 0 → bstate s Pg.netb = B.starting → homeOf s (lvnBlk f) = .ok h →
      Gives (.lvn f og) s (setSlice j { sliceAt s j with lvnQueue := (sliceAt s j).lvnQueue ++ [(g, og)] } s)) ∧
    (f.ecc = 0 → runs s Pg.netb = true → homeOf s (lvnBlk f) = .ok h →
      (runs s (Pg.lvn j) = true → sound = true → lvnRoom s j = true → (sliceAt s j).lvnQueue = [] → Gives (.lvn f og) s (lvnStage j h g og s)) ∧
      (runs s (Pg.lvn j) = true → sound = true → lvnRoom s j = false →
        Gives (.lvn f og) s (setSlice j { sliceAt s j with lvnQueue := (sliceAt s j).lvnQueue ++ [(g, og)] } s)) ∧
      (runs s (Pg.lvn j) = true → sound = false → Gives (.lvn f og) s (lvnRefuse g s))) ∧
    (i < nSlices → runs s (Pg.lvn i) = true →
      (∀ t, (sliceAt s i).lvnQueue = (g, og) :: t → homeOf s (lvnBlk f) = .ok h → j = i → sound = true → lvnRoom s i = true →
        bstate s Pg.netb ≠ B.starting → Gives (.lvnQueueStage i) s (lvnStage i h g og (lvnWaited i (setSlice i { sliceAt s i with lvnQueue := t } s)))) ∧
      (∀ b t, (sliceAt s i).batches = b :: t →
        let z := lvnMerge i [] (lvnSort b.recs) s
        let s1 := foldS (fun grp u => lvnGroupApply i grp (z.1.filter (fun r => r.group = grp)) u) ((z.1.map (·.group)).dedup) z.2
        let s2 := lvnNote i (setSlice i { sliceAt s1 i with batches := t } s1)
        Gives (.batchApply i) s (foldS (fun r => lineFree i r.line) b.recs
          (setR (Pg.lvn i) R.LVN_LAST_NS (BitVec.ofNat 32 (Nat.min (s2.time - b.at_).toNat 0xFFFFFF)) s2)))) ∧
    Gives (.lvnCommit d p q) s (foldS (lvnCommitAt d.toNat p.toNat q) (List.range nSlices) s) ∧
    Gives (.lvnDiscard d p q) s (foldS (fun k => lvnDropIf k (waitsFor d.toNat p.toNat)) (List.range nSlices) s)

/-- Enabling, disabling, doorbells and MSG messages act on a ring's indices and credits. Rests on R609; R611; R612; R614; R616; R617; R623;
R624; R625. -/
def Obligations.RingsAndDoorbells : Prop :=
  ∀ (s : State) (r : BitVec 16) (v n : Word) (sdie : BitVec 12) (entry : BitVec 512) (m : MsgRing), s.inReset = false →
    let k := r.toNat
    let d := ringDesc s k
    let pg := dblPage k
    (ringEnabled s k = false → ringOk s k = true → d.typ ≠ 3 → Gives (.ringEnable k) s (setRingBit k true s)) ∧
    (ringEnabled s k = false → ringOk s k = false → Gives (.ringEnable k) s (dblErr k 1 s)) ∧
    (ringEnabled s k = true → (∀ y ∈ s.msgRings, y.ring ≠ k) → Gives (.ringDisable k) s (setRingBit k false (ringDrop k s))) ∧
    (runs s pg = true → ringEnabled s k = true → hostOwns d true = true →
      Gives (.dblProd k v) s (hostUpd { ring := k, host := true, prod := true, val := v } s)) ∧
    (runs s pg = true → ringEnabled s k = true → hostOwns d false = true →
      Gives (.dblCons k v) s (hostUpd { ring := k, host := true, prod := false, val := v } s)) ∧
    ((runs s pg && ringEnabled s k && hostOwns d true) = false → Gives (.dblProd k v) s (dblRefuse k 2 s)) ∧
    ((runs s pg && ringEnabled s k && hostOwns d false) = false → Gives (.dblCons k v) s (dblRefuse k 2 s)) ∧
    (ringEnabled s k = true → d.typ = 3 → msgRing s k = some m →
      (d.dir = false → runs s pg = true → m.stopped = false → 0 < m.credits → m.next.toNat ≠ d.prod →
        Gives (.msgSend k) s (wrapR pg R.DBL_MSG_SENT 1 (setMsgRing { m with credits := m.credits - 1, next := m.next + 1 }
          (postMsg d.peerDie Cls.int 9 (.ringEntry d.peerDie d.peerRing m.next (BitVec.ofNat 512 (memNum s (ringEntryAddr d m.next.toNat) 64))) s)))) ∧
      (d.dir = true → runs s pg = true → d.peerDie = sdie.toNat → 0 ≤ idxDiff v.toNat m.next.toNat →
        let p := indexAhead s k true d.prod
        let u : RingUpd := { ring := k, host := true, prod := true, val := BitVec.ofNat 32 (p + 1) }
        let s1 := hostUpd u (memPut (ringEntryAddr d p) (bytesOf 64 entry.toNat) s)
        ((ringHeld s d && stageFull s u) = true → Gives (.ring r sdie v entry) s s) ∧
        ((ringHeld s d && stageFull s u) = false → Gives (.ring r sdie v entry) s (postMsg sdie.toNat Cls.int 1 (.ringAck sdie.toNat d.peerRing v)
          (wrapR pg R.DBL_MSG_RCVD 1 (setMsgRing { m with next := v + 1, stopped := false } s1))))) ∧
      (d.dir = false → Gives (.msgCredit r n false) s (setMsgRing { m with credits := m.credits + n.toNat } s) ∧
        Gives (.msgCredit r n true) s (setMsgRing { m with credits := n.toNat, next := BitVec.ofNat 32 (indexAhead s k false d.cons), stopped := false } s))) ∧
    (ringEnabled s k = true → d.typ = 3 → d.dir = false →
      let u : RingUpd := { ring := k, host := true, prod := false, val := v + 1 }
      ((ringHeld s d && stageFull s u) = false → Gives (.msgAck r v) s (hostUpd u s)) ∧ ((ringHeld s d && stageFull s u) = true → Gives (.msgAck r v) s s)) ∧
    (∀ u : RingUpd, ringHeld s (ringDesc s u.ring) = false → hostUpd u s = applyUpd u s) ∧
    (∀ u : RingUpd, ringHeld s (ringDesc s u.ring) = true → stageFull s u = false →
      hostUpd u s = setStage (s.ringStage.filter (fun w => !sameUpd u w) ++ [u]) s)

/-- A channel's refresh is handed over as R547 and R548 say, and a temperature above HOT halves tREFI. Rests on R545; R547; R548; R549; R550;
R551; R564. -/
def Obligations.RefreshTakeoverAndTemperature : Prop :=
  (∀ (s : State) (i j : Nat) (n : Nat) (r : PeerRow) (v : DWord), s.inReset = false → i < nSlices → portOfSlice s i = some j →
    let x := sliceAt s i
    let missed := Nat.min 16 ((s.time - x.lastRef).toNat / Nat.max 1 (if x.refHalf then getF s (Pg.med i) R.MED_REFRESH 0 12 / 2 else getF s (Pg.med i) R.MED_REFRESH 0 12))
    let taken := satR (Pg.med i) R.MED_TAKEOVERS 1 (namedAlarm (Pg.med i) 1 (sysRead i (refMany i missed (setSlice i { x with acting := true, refreshing := true } s))))
    let ref : Slice → State → State := fun y t => setSlice i { y with refPos := y.refPos + 1 } (stackSend i 8 0 0 t)
    Gives (.statStatus i v) s s ∧ Gives (.portUp i) s s ∧
    (medLives s i = true → medRole s i ≠ 1 → x.refreshing = true → Gives (.refresh i) s (ref x s)) ∧
    (medLives s i = false → Gives (.refresh i) s s) ∧
    (medRole s i = 1 →
      Gives (.refNotice i) s (setSlice i { x with armed := true, lastRef := s.time, refPos := x.refPos + 1 } s) ∧
      Gives (.peerArm i) s (setSlice i { x with armed := true, lastRef := if x.armed then x.lastRef else s.time } s) ∧
      (medLives s i = true → Gives (.portDown i) s taken) ∧
      (medLives s i = true → x.armed = true → Gives (.refWatch i) s taken) ∧ (x.armed = false → Gives (.refWatch i) s s)) ∧
    (medRole s i = 0 → x.waitMgr = true →
      Gives (.managerWait i true) s (peerMsg j (.peerPos 0 (peerSlot j) x.refPos) (setSlice i { x with waitMgr := false } s)) ∧
      Does (.managerWait i false) s (fun t => t.outbox = s.outbox ++ [.stack i 8 0 0] ∧ t.dram = s.dram ∧ t.cores = s.cores ∧ t.cache = s.cache ∧ t.time = s.time)) ∧
    (medRole s i = 2 → Gives (.claim i n) s (peerMsg j (.peerPos 1 (peerSlot j) x.refPos) (setSlice i { x with acting := false, refreshing := false, lastRef := s.time } s))) ∧
    (medRole s i = 0 → Gives (.release i n) s (namedAlarm (Pg.med i) 2 (refOnce i (setSlice i { x with refreshing := true, refPos := n } s)))) ∧
    (r.slice = i → medLives s i = true → medRole s i ≠ 1 → Gives (.trrReq r) s (stackSend i 9 r.bank r.row s))) ∧
  (∀ (F : Fuses) (s : State) (i : Nat) (t : BitVec 16), Sound F s → s.inReset = false → i < nSlices → medLives s i = true →
    let x := sliceAt s i
    let hot : Int := getF s (Pg.med i) R.MED_REFRESH 16 7
    let half := if hot * 16 < t.toInt then true else if t.toInt ≤ (hot - 3) * 16 then false else x.refHalf
    let s1 := setR (Pg.med i) R.MED_TEMP (BitVec.ofNat 32 (2 ^ 31 + t.toNat)) s
    (95 * 16 < t.toInt → x.hotSent = false → Gives (.temp i t) s (namedAlarm (Pg.med i) 6 (updSlice i (fun y => { y with hotSent := true }) (setSlice i { x with refHalf := half } s1)))) ∧
    (92 * 16 < t.toInt → (t.toInt ≤ 95 * 16 ∨ x.hotSent = true) → Gives (.temp i t) s (setSlice i { x with refHalf := half } s1)) ∧
    (t.toInt ≤ 92 * 16 → Gives (.temp i t) s (updSlice i (fun y => { y with hotSent := false }) (setSlice i { x with refHalf := half } s1))))

/-- A codeword with at most 4 bad bytes is corrected, one with 5 to 12 is an error, and rows are retired into spare rows. Rests on R552; R553;
R554; R555; R556; R657. -/
def Obligations.LinesComeBackCorrectedOrNot : Prop :=
  ∀ (s : State) (i j bad : Nat) (g : Flit) (l : Nat) (h : Home) (x : BitVec 34) (u : Bool) (r : PeerRow) (lines : BitVec 16), s.inReset = false → i < nSlices →
    let s1 := (takeStackRead i s).2
    let k := lineHome h
    ((takeStackRead i s).1 = some (g, l) → homeHeld s1 g.addr.toNat = .ok h →
      (isUe s1 k.key = false → Gives (.stackRdResponse i 0) s (peerAck i (lineFree i l
        (respondRd g (dramBytes s1 k.key 128) (lineGlaze s1 g.addr.toNat k).1 (lineGlaze s1 g.addr.toNat k).2 (homeFill i k.off s1))))) ∧
      (isUe s1 k.key = false → 4 < bad → bad ≤ 12 →
        let s2 := foundUe i (chanOf k.key) (satR (Pg.med i) R.MED_UE 1 { s1 with ueLines := s1.ueLines ++ [k.key / 128] })
        Gives (.stackRdResponse i bad) s (peerAck i (lineFree i l (respondErr g (sliceErr i 2 g.addr.toNat (rqPtn s2 g) s2))))) ∧
      (isUe s1 k.key = true →
        let s2 := foundUe i (chanOf k.key) (satR (Pg.med i) R.MED_UE 1 s1)
        Gives (.stackRdResponse i bad) s (peerAck i (lineFree i l (respondErr g (sliceErr i 2 g.addr.toNat (rqPtn s2 g) s2)))))) ∧
    ((runs s (Pg.med i) && bit (getR s (Pg.med i) R.MED_SCRUB) 31) = false → Gives (.patrolScrub i bad) s s) ∧
    (portOfSlice s i = some j → runs s (Pg.med i) = true → medRole s i ≠ 1 → bit (getR s (Pg.med i) R.MED_SCRUB) 31 = true →
      let y := (sliceAt s i).scrubAddr
      let on := stackAccess i 4 y s
      let nxt := (y + 128) % 2 ^ 34
      (sideB j = false → y < getF s (Pg.slc i) R.SLC_HOME 0 8 * 2 ^ 29 → isUe s (chanKey j y) = false → nxt ≠ 0 →
        Gives (.patrolScrub i 0) s (setR (Pg.med i) R.MED_SCRUB_POS (BitVec.ofNat 32 (nxt / 2048)) (updSlice i (fun z => { z with scrubAddr := nxt }) on)))) ∧
    (medRole s i = 1 → Gives (.scrubFix i x) s (stackAccess i 5 x.toNat (stackAccess i 4 x.toNat s))) ∧
    (medRole s i ≠ 1 → Gives (.scrubFix i x) s s) ∧
    ((medRole s i = 0 ∨ medRole s i = 2) →
      Gives (.rowReport i x true) s (retireRow i (bankOf x.toNat) (chRowOf x.toNat) s) ∧
      Gives (.rowReport i x false) s (countCe i x.toNat s)) ∧
    (medRole s i = 1 → Gives (.rowReport i x u) s s) ∧
    (r.slice = i →
      (medRole s i = 1 →
        Gives (.remapBegin r) s (peerAck i (setSlice i { sliceAt s i with remapping := some r, acked := false } s))) ∧
      (∀ q, (sliceAt s i).remapping = some q → portOfSlice s i = some j → q.bank = r.bank → q.row = r.row → medRole s i ≠ 1 →
        Does (.remapAck r lines) s (fun t => t.time = s.time ∧ t.fuses = s.fuses ∧ t.cores = s.cores)) ∧
      ((sliceAt s i).remapping = none → Gives (.remapAck r lines) s s) ∧
      (medRole s i = 1 → portOfSlice s i = some j → (∀ w ∈ (sliceAt s i).waits, ∀ f m, w ≠ .behind f m) →
        Gives (.remapDone r) s (setSlice i { sliceAt s i with remap := Tab.put (sliceAt s i).remap (rowKey r.bank r.row) r.spare, remapping := none, acked := false } s)))

/-- A keep transfer is refused, begins, moves block by block and ends as R558 to R563 say. Rests on R558; R559; R560; R561; R562; R563; R571. -/
def Obligations.KeepTransfers : Prop :=
  ∀ (s : State) (i j : Nat) (bits blk : Nat) (mask : Word) (wr : Bool) (kr : KeepRec) (t : Int) (o : KeepOp), s.inReset = false → i < nSlices → portOfSlice s i = some j →
    let pg := Pg.med i
    let n := getF s pg R.MED_KEEP_COUNT 0 18
    let share := (if sideB j then getF s (Pg.slc i) R.SLC_HOME 16 8 else getF s (Pg.slc i) R.SLC_HOME 0 8) * 131072
    let fits := n ≠ 0 ∧ getF s pg R.MED_KEEP_DRAM 0 22 + n ≤ share ∧ getF s pg R.MED_KEEP_BLOCK 0 18 + n ≤ 196608 ∧ medRole s i ≠ 1
    let job : Bool → State → State := fun ld u => keepGo i (updSlice i (fun x => { x with keep := some { load := ld, page := getF s pg R.MED_KEEP_DRAM 0 22, blk := getF s pg R.MED_KEEP_BLOCK 0 18, left := n, errs := 0, stop := false } }) u)
    let busy := bit (getR s pg R.MED_KEEP_STATUS) 31
    let rest := keepTake i false s
    let restW := keepTake i true s
    (runs s pg = false → Gives (.keepSave i) s s ∧ Gives (.keepLoad i) s s) ∧
    (runs s pg = true →
      (busy = false → fits → Gives (.keepSave i) s (job false (setR pg R.MED_KEEP_STATUS 0x80000000 s)) ∧ Gives (.keepLoad i) s (job true (setR pg R.MED_KEEP_STATUS 0x80000000 s))) ∧
      (busy = true → Gives (.keepSave i) s (setF pg R.MED_KEEP_STATUS 27 3 2 s) ∧ Gives (.keepLoad i) s (setF pg R.MED_KEEP_STATUS 27 3 2 s)) ∧
      (busy = false → n = 0 → Gives (.keepSave i) s (setF pg R.MED_KEEP_STATUS 27 4 10 s) ∧ Gives (.keepLoad i) s (setF pg R.MED_KEEP_STATUS 27 4 10 s))) ∧
    (rest.1 = some o → o.who = .own → bits ≤ 32 →
      Gives (.keepRecord i bits mask) s (keepBack i (some (breakTiles (Tab.get KeepRec.none_ s.keepRecs (keepKey j o.blk)) mask)) rest.2)) ∧
    (rest.1 = none → Gives (.keepRecord i bits mask) s s) ∧
    (restW.1 = some o → o.who = .own → Gives (.verifyStatus i true) s (keepBack i none restW.2)) ∧
    (medRole s i ≠ 1 → runs s pg = true → Gives (.keepReq i wr blk kr) s (keepIssue i j .peer (keepLogical j blk true) (if wr then some kr else none) s).2) ∧
    (∀ k, (sliceAt s i).keep = some k →
      (medRole s i = 1 → k.blk = blk + 1 → Gives (.keepData i blk kr) s (keepBack i (if k.load then some kr else none) s)) ∧
      (k.left = 0 → (∀ q ∈ (sliceAt s i).keepOps, q.who ≠ .own) →
        Gives (.keepTransferDone i) s (setR pg R.MED_KEEP_STATUS (BitVec.ofNat 32 (2 ^ 30 + (if k.stop ∨ k.errs = 0 then 1 else 3) * 2 ^ 27 + getF s pg R.MED_KEEP_STATUS 0 18))
          (setSlice i { sliceAt s i with keep := none } s))) ∧
      (k.left ≠ 0 → Gives (.keepTransferDone i) s s)) ∧
    (runs s pg = false → Gives (.ageUpdate i t) s s) ∧
    (medRole s i ≠ 1 → runs s pg = true → (poolAt s (stackOf j)).age = [] → Gives (.ageUpdate i t) s (setPool (stackOf j) (poolAt s (stackOf j)) s)) ∧
    (medRole s i ≠ 1 → runs s pg = true →
      let mine := fun (l : Nat) => decide (l / 196608 % 8 = j % 8)
      let q := poolAt s (stackOf j)
      let aged := q.age.map (fun e => if mine e.1 then (e.1, e.2 + ageHour t) else e)
      let due := (aged.filter (fun e => mine e.1 && decide (getF s pg R.MED_KEEP_AGE 0 16 * 24 * 65536 ≤ e.2))).map (·.1)
      Gives (.ageUpdate i t) s (foldS (fun l u => (keepIssue i j .rewrite l none u).2) due (setPool (stackOf j) { q with age := aged } s)))

/-- A frame that passes its CRC-32 is acted on by its kind: IDLE and ID for their ACK, DATA, CTRL and HOVR in sequence; one that fails it, or
has a KIND of 5 to 15, asks for a resend and is kept; positions on which the accepted copy differs count against their lanes. Rests on R631;
R636; R637; R638; R639; R640; R641; R642; R645; R647; R658; R662. -/
def Obligations.FramesAreTakenInSequence : Prop :=
  ∀ (F : Fuses) (s : State) (p : Nat) (f : Frame) (b : BitVec 640) (fs : List (BitVec 640)) (rx : DWord), Sound F s → s.inReset = false → p < nPorts →
    let x := portAt s p
    let took := wrapR (Pg.lst p) R.LST_FRAMES_RX 1 (setPort p { x with rx := (x.rx + 1) % 4096, nak := false, copy := none } s)
    let got := match x.copy with
      | some c => posErrs p (diffPositions (rxHalf s p) c f.bits) took
      | none => took
    let word := frameAcks p f got
    let q := groupFirst (groupOf p) + f.hport.toNat
    let marked := release1 p f.cls.toNat got
    let failed := satR (Pg.lst p) R.LST_CRC_ERRS 1 s
    (portHears s p = false → Gives (.idle p f) s s ∧ Gives (.data p f) s s ∧ Gives (ctrlRow p f) s s ∧ Gives (.hovr p f) s s ∧ Gives (.id p ⟨f, rx⟩) s s ∧
      Gives (.failedCrcFrame p b fs) s s) ∧
    (portHears s p = true →
      (groupOf p ≠ G.off → (f.bits.extractLsb' 608 32 ≠ crc32 ((List.range 76).map (fun j => f.bits.extractLsb' (8 * j) 8)) ∨ 5 ≤ (f.bits.extractLsb' 60 4).toNat) →
        Gives (.idle p f) s (failedFrame p f.bits s) ∧ Gives (.data p f) s (failedFrame p f.bits s) ∧ Gives (ctrlRow p f) s (failedFrame p f.bits s) ∧
        Gives (.hovr p f) s (failedFrame p f.bits s) ∧ Gives (.id p ⟨f, rx⟩) s (failedFrame p f.bits s)) ∧
      (groupOf p = G.off → frameBad f.bits = false →
        Gives (.idle p f) s (frameAcks p f (posErrs p (f.corr.map (· % 16)) (satR (Pg.lst p) R.LST_FEC_CORR f.corr.length s)))) ∧
      (groupOf p ≠ G.off → frameBad f.bits = false →
        Gives (.idle p f) s (frameAcks p f s) ∧
        (f.idRec rx = none → Gives (.id p ⟨f, rx⟩) s (frameAcks p f s)) ∧
        (∀ r, f.idRec rx = some r → Gives (.id p ⟨f, rx⟩) s (idRecord p r (frameAcks p f s))) ∧
        (f.seq.toNat ≠ x.rx → Gives (.data p f) s (frameAcks p f s) ∧ Gives (ctrlRow p f) s (frameAcks p f s) ∧ Gives (.hovr p f) s (frameAcks p f s)) ∧
        (f.seq.toNat = x.rx →
          Gives (.data p f) s (frameAcks p f marked) ∧
          (f.ctrlOp = 1 → Gives (ctrlRow p f) s (swapReqOp p f.ctrlArg.toNat word)) ∧ (f.ctrlOp = 2 → Gives (ctrlRow p f) s (swapOp p f.ctrlArg.toNat word)) ∧
          (f.ctrlOp = 3 → Gives (ctrlRow p f) s (halfReqOp p f.ctrlArg.toNat word)) ∧ (f.ctrlOp = 4 → Gives (ctrlRow p f) s (halfOp p f.ctrlArg.toNat word)) ∧
          (f.ctrlOp = 5 → Gives (ctrlRow p f) s (retireWordOp p f.ctrlArg.toNat f.ctrlSeq.toNat word)) ∧
          (f.ctrlOp = 6 → Gives (ctrlRow p f) s (offlineOp p f.ctrlArg.toNat word)) ∧ (f.ctrlOp = 7 → Gives (ctrlRow p f) s (onlineOp p f.ctrlArg.toNat word)) ∧
          (f.ctrlOp = 0 ∨ 8 ≤ f.ctrlOp.toNat → Gives (ctrlRow p f) s word) ∧
          (groupSize (groupOf p) ≤ f.hport.toNat → Gives (.hovr p f) s (frameAcks p f marked)) ∧
          (f.hport.toNat < groupSize (groupOf p) → f.hseq.toNat = (portAt marked q).hseq →
            Gives (.hovr p f) s (frameAcks p f (updPort q (fun y => { y with hseq := (y.hseq + 1) % 4096 }) marked))))) ∧
      (f.nak = false →
        let acked := setPort p { x with buf := x.buf.filter (fun e => decide (0 ≤ seqDiff e.1 f.ack.toNat)), credit := x.credit.set f.cclass.toNat (nth4 x.credit f.cclass.toNat + (f.credits.toNat + 256 - nth4 x.lastCount f.cclass.toNat % 256) % 256), lastCount := x.lastCount.set f.cclass.toNat f.credits.toNat, memAck := x.memAck + (x.buf.filter (fun e => decide (seqDiff e.1 f.ack.toNat < 0) && decide (e.2.1 = 0))).length } s
        (x.queue = [] → (grpAt s (groupOf p)).drain = false → (4 ≤ groupOf p ∨ sliceOfPort s p = none) → frameAcks p f s = acked) ∧
        (∀ i, groupOf p < 4 → sliceOfPort s p = some i → frameAcks p f s = drainCheck (groupOf p) (portFlush p (peerAck i (stackAcks i acked))))) ∧
      (∀ i g l m, portOfSlice s i = some p → (sliceAt s i).waits = [.stackWrite g l m] →
        (m ≤ x.memAck → stackAcks i s = respondWack g (updSlice i (fun y => { y with waits := [] }) s)) ∧ (x.memAck < m → stackAcks i s = s)) ∧
      (frameKind b = 0 ∨ frameKind b = 3 → Gives (.failedCrcFrame p b []) s failed) ∧
      (frameKind b ≠ 0 → frameKind b ≠ 3 → Gives (.failedCrcFrame p b []) s (setPort p { x with nak := true, copy := x.copy.or (some b) } failed)) ∧
      (groupOf p = G.off → fs.length = 7 → Gives (.failedCrcFrame p b fs) s (foldS (failedFrame p) (b :: fs) (satR (Pg.lst p) R.LST_FEC_UNCORR 1 s))))

/-- A failed lane takes a spare, then half width, as R664 to R667 say; SWAP and HALF follow the sender. Rests on R664; R665; R666; R667; R684. -/
def Obligations.LanesDegradeByStages : Prop :=
  ∀ (F : Fuses) (s : State) (p lane : Nat) (a : BitVec 8) (seq : BitVec 12), Sound F s → s.inReset = false → p < nPorts →
    let pg := Pg.lnk p
    (portLive s p = true → a.toNat / 16 < 2 → Gives (.swap p a seq) s (useSpare p false (a.toNat / 16) (a.toNat % 16) s)) ∧
    (2 ≤ a.toNat / 16 → Gives (.swap p a seq) s s) ∧
    (portLive s p = true → Gives (.half p a seq) s (setF pg R.LNK_STATUS 21 1 (a.toNat % 2) s)) ∧
    (portLive s p = true → stageOf s p true < 3 →
      let t := setF pg R.LNK_STATUS 20 1 (a.toNat % 2) s
      let l := laneOf t p true ((((List.range 16).filter (fun q => decide (q / 8 ≠ a.toNat % 2) && !bit (getR t pg R.LNK_TX_FAILED) (laneOf t p true q))).head?).getD 0)
      Gives (.halfreq p a) s (ctrlSend p 4 (a.toNat % 2) (portAt (stageTo p true 3 l t) p).tx (stageTo p true 3 l t)) ∧
      stageTo p true 3 l t = setDegraded pg true (namedAlarm pg 2 (firstR pg R.LNK_STAGE_LOG (2 ^ 30 + 3 * 2 ^ 27 + l * 2 ^ 22) (setF pg R.LNK_STATUS 23 3 3 t)))) ∧
    (3 ≤ stageOf s p true → Gives (.halfreq p a) s s) ∧
    (a.toNat < 16 → bit (getR s pg R.LNK_TX_FAILED) (laneOf s p true a.toNat) = true → Gives (.swapreq p a) s s) ∧
    (16 ≤ a.toNat ∨ portLive s p = false → Gives (.swapreq p a) s s) ∧
    (portLive s p = true → a.toNat < 16 →
      let l := laneOf s p true a.toNat
      let m := setR pg R.LNK_TX_FAILED (setBit (getR s pg R.LNK_TX_FAILED) l true) s
      let n := stageOf s p true
      let t := stageTo p true (n + 1) l m
      bit (getR s pg R.LNK_TX_FAILED) l = false →
        (∀ k, n < 2 → freeSpare t p true = some k → Gives (.swapreq p a) s (ctrlSend p 2 (16 * k + a.toNat) (portAt t p).tx (useSpare p true k a.toNat t))) ∧
        (n < 2 → freeSpare t p true = none → Gives (.swapreq p a) s t)) ∧
    (bit (getR s pg R.LNK_RX_FAILED) lane = true → Gives (.laneLockLoss p lane) s s) ∧
    (18 ≤ lane ∨ portHears s p = false → Gives (.laneLockLoss p lane) s s) ∧
    (portHears s p = true → lane < 18 → bit (getR s pg R.LNK_RX_FAILED) lane = false →
      let m := setR pg R.LNK_RX_FAILED (setBit (getR s pg R.LNK_RX_FAILED) lane true) s
      let n := stageOf s p false
      (n = 4 → Gives (.laneLockLoss p lane) s m) ∧
      (∀ k, n < 2 → posOf s p false lane = some k → Gives (.laneLockLoss p lane) s (ctrlSend p 1 k 0 (stageTo p false (n + 1) lane m))) ∧
      (n < 2 → posOf s p false lane = none → Gives (.laneLockLoss p lane) s (stageTo p false (n + 1) lane m)) ∧
      (∀ k, n = 2 → posOf s p false lane = some k →
        let t := stageTo p false 3 lane (setF pg R.LNK_STATUS 21 1 (if k < 8 then 1 else 0) m)
        Gives (.laneLockLoss p lane) s (ctrlSend p 3 (halfOf t p false) 0 t))) ∧
    Does (.laneWindow p) s (fun t => ∃ r, t = { s with regs := r } ∧
      (∀ k, k < 18 → getF t (Pg.lst p) (R.LST_LANE_ERR0 + 4 * k) 16 16 = 0 ∧
        getF t (Pg.lst p) (R.LST_LANE_ERR0 + 4 * k) 0 16 = getF s (Pg.lst p) (R.LST_LANE_ERR0 + 4 * k) 0 16) ∧
      (∀ key, (∀ k, k < 18 → key ≠ regKey (Pg.lst p) (R.LST_LANE_ERR0 + 4 * k)) → Tab.find r key = Tab.find s.regs key))

/-- Resends, retraining, handover, OFFLINE and ONLINE, remaps, lost ports and drains act as R641 to R680 say. Rests on R641; R643; R661; R662;
R663; R669; R671; R680. -/
def Obligations.PortsLeaveAndRejoin : Prop :=
  ∀ (s : State) (p g : Nat) (idx : BitVec 8) (e : BitVec 12) (v : Word), s.inReset = false → p < nPorts → g < nGroups →
    let q := groupFirst (groupOf p) + idx.toNat
    let off := updPort q (fun x => { x with farOff := true }) s
    let onl := updPort q (fun x => { x with farOff := false }) s
    ((portAt s p).buf = [] → Gives (.ackTimeout p) s s) ∧
    (∀ b l, (portAt s p).buf = b :: l → portHears s p = true → Gives (.ackTimeout p) s (resendFrom p b.1 s)) ∧
    (v.toNat % 2 = 0 → Gives (.retrain p v) s s) ∧
    (v.toNat % 2 = 1 → runs s (Pg.lnk p) = true → lstate s p ≠ LS.train →
      Gives (.retrain p v) s (leaveSet p (updPort p (fun x => { x with retraining := true, restore := bit v 1 || x.restore })
        (namedAlarm (Pg.lnk p) 4 (satR (Pg.lnk p) R.LNK_RETRAINS 1 s))))) ∧
    (groupSize (groupOf p) ≤ idx.toNat → Gives (.offline p idx) s s ∧ Gives (.online p idx) s s ∧ Gives (.ctrlRetire p idx e) s s) ∧
    (q = p ∨ groupOf p < 4 → Gives (.ctrlRetire p idx e) s s) ∧
    (idx.toNat < groupSize (groupOf p) → q ≠ p → 4 ≤ groupOf p → (grpAt s (groupOf p)).remap.contains (q, false) = true →
      let t := updPort q (fun x => { x with hseq := x.rx }) s
      let b := (portAt t q).buf.filter (fun w => decide (0 ≤ seqDiff w.1 e.toNat) && decide (w.2.1 < 4))
      Gives (.ctrlRetire p idx e) s (foldS (fun w u => portSend p (8 + w.2.1) (send (.hovr q p w.1) u)) b (setPort q { portAt t q with buf := [] } t))) ∧
    (idx.toNat < groupSize (groupOf p) →
      (portLive s q = true → Gives (.offline p idx) s (leaveSet q off)) ∧ (portLive s q = false → Gives (.offline p idx) s s) ∧
      (runs onl (Pg.lnk q) = true → lstate onl q = LS.offline → Gives (.online p idx) s (joinSet q (setLstate q LS.up onl))) ∧
      (runs onl (Pg.lnk q) = true → lstate onl q = LS.up → Gives (.online p idx) s (joinSet q onl)) ∧
      (runs onl (Pg.lnk q) = false → Gives (.online p idx) s onl)) ∧
    ((grpAt s g).remap = [] → Gives (.remapResume g) s s) ∧
    ((grpAt s g).remap ≠ [] → (∃ k ∈ portsIn s g, (portAt s k).buf ≠ []) → Gives (.remapResume g) s s) ∧
    ((∀ k ∈ portsIn s g, (portAt s k).buf = [] ∧ ∀ w ∈ (portAt s k).queue, w < 8) →
      let open_ := setGrp g { grpAt s g with remap := [] } s
      (∀ k, (grpAt s g).remap = [(k, true)] →
        let t := setService k true open_
        Gives (.remapResume g) s (foldS portFlush (portsIn t g) t)) ∧
      (∀ k, (grpAt s g).remap = [(k, false)] →
        let t := afterLeave k (setService k false open_)
        let u := updPort k (fun x => { x with queue := [] }) t
        let v := match portsIn u g with
          | [] => u
          | h :: _ => foldS (portSend h) ((portAt t k).queue.filter (· < 4)) u
        Gives (.remapResume g) s (foldS portFlush (portsIn v g) v))) ∧
    (portHears s p = true → (portsIn s (groupOf p)).contains p = false →
      Gives (.linkDown p) s (updPort p (fun x => { x with failSince := some s.time, ids := 0, delays := [], lastId := none })
        (namedAlarm (Pg.lnk p) 5 (setLstate p LS.down s)))) ∧
    (lstate s p < LS.id → Gives (.linkDown p) s s) ∧
    ((grpAt s g).drain = false → Gives (.drainTimeout g) s s) ∧
    ((grpAt s g).drain = true →
      let n := ((groupPorts g).map (fun k => (portAt s k).buf.length)).foldl (· + ·) 0
      let t := foldS (fun k => updPort k (fun x => { x with buf := [], queue := [], memAck := x.memPut })) (groupPorts g) s
      Gives (.drainTimeout g) s (satR (Pg.lkg g) R.LKG_DRAIN_LOST n (setGrp g { grpAt t g with drain := false } t)))

/-- Training goes on to ID or fails, ID frames are sent and answered, and ASSIGN gives the die its numbers once. Rests on R660; R674; R675;
R677; R679; R683. -/
def Obligations.TrainingAndDiscovery : Prop :=
  ∀ (F : Fuses) (s : State) (p : Nat) (v : BitVec 8) (t rx : DWord) (f : Frame) (r : IdRec) (die base : BitVec 12) (cnt pos : BitVec 4), Sound F s → s.inReset = false → p < nPorts →
    let pg := Pg.lnk p
    let down := setLstate p LS.down (updPort p (fun x => { x with failSince := some (x.failSince.getD s.time), ids := 0, delays := [], lastId := none }) s)
    (runs s pg = false → Gives (.trainDone p 0 false true v) s s ∧ Gives (.trainRetry p) s s ∧ Gives (.trainLimit p) s s ∧ Gives (.idSend p t) s s ∧ idRecord p r s = s) ∧
    (runs s pg = true →
      (lstate s p = LS.train → Gives (.trainDone p 0 false false v) s down ∧ (v.toNat % 4 = 0 → Gives (.trainDone p 0 false true v) s down) ∧
        (v.toNat % 4 ≠ 0 → (portAt s p).restore = false →
          Does (.trainDone p 0 false true v) s (fun u => lstate u p = LS.id ∧ getF u pg R.LNK_STATUS 17 2 = commonVersion v.toNat ∧ u.dram = s.dram ∧ u.outbox = s.outbox))) ∧
      (lstate s p = LS.down → Gives (.trainRetry p) s (setLstate p LS.train s)) ∧ (lstate s p ≠ LS.down → Gives (.trainRetry p) s s) ∧
      ((portAt s p).failSince ≠ none → Gives (.trainLimit p) s (fault pg 10 s)) ∧ ((portAt s p).failSince = none → Gives (.trainLimit p) s s) ∧
      (lstate s p = LS.id → Gives (.idSend p t) s (idOut p t s)) ∧ (lstate s p ≠ LS.id → Gives (.idSend p t) s s) ∧
      (lstate s p < LS.id → idRecord p r s = s) ∧
      (r.versions.toNat % 4 = 0 → lstate s p = LS.id → idRecord p r s = down) ∧
      (r.versions.toNat % 4 = 0 → LS.id < lstate s p → idRecord p r s = s) ∧
      (r.versions.toNat % 4 ≠ 0 → lstate s p = LS.up → dieValid s = false →
        let u := idRecord p r s
        (portAt u p).farPos = some r ∧ getF u pg R.LNK_STATUS 17 2 = commonVersion r.versions.toNat ∧ u.dram = s.dram)) ∧
    (portHears s p = true → groupOf p ≠ G.off → frameBad f.bits = false →
      (f.bits.extractLsb' 64 16 = 1 →
        let w := f.bits
        let r' : IdRec := { kind := w.extractLsb' 80 8, versions := w.extractLsb' 88 8, valid := w.getLsbD 111, die := w.extractLsb' 96 12, portByte := w.extractLsb' 112 8, group := w.extractLsb' 120 8, base := w.extractLsb' 128 12, pos := w.extractLsb' 144 4, count := w.extractLsb' 148 4, txTime := w.extractLsb' 192 64, echo := w.extractLsb' 256 64, echoHold := w.extractLsb' 320 64, uid := w.extractLsb' 384 128, rxTime := rx }
        Gives (.id p ⟨f, rx⟩) s (idRecord p r' (frameAcks p f s))) ∧
      (f.bits.extractLsb' 64 16 ≠ 1 → Gives (.id p ⟨f, rx⟩) s (frameAcks p f s))) ∧
    (dieValid s = false → (∀ k, k < nPorts → (portAt s k).farPos = none) → Does (.assign die base cnt pos) s (fun u => dieValid u = true ∧ dieNum u = die.toNat ∧ pkgBase u = base.toNat ∧ pkgCount u = cnt.toNat ∧ pkgPos u = pos.toNat ∧ u.dram = s.dram)) ∧
    (dieValid s = true →
      (dieNum s = die.toNat → pkgBase s = base.toNat → pkgCount s = cnt.toNat → pkgPos s = pos.toNat → Gives (.assign die base cnt pos) s s) ∧
      (dieNum s ≠ die.toNat → Gives (.assign die base cnt pos) s (lkgDiscard G.io 5 die.toNat s)))

/-- A forwarded message goes out on its route with one hop less, or is discarded with its reason; flits go to their endpoint. Rests on R439;
R649; R650; R654; R655; R671; R672; R677. -/
def Obligations.MessagesThatCrossTheChiplet : Prop :=
  ∀ (s : State) (g : Nat) (m hops : BitVec 4) (dd sd : BitVec 12) (cls : BitVec 2) (body : List Byte) (f : Flit), s.inReset = false → g < nGroups →
    let h := linkFlit g f
    let fwd : Instr := .messageForward g m dd sd hops cls body
    let known := classOf m.toNat = some cls.toNat
    (¬ known → Gives fwd s (lkgDiscard g 3 dd.toNat s)) ∧
    (known → g = G.off → Gives fwd s (lkgDiscard g 4 dd.toNat s)) ∧
    (known → g ≠ G.off → hops = 0 → Gives fwd s (lkgDiscard g 2 dd.toNat s)) ∧
    (known → g ≠ G.off → hops ≠ 0 →
      (route s dd.toNat = none ∨ dd.toNat ∈ s.unreach → Gives fwd s (lkgDiscard g 1 dd.toNat s)) ∧
      (∀ r, route s dd.toNat = some r → dd.toNat ∉ s.unreach → r = g → Gives fwd s (lkgDiscard g 2 dd.toNat s)) ∧
      (∀ r, route s dd.toNat = some r → dd.toNat ∉ s.unreach → r ≠ g →
        Gives fwd s (groupPost r (fwdHash m.toNat dd.toNat sd.toNat body) cls.toNat (body.length / 8)
          (.forward r m.toNat dd.toNat sd.toNat (hops.toNat - 1) cls.toNat body) (wrapR (Pg.lkg r) R.LKG_RELAYED 1 s)))) ∧
    ((f.typ = 0 ∨ f.typ = 1) → Gives (.flit g f) s (settleUnits (reqFlit h s))) ∧ (f.typ = 2 → Gives (.flit g f) s (settleUnits (rdataOp h s))) ∧
    (f.typ = 3 → Gives (.flit g f) s (settleUnits (wackOp h s))) ∧ (f.typ = 4 → g = G.io → Gives (.flit g f) s (settleUnits (mcFromIo h s))) ∧
    (f.typ = 4 → g ≠ G.io → Gives (.flit g f) s (settleUnits (lkgDiscard g 3 (dieNum s) s))) ∧
    (f.typ = 5 → Gives (.flit g f) s (settleUnits (mcrepOp h s))) ∧ ((f.typ = 6 ∨ f.typ = 8) → Gives (.flit g f) s (settleUnits (redOp h g s))) ∧
    (f.typ = 7 → Gives (.flit g f) s (settleUnits (rackOp h s))) ∧ (9 ≤ f.typ.toNat → Gives (.flit g f) s (settleUnits (lkgDiscard g 3 (dieNum s) s))) ∧
    (f.typ = 9 → Gives (.cflit g f) s (invOp h s)) ∧ (f.typ = 10 → Gives (.cflit g f) s (iackOp h s)) ∧
    (f.typ ≠ 9 → f.typ ≠ 10 → Gives (.cflit g f) s (lkgDiscard g 3 (dieNum s) s)) ∧
    ((route s dd.toNat).isSome = true → Gives (.dieUp dd) s { s with unreach := s.unreach.filter (· ≠ dd.toNat) }) ∧
    (route s dd.toNat = none → Gives (.dieUp dd) s s) ∧
    (dd.toNat ∈ s.unreach → Gives (.dieDown dd) s (checkRoutes s)) ∧
    (dd.toNat ∉ s.unreach → (dieValid s = true → dieNum s ≠ dd.toNat) →
      let t := send (.dieLost dd.toNat) (namedAlarm (Pg.lkg (routeFirst s dd.toNat)) 1 { s with unreach := s.unreach ++ [dd.toNat] })
      let u := barsLost dd.toNat (ringsLost dd.toNat (lvnDieLost dd.toNat (memoryLost dd.toNat t)))
      Gives (.dieDown dd) s (checkRoutes (if twnPeer u = dd.toNat then twinLost u else u)))

/-- BOOT, self-tests, the repair record and the substitution of a site act as R689 to R710 say. Rests on R77; R689; R691; R694; R701; R703;
R704; R705; R706; R709; R710; R712. -/
def Obligations.BringUpRecordAndSubstitution : Prop :=
  (∀ (s : State) (ms : BitVec 10) (pg : Nat) (rows : Word) (cols : BitVec 36) (b rd : Bool) (bytes : List Byte), s.inReset = false →
    let a := s.alm
    let seen := if b then a.readB else a.readA
    let booted : State := { s with alm := { a with booted := true } }
    let copy := if rd then recParse s bytes else none
    let noted : Alm := if b then { a with readB := if copy.isSome then 2 else 1, seqB := (copy.getD (0, [])).1, entB := (copy.getD (0, [])).2 }
      else { a with readA := if copy.isSome then 2 else 1, seqA := (copy.getD (0, [])).1, entA := (copy.getD (0, [])).2 }
    (dieValid s = true → a.booted = false →
      Gives (.boot 0) s booted ∧ (ms ≠ 0 → Gives (.boot ms) s (setR Pg.glb R.GLB_CMD_TIMEOUT (ms.zeroExtend 32) booted))) ∧
    (dieValid s = false ∨ a.booted = true → Gives (.boot ms) s s) ∧
    ((pageBlk pg).isSome = true → inSelftest s pg = false → Gives (.selftestDone pg true rows cols) s s ∧ Gives (.selftestDone pg false rows cols) s s) ∧
    (∀ b i, pageBlk pg = some (b, i) → b ≠ .cch → b ≠ .mxa → inSelftest s pg = true → a.booted = true → a.retest = [] → siteOfPage pg = none → pg ≠ Pg.netb →
      Gives (.selftestDone pg true rows cols) s (decide_ (pageSettle pg { s with alm := { a with retest := [] } })) ∧
      Gives (.selftestDone pg false rows cols) s (decide_ (releaseHeld pg (fault pg 0 { s with alm := { a with retest := [] } })))) ∧
    (a.booted = true → seen = 0 → medOfGroup s 0 = true → medOfGroup s 2 = true → Gives (.repairRecordRead b rd bytes) s (recChoose { s with alm := noted })) ∧
    (a.booted = false ∨ seen ≠ 0 ∨ medOfGroup s 0 = false ∨ medOfGroup s 2 = false → Gives (.repairRecordRead b rd bytes) s s) ∧
    (a.booted = true → Gives .recordTimeout s (recChoose { s with alm := { a with readA := Nat.max 1 a.readA, readB := Nat.max 1 a.readB } })) ∧
    (a.booted = false → Gives .recordTimeout s s) ∧
    (a.recDone = true → Gives .recClear s (let t := setF Pg.alm R.ALM_STATUS 28 1 0 s; recWrite { t with alm := { t.alm with entries := [] } })) ∧
    (a.recDone = false → Gives .recClear s s)) ∧
  (∀ (s : State) (v : Word) (n : Nat), s.inReset = false →
    let k := v.toNat % 128
    let h := homeSite s k
    let row := rowOf h
    (v.toNat < 2 ^ 31 → Gives (.almSubst v) s s) ∧
    (2 ^ 31 ≤ v.toNat →
      (s.alm.subst.isSome = true → Gives (.almSubst v) s (ignoredCmd Pg.alm s)) ∧
      (s.alm.subst = none →
        (120 ≤ k ∨ runs s Pg.alm = false ∨ bstate s (Pg.cor h) ≠ B.retired → Gives (.almSubst v) s (substResult false true 2 k s)) ∧
        (k < 120 → runs s Pg.alm = true → bstate s (Pg.cor h) = B.retired →
          ((rowFixed s row && reserveFree s row) = false → Gives (.almSubst v) s (substResult false true 3 k s)) ∧
          ((rowFixed s row && reserveFree s row) = true →
            let t := foldS (fun pg u => testAgain pg (setBState pg B.starting u)) (sitePages (reserveOf row)) (sitePower (reserveOf row) s)
            Gives (.almSubst v) s (substResult true false 0 k { t with alm := { t.alm with subst := some k } }))))) ∧
    (s.alm.subst ≠ some n → Gives (.substDone n true) s s ∧ Gives (.substDone n false) s s) ∧
    (s.alm.subst = some n →
      let r := reserveOf (rowOf (homeSite s n))
      Gives (.substDone n false) s (substResult false true 4 n (siteRetire r (setFamilyBit Pg.alm R.ALM_ST_SITE0 r false { s with alm := { s.alm with subst := none } }))) ∧
      (let h := homeSite s n
        let t := foldS (fun pg u => setReady pg true (setBState pg B.stopped u)) (sitePages r) { s with alm := { s.alm with subst := none } }
        let u := reservePages r (kindOfSite h) { t with standIn := Tab.put t.standIn (rowOf h) h }
        Gives (.substDone n true) s (ptnsDegraded (almChange (substResult false true 1 n (setFamilyBit Pg.alm R.ALM_USED0 r true u)))))))

/-- A firmware load, its manifest check and its hashes, and attestation, act as R715 to R719 and R808 to R819 say. Rests on R715; R716; R717;
R718; R808; R810; R812; R813; R815; R816; R817; R818. -/
def Obligations.FirmwareManifestsAndAttestation : Prop :=
  (∀ (s : State) (v : Word) (i : BitVec 9) (row : Nat), s.inReset = false → row < 12 →
    let a := s.alm
    let go := v.toNat % 2 = 1
    (¬ go → Gives (.almFwCmd v) s s) ∧
    (go → runs s Pg.alm = false → Gives (.almFwCmd v) s (ignoredCmd Pg.alm s)) ∧
    (go → runs s Pg.alm = true → a.fw.isSome = true → Gives (.almFwCmd v) s (setF Pg.alm R.ALM_FW_STATUS 27 3 2 s)) ∧
    (go → runs s Pg.alm = true → a.fw = none → runs s Pg.sec = false → Does (.almFwCmd v) s (fun t => t.alm.fw = none ∧ t.dram = s.dram ∧ t.cores = s.cores)) ∧
    (go → runs s Pg.alm = true → a.fw = none → runs s Pg.sec = true →
      let t := foldS (fun k u => setR Pg.alm (R.ALM_FW_UNICAST0 + 4 * k) 0 (setR Pg.alm (R.ALM_FW_FAIL0 + 4 * k) 0 u)) (List.range 4) s
      let u := setR Pg.alm R.ALM_FW_STATUS 0x80000000 t
      let job : FwJob := { wait := getF u Pg.alm R.ALM_FW_PUSH_WAIT 0 20, pushed := [], accepted := false, ents := [], log := 0, cores := [] }
      let x := unitOpen manUnit 0 { u with alm := { u.alm with fw := some job } }
      Gives (.almFwCmd v) s (manSettle (manSettle (unitRead manUnit unitEp 0 (getQ x Pg.alm R.ALM_FW_MAN_LO).toNat 64 x)))) ∧
    (unitJob s manUnit = none → Gives .manifestCheck s s) ∧
    (∀ j, unitJob s manUnit = some j → j.stage = 2 →
      let r := manifestCheck s j.buf
      let t := firstR Pg.sec R.SEC_MAN_ERR (r * 2 ^ 24) (satR Pg.sec R.SEC_MAN_REFUSED 1 s)
      (runs s Pg.sec = false → Gives .manifestCheck s (fwRefuse 3 s)) ∧
      (runs s Pg.sec = true → r ≠ 0 → r ≠ 6 → Gives .manifestCheck s (fwRefuse 3 t)) ∧
      (runs s Pg.sec = true → r = 6 → Gives .manifestCheck s (fwRefuse 3 (setF Pg.sec R.SEC_STATUS 28 1 1 t))) ∧
      (runs s Pg.sec = true → r = 0 →
        let d := Config.sha384 (Tab.slice 0 j.buf 0 (0x40 + 80 * manCount j.buf))
        let n := (logPlace s d).getD 0
        let u := wrapR Pg.sec R.SEC_MAN_ACCEPTED 1 (logPut n (tabNum j.buf 8 8) d s)
        (manifestOk u j.buf = false → Gives .manifestCheck s (fwRefuse 4 u)) ∧
        (manifestOk u j.buf = true → Gives .manifestCheck s (fwBegin ((List.range (manCount j.buf)).map (manEntry j.buf)) n u)))) ∧
    (a.fw = none → Gives (.pushDone i) s s ∧ Gives .pushWaitTimeout s s ∧ Gives (.hash row) s s) ∧
    (∀ w, a.fw = some w →
      let ready := fun (x : FwCore) (ok : FwCore → Bool) => if ok x then { x with phase := 1 } else x
      Gives (.pushDone i) s { s with alm := { a with fw := some { w with pushed := if w.pushed.contains i.toNat then w.pushed else w.pushed ++ [i.toNat], cores := w.cores.map (fun x => ready x (fun y => decide (y.phase = 0) && decide (y.entry = i.toNat))) } } } ∧
      Gives .pushWaitTimeout s { s with alm := { a with fw := some { w with cores := w.cores.map (fun x => ready x (fun y => decide (y.phase = 0))) } } } ∧
      (∀ x c e, w.cores = [x] → siteOf s x.n = some c → rowOf c = row → w.ents[x.entry]? = some e →
        (x.phase = 1 ∨ x.phase = 3 → sliceGood s c e = true → Gives (.hash row) s (fwFinish (fwLoaded x.n e w.log s))) ∧
        (x.phase = 3 → sliceGood s c e = false → Gives (.hash row) s (fwFinish (fwFail x.n s))) ∧
        (x.phase = 1 → sliceGood s c e = false → Gives (.hash row) s (fetchSettle c
          (unitRead (sliceUnit c) c 0 e.src e.size (unitOpen (sliceUnit c) 0 (setFamilyBit Pg.alm R.ALM_FW_UNICAST0 x.n true (fwPhase x.n 2 s)))))) ∧
        (x.phase = 0 ∨ x.phase = 2 → Gives (.hash row) s s)))) ∧
  (∀ (s : State) (body : List Byte) (j : UnitJob), s.inReset = false →
    let pg := Pg.sec
    let busy := bit (getR s pg R.SEC_ATT_STATUS) 31
    (runs s pg = false ∨ busy = true → Gives .attest s (ignoredCmd pg s)) ∧
    (runs s pg = true → busy = false →
      (bit (getR s pg R.SEC_STATUS) 31 = false → Gives .attest s (attResult false true 2 s)) ∧
      (bit (getR s pg R.SEC_STATUS) 31 = true → Does .attest s (fun t => t.report = some (reportBody s) ∧ t.dram = s.dram ∧ t.cores = s.cores ∧ t.time = s.time))) ∧
    (s.report = none → Gives .attestDone s s) ∧
    (s.report = some body → unitJob s secUnit = some j →
      let at_ := tabNum j.buf 0 8
      let sg := Config.sign (Config.sha384 body)
      let t := updUnit secUnit (fun k => { k with stage := 1 }) { s with report := none }
      (attAddrOk t at_ = true →
        Gives .attestDone s (attSettle (unitWrite secUnit unitEp at_ (body ++ (bytesOf 48 sg.1.toNat).reverse ++ (bytesOf 48 sg.2.toNat).reverse) t))) ∧
      (attAddrOk t at_ = false → Gives .attestDone s (attSettle (unitFail secUnit t)))))

/-- Plans, slews, samples, droop, telemetry and a REFCLK loss act as R763 to R786 say. Rests on R767; R769; R770; R778; R779; R763; R765; R771;
R772; R775; R781; R783. -/
def Obligations.PowerPlansGovernorAndTelemetry : Prop :=
  (∀ (s : State) (b : DWord) (h : Bool), s.inReset = false →
    let w := s.pwr
    let serial := BitVec.ofNat 16 (b.toNat / 2 ^ 48 % 2 ^ 16)
    let older := ∃ l, w.serial = some l ∧ signedOf 16 (serial - l).toNat ≤ 0
    let mhz := fun (v : Nat) (south : Bool) => if v = 0 then (slewOf s south).getD (halfMhz s south) else Nat.max 400 (Nat.min (v / 25 * 25) (maxMhz s))
    let t := trace 4 Pg.pwr (setF Pg.pwr R.PWR_STATUS 31 1 1 (setQ Pg.pwr R.PWR_PLAN_LO b
      { s with pwr := { w with serial := some serial, tgtN := mhz (b.toNat / 2 ^ 12 % 2 ^ 12) false, tgtS := mhz (b.toNat / 2 ^ 24 % 2 ^ 12) true } }))
    (older → Gives (.plan b) s (satR Pg.pwr R.PWR_PLAN_STALE 1 s)) ∧
    (¬ older →
      (changeWanted t = false ∨ changesHeld t = false → Gives (.plan b) s (applyTargets t)) ∧
      (changeWanted t = true → changesHeld t = true →
        (bit (getR t Pg.pwr R.PWR_STATUS) 30 = true → Gives (.plan b) s t) ∧
        (bit (getR t Pg.pwr R.PWR_STATUS) 30 = false → Gives (.plan b) s (namedAlarm Pg.pwr 5 (setF Pg.pwr R.PWR_STATUS 30 1 1 t))))) ∧
    (slewOf s h = none → Gives (.slewDone h) s s) ∧
    (∀ v, w.slewS = some v → Gives (.slewDone true) s
      (clockGo (let u := setF Pg.pwr R.PWR_CCLK 16 12 v s; { u with pwr := { w with slewS := none } }))) ∧
    (∀ v, w.slewN = some v → Gives (.slewDone false) s
      (clockGo (let u := setF Pg.pwr R.PWR_CCLK 0 12 v s; { u with pwr := { w with slewN := none } }))) ∧
    (bit (getR s Pg.pwr R.PWR_STATUS) 30 = true → changesHeld s = false → Gives .heldChangeApply s (applyTargets s)) ∧
    (bit (getR s Pg.pwr R.PWR_STATUS) 30 = false ∨ changesHeld s = true → Gives .heldChangeApply s s)) ∧
  (∀ (F : Fuses) (s : State) (p16 mean : Nat) (room : Bool), Sound F s → s.inReset = false →
    let t := setR Pg.pwr R.PWR_POWER (BitVec.ofNat 32 mean) s
    let l := powerLimit t
    let w := s.pwr
    (16 * l < mean → capDuty t = 15 →
      (w.overL < 9 ∨ w.limitSent = true → Gives (.governorInterval mean) s { t with pwr := { w with overL := w.overL + 1 } }) ∧
      (9 ≤ w.overL → w.limitSent = false → Gives (.governorInterval mean) s (namedAlarm Pg.pwr 4 { t with pwr := { w with overL := w.overL + 1, limitSent := true } }))) ∧
    (mean ≤ 16 * l ∨ capDuty t ≠ 15 →
      let u : State := { t with pwr := { w with overL := 0, limitSent := false } }
      (95 * 16 * l ≤ mean * 100 → Gives (.governorInterval mean) s u) ∧
      (mean * 100 < 95 * 16 * l → Gives (.governorInterval mean) s (setDuties (capDuty u - 1) (thermDuty u) u))) ∧
    (p16 ≤ 16 * powerLimit s → Does (.powerSample [] p16) s (fun u => u.pwr = { w with railsBad := [] } ∧ u.outbox = s.outbox ∧ u.dram = s.dram)) ∧
    Gives (.thermalSample []) s s ∧
    (∀ x : BitVec 16, x.toInt < 1840 →
      let m := setR Pg.pwr R.PWR_TEMP_MAX (BitVec.ofNat 32 x.toNat) (setF Pg.pwr R.PWR_TEMP0 0 16 x.toNat s)
      let hot : Int := 16 * (getF m Pg.pwr R.PWR_THERM 0 7 : Nat)
      let calm := setF Pg.pwr R.PWR_STATUS 28 1 0 m
      let above := setF Pg.pwr R.PWR_STATUS 28 1 1 m
      let cooler := setDuties (capDuty calm) (thermDuty calm - 1) { calm with pwr := { calm.pwr with hotArmed := true } }
      let slower := noteSlow (setDuties (capDuty above) (Nat.min 15 (thermDuty above + 1)) above)
      let told := namedAlarm Pg.pwr 1 { slower with pwr := { slower.pwr with hotArmed := false } }
      (hot - 48 < x.toInt → x.toInt ≤ hot → Gives (.thermalSample [x]) s { calm with pwr := { calm.pwr with sensorsBad := [] } }) ∧
      (x.toInt ≤ hot - 48 → Gives (.thermalSample [x]) s { cooler with pwr := { cooler.pwr with sensorsBad := [] } }) ∧
      (hot < x.toInt → slower.pwr.hotArmed = false → Gives (.thermalSample [x]) s { slower with pwr := { slower.pwr with sensorsBad := [] } }) ∧
      (hot < x.toInt → slower.pwr.hotArmed = true → Gives (.thermalSample [x]) s { told with pwr := { told.pwr with sensorsBad := [] } })) ∧
    Gives (.droop false) s (let u := satR Pg.pwr R.PWR_DROOP_N 1 s; { u with pwr := { w with droopN := true, evN := Nat.min 65535 (w.evN + 1) } }) ∧
    Gives (.droop true) s (let u := satR Pg.pwr R.PWR_DROOP_S 1 s; { u with pwr := { w with droopS := true, evS := Nat.min 65535 (w.evS + 1) } }) ∧
    Gives (.droopEnd false) s { s with pwr := { w with droopN := false } } ∧ Gives (.droopEnd true) s { s with pwr := { w with droopS := false } } ∧
    ((runs s Pg.pwr && bit (getR s Pg.pwr R.PWR_TELEM) 31) = false → Gives (.telemPeriod room) s s) ∧
    (runs s Pg.pwr = true → bit (getR s Pg.pwr R.PWR_TELEM) 31 = true → groupVersion s G.io ≠ 2 → (w.periods + 1) % 16 ≠ 0 →
      Does (.telemPeriod false) s (fun u => u.pwr = { w with periods := w.periods + 1 } ∧ u.outbox = s.outbox ∧ u.dram = s.dram ∧
        u.regs = (satR Pg.pwr R.PWR_TELEM_SKIPS 1 s).regs)) ∧
    Gives .refclkLoss s (chipReset true s))

/-- The message slot, the incident, the trace tail, RELEASE, DUMP, CLEAR and TRACE_RESTART act as R791 to R802 say. Rests on R788; R791; R794;
R795; R797; R802. -/
def Obligations.AnnalsCommands : Prop :=
  ∀ (s : State) (v : Word) (d : BitVec 12) (rec : BitVec 512), s.inReset = false →
    let a := s.ann
    let open_ := bit (getR s Pg.ann R.ANN_STATUS) 31
    let shut := setF Pg.ann R.ANN_STATUS 30 1 1 (setF Pg.ann R.ANN_STATUS 31 1 0 s)
    Gives .alarmSlotFree s (slotService { s with ann := { a with slotBusy := false } }) ∧
    (a.slotHeld = true → Gives .alarmSlotFree s { s with ann := { a with slotBusy := false } }) ∧
    ((∀ e ∈ a.coal, e.count = 0) → getR s Pg.ann R.ANN_OTHER = 0 → Gives .alarmSlotFree s { s with ann := { a with slotBusy := false } }) ∧
    (open_ = true → Gives .incidentClose s { shut with ann := { a with keys := [], coal := a.coal.filter (fun e => decide (e.count ≠ 0)) } }) ∧
    (open_ = false → Gives .incidentClose s s) ∧
    Gives (.traceTailWrite v) s (traceAdjust (let t := setR Pg.ann R.ANN_TRACE_TAIL (BitVec.ofNat 32 (v.toNat % 2 ^ 18)) s; { t with ann := { a with traceFull := false } })) ∧
    (open_ = true → Gives .annRelease s s) ∧
    (open_ = false → Gives .annRelease s (setF Pg.ann R.ANN_STATUS 0 7 0 (setF Pg.ann R.ANN_STATUS 30 1 0 s))) ∧
    (open_ = true ∨ (∃ e ∈ a.coal, e.count ≠ 0) → Gives .annClear s (ignoredCmd Pg.ann s)) ∧
    (open_ = false → (∀ e ∈ a.coal, e.count = 0) →
      Does .annClear s (fun t => t.ann = { a with buf := [], coal := [], alarmRecs := [], logRecs := [], traceFull := false } ∧ t.dram = s.dram ∧ t.outbox = s.outbox)) ∧
    (bit (getR s Pg.ann R.ANN_DUMP_STATUS) 31 = true → Gives .annDump s (ignoredCmd Pg.ann s)) ∧
    (bit (getR s Pg.ann R.ANN_DUMP_STATUS) 31 = false →
      let t := unitOpen annUnit 0 (setR Pg.ann R.ANN_DUMP_STATUS 0x80000000 s)
      Gives .annDump s (annSettle (unitWrite annUnit unitEp (getQ t Pg.ann R.ANN_DUMP_LO).toNat (Tab.slice 0 t.ann.buf 0 (256 * 1024)) t))) ∧
    Gives .traceRestart s (setF Pg.ann R.ANN_STATUS 28 1 0 s) ∧ Gives (.alarm d rec) s s

/-- TEST messages scan while the pins are off, TCK and TRST_N act while they are on, instruments finish or abort. Rests on R820; R821; R822;
R826; R827; R829; R830; R832. -/
def Obligations.TestAccessCommands : Prop :=
  ∀ (s : State) (n k : Nat) (bs : List Bool) (tms tdi : Bool) (r : DWord), s.inReset = false →
    let pins := bit (getR s Pg.tst R.TST_STATUS) 31
    let drop := satR Pg.tst R.TST_TEST_DROPS 1 s
    let sent : Nat → Nat → List Bool × State → State := fun op m z => postMsg 0xFFF Cls.dbg ((z.1.length + 63) / 64) (.test op m z.1) (wrapR Pg.tst R.TST_SCANS 1 z.2)
    let code : Nat → State := fun v => setF Pg.tst R.TST_STATUS 0 8 v s
    (pins = true → Gives (.testReset n) s drop ∧ Gives (.testIr n bs) s drop ∧ Gives (.testDr n bs) s drop ∧ Gives (.testIdle n) s drop ∧
      Gives (.tck tms tdi) s (tapEdge tms tdi s) ∧ Gives .trstN s (setF Pg.tst R.TST_STATUS 0 8 2 (setF Pg.tst R.TST_STATUS 8 4 0xF s))) ∧
    (pins = false → Gives (.tck tms tdi) s s ∧ Gives .trstN s s ∧
      (n ≠ 0 → Gives (.testReset n) s drop) ∧ (n ≠ 8 → Gives (.testIr n bs) s drop) ∧
      (n = 0 ∨ 16320 < n → Gives (.testDr n bs) s drop ∧ Gives (.testIdle n) s drop) ∧
      Gives (.testReset 0) s (sent 1 0 (tapRun [(true, false), (true, false), (true, false), (true, false), (true, false), (false, false)] s)) ∧
      Gives (.testIr 8 bs) s (sent 2 8 (tapRun (scanEdges [true, true, false, false] 8 bs) (tapIdle s))) ∧
      (1 ≤ n → n ≤ 16320 → Gives (.testDr n bs) s (sent 3 n (tapRun (scanEdges [true, false, false] n bs) (tapIdle s))) ∧
        Gives (.testIdle n) s (sent 4 n (let t := tapIdle s; freshBits { t with tap := { t.tap with tdo := none } } n)))) ∧
    Gives .extest s (code 0) ∧ Gives .samplePreload s (code 1) ∧ Gives .idcode s (code 2) ∧ Gives .ijtag s (code 0x10) ∧ Gives .bypass s (code 0xFF) ∧
    (k < nInstruments →
      ((instrAt s k).1 = 1 → instrReady s k = false → Gives (.instrumentAbort k) s (setInstr k (4, 0) s)) ∧
      ((instrAt s k).1 ≠ 1 ∨ instrReady s k = true → Gives (.instrumentAbort k) s s) ∧
      (k ≠ 0 → (instrAt s k).1 = 1 → Gives (.instrumentDone k r) s (setInstr k (2, r) s)) ∧
      (k ≠ 0 → (instrAt s k).1 ≠ 1 → Gives (.instrumentDone k r) s s)) ∧
    (s.tap.csaBusy = true → Gives (.instrumentDone 0 r) s { s with tap := { s.tap with csa := s.tap.csa ||| BitVec.ofNat 64 (2 ^ 63), csaBusy := false } }) ∧
    (s.tap.csaBusy = false → Gives (.instrumentDone 0 r) s s)

/-- HELLO pairs or faults, a lost peer is declared once, TAKE, SILVER and FOSTER act as R729 to R755 say. Rests on R729; R730; R731; R747; R749;
R750; R751; R752; R754; R755. -/
def Obligations.TwinPairingAndCopies : Prop :=
  (∀ (s : State) (e : Word) (pt : BitVec 16) (role : Bool) (m : BitVec 2) (t : DWord), s.inReset = false →
    let w := s.twn
    let waits := bstate s Pg.twn = B.starting ∧ w.formed = false ∧ pstate s = 1
    let fits := e = getR s Pg.twn R.TWN_EPOCH ∧ pt.toNat = twnPtns s ∧ m.toNat = twnMode s ∧ role ≠ twnStandby s
    let lone := namedAlarm Pg.twn 1 (enterPstate 6 { s with twn := { w with staged := [], lost := [], forwarding := false, owed := [], doneWait := [], sent := [] } })
    (waits → fits → Gives (.hello e pt role m) s (enterPstate 3 { s with twn := { w with formed := true } })) ∧
    (waits → ¬ fits → Gives (.hello e pt role m) s (fault Pg.twn 9 s)) ∧
    (¬ waits → Gives (.hello e pt role m) s s ∧ Gives .helloTimer s s) ∧
    (waits → Gives .helloTimer s (helloSend s)) ∧
    Gives (.beat t) s s ∧
    (twnUp s = true → Gives .beatTimer s (twinSend 11 0 s.time 0 [] s)) ∧ (twnUp s = false → Gives .beatTimer s s ∧ Gives .peerLost s s) ∧
    (twnUp s = true → (bit (getR lone Pg.twn R.TWN_CFG) 3 && twnStandby lone) = false → Gives .peerLost s lone) ∧
    (twnUp s = true → (bit (getR lone Pg.twn R.TWN_CFG) 3 && twnStandby lone) = true →
      Gives .peerLost s (foldS startPtn (bitsSet 16 (twnPtns lone)) (takePtns (twnPtns lone) lone))) ∧
    (twnBusy s = true → Gives .take s s) ∧
    (twnBusy s = false →
      (twnStandby s = false → Gives .take s (twnResult false true 3 s)) ∧
      (twnStandby s = true →
        (runs s Pg.twn = true → pstate s = 4 ∨ pstate s = 6 →
          Gives .take s (twnResult false true 1 (takePtns (getF s Pg.twn R.TWN_TAKE_MASK 0 16 &&& twnPtns s) s))) ∧
        (runs s Pg.twn = false ∨ (pstate s ≠ 4 ∧ pstate s ≠ 6) → Gives .take s (twnResult false true 2 s))))) ∧
  (∀ (s : State) (d : BitVec 12) (whr : DWord) (bs : List Byte) (gl : List Word), s.inReset = false →
    let w := s.twn
    let v := getR s Pg.twn R.TWN_FOSTER
    let lost := v.toNat / 2 ^ 16 % 2 ^ 12
    (twnBusy s = true → Gives .silver s s ∧ Gives .foster s s) ∧
    (twnBusy s = false →
      (twnStandby s = true → Gives .silver s (twnResult false true 3 s)) ∧
      (twnStandby s = false → twnUp s = false → Gives .silver s (twnResult false true 2 s)) ∧
      (twnStandby s = false → twnUp s = true →
        let t := silverCopy (enterPstate 2 (setF Pg.twn R.TWN_STATUS 0 16 0 s))
        Gives .silver s (twnResult true false 0 { t with twn := { t.twn with forwarding := true, silvered := false, owed := [] } })) ∧
      ((runs s Pg.twn && bit v 31) = false ∨ lost ∉ s.unreach ∨ inPackage s lost = false → Gives .foster s (twnResult false true 2 s)) ∧
      (runs s Pg.twn = true → bit v 31 = true → lost ∈ s.unreach → inPackage s lost = true → neighbour s G.east = lost → neighbour s G.west ≠ lost → lost ≠ dieNum s →
        Gives .foster s (twnResult true false 0 (foldS (fun e => foldS (fosterChannel e.1 e.2) (List.range 8)) [(1, 0), (3, 2)]
          { s with twn := { w with action := 2, moved := 0, actBad := false } })))) ∧
    (w.action ≠ 1 → Gives .silverDone s s) ∧
    (w.action = 1 → twnUp s = false → Gives .silverDone s (twnResult false true 2 { s with twn := { w with action := 0, forwarding := false } })) ∧
    (w.action = 1 → twnUp s = true → w.actBad = true → Gives .silverDone s (copyEnd (enterPstate 3 { s with twn := { w with forwarding := false } }))) ∧
    (w.action = 1 → twnUp s = true → w.actBad = false →
      let u := twinSend 12 0 0 (BitVec.ofNat 64 w.moved) [] s
      let ps := (bitsSet 16 (twnPtns u)).filter (snapValid u)
      let t := enterPstate 3 u
      Gives .silverDone s (copyEnd (foldS (fun p x => shipment p (ptnSeq x p - 1) x) ps
        { t with twn := { t.twn with silvered := true, owed := ps, forwarding := decide (ps ≠ []) } }))) ∧
    (w.action = 2 → Gives .fosterDone s (copyEnd s)) ∧ (w.action ≠ 2 → Gives .fosterDone s s) ∧
    ((runs s Pg.twn && decide (pstate s = 6) && !inPackage s d.toNat) = false → (twnUp s && decide (d.toNat = twnPeer s)) = false →
      Gives (.silverMessage d whr bs gl) s s) ∧
    (runs s Pg.twn = true → pstate s = 6 → inPackage s d.toNat = false →
      gl.length = 8 → bs.length = 1024 → (∀ k, k < 8 → gl[k]? = some (crc32c (glzSeed (whr.toNat + 128 * k)) ((bs.drop (128 * k)).take 128))) →
      (∀ k, k < 8 → ∃ h, homeOf s (whr.toNat + 128 * k) = .ok h) → Gives (.silverMessage d whr bs gl) s (twinPut whr.toNat bs s).2))

/-- Shipment messages are staged or dropped, DONE applies or refuses, ACK and digests are taken by the side they are for. Rests on R734; R735;
R736; R737; R739; R741. -/
def Obligations.TwinShipments : Prop :=
  ∀ (s : State) (p : BitVec 4) (q whr d n : DWord) (bs : List Byte) (tile : Bool) (g cnt a b : Word), s.inReset = false →
    let w := s.twn
    let here := twnUp s = true ∧ twnStandby s = true
    let msg : Nat → List Byte → Bool → Word → ShipMsg := fun k l tl gl => { kind := k, p := p.toNat, q := q, whr := whr, bytes := l, tile := tl, glaze := gl }
    let ends := bytesOf 4 a.toNat ++ bytesOf 4 b.toNat
    let staged : ShipMsg → State := fun m => { s with twn := { w with staged := w.staged ++ [m] } }
    let gone := p.toNat ∈ w.taken ∨ (p.toNat, q) ∈ w.lost
    let fits : Nat → Prop := fun k => stagedBytes s + k ≤ stageBytes s
    let drop := markStale { s with twn := { w with lost := w.lost ++ [(p.toNat, q)], staged := w.staged.filter (fun x => !(decide (x.p = p.toNat) && decide (x.q = q))) } }
    let ms := w.staged.filter (fun m => decide (m.p = p.toNat) && decide (m.q = q))
    let rest : State := { s with twn := { w with staged := w.staged.filter (fun x => !(decide (x.p = p.toNat) && decide (x.q = q))), lost := w.lost.filter (fun e => decide (e ≠ (p.toNat, q))) } }
    (here → ¬ gone →
      Gives (.snap p q whr bs) s (staged (msg 2 bs false 0)) ∧ Gives (.plane p q whr bs) s (staged (msg 3 bs false 0)) ∧
      (fits bs.length → Gives (.carry p q whr bs) s (staged (msg 4 bs false 0)) ∧ (q ≠ 0 → Gives (.block p q whr bs tile g) s (staged (msg 5 bs tile g)))) ∧
      (¬ fits bs.length → Gives (.carry p q whr bs) s drop ∧ (q ≠ 0 → Gives (.block p q whr bs tile g) s drop)) ∧
      (fits 8 → Gives (.twinRing p q whr a b) s (staged (msg 6 ends false 0)))) ∧
    (gone ∨ ¬ here → Gives (.snap p q whr bs) s s ∧ Gives (.plane p q whr bs) s s ∧ Gives (.carry p q whr bs) s s ∧
      (q ≠ 0 → Gives (.block p q whr bs tile g) s s) ∧ Gives (.twinRing p q whr a b) s s) ∧
    (¬ here → Gives (.block p 0 whr bs tile g) s s ∧ Gives (.done p q cnt) s s ∧ Gives (.silvered d) s s) ∧
    (here → g = crc32c (glzSeed whr.toNat) bs → Gives (.block p 0 whr bs tile g) s (twinPut whr.toNat bs s).2) ∧
    (here → g ≠ crc32c (glzSeed whr.toNat) bs → Gives (.block p 0 whr bs tile g) s (markStale { s with twn := { w with silverBad := true } })) ∧
    (here →
      (shipCheck s p.toNat q cnt.toNat ms = 2 → p.toNat ∉ w.taken → bstate s (Pg.ptn p.toNat) = B.stopped →
        Gives (.done p q cnt) s (markStale (twinSend 8 p.toNat q 2 [] rest))) ∧
      (p.toNat ∈ w.taken → Gives (.done p q cnt) s (twinSend 8 p.toNat q 1 [] rest)) ∧
      (shipCheck s p.toNat q cnt.toNat ms = 0 →
        Gives (.done p q cnt) s (syncBit p.toNat (wrapR Pg.twn R.TWN_SHIPS 1 (setPseq p.toNat q (twinSend 8 p.toNat q 0 []
          (foldS ringApply ms (snapApply p.toNat q ms (foldS shipApply ms rest)))))))) ∧
      (w.silverBad = true → Gives (.silvered d) s (enterPstate 5 s)) ∧
      (w.silverBad = false → Gives (.silvered d) s (enterPstate 3 (let u := setF Pg.twn R.TWN_STATUS 0 16 0 s; { u with twn := { w with stale := false, silvered := true } })))) ∧
    (twnUp s = true → twnStandby s = false → Gives (.ack p q 0) s (syncBit p.toNat (setPseq p.toNat q s))) ∧
    (twnUp s = false ∨ twnStandby s = true ∨ d ≠ 0 → Gives (.ack p q d) s s) ∧
    ((twnUp s && decide (twnMode s = 2) && twnPtn s p.toNat) = true →
      Gives (.digest p q n d) s (digestCheck p.toNat q { s with twn := { w with theirs := w.theirs ++ [(p.toNat, q, n, d)] } })) ∧
    ((twnUp s && decide (twnMode s = 2) && twnPtn s p.toNat) = false → Gives (.digest p q n d) s s) ∧
    ((∀ e ∈ w.mine, e.1 ≠ p.toNat) → Gives (.digestTimeout p.toNat) s s) ∧
    (∀ e r, w.mine = e :: r → e.1 = p.toNat → (p.toNat, e.2.1) ∉ w.lagged → twnUp s = true →
      Gives (.digestTimeout p.toNat) s (namedAlarm Pg.twn 2 { s with twn := { w with lagged := w.lagged ++ [(p.toNat, e.2.1)] } })) ∧
    ((∀ e ∈ w.doneWait, e.1 ≠ p.toNat) → Gives (.shipmentDone p.toNat) s s) ∧
    (∀ r, w.doneWait = (p.toNat, q) :: r → twnUp s = true → batchesDone s p.toNat q = true →
      let c := ((w.sent.find? (fun e => decide (e.1 = p.toNat) && decide (e.2.1 = q))).map (fun e => e.2.2)).getD 0
      let t := twinSend 7 p.toNat q (BitVec.ofNat 64 (c + 1)) [] s
      Gives (.shipmentDone p.toNat) s (wrapR Pg.twn R.TWN_SHIPS 1 { t with twn := { t.twn with doneWait := t.twn.doneWait.erase (p.toNat, q), sent := t.twn.sent.filter (fun e => !(decide (e.1 = p.toNat) && decide (e.2.1 = q))) } }))

/-- DIR, GLB, ANN and SEC ignore STOP, ABORT and RETIRE, and a value of HDR_CMD other than 1 to 5 is ignored. The rule: R82, R83. -/
def Obligations.IgnoredHeaderCommands : Prop :=
  (∀ (s : State) (pg i : Nat) (b : Blk), s.inReset = false → pageBlk pg = some (b, i) → b = .dir ∨ b = .glb ∨ b = .ann ∨ b = .sec →
    let ign := setR pg R.HDR_IGNORED (setBit (getR s pg R.HDR_IGNORED) 1 true) s
    Gives (.stop pg) s ign ∧ Gives (.abort pg) s ign ∧ Gives (.retire pg) s ign) ∧
  (∀ (s : State) (a : DWord) (l pg i : Nat) (b : Blk) (v : Word), s.inReset = false → ctlTarget s a = .here l → l % 4096 = 0xC →
    pageOfSlot (l / 4096) = some pg → pageBlk pg = some (b, i) → (v.toNat % 8 = 0 ∨ 5 < v.toNat % 8 ∨ v.toNat / 8 ≠ 0) →
    Gives (.registerWrite a v) s (send (.access false 0) (accCount false (settleUnits
      (setR pg R.HDR_IGNORED (setBit (getR s pg R.HDR_IGNORED) 1 true) s)))))

/-- START, STOP, ABORT, CLEAR and RETIRE act by the block's state as R79 says, and Starting and Stopping end as R78 says. Rests on R76; R79;
R80; R81; R82; R868; R78; R125; R566; R602; R691. -/
def Obligations.HeaderCommandsAndTheirEnds : Prop :=
  (∀ (s : State) (pg i : Nat) (b : Blk), s.inReset = false → pageBlk pg = some (b, i) →
    let st := bstate s pg
    let ign := ignoredCmd pg s
    let t := setBState pg B.starting s
    (st = B.stopped → (∀ c, startBad t b pg i = some c → Gives (.start pg) s (startRefused pg c t)) ∧ (startBad t b pg i = none → Gives (.start pg) s (startHook b pg i t))) ∧
    (st = B.starting ∨ st = B.running → Gives (.start pg) s s) ∧
    (st = B.absent ∨ st = B.stopping ∨ st = B.faulted ∨ st = B.retired → Gives (.start pg) s ign) ∧
    (ignoresStop b = false →
      (st = B.starting → Gives (.stop pg) s (releaseHeld pg (stopHook b i false (setBState pg B.stopping s)))) ∧
      (st = B.running → Gives (.stop pg) s (stopHook b i true (setBState pg B.stopping s))) ∧
      (st = B.stopped ∨ st = B.stopping → Gives (.stop pg) s s) ∧
      (st = B.absent ∨ st = B.faulted ∨ st = B.retired → Gives (.stop pg) s ign)) ∧
    (ignoresAbort b = false →
      (b ≠ .ptn → st = B.starting ∨ st = B.running ∨ st = B.stopping → Gives (.abort pg) s (opDrain (settleUnits (releaseHeld pg (pageAbort pg (pageFault pg 2 s)))))) ∧
      (b = .ptn → st = B.starting ∨ st = B.running ∨ st = B.stopping → Gives (.abort pg) s (opDrain (settleUnits (releaseHeld pg (pageAbort pg (pageFault pg 2 (ptnCancel i (actionCancel i s)))))))) ∧
      (st = B.stopped ∨ st = B.faulted → Gives (.abort pg) s s) ∧
      (st = B.absent ∨ st = B.retired → Gives (.abort pg) s ign)) ∧
    (st = B.faulted →
      (bit (getR s pg R.HDR_FAULT) 0 = true ∨ pg ∈ s.selfFailed → Gives (.clear pg) s ign) ∧
      (bit (getR s pg R.HDR_FAULT) 0 = false → pg ∉ s.selfFailed → b ≠ .ptn → Gives (.clear pg) s (setBState pg B.stopped (setR pg R.HDR_FAULT 0 s))) ∧
      (bit (getR s pg R.HDR_FAULT) 0 = false → pg ∉ s.selfFailed → b = .ptn → Gives (.clear pg) s (ptnStopped i (setR pg R.HDR_FAULT 0 s)))) ∧
    (st = B.stopped → Gives (.clear pg) s s) ∧
    (st = B.absent ∨ st = B.starting ∨ st = B.running ∨ st = B.stopping ∨ st = B.retired → Gives (.clear pg) s ign) ∧
    (ignoresRetire b = false →
      (st = B.stopped ∨ st = B.faulted →
        (b ≠ .cor → b ≠ .slc → b ≠ .lnk → Gives (.retire pg) s (pageRetire pg s)) ∧ (b = .cor → Gives (.retire pg) s (siteRetire i s)) ∧
        (b = .slc → Gives (.retire pg) s (sliceEntry i (pageRetire pg s))) ∧ (b = .lnk → Gives (.retire pg) s (portRetire i s))) ∧
      (st = B.retired → Gives (.retire pg) s s) ∧
      (st = B.absent ∨ st = B.starting ∨ st = B.running ∨ st = B.stopping → Gives (.retire pg) s ign))) ∧
  (∀ (s : State) (pg i : Nat) (b : Blk), s.inReset = false → pageBlk pg = some (b, i) →
    let st := bstate s pg
    let t := pageFault pg 4 s
    (st ≠ B.starting ∨ inSelftest s pg = true → Gives (.startingDone pg) s s) ∧
    (st = B.starting → inSelftest s pg = false →
      (b ≠ .ptn → b ≠ .twn → Gives (.startingDone pg) s (releaseHeld pg (runHook b i (setBState pg B.running s)))) ∧
      (b = .ptn → Gives (.startingDone pg) s (ptnRunning i s)) ∧ (b = .twn → s.twn.formed = false → Gives (.startingDone pg) s s) ∧
      (b = .twn → s.twn.formed = true → Gives (.startingDone pg) s (releaseHeld pg (setBState pg B.running s)))) ∧
    (st ≠ B.stopping ∨ stopBusy s b i = true → Gives (.stoppingDone pg) s s) ∧
    (st = B.stopping → stopBusy s b i = false →
      (b ≠ .ptn → Gives (.stoppingDone pg) s (setBState pg B.stopped s)) ∧ (b = .ptn → Gives (.stoppingDone pg) s (ptnStopped i s))) ∧
    (st ≠ B.starting → st ≠ B.stopping → Gives (.cmdTimeout pg) s s) ∧
    (st = B.starting → inSelftest s pg = true → testReleased s pg = false → Gives (.cmdTimeout pg) s s) ∧
    (st = B.stopping ∨ (st = B.starting ∧ inSelftest s pg = false) → b ≠ .ptn →
      (bstate t pg = st → Gives (.cmdTimeout pg) s t) ∧ (bstate t pg ≠ st → Gives (.cmdTimeout pg) s (decide_ (releaseHeld pg t)))))

/-- CHIP_RESET_N takes every block to its reset value, keeps the Annals while their rails hold, and nothing runs until its release. Rests on
R688; R693; R764; R820; R845; R849. -/
def Obligations.ResetOfTheChiplet : Prop :=
  ∀ (s : State) (ns : Nat) (te kept : Bool) (i : Instr),
    (10000 ≤ ns → s.inReset = false → Gives (.resetAssert ns kept) s (chipReset kept { s with tripped := false })) ∧
    (ns < 100 → Gives (.resetAssert ns kept) s s) ∧
    (chipReset false s = { State.reset with pending := s.pending, outbox := s.outbox, freeCtr := s.freeCtr, fuses := s.fuses, tripped := s.tripped, dram := s.dram, badGlz := s.badGlz, ueLines := s.ueLines, keepPools := s.keepPools, keepRecs := s.keepRecs, recCopies := s.recCopies }) ∧
    Gives (.resetRelease te false) s s ∧
    (s.inReset = false → Gives (.resetRelease te true) s s) ∧
    (s.inReset = true → Does (.resetRelease te true) s (fun t => t.inReset = false ∧ t.testEn = te ∧ t.tap = Tap.init ∧ t.dram = s.dram ∧ t.cores = s.cores)) ∧
    (s.inReset = true → Instr.wf i = true → (∀ a b, i ≠ .resetRelease a b) → (∀ a b, i ≠ .resetAssert a b) → Gives i s s)

/-- TIME acquires, slews, steps or holds the local copy; HOLDOVER, TIME_LOST, PACKAGE_TICK and the 1 ns tick act on it. Rests on R107; R108;
R109; R110; R111; R112; R113; R126; R159. -/
def Obligations.PackageTimeAndTicks : Prop :=
  ∀ (s : State) (v : DWord) (k : Nat), s.inReset = false →
    let st := getR s Pg.seq R.SEQ_TIME_STATUS
    let ref := v - BitVec.ofNat 64 (linkDelay s)
    let e : Int := (ref.toNat : Int) - (s.time.toNat : Int)
    let c : Int := max (-32768) (min 32767 e)
    let noted := setR Pg.seq R.SEQ_TIME_STATUS (setFld (setBit st 30 false) 0 16 (BitVec.ofInt 16 c).toNat) s
    (timeValid s = false →
      (dieValid s = true → Gives (.time v) s (setR Pg.seq R.SEQ_TIME_STATUS (setBit (setBit st 31 true) 30 false) { s with time := ref, timePend := 0 })) ∧
      (dieValid s = false → Gives (.time v) s s) ∧ Gives .holdover s s ∧ Gives .timeLost s s ∧ Gives (.packageTick k) s s) ∧
    (timeValid s = true →
      (-100 ≤ e → e ≤ 100 → Gives (.time v) s { noted with timePend := e }) ∧
      (100 < e → Gives (.time v) s (timeFault (fault Pg.seq 9 { noted with time := ref, timePend := 0 }))) ∧
      (e < -100 → Gives (.time v) s (timeFault (fault Pg.seq 9 { noted with timePend := e }))) ∧
      Gives .holdover s (setR Pg.seq R.SEQ_TIME_STATUS (setFld st 30 1 1) s) ∧
      Gives .timeLost s (timeFault (fault Pg.seq 8 (setR Pg.seq R.SEQ_TIME_STATUS (setFld st 31 1 0) s))) ∧
      (runs s Pg.seq = true →
        let t := BitVec.ofNat 64 (solEpoch s + k * solPeriod s)
        (s.time < t → Gives (.packageTick k) s { s with time := t }) ∧ (t ≤ s.time → Gives (.packageTick k) s s)) ∧
      (runs s Pg.seq = false → Gives (.packageTick k) s s)) ∧
    ((tickNs s).time - s.time ≤ 2 ∧ (s.timePend = 0 → (tickNs s).time = s.time + 1 ∧ (tickNs s).timePend = 0)) ∧
    (s.timePend ≠ 0 → (tickNs s).timePend.natAbs ≤ s.timePend.natAbs)

/-- A partition's tick, end point, commit, overrun and end of draining act by its phase as R117 to R146 say. That a Sol may still reach its
end point after the deadline where OVERRUN is disabled is the model's reading (log entry 135). Rests on R115; R117; R127; R129;
R130; R134; R138; R141; R142; R145; R146. -/
def Obligations.SolTicksEndPointsAndCommits : Prop :=
  ∀ (s : State) (p j : Nat) (now : DWord), s.inReset = false → p < nPtns →
    let x := ptnAt s p
    let t := tickTime s p j
    let due := ticksRun s = true ∧ (bstate s (Pg.ptn p) = B.running ∨ bstate s (Pg.ptn p) = B.stopping) ∧
      ((x.phase = .waiting ∧ x.tickAt.toNat < t) ∨ (x.phase = .armed ∧ x.since.toNat ≤ t))
    let begun := foldS coreTick x.domain (tagsDrop p (timeTo (BitVec.ofNat 64 t) s))
    let ends := x.phase = .sol ∧ atEndPoint s p = true ∧ x.tickAt ≤ now ∧ (now.toNat ≤ deadline s p ∨ bit (getR s (Pg.ptn p) R.HDR_FAULT_EN) PC.overrun = false)
    let q := ptnSeq s p
    let snap := lvnNotices true p (retryRings (ringCommit p (snapFlip p s)))
    let seq := setR (Pg.ptn p) R.PTN_LAST_END (BitVec.ofNat 32 (x.endAt - x.tickAt).toNat) (setPtnSeq p (q + 1) snap)
    let full := trace 0 (Pg.ptn p) (twinCommit p q (setR (Pg.ptn p) R.PTN_AUTO_LEFT (BitVec.ofNat 32 (getF seq (Pg.ptn p) R.PTN_CFG 8 8)) seq))
    (due → Gives (.partitionTick p j) s (updPtn p (fun y => { y with phase := .sol, tickAt := BitVec.ofNat 64 t, tick := j, skid := none, slow := ptnSlowNow begun p, leavenDies := [], digest := 0, digN := 0 }) begun)) ∧
    (¬ due → Gives (.partitionTick p j) s s) ∧
    (¬ ends → Gives (.solEndPoint p now) s s) ∧
    (ends →
      let u := timeTo now s
      let slack := deadline u p - now.toNat
      let m := updPtn p (fun y => { y with endAt := now }) (if slack < getN u (Pg.ptn p) R.PTN_MIN_SLACK then setR (Pg.ptn p) R.PTN_MIN_SLACK (BitVec.ofNat 32 slack) u else u)
      (x.deferred = 0 → Gives (.solEndPoint p now) s (hardCount p (snapCopy p (ptnSeq m p + 1) (x.tickAt.toNat + solLen m p) (updPtn p (fun y => { y with phase := .copying }) m)))) ∧
      (x.deferred ≠ 0 → Gives (.solEndPoint p now) s (takeDeferred true p m))) ∧
    (x.phase ≠ .copying → Gives (.solCommit p false) s s ∧ Gives (.solCommit p true) s s) ∧
    (x.phase = .copying →
      (x.deferred ≠ 0 → Gives (.solCommit p false) s (takeDeferred false p s)) ∧
      (x.deferred = 0 → x.stopWait = false → Gives (.solCommit p false) s (updPtn p (fun y => { y with phase := .waiting }) full)) ∧
      (x.deferred = 0 → x.stopWait = true → Gives (.solCommit p false) s (ptnStopped p full)) ∧
      (bstate (fault (Pg.ptn p) PC.snapshot s) (Pg.ptn p) = B.faulted → Gives (.solCommit p true) s (fault (Pg.ptn p) PC.snapshot s)) ∧
      (bstate (fault (Pg.ptn p) PC.snapshot s) (Pg.ptn p) ≠ B.faulted →
        Gives (.solCommit p true) s (updPtn p (fun y => { y with phase := .waiting }) (lvnNotices false p (retryRings (ringDiscard p (fault (Pg.ptn p) PC.snapshot s))))))) ∧
    (x.phase ≠ .sol → Gives (.solOverrun p) s s) ∧
    (x.phase = .sol →
      let u := timeTo (BitVec.ofNat 64 (deadline s p)) s
      let late := (x.domain.filter (fun c => !(coreAt u c).parked)).length
      let out := (x.domain.map (coreOps u)).foldl (· + ·) 0
      let v := ptnFault p PC.overrun (satR Pg.seq R.SEQ_OVERRUNS 1 (setR (Pg.ptn p) R.PTN_OVR (BitVec.ofNat 32 (Nat.min 65535 out * 65536 + late % 128)) u))
      (x.slow = false → Gives (.solOverrun p) s v) ∧ (x.slow = true → Gives (.solOverrun p) s (ptnFault p PC.clock v))) ∧
    (x.phase = .draining → ptnQuiet s p = true →
      let v := foldS drainCore x.domain (ptnDropHeld p (heldPass false p s))
      (ptnQuiet v p = true → Gives (.partitionFaulted p) s (redSettle (retryRings (raise (.page (Pg.ptn p) (x.pendFault ||| x.deferred)) (hardRuns false p v))))) ∧
      (ptnQuiet v p = false → Gives (.partitionFaulted p) s v)) ∧
    (x.phase ≠ .draining ∨ ptnQuiet s p = false → Gives (.partitionFaulted p) s s)

/-- REPLAY, DUMP and LOAD are refused with their result or begin; a restore or a script load ends as R121 and R174 say. Rests on R121; R124;
R139; R140; R147; R148; R172; R173; R174. -/
def Obligations.ReplayDumpLoadAndScripts : Prop :=
  ∀ (s : State) (p c : Nat), s.inReset = false → p < nPtns → c < nSites →
    let pg := Pg.ptn p
    let res : Nat → State := fun r => setF pg R.PTN_ACTION_STATUS 0 3 r s
    let busy := (unitJob s p).isSome
    let ok := bstate s pg = B.faulted ∧ bit (getR s pg R.HDR_FAULT) 0 = false
    (¬ ok → Gives (.replay p) s (res 2)) ∧ (ok → snapValid s p = false → Gives (.replay p) s (res 3)) ∧
    (ok → snapValid s p = true → (maskSame s p && recordsOk s p && allPlaced s p) = false → Gives (.replay p) s (res 4)) ∧
    (ok → snapValid s p = true → (maskSame s p && recordsOk s p && allPlaced s p) = true → Gives (.replay p) s (replayStart p s)) ∧
    (busy = true → Gives (.dump p) s s ∧ Gives (.load p) s s) ∧
    (busy = false →
      (snapValid s p = false → Gives (.dump p) s (setR pg R.PTN_ACTION_STATUS 3 s)) ∧
      (snapValid s p = true →
        let t := setR pg R.PTN_ACTION_STATUS 0x80000000 (unitOpen p 0 s)
        Gives (.dump p) s (dumpSettle p (unitWrite p unitEp (getQ t pg R.PTN_DUMP_ADDR_LO).toNat (dumpImage t p) t))) ∧
      (bstate s pg ≠ B.stopped → Gives (.load p) s (setR pg R.PTN_ACTION_STATUS 2 s)) ∧
      (bstate s pg = B.stopped →
        let t := setR pg R.PTN_ACTION_STATUS 0x80000000 (unitOpen p 1 s)
        Gives (.load p) s (loadSettle p (loadSettle p (unitRead p unitEp 0 (getQ t pg R.PTN_DUMP_ADDR_LO).toNat 512 t))))) ∧
    ((∀ r, (ptnAt s p).phase ≠ .loading r) ∨ bstate s pg ≠ B.starting ∨ ptnReady s p = false → Gives (.replayRestoreDone p) s s) ∧
    ((ptnAt s p).phase = .loading true → bstate s pg = B.starting → ptnReady s p = true →
      let t := setBState pg B.running s
      let u := setDegraded pg (ptnDegraded t p) { t with redDead := t.redDead.filter (fun e => decide (e ≠ p)) }
      let v := foldS (fun k w => vecClear k (updCore k (fun x => { x with valid := [] }) w)) (ptnAt u p).domain u
      let w := updPtn p (fun x => { x with phase := .armed, since := BitVec.ofNat 64 s.time.toNat }) v
      Gives (.replayRestoreDone p) s (trace 0 pg (setF (Pg.ptn p) R.PTN_ACTION_STATUS 0 3 1 (snapCommit p (ptnSeq w p) (nextTick w p s.time.toNat) w)))) ∧
    (unitJob s (imgUnit c) = none → Gives (.scriptLoadDone c) s s) ∧
    (∀ i, unitJob s (imgUnit c) = some i → ((coreAt s c).loading = false ∨ i.left ≠ 0 ∨ i.stage = 0 ∨ loadsScript s c = false ∨ startOpen s c = false) →
      Gives (.scriptLoadDone c) s s) ∧
    (∀ i, unitJob s (imgUnit c) = some i → (coreAt s c).loading = true → i.left = 0 → i.stage ≠ 0 → loadsScript s c = true → startOpen s c = true →
      let t := unitClose (imgUnit c) (updCore c (fun x => { x with loading := false }) s)
      let n := tabNum i.buf 4 2
      let body := Tab.slice 0 i.buf 64 (32 * n)
      (i.stage = 2 ∨ i.bad = true ∨ imgHeaderOk t c i = false ∨ tabNum i.buf 8 4 ≠ crcOf body → Gives (.scriptLoadDone c) s (coreFault c 5 t)) ∧
      (i.stage ≠ 2 → i.bad = false → imgHeaderOk t c i = true → tabNum i.buf 8 4 = crcOf body → ∀ h, ptnOfSite t c = some h →
        let script := (List.range n).foldl (fun (z : Tab Syllable) k => Tab.store 0 z k (syllableOf ((body.drop (32 * k)).take 32))) []
        let first := decide ((ptnAt t h).phase = .loading false) && !ptnResume t h
        Gives (.scriptLoadDone c) s (barsGo h (updCore c (fun x => { x with script := script, res := n, entry := tabNum i.buf 6 2, valid := [], loaded := true, pos := if first then tabNum i.buf 6 2 else x.pos }) t))))

/-- In a sound state a register reads what was written to it, and every other register reads as before. Rests on R9; R11; R103. -/
def Obligations.RegistersReadBack : Prop :=
  ∀ (F : Fuses) (s : State) (pg o : Nat) (v : Word) (q : DWord), Sound F s →
    getR (setR pg o v s) pg o = v ∧ (∀ k l, regKey k l ≠ regKey pg o → getR (setR pg o v s) k l = getR s k l) ∧ Sound F (setR pg o v s) ∧
    getQ (setQ pg o q s) pg o = q ∧ Sound F (setQ pg o q s)

/-- Register reads and writes reach their page and act by access code; wide quantities are captured and committed whole. Rests on R10; R11; R13;
R61; R75; R89; R90; R95; R98; R99; R651. -/
def Obligations.RegisterAccessesFollowTheAccessCodes : Prop :=
  ∀ (F : Fuses) (s : State) (a : DWord) (v w : Word) (l pg i o : Nat) (b : Blk) (sd tag : BitVec 12) (wr er : Bool) (ad : BitVec 48), Sound F s → s.inReset = false →
    (ctlTarget s a = .here l → l % 4 = 0 → pageOfSlot (l / 4096) = some pg → pageBlk pg = some (b, i) →
      let r := regRead b pg i (l % 4096) s
      let rd := send (.access false r.1) (accCount false r.2)
      let wt := send (.access false 0) (accCount false (settleUnits (regWrite b pg i (l % 4096) v s)))
      Gives (.registerWrite a v) s wt ∧ Gives (.wideWriteCommit a v) s wt ∧ Gives (.rcRead a) s rd ∧ Gives (.wideReadCapture a) s rd) ∧
    (ctlTarget s a = .here l → l % 4 = 0 → pageOfSlot (l / 4096) = none →
      Gives (.registerWrite a v) s (send (.access false 0) (accCount false s)) ∧ Gives (.rcRead a) s (send (.access false 0) (accCount false s))) ∧
    (ctlTarget s a = .here l → l % 4 ≠ 0 →
      let bad := send (.access true 0) (accCount true (accErr 1 (0xF00000000000 + l) s))
      Gives (.registerWrite a v) s bad ∧ Gives (.wideWriteCommit a v) s bad ∧ Gives (.rcRead a) s bad ∧ Gives (.wideReadCapture a) s bad) ∧
    (ctlTarget s a = .bad → Gives (.registerWrite a v) s (send (.access true 0) (accCount true s)) ∧ Gives (.rcRead a) s (send (.access true 0) (accCount true s))) ∧
    (∀ d k, ctlTarget s a = .far d k → (route s d).isSome = true → d ∈ s.unreach → Gives (.registerWrite a v) s (send (.access true 0) s)) ∧
    (∀ row, pageBlk pg = some (b, i) → b.row o = some row → 0x40 ≤ o → bstate s pg ≠ B.absent → actWrite b pg i o v s = none → isBuffered b o = false →
      bufferedLow b (o - 4) = false → recordOf b o = none → (row.rws = 0 ∨ rwsOpen s b pg o = true) →
      ∀ k, k < 32 → (getR (regWrite b pg i o v s) pg o).getLsbD k =
        (if row.w1c.testBit k ∧ v.getLsbD k = true then false
         else if row.rw.testBit k ∨ row.rws.testBit k then v.getLsbD k else (getR s pg o).getLsbD k)) ∧
    (∀ x, 0x40 ≤ o → bstate s pg ≠ B.absent → bstate { s with regs := x } pg ≠ B.absent → (wideLows b).contains o = true → (wideLows b).contains (o + 4) = false →
      (regRead b pg i (o + 4) { (regRead b pg i o s).2 with regs := x }).1 = BitVec.ofNat 32 ((wideNow s b pg i o).toNat / 2 ^ 32)) ∧
    (∀ row, b.row o = some row → 0x40 ≤ o → bstate s pg ≠ B.absent → actWrite b pg i o w s = none → isBuffered b o = true →
      regWrite b pg i o w s = { s with wbuf := Tab.put s.wbuf (regKey pg o) (maskIn 0 w row.rw) }) ∧
    (ctlLocal ad.toNat = .here l →
      let z := regAccess wr l v s
      Gives (.reg false wr er sd tag ad v) s (postMsg sd.toNat Cls.mem 2 (.regCompl sd.toNat tag.toNat wr z.1.isNone ad (if wr then 0 else z.1.getD 0)) z.2)) ∧
    ((∀ q ∈ s.ops, q.kind ≠ .regAccess tag.toNat ∨ q.die ≠ sd.toNat) → Gives (.reg true wr er sd tag ad v) s (satR (Pg.lkg (routeFirst s sd.toNat)) R.LKG_LATE 1 s)) ∧
    (∀ q t, s.ops = q :: t → q.kind = .regAccess tag.toNat → q.die = sd.toNat → Gives (.reg true wr er sd tag ad v) s (send (.access er (if wr then 0 else v)) (opDone q s)))

/-- After reset each page header holds its block code, instance, version, enables and route, and no fault. Rests on R62; R63; R64; R67; R68;
R71; R104; R861. -/
def Obligations.ResetValuesOfTheHeaders : Prop :=
  (∀ (pg i : Nat) (b : Blk), pageBlk pg = some (b, i) →
    getR State.reset pg R.HDR_ID = BitVec.ofNat 32 (b.code * 2 ^ 16 + i) ∧ getR State.reset pg R.HDR_VERSION = 0x100 ∧ getR State.reset pg R.HDR_FAULT = 0 ∧
    getR State.reset pg R.HDR_FAULT_EN = BitVec.ofNat 32 (b.causes + 15) ∧ getR State.reset pg R.HDR_ROUTE = 3 ∧ getR State.reset pg R.HDR_STARTS = 0 ∧
    getR State.reset pg R.HDR_READY = 0 ∧ getR State.reset pg R.HDR_IGNORED = 0) ∧
  State.reset.inReset = true ∧ State.reset.pending = [] ∧ State.reset.dram = [] ∧ State.reset.time = 0

/-- The reset state is sound. Rests on R9; R46; Safety.lean: Sound. -/
def Obligations.SoundAtReset : Prop :=
  Sound Fuses.good State.reset ∧ SafeQueue State.reset

/-- Every step keeps a sound state sound. Rests on R9; R46; R370; Safety.lean: Sound. -/
def Obligations.SoundKept : Prop :=
  ∀ (F : Fuses) (s t : State), Sound F s → step s = .next t → Sound F t

/-- No command changes the queue or the fuses, takes back a message, or reuses a free value. Rests on Scope of the block: queue, messages sent,
fuses; R96. -/
def Obligations.WhatNoCommandChanges : Prop :=
  ∀ (i : Instr) (s t : State), exec i s = .next t →
    t.pending = s.pending ∧ t.fuses = s.fuses ∧ (∃ l, t.outbox = s.outbox ++ l) ∧ s.freeCtr ≤ t.freeCtr
end

