-- ==== Sys2Proof/Laws/Frames.lean ====
section
/-! SUPPORT. What a sealed frame and the entry of a frame can do (R635, R637, R639). -/

namespace Sys2Proof.Machine

theorem frameSeal_toNat (h : BitVec 608) :
    (frameSeal h).toNat = h.toNat + 2 ^ 608 * (crc32 (coveredBytes (h.setWidth 640))).toNat := by
  have h1 := h.isLt
  have h2 := (crc32 (coveredBytes (h.setWidth 640))).isLt
  simp only [frameSeal, BitVec.toNat_ofNat]
  omega

/-- A sealed frame holds what was sealed. -/
theorem frameSeal_bits (h : BitVec 608) (k n : Nat) (hk : k + n ≤ 608) : (frameSeal h).extractLsb' k n = (h.setWidth 640).extractLsb' k n := by
  apply BitVec.eq_of_getLsbD_eq
  intro i hi
  have hb : k + i < 608 := by omega
  simp only [BitVec.getLsbD_extractLsb', hi, decide_true, Bool.true_and, BitVec.getLsbD_setWidth, show k + i < 640 by omega]
  rw [BitVec.getLsbD, BitVec.getLsbD, frameSeal_toNat, Nat.add_comm, Nat.testBit_two_pow_mul_add _ h.isLt]
  simp [hb]

/-- Its covered bytes are those of what was sealed. -/
theorem coveredBytes_frameSeal (h : BitVec 608) : coveredBytes (frameSeal h) = coveredBytes (h.setWidth 640) := by
  unfold coveredBytes
  apply List.map_congr_left
  intro j hj
  exact frameSeal_bits h (8 * j) 8 (by have := List.mem_range.mp hj; omega)

/-- A sealed frame passes its CRC. -/
theorem crcPasses_frameSeal (h : BitVec 608) : crcPasses (frameSeal h) = true := by
  have hc := (crc32 (coveredBytes (h.setWidth 640))).isLt
  simp only [crcPasses, coveredBytes_frameSeal, beq_iff_eq]
  apply BitVec.eq_of_toNat_eq
  simp only [BitVec.extractLsb'_toNat, frameSeal_toNat]
  have := h.isLt
  rw [Nat.shiftRight_eq_div_pow]
  omega

/-- Everything that a frame entering a port can do: nothing, count as failed, or act. -/
theorem frameIn_cases (p : Nat) (f : Frame) (act : State → State) (s : State) :
    (portHears s p = false ∧ frameIn p f act s = s) ∨
    (portHears s p = true ∧ frameBad f.bits = true ∧ frameIn p f act s = failedFrame p f.bits (fecCount p f.corr s)) ∨
    (portHears s p = true ∧ frameBad f.bits = false ∧ frameIn p f act s = act (fecCount p f.corr s)) := by
  unfold frameIn
  cases portHears s p <;> cases frameBad f.bits <;> simp

end Sys2Proof.Machine
end

