-- ==== Sys2Proof/Laws/State.lean ====
section
/-! SUPPORT. One lemma for each named update and each field that it leaves alone. -/

namespace Sys2Proof.Machine

@[simp] theorem setR_pending (pg o : Nat) (v : Word) (s : State) : (setR pg o v s).pending = s.pending := rfl
@[simp] theorem setR_outbox (pg o : Nat) (v : Word) (s : State) : (setR pg o v s).outbox = s.outbox := rfl
@[simp] theorem setR_freeCtr (pg o : Nat) (v : Word) (s : State) : (setR pg o v s).freeCtr = s.freeCtr := rfl
@[simp] theorem setR_fuses (pg o : Nat) (v : Word) (s : State) : (setR pg o v s).fuses = s.fuses := rfl
@[simp] theorem setR_inReset (pg o : Nat) (v : Word) (s : State) : (setR pg o v s).inReset = s.inReset := rfl
@[simp] theorem setR_testEn (pg o : Nat) (v : Word) (s : State) : (setR pg o v s).testEn = s.testEn := rfl
@[simp] theorem setR_tripped (pg o : Nat) (v : Word) (s : State) : (setR pg o v s).tripped = s.tripped := rfl
@[simp] theorem setR_capt (pg o : Nat) (v : Word) (s : State) : (setR pg o v s).capt = s.capt := rfl
@[simp] theorem setR_selfFailed (pg o : Nat) (v : Word) (s : State) : (setR pg o v s).selfFailed = s.selfFailed := rfl
@[simp] theorem setR_testEnded (pg o : Nat) (v : Word) (s : State) : (setR pg o v s).testEnded = s.testEnded := rfl
@[simp] theorem setR_wbuf (pg o : Nat) (v : Word) (s : State) : (setR pg o v s).wbuf = s.wbuf := rfl
@[simp] theorem setR_time (pg o : Nat) (v : Word) (s : State) : (setR pg o v s).time = s.time := rfl
@[simp] theorem setR_timePend (pg o : Nat) (v : Word) (s : State) : (setR pg o v s).timePend = s.timePend := rfl
@[simp] theorem setR_timeFrac (pg o : Nat) (v : Word) (s : State) : (setR pg o v s).timeFrac = s.timeFrac := rfl
@[simp] theorem setR_pwr (pg o : Nat) (v : Word) (s : State) : (setR pg o v s).pwr = s.pwr := rfl
@[simp] theorem setR_ptns (pg o : Nat) (v : Word) (s : State) : (setR pg o v s).ptns = s.ptns := rfl
@[simp] theorem setR_snap (pg o : Nat) (v : Word) (s : State) : (setR pg o v s).snap = s.snap := rfl
@[simp] theorem setR_prec (pg o : Nat) (v : Word) (s : State) : (setR pg o v s).prec = s.prec := rfl
@[simp] theorem setR_psave (pg o : Nat) (v : Word) (s : State) : (setR pg o v s).psave = s.psave := rfl
@[simp] theorem setR_cores (pg o : Nat) (v : Word) (s : State) : (setR pg o v s).cores = s.cores := rfl
@[simp] theorem setR_arrs (pg o : Nat) (v : Word) (s : State) : (setR pg o v s).arrs = s.arrs := rfl
@[simp] theorem setR_bist (pg o : Nat) (v : Word) (s : State) : (setR pg o v s).bist = s.bist := rfl
@[simp] theorem setR_vecs (pg o : Nat) (v : Word) (s : State) : (setR pg o v s).vecs = s.vecs := rfl
@[simp] theorem setR_movers (pg o : Nat) (v : Word) (s : State) : (setR pg o v s).movers = s.movers := rfl
@[simp] theorem setR_gths (pg o : Nat) (v : Word) (s : State) : (setR pg o v s).gths = s.gths := rfl
@[simp] theorem setR_bars (pg o : Nat) (v : Word) (s : State) : (setR pg o v s).bars = s.bars := rfl
@[simp] theorem setR_ops (pg o : Nat) (v : Word) (s : State) : (setR pg o v s).ops = s.ops := rfl
@[simp] theorem setR_unitJobs (pg o : Nat) (v : Word) (s : State) : (setR pg o v s).unitJobs = s.unitJobs := rfl
@[simp] theorem setR_opWait (pg o : Nat) (v : Word) (s : State) : (setR pg o v s).opWait = s.opWait := rfl
@[simp] theorem setR_opTurn (pg o : Nat) (v : Word) (s : State) : (setR pg o v s).opTurn = s.opTurn := rfl
@[simp] theorem setR_peakAll (pg o : Nat) (v : Word) (s : State) : (setR pg o v s).peakAll = s.peakAll := rfl
@[simp] theorem setR_peaks (pg o : Nat) (v : Word) (s : State) : (setR pg o v s).peaks = s.peaks := rfl
@[simp] theorem setR_nextTxn (pg o : Nat) (v : Word) (s : State) : (setR pg o v s).nextTxn = s.nextTxn := rfl
@[simp] theorem setR_netmMasks (pg o : Nat) (v : Word) (s : State) : (setR pg o v s).netmMasks = s.netmMasks := rfl
@[simp] theorem setR_reds (pg o : Nat) (v : Word) (s : State) : (setR pg o v s).reds = s.reds := rfl
@[simp] theorem setR_redWait (pg o : Nat) (v : Word) (s : State) : (setR pg o v s).redWait = s.redWait := rfl
@[simp] theorem setR_tagCache (pg o : Nat) (v : Word) (s : State) : (setR pg o v s).tagCache = s.tagCache := rfl
@[simp] theorem setR_redDead (pg o : Nat) (v : Word) (s : State) : (setR pg o v s).redDead = s.redDead := rfl
@[simp] theorem setR_homes (pg o : Nat) (v : Word) (s : State) : (setR pg o v s).homes = s.homes := rfl
@[simp] theorem setR_standIn (pg o : Nat) (v : Word) (s : State) : (setR pg o v s).standIn = s.standIn := rfl
@[simp] theorem setR_slices (pg o : Nat) (v : Word) (s : State) : (setR pg o v s).slices = s.slices := rfl
@[simp] theorem setR_cache (pg o : Nat) (v : Word) (s : State) : (setR pg o v s).cache = s.cache := rfl
@[simp] theorem setR_dirs (pg o : Nat) (v : Word) (s : State) : (setR pg o v s).dirs = s.dirs := rfl
@[simp] theorem setR_heights (pg o : Nat) (v : Word) (s : State) : (setR pg o v s).heights = s.heights := rfl
@[simp] theorem setR_dram (pg o : Nat) (v : Word) (s : State) : (setR pg o v s).dram = s.dram := rfl
@[simp] theorem setR_badGlz (pg o : Nat) (v : Word) (s : State) : (setR pg o v s).badGlz = s.badGlz := rfl
@[simp] theorem setR_ueLines (pg o : Nat) (v : Word) (s : State) : (setR pg o v s).ueLines = s.ueLines := rfl
@[simp] theorem setR_keepPools (pg o : Nat) (v : Word) (s : State) : (setR pg o v s).keepPools = s.keepPools := rfl
@[simp] theorem setR_keepRecs (pg o : Nat) (v : Word) (s : State) : (setR pg o v s).keepRecs = s.keepRecs := rfl
@[simp] theorem setR_heldReqs (pg o : Nat) (v : Word) (s : State) : (setR pg o v s).heldReqs = s.heldReqs := rfl
@[simp] theorem setR_ports (pg o : Nat) (v : Word) (s : State) : (setR pg o v s).ports = s.ports := rfl
@[simp] theorem setR_grps (pg o : Nat) (v : Word) (s : State) : (setR pg o v s).grps = s.grps := rfl
@[simp] theorem setR_unreach (pg o : Nat) (v : Word) (s : State) : (setR pg o v s).unreach = s.unreach := rfl
@[simp] theorem setR_mcasts (pg o : Nat) (v : Word) (s : State) : (setR pg o v s).mcasts = s.mcasts := rfl
@[simp] theorem setR_twn (pg o : Nat) (v : Word) (s : State) : (setR pg o v s).twn = s.twn := rfl
@[simp] theorem setR_ringStage (pg o : Nat) (v : Word) (s : State) : (setR pg o v s).ringStage = s.ringStage := rfl
@[simp] theorem setR_msgRings (pg o : Nat) (v : Word) (s : State) : (setR pg o v s).msgRings = s.msgRings := rfl
@[simp] theorem setR_ann (pg o : Nat) (v : Word) (s : State) : (setR pg o v s).ann = s.ann := rfl
@[simp] theorem setR_alm (pg o : Nat) (v : Word) (s : State) : (setR pg o v s).alm = s.alm := rfl
@[simp] theorem setR_recCopies (pg o : Nat) (v : Word) (s : State) : (setR pg o v s).recCopies = s.recCopies := rfl
@[simp] theorem setR_report (pg o : Nat) (v : Word) (s : State) : (setR pg o v s).report = s.report := rfl
@[simp] theorem setR_tap (pg o : Nat) (v : Word) (s : State) : (setR pg o v s).tap = s.tap := rfl

@[simp] theorem setF_pending (pg o lo len v : Nat) (s : State) : (setF pg o lo len v s).pending = s.pending := rfl
@[simp] theorem setF_outbox (pg o lo len v : Nat) (s : State) : (setF pg o lo len v s).outbox = s.outbox := rfl
@[simp] theorem setF_freeCtr (pg o lo len v : Nat) (s : State) : (setF pg o lo len v s).freeCtr = s.freeCtr := rfl
@[simp] theorem setF_fuses (pg o lo len v : Nat) (s : State) : (setF pg o lo len v s).fuses = s.fuses := rfl
@[simp] theorem setF_inReset (pg o lo len v : Nat) (s : State) : (setF pg o lo len v s).inReset = s.inReset := rfl
@[simp] theorem setF_testEn (pg o lo len v : Nat) (s : State) : (setF pg o lo len v s).testEn = s.testEn := rfl
@[simp] theorem setF_tripped (pg o lo len v : Nat) (s : State) : (setF pg o lo len v s).tripped = s.tripped := rfl
@[simp] theorem setF_capt (pg o lo len v : Nat) (s : State) : (setF pg o lo len v s).capt = s.capt := rfl
@[simp] theorem setF_selfFailed (pg o lo len v : Nat) (s : State) : (setF pg o lo len v s).selfFailed = s.selfFailed := rfl
@[simp] theorem setF_testEnded (pg o lo len v : Nat) (s : State) : (setF pg o lo len v s).testEnded = s.testEnded := rfl
@[simp] theorem setF_wbuf (pg o lo len v : Nat) (s : State) : (setF pg o lo len v s).wbuf = s.wbuf := rfl
@[simp] theorem setF_time (pg o lo len v : Nat) (s : State) : (setF pg o lo len v s).time = s.time := rfl
@[simp] theorem setF_timePend (pg o lo len v : Nat) (s : State) : (setF pg o lo len v s).timePend = s.timePend := rfl
@[simp] theorem setF_timeFrac (pg o lo len v : Nat) (s : State) : (setF pg o lo len v s).timeFrac = s.timeFrac := rfl
@[simp] theorem setF_pwr (pg o lo len v : Nat) (s : State) : (setF pg o lo len v s).pwr = s.pwr := rfl
@[simp] theorem setF_ptns (pg o lo len v : Nat) (s : State) : (setF pg o lo len v s).ptns = s.ptns := rfl
@[simp] theorem setF_snap (pg o lo len v : Nat) (s : State) : (setF pg o lo len v s).snap = s.snap := rfl
@[simp] theorem setF_prec (pg o lo len v : Nat) (s : State) : (setF pg o lo len v s).prec = s.prec := rfl
@[simp] theorem setF_psave (pg o lo len v : Nat) (s : State) : (setF pg o lo len v s).psave = s.psave := rfl
@[simp] theorem setF_cores (pg o lo len v : Nat) (s : State) : (setF pg o lo len v s).cores = s.cores := rfl
@[simp] theorem setF_arrs (pg o lo len v : Nat) (s : State) : (setF pg o lo len v s).arrs = s.arrs := rfl
@[simp] theorem setF_bist (pg o lo len v : Nat) (s : State) : (setF pg o lo len v s).bist = s.bist := rfl
@[simp] theorem setF_vecs (pg o lo len v : Nat) (s : State) : (setF pg o lo len v s).vecs = s.vecs := rfl
@[simp] theorem setF_movers (pg o lo len v : Nat) (s : State) : (setF pg o lo len v s).movers = s.movers := rfl
@[simp] theorem setF_gths (pg o lo len v : Nat) (s : State) : (setF pg o lo len v s).gths = s.gths := rfl
@[simp] theorem setF_bars (pg o lo len v : Nat) (s : State) : (setF pg o lo len v s).bars = s.bars := rfl
@[simp] theorem setF_ops (pg o lo len v : Nat) (s : State) : (setF pg o lo len v s).ops = s.ops := rfl
@[simp] theorem setF_unitJobs (pg o lo len v : Nat) (s : State) : (setF pg o lo len v s).unitJobs = s.unitJobs := rfl
@[simp] theorem setF_opWait (pg o lo len v : Nat) (s : State) : (setF pg o lo len v s).opWait = s.opWait := rfl
@[simp] theorem setF_opTurn (pg o lo len v : Nat) (s : State) : (setF pg o lo len v s).opTurn = s.opTurn := rfl
@[simp] theorem setF_peakAll (pg o lo len v : Nat) (s : State) : (setF pg o lo len v s).peakAll = s.peakAll := rfl
@[simp] theorem setF_peaks (pg o lo len v : Nat) (s : State) : (setF pg o lo len v s).peaks = s.peaks := rfl
@[simp] theorem setF_nextTxn (pg o lo len v : Nat) (s : State) : (setF pg o lo len v s).nextTxn = s.nextTxn := rfl
@[simp] theorem setF_netmMasks (pg o lo len v : Nat) (s : State) : (setF pg o lo len v s).netmMasks = s.netmMasks := rfl
@[simp] theorem setF_reds (pg o lo len v : Nat) (s : State) : (setF pg o lo len v s).reds = s.reds := rfl
@[simp] theorem setF_redWait (pg o lo len v : Nat) (s : State) : (setF pg o lo len v s).redWait = s.redWait := rfl
@[simp] theorem setF_tagCache (pg o lo len v : Nat) (s : State) : (setF pg o lo len v s).tagCache = s.tagCache := rfl
@[simp] theorem setF_redDead (pg o lo len v : Nat) (s : State) : (setF pg o lo len v s).redDead = s.redDead := rfl
@[simp] theorem setF_homes (pg o lo len v : Nat) (s : State) : (setF pg o lo len v s).homes = s.homes := rfl
@[simp] theorem setF_standIn (pg o lo len v : Nat) (s : State) : (setF pg o lo len v s).standIn = s.standIn := rfl
@[simp] theorem setF_slices (pg o lo len v : Nat) (s : State) : (setF pg o lo len v s).slices = s.slices := rfl
@[simp] theorem setF_cache (pg o lo len v : Nat) (s : State) : (setF pg o lo len v s).cache = s.cache := rfl
@[simp] theorem setF_dirs (pg o lo len v : Nat) (s : State) : (setF pg o lo len v s).dirs = s.dirs := rfl
@[simp] theorem setF_heights (pg o lo len v : Nat) (s : State) : (setF pg o lo len v s).heights = s.heights := rfl
@[simp] theorem setF_dram (pg o lo len v : Nat) (s : State) : (setF pg o lo len v s).dram = s.dram := rfl
@[simp] theorem setF_badGlz (pg o lo len v : Nat) (s : State) : (setF pg o lo len v s).badGlz = s.badGlz := rfl
@[simp] theorem setF_ueLines (pg o lo len v : Nat) (s : State) : (setF pg o lo len v s).ueLines = s.ueLines := rfl
@[simp] theorem setF_keepPools (pg o lo len v : Nat) (s : State) : (setF pg o lo len v s).keepPools = s.keepPools := rfl
@[simp] theorem setF_keepRecs (pg o lo len v : Nat) (s : State) : (setF pg o lo len v s).keepRecs = s.keepRecs := rfl
@[simp] theorem setF_heldReqs (pg o lo len v : Nat) (s : State) : (setF pg o lo len v s).heldReqs = s.heldReqs := rfl
@[simp] theorem setF_ports (pg o lo len v : Nat) (s : State) : (setF pg o lo len v s).ports = s.ports := rfl
@[simp] theorem setF_grps (pg o lo len v : Nat) (s : State) : (setF pg o lo len v s).grps = s.grps := rfl
@[simp] theorem setF_unreach (pg o lo len v : Nat) (s : State) : (setF pg o lo len v s).unreach = s.unreach := rfl
@[simp] theorem setF_mcasts (pg o lo len v : Nat) (s : State) : (setF pg o lo len v s).mcasts = s.mcasts := rfl
@[simp] theorem setF_twn (pg o lo len v : Nat) (s : State) : (setF pg o lo len v s).twn = s.twn := rfl
@[simp] theorem setF_ringStage (pg o lo len v : Nat) (s : State) : (setF pg o lo len v s).ringStage = s.ringStage := rfl
@[simp] theorem setF_msgRings (pg o lo len v : Nat) (s : State) : (setF pg o lo len v s).msgRings = s.msgRings := rfl
@[simp] theorem setF_ann (pg o lo len v : Nat) (s : State) : (setF pg o lo len v s).ann = s.ann := rfl
@[simp] theorem setF_alm (pg o lo len v : Nat) (s : State) : (setF pg o lo len v s).alm = s.alm := rfl
@[simp] theorem setF_recCopies (pg o lo len v : Nat) (s : State) : (setF pg o lo len v s).recCopies = s.recCopies := rfl
@[simp] theorem setF_report (pg o lo len v : Nat) (s : State) : (setF pg o lo len v s).report = s.report := rfl
@[simp] theorem setF_tap (pg o lo len v : Nat) (s : State) : (setF pg o lo len v s).tap = s.tap := rfl

@[simp] theorem wrapR_pending (pg o k : Nat) (s : State) : (wrapR pg o k s).pending = s.pending := rfl
@[simp] theorem wrapR_outbox (pg o k : Nat) (s : State) : (wrapR pg o k s).outbox = s.outbox := rfl
@[simp] theorem wrapR_freeCtr (pg o k : Nat) (s : State) : (wrapR pg o k s).freeCtr = s.freeCtr := rfl
@[simp] theorem wrapR_fuses (pg o k : Nat) (s : State) : (wrapR pg o k s).fuses = s.fuses := rfl
@[simp] theorem wrapR_inReset (pg o k : Nat) (s : State) : (wrapR pg o k s).inReset = s.inReset := rfl
@[simp] theorem wrapR_testEn (pg o k : Nat) (s : State) : (wrapR pg o k s).testEn = s.testEn := rfl
@[simp] theorem wrapR_tripped (pg o k : Nat) (s : State) : (wrapR pg o k s).tripped = s.tripped := rfl
@[simp] theorem wrapR_capt (pg o k : Nat) (s : State) : (wrapR pg o k s).capt = s.capt := rfl
@[simp] theorem wrapR_selfFailed (pg o k : Nat) (s : State) : (wrapR pg o k s).selfFailed = s.selfFailed := rfl
@[simp] theorem wrapR_testEnded (pg o k : Nat) (s : State) : (wrapR pg o k s).testEnded = s.testEnded := rfl
@[simp] theorem wrapR_wbuf (pg o k : Nat) (s : State) : (wrapR pg o k s).wbuf = s.wbuf := rfl
@[simp] theorem wrapR_time (pg o k : Nat) (s : State) : (wrapR pg o k s).time = s.time := rfl
@[simp] theorem wrapR_timePend (pg o k : Nat) (s : State) : (wrapR pg o k s).timePend = s.timePend := rfl
@[simp] theorem wrapR_timeFrac (pg o k : Nat) (s : State) : (wrapR pg o k s).timeFrac = s.timeFrac := rfl
@[simp] theorem wrapR_pwr (pg o k : Nat) (s : State) : (wrapR pg o k s).pwr = s.pwr := rfl
@[simp] theorem wrapR_ptns (pg o k : Nat) (s : State) : (wrapR pg o k s).ptns = s.ptns := rfl
@[simp] theorem wrapR_snap (pg o k : Nat) (s : State) : (wrapR pg o k s).snap = s.snap := rfl
@[simp] theorem wrapR_prec (pg o k : Nat) (s : State) : (wrapR pg o k s).prec = s.prec := rfl
@[simp] theorem wrapR_psave (pg o k : Nat) (s : State) : (wrapR pg o k s).psave = s.psave := rfl
@[simp] theorem wrapR_cores (pg o k : Nat) (s : State) : (wrapR pg o k s).cores = s.cores := rfl
@[simp] theorem wrapR_arrs (pg o k : Nat) (s : State) : (wrapR pg o k s).arrs = s.arrs := rfl
@[simp] theorem wrapR_bist (pg o k : Nat) (s : State) : (wrapR pg o k s).bist = s.bist := rfl
@[simp] theorem wrapR_vecs (pg o k : Nat) (s : State) : (wrapR pg o k s).vecs = s.vecs := rfl
@[simp] theorem wrapR_movers (pg o k : Nat) (s : State) : (wrapR pg o k s).movers = s.movers := rfl
@[simp] theorem wrapR_gths (pg o k : Nat) (s : State) : (wrapR pg o k s).gths = s.gths := rfl
@[simp] theorem wrapR_bars (pg o k : Nat) (s : State) : (wrapR pg o k s).bars = s.bars := rfl
@[simp] theorem wrapR_ops (pg o k : Nat) (s : State) : (wrapR pg o k s).ops = s.ops := rfl
@[simp] theorem wrapR_unitJobs (pg o k : Nat) (s : State) : (wrapR pg o k s).unitJobs = s.unitJobs := rfl
@[simp] theorem wrapR_opWait (pg o k : Nat) (s : State) : (wrapR pg o k s).opWait = s.opWait := rfl
@[simp] theorem wrapR_opTurn (pg o k : Nat) (s : State) : (wrapR pg o k s).opTurn = s.opTurn := rfl
@[simp] theorem wrapR_peakAll (pg o k : Nat) (s : State) : (wrapR pg o k s).peakAll = s.peakAll := rfl
@[simp] theorem wrapR_peaks (pg o k : Nat) (s : State) : (wrapR pg o k s).peaks = s.peaks := rfl
@[simp] theorem wrapR_nextTxn (pg o k : Nat) (s : State) : (wrapR pg o k s).nextTxn = s.nextTxn := rfl
@[simp] theorem wrapR_netmMasks (pg o k : Nat) (s : State) : (wrapR pg o k s).netmMasks = s.netmMasks := rfl
@[simp] theorem wrapR_reds (pg o k : Nat) (s : State) : (wrapR pg o k s).reds = s.reds := rfl
@[simp] theorem wrapR_redWait (pg o k : Nat) (s : State) : (wrapR pg o k s).redWait = s.redWait := rfl
@[simp] theorem wrapR_tagCache (pg o k : Nat) (s : State) : (wrapR pg o k s).tagCache = s.tagCache := rfl
@[simp] theorem wrapR_redDead (pg o k : Nat) (s : State) : (wrapR pg o k s).redDead = s.redDead := rfl
@[simp] theorem wrapR_homes (pg o k : Nat) (s : State) : (wrapR pg o k s).homes = s.homes := rfl
@[simp] theorem wrapR_standIn (pg o k : Nat) (s : State) : (wrapR pg o k s).standIn = s.standIn := rfl
@[simp] theorem wrapR_slices (pg o k : Nat) (s : State) : (wrapR pg o k s).slices = s.slices := rfl
@[simp] theorem wrapR_cache (pg o k : Nat) (s : State) : (wrapR pg o k s).cache = s.cache := rfl
@[simp] theorem wrapR_dirs (pg o k : Nat) (s : State) : (wrapR pg o k s).dirs = s.dirs := rfl
@[simp] theorem wrapR_heights (pg o k : Nat) (s : State) : (wrapR pg o k s).heights = s.heights := rfl
@[simp] theorem wrapR_dram (pg o k : Nat) (s : State) : (wrapR pg o k s).dram = s.dram := rfl
@[simp] theorem wrapR_badGlz (pg o k : Nat) (s : State) : (wrapR pg o k s).badGlz = s.badGlz := rfl
@[simp] theorem wrapR_ueLines (pg o k : Nat) (s : State) : (wrapR pg o k s).ueLines = s.ueLines := rfl
@[simp] theorem wrapR_keepPools (pg o k : Nat) (s : State) : (wrapR pg o k s).keepPools = s.keepPools := rfl
@[simp] theorem wrapR_keepRecs (pg o k : Nat) (s : State) : (wrapR pg o k s).keepRecs = s.keepRecs := rfl
@[simp] theorem wrapR_heldReqs (pg o k : Nat) (s : State) : (wrapR pg o k s).heldReqs = s.heldReqs := rfl
@[simp] theorem wrapR_ports (pg o k : Nat) (s : State) : (wrapR pg o k s).ports = s.ports := rfl
@[simp] theorem wrapR_grps (pg o k : Nat) (s : State) : (wrapR pg o k s).grps = s.grps := rfl
@[simp] theorem wrapR_unreach (pg o k : Nat) (s : State) : (wrapR pg o k s).unreach = s.unreach := rfl
@[simp] theorem wrapR_mcasts (pg o k : Nat) (s : State) : (wrapR pg o k s).mcasts = s.mcasts := rfl
@[simp] theorem wrapR_twn (pg o k : Nat) (s : State) : (wrapR pg o k s).twn = s.twn := rfl
@[simp] theorem wrapR_ringStage (pg o k : Nat) (s : State) : (wrapR pg o k s).ringStage = s.ringStage := rfl
@[simp] theorem wrapR_msgRings (pg o k : Nat) (s : State) : (wrapR pg o k s).msgRings = s.msgRings := rfl
@[simp] theorem wrapR_ann (pg o k : Nat) (s : State) : (wrapR pg o k s).ann = s.ann := rfl
@[simp] theorem wrapR_alm (pg o k : Nat) (s : State) : (wrapR pg o k s).alm = s.alm := rfl
@[simp] theorem wrapR_recCopies (pg o k : Nat) (s : State) : (wrapR pg o k s).recCopies = s.recCopies := rfl
@[simp] theorem wrapR_report (pg o k : Nat) (s : State) : (wrapR pg o k s).report = s.report := rfl
@[simp] theorem wrapR_tap (pg o k : Nat) (s : State) : (wrapR pg o k s).tap = s.tap := rfl

@[simp] theorem satR_pending (pg o k : Nat) (s : State) : (satR pg o k s).pending = s.pending := rfl
@[simp] theorem satR_outbox (pg o k : Nat) (s : State) : (satR pg o k s).outbox = s.outbox := rfl
@[simp] theorem satR_freeCtr (pg o k : Nat) (s : State) : (satR pg o k s).freeCtr = s.freeCtr := rfl
@[simp] theorem satR_fuses (pg o k : Nat) (s : State) : (satR pg o k s).fuses = s.fuses := rfl
@[simp] theorem satR_inReset (pg o k : Nat) (s : State) : (satR pg o k s).inReset = s.inReset := rfl
@[simp] theorem satR_testEn (pg o k : Nat) (s : State) : (satR pg o k s).testEn = s.testEn := rfl
@[simp] theorem satR_tripped (pg o k : Nat) (s : State) : (satR pg o k s).tripped = s.tripped := rfl
@[simp] theorem satR_capt (pg o k : Nat) (s : State) : (satR pg o k s).capt = s.capt := rfl
@[simp] theorem satR_selfFailed (pg o k : Nat) (s : State) : (satR pg o k s).selfFailed = s.selfFailed := rfl
@[simp] theorem satR_testEnded (pg o k : Nat) (s : State) : (satR pg o k s).testEnded = s.testEnded := rfl
@[simp] theorem satR_wbuf (pg o k : Nat) (s : State) : (satR pg o k s).wbuf = s.wbuf := rfl
@[simp] theorem satR_time (pg o k : Nat) (s : State) : (satR pg o k s).time = s.time := rfl
@[simp] theorem satR_timePend (pg o k : Nat) (s : State) : (satR pg o k s).timePend = s.timePend := rfl
@[simp] theorem satR_timeFrac (pg o k : Nat) (s : State) : (satR pg o k s).timeFrac = s.timeFrac := rfl
@[simp] theorem satR_pwr (pg o k : Nat) (s : State) : (satR pg o k s).pwr = s.pwr := rfl
@[simp] theorem satR_ptns (pg o k : Nat) (s : State) : (satR pg o k s).ptns = s.ptns := rfl
@[simp] theorem satR_snap (pg o k : Nat) (s : State) : (satR pg o k s).snap = s.snap := rfl
@[simp] theorem satR_prec (pg o k : Nat) (s : State) : (satR pg o k s).prec = s.prec := rfl
@[simp] theorem satR_psave (pg o k : Nat) (s : State) : (satR pg o k s).psave = s.psave := rfl
@[simp] theorem satR_cores (pg o k : Nat) (s : State) : (satR pg o k s).cores = s.cores := rfl
@[simp] theorem satR_arrs (pg o k : Nat) (s : State) : (satR pg o k s).arrs = s.arrs := rfl
@[simp] theorem satR_bist (pg o k : Nat) (s : State) : (satR pg o k s).bist = s.bist := rfl
@[simp] theorem satR_vecs (pg o k : Nat) (s : State) : (satR pg o k s).vecs = s.vecs := rfl
@[simp] theorem satR_movers (pg o k : Nat) (s : State) : (satR pg o k s).movers = s.movers := rfl
@[simp] theorem satR_gths (pg o k : Nat) (s : State) : (satR pg o k s).gths = s.gths := rfl
@[simp] theorem satR_bars (pg o k : Nat) (s : State) : (satR pg o k s).bars = s.bars := rfl
@[simp] theorem satR_ops (pg o k : Nat) (s : State) : (satR pg o k s).ops = s.ops := rfl
@[simp] theorem satR_unitJobs (pg o k : Nat) (s : State) : (satR pg o k s).unitJobs = s.unitJobs := rfl
@[simp] theorem satR_opWait (pg o k : Nat) (s : State) : (satR pg o k s).opWait = s.opWait := rfl
@[simp] theorem satR_opTurn (pg o k : Nat) (s : State) : (satR pg o k s).opTurn = s.opTurn := rfl
@[simp] theorem satR_peakAll (pg o k : Nat) (s : State) : (satR pg o k s).peakAll = s.peakAll := rfl
@[simp] theorem satR_peaks (pg o k : Nat) (s : State) : (satR pg o k s).peaks = s.peaks := rfl
@[simp] theorem satR_nextTxn (pg o k : Nat) (s : State) : (satR pg o k s).nextTxn = s.nextTxn := rfl
@[simp] theorem satR_netmMasks (pg o k : Nat) (s : State) : (satR pg o k s).netmMasks = s.netmMasks := rfl
@[simp] theorem satR_reds (pg o k : Nat) (s : State) : (satR pg o k s).reds = s.reds := rfl
@[simp] theorem satR_redWait (pg o k : Nat) (s : State) : (satR pg o k s).redWait = s.redWait := rfl
@[simp] theorem satR_tagCache (pg o k : Nat) (s : State) : (satR pg o k s).tagCache = s.tagCache := rfl
@[simp] theorem satR_redDead (pg o k : Nat) (s : State) : (satR pg o k s).redDead = s.redDead := rfl
@[simp] theorem satR_homes (pg o k : Nat) (s : State) : (satR pg o k s).homes = s.homes := rfl
@[simp] theorem satR_standIn (pg o k : Nat) (s : State) : (satR pg o k s).standIn = s.standIn := rfl
@[simp] theorem satR_slices (pg o k : Nat) (s : State) : (satR pg o k s).slices = s.slices := rfl
@[simp] theorem satR_cache (pg o k : Nat) (s : State) : (satR pg o k s).cache = s.cache := rfl
@[simp] theorem satR_dirs (pg o k : Nat) (s : State) : (satR pg o k s).dirs = s.dirs := rfl
@[simp] theorem satR_heights (pg o k : Nat) (s : State) : (satR pg o k s).heights = s.heights := rfl
@[simp] theorem satR_dram (pg o k : Nat) (s : State) : (satR pg o k s).dram = s.dram := rfl
@[simp] theorem satR_badGlz (pg o k : Nat) (s : State) : (satR pg o k s).badGlz = s.badGlz := rfl
@[simp] theorem satR_ueLines (pg o k : Nat) (s : State) : (satR pg o k s).ueLines = s.ueLines := rfl
@[simp] theorem satR_keepPools (pg o k : Nat) (s : State) : (satR pg o k s).keepPools = s.keepPools := rfl
@[simp] theorem satR_keepRecs (pg o k : Nat) (s : State) : (satR pg o k s).keepRecs = s.keepRecs := rfl
@[simp] theorem satR_heldReqs (pg o k : Nat) (s : State) : (satR pg o k s).heldReqs = s.heldReqs := rfl
@[simp] theorem satR_ports (pg o k : Nat) (s : State) : (satR pg o k s).ports = s.ports := rfl
@[simp] theorem satR_grps (pg o k : Nat) (s : State) : (satR pg o k s).grps = s.grps := rfl
@[simp] theorem satR_unreach (pg o k : Nat) (s : State) : (satR pg o k s).unreach = s.unreach := rfl
@[simp] theorem satR_mcasts (pg o k : Nat) (s : State) : (satR pg o k s).mcasts = s.mcasts := rfl
@[simp] theorem satR_twn (pg o k : Nat) (s : State) : (satR pg o k s).twn = s.twn := rfl
@[simp] theorem satR_ringStage (pg o k : Nat) (s : State) : (satR pg o k s).ringStage = s.ringStage := rfl
@[simp] theorem satR_msgRings (pg o k : Nat) (s : State) : (satR pg o k s).msgRings = s.msgRings := rfl
@[simp] theorem satR_ann (pg o k : Nat) (s : State) : (satR pg o k s).ann = s.ann := rfl
@[simp] theorem satR_alm (pg o k : Nat) (s : State) : (satR pg o k s).alm = s.alm := rfl
@[simp] theorem satR_recCopies (pg o k : Nat) (s : State) : (satR pg o k s).recCopies = s.recCopies := rfl
@[simp] theorem satR_report (pg o k : Nat) (s : State) : (satR pg o k s).report = s.report := rfl
@[simp] theorem satR_tap (pg o k : Nat) (s : State) : (satR pg o k s).tap = s.tap := rfl

@[simp] theorem setQ_pending (pg o : Nat) (v : DWord) (s : State) : (setQ pg o v s).pending = s.pending := rfl
@[simp] theorem setQ_outbox (pg o : Nat) (v : DWord) (s : State) : (setQ pg o v s).outbox = s.outbox := rfl
@[simp] theorem setQ_freeCtr (pg o : Nat) (v : DWord) (s : State) : (setQ pg o v s).freeCtr = s.freeCtr := rfl
@[simp] theorem setQ_fuses (pg o : Nat) (v : DWord) (s : State) : (setQ pg o v s).fuses = s.fuses := rfl
@[simp] theorem setQ_inReset (pg o : Nat) (v : DWord) (s : State) : (setQ pg o v s).inReset = s.inReset := rfl
@[simp] theorem setQ_testEn (pg o : Nat) (v : DWord) (s : State) : (setQ pg o v s).testEn = s.testEn := rfl
@[simp] theorem setQ_tripped (pg o : Nat) (v : DWord) (s : State) : (setQ pg o v s).tripped = s.tripped := rfl
@[simp] theorem setQ_capt (pg o : Nat) (v : DWord) (s : State) : (setQ pg o v s).capt = s.capt := rfl
@[simp] theorem setQ_selfFailed (pg o : Nat) (v : DWord) (s : State) : (setQ pg o v s).selfFailed = s.selfFailed := rfl
@[simp] theorem setQ_testEnded (pg o : Nat) (v : DWord) (s : State) : (setQ pg o v s).testEnded = s.testEnded := rfl
@[simp] theorem setQ_wbuf (pg o : Nat) (v : DWord) (s : State) : (setQ pg o v s).wbuf = s.wbuf := rfl
@[simp] theorem setQ_time (pg o : Nat) (v : DWord) (s : State) : (setQ pg o v s).time = s.time := rfl
@[simp] theorem setQ_timePend (pg o : Nat) (v : DWord) (s : State) : (setQ pg o v s).timePend = s.timePend := rfl
@[simp] theorem setQ_timeFrac (pg o : Nat) (v : DWord) (s : State) : (setQ pg o v s).timeFrac = s.timeFrac := rfl
@[simp] theorem setQ_pwr (pg o : Nat) (v : DWord) (s : State) : (setQ pg o v s).pwr = s.pwr := rfl
@[simp] theorem setQ_ptns (pg o : Nat) (v : DWord) (s : State) : (setQ pg o v s).ptns = s.ptns := rfl
@[simp] theorem setQ_snap (pg o : Nat) (v : DWord) (s : State) : (setQ pg o v s).snap = s.snap := rfl
@[simp] theorem setQ_prec (pg o : Nat) (v : DWord) (s : State) : (setQ pg o v s).prec = s.prec := rfl
@[simp] theorem setQ_psave (pg o : Nat) (v : DWord) (s : State) : (setQ pg o v s).psave = s.psave := rfl
@[simp] theorem setQ_cores (pg o : Nat) (v : DWord) (s : State) : (setQ pg o v s).cores = s.cores := rfl
@[simp] theorem setQ_arrs (pg o : Nat) (v : DWord) (s : State) : (setQ pg o v s).arrs = s.arrs := rfl
@[simp] theorem setQ_bist (pg o : Nat) (v : DWord) (s : State) : (setQ pg o v s).bist = s.bist := rfl
@[simp] theorem setQ_vecs (pg o : Nat) (v : DWord) (s : State) : (setQ pg o v s).vecs = s.vecs := rfl
@[simp] theorem setQ_movers (pg o : Nat) (v : DWord) (s : State) : (setQ pg o v s).movers = s.movers := rfl
@[simp] theorem setQ_gths (pg o : Nat) (v : DWord) (s : State) : (setQ pg o v s).gths = s.gths := rfl
@[simp] theorem setQ_bars (pg o : Nat) (v : DWord) (s : State) : (setQ pg o v s).bars = s.bars := rfl
@[simp] theorem setQ_ops (pg o : Nat) (v : DWord) (s : State) : (setQ pg o v s).ops = s.ops := rfl
@[simp] theorem setQ_unitJobs (pg o : Nat) (v : DWord) (s : State) : (setQ pg o v s).unitJobs = s.unitJobs := rfl
@[simp] theorem setQ_opWait (pg o : Nat) (v : DWord) (s : State) : (setQ pg o v s).opWait = s.opWait := rfl
@[simp] theorem setQ_opTurn (pg o : Nat) (v : DWord) (s : State) : (setQ pg o v s).opTurn = s.opTurn := rfl
@[simp] theorem setQ_peakAll (pg o : Nat) (v : DWord) (s : State) : (setQ pg o v s).peakAll = s.peakAll := rfl
@[simp] theorem setQ_peaks (pg o : Nat) (v : DWord) (s : State) : (setQ pg o v s).peaks = s.peaks := rfl
@[simp] theorem setQ_nextTxn (pg o : Nat) (v : DWord) (s : State) : (setQ pg o v s).nextTxn = s.nextTxn := rfl
@[simp] theorem setQ_netmMasks (pg o : Nat) (v : DWord) (s : State) : (setQ pg o v s).netmMasks = s.netmMasks := rfl
@[simp] theorem setQ_reds (pg o : Nat) (v : DWord) (s : State) : (setQ pg o v s).reds = s.reds := rfl
@[simp] theorem setQ_redWait (pg o : Nat) (v : DWord) (s : State) : (setQ pg o v s).redWait = s.redWait := rfl
@[simp] theorem setQ_tagCache (pg o : Nat) (v : DWord) (s : State) : (setQ pg o v s).tagCache = s.tagCache := rfl
@[simp] theorem setQ_redDead (pg o : Nat) (v : DWord) (s : State) : (setQ pg o v s).redDead = s.redDead := rfl
@[simp] theorem setQ_homes (pg o : Nat) (v : DWord) (s : State) : (setQ pg o v s).homes = s.homes := rfl
@[simp] theorem setQ_standIn (pg o : Nat) (v : DWord) (s : State) : (setQ pg o v s).standIn = s.standIn := rfl
@[simp] theorem setQ_slices (pg o : Nat) (v : DWord) (s : State) : (setQ pg o v s).slices = s.slices := rfl
@[simp] theorem setQ_cache (pg o : Nat) (v : DWord) (s : State) : (setQ pg o v s).cache = s.cache := rfl
@[simp] theorem setQ_dirs (pg o : Nat) (v : DWord) (s : State) : (setQ pg o v s).dirs = s.dirs := rfl
@[simp] theorem setQ_heights (pg o : Nat) (v : DWord) (s : State) : (setQ pg o v s).heights = s.heights := rfl
@[simp] theorem setQ_dram (pg o : Nat) (v : DWord) (s : State) : (setQ pg o v s).dram = s.dram := rfl
@[simp] theorem setQ_badGlz (pg o : Nat) (v : DWord) (s : State) : (setQ pg o v s).badGlz = s.badGlz := rfl
@[simp] theorem setQ_ueLines (pg o : Nat) (v : DWord) (s : State) : (setQ pg o v s).ueLines = s.ueLines := rfl
@[simp] theorem setQ_keepPools (pg o : Nat) (v : DWord) (s : State) : (setQ pg o v s).keepPools = s.keepPools := rfl
@[simp] theorem setQ_keepRecs (pg o : Nat) (v : DWord) (s : State) : (setQ pg o v s).keepRecs = s.keepRecs := rfl
@[simp] theorem setQ_heldReqs (pg o : Nat) (v : DWord) (s : State) : (setQ pg o v s).heldReqs = s.heldReqs := rfl
@[simp] theorem setQ_ports (pg o : Nat) (v : DWord) (s : State) : (setQ pg o v s).ports = s.ports := rfl
@[simp] theorem setQ_grps (pg o : Nat) (v : DWord) (s : State) : (setQ pg o v s).grps = s.grps := rfl
@[simp] theorem setQ_unreach (pg o : Nat) (v : DWord) (s : State) : (setQ pg o v s).unreach = s.unreach := rfl
@[simp] theorem setQ_mcasts (pg o : Nat) (v : DWord) (s : State) : (setQ pg o v s).mcasts = s.mcasts := rfl
@[simp] theorem setQ_twn (pg o : Nat) (v : DWord) (s : State) : (setQ pg o v s).twn = s.twn := rfl
@[simp] theorem setQ_ringStage (pg o : Nat) (v : DWord) (s : State) : (setQ pg o v s).ringStage = s.ringStage := rfl
@[simp] theorem setQ_msgRings (pg o : Nat) (v : DWord) (s : State) : (setQ pg o v s).msgRings = s.msgRings := rfl
@[simp] theorem setQ_ann (pg o : Nat) (v : DWord) (s : State) : (setQ pg o v s).ann = s.ann := rfl
@[simp] theorem setQ_alm (pg o : Nat) (v : DWord) (s : State) : (setQ pg o v s).alm = s.alm := rfl
@[simp] theorem setQ_recCopies (pg o : Nat) (v : DWord) (s : State) : (setQ pg o v s).recCopies = s.recCopies := rfl
@[simp] theorem setQ_report (pg o : Nat) (v : DWord) (s : State) : (setQ pg o v s).report = s.report := rfl
@[simp] theorem setQ_tap (pg o : Nat) (v : DWord) (s : State) : (setQ pg o v s).tap = s.tap := rfl

@[simp] theorem send_pending (m : OutMsg) (s : State) : (send m s).pending = s.pending := rfl
@[simp] theorem send_freeCtr (m : OutMsg) (s : State) : (send m s).freeCtr = s.freeCtr := rfl
@[simp] theorem send_fuses (m : OutMsg) (s : State) : (send m s).fuses = s.fuses := rfl
@[simp] theorem send_inReset (m : OutMsg) (s : State) : (send m s).inReset = s.inReset := rfl
@[simp] theorem send_testEn (m : OutMsg) (s : State) : (send m s).testEn = s.testEn := rfl
@[simp] theorem send_tripped (m : OutMsg) (s : State) : (send m s).tripped = s.tripped := rfl
@[simp] theorem send_regs (m : OutMsg) (s : State) : (send m s).regs = s.regs := rfl
@[simp] theorem send_capt (m : OutMsg) (s : State) : (send m s).capt = s.capt := rfl
@[simp] theorem send_selfFailed (m : OutMsg) (s : State) : (send m s).selfFailed = s.selfFailed := rfl
@[simp] theorem send_testEnded (m : OutMsg) (s : State) : (send m s).testEnded = s.testEnded := rfl
@[simp] theorem send_wbuf (m : OutMsg) (s : State) : (send m s).wbuf = s.wbuf := rfl
@[simp] theorem send_time (m : OutMsg) (s : State) : (send m s).time = s.time := rfl
@[simp] theorem send_timePend (m : OutMsg) (s : State) : (send m s).timePend = s.timePend := rfl
@[simp] theorem send_timeFrac (m : OutMsg) (s : State) : (send m s).timeFrac = s.timeFrac := rfl
@[simp] theorem send_pwr (m : OutMsg) (s : State) : (send m s).pwr = s.pwr := rfl
@[simp] theorem send_ptns (m : OutMsg) (s : State) : (send m s).ptns = s.ptns := rfl
@[simp] theorem send_snap (m : OutMsg) (s : State) : (send m s).snap = s.snap := rfl
@[simp] theorem send_prec (m : OutMsg) (s : State) : (send m s).prec = s.prec := rfl
@[simp] theorem send_psave (m : OutMsg) (s : State) : (send m s).psave = s.psave := rfl
@[simp] theorem send_cores (m : OutMsg) (s : State) : (send m s).cores = s.cores := rfl
@[simp] theorem send_arrs (m : OutMsg) (s : State) : (send m s).arrs = s.arrs := rfl
@[simp] theorem send_bist (m : OutMsg) (s : State) : (send m s).bist = s.bist := rfl
@[simp] theorem send_vecs (m : OutMsg) (s : State) : (send m s).vecs = s.vecs := rfl
@[simp] theorem send_movers (m : OutMsg) (s : State) : (send m s).movers = s.movers := rfl
@[simp] theorem send_gths (m : OutMsg) (s : State) : (send m s).gths = s.gths := rfl
@[simp] theorem send_bars (m : OutMsg) (s : State) : (send m s).bars = s.bars := rfl
@[simp] theorem send_ops (m : OutMsg) (s : State) : (send m s).ops = s.ops := rfl
@[simp] theorem send_unitJobs (m : OutMsg) (s : State) : (send m s).unitJobs = s.unitJobs := rfl
@[simp] theorem send_opWait (m : OutMsg) (s : State) : (send m s).opWait = s.opWait := rfl
@[simp] theorem send_opTurn (m : OutMsg) (s : State) : (send m s).opTurn = s.opTurn := rfl
@[simp] theorem send_peakAll (m : OutMsg) (s : State) : (send m s).peakAll = s.peakAll := rfl
@[simp] theorem send_peaks (m : OutMsg) (s : State) : (send m s).peaks = s.peaks := rfl
@[simp] theorem send_nextTxn (m : OutMsg) (s : State) : (send m s).nextTxn = s.nextTxn := rfl
@[simp] theorem send_netmMasks (m : OutMsg) (s : State) : (send m s).netmMasks = s.netmMasks := rfl
@[simp] theorem send_reds (m : OutMsg) (s : State) : (send m s).reds = s.reds := rfl
@[simp] theorem send_redWait (m : OutMsg) (s : State) : (send m s).redWait = s.redWait := rfl
@[simp] theorem send_tagCache (m : OutMsg) (s : State) : (send m s).tagCache = s.tagCache := rfl
@[simp] theorem send_redDead (m : OutMsg) (s : State) : (send m s).redDead = s.redDead := rfl
@[simp] theorem send_homes (m : OutMsg) (s : State) : (send m s).homes = s.homes := rfl
@[simp] theorem send_standIn (m : OutMsg) (s : State) : (send m s).standIn = s.standIn := rfl
@[simp] theorem send_slices (m : OutMsg) (s : State) : (send m s).slices = s.slices := rfl
@[simp] theorem send_cache (m : OutMsg) (s : State) : (send m s).cache = s.cache := rfl
@[simp] theorem send_dirs (m : OutMsg) (s : State) : (send m s).dirs = s.dirs := rfl
@[simp] theorem send_heights (m : OutMsg) (s : State) : (send m s).heights = s.heights := rfl
@[simp] theorem send_dram (m : OutMsg) (s : State) : (send m s).dram = s.dram := rfl
@[simp] theorem send_badGlz (m : OutMsg) (s : State) : (send m s).badGlz = s.badGlz := rfl
@[simp] theorem send_ueLines (m : OutMsg) (s : State) : (send m s).ueLines = s.ueLines := rfl
@[simp] theorem send_keepPools (m : OutMsg) (s : State) : (send m s).keepPools = s.keepPools := rfl
@[simp] theorem send_keepRecs (m : OutMsg) (s : State) : (send m s).keepRecs = s.keepRecs := rfl
@[simp] theorem send_heldReqs (m : OutMsg) (s : State) : (send m s).heldReqs = s.heldReqs := rfl
@[simp] theorem send_ports (m : OutMsg) (s : State) : (send m s).ports = s.ports := rfl
@[simp] theorem send_grps (m : OutMsg) (s : State) : (send m s).grps = s.grps := rfl
@[simp] theorem send_unreach (m : OutMsg) (s : State) : (send m s).unreach = s.unreach := rfl
@[simp] theorem send_mcasts (m : OutMsg) (s : State) : (send m s).mcasts = s.mcasts := rfl
@[simp] theorem send_twn (m : OutMsg) (s : State) : (send m s).twn = s.twn := rfl
@[simp] theorem send_ringStage (m : OutMsg) (s : State) : (send m s).ringStage = s.ringStage := rfl
@[simp] theorem send_msgRings (m : OutMsg) (s : State) : (send m s).msgRings = s.msgRings := rfl
@[simp] theorem send_ann (m : OutMsg) (s : State) : (send m s).ann = s.ann := rfl
@[simp] theorem send_alm (m : OutMsg) (s : State) : (send m s).alm = s.alm := rfl
@[simp] theorem send_recCopies (m : OutMsg) (s : State) : (send m s).recCopies = s.recCopies := rfl
@[simp] theorem send_report (m : OutMsg) (s : State) : (send m s).report = s.report := rfl
@[simp] theorem send_tap (m : OutMsg) (s : State) : (send m s).tap = s.tap := rfl

@[simp] theorem setCore_pending (c : Nat) (v : Core) (s : State) : (setCore c v s).pending = s.pending := rfl
@[simp] theorem setCore_outbox (c : Nat) (v : Core) (s : State) : (setCore c v s).outbox = s.outbox := rfl
@[simp] theorem setCore_freeCtr (c : Nat) (v : Core) (s : State) : (setCore c v s).freeCtr = s.freeCtr := rfl
@[simp] theorem setCore_fuses (c : Nat) (v : Core) (s : State) : (setCore c v s).fuses = s.fuses := rfl
@[simp] theorem setCore_inReset (c : Nat) (v : Core) (s : State) : (setCore c v s).inReset = s.inReset := rfl
@[simp] theorem setCore_testEn (c : Nat) (v : Core) (s : State) : (setCore c v s).testEn = s.testEn := rfl
@[simp] theorem setCore_tripped (c : Nat) (v : Core) (s : State) : (setCore c v s).tripped = s.tripped := rfl
@[simp] theorem setCore_regs (c : Nat) (v : Core) (s : State) : (setCore c v s).regs = s.regs := rfl
@[simp] theorem setCore_capt (c : Nat) (v : Core) (s : State) : (setCore c v s).capt = s.capt := rfl
@[simp] theorem setCore_selfFailed (c : Nat) (v : Core) (s : State) : (setCore c v s).selfFailed = s.selfFailed := rfl
@[simp] theorem setCore_testEnded (c : Nat) (v : Core) (s : State) : (setCore c v s).testEnded = s.testEnded := rfl
@[simp] theorem setCore_wbuf (c : Nat) (v : Core) (s : State) : (setCore c v s).wbuf = s.wbuf := rfl
@[simp] theorem setCore_time (c : Nat) (v : Core) (s : State) : (setCore c v s).time = s.time := rfl
@[simp] theorem setCore_timePend (c : Nat) (v : Core) (s : State) : (setCore c v s).timePend = s.timePend := rfl
@[simp] theorem setCore_timeFrac (c : Nat) (v : Core) (s : State) : (setCore c v s).timeFrac = s.timeFrac := rfl
@[simp] theorem setCore_pwr (c : Nat) (v : Core) (s : State) : (setCore c v s).pwr = s.pwr := rfl
@[simp] theorem setCore_ptns (c : Nat) (v : Core) (s : State) : (setCore c v s).ptns = s.ptns := rfl
@[simp] theorem setCore_snap (c : Nat) (v : Core) (s : State) : (setCore c v s).snap = s.snap := rfl
@[simp] theorem setCore_prec (c : Nat) (v : Core) (s : State) : (setCore c v s).prec = s.prec := rfl
@[simp] theorem setCore_psave (c : Nat) (v : Core) (s : State) : (setCore c v s).psave = s.psave := rfl
@[simp] theorem setCore_arrs (c : Nat) (v : Core) (s : State) : (setCore c v s).arrs = s.arrs := rfl
@[simp] theorem setCore_bist (c : Nat) (v : Core) (s : State) : (setCore c v s).bist = s.bist := rfl
@[simp] theorem setCore_vecs (c : Nat) (v : Core) (s : State) : (setCore c v s).vecs = s.vecs := rfl
@[simp] theorem setCore_movers (c : Nat) (v : Core) (s : State) : (setCore c v s).movers = s.movers := rfl
@[simp] theorem setCore_gths (c : Nat) (v : Core) (s : State) : (setCore c v s).gths = s.gths := rfl
@[simp] theorem setCore_bars (c : Nat) (v : Core) (s : State) : (setCore c v s).bars = s.bars := rfl
@[simp] theorem setCore_ops (c : Nat) (v : Core) (s : State) : (setCore c v s).ops = s.ops := rfl
@[simp] theorem setCore_unitJobs (c : Nat) (v : Core) (s : State) : (setCore c v s).unitJobs = s.unitJobs := rfl
@[simp] theorem setCore_opWait (c : Nat) (v : Core) (s : State) : (setCore c v s).opWait = s.opWait := rfl
@[simp] theorem setCore_opTurn (c : Nat) (v : Core) (s : State) : (setCore c v s).opTurn = s.opTurn := rfl
@[simp] theorem setCore_peakAll (c : Nat) (v : Core) (s : State) : (setCore c v s).peakAll = s.peakAll := rfl
@[simp] theorem setCore_peaks (c : Nat) (v : Core) (s : State) : (setCore c v s).peaks = s.peaks := rfl
@[simp] theorem setCore_nextTxn (c : Nat) (v : Core) (s : State) : (setCore c v s).nextTxn = s.nextTxn := rfl
@[simp] theorem setCore_netmMasks (c : Nat) (v : Core) (s : State) : (setCore c v s).netmMasks = s.netmMasks := rfl
@[simp] theorem setCore_reds (c : Nat) (v : Core) (s : State) : (setCore c v s).reds = s.reds := rfl
@[simp] theorem setCore_redWait (c : Nat) (v : Core) (s : State) : (setCore c v s).redWait = s.redWait := rfl
@[simp] theorem setCore_tagCache (c : Nat) (v : Core) (s : State) : (setCore c v s).tagCache = s.tagCache := rfl
@[simp] theorem setCore_redDead (c : Nat) (v : Core) (s : State) : (setCore c v s).redDead = s.redDead := rfl
@[simp] theorem setCore_homes (c : Nat) (v : Core) (s : State) : (setCore c v s).homes = s.homes := rfl
@[simp] theorem setCore_standIn (c : Nat) (v : Core) (s : State) : (setCore c v s).standIn = s.standIn := rfl
@[simp] theorem setCore_slices (c : Nat) (v : Core) (s : State) : (setCore c v s).slices = s.slices := rfl
@[simp] theorem setCore_cache (c : Nat) (v : Core) (s : State) : (setCore c v s).cache = s.cache := rfl
@[simp] theorem setCore_dirs (c : Nat) (v : Core) (s : State) : (setCore c v s).dirs = s.dirs := rfl
@[simp] theorem setCore_heights (c : Nat) (v : Core) (s : State) : (setCore c v s).heights = s.heights := rfl
@[simp] theorem setCore_dram (c : Nat) (v : Core) (s : State) : (setCore c v s).dram = s.dram := rfl
@[simp] theorem setCore_badGlz (c : Nat) (v : Core) (s : State) : (setCore c v s).badGlz = s.badGlz := rfl
@[simp] theorem setCore_ueLines (c : Nat) (v : Core) (s : State) : (setCore c v s).ueLines = s.ueLines := rfl
@[simp] theorem setCore_keepPools (c : Nat) (v : Core) (s : State) : (setCore c v s).keepPools = s.keepPools := rfl
@[simp] theorem setCore_keepRecs (c : Nat) (v : Core) (s : State) : (setCore c v s).keepRecs = s.keepRecs := rfl
@[simp] theorem setCore_heldReqs (c : Nat) (v : Core) (s : State) : (setCore c v s).heldReqs = s.heldReqs := rfl
@[simp] theorem setCore_ports (c : Nat) (v : Core) (s : State) : (setCore c v s).ports = s.ports := rfl
@[simp] theorem setCore_grps (c : Nat) (v : Core) (s : State) : (setCore c v s).grps = s.grps := rfl
@[simp] theorem setCore_unreach (c : Nat) (v : Core) (s : State) : (setCore c v s).unreach = s.unreach := rfl
@[simp] theorem setCore_mcasts (c : Nat) (v : Core) (s : State) : (setCore c v s).mcasts = s.mcasts := rfl
@[simp] theorem setCore_twn (c : Nat) (v : Core) (s : State) : (setCore c v s).twn = s.twn := rfl
@[simp] theorem setCore_ringStage (c : Nat) (v : Core) (s : State) : (setCore c v s).ringStage = s.ringStage := rfl
@[simp] theorem setCore_msgRings (c : Nat) (v : Core) (s : State) : (setCore c v s).msgRings = s.msgRings := rfl
@[simp] theorem setCore_ann (c : Nat) (v : Core) (s : State) : (setCore c v s).ann = s.ann := rfl
@[simp] theorem setCore_alm (c : Nat) (v : Core) (s : State) : (setCore c v s).alm = s.alm := rfl
@[simp] theorem setCore_recCopies (c : Nat) (v : Core) (s : State) : (setCore c v s).recCopies = s.recCopies := rfl
@[simp] theorem setCore_report (c : Nat) (v : Core) (s : State) : (setCore c v s).report = s.report := rfl
@[simp] theorem setCore_tap (c : Nat) (v : Core) (s : State) : (setCore c v s).tap = s.tap := rfl

@[simp] theorem updCore_pending (c : Nat) (f : Core → Core) (s : State) : (updCore c f s).pending = s.pending := rfl
@[simp] theorem updCore_outbox (c : Nat) (f : Core → Core) (s : State) : (updCore c f s).outbox = s.outbox := rfl
@[simp] theorem updCore_freeCtr (c : Nat) (f : Core → Core) (s : State) : (updCore c f s).freeCtr = s.freeCtr := rfl
@[simp] theorem updCore_fuses (c : Nat) (f : Core → Core) (s : State) : (updCore c f s).fuses = s.fuses := rfl
@[simp] theorem updCore_inReset (c : Nat) (f : Core → Core) (s : State) : (updCore c f s).inReset = s.inReset := rfl
@[simp] theorem updCore_testEn (c : Nat) (f : Core → Core) (s : State) : (updCore c f s).testEn = s.testEn := rfl
@[simp] theorem updCore_tripped (c : Nat) (f : Core → Core) (s : State) : (updCore c f s).tripped = s.tripped := rfl
@[simp] theorem updCore_regs (c : Nat) (f : Core → Core) (s : State) : (updCore c f s).regs = s.regs := rfl
@[simp] theorem updCore_capt (c : Nat) (f : Core → Core) (s : State) : (updCore c f s).capt = s.capt := rfl
@[simp] theorem updCore_selfFailed (c : Nat) (f : Core → Core) (s : State) : (updCore c f s).selfFailed = s.selfFailed := rfl
@[simp] theorem updCore_testEnded (c : Nat) (f : Core → Core) (s : State) : (updCore c f s).testEnded = s.testEnded := rfl
@[simp] theorem updCore_wbuf (c : Nat) (f : Core → Core) (s : State) : (updCore c f s).wbuf = s.wbuf := rfl
@[simp] theorem updCore_time (c : Nat) (f : Core → Core) (s : State) : (updCore c f s).time = s.time := rfl
@[simp] theorem updCore_timePend (c : Nat) (f : Core → Core) (s : State) : (updCore c f s).timePend = s.timePend := rfl
@[simp] theorem updCore_timeFrac (c : Nat) (f : Core → Core) (s : State) : (updCore c f s).timeFrac = s.timeFrac := rfl
@[simp] theorem updCore_pwr (c : Nat) (f : Core → Core) (s : State) : (updCore c f s).pwr = s.pwr := rfl
@[simp] theorem updCore_ptns (c : Nat) (f : Core → Core) (s : State) : (updCore c f s).ptns = s.ptns := rfl
@[simp] theorem updCore_snap (c : Nat) (f : Core → Core) (s : State) : (updCore c f s).snap = s.snap := rfl
@[simp] theorem updCore_prec (c : Nat) (f : Core → Core) (s : State) : (updCore c f s).prec = s.prec := rfl
@[simp] theorem updCore_psave (c : Nat) (f : Core → Core) (s : State) : (updCore c f s).psave = s.psave := rfl
@[simp] theorem updCore_arrs (c : Nat) (f : Core → Core) (s : State) : (updCore c f s).arrs = s.arrs := rfl
@[simp] theorem updCore_bist (c : Nat) (f : Core → Core) (s : State) : (updCore c f s).bist = s.bist := rfl
@[simp] theorem updCore_vecs (c : Nat) (f : Core → Core) (s : State) : (updCore c f s).vecs = s.vecs := rfl
@[simp] theorem updCore_movers (c : Nat) (f : Core → Core) (s : State) : (updCore c f s).movers = s.movers := rfl
@[simp] theorem updCore_gths (c : Nat) (f : Core → Core) (s : State) : (updCore c f s).gths = s.gths := rfl
@[simp] theorem updCore_bars (c : Nat) (f : Core → Core) (s : State) : (updCore c f s).bars = s.bars := rfl
@[simp] theorem updCore_ops (c : Nat) (f : Core → Core) (s : State) : (updCore c f s).ops = s.ops := rfl
@[simp] theorem updCore_unitJobs (c : Nat) (f : Core → Core) (s : State) : (updCore c f s).unitJobs = s.unitJobs := rfl
@[simp] theorem updCore_opWait (c : Nat) (f : Core → Core) (s : State) : (updCore c f s).opWait = s.opWait := rfl
@[simp] theorem updCore_opTurn (c : Nat) (f : Core → Core) (s : State) : (updCore c f s).opTurn = s.opTurn := rfl
@[simp] theorem updCore_peakAll (c : Nat) (f : Core → Core) (s : State) : (updCore c f s).peakAll = s.peakAll := rfl
@[simp] theorem updCore_peaks (c : Nat) (f : Core → Core) (s : State) : (updCore c f s).peaks = s.peaks := rfl
@[simp] theorem updCore_nextTxn (c : Nat) (f : Core → Core) (s : State) : (updCore c f s).nextTxn = s.nextTxn := rfl
@[simp] theorem updCore_netmMasks (c : Nat) (f : Core → Core) (s : State) : (updCore c f s).netmMasks = s.netmMasks := rfl
@[simp] theorem updCore_reds (c : Nat) (f : Core → Core) (s : State) : (updCore c f s).reds = s.reds := rfl
@[simp] theorem updCore_redWait (c : Nat) (f : Core → Core) (s : State) : (updCore c f s).redWait = s.redWait := rfl
@[simp] theorem updCore_tagCache (c : Nat) (f : Core → Core) (s : State) : (updCore c f s).tagCache = s.tagCache := rfl
@[simp] theorem updCore_redDead (c : Nat) (f : Core → Core) (s : State) : (updCore c f s).redDead = s.redDead := rfl
@[simp] theorem updCore_homes (c : Nat) (f : Core → Core) (s : State) : (updCore c f s).homes = s.homes := rfl
@[simp] theorem updCore_standIn (c : Nat) (f : Core → Core) (s : State) : (updCore c f s).standIn = s.standIn := rfl
@[simp] theorem updCore_slices (c : Nat) (f : Core → Core) (s : State) : (updCore c f s).slices = s.slices := rfl
@[simp] theorem updCore_cache (c : Nat) (f : Core → Core) (s : State) : (updCore c f s).cache = s.cache := rfl
@[simp] theorem updCore_dirs (c : Nat) (f : Core → Core) (s : State) : (updCore c f s).dirs = s.dirs := rfl
@[simp] theorem updCore_heights (c : Nat) (f : Core → Core) (s : State) : (updCore c f s).heights = s.heights := rfl
@[simp] theorem updCore_dram (c : Nat) (f : Core → Core) (s : State) : (updCore c f s).dram = s.dram := rfl
@[simp] theorem updCore_badGlz (c : Nat) (f : Core → Core) (s : State) : (updCore c f s).badGlz = s.badGlz := rfl
@[simp] theorem updCore_ueLines (c : Nat) (f : Core → Core) (s : State) : (updCore c f s).ueLines = s.ueLines := rfl
@[simp] theorem updCore_keepPools (c : Nat) (f : Core → Core) (s : State) : (updCore c f s).keepPools = s.keepPools := rfl
@[simp] theorem updCore_keepRecs (c : Nat) (f : Core → Core) (s : State) : (updCore c f s).keepRecs = s.keepRecs := rfl
@[simp] theorem updCore_heldReqs (c : Nat) (f : Core → Core) (s : State) : (updCore c f s).heldReqs = s.heldReqs := rfl
@[simp] theorem updCore_ports (c : Nat) (f : Core → Core) (s : State) : (updCore c f s).ports = s.ports := rfl
@[simp] theorem updCore_grps (c : Nat) (f : Core → Core) (s : State) : (updCore c f s).grps = s.grps := rfl
@[simp] theorem updCore_unreach (c : Nat) (f : Core → Core) (s : State) : (updCore c f s).unreach = s.unreach := rfl
@[simp] theorem updCore_mcasts (c : Nat) (f : Core → Core) (s : State) : (updCore c f s).mcasts = s.mcasts := rfl
@[simp] theorem updCore_twn (c : Nat) (f : Core → Core) (s : State) : (updCore c f s).twn = s.twn := rfl
@[simp] theorem updCore_ringStage (c : Nat) (f : Core → Core) (s : State) : (updCore c f s).ringStage = s.ringStage := rfl
@[simp] theorem updCore_msgRings (c : Nat) (f : Core → Core) (s : State) : (updCore c f s).msgRings = s.msgRings := rfl
@[simp] theorem updCore_ann (c : Nat) (f : Core → Core) (s : State) : (updCore c f s).ann = s.ann := rfl
@[simp] theorem updCore_alm (c : Nat) (f : Core → Core) (s : State) : (updCore c f s).alm = s.alm := rfl
@[simp] theorem updCore_recCopies (c : Nat) (f : Core → Core) (s : State) : (updCore c f s).recCopies = s.recCopies := rfl
@[simp] theorem updCore_report (c : Nat) (f : Core → Core) (s : State) : (updCore c f s).report = s.report := rfl
@[simp] theorem updCore_tap (c : Nat) (f : Core → Core) (s : State) : (updCore c f s).tap = s.tap := rfl

@[simp] theorem setArr_pending (c : Nat) (m : Bool) (v : Arr) (s : State) : (setArr c m v s).pending = s.pending := rfl
@[simp] theorem setArr_outbox (c : Nat) (m : Bool) (v : Arr) (s : State) : (setArr c m v s).outbox = s.outbox := rfl
@[simp] theorem setArr_freeCtr (c : Nat) (m : Bool) (v : Arr) (s : State) : (setArr c m v s).freeCtr = s.freeCtr := rfl
@[simp] theorem setArr_fuses (c : Nat) (m : Bool) (v : Arr) (s : State) : (setArr c m v s).fuses = s.fuses := rfl
@[simp] theorem setArr_inReset (c : Nat) (m : Bool) (v : Arr) (s : State) : (setArr c m v s).inReset = s.inReset := rfl
@[simp] theorem setArr_testEn (c : Nat) (m : Bool) (v : Arr) (s : State) : (setArr c m v s).testEn = s.testEn := rfl
@[simp] theorem setArr_tripped (c : Nat) (m : Bool) (v : Arr) (s : State) : (setArr c m v s).tripped = s.tripped := rfl
@[simp] theorem setArr_regs (c : Nat) (m : Bool) (v : Arr) (s : State) : (setArr c m v s).regs = s.regs := rfl
@[simp] theorem setArr_capt (c : Nat) (m : Bool) (v : Arr) (s : State) : (setArr c m v s).capt = s.capt := rfl
@[simp] theorem setArr_selfFailed (c : Nat) (m : Bool) (v : Arr) (s : State) : (setArr c m v s).selfFailed = s.selfFailed := rfl
@[simp] theorem setArr_testEnded (c : Nat) (m : Bool) (v : Arr) (s : State) : (setArr c m v s).testEnded = s.testEnded := rfl
@[simp] theorem setArr_wbuf (c : Nat) (m : Bool) (v : Arr) (s : State) : (setArr c m v s).wbuf = s.wbuf := rfl
@[simp] theorem setArr_time (c : Nat) (m : Bool) (v : Arr) (s : State) : (setArr c m v s).time = s.time := rfl
@[simp] theorem setArr_timePend (c : Nat) (m : Bool) (v : Arr) (s : State) : (setArr c m v s).timePend = s.timePend := rfl
@[simp] theorem setArr_timeFrac (c : Nat) (m : Bool) (v : Arr) (s : State) : (setArr c m v s).timeFrac = s.timeFrac := rfl
@[simp] theorem setArr_pwr (c : Nat) (m : Bool) (v : Arr) (s : State) : (setArr c m v s).pwr = s.pwr := rfl
@[simp] theorem setArr_ptns (c : Nat) (m : Bool) (v : Arr) (s : State) : (setArr c m v s).ptns = s.ptns := rfl
@[simp] theorem setArr_snap (c : Nat) (m : Bool) (v : Arr) (s : State) : (setArr c m v s).snap = s.snap := rfl
@[simp] theorem setArr_prec (c : Nat) (m : Bool) (v : Arr) (s : State) : (setArr c m v s).prec = s.prec := rfl
@[simp] theorem setArr_psave (c : Nat) (m : Bool) (v : Arr) (s : State) : (setArr c m v s).psave = s.psave := rfl
@[simp] theorem setArr_cores (c : Nat) (m : Bool) (v : Arr) (s : State) : (setArr c m v s).cores = s.cores := rfl
@[simp] theorem setArr_bist (c : Nat) (m : Bool) (v : Arr) (s : State) : (setArr c m v s).bist = s.bist := rfl
@[simp] theorem setArr_vecs (c : Nat) (m : Bool) (v : Arr) (s : State) : (setArr c m v s).vecs = s.vecs := rfl
@[simp] theorem setArr_movers (c : Nat) (m : Bool) (v : Arr) (s : State) : (setArr c m v s).movers = s.movers := rfl
@[simp] theorem setArr_gths (c : Nat) (m : Bool) (v : Arr) (s : State) : (setArr c m v s).gths = s.gths := rfl
@[simp] theorem setArr_bars (c : Nat) (m : Bool) (v : Arr) (s : State) : (setArr c m v s).bars = s.bars := rfl
@[simp] theorem setArr_ops (c : Nat) (m : Bool) (v : Arr) (s : State) : (setArr c m v s).ops = s.ops := rfl
@[simp] theorem setArr_unitJobs (c : Nat) (m : Bool) (v : Arr) (s : State) : (setArr c m v s).unitJobs = s.unitJobs := rfl
@[simp] theorem setArr_opWait (c : Nat) (m : Bool) (v : Arr) (s : State) : (setArr c m v s).opWait = s.opWait := rfl
@[simp] theorem setArr_opTurn (c : Nat) (m : Bool) (v : Arr) (s : State) : (setArr c m v s).opTurn = s.opTurn := rfl
@[simp] theorem setArr_peakAll (c : Nat) (m : Bool) (v : Arr) (s : State) : (setArr c m v s).peakAll = s.peakAll := rfl
@[simp] theorem setArr_peaks (c : Nat) (m : Bool) (v : Arr) (s : State) : (setArr c m v s).peaks = s.peaks := rfl
@[simp] theorem setArr_nextTxn (c : Nat) (m : Bool) (v : Arr) (s : State) : (setArr c m v s).nextTxn = s.nextTxn := rfl
@[simp] theorem setArr_netmMasks (c : Nat) (m : Bool) (v : Arr) (s : State) : (setArr c m v s).netmMasks = s.netmMasks := rfl
@[simp] theorem setArr_reds (c : Nat) (m : Bool) (v : Arr) (s : State) : (setArr c m v s).reds = s.reds := rfl
@[simp] theorem setArr_redWait (c : Nat) (m : Bool) (v : Arr) (s : State) : (setArr c m v s).redWait = s.redWait := rfl
@[simp] theorem setArr_tagCache (c : Nat) (m : Bool) (v : Arr) (s : State) : (setArr c m v s).tagCache = s.tagCache := rfl
@[simp] theorem setArr_redDead (c : Nat) (m : Bool) (v : Arr) (s : State) : (setArr c m v s).redDead = s.redDead := rfl
@[simp] theorem setArr_homes (c : Nat) (m : Bool) (v : Arr) (s : State) : (setArr c m v s).homes = s.homes := rfl
@[simp] theorem setArr_standIn (c : Nat) (m : Bool) (v : Arr) (s : State) : (setArr c m v s).standIn = s.standIn := rfl
@[simp] theorem setArr_slices (c : Nat) (m : Bool) (v : Arr) (s : State) : (setArr c m v s).slices = s.slices := rfl
@[simp] theorem setArr_cache (c : Nat) (m : Bool) (v : Arr) (s : State) : (setArr c m v s).cache = s.cache := rfl
@[simp] theorem setArr_dirs (c : Nat) (m : Bool) (v : Arr) (s : State) : (setArr c m v s).dirs = s.dirs := rfl
@[simp] theorem setArr_heights (c : Nat) (m : Bool) (v : Arr) (s : State) : (setArr c m v s).heights = s.heights := rfl
@[simp] theorem setArr_dram (c : Nat) (m : Bool) (v : Arr) (s : State) : (setArr c m v s).dram = s.dram := rfl
@[simp] theorem setArr_badGlz (c : Nat) (m : Bool) (v : Arr) (s : State) : (setArr c m v s).badGlz = s.badGlz := rfl
@[simp] theorem setArr_ueLines (c : Nat) (m : Bool) (v : Arr) (s : State) : (setArr c m v s).ueLines = s.ueLines := rfl
@[simp] theorem setArr_keepPools (c : Nat) (m : Bool) (v : Arr) (s : State) : (setArr c m v s).keepPools = s.keepPools := rfl
@[simp] theorem setArr_keepRecs (c : Nat) (m : Bool) (v : Arr) (s : State) : (setArr c m v s).keepRecs = s.keepRecs := rfl
@[simp] theorem setArr_heldReqs (c : Nat) (m : Bool) (v : Arr) (s : State) : (setArr c m v s).heldReqs = s.heldReqs := rfl
@[simp] theorem setArr_ports (c : Nat) (m : Bool) (v : Arr) (s : State) : (setArr c m v s).ports = s.ports := rfl
@[simp] theorem setArr_grps (c : Nat) (m : Bool) (v : Arr) (s : State) : (setArr c m v s).grps = s.grps := rfl
@[simp] theorem setArr_unreach (c : Nat) (m : Bool) (v : Arr) (s : State) : (setArr c m v s).unreach = s.unreach := rfl
@[simp] theorem setArr_mcasts (c : Nat) (m : Bool) (v : Arr) (s : State) : (setArr c m v s).mcasts = s.mcasts := rfl
@[simp] theorem setArr_twn (c : Nat) (m : Bool) (v : Arr) (s : State) : (setArr c m v s).twn = s.twn := rfl
@[simp] theorem setArr_ringStage (c : Nat) (m : Bool) (v : Arr) (s : State) : (setArr c m v s).ringStage = s.ringStage := rfl
@[simp] theorem setArr_msgRings (c : Nat) (m : Bool) (v : Arr) (s : State) : (setArr c m v s).msgRings = s.msgRings := rfl
@[simp] theorem setArr_ann (c : Nat) (m : Bool) (v : Arr) (s : State) : (setArr c m v s).ann = s.ann := rfl
@[simp] theorem setArr_alm (c : Nat) (m : Bool) (v : Arr) (s : State) : (setArr c m v s).alm = s.alm := rfl
@[simp] theorem setArr_recCopies (c : Nat) (m : Bool) (v : Arr) (s : State) : (setArr c m v s).recCopies = s.recCopies := rfl
@[simp] theorem setArr_report (c : Nat) (m : Bool) (v : Arr) (s : State) : (setArr c m v s).report = s.report := rfl
@[simp] theorem setArr_tap (c : Nat) (m : Bool) (v : Arr) (s : State) : (setArr c m v s).tap = s.tap := rfl

@[simp] theorem setVec_pending (c : Nat) (v : Vec) (s : State) : (setVec c v s).pending = s.pending := rfl
@[simp] theorem setVec_outbox (c : Nat) (v : Vec) (s : State) : (setVec c v s).outbox = s.outbox := rfl
@[simp] theorem setVec_freeCtr (c : Nat) (v : Vec) (s : State) : (setVec c v s).freeCtr = s.freeCtr := rfl
@[simp] theorem setVec_fuses (c : Nat) (v : Vec) (s : State) : (setVec c v s).fuses = s.fuses := rfl
@[simp] theorem setVec_inReset (c : Nat) (v : Vec) (s : State) : (setVec c v s).inReset = s.inReset := rfl
@[simp] theorem setVec_testEn (c : Nat) (v : Vec) (s : State) : (setVec c v s).testEn = s.testEn := rfl
@[simp] theorem setVec_tripped (c : Nat) (v : Vec) (s : State) : (setVec c v s).tripped = s.tripped := rfl
@[simp] theorem setVec_regs (c : Nat) (v : Vec) (s : State) : (setVec c v s).regs = s.regs := rfl
@[simp] theorem setVec_capt (c : Nat) (v : Vec) (s : State) : (setVec c v s).capt = s.capt := rfl
@[simp] theorem setVec_selfFailed (c : Nat) (v : Vec) (s : State) : (setVec c v s).selfFailed = s.selfFailed := rfl
@[simp] theorem setVec_testEnded (c : Nat) (v : Vec) (s : State) : (setVec c v s).testEnded = s.testEnded := rfl
@[simp] theorem setVec_wbuf (c : Nat) (v : Vec) (s : State) : (setVec c v s).wbuf = s.wbuf := rfl
@[simp] theorem setVec_time (c : Nat) (v : Vec) (s : State) : (setVec c v s).time = s.time := rfl
@[simp] theorem setVec_timePend (c : Nat) (v : Vec) (s : State) : (setVec c v s).timePend = s.timePend := rfl
@[simp] theorem setVec_timeFrac (c : Nat) (v : Vec) (s : State) : (setVec c v s).timeFrac = s.timeFrac := rfl
@[simp] theorem setVec_pwr (c : Nat) (v : Vec) (s : State) : (setVec c v s).pwr = s.pwr := rfl
@[simp] theorem setVec_ptns (c : Nat) (v : Vec) (s : State) : (setVec c v s).ptns = s.ptns := rfl
@[simp] theorem setVec_snap (c : Nat) (v : Vec) (s : State) : (setVec c v s).snap = s.snap := rfl
@[simp] theorem setVec_prec (c : Nat) (v : Vec) (s : State) : (setVec c v s).prec = s.prec := rfl
@[simp] theorem setVec_psave (c : Nat) (v : Vec) (s : State) : (setVec c v s).psave = s.psave := rfl
@[simp] theorem setVec_cores (c : Nat) (v : Vec) (s : State) : (setVec c v s).cores = s.cores := rfl
@[simp] theorem setVec_arrs (c : Nat) (v : Vec) (s : State) : (setVec c v s).arrs = s.arrs := rfl
@[simp] theorem setVec_bist (c : Nat) (v : Vec) (s : State) : (setVec c v s).bist = s.bist := rfl
@[simp] theorem setVec_movers (c : Nat) (v : Vec) (s : State) : (setVec c v s).movers = s.movers := rfl
@[simp] theorem setVec_gths (c : Nat) (v : Vec) (s : State) : (setVec c v s).gths = s.gths := rfl
@[simp] theorem setVec_bars (c : Nat) (v : Vec) (s : State) : (setVec c v s).bars = s.bars := rfl
@[simp] theorem setVec_ops (c : Nat) (v : Vec) (s : State) : (setVec c v s).ops = s.ops := rfl
@[simp] theorem setVec_unitJobs (c : Nat) (v : Vec) (s : State) : (setVec c v s).unitJobs = s.unitJobs := rfl
@[simp] theorem setVec_opWait (c : Nat) (v : Vec) (s : State) : (setVec c v s).opWait = s.opWait := rfl
@[simp] theorem setVec_opTurn (c : Nat) (v : Vec) (s : State) : (setVec c v s).opTurn = s.opTurn := rfl
@[simp] theorem setVec_peakAll (c : Nat) (v : Vec) (s : State) : (setVec c v s).peakAll = s.peakAll := rfl
@[simp] theorem setVec_peaks (c : Nat) (v : Vec) (s : State) : (setVec c v s).peaks = s.peaks := rfl
@[simp] theorem setVec_nextTxn (c : Nat) (v : Vec) (s : State) : (setVec c v s).nextTxn = s.nextTxn := rfl
@[simp] theorem setVec_netmMasks (c : Nat) (v : Vec) (s : State) : (setVec c v s).netmMasks = s.netmMasks := rfl
@[simp] theorem setVec_reds (c : Nat) (v : Vec) (s : State) : (setVec c v s).reds = s.reds := rfl
@[simp] theorem setVec_redWait (c : Nat) (v : Vec) (s : State) : (setVec c v s).redWait = s.redWait := rfl
@[simp] theorem setVec_tagCache (c : Nat) (v : Vec) (s : State) : (setVec c v s).tagCache = s.tagCache := rfl
@[simp] theorem setVec_redDead (c : Nat) (v : Vec) (s : State) : (setVec c v s).redDead = s.redDead := rfl
@[simp] theorem setVec_homes (c : Nat) (v : Vec) (s : State) : (setVec c v s).homes = s.homes := rfl
@[simp] theorem setVec_standIn (c : Nat) (v : Vec) (s : State) : (setVec c v s).standIn = s.standIn := rfl
@[simp] theorem setVec_slices (c : Nat) (v : Vec) (s : State) : (setVec c v s).slices = s.slices := rfl
@[simp] theorem setVec_cache (c : Nat) (v : Vec) (s : State) : (setVec c v s).cache = s.cache := rfl
@[simp] theorem setVec_dirs (c : Nat) (v : Vec) (s : State) : (setVec c v s).dirs = s.dirs := rfl
@[simp] theorem setVec_heights (c : Nat) (v : Vec) (s : State) : (setVec c v s).heights = s.heights := rfl
@[simp] theorem setVec_dram (c : Nat) (v : Vec) (s : State) : (setVec c v s).dram = s.dram := rfl
@[simp] theorem setVec_badGlz (c : Nat) (v : Vec) (s : State) : (setVec c v s).badGlz = s.badGlz := rfl
@[simp] theorem setVec_ueLines (c : Nat) (v : Vec) (s : State) : (setVec c v s).ueLines = s.ueLines := rfl
@[simp] theorem setVec_keepPools (c : Nat) (v : Vec) (s : State) : (setVec c v s).keepPools = s.keepPools := rfl
@[simp] theorem setVec_keepRecs (c : Nat) (v : Vec) (s : State) : (setVec c v s).keepRecs = s.keepRecs := rfl
@[simp] theorem setVec_heldReqs (c : Nat) (v : Vec) (s : State) : (setVec c v s).heldReqs = s.heldReqs := rfl
@[simp] theorem setVec_ports (c : Nat) (v : Vec) (s : State) : (setVec c v s).ports = s.ports := rfl
@[simp] theorem setVec_grps (c : Nat) (v : Vec) (s : State) : (setVec c v s).grps = s.grps := rfl
@[simp] theorem setVec_unreach (c : Nat) (v : Vec) (s : State) : (setVec c v s).unreach = s.unreach := rfl
@[simp] theorem setVec_mcasts (c : Nat) (v : Vec) (s : State) : (setVec c v s).mcasts = s.mcasts := rfl
@[simp] theorem setVec_twn (c : Nat) (v : Vec) (s : State) : (setVec c v s).twn = s.twn := rfl
@[simp] theorem setVec_ringStage (c : Nat) (v : Vec) (s : State) : (setVec c v s).ringStage = s.ringStage := rfl
@[simp] theorem setVec_msgRings (c : Nat) (v : Vec) (s : State) : (setVec c v s).msgRings = s.msgRings := rfl
@[simp] theorem setVec_ann (c : Nat) (v : Vec) (s : State) : (setVec c v s).ann = s.ann := rfl
@[simp] theorem setVec_alm (c : Nat) (v : Vec) (s : State) : (setVec c v s).alm = s.alm := rfl
@[simp] theorem setVec_recCopies (c : Nat) (v : Vec) (s : State) : (setVec c v s).recCopies = s.recCopies := rfl
@[simp] theorem setVec_report (c : Nat) (v : Vec) (s : State) : (setVec c v s).report = s.report := rfl
@[simp] theorem setVec_tap (c : Nat) (v : Vec) (s : State) : (setVec c v s).tap = s.tap := rfl

@[simp] theorem setPtn_pending (p : Nat) (v : Ptn) (s : State) : (setPtn p v s).pending = s.pending := rfl
@[simp] theorem setPtn_outbox (p : Nat) (v : Ptn) (s : State) : (setPtn p v s).outbox = s.outbox := rfl
@[simp] theorem setPtn_freeCtr (p : Nat) (v : Ptn) (s : State) : (setPtn p v s).freeCtr = s.freeCtr := rfl
@[simp] theorem setPtn_fuses (p : Nat) (v : Ptn) (s : State) : (setPtn p v s).fuses = s.fuses := rfl
@[simp] theorem setPtn_inReset (p : Nat) (v : Ptn) (s : State) : (setPtn p v s).inReset = s.inReset := rfl
@[simp] theorem setPtn_testEn (p : Nat) (v : Ptn) (s : State) : (setPtn p v s).testEn = s.testEn := rfl
@[simp] theorem setPtn_tripped (p : Nat) (v : Ptn) (s : State) : (setPtn p v s).tripped = s.tripped := rfl
@[simp] theorem setPtn_regs (p : Nat) (v : Ptn) (s : State) : (setPtn p v s).regs = s.regs := rfl
@[simp] theorem setPtn_capt (p : Nat) (v : Ptn) (s : State) : (setPtn p v s).capt = s.capt := rfl
@[simp] theorem setPtn_selfFailed (p : Nat) (v : Ptn) (s : State) : (setPtn p v s).selfFailed = s.selfFailed := rfl
@[simp] theorem setPtn_testEnded (p : Nat) (v : Ptn) (s : State) : (setPtn p v s).testEnded = s.testEnded := rfl
@[simp] theorem setPtn_wbuf (p : Nat) (v : Ptn) (s : State) : (setPtn p v s).wbuf = s.wbuf := rfl
@[simp] theorem setPtn_time (p : Nat) (v : Ptn) (s : State) : (setPtn p v s).time = s.time := rfl
@[simp] theorem setPtn_timePend (p : Nat) (v : Ptn) (s : State) : (setPtn p v s).timePend = s.timePend := rfl
@[simp] theorem setPtn_timeFrac (p : Nat) (v : Ptn) (s : State) : (setPtn p v s).timeFrac = s.timeFrac := rfl
@[simp] theorem setPtn_pwr (p : Nat) (v : Ptn) (s : State) : (setPtn p v s).pwr = s.pwr := rfl
@[simp] theorem setPtn_snap (p : Nat) (v : Ptn) (s : State) : (setPtn p v s).snap = s.snap := rfl
@[simp] theorem setPtn_prec (p : Nat) (v : Ptn) (s : State) : (setPtn p v s).prec = s.prec := rfl
@[simp] theorem setPtn_psave (p : Nat) (v : Ptn) (s : State) : (setPtn p v s).psave = s.psave := rfl
@[simp] theorem setPtn_cores (p : Nat) (v : Ptn) (s : State) : (setPtn p v s).cores = s.cores := rfl
@[simp] theorem setPtn_arrs (p : Nat) (v : Ptn) (s : State) : (setPtn p v s).arrs = s.arrs := rfl
@[simp] theorem setPtn_bist (p : Nat) (v : Ptn) (s : State) : (setPtn p v s).bist = s.bist := rfl
@[simp] theorem setPtn_vecs (p : Nat) (v : Ptn) (s : State) : (setPtn p v s).vecs = s.vecs := rfl
@[simp] theorem setPtn_movers (p : Nat) (v : Ptn) (s : State) : (setPtn p v s).movers = s.movers := rfl
@[simp] theorem setPtn_gths (p : Nat) (v : Ptn) (s : State) : (setPtn p v s).gths = s.gths := rfl
@[simp] theorem setPtn_bars (p : Nat) (v : Ptn) (s : State) : (setPtn p v s).bars = s.bars := rfl
@[simp] theorem setPtn_ops (p : Nat) (v : Ptn) (s : State) : (setPtn p v s).ops = s.ops := rfl
@[simp] theorem setPtn_unitJobs (p : Nat) (v : Ptn) (s : State) : (setPtn p v s).unitJobs = s.unitJobs := rfl
@[simp] theorem setPtn_opWait (p : Nat) (v : Ptn) (s : State) : (setPtn p v s).opWait = s.opWait := rfl
@[simp] theorem setPtn_opTurn (p : Nat) (v : Ptn) (s : State) : (setPtn p v s).opTurn = s.opTurn := rfl
@[simp] theorem setPtn_peakAll (p : Nat) (v : Ptn) (s : State) : (setPtn p v s).peakAll = s.peakAll := rfl
@[simp] theorem setPtn_peaks (p : Nat) (v : Ptn) (s : State) : (setPtn p v s).peaks = s.peaks := rfl
@[simp] theorem setPtn_nextTxn (p : Nat) (v : Ptn) (s : State) : (setPtn p v s).nextTxn = s.nextTxn := rfl
@[simp] theorem setPtn_netmMasks (p : Nat) (v : Ptn) (s : State) : (setPtn p v s).netmMasks = s.netmMasks := rfl
@[simp] theorem setPtn_reds (p : Nat) (v : Ptn) (s : State) : (setPtn p v s).reds = s.reds := rfl
@[simp] theorem setPtn_redWait (p : Nat) (v : Ptn) (s : State) : (setPtn p v s).redWait = s.redWait := rfl
@[simp] theorem setPtn_tagCache (p : Nat) (v : Ptn) (s : State) : (setPtn p v s).tagCache = s.tagCache := rfl
@[simp] theorem setPtn_redDead (p : Nat) (v : Ptn) (s : State) : (setPtn p v s).redDead = s.redDead := rfl
@[simp] theorem setPtn_homes (p : Nat) (v : Ptn) (s : State) : (setPtn p v s).homes = s.homes := rfl
@[simp] theorem setPtn_standIn (p : Nat) (v : Ptn) (s : State) : (setPtn p v s).standIn = s.standIn := rfl
@[simp] theorem setPtn_slices (p : Nat) (v : Ptn) (s : State) : (setPtn p v s).slices = s.slices := rfl
@[simp] theorem setPtn_cache (p : Nat) (v : Ptn) (s : State) : (setPtn p v s).cache = s.cache := rfl
@[simp] theorem setPtn_dirs (p : Nat) (v : Ptn) (s : State) : (setPtn p v s).dirs = s.dirs := rfl
@[simp] theorem setPtn_heights (p : Nat) (v : Ptn) (s : State) : (setPtn p v s).heights = s.heights := rfl
@[simp] theorem setPtn_dram (p : Nat) (v : Ptn) (s : State) : (setPtn p v s).dram = s.dram := rfl
@[simp] theorem setPtn_badGlz (p : Nat) (v : Ptn) (s : State) : (setPtn p v s).badGlz = s.badGlz := rfl
@[simp] theorem setPtn_ueLines (p : Nat) (v : Ptn) (s : State) : (setPtn p v s).ueLines = s.ueLines := rfl
@[simp] theorem setPtn_keepPools (p : Nat) (v : Ptn) (s : State) : (setPtn p v s).keepPools = s.keepPools := rfl
@[simp] theorem setPtn_keepRecs (p : Nat) (v : Ptn) (s : State) : (setPtn p v s).keepRecs = s.keepRecs := rfl
@[simp] theorem setPtn_heldReqs (p : Nat) (v : Ptn) (s : State) : (setPtn p v s).heldReqs = s.heldReqs := rfl
@[simp] theorem setPtn_ports (p : Nat) (v : Ptn) (s : State) : (setPtn p v s).ports = s.ports := rfl
@[simp] theorem setPtn_grps (p : Nat) (v : Ptn) (s : State) : (setPtn p v s).grps = s.grps := rfl
@[simp] theorem setPtn_unreach (p : Nat) (v : Ptn) (s : State) : (setPtn p v s).unreach = s.unreach := rfl
@[simp] theorem setPtn_mcasts (p : Nat) (v : Ptn) (s : State) : (setPtn p v s).mcasts = s.mcasts := rfl
@[simp] theorem setPtn_twn (p : Nat) (v : Ptn) (s : State) : (setPtn p v s).twn = s.twn := rfl
@[simp] theorem setPtn_ringStage (p : Nat) (v : Ptn) (s : State) : (setPtn p v s).ringStage = s.ringStage := rfl
@[simp] theorem setPtn_msgRings (p : Nat) (v : Ptn) (s : State) : (setPtn p v s).msgRings = s.msgRings := rfl
@[simp] theorem setPtn_ann (p : Nat) (v : Ptn) (s : State) : (setPtn p v s).ann = s.ann := rfl
@[simp] theorem setPtn_alm (p : Nat) (v : Ptn) (s : State) : (setPtn p v s).alm = s.alm := rfl
@[simp] theorem setPtn_recCopies (p : Nat) (v : Ptn) (s : State) : (setPtn p v s).recCopies = s.recCopies := rfl
@[simp] theorem setPtn_report (p : Nat) (v : Ptn) (s : State) : (setPtn p v s).report = s.report := rfl
@[simp] theorem setPtn_tap (p : Nat) (v : Ptn) (s : State) : (setPtn p v s).tap = s.tap := rfl

@[simp] theorem updPtn_pending (p : Nat) (f : Ptn → Ptn) (s : State) : (updPtn p f s).pending = s.pending := rfl
@[simp] theorem updPtn_outbox (p : Nat) (f : Ptn → Ptn) (s : State) : (updPtn p f s).outbox = s.outbox := rfl
@[simp] theorem updPtn_freeCtr (p : Nat) (f : Ptn → Ptn) (s : State) : (updPtn p f s).freeCtr = s.freeCtr := rfl
@[simp] theorem updPtn_fuses (p : Nat) (f : Ptn → Ptn) (s : State) : (updPtn p f s).fuses = s.fuses := rfl
@[simp] theorem updPtn_inReset (p : Nat) (f : Ptn → Ptn) (s : State) : (updPtn p f s).inReset = s.inReset := rfl
@[simp] theorem updPtn_testEn (p : Nat) (f : Ptn → Ptn) (s : State) : (updPtn p f s).testEn = s.testEn := rfl
@[simp] theorem updPtn_tripped (p : Nat) (f : Ptn → Ptn) (s : State) : (updPtn p f s).tripped = s.tripped := rfl
@[simp] theorem updPtn_regs (p : Nat) (f : Ptn → Ptn) (s : State) : (updPtn p f s).regs = s.regs := rfl
@[simp] theorem updPtn_capt (p : Nat) (f : Ptn → Ptn) (s : State) : (updPtn p f s).capt = s.capt := rfl
@[simp] theorem updPtn_selfFailed (p : Nat) (f : Ptn → Ptn) (s : State) : (updPtn p f s).selfFailed = s.selfFailed := rfl
@[simp] theorem updPtn_testEnded (p : Nat) (f : Ptn → Ptn) (s : State) : (updPtn p f s).testEnded = s.testEnded := rfl
@[simp] theorem updPtn_wbuf (p : Nat) (f : Ptn → Ptn) (s : State) : (updPtn p f s).wbuf = s.wbuf := rfl
@[simp] theorem updPtn_time (p : Nat) (f : Ptn → Ptn) (s : State) : (updPtn p f s).time = s.time := rfl
@[simp] theorem updPtn_timePend (p : Nat) (f : Ptn → Ptn) (s : State) : (updPtn p f s).timePend = s.timePend := rfl
@[simp] theorem updPtn_timeFrac (p : Nat) (f : Ptn → Ptn) (s : State) : (updPtn p f s).timeFrac = s.timeFrac := rfl
@[simp] theorem updPtn_pwr (p : Nat) (f : Ptn → Ptn) (s : State) : (updPtn p f s).pwr = s.pwr := rfl
@[simp] theorem updPtn_snap (p : Nat) (f : Ptn → Ptn) (s : State) : (updPtn p f s).snap = s.snap := rfl
@[simp] theorem updPtn_prec (p : Nat) (f : Ptn → Ptn) (s : State) : (updPtn p f s).prec = s.prec := rfl
@[simp] theorem updPtn_psave (p : Nat) (f : Ptn → Ptn) (s : State) : (updPtn p f s).psave = s.psave := rfl
@[simp] theorem updPtn_cores (p : Nat) (f : Ptn → Ptn) (s : State) : (updPtn p f s).cores = s.cores := rfl
@[simp] theorem updPtn_arrs (p : Nat) (f : Ptn → Ptn) (s : State) : (updPtn p f s).arrs = s.arrs := rfl
@[simp] theorem updPtn_bist (p : Nat) (f : Ptn → Ptn) (s : State) : (updPtn p f s).bist = s.bist := rfl
@[simp] theorem updPtn_vecs (p : Nat) (f : Ptn → Ptn) (s : State) : (updPtn p f s).vecs = s.vecs := rfl
@[simp] theorem updPtn_movers (p : Nat) (f : Ptn → Ptn) (s : State) : (updPtn p f s).movers = s.movers := rfl
@[simp] theorem updPtn_gths (p : Nat) (f : Ptn → Ptn) (s : State) : (updPtn p f s).gths = s.gths := rfl
@[simp] theorem updPtn_bars (p : Nat) (f : Ptn → Ptn) (s : State) : (updPtn p f s).bars = s.bars := rfl
@[simp] theorem updPtn_ops (p : Nat) (f : Ptn → Ptn) (s : State) : (updPtn p f s).ops = s.ops := rfl
@[simp] theorem updPtn_unitJobs (p : Nat) (f : Ptn → Ptn) (s : State) : (updPtn p f s).unitJobs = s.unitJobs := rfl
@[simp] theorem updPtn_opWait (p : Nat) (f : Ptn → Ptn) (s : State) : (updPtn p f s).opWait = s.opWait := rfl
@[simp] theorem updPtn_opTurn (p : Nat) (f : Ptn → Ptn) (s : State) : (updPtn p f s).opTurn = s.opTurn := rfl
@[simp] theorem updPtn_peakAll (p : Nat) (f : Ptn → Ptn) (s : State) : (updPtn p f s).peakAll = s.peakAll := rfl
@[simp] theorem updPtn_peaks (p : Nat) (f : Ptn → Ptn) (s : State) : (updPtn p f s).peaks = s.peaks := rfl
@[simp] theorem updPtn_nextTxn (p : Nat) (f : Ptn → Ptn) (s : State) : (updPtn p f s).nextTxn = s.nextTxn := rfl
@[simp] theorem updPtn_netmMasks (p : Nat) (f : Ptn → Ptn) (s : State) : (updPtn p f s).netmMasks = s.netmMasks := rfl
@[simp] theorem updPtn_reds (p : Nat) (f : Ptn → Ptn) (s : State) : (updPtn p f s).reds = s.reds := rfl
@[simp] theorem updPtn_redWait (p : Nat) (f : Ptn → Ptn) (s : State) : (updPtn p f s).redWait = s.redWait := rfl
@[simp] theorem updPtn_tagCache (p : Nat) (f : Ptn → Ptn) (s : State) : (updPtn p f s).tagCache = s.tagCache := rfl
@[simp] theorem updPtn_redDead (p : Nat) (f : Ptn → Ptn) (s : State) : (updPtn p f s).redDead = s.redDead := rfl
@[simp] theorem updPtn_homes (p : Nat) (f : Ptn → Ptn) (s : State) : (updPtn p f s).homes = s.homes := rfl
@[simp] theorem updPtn_standIn (p : Nat) (f : Ptn → Ptn) (s : State) : (updPtn p f s).standIn = s.standIn := rfl
@[simp] theorem updPtn_slices (p : Nat) (f : Ptn → Ptn) (s : State) : (updPtn p f s).slices = s.slices := rfl
@[simp] theorem updPtn_cache (p : Nat) (f : Ptn → Ptn) (s : State) : (updPtn p f s).cache = s.cache := rfl
@[simp] theorem updPtn_dirs (p : Nat) (f : Ptn → Ptn) (s : State) : (updPtn p f s).dirs = s.dirs := rfl
@[simp] theorem updPtn_heights (p : Nat) (f : Ptn → Ptn) (s : State) : (updPtn p f s).heights = s.heights := rfl
@[simp] theorem updPtn_dram (p : Nat) (f : Ptn → Ptn) (s : State) : (updPtn p f s).dram = s.dram := rfl
@[simp] theorem updPtn_badGlz (p : Nat) (f : Ptn → Ptn) (s : State) : (updPtn p f s).badGlz = s.badGlz := rfl
@[simp] theorem updPtn_ueLines (p : Nat) (f : Ptn → Ptn) (s : State) : (updPtn p f s).ueLines = s.ueLines := rfl
@[simp] theorem updPtn_keepPools (p : Nat) (f : Ptn → Ptn) (s : State) : (updPtn p f s).keepPools = s.keepPools := rfl
@[simp] theorem updPtn_keepRecs (p : Nat) (f : Ptn → Ptn) (s : State) : (updPtn p f s).keepRecs = s.keepRecs := rfl
@[simp] theorem updPtn_heldReqs (p : Nat) (f : Ptn → Ptn) (s : State) : (updPtn p f s).heldReqs = s.heldReqs := rfl
@[simp] theorem updPtn_ports (p : Nat) (f : Ptn → Ptn) (s : State) : (updPtn p f s).ports = s.ports := rfl
@[simp] theorem updPtn_grps (p : Nat) (f : Ptn → Ptn) (s : State) : (updPtn p f s).grps = s.grps := rfl
@[simp] theorem updPtn_unreach (p : Nat) (f : Ptn → Ptn) (s : State) : (updPtn p f s).unreach = s.unreach := rfl
@[simp] theorem updPtn_mcasts (p : Nat) (f : Ptn → Ptn) (s : State) : (updPtn p f s).mcasts = s.mcasts := rfl
@[simp] theorem updPtn_twn (p : Nat) (f : Ptn → Ptn) (s : State) : (updPtn p f s).twn = s.twn := rfl
@[simp] theorem updPtn_ringStage (p : Nat) (f : Ptn → Ptn) (s : State) : (updPtn p f s).ringStage = s.ringStage := rfl
@[simp] theorem updPtn_msgRings (p : Nat) (f : Ptn → Ptn) (s : State) : (updPtn p f s).msgRings = s.msgRings := rfl
@[simp] theorem updPtn_ann (p : Nat) (f : Ptn → Ptn) (s : State) : (updPtn p f s).ann = s.ann := rfl
@[simp] theorem updPtn_alm (p : Nat) (f : Ptn → Ptn) (s : State) : (updPtn p f s).alm = s.alm := rfl
@[simp] theorem updPtn_recCopies (p : Nat) (f : Ptn → Ptn) (s : State) : (updPtn p f s).recCopies = s.recCopies := rfl
@[simp] theorem updPtn_report (p : Nat) (f : Ptn → Ptn) (s : State) : (updPtn p f s).report = s.report := rfl
@[simp] theorem updPtn_tap (p : Nat) (f : Ptn → Ptn) (s : State) : (updPtn p f s).tap = s.tap := rfl

@[simp] theorem setBar_pending (b : Nat) (v : Bar) (s : State) : (setBar b v s).pending = s.pending := rfl
@[simp] theorem setBar_outbox (b : Nat) (v : Bar) (s : State) : (setBar b v s).outbox = s.outbox := rfl
@[simp] theorem setBar_freeCtr (b : Nat) (v : Bar) (s : State) : (setBar b v s).freeCtr = s.freeCtr := rfl
@[simp] theorem setBar_fuses (b : Nat) (v : Bar) (s : State) : (setBar b v s).fuses = s.fuses := rfl
@[simp] theorem setBar_inReset (b : Nat) (v : Bar) (s : State) : (setBar b v s).inReset = s.inReset := rfl
@[simp] theorem setBar_testEn (b : Nat) (v : Bar) (s : State) : (setBar b v s).testEn = s.testEn := rfl
@[simp] theorem setBar_tripped (b : Nat) (v : Bar) (s : State) : (setBar b v s).tripped = s.tripped := rfl
@[simp] theorem setBar_regs (b : Nat) (v : Bar) (s : State) : (setBar b v s).regs = s.regs := rfl
@[simp] theorem setBar_capt (b : Nat) (v : Bar) (s : State) : (setBar b v s).capt = s.capt := rfl
@[simp] theorem setBar_selfFailed (b : Nat) (v : Bar) (s : State) : (setBar b v s).selfFailed = s.selfFailed := rfl
@[simp] theorem setBar_testEnded (b : Nat) (v : Bar) (s : State) : (setBar b v s).testEnded = s.testEnded := rfl
@[simp] theorem setBar_wbuf (b : Nat) (v : Bar) (s : State) : (setBar b v s).wbuf = s.wbuf := rfl
@[simp] theorem setBar_time (b : Nat) (v : Bar) (s : State) : (setBar b v s).time = s.time := rfl
@[simp] theorem setBar_timePend (b : Nat) (v : Bar) (s : State) : (setBar b v s).timePend = s.timePend := rfl
@[simp] theorem setBar_timeFrac (b : Nat) (v : Bar) (s : State) : (setBar b v s).timeFrac = s.timeFrac := rfl
@[simp] theorem setBar_pwr (b : Nat) (v : Bar) (s : State) : (setBar b v s).pwr = s.pwr := rfl
@[simp] theorem setBar_ptns (b : Nat) (v : Bar) (s : State) : (setBar b v s).ptns = s.ptns := rfl
@[simp] theorem setBar_snap (b : Nat) (v : Bar) (s : State) : (setBar b v s).snap = s.snap := rfl
@[simp] theorem setBar_prec (b : Nat) (v : Bar) (s : State) : (setBar b v s).prec = s.prec := rfl
@[simp] theorem setBar_psave (b : Nat) (v : Bar) (s : State) : (setBar b v s).psave = s.psave := rfl
@[simp] theorem setBar_cores (b : Nat) (v : Bar) (s : State) : (setBar b v s).cores = s.cores := rfl
@[simp] theorem setBar_arrs (b : Nat) (v : Bar) (s : State) : (setBar b v s).arrs = s.arrs := rfl
@[simp] theorem setBar_bist (b : Nat) (v : Bar) (s : State) : (setBar b v s).bist = s.bist := rfl
@[simp] theorem setBar_vecs (b : Nat) (v : Bar) (s : State) : (setBar b v s).vecs = s.vecs := rfl
@[simp] theorem setBar_movers (b : Nat) (v : Bar) (s : State) : (setBar b v s).movers = s.movers := rfl
@[simp] theorem setBar_gths (b : Nat) (v : Bar) (s : State) : (setBar b v s).gths = s.gths := rfl
@[simp] theorem setBar_ops (b : Nat) (v : Bar) (s : State) : (setBar b v s).ops = s.ops := rfl
@[simp] theorem setBar_unitJobs (b : Nat) (v : Bar) (s : State) : (setBar b v s).unitJobs = s.unitJobs := rfl
@[simp] theorem setBar_opWait (b : Nat) (v : Bar) (s : State) : (setBar b v s).opWait = s.opWait := rfl
@[simp] theorem setBar_opTurn (b : Nat) (v : Bar) (s : State) : (setBar b v s).opTurn = s.opTurn := rfl
@[simp] theorem setBar_peakAll (b : Nat) (v : Bar) (s : State) : (setBar b v s).peakAll = s.peakAll := rfl
@[simp] theorem setBar_peaks (b : Nat) (v : Bar) (s : State) : (setBar b v s).peaks = s.peaks := rfl
@[simp] theorem setBar_nextTxn (b : Nat) (v : Bar) (s : State) : (setBar b v s).nextTxn = s.nextTxn := rfl
@[simp] theorem setBar_netmMasks (b : Nat) (v : Bar) (s : State) : (setBar b v s).netmMasks = s.netmMasks := rfl
@[simp] theorem setBar_reds (b : Nat) (v : Bar) (s : State) : (setBar b v s).reds = s.reds := rfl
@[simp] theorem setBar_redWait (b : Nat) (v : Bar) (s : State) : (setBar b v s).redWait = s.redWait := rfl
@[simp] theorem setBar_tagCache (b : Nat) (v : Bar) (s : State) : (setBar b v s).tagCache = s.tagCache := rfl
@[simp] theorem setBar_redDead (b : Nat) (v : Bar) (s : State) : (setBar b v s).redDead = s.redDead := rfl
@[simp] theorem setBar_homes (b : Nat) (v : Bar) (s : State) : (setBar b v s).homes = s.homes := rfl
@[simp] theorem setBar_standIn (b : Nat) (v : Bar) (s : State) : (setBar b v s).standIn = s.standIn := rfl
@[simp] theorem setBar_slices (b : Nat) (v : Bar) (s : State) : (setBar b v s).slices = s.slices := rfl
@[simp] theorem setBar_cache (b : Nat) (v : Bar) (s : State) : (setBar b v s).cache = s.cache := rfl
@[simp] theorem setBar_dirs (b : Nat) (v : Bar) (s : State) : (setBar b v s).dirs = s.dirs := rfl
@[simp] theorem setBar_heights (b : Nat) (v : Bar) (s : State) : (setBar b v s).heights = s.heights := rfl
@[simp] theorem setBar_dram (b : Nat) (v : Bar) (s : State) : (setBar b v s).dram = s.dram := rfl
@[simp] theorem setBar_badGlz (b : Nat) (v : Bar) (s : State) : (setBar b v s).badGlz = s.badGlz := rfl
@[simp] theorem setBar_ueLines (b : Nat) (v : Bar) (s : State) : (setBar b v s).ueLines = s.ueLines := rfl
@[simp] theorem setBar_keepPools (b : Nat) (v : Bar) (s : State) : (setBar b v s).keepPools = s.keepPools := rfl
@[simp] theorem setBar_keepRecs (b : Nat) (v : Bar) (s : State) : (setBar b v s).keepRecs = s.keepRecs := rfl
@[simp] theorem setBar_heldReqs (b : Nat) (v : Bar) (s : State) : (setBar b v s).heldReqs = s.heldReqs := rfl
@[simp] theorem setBar_ports (b : Nat) (v : Bar) (s : State) : (setBar b v s).ports = s.ports := rfl
@[simp] theorem setBar_grps (b : Nat) (v : Bar) (s : State) : (setBar b v s).grps = s.grps := rfl
@[simp] theorem setBar_unreach (b : Nat) (v : Bar) (s : State) : (setBar b v s).unreach = s.unreach := rfl
@[simp] theorem setBar_mcasts (b : Nat) (v : Bar) (s : State) : (setBar b v s).mcasts = s.mcasts := rfl
@[simp] theorem setBar_twn (b : Nat) (v : Bar) (s : State) : (setBar b v s).twn = s.twn := rfl
@[simp] theorem setBar_ringStage (b : Nat) (v : Bar) (s : State) : (setBar b v s).ringStage = s.ringStage := rfl
@[simp] theorem setBar_msgRings (b : Nat) (v : Bar) (s : State) : (setBar b v s).msgRings = s.msgRings := rfl
@[simp] theorem setBar_ann (b : Nat) (v : Bar) (s : State) : (setBar b v s).ann = s.ann := rfl
@[simp] theorem setBar_alm (b : Nat) (v : Bar) (s : State) : (setBar b v s).alm = s.alm := rfl
@[simp] theorem setBar_recCopies (b : Nat) (v : Bar) (s : State) : (setBar b v s).recCopies = s.recCopies := rfl
@[simp] theorem setBar_report (b : Nat) (v : Bar) (s : State) : (setBar b v s).report = s.report := rfl
@[simp] theorem setBar_tap (b : Nat) (v : Bar) (s : State) : (setBar b v s).tap = s.tap := rfl

@[simp] theorem setSlice_pending (i : Nat) (v : Slice) (s : State) : (setSlice i v s).pending = s.pending := rfl
@[simp] theorem setSlice_outbox (i : Nat) (v : Slice) (s : State) : (setSlice i v s).outbox = s.outbox := rfl
@[simp] theorem setSlice_freeCtr (i : Nat) (v : Slice) (s : State) : (setSlice i v s).freeCtr = s.freeCtr := rfl
@[simp] theorem setSlice_fuses (i : Nat) (v : Slice) (s : State) : (setSlice i v s).fuses = s.fuses := rfl
@[simp] theorem setSlice_inReset (i : Nat) (v : Slice) (s : State) : (setSlice i v s).inReset = s.inReset := rfl
@[simp] theorem setSlice_testEn (i : Nat) (v : Slice) (s : State) : (setSlice i v s).testEn = s.testEn := rfl
@[simp] theorem setSlice_tripped (i : Nat) (v : Slice) (s : State) : (setSlice i v s).tripped = s.tripped := rfl
@[simp] theorem setSlice_regs (i : Nat) (v : Slice) (s : State) : (setSlice i v s).regs = s.regs := rfl
@[simp] theorem setSlice_capt (i : Nat) (v : Slice) (s : State) : (setSlice i v s).capt = s.capt := rfl
@[simp] theorem setSlice_selfFailed (i : Nat) (v : Slice) (s : State) : (setSlice i v s).selfFailed = s.selfFailed := rfl
@[simp] theorem setSlice_testEnded (i : Nat) (v : Slice) (s : State) : (setSlice i v s).testEnded = s.testEnded := rfl
@[simp] theorem setSlice_wbuf (i : Nat) (v : Slice) (s : State) : (setSlice i v s).wbuf = s.wbuf := rfl
@[simp] theorem setSlice_time (i : Nat) (v : Slice) (s : State) : (setSlice i v s).time = s.time := rfl
@[simp] theorem setSlice_timePend (i : Nat) (v : Slice) (s : State) : (setSlice i v s).timePend = s.timePend := rfl
@[simp] theorem setSlice_timeFrac (i : Nat) (v : Slice) (s : State) : (setSlice i v s).timeFrac = s.timeFrac := rfl
@[simp] theorem setSlice_pwr (i : Nat) (v : Slice) (s : State) : (setSlice i v s).pwr = s.pwr := rfl
@[simp] theorem setSlice_ptns (i : Nat) (v : Slice) (s : State) : (setSlice i v s).ptns = s.ptns := rfl
@[simp] theorem setSlice_snap (i : Nat) (v : Slice) (s : State) : (setSlice i v s).snap = s.snap := rfl
@[simp] theorem setSlice_prec (i : Nat) (v : Slice) (s : State) : (setSlice i v s).prec = s.prec := rfl
@[simp] theorem setSlice_psave (i : Nat) (v : Slice) (s : State) : (setSlice i v s).psave = s.psave := rfl
@[simp] theorem setSlice_cores (i : Nat) (v : Slice) (s : State) : (setSlice i v s).cores = s.cores := rfl
@[simp] theorem setSlice_arrs (i : Nat) (v : Slice) (s : State) : (setSlice i v s).arrs = s.arrs := rfl
@[simp] theorem setSlice_bist (i : Nat) (v : Slice) (s : State) : (setSlice i v s).bist = s.bist := rfl
@[simp] theorem setSlice_vecs (i : Nat) (v : Slice) (s : State) : (setSlice i v s).vecs = s.vecs := rfl
@[simp] theorem setSlice_movers (i : Nat) (v : Slice) (s : State) : (setSlice i v s).movers = s.movers := rfl
@[simp] theorem setSlice_gths (i : Nat) (v : Slice) (s : State) : (setSlice i v s).gths = s.gths := rfl
@[simp] theorem setSlice_bars (i : Nat) (v : Slice) (s : State) : (setSlice i v s).bars = s.bars := rfl
@[simp] theorem setSlice_ops (i : Nat) (v : Slice) (s : State) : (setSlice i v s).ops = s.ops := rfl
@[simp] theorem setSlice_unitJobs (i : Nat) (v : Slice) (s : State) : (setSlice i v s).unitJobs = s.unitJobs := rfl
@[simp] theorem setSlice_opWait (i : Nat) (v : Slice) (s : State) : (setSlice i v s).opWait = s.opWait := rfl
@[simp] theorem setSlice_opTurn (i : Nat) (v : Slice) (s : State) : (setSlice i v s).opTurn = s.opTurn := rfl
@[simp] theorem setSlice_peakAll (i : Nat) (v : Slice) (s : State) : (setSlice i v s).peakAll = s.peakAll := rfl
@[simp] theorem setSlice_peaks (i : Nat) (v : Slice) (s : State) : (setSlice i v s).peaks = s.peaks := rfl
@[simp] theorem setSlice_nextTxn (i : Nat) (v : Slice) (s : State) : (setSlice i v s).nextTxn = s.nextTxn := rfl
@[simp] theorem setSlice_netmMasks (i : Nat) (v : Slice) (s : State) : (setSlice i v s).netmMasks = s.netmMasks := rfl
@[simp] theorem setSlice_reds (i : Nat) (v : Slice) (s : State) : (setSlice i v s).reds = s.reds := rfl
@[simp] theorem setSlice_redWait (i : Nat) (v : Slice) (s : State) : (setSlice i v s).redWait = s.redWait := rfl
@[simp] theorem setSlice_tagCache (i : Nat) (v : Slice) (s : State) : (setSlice i v s).tagCache = s.tagCache := rfl
@[simp] theorem setSlice_redDead (i : Nat) (v : Slice) (s : State) : (setSlice i v s).redDead = s.redDead := rfl
@[simp] theorem setSlice_homes (i : Nat) (v : Slice) (s : State) : (setSlice i v s).homes = s.homes := rfl
@[simp] theorem setSlice_standIn (i : Nat) (v : Slice) (s : State) : (setSlice i v s).standIn = s.standIn := rfl
@[simp] theorem setSlice_cache (i : Nat) (v : Slice) (s : State) : (setSlice i v s).cache = s.cache := rfl
@[simp] theorem setSlice_dirs (i : Nat) (v : Slice) (s : State) : (setSlice i v s).dirs = s.dirs := rfl
@[simp] theorem setSlice_heights (i : Nat) (v : Slice) (s : State) : (setSlice i v s).heights = s.heights := rfl
@[simp] theorem setSlice_dram (i : Nat) (v : Slice) (s : State) : (setSlice i v s).dram = s.dram := rfl
@[simp] theorem setSlice_badGlz (i : Nat) (v : Slice) (s : State) : (setSlice i v s).badGlz = s.badGlz := rfl
@[simp] theorem setSlice_ueLines (i : Nat) (v : Slice) (s : State) : (setSlice i v s).ueLines = s.ueLines := rfl
@[simp] theorem setSlice_keepPools (i : Nat) (v : Slice) (s : State) : (setSlice i v s).keepPools = s.keepPools := rfl
@[simp] theorem setSlice_keepRecs (i : Nat) (v : Slice) (s : State) : (setSlice i v s).keepRecs = s.keepRecs := rfl
@[simp] theorem setSlice_heldReqs (i : Nat) (v : Slice) (s : State) : (setSlice i v s).heldReqs = s.heldReqs := rfl
@[simp] theorem setSlice_ports (i : Nat) (v : Slice) (s : State) : (setSlice i v s).ports = s.ports := rfl
@[simp] theorem setSlice_grps (i : Nat) (v : Slice) (s : State) : (setSlice i v s).grps = s.grps := rfl
@[simp] theorem setSlice_unreach (i : Nat) (v : Slice) (s : State) : (setSlice i v s).unreach = s.unreach := rfl
@[simp] theorem setSlice_mcasts (i : Nat) (v : Slice) (s : State) : (setSlice i v s).mcasts = s.mcasts := rfl
@[simp] theorem setSlice_twn (i : Nat) (v : Slice) (s : State) : (setSlice i v s).twn = s.twn := rfl
@[simp] theorem setSlice_ringStage (i : Nat) (v : Slice) (s : State) : (setSlice i v s).ringStage = s.ringStage := rfl
@[simp] theorem setSlice_msgRings (i : Nat) (v : Slice) (s : State) : (setSlice i v s).msgRings = s.msgRings := rfl
@[simp] theorem setSlice_ann (i : Nat) (v : Slice) (s : State) : (setSlice i v s).ann = s.ann := rfl
@[simp] theorem setSlice_alm (i : Nat) (v : Slice) (s : State) : (setSlice i v s).alm = s.alm := rfl
@[simp] theorem setSlice_recCopies (i : Nat) (v : Slice) (s : State) : (setSlice i v s).recCopies = s.recCopies := rfl
@[simp] theorem setSlice_report (i : Nat) (v : Slice) (s : State) : (setSlice i v s).report = s.report := rfl
@[simp] theorem setSlice_tap (i : Nat) (v : Slice) (s : State) : (setSlice i v s).tap = s.tap := rfl

@[simp] theorem updSlice_pending (i : Nat) (f : Slice → Slice) (s : State) : (updSlice i f s).pending = s.pending := rfl
@[simp] theorem updSlice_outbox (i : Nat) (f : Slice → Slice) (s : State) : (updSlice i f s).outbox = s.outbox := rfl
@[simp] theorem updSlice_freeCtr (i : Nat) (f : Slice → Slice) (s : State) : (updSlice i f s).freeCtr = s.freeCtr := rfl
@[simp] theorem updSlice_fuses (i : Nat) (f : Slice → Slice) (s : State) : (updSlice i f s).fuses = s.fuses := rfl
@[simp] theorem updSlice_inReset (i : Nat) (f : Slice → Slice) (s : State) : (updSlice i f s).inReset = s.inReset := rfl
@[simp] theorem updSlice_testEn (i : Nat) (f : Slice → Slice) (s : State) : (updSlice i f s).testEn = s.testEn := rfl
@[simp] theorem updSlice_tripped (i : Nat) (f : Slice → Slice) (s : State) : (updSlice i f s).tripped = s.tripped := rfl
@[simp] theorem updSlice_regs (i : Nat) (f : Slice → Slice) (s : State) : (updSlice i f s).regs = s.regs := rfl
@[simp] theorem updSlice_capt (i : Nat) (f : Slice → Slice) (s : State) : (updSlice i f s).capt = s.capt := rfl
@[simp] theorem updSlice_selfFailed (i : Nat) (f : Slice → Slice) (s : State) : (updSlice i f s).selfFailed = s.selfFailed := rfl
@[simp] theorem updSlice_testEnded (i : Nat) (f : Slice → Slice) (s : State) : (updSlice i f s).testEnded = s.testEnded := rfl
@[simp] theorem updSlice_wbuf (i : Nat) (f : Slice → Slice) (s : State) : (updSlice i f s).wbuf = s.wbuf := rfl
@[simp] theorem updSlice_time (i : Nat) (f : Slice → Slice) (s : State) : (updSlice i f s).time = s.time := rfl
@[simp] theorem updSlice_timePend (i : Nat) (f : Slice → Slice) (s : State) : (updSlice i f s).timePend = s.timePend := rfl
@[simp] theorem updSlice_timeFrac (i : Nat) (f : Slice → Slice) (s : State) : (updSlice i f s).timeFrac = s.timeFrac := rfl
@[simp] theorem updSlice_pwr (i : Nat) (f : Slice → Slice) (s : State) : (updSlice i f s).pwr = s.pwr := rfl
@[simp] theorem updSlice_ptns (i : Nat) (f : Slice → Slice) (s : State) : (updSlice i f s).ptns = s.ptns := rfl
@[simp] theorem updSlice_snap (i : Nat) (f : Slice → Slice) (s : State) : (updSlice i f s).snap = s.snap := rfl
@[simp] theorem updSlice_prec (i : Nat) (f : Slice → Slice) (s : State) : (updSlice i f s).prec = s.prec := rfl
@[simp] theorem updSlice_psave (i : Nat) (f : Slice → Slice) (s : State) : (updSlice i f s).psave = s.psave := rfl
@[simp] theorem updSlice_cores (i : Nat) (f : Slice → Slice) (s : State) : (updSlice i f s).cores = s.cores := rfl
@[simp] theorem updSlice_arrs (i : Nat) (f : Slice → Slice) (s : State) : (updSlice i f s).arrs = s.arrs := rfl
@[simp] theorem updSlice_bist (i : Nat) (f : Slice → Slice) (s : State) : (updSlice i f s).bist = s.bist := rfl
@[simp] theorem updSlice_vecs (i : Nat) (f : Slice → Slice) (s : State) : (updSlice i f s).vecs = s.vecs := rfl
@[simp] theorem updSlice_movers (i : Nat) (f : Slice → Slice) (s : State) : (updSlice i f s).movers = s.movers := rfl
@[simp] theorem updSlice_gths (i : Nat) (f : Slice → Slice) (s : State) : (updSlice i f s).gths = s.gths := rfl
@[simp] theorem updSlice_bars (i : Nat) (f : Slice → Slice) (s : State) : (updSlice i f s).bars = s.bars := rfl
@[simp] theorem updSlice_ops (i : Nat) (f : Slice → Slice) (s : State) : (updSlice i f s).ops = s.ops := rfl
@[simp] theorem updSlice_unitJobs (i : Nat) (f : Slice → Slice) (s : State) : (updSlice i f s).unitJobs = s.unitJobs := rfl
@[simp] theorem updSlice_opWait (i : Nat) (f : Slice → Slice) (s : State) : (updSlice i f s).opWait = s.opWait := rfl
@[simp] theorem updSlice_opTurn (i : Nat) (f : Slice → Slice) (s : State) : (updSlice i f s).opTurn = s.opTurn := rfl
@[simp] theorem updSlice_peakAll (i : Nat) (f : Slice → Slice) (s : State) : (updSlice i f s).peakAll = s.peakAll := rfl
@[simp] theorem updSlice_peaks (i : Nat) (f : Slice → Slice) (s : State) : (updSlice i f s).peaks = s.peaks := rfl
@[simp] theorem updSlice_nextTxn (i : Nat) (f : Slice → Slice) (s : State) : (updSlice i f s).nextTxn = s.nextTxn := rfl
@[simp] theorem updSlice_netmMasks (i : Nat) (f : Slice → Slice) (s : State) : (updSlice i f s).netmMasks = s.netmMasks := rfl
@[simp] theorem updSlice_reds (i : Nat) (f : Slice → Slice) (s : State) : (updSlice i f s).reds = s.reds := rfl
@[simp] theorem updSlice_redWait (i : Nat) (f : Slice → Slice) (s : State) : (updSlice i f s).redWait = s.redWait := rfl
@[simp] theorem updSlice_tagCache (i : Nat) (f : Slice → Slice) (s : State) : (updSlice i f s).tagCache = s.tagCache := rfl
@[simp] theorem updSlice_redDead (i : Nat) (f : Slice → Slice) (s : State) : (updSlice i f s).redDead = s.redDead := rfl
@[simp] theorem updSlice_homes (i : Nat) (f : Slice → Slice) (s : State) : (updSlice i f s).homes = s.homes := rfl
@[simp] theorem updSlice_standIn (i : Nat) (f : Slice → Slice) (s : State) : (updSlice i f s).standIn = s.standIn := rfl
@[simp] theorem updSlice_cache (i : Nat) (f : Slice → Slice) (s : State) : (updSlice i f s).cache = s.cache := rfl
@[simp] theorem updSlice_dirs (i : Nat) (f : Slice → Slice) (s : State) : (updSlice i f s).dirs = s.dirs := rfl
@[simp] theorem updSlice_heights (i : Nat) (f : Slice → Slice) (s : State) : (updSlice i f s).heights = s.heights := rfl
@[simp] theorem updSlice_dram (i : Nat) (f : Slice → Slice) (s : State) : (updSlice i f s).dram = s.dram := rfl
@[simp] theorem updSlice_badGlz (i : Nat) (f : Slice → Slice) (s : State) : (updSlice i f s).badGlz = s.badGlz := rfl
@[simp] theorem updSlice_ueLines (i : Nat) (f : Slice → Slice) (s : State) : (updSlice i f s).ueLines = s.ueLines := rfl
@[simp] theorem updSlice_keepPools (i : Nat) (f : Slice → Slice) (s : State) : (updSlice i f s).keepPools = s.keepPools := rfl
@[simp] theorem updSlice_keepRecs (i : Nat) (f : Slice → Slice) (s : State) : (updSlice i f s).keepRecs = s.keepRecs := rfl
@[simp] theorem updSlice_heldReqs (i : Nat) (f : Slice → Slice) (s : State) : (updSlice i f s).heldReqs = s.heldReqs := rfl
@[simp] theorem updSlice_ports (i : Nat) (f : Slice → Slice) (s : State) : (updSlice i f s).ports = s.ports := rfl
@[simp] theorem updSlice_grps (i : Nat) (f : Slice → Slice) (s : State) : (updSlice i f s).grps = s.grps := rfl
@[simp] theorem updSlice_unreach (i : Nat) (f : Slice → Slice) (s : State) : (updSlice i f s).unreach = s.unreach := rfl
@[simp] theorem updSlice_mcasts (i : Nat) (f : Slice → Slice) (s : State) : (updSlice i f s).mcasts = s.mcasts := rfl
@[simp] theorem updSlice_twn (i : Nat) (f : Slice → Slice) (s : State) : (updSlice i f s).twn = s.twn := rfl
@[simp] theorem updSlice_ringStage (i : Nat) (f : Slice → Slice) (s : State) : (updSlice i f s).ringStage = s.ringStage := rfl
@[simp] theorem updSlice_msgRings (i : Nat) (f : Slice → Slice) (s : State) : (updSlice i f s).msgRings = s.msgRings := rfl
@[simp] theorem updSlice_ann (i : Nat) (f : Slice → Slice) (s : State) : (updSlice i f s).ann = s.ann := rfl
@[simp] theorem updSlice_alm (i : Nat) (f : Slice → Slice) (s : State) : (updSlice i f s).alm = s.alm := rfl
@[simp] theorem updSlice_recCopies (i : Nat) (f : Slice → Slice) (s : State) : (updSlice i f s).recCopies = s.recCopies := rfl
@[simp] theorem updSlice_report (i : Nat) (f : Slice → Slice) (s : State) : (updSlice i f s).report = s.report := rfl
@[simp] theorem updSlice_tap (i : Nat) (f : Slice → Slice) (s : State) : (updSlice i f s).tap = s.tap := rfl

@[simp] theorem setMover_pending (c : Nat) (e : Bool) (v : Mover) (s : State) : (setMover c e v s).pending = s.pending := rfl
@[simp] theorem setMover_outbox (c : Nat) (e : Bool) (v : Mover) (s : State) : (setMover c e v s).outbox = s.outbox := rfl
@[simp] theorem setMover_freeCtr (c : Nat) (e : Bool) (v : Mover) (s : State) : (setMover c e v s).freeCtr = s.freeCtr := rfl
@[simp] theorem setMover_fuses (c : Nat) (e : Bool) (v : Mover) (s : State) : (setMover c e v s).fuses = s.fuses := rfl
@[simp] theorem setMover_inReset (c : Nat) (e : Bool) (v : Mover) (s : State) : (setMover c e v s).inReset = s.inReset := rfl
@[simp] theorem setMover_testEn (c : Nat) (e : Bool) (v : Mover) (s : State) : (setMover c e v s).testEn = s.testEn := rfl
@[simp] theorem setMover_tripped (c : Nat) (e : Bool) (v : Mover) (s : State) : (setMover c e v s).tripped = s.tripped := rfl
@[simp] theorem setMover_regs (c : Nat) (e : Bool) (v : Mover) (s : State) : (setMover c e v s).regs = s.regs := rfl
@[simp] theorem setMover_capt (c : Nat) (e : Bool) (v : Mover) (s : State) : (setMover c e v s).capt = s.capt := rfl
@[simp] theorem setMover_selfFailed (c : Nat) (e : Bool) (v : Mover) (s : State) : (setMover c e v s).selfFailed = s.selfFailed := rfl
@[simp] theorem setMover_testEnded (c : Nat) (e : Bool) (v : Mover) (s : State) : (setMover c e v s).testEnded = s.testEnded := rfl
@[simp] theorem setMover_wbuf (c : Nat) (e : Bool) (v : Mover) (s : State) : (setMover c e v s).wbuf = s.wbuf := rfl
@[simp] theorem setMover_time (c : Nat) (e : Bool) (v : Mover) (s : State) : (setMover c e v s).time = s.time := rfl
@[simp] theorem setMover_timePend (c : Nat) (e : Bool) (v : Mover) (s : State) : (setMover c e v s).timePend = s.timePend := rfl
@[simp] theorem setMover_timeFrac (c : Nat) (e : Bool) (v : Mover) (s : State) : (setMover c e v s).timeFrac = s.timeFrac := rfl
@[simp] theorem setMover_pwr (c : Nat) (e : Bool) (v : Mover) (s : State) : (setMover c e v s).pwr = s.pwr := rfl
@[simp] theorem setMover_ptns (c : Nat) (e : Bool) (v : Mover) (s : State) : (setMover c e v s).ptns = s.ptns := rfl
@[simp] theorem setMover_snap (c : Nat) (e : Bool) (v : Mover) (s : State) : (setMover c e v s).snap = s.snap := rfl
@[simp] theorem setMover_prec (c : Nat) (e : Bool) (v : Mover) (s : State) : (setMover c e v s).prec = s.prec := rfl
@[simp] theorem setMover_psave (c : Nat) (e : Bool) (v : Mover) (s : State) : (setMover c e v s).psave = s.psave := rfl
@[simp] theorem setMover_cores (c : Nat) (e : Bool) (v : Mover) (s : State) : (setMover c e v s).cores = s.cores := rfl
@[simp] theorem setMover_arrs (c : Nat) (e : Bool) (v : Mover) (s : State) : (setMover c e v s).arrs = s.arrs := rfl
@[simp] theorem setMover_bist (c : Nat) (e : Bool) (v : Mover) (s : State) : (setMover c e v s).bist = s.bist := rfl
@[simp] theorem setMover_vecs (c : Nat) (e : Bool) (v : Mover) (s : State) : (setMover c e v s).vecs = s.vecs := rfl
@[simp] theorem setMover_gths (c : Nat) (e : Bool) (v : Mover) (s : State) : (setMover c e v s).gths = s.gths := rfl
@[simp] theorem setMover_bars (c : Nat) (e : Bool) (v : Mover) (s : State) : (setMover c e v s).bars = s.bars := rfl
@[simp] theorem setMover_ops (c : Nat) (e : Bool) (v : Mover) (s : State) : (setMover c e v s).ops = s.ops := rfl
@[simp] theorem setMover_unitJobs (c : Nat) (e : Bool) (v : Mover) (s : State) : (setMover c e v s).unitJobs = s.unitJobs := rfl
@[simp] theorem setMover_opWait (c : Nat) (e : Bool) (v : Mover) (s : State) : (setMover c e v s).opWait = s.opWait := rfl
@[simp] theorem setMover_opTurn (c : Nat) (e : Bool) (v : Mover) (s : State) : (setMover c e v s).opTurn = s.opTurn := rfl
@[simp] theorem setMover_peakAll (c : Nat) (e : Bool) (v : Mover) (s : State) : (setMover c e v s).peakAll = s.peakAll := rfl
@[simp] theorem setMover_peaks (c : Nat) (e : Bool) (v : Mover) (s : State) : (setMover c e v s).peaks = s.peaks := rfl
@[simp] theorem setMover_nextTxn (c : Nat) (e : Bool) (v : Mover) (s : State) : (setMover c e v s).nextTxn = s.nextTxn := rfl
@[simp] theorem setMover_netmMasks (c : Nat) (e : Bool) (v : Mover) (s : State) : (setMover c e v s).netmMasks = s.netmMasks := rfl
@[simp] theorem setMover_reds (c : Nat) (e : Bool) (v : Mover) (s : State) : (setMover c e v s).reds = s.reds := rfl
@[simp] theorem setMover_redWait (c : Nat) (e : Bool) (v : Mover) (s : State) : (setMover c e v s).redWait = s.redWait := rfl
@[simp] theorem setMover_tagCache (c : Nat) (e : Bool) (v : Mover) (s : State) : (setMover c e v s).tagCache = s.tagCache := rfl
@[simp] theorem setMover_redDead (c : Nat) (e : Bool) (v : Mover) (s : State) : (setMover c e v s).redDead = s.redDead := rfl
@[simp] theorem setMover_homes (c : Nat) (e : Bool) (v : Mover) (s : State) : (setMover c e v s).homes = s.homes := rfl
@[simp] theorem setMover_standIn (c : Nat) (e : Bool) (v : Mover) (s : State) : (setMover c e v s).standIn = s.standIn := rfl
@[simp] theorem setMover_slices (c : Nat) (e : Bool) (v : Mover) (s : State) : (setMover c e v s).slices = s.slices := rfl
@[simp] theorem setMover_cache (c : Nat) (e : Bool) (v : Mover) (s : State) : (setMover c e v s).cache = s.cache := rfl
@[simp] theorem setMover_dirs (c : Nat) (e : Bool) (v : Mover) (s : State) : (setMover c e v s).dirs = s.dirs := rfl
@[simp] theorem setMover_heights (c : Nat) (e : Bool) (v : Mover) (s : State) : (setMover c e v s).heights = s.heights := rfl
@[simp] theorem setMover_dram (c : Nat) (e : Bool) (v : Mover) (s : State) : (setMover c e v s).dram = s.dram := rfl
@[simp] theorem setMover_badGlz (c : Nat) (e : Bool) (v : Mover) (s : State) : (setMover c e v s).badGlz = s.badGlz := rfl
@[simp] theorem setMover_ueLines (c : Nat) (e : Bool) (v : Mover) (s : State) : (setMover c e v s).ueLines = s.ueLines := rfl
@[simp] theorem setMover_keepPools (c : Nat) (e : Bool) (v : Mover) (s : State) : (setMover c e v s).keepPools = s.keepPools := rfl
@[simp] theorem setMover_keepRecs (c : Nat) (e : Bool) (v : Mover) (s : State) : (setMover c e v s).keepRecs = s.keepRecs := rfl
@[simp] theorem setMover_heldReqs (c : Nat) (e : Bool) (v : Mover) (s : State) : (setMover c e v s).heldReqs = s.heldReqs := rfl
@[simp] theorem setMover_ports (c : Nat) (e : Bool) (v : Mover) (s : State) : (setMover c e v s).ports = s.ports := rfl
@[simp] theorem setMover_grps (c : Nat) (e : Bool) (v : Mover) (s : State) : (setMover c e v s).grps = s.grps := rfl
@[simp] theorem setMover_unreach (c : Nat) (e : Bool) (v : Mover) (s : State) : (setMover c e v s).unreach = s.unreach := rfl
@[simp] theorem setMover_mcasts (c : Nat) (e : Bool) (v : Mover) (s : State) : (setMover c e v s).mcasts = s.mcasts := rfl
@[simp] theorem setMover_twn (c : Nat) (e : Bool) (v : Mover) (s : State) : (setMover c e v s).twn = s.twn := rfl
@[simp] theorem setMover_ringStage (c : Nat) (e : Bool) (v : Mover) (s : State) : (setMover c e v s).ringStage = s.ringStage := rfl
@[simp] theorem setMover_msgRings (c : Nat) (e : Bool) (v : Mover) (s : State) : (setMover c e v s).msgRings = s.msgRings := rfl
@[simp] theorem setMover_ann (c : Nat) (e : Bool) (v : Mover) (s : State) : (setMover c e v s).ann = s.ann := rfl
@[simp] theorem setMover_alm (c : Nat) (e : Bool) (v : Mover) (s : State) : (setMover c e v s).alm = s.alm := rfl
@[simp] theorem setMover_recCopies (c : Nat) (e : Bool) (v : Mover) (s : State) : (setMover c e v s).recCopies = s.recCopies := rfl
@[simp] theorem setMover_report (c : Nat) (e : Bool) (v : Mover) (s : State) : (setMover c e v s).report = s.report := rfl
@[simp] theorem setMover_tap (c : Nat) (e : Bool) (v : Mover) (s : State) : (setMover c e v s).tap = s.tap := rfl

@[simp] theorem setGth_pending (c : Nat) (v : Gth) (s : State) : (setGth c v s).pending = s.pending := rfl
@[simp] theorem setGth_outbox (c : Nat) (v : Gth) (s : State) : (setGth c v s).outbox = s.outbox := rfl
@[simp] theorem setGth_freeCtr (c : Nat) (v : Gth) (s : State) : (setGth c v s).freeCtr = s.freeCtr := rfl
@[simp] theorem setGth_fuses (c : Nat) (v : Gth) (s : State) : (setGth c v s).fuses = s.fuses := rfl
@[simp] theorem setGth_inReset (c : Nat) (v : Gth) (s : State) : (setGth c v s).inReset = s.inReset := rfl
@[simp] theorem setGth_testEn (c : Nat) (v : Gth) (s : State) : (setGth c v s).testEn = s.testEn := rfl
@[simp] theorem setGth_tripped (c : Nat) (v : Gth) (s : State) : (setGth c v s).tripped = s.tripped := rfl
@[simp] theorem setGth_regs (c : Nat) (v : Gth) (s : State) : (setGth c v s).regs = s.regs := rfl
@[simp] theorem setGth_capt (c : Nat) (v : Gth) (s : State) : (setGth c v s).capt = s.capt := rfl
@[simp] theorem setGth_selfFailed (c : Nat) (v : Gth) (s : State) : (setGth c v s).selfFailed = s.selfFailed := rfl
@[simp] theorem setGth_testEnded (c : Nat) (v : Gth) (s : State) : (setGth c v s).testEnded = s.testEnded := rfl
@[simp] theorem setGth_wbuf (c : Nat) (v : Gth) (s : State) : (setGth c v s).wbuf = s.wbuf := rfl
@[simp] theorem setGth_time (c : Nat) (v : Gth) (s : State) : (setGth c v s).time = s.time := rfl
@[simp] theorem setGth_timePend (c : Nat) (v : Gth) (s : State) : (setGth c v s).timePend = s.timePend := rfl
@[simp] theorem setGth_timeFrac (c : Nat) (v : Gth) (s : State) : (setGth c v s).timeFrac = s.timeFrac := rfl
@[simp] theorem setGth_pwr (c : Nat) (v : Gth) (s : State) : (setGth c v s).pwr = s.pwr := rfl
@[simp] theorem setGth_ptns (c : Nat) (v : Gth) (s : State) : (setGth c v s).ptns = s.ptns := rfl
@[simp] theorem setGth_snap (c : Nat) (v : Gth) (s : State) : (setGth c v s).snap = s.snap := rfl
@[simp] theorem setGth_prec (c : Nat) (v : Gth) (s : State) : (setGth c v s).prec = s.prec := rfl
@[simp] theorem setGth_psave (c : Nat) (v : Gth) (s : State) : (setGth c v s).psave = s.psave := rfl
@[simp] theorem setGth_cores (c : Nat) (v : Gth) (s : State) : (setGth c v s).cores = s.cores := rfl
@[simp] theorem setGth_arrs (c : Nat) (v : Gth) (s : State) : (setGth c v s).arrs = s.arrs := rfl
@[simp] theorem setGth_bist (c : Nat) (v : Gth) (s : State) : (setGth c v s).bist = s.bist := rfl
@[simp] theorem setGth_vecs (c : Nat) (v : Gth) (s : State) : (setGth c v s).vecs = s.vecs := rfl
@[simp] theorem setGth_movers (c : Nat) (v : Gth) (s : State) : (setGth c v s).movers = s.movers := rfl
@[simp] theorem setGth_bars (c : Nat) (v : Gth) (s : State) : (setGth c v s).bars = s.bars := rfl
@[simp] theorem setGth_ops (c : Nat) (v : Gth) (s : State) : (setGth c v s).ops = s.ops := rfl
@[simp] theorem setGth_unitJobs (c : Nat) (v : Gth) (s : State) : (setGth c v s).unitJobs = s.unitJobs := rfl
@[simp] theorem setGth_opWait (c : Nat) (v : Gth) (s : State) : (setGth c v s).opWait = s.opWait := rfl
@[simp] theorem setGth_opTurn (c : Nat) (v : Gth) (s : State) : (setGth c v s).opTurn = s.opTurn := rfl
@[simp] theorem setGth_peakAll (c : Nat) (v : Gth) (s : State) : (setGth c v s).peakAll = s.peakAll := rfl
@[simp] theorem setGth_peaks (c : Nat) (v : Gth) (s : State) : (setGth c v s).peaks = s.peaks := rfl
@[simp] theorem setGth_nextTxn (c : Nat) (v : Gth) (s : State) : (setGth c v s).nextTxn = s.nextTxn := rfl
@[simp] theorem setGth_netmMasks (c : Nat) (v : Gth) (s : State) : (setGth c v s).netmMasks = s.netmMasks := rfl
@[simp] theorem setGth_reds (c : Nat) (v : Gth) (s : State) : (setGth c v s).reds = s.reds := rfl
@[simp] theorem setGth_redWait (c : Nat) (v : Gth) (s : State) : (setGth c v s).redWait = s.redWait := rfl
@[simp] theorem setGth_tagCache (c : Nat) (v : Gth) (s : State) : (setGth c v s).tagCache = s.tagCache := rfl
@[simp] theorem setGth_redDead (c : Nat) (v : Gth) (s : State) : (setGth c v s).redDead = s.redDead := rfl
@[simp] theorem setGth_homes (c : Nat) (v : Gth) (s : State) : (setGth c v s).homes = s.homes := rfl
@[simp] theorem setGth_standIn (c : Nat) (v : Gth) (s : State) : (setGth c v s).standIn = s.standIn := rfl
@[simp] theorem setGth_slices (c : Nat) (v : Gth) (s : State) : (setGth c v s).slices = s.slices := rfl
@[simp] theorem setGth_cache (c : Nat) (v : Gth) (s : State) : (setGth c v s).cache = s.cache := rfl
@[simp] theorem setGth_dirs (c : Nat) (v : Gth) (s : State) : (setGth c v s).dirs = s.dirs := rfl
@[simp] theorem setGth_heights (c : Nat) (v : Gth) (s : State) : (setGth c v s).heights = s.heights := rfl
@[simp] theorem setGth_dram (c : Nat) (v : Gth) (s : State) : (setGth c v s).dram = s.dram := rfl
@[simp] theorem setGth_badGlz (c : Nat) (v : Gth) (s : State) : (setGth c v s).badGlz = s.badGlz := rfl
@[simp] theorem setGth_ueLines (c : Nat) (v : Gth) (s : State) : (setGth c v s).ueLines = s.ueLines := rfl
@[simp] theorem setGth_keepPools (c : Nat) (v : Gth) (s : State) : (setGth c v s).keepPools = s.keepPools := rfl
@[simp] theorem setGth_keepRecs (c : Nat) (v : Gth) (s : State) : (setGth c v s).keepRecs = s.keepRecs := rfl
@[simp] theorem setGth_heldReqs (c : Nat) (v : Gth) (s : State) : (setGth c v s).heldReqs = s.heldReqs := rfl
@[simp] theorem setGth_ports (c : Nat) (v : Gth) (s : State) : (setGth c v s).ports = s.ports := rfl
@[simp] theorem setGth_grps (c : Nat) (v : Gth) (s : State) : (setGth c v s).grps = s.grps := rfl
@[simp] theorem setGth_unreach (c : Nat) (v : Gth) (s : State) : (setGth c v s).unreach = s.unreach := rfl
@[simp] theorem setGth_mcasts (c : Nat) (v : Gth) (s : State) : (setGth c v s).mcasts = s.mcasts := rfl
@[simp] theorem setGth_twn (c : Nat) (v : Gth) (s : State) : (setGth c v s).twn = s.twn := rfl
@[simp] theorem setGth_ringStage (c : Nat) (v : Gth) (s : State) : (setGth c v s).ringStage = s.ringStage := rfl
@[simp] theorem setGth_msgRings (c : Nat) (v : Gth) (s : State) : (setGth c v s).msgRings = s.msgRings := rfl
@[simp] theorem setGth_ann (c : Nat) (v : Gth) (s : State) : (setGth c v s).ann = s.ann := rfl
@[simp] theorem setGth_alm (c : Nat) (v : Gth) (s : State) : (setGth c v s).alm = s.alm := rfl
@[simp] theorem setGth_recCopies (c : Nat) (v : Gth) (s : State) : (setGth c v s).recCopies = s.recCopies := rfl
@[simp] theorem setGth_report (c : Nat) (v : Gth) (s : State) : (setGth c v s).report = s.report := rfl
@[simp] theorem setGth_tap (c : Nat) (v : Gth) (s : State) : (setGth c v s).tap = s.tap := rfl

@[simp] theorem setPort_pending (p : Nat) (v : Port) (s : State) : (setPort p v s).pending = s.pending := rfl
@[simp] theorem setPort_outbox (p : Nat) (v : Port) (s : State) : (setPort p v s).outbox = s.outbox := rfl
@[simp] theorem setPort_freeCtr (p : Nat) (v : Port) (s : State) : (setPort p v s).freeCtr = s.freeCtr := rfl
@[simp] theorem setPort_fuses (p : Nat) (v : Port) (s : State) : (setPort p v s).fuses = s.fuses := rfl
@[simp] theorem setPort_inReset (p : Nat) (v : Port) (s : State) : (setPort p v s).inReset = s.inReset := rfl
@[simp] theorem setPort_testEn (p : Nat) (v : Port) (s : State) : (setPort p v s).testEn = s.testEn := rfl
@[simp] theorem setPort_tripped (p : Nat) (v : Port) (s : State) : (setPort p v s).tripped = s.tripped := rfl
@[simp] theorem setPort_regs (p : Nat) (v : Port) (s : State) : (setPort p v s).regs = s.regs := rfl
@[simp] theorem setPort_capt (p : Nat) (v : Port) (s : State) : (setPort p v s).capt = s.capt := rfl
@[simp] theorem setPort_selfFailed (p : Nat) (v : Port) (s : State) : (setPort p v s).selfFailed = s.selfFailed := rfl
@[simp] theorem setPort_testEnded (p : Nat) (v : Port) (s : State) : (setPort p v s).testEnded = s.testEnded := rfl
@[simp] theorem setPort_wbuf (p : Nat) (v : Port) (s : State) : (setPort p v s).wbuf = s.wbuf := rfl
@[simp] theorem setPort_time (p : Nat) (v : Port) (s : State) : (setPort p v s).time = s.time := rfl
@[simp] theorem setPort_timePend (p : Nat) (v : Port) (s : State) : (setPort p v s).timePend = s.timePend := rfl
@[simp] theorem setPort_timeFrac (p : Nat) (v : Port) (s : State) : (setPort p v s).timeFrac = s.timeFrac := rfl
@[simp] theorem setPort_pwr (p : Nat) (v : Port) (s : State) : (setPort p v s).pwr = s.pwr := rfl
@[simp] theorem setPort_ptns (p : Nat) (v : Port) (s : State) : (setPort p v s).ptns = s.ptns := rfl
@[simp] theorem setPort_snap (p : Nat) (v : Port) (s : State) : (setPort p v s).snap = s.snap := rfl
@[simp] theorem setPort_prec (p : Nat) (v : Port) (s : State) : (setPort p v s).prec = s.prec := rfl
@[simp] theorem setPort_psave (p : Nat) (v : Port) (s : State) : (setPort p v s).psave = s.psave := rfl
@[simp] theorem setPort_cores (p : Nat) (v : Port) (s : State) : (setPort p v s).cores = s.cores := rfl
@[simp] theorem setPort_arrs (p : Nat) (v : Port) (s : State) : (setPort p v s).arrs = s.arrs := rfl
@[simp] theorem setPort_bist (p : Nat) (v : Port) (s : State) : (setPort p v s).bist = s.bist := rfl
@[simp] theorem setPort_vecs (p : Nat) (v : Port) (s : State) : (setPort p v s).vecs = s.vecs := rfl
@[simp] theorem setPort_movers (p : Nat) (v : Port) (s : State) : (setPort p v s).movers = s.movers := rfl
@[simp] theorem setPort_gths (p : Nat) (v : Port) (s : State) : (setPort p v s).gths = s.gths := rfl
@[simp] theorem setPort_bars (p : Nat) (v : Port) (s : State) : (setPort p v s).bars = s.bars := rfl
@[simp] theorem setPort_ops (p : Nat) (v : Port) (s : State) : (setPort p v s).ops = s.ops := rfl
@[simp] theorem setPort_unitJobs (p : Nat) (v : Port) (s : State) : (setPort p v s).unitJobs = s.unitJobs := rfl
@[simp] theorem setPort_opWait (p : Nat) (v : Port) (s : State) : (setPort p v s).opWait = s.opWait := rfl
@[simp] theorem setPort_opTurn (p : Nat) (v : Port) (s : State) : (setPort p v s).opTurn = s.opTurn := rfl
@[simp] theorem setPort_peakAll (p : Nat) (v : Port) (s : State) : (setPort p v s).peakAll = s.peakAll := rfl
@[simp] theorem setPort_peaks (p : Nat) (v : Port) (s : State) : (setPort p v s).peaks = s.peaks := rfl
@[simp] theorem setPort_nextTxn (p : Nat) (v : Port) (s : State) : (setPort p v s).nextTxn = s.nextTxn := rfl
@[simp] theorem setPort_netmMasks (p : Nat) (v : Port) (s : State) : (setPort p v s).netmMasks = s.netmMasks := rfl
@[simp] theorem setPort_reds (p : Nat) (v : Port) (s : State) : (setPort p v s).reds = s.reds := rfl
@[simp] theorem setPort_redWait (p : Nat) (v : Port) (s : State) : (setPort p v s).redWait = s.redWait := rfl
@[simp] theorem setPort_tagCache (p : Nat) (v : Port) (s : State) : (setPort p v s).tagCache = s.tagCache := rfl
@[simp] theorem setPort_redDead (p : Nat) (v : Port) (s : State) : (setPort p v s).redDead = s.redDead := rfl
@[simp] theorem setPort_homes (p : Nat) (v : Port) (s : State) : (setPort p v s).homes = s.homes := rfl
@[simp] theorem setPort_standIn (p : Nat) (v : Port) (s : State) : (setPort p v s).standIn = s.standIn := rfl
@[simp] theorem setPort_slices (p : Nat) (v : Port) (s : State) : (setPort p v s).slices = s.slices := rfl
@[simp] theorem setPort_cache (p : Nat) (v : Port) (s : State) : (setPort p v s).cache = s.cache := rfl
@[simp] theorem setPort_dirs (p : Nat) (v : Port) (s : State) : (setPort p v s).dirs = s.dirs := rfl
@[simp] theorem setPort_heights (p : Nat) (v : Port) (s : State) : (setPort p v s).heights = s.heights := rfl
@[simp] theorem setPort_dram (p : Nat) (v : Port) (s : State) : (setPort p v s).dram = s.dram := rfl
@[simp] theorem setPort_badGlz (p : Nat) (v : Port) (s : State) : (setPort p v s).badGlz = s.badGlz := rfl
@[simp] theorem setPort_ueLines (p : Nat) (v : Port) (s : State) : (setPort p v s).ueLines = s.ueLines := rfl
@[simp] theorem setPort_keepPools (p : Nat) (v : Port) (s : State) : (setPort p v s).keepPools = s.keepPools := rfl
@[simp] theorem setPort_keepRecs (p : Nat) (v : Port) (s : State) : (setPort p v s).keepRecs = s.keepRecs := rfl
@[simp] theorem setPort_heldReqs (p : Nat) (v : Port) (s : State) : (setPort p v s).heldReqs = s.heldReqs := rfl
@[simp] theorem setPort_grps (p : Nat) (v : Port) (s : State) : (setPort p v s).grps = s.grps := rfl
@[simp] theorem setPort_unreach (p : Nat) (v : Port) (s : State) : (setPort p v s).unreach = s.unreach := rfl
@[simp] theorem setPort_mcasts (p : Nat) (v : Port) (s : State) : (setPort p v s).mcasts = s.mcasts := rfl
@[simp] theorem setPort_twn (p : Nat) (v : Port) (s : State) : (setPort p v s).twn = s.twn := rfl
@[simp] theorem setPort_ringStage (p : Nat) (v : Port) (s : State) : (setPort p v s).ringStage = s.ringStage := rfl
@[simp] theorem setPort_msgRings (p : Nat) (v : Port) (s : State) : (setPort p v s).msgRings = s.msgRings := rfl
@[simp] theorem setPort_ann (p : Nat) (v : Port) (s : State) : (setPort p v s).ann = s.ann := rfl
@[simp] theorem setPort_alm (p : Nat) (v : Port) (s : State) : (setPort p v s).alm = s.alm := rfl
@[simp] theorem setPort_recCopies (p : Nat) (v : Port) (s : State) : (setPort p v s).recCopies = s.recCopies := rfl
@[simp] theorem setPort_report (p : Nat) (v : Port) (s : State) : (setPort p v s).report = s.report := rfl
@[simp] theorem setPort_tap (p : Nat) (v : Port) (s : State) : (setPort p v s).tap = s.tap := rfl

@[simp] theorem setGrp_pending (g : Nat) (v : Grp) (s : State) : (setGrp g v s).pending = s.pending := rfl
@[simp] theorem setGrp_outbox (g : Nat) (v : Grp) (s : State) : (setGrp g v s).outbox = s.outbox := rfl
@[simp] theorem setGrp_freeCtr (g : Nat) (v : Grp) (s : State) : (setGrp g v s).freeCtr = s.freeCtr := rfl
@[simp] theorem setGrp_fuses (g : Nat) (v : Grp) (s : State) : (setGrp g v s).fuses = s.fuses := rfl
@[simp] theorem setGrp_inReset (g : Nat) (v : Grp) (s : State) : (setGrp g v s).inReset = s.inReset := rfl
@[simp] theorem setGrp_testEn (g : Nat) (v : Grp) (s : State) : (setGrp g v s).testEn = s.testEn := rfl
@[simp] theorem setGrp_tripped (g : Nat) (v : Grp) (s : State) : (setGrp g v s).tripped = s.tripped := rfl
@[simp] theorem setGrp_regs (g : Nat) (v : Grp) (s : State) : (setGrp g v s).regs = s.regs := rfl
@[simp] theorem setGrp_capt (g : Nat) (v : Grp) (s : State) : (setGrp g v s).capt = s.capt := rfl
@[simp] theorem setGrp_selfFailed (g : Nat) (v : Grp) (s : State) : (setGrp g v s).selfFailed = s.selfFailed := rfl
@[simp] theorem setGrp_testEnded (g : Nat) (v : Grp) (s : State) : (setGrp g v s).testEnded = s.testEnded := rfl
@[simp] theorem setGrp_wbuf (g : Nat) (v : Grp) (s : State) : (setGrp g v s).wbuf = s.wbuf := rfl
@[simp] theorem setGrp_time (g : Nat) (v : Grp) (s : State) : (setGrp g v s).time = s.time := rfl
@[simp] theorem setGrp_timePend (g : Nat) (v : Grp) (s : State) : (setGrp g v s).timePend = s.timePend := rfl
@[simp] theorem setGrp_timeFrac (g : Nat) (v : Grp) (s : State) : (setGrp g v s).timeFrac = s.timeFrac := rfl
@[simp] theorem setGrp_pwr (g : Nat) (v : Grp) (s : State) : (setGrp g v s).pwr = s.pwr := rfl
@[simp] theorem setGrp_ptns (g : Nat) (v : Grp) (s : State) : (setGrp g v s).ptns = s.ptns := rfl
@[simp] theorem setGrp_snap (g : Nat) (v : Grp) (s : State) : (setGrp g v s).snap = s.snap := rfl
@[simp] theorem setGrp_prec (g : Nat) (v : Grp) (s : State) : (setGrp g v s).prec = s.prec := rfl
@[simp] theorem setGrp_psave (g : Nat) (v : Grp) (s : State) : (setGrp g v s).psave = s.psave := rfl
@[simp] theorem setGrp_cores (g : Nat) (v : Grp) (s : State) : (setGrp g v s).cores = s.cores := rfl
@[simp] theorem setGrp_arrs (g : Nat) (v : Grp) (s : State) : (setGrp g v s).arrs = s.arrs := rfl
@[simp] theorem setGrp_bist (g : Nat) (v : Grp) (s : State) : (setGrp g v s).bist = s.bist := rfl
@[simp] theorem setGrp_vecs (g : Nat) (v : Grp) (s : State) : (setGrp g v s).vecs = s.vecs := rfl
@[simp] theorem setGrp_movers (g : Nat) (v : Grp) (s : State) : (setGrp g v s).movers = s.movers := rfl
@[simp] theorem setGrp_gths (g : Nat) (v : Grp) (s : State) : (setGrp g v s).gths = s.gths := rfl
@[simp] theorem setGrp_bars (g : Nat) (v : Grp) (s : State) : (setGrp g v s).bars = s.bars := rfl
@[simp] theorem setGrp_ops (g : Nat) (v : Grp) (s : State) : (setGrp g v s).ops = s.ops := rfl
@[simp] theorem setGrp_unitJobs (g : Nat) (v : Grp) (s : State) : (setGrp g v s).unitJobs = s.unitJobs := rfl
@[simp] theorem setGrp_opWait (g : Nat) (v : Grp) (s : State) : (setGrp g v s).opWait = s.opWait := rfl
@[simp] theorem setGrp_opTurn (g : Nat) (v : Grp) (s : State) : (setGrp g v s).opTurn = s.opTurn := rfl
@[simp] theorem setGrp_peakAll (g : Nat) (v : Grp) (s : State) : (setGrp g v s).peakAll = s.peakAll := rfl
@[simp] theorem setGrp_peaks (g : Nat) (v : Grp) (s : State) : (setGrp g v s).peaks = s.peaks := rfl
@[simp] theorem setGrp_nextTxn (g : Nat) (v : Grp) (s : State) : (setGrp g v s).nextTxn = s.nextTxn := rfl
@[simp] theorem setGrp_netmMasks (g : Nat) (v : Grp) (s : State) : (setGrp g v s).netmMasks = s.netmMasks := rfl
@[simp] theorem setGrp_reds (g : Nat) (v : Grp) (s : State) : (setGrp g v s).reds = s.reds := rfl
@[simp] theorem setGrp_redWait (g : Nat) (v : Grp) (s : State) : (setGrp g v s).redWait = s.redWait := rfl
@[simp] theorem setGrp_tagCache (g : Nat) (v : Grp) (s : State) : (setGrp g v s).tagCache = s.tagCache := rfl
@[simp] theorem setGrp_redDead (g : Nat) (v : Grp) (s : State) : (setGrp g v s).redDead = s.redDead := rfl
@[simp] theorem setGrp_homes (g : Nat) (v : Grp) (s : State) : (setGrp g v s).homes = s.homes := rfl
@[simp] theorem setGrp_standIn (g : Nat) (v : Grp) (s : State) : (setGrp g v s).standIn = s.standIn := rfl
@[simp] theorem setGrp_slices (g : Nat) (v : Grp) (s : State) : (setGrp g v s).slices = s.slices := rfl
@[simp] theorem setGrp_cache (g : Nat) (v : Grp) (s : State) : (setGrp g v s).cache = s.cache := rfl
@[simp] theorem setGrp_dirs (g : Nat) (v : Grp) (s : State) : (setGrp g v s).dirs = s.dirs := rfl
@[simp] theorem setGrp_heights (g : Nat) (v : Grp) (s : State) : (setGrp g v s).heights = s.heights := rfl
@[simp] theorem setGrp_dram (g : Nat) (v : Grp) (s : State) : (setGrp g v s).dram = s.dram := rfl
@[simp] theorem setGrp_badGlz (g : Nat) (v : Grp) (s : State) : (setGrp g v s).badGlz = s.badGlz := rfl
@[simp] theorem setGrp_ueLines (g : Nat) (v : Grp) (s : State) : (setGrp g v s).ueLines = s.ueLines := rfl
@[simp] theorem setGrp_keepPools (g : Nat) (v : Grp) (s : State) : (setGrp g v s).keepPools = s.keepPools := rfl
@[simp] theorem setGrp_keepRecs (g : Nat) (v : Grp) (s : State) : (setGrp g v s).keepRecs = s.keepRecs := rfl
@[simp] theorem setGrp_heldReqs (g : Nat) (v : Grp) (s : State) : (setGrp g v s).heldReqs = s.heldReqs := rfl
@[simp] theorem setGrp_ports (g : Nat) (v : Grp) (s : State) : (setGrp g v s).ports = s.ports := rfl
@[simp] theorem setGrp_unreach (g : Nat) (v : Grp) (s : State) : (setGrp g v s).unreach = s.unreach := rfl
@[simp] theorem setGrp_mcasts (g : Nat) (v : Grp) (s : State) : (setGrp g v s).mcasts = s.mcasts := rfl
@[simp] theorem setGrp_twn (g : Nat) (v : Grp) (s : State) : (setGrp g v s).twn = s.twn := rfl
@[simp] theorem setGrp_ringStage (g : Nat) (v : Grp) (s : State) : (setGrp g v s).ringStage = s.ringStage := rfl
@[simp] theorem setGrp_msgRings (g : Nat) (v : Grp) (s : State) : (setGrp g v s).msgRings = s.msgRings := rfl
@[simp] theorem setGrp_ann (g : Nat) (v : Grp) (s : State) : (setGrp g v s).ann = s.ann := rfl
@[simp] theorem setGrp_alm (g : Nat) (v : Grp) (s : State) : (setGrp g v s).alm = s.alm := rfl
@[simp] theorem setGrp_recCopies (g : Nat) (v : Grp) (s : State) : (setGrp g v s).recCopies = s.recCopies := rfl
@[simp] theorem setGrp_report (g : Nat) (v : Grp) (s : State) : (setGrp g v s).report = s.report := rfl
@[simp] theorem setGrp_tap (g : Nat) (v : Grp) (s : State) : (setGrp g v s).tap = s.tap := rfl

@[simp] theorem updAlm_pending (f : Alm → Alm) (s : State) : (updAlm f s).pending = s.pending := rfl
@[simp] theorem updAlm_outbox (f : Alm → Alm) (s : State) : (updAlm f s).outbox = s.outbox := rfl
@[simp] theorem updAlm_freeCtr (f : Alm → Alm) (s : State) : (updAlm f s).freeCtr = s.freeCtr := rfl
@[simp] theorem updAlm_fuses (f : Alm → Alm) (s : State) : (updAlm f s).fuses = s.fuses := rfl
@[simp] theorem updAlm_inReset (f : Alm → Alm) (s : State) : (updAlm f s).inReset = s.inReset := rfl
@[simp] theorem updAlm_testEn (f : Alm → Alm) (s : State) : (updAlm f s).testEn = s.testEn := rfl
@[simp] theorem updAlm_tripped (f : Alm → Alm) (s : State) : (updAlm f s).tripped = s.tripped := rfl
@[simp] theorem updAlm_regs (f : Alm → Alm) (s : State) : (updAlm f s).regs = s.regs := rfl
@[simp] theorem updAlm_capt (f : Alm → Alm) (s : State) : (updAlm f s).capt = s.capt := rfl
@[simp] theorem updAlm_selfFailed (f : Alm → Alm) (s : State) : (updAlm f s).selfFailed = s.selfFailed := rfl
@[simp] theorem updAlm_testEnded (f : Alm → Alm) (s : State) : (updAlm f s).testEnded = s.testEnded := rfl
@[simp] theorem updAlm_wbuf (f : Alm → Alm) (s : State) : (updAlm f s).wbuf = s.wbuf := rfl
@[simp] theorem updAlm_time (f : Alm → Alm) (s : State) : (updAlm f s).time = s.time := rfl
@[simp] theorem updAlm_timePend (f : Alm → Alm) (s : State) : (updAlm f s).timePend = s.timePend := rfl
@[simp] theorem updAlm_timeFrac (f : Alm → Alm) (s : State) : (updAlm f s).timeFrac = s.timeFrac := rfl
@[simp] theorem updAlm_pwr (f : Alm → Alm) (s : State) : (updAlm f s).pwr = s.pwr := rfl
@[simp] theorem updAlm_ptns (f : Alm → Alm) (s : State) : (updAlm f s).ptns = s.ptns := rfl
@[simp] theorem updAlm_snap (f : Alm → Alm) (s : State) : (updAlm f s).snap = s.snap := rfl
@[simp] theorem updAlm_prec (f : Alm → Alm) (s : State) : (updAlm f s).prec = s.prec := rfl
@[simp] theorem updAlm_psave (f : Alm → Alm) (s : State) : (updAlm f s).psave = s.psave := rfl
@[simp] theorem updAlm_cores (f : Alm → Alm) (s : State) : (updAlm f s).cores = s.cores := rfl
@[simp] theorem updAlm_arrs (f : Alm → Alm) (s : State) : (updAlm f s).arrs = s.arrs := rfl
@[simp] theorem updAlm_bist (f : Alm → Alm) (s : State) : (updAlm f s).bist = s.bist := rfl
@[simp] theorem updAlm_vecs (f : Alm → Alm) (s : State) : (updAlm f s).vecs = s.vecs := rfl
@[simp] theorem updAlm_movers (f : Alm → Alm) (s : State) : (updAlm f s).movers = s.movers := rfl
@[simp] theorem updAlm_gths (f : Alm → Alm) (s : State) : (updAlm f s).gths = s.gths := rfl
@[simp] theorem updAlm_bars (f : Alm → Alm) (s : State) : (updAlm f s).bars = s.bars := rfl
@[simp] theorem updAlm_ops (f : Alm → Alm) (s : State) : (updAlm f s).ops = s.ops := rfl
@[simp] theorem updAlm_unitJobs (f : Alm → Alm) (s : State) : (updAlm f s).unitJobs = s.unitJobs := rfl
@[simp] theorem updAlm_opWait (f : Alm → Alm) (s : State) : (updAlm f s).opWait = s.opWait := rfl
@[simp] theorem updAlm_opTurn (f : Alm → Alm) (s : State) : (updAlm f s).opTurn = s.opTurn := rfl
@[simp] theorem updAlm_peakAll (f : Alm → Alm) (s : State) : (updAlm f s).peakAll = s.peakAll := rfl
@[simp] theorem updAlm_peaks (f : Alm → Alm) (s : State) : (updAlm f s).peaks = s.peaks := rfl
@[simp] theorem updAlm_nextTxn (f : Alm → Alm) (s : State) : (updAlm f s).nextTxn = s.nextTxn := rfl
@[simp] theorem updAlm_netmMasks (f : Alm → Alm) (s : State) : (updAlm f s).netmMasks = s.netmMasks := rfl
@[simp] theorem updAlm_reds (f : Alm → Alm) (s : State) : (updAlm f s).reds = s.reds := rfl
@[simp] theorem updAlm_redWait (f : Alm → Alm) (s : State) : (updAlm f s).redWait = s.redWait := rfl
@[simp] theorem updAlm_tagCache (f : Alm → Alm) (s : State) : (updAlm f s).tagCache = s.tagCache := rfl
@[simp] theorem updAlm_redDead (f : Alm → Alm) (s : State) : (updAlm f s).redDead = s.redDead := rfl
@[simp] theorem updAlm_homes (f : Alm → Alm) (s : State) : (updAlm f s).homes = s.homes := rfl
@[simp] theorem updAlm_standIn (f : Alm → Alm) (s : State) : (updAlm f s).standIn = s.standIn := rfl
@[simp] theorem updAlm_slices (f : Alm → Alm) (s : State) : (updAlm f s).slices = s.slices := rfl
@[simp] theorem updAlm_cache (f : Alm → Alm) (s : State) : (updAlm f s).cache = s.cache := rfl
@[simp] theorem updAlm_dirs (f : Alm → Alm) (s : State) : (updAlm f s).dirs = s.dirs := rfl
@[simp] theorem updAlm_heights (f : Alm → Alm) (s : State) : (updAlm f s).heights = s.heights := rfl
@[simp] theorem updAlm_dram (f : Alm → Alm) (s : State) : (updAlm f s).dram = s.dram := rfl
@[simp] theorem updAlm_badGlz (f : Alm → Alm) (s : State) : (updAlm f s).badGlz = s.badGlz := rfl
@[simp] theorem updAlm_ueLines (f : Alm → Alm) (s : State) : (updAlm f s).ueLines = s.ueLines := rfl
@[simp] theorem updAlm_keepPools (f : Alm → Alm) (s : State) : (updAlm f s).keepPools = s.keepPools := rfl
@[simp] theorem updAlm_keepRecs (f : Alm → Alm) (s : State) : (updAlm f s).keepRecs = s.keepRecs := rfl
@[simp] theorem updAlm_heldReqs (f : Alm → Alm) (s : State) : (updAlm f s).heldReqs = s.heldReqs := rfl
@[simp] theorem updAlm_ports (f : Alm → Alm) (s : State) : (updAlm f s).ports = s.ports := rfl
@[simp] theorem updAlm_grps (f : Alm → Alm) (s : State) : (updAlm f s).grps = s.grps := rfl
@[simp] theorem updAlm_unreach (f : Alm → Alm) (s : State) : (updAlm f s).unreach = s.unreach := rfl
@[simp] theorem updAlm_mcasts (f : Alm → Alm) (s : State) : (updAlm f s).mcasts = s.mcasts := rfl
@[simp] theorem updAlm_twn (f : Alm → Alm) (s : State) : (updAlm f s).twn = s.twn := rfl
@[simp] theorem updAlm_ringStage (f : Alm → Alm) (s : State) : (updAlm f s).ringStage = s.ringStage := rfl
@[simp] theorem updAlm_msgRings (f : Alm → Alm) (s : State) : (updAlm f s).msgRings = s.msgRings := rfl
@[simp] theorem updAlm_ann (f : Alm → Alm) (s : State) : (updAlm f s).ann = s.ann := rfl
@[simp] theorem updAlm_recCopies (f : Alm → Alm) (s : State) : (updAlm f s).recCopies = s.recCopies := rfl
@[simp] theorem updAlm_report (f : Alm → Alm) (s : State) : (updAlm f s).report = s.report := rfl
@[simp] theorem updAlm_tap (f : Alm → Alm) (s : State) : (updAlm f s).tap = s.tap := rfl

@[simp] theorem updTwn_pending (f : Twn → Twn) (s : State) : (updTwn f s).pending = s.pending := rfl
@[simp] theorem updTwn_outbox (f : Twn → Twn) (s : State) : (updTwn f s).outbox = s.outbox := rfl
@[simp] theorem updTwn_freeCtr (f : Twn → Twn) (s : State) : (updTwn f s).freeCtr = s.freeCtr := rfl
@[simp] theorem updTwn_fuses (f : Twn → Twn) (s : State) : (updTwn f s).fuses = s.fuses := rfl
@[simp] theorem updTwn_inReset (f : Twn → Twn) (s : State) : (updTwn f s).inReset = s.inReset := rfl
@[simp] theorem updTwn_testEn (f : Twn → Twn) (s : State) : (updTwn f s).testEn = s.testEn := rfl
@[simp] theorem updTwn_tripped (f : Twn → Twn) (s : State) : (updTwn f s).tripped = s.tripped := rfl
@[simp] theorem updTwn_regs (f : Twn → Twn) (s : State) : (updTwn f s).regs = s.regs := rfl
@[simp] theorem updTwn_capt (f : Twn → Twn) (s : State) : (updTwn f s).capt = s.capt := rfl
@[simp] theorem updTwn_selfFailed (f : Twn → Twn) (s : State) : (updTwn f s).selfFailed = s.selfFailed := rfl
@[simp] theorem updTwn_testEnded (f : Twn → Twn) (s : State) : (updTwn f s).testEnded = s.testEnded := rfl
@[simp] theorem updTwn_wbuf (f : Twn → Twn) (s : State) : (updTwn f s).wbuf = s.wbuf := rfl
@[simp] theorem updTwn_time (f : Twn → Twn) (s : State) : (updTwn f s).time = s.time := rfl
@[simp] theorem updTwn_timePend (f : Twn → Twn) (s : State) : (updTwn f s).timePend = s.timePend := rfl
@[simp] theorem updTwn_timeFrac (f : Twn → Twn) (s : State) : (updTwn f s).timeFrac = s.timeFrac := rfl
@[simp] theorem updTwn_pwr (f : Twn → Twn) (s : State) : (updTwn f s).pwr = s.pwr := rfl
@[simp] theorem updTwn_ptns (f : Twn → Twn) (s : State) : (updTwn f s).ptns = s.ptns := rfl
@[simp] theorem updTwn_snap (f : Twn → Twn) (s : State) : (updTwn f s).snap = s.snap := rfl
@[simp] theorem updTwn_prec (f : Twn → Twn) (s : State) : (updTwn f s).prec = s.prec := rfl
@[simp] theorem updTwn_psave (f : Twn → Twn) (s : State) : (updTwn f s).psave = s.psave := rfl
@[simp] theorem updTwn_cores (f : Twn → Twn) (s : State) : (updTwn f s).cores = s.cores := rfl
@[simp] theorem updTwn_arrs (f : Twn → Twn) (s : State) : (updTwn f s).arrs = s.arrs := rfl
@[simp] theorem updTwn_bist (f : Twn → Twn) (s : State) : (updTwn f s).bist = s.bist := rfl
@[simp] theorem updTwn_vecs (f : Twn → Twn) (s : State) : (updTwn f s).vecs = s.vecs := rfl
@[simp] theorem updTwn_movers (f : Twn → Twn) (s : State) : (updTwn f s).movers = s.movers := rfl
@[simp] theorem updTwn_gths (f : Twn → Twn) (s : State) : (updTwn f s).gths = s.gths := rfl
@[simp] theorem updTwn_bars (f : Twn → Twn) (s : State) : (updTwn f s).bars = s.bars := rfl
@[simp] theorem updTwn_ops (f : Twn → Twn) (s : State) : (updTwn f s).ops = s.ops := rfl
@[simp] theorem updTwn_unitJobs (f : Twn → Twn) (s : State) : (updTwn f s).unitJobs = s.unitJobs := rfl
@[simp] theorem updTwn_opWait (f : Twn → Twn) (s : State) : (updTwn f s).opWait = s.opWait := rfl
@[simp] theorem updTwn_opTurn (f : Twn → Twn) (s : State) : (updTwn f s).opTurn = s.opTurn := rfl
@[simp] theorem updTwn_peakAll (f : Twn → Twn) (s : State) : (updTwn f s).peakAll = s.peakAll := rfl
@[simp] theorem updTwn_peaks (f : Twn → Twn) (s : State) : (updTwn f s).peaks = s.peaks := rfl
@[simp] theorem updTwn_nextTxn (f : Twn → Twn) (s : State) : (updTwn f s).nextTxn = s.nextTxn := rfl
@[simp] theorem updTwn_netmMasks (f : Twn → Twn) (s : State) : (updTwn f s).netmMasks = s.netmMasks := rfl
@[simp] theorem updTwn_reds (f : Twn → Twn) (s : State) : (updTwn f s).reds = s.reds := rfl
@[simp] theorem updTwn_redWait (f : Twn → Twn) (s : State) : (updTwn f s).redWait = s.redWait := rfl
@[simp] theorem updTwn_tagCache (f : Twn → Twn) (s : State) : (updTwn f s).tagCache = s.tagCache := rfl
@[simp] theorem updTwn_redDead (f : Twn → Twn) (s : State) : (updTwn f s).redDead = s.redDead := rfl
@[simp] theorem updTwn_homes (f : Twn → Twn) (s : State) : (updTwn f s).homes = s.homes := rfl
@[simp] theorem updTwn_standIn (f : Twn → Twn) (s : State) : (updTwn f s).standIn = s.standIn := rfl
@[simp] theorem updTwn_slices (f : Twn → Twn) (s : State) : (updTwn f s).slices = s.slices := rfl
@[simp] theorem updTwn_cache (f : Twn → Twn) (s : State) : (updTwn f s).cache = s.cache := rfl
@[simp] theorem updTwn_dirs (f : Twn → Twn) (s : State) : (updTwn f s).dirs = s.dirs := rfl
@[simp] theorem updTwn_heights (f : Twn → Twn) (s : State) : (updTwn f s).heights = s.heights := rfl
@[simp] theorem updTwn_dram (f : Twn → Twn) (s : State) : (updTwn f s).dram = s.dram := rfl
@[simp] theorem updTwn_badGlz (f : Twn → Twn) (s : State) : (updTwn f s).badGlz = s.badGlz := rfl
@[simp] theorem updTwn_ueLines (f : Twn → Twn) (s : State) : (updTwn f s).ueLines = s.ueLines := rfl
@[simp] theorem updTwn_keepPools (f : Twn → Twn) (s : State) : (updTwn f s).keepPools = s.keepPools := rfl
@[simp] theorem updTwn_keepRecs (f : Twn → Twn) (s : State) : (updTwn f s).keepRecs = s.keepRecs := rfl
@[simp] theorem updTwn_heldReqs (f : Twn → Twn) (s : State) : (updTwn f s).heldReqs = s.heldReqs := rfl
@[simp] theorem updTwn_ports (f : Twn → Twn) (s : State) : (updTwn f s).ports = s.ports := rfl
@[simp] theorem updTwn_grps (f : Twn → Twn) (s : State) : (updTwn f s).grps = s.grps := rfl
@[simp] theorem updTwn_unreach (f : Twn → Twn) (s : State) : (updTwn f s).unreach = s.unreach := rfl
@[simp] theorem updTwn_mcasts (f : Twn → Twn) (s : State) : (updTwn f s).mcasts = s.mcasts := rfl
@[simp] theorem updTwn_ringStage (f : Twn → Twn) (s : State) : (updTwn f s).ringStage = s.ringStage := rfl
@[simp] theorem updTwn_msgRings (f : Twn → Twn) (s : State) : (updTwn f s).msgRings = s.msgRings := rfl
@[simp] theorem updTwn_ann (f : Twn → Twn) (s : State) : (updTwn f s).ann = s.ann := rfl
@[simp] theorem updTwn_alm (f : Twn → Twn) (s : State) : (updTwn f s).alm = s.alm := rfl
@[simp] theorem updTwn_recCopies (f : Twn → Twn) (s : State) : (updTwn f s).recCopies = s.recCopies := rfl
@[simp] theorem updTwn_report (f : Twn → Twn) (s : State) : (updTwn f s).report = s.report := rfl
@[simp] theorem updTwn_tap (f : Twn → Twn) (s : State) : (updTwn f s).tap = s.tap := rfl

@[simp] theorem updTap_pending (f : Tap → Tap) (s : State) : (updTap f s).pending = s.pending := rfl
@[simp] theorem updTap_outbox (f : Tap → Tap) (s : State) : (updTap f s).outbox = s.outbox := rfl
@[simp] theorem updTap_freeCtr (f : Tap → Tap) (s : State) : (updTap f s).freeCtr = s.freeCtr := rfl
@[simp] theorem updTap_fuses (f : Tap → Tap) (s : State) : (updTap f s).fuses = s.fuses := rfl
@[simp] theorem updTap_inReset (f : Tap → Tap) (s : State) : (updTap f s).inReset = s.inReset := rfl
@[simp] theorem updTap_testEn (f : Tap → Tap) (s : State) : (updTap f s).testEn = s.testEn := rfl
@[simp] theorem updTap_tripped (f : Tap → Tap) (s : State) : (updTap f s).tripped = s.tripped := rfl
@[simp] theorem updTap_regs (f : Tap → Tap) (s : State) : (updTap f s).regs = s.regs := rfl
@[simp] theorem updTap_capt (f : Tap → Tap) (s : State) : (updTap f s).capt = s.capt := rfl
@[simp] theorem updTap_selfFailed (f : Tap → Tap) (s : State) : (updTap f s).selfFailed = s.selfFailed := rfl
@[simp] theorem updTap_testEnded (f : Tap → Tap) (s : State) : (updTap f s).testEnded = s.testEnded := rfl
@[simp] theorem updTap_wbuf (f : Tap → Tap) (s : State) : (updTap f s).wbuf = s.wbuf := rfl
@[simp] theorem updTap_time (f : Tap → Tap) (s : State) : (updTap f s).time = s.time := rfl
@[simp] theorem updTap_timePend (f : Tap → Tap) (s : State) : (updTap f s).timePend = s.timePend := rfl
@[simp] theorem updTap_timeFrac (f : Tap → Tap) (s : State) : (updTap f s).timeFrac = s.timeFrac := rfl
@[simp] theorem updTap_pwr (f : Tap → Tap) (s : State) : (updTap f s).pwr = s.pwr := rfl
@[simp] theorem updTap_ptns (f : Tap → Tap) (s : State) : (updTap f s).ptns = s.ptns := rfl
@[simp] theorem updTap_snap (f : Tap → Tap) (s : State) : (updTap f s).snap = s.snap := rfl
@[simp] theorem updTap_prec (f : Tap → Tap) (s : State) : (updTap f s).prec = s.prec := rfl
@[simp] theorem updTap_psave (f : Tap → Tap) (s : State) : (updTap f s).psave = s.psave := rfl
@[simp] theorem updTap_cores (f : Tap → Tap) (s : State) : (updTap f s).cores = s.cores := rfl
@[simp] theorem updTap_arrs (f : Tap → Tap) (s : State) : (updTap f s).arrs = s.arrs := rfl
@[simp] theorem updTap_bist (f : Tap → Tap) (s : State) : (updTap f s).bist = s.bist := rfl
@[simp] theorem updTap_vecs (f : Tap → Tap) (s : State) : (updTap f s).vecs = s.vecs := rfl
@[simp] theorem updTap_movers (f : Tap → Tap) (s : State) : (updTap f s).movers = s.movers := rfl
@[simp] theorem updTap_gths (f : Tap → Tap) (s : State) : (updTap f s).gths = s.gths := rfl
@[simp] theorem updTap_bars (f : Tap → Tap) (s : State) : (updTap f s).bars = s.bars := rfl
@[simp] theorem updTap_ops (f : Tap → Tap) (s : State) : (updTap f s).ops = s.ops := rfl
@[simp] theorem updTap_unitJobs (f : Tap → Tap) (s : State) : (updTap f s).unitJobs = s.unitJobs := rfl
@[simp] theorem updTap_opWait (f : Tap → Tap) (s : State) : (updTap f s).opWait = s.opWait := rfl
@[simp] theorem updTap_opTurn (f : Tap → Tap) (s : State) : (updTap f s).opTurn = s.opTurn := rfl
@[simp] theorem updTap_peakAll (f : Tap → Tap) (s : State) : (updTap f s).peakAll = s.peakAll := rfl
@[simp] theorem updTap_peaks (f : Tap → Tap) (s : State) : (updTap f s).peaks = s.peaks := rfl
@[simp] theorem updTap_nextTxn (f : Tap → Tap) (s : State) : (updTap f s).nextTxn = s.nextTxn := rfl
@[simp] theorem updTap_netmMasks (f : Tap → Tap) (s : State) : (updTap f s).netmMasks = s.netmMasks := rfl
@[simp] theorem updTap_reds (f : Tap → Tap) (s : State) : (updTap f s).reds = s.reds := rfl
@[simp] theorem updTap_redWait (f : Tap → Tap) (s : State) : (updTap f s).redWait = s.redWait := rfl
@[simp] theorem updTap_tagCache (f : Tap → Tap) (s : State) : (updTap f s).tagCache = s.tagCache := rfl
@[simp] theorem updTap_redDead (f : Tap → Tap) (s : State) : (updTap f s).redDead = s.redDead := rfl
@[simp] theorem updTap_homes (f : Tap → Tap) (s : State) : (updTap f s).homes = s.homes := rfl
@[simp] theorem updTap_standIn (f : Tap → Tap) (s : State) : (updTap f s).standIn = s.standIn := rfl
@[simp] theorem updTap_slices (f : Tap → Tap) (s : State) : (updTap f s).slices = s.slices := rfl
@[simp] theorem updTap_cache (f : Tap → Tap) (s : State) : (updTap f s).cache = s.cache := rfl
@[simp] theorem updTap_dirs (f : Tap → Tap) (s : State) : (updTap f s).dirs = s.dirs := rfl
@[simp] theorem updTap_heights (f : Tap → Tap) (s : State) : (updTap f s).heights = s.heights := rfl
@[simp] theorem updTap_dram (f : Tap → Tap) (s : State) : (updTap f s).dram = s.dram := rfl
@[simp] theorem updTap_badGlz (f : Tap → Tap) (s : State) : (updTap f s).badGlz = s.badGlz := rfl
@[simp] theorem updTap_ueLines (f : Tap → Tap) (s : State) : (updTap f s).ueLines = s.ueLines := rfl
@[simp] theorem updTap_keepPools (f : Tap → Tap) (s : State) : (updTap f s).keepPools = s.keepPools := rfl
@[simp] theorem updTap_keepRecs (f : Tap → Tap) (s : State) : (updTap f s).keepRecs = s.keepRecs := rfl
@[simp] theorem updTap_heldReqs (f : Tap → Tap) (s : State) : (updTap f s).heldReqs = s.heldReqs := rfl
@[simp] theorem updTap_ports (f : Tap → Tap) (s : State) : (updTap f s).ports = s.ports := rfl
@[simp] theorem updTap_grps (f : Tap → Tap) (s : State) : (updTap f s).grps = s.grps := rfl
@[simp] theorem updTap_unreach (f : Tap → Tap) (s : State) : (updTap f s).unreach = s.unreach := rfl
@[simp] theorem updTap_mcasts (f : Tap → Tap) (s : State) : (updTap f s).mcasts = s.mcasts := rfl
@[simp] theorem updTap_twn (f : Tap → Tap) (s : State) : (updTap f s).twn = s.twn := rfl
@[simp] theorem updTap_ringStage (f : Tap → Tap) (s : State) : (updTap f s).ringStage = s.ringStage := rfl
@[simp] theorem updTap_msgRings (f : Tap → Tap) (s : State) : (updTap f s).msgRings = s.msgRings := rfl
@[simp] theorem updTap_ann (f : Tap → Tap) (s : State) : (updTap f s).ann = s.ann := rfl
@[simp] theorem updTap_alm (f : Tap → Tap) (s : State) : (updTap f s).alm = s.alm := rfl
@[simp] theorem updTap_recCopies (f : Tap → Tap) (s : State) : (updTap f s).recCopies = s.recCopies := rfl
@[simp] theorem updTap_report (f : Tap → Tap) (s : State) : (updTap f s).report = s.report := rfl

@[simp] theorem putDram_pending (key : Nat) (bs : List Byte) (s : State) : (putDram key bs s).pending = s.pending := rfl
@[simp] theorem putDram_outbox (key : Nat) (bs : List Byte) (s : State) : (putDram key bs s).outbox = s.outbox := rfl
@[simp] theorem putDram_freeCtr (key : Nat) (bs : List Byte) (s : State) : (putDram key bs s).freeCtr = s.freeCtr := rfl
@[simp] theorem putDram_fuses (key : Nat) (bs : List Byte) (s : State) : (putDram key bs s).fuses = s.fuses := rfl
@[simp] theorem putDram_inReset (key : Nat) (bs : List Byte) (s : State) : (putDram key bs s).inReset = s.inReset := rfl
@[simp] theorem putDram_testEn (key : Nat) (bs : List Byte) (s : State) : (putDram key bs s).testEn = s.testEn := rfl
@[simp] theorem putDram_tripped (key : Nat) (bs : List Byte) (s : State) : (putDram key bs s).tripped = s.tripped := rfl
@[simp] theorem putDram_regs (key : Nat) (bs : List Byte) (s : State) : (putDram key bs s).regs = s.regs := rfl
@[simp] theorem putDram_capt (key : Nat) (bs : List Byte) (s : State) : (putDram key bs s).capt = s.capt := rfl
@[simp] theorem putDram_selfFailed (key : Nat) (bs : List Byte) (s : State) : (putDram key bs s).selfFailed = s.selfFailed := rfl
@[simp] theorem putDram_testEnded (key : Nat) (bs : List Byte) (s : State) : (putDram key bs s).testEnded = s.testEnded := rfl
@[simp] theorem putDram_wbuf (key : Nat) (bs : List Byte) (s : State) : (putDram key bs s).wbuf = s.wbuf := rfl
@[simp] theorem putDram_time (key : Nat) (bs : List Byte) (s : State) : (putDram key bs s).time = s.time := rfl
@[simp] theorem putDram_timePend (key : Nat) (bs : List Byte) (s : State) : (putDram key bs s).timePend = s.timePend := rfl
@[simp] theorem putDram_timeFrac (key : Nat) (bs : List Byte) (s : State) : (putDram key bs s).timeFrac = s.timeFrac := rfl
@[simp] theorem putDram_pwr (key : Nat) (bs : List Byte) (s : State) : (putDram key bs s).pwr = s.pwr := rfl
@[simp] theorem putDram_ptns (key : Nat) (bs : List Byte) (s : State) : (putDram key bs s).ptns = s.ptns := rfl
@[simp] theorem putDram_snap (key : Nat) (bs : List Byte) (s : State) : (putDram key bs s).snap = s.snap := rfl
@[simp] theorem putDram_prec (key : Nat) (bs : List Byte) (s : State) : (putDram key bs s).prec = s.prec := rfl
@[simp] theorem putDram_psave (key : Nat) (bs : List Byte) (s : State) : (putDram key bs s).psave = s.psave := rfl
@[simp] theorem putDram_cores (key : Nat) (bs : List Byte) (s : State) : (putDram key bs s).cores = s.cores := rfl
@[simp] theorem putDram_arrs (key : Nat) (bs : List Byte) (s : State) : (putDram key bs s).arrs = s.arrs := rfl
@[simp] theorem putDram_bist (key : Nat) (bs : List Byte) (s : State) : (putDram key bs s).bist = s.bist := rfl
@[simp] theorem putDram_vecs (key : Nat) (bs : List Byte) (s : State) : (putDram key bs s).vecs = s.vecs := rfl
@[simp] theorem putDram_movers (key : Nat) (bs : List Byte) (s : State) : (putDram key bs s).movers = s.movers := rfl
@[simp] theorem putDram_gths (key : Nat) (bs : List Byte) (s : State) : (putDram key bs s).gths = s.gths := rfl
@[simp] theorem putDram_bars (key : Nat) (bs : List Byte) (s : State) : (putDram key bs s).bars = s.bars := rfl
@[simp] theorem putDram_ops (key : Nat) (bs : List Byte) (s : State) : (putDram key bs s).ops = s.ops := rfl
@[simp] theorem putDram_unitJobs (key : Nat) (bs : List Byte) (s : State) : (putDram key bs s).unitJobs = s.unitJobs := rfl
@[simp] theorem putDram_opWait (key : Nat) (bs : List Byte) (s : State) : (putDram key bs s).opWait = s.opWait := rfl
@[simp] theorem putDram_opTurn (key : Nat) (bs : List Byte) (s : State) : (putDram key bs s).opTurn = s.opTurn := rfl
@[simp] theorem putDram_peakAll (key : Nat) (bs : List Byte) (s : State) : (putDram key bs s).peakAll = s.peakAll := rfl
@[simp] theorem putDram_peaks (key : Nat) (bs : List Byte) (s : State) : (putDram key bs s).peaks = s.peaks := rfl
@[simp] theorem putDram_nextTxn (key : Nat) (bs : List Byte) (s : State) : (putDram key bs s).nextTxn = s.nextTxn := rfl
@[simp] theorem putDram_netmMasks (key : Nat) (bs : List Byte) (s : State) : (putDram key bs s).netmMasks = s.netmMasks := rfl
@[simp] theorem putDram_reds (key : Nat) (bs : List Byte) (s : State) : (putDram key bs s).reds = s.reds := rfl
@[simp] theorem putDram_redWait (key : Nat) (bs : List Byte) (s : State) : (putDram key bs s).redWait = s.redWait := rfl
@[simp] theorem putDram_tagCache (key : Nat) (bs : List Byte) (s : State) : (putDram key bs s).tagCache = s.tagCache := rfl
@[simp] theorem putDram_redDead (key : Nat) (bs : List Byte) (s : State) : (putDram key bs s).redDead = s.redDead := rfl
@[simp] theorem putDram_homes (key : Nat) (bs : List Byte) (s : State) : (putDram key bs s).homes = s.homes := rfl
@[simp] theorem putDram_standIn (key : Nat) (bs : List Byte) (s : State) : (putDram key bs s).standIn = s.standIn := rfl
@[simp] theorem putDram_slices (key : Nat) (bs : List Byte) (s : State) : (putDram key bs s).slices = s.slices := rfl
@[simp] theorem putDram_cache (key : Nat) (bs : List Byte) (s : State) : (putDram key bs s).cache = s.cache := rfl
@[simp] theorem putDram_dirs (key : Nat) (bs : List Byte) (s : State) : (putDram key bs s).dirs = s.dirs := rfl
@[simp] theorem putDram_heights (key : Nat) (bs : List Byte) (s : State) : (putDram key bs s).heights = s.heights := rfl
@[simp] theorem putDram_badGlz (key : Nat) (bs : List Byte) (s : State) : (putDram key bs s).badGlz = s.badGlz := rfl
@[simp] theorem putDram_ueLines (key : Nat) (bs : List Byte) (s : State) : (putDram key bs s).ueLines = s.ueLines := rfl
@[simp] theorem putDram_keepPools (key : Nat) (bs : List Byte) (s : State) : (putDram key bs s).keepPools = s.keepPools := rfl
@[simp] theorem putDram_keepRecs (key : Nat) (bs : List Byte) (s : State) : (putDram key bs s).keepRecs = s.keepRecs := rfl
@[simp] theorem putDram_heldReqs (key : Nat) (bs : List Byte) (s : State) : (putDram key bs s).heldReqs = s.heldReqs := rfl
@[simp] theorem putDram_ports (key : Nat) (bs : List Byte) (s : State) : (putDram key bs s).ports = s.ports := rfl
@[simp] theorem putDram_grps (key : Nat) (bs : List Byte) (s : State) : (putDram key bs s).grps = s.grps := rfl
@[simp] theorem putDram_unreach (key : Nat) (bs : List Byte) (s : State) : (putDram key bs s).unreach = s.unreach := rfl
@[simp] theorem putDram_mcasts (key : Nat) (bs : List Byte) (s : State) : (putDram key bs s).mcasts = s.mcasts := rfl
@[simp] theorem putDram_twn (key : Nat) (bs : List Byte) (s : State) : (putDram key bs s).twn = s.twn := rfl
@[simp] theorem putDram_ringStage (key : Nat) (bs : List Byte) (s : State) : (putDram key bs s).ringStage = s.ringStage := rfl
@[simp] theorem putDram_msgRings (key : Nat) (bs : List Byte) (s : State) : (putDram key bs s).msgRings = s.msgRings := rfl
@[simp] theorem putDram_ann (key : Nat) (bs : List Byte) (s : State) : (putDram key bs s).ann = s.ann := rfl
@[simp] theorem putDram_alm (key : Nat) (bs : List Byte) (s : State) : (putDram key bs s).alm = s.alm := rfl
@[simp] theorem putDram_recCopies (key : Nat) (bs : List Byte) (s : State) : (putDram key bs s).recCopies = s.recCopies := rfl
@[simp] theorem putDram_report (key : Nat) (bs : List Byte) (s : State) : (putDram key bs s).report = s.report := rfl
@[simp] theorem putDram_tap (key : Nat) (bs : List Byte) (s : State) : (putDram key bs s).tap = s.tap := rfl

end Sys2Proof.Machine
end

