-- ==== Sys2Proof/Laws/Tab.lean ====
section
/-! SUPPORT. Tables: what a read after a write gives, and that writes keep the canonical form. -/

namespace Sys2Proof.Machine

variable {α : Type}

theorem Tab.find_put_same (t : Tab α) (k : Nat) (v : α) : Tab.find (Tab.put t k v) k = some v := by
  induction t with
  | nil => simp [Tab.put, Tab.find]
  | cons e t ih =>
    obtain ⟨j, w⟩ := e
    unfold Tab.put
    split_ifs <;> simp [Tab.find, *]

theorem Tab.find_put_ne (t : Tab α) {k l : Nat} (v : α) (h : l ≠ k) : Tab.find (Tab.put t k v) l = Tab.find t l := by
  induction t with
  | nil => simp [Tab.put, Tab.find, h]
  | cons e t ih =>
    obtain ⟨j, w⟩ := e
    unfold Tab.put
    split_ifs with h1 h2
    · simp [Tab.find, h]
    · subst h2; simp [Tab.find, h]
    · simp [Tab.find, ih]

theorem Tab.sortedFrom_mono : ∀ (t : Tab α) {a b : Nat}, a ≤ b → Tab.sortedFrom b t = true → Tab.sortedFrom a t = true
  | [], _, _, _, _ => rfl
  | (j, _) :: t, a, b, h, hs => by
    simp only [Tab.sortedFrom, Bool.and_eq_true, decide_eq_true_eq] at hs ⊢
    exact ⟨h.trans hs.1, hs.2⟩

theorem Tab.find_of_sorted : ∀ (t : Tab α) {a k : Nat}, Tab.sortedFrom a t = true → k < a → Tab.find t k = none
  | [], _, _, _, _ => rfl
  | (j, _) :: t, a, k, hs, hk => by
    simp only [Tab.sortedFrom, Bool.and_eq_true, decide_eq_true_eq] at hs
    have hj : k ≠ j := by omega
    have := Tab.find_of_sorted (k := k) t hs.2 (by omega)
    simp [Tab.find, hj, this]

theorem Tab.sortedFrom_put (v : α) : ∀ (t : Tab α) {a k : Nat}, Tab.sortedFrom a t = true → a ≤ k →
    Tab.sortedFrom a (Tab.put t k v) = true
  | [], a, k, _, hk => by simp [Tab.put, Tab.sortedFrom, hk]
  | (j, w) :: t, a, k, hs, hk => by
    have h := hs
    simp only [Tab.sortedFrom, Bool.and_eq_true, decide_eq_true_eq] at h
    unfold Tab.put
    split_ifs with h1 h2
    · simp [Tab.sortedFrom, hk, h.2]; omega
    · subst h2; simpa [Tab.sortedFrom, hk] using h.2
    · simp only [Tab.sortedFrom, Bool.and_eq_true, decide_eq_true_eq]
      exact ⟨h.1, Tab.sortedFrom_put v t h.2 (by omega)⟩

theorem Tab.sortedFrom_erase : ∀ (t : Tab α) {a k : Nat}, Tab.sortedFrom a t = true → Tab.sortedFrom a (Tab.erase t k) = true
  | [], _, _, _ => rfl
  | (j, w) :: t, a, k, hs => by
    have h := hs
    simp only [Tab.sortedFrom, Bool.and_eq_true, decide_eq_true_eq] at h
    unfold Tab.erase
    split_ifs
    · exact hs
    · exact Tab.sortedFrom_mono t (by omega) h.2
    · simp only [Tab.sortedFrom, Bool.and_eq_true, decide_eq_true_eq]
      exact ⟨h.1, Tab.sortedFrom_erase t h.2⟩

theorem Tab.find_erase_same : ∀ (t : Tab α) {a k : Nat}, Tab.sortedFrom a t = true → Tab.find (Tab.erase t k) k = none
  | [], _, _, _ => rfl
  | (j, w) :: t, a, k, hs => by
    simp only [Tab.sortedFrom, Bool.and_eq_true, decide_eq_true_eq] at hs
    unfold Tab.erase
    split_ifs with h1 h2
    · have hj : k ≠ j := by omega
      have := Tab.find_of_sorted (k := k) t hs.2 (by omega)
      simp [Tab.find, hj, this]
    · subst h2; exact Tab.find_of_sorted t hs.2 (by omega)
    · simp [Tab.find, h2, Tab.find_erase_same t hs.2]

theorem Tab.find_erase_ne (t : Tab α) {k l : Nat} (h : l ≠ k) : Tab.find (Tab.erase t k) l = Tab.find t l := by
  induction t with
  | nil => rfl
  | cons e t ih =>
    obtain ⟨j, w⟩ := e
    unfold Tab.erase
    split_ifs with h1 h2
    · rfl
    · subst h2; simp [Tab.find, h]
    · simp [Tab.find, ih]

theorem Tab.mem_put (v : α) : ∀ (t : Tab α) (k : Nat) (e : Nat × α), e ∈ Tab.put t k v → e = (k, v) ∨ e ∈ t
  | [], k, e, h => by simpa [Tab.put] using h
  | (j, w) :: t, k, e, h => by
    unfold Tab.put at h
    split_ifs at h
    · simpa using h
    · rcases List.mem_cons.1 h with h | h
      · exact .inl h
      · exact .inr (List.mem_cons_of_mem _ h)
    · rcases List.mem_cons.1 h with h | h
      · exact .inr (h ▸ List.mem_cons_self)
      · rcases Tab.mem_put v t k e h with h | h
        · exact .inl h
        · exact .inr (List.mem_cons_of_mem _ h)

theorem Tab.mem_erase : ∀ (t : Tab α) (k : Nat) (e : Nat × α), e ∈ Tab.erase t k → e ∈ t
  | [], _, _, h => h
  | (j, w) :: t, k, e, h => by
    unfold Tab.erase at h
    split_ifs at h
    · exact h
    · exact List.mem_cons_of_mem _ h
    · rcases List.mem_cons.1 h with h | h
      · exact h ▸ List.mem_cons_self
      · exact List.mem_cons_of_mem _ (Tab.mem_erase t k e h)

variable [DecidableEq α]

/-- A store keeps the keys rising. -/
theorem Tab.sorted_store (d : α) (t : Tab α) (k : Nat) (v : α) (h : Tab.sortedFrom 0 t = true) :
    Tab.sortedFrom 0 (Tab.store d t k v) = true := by
  unfold Tab.store
  split_ifs
  · exact Tab.sortedFrom_erase t h
  · exact Tab.sortedFrom_put v t h (Nat.zero_le _)

/-- A store lists nothing but what was listed, or the new entry where it differs from the default. -/
theorem Tab.mem_store (d : α) (t : Tab α) (k : Nat) (v : α) (e : Nat × α) (h : e ∈ Tab.store d t k v) :
    (e = (k, v) ∧ v ≠ d) ∨ e ∈ t := by
  unfold Tab.store at h
  split_ifs at h with hv
  · exact .inr (Tab.mem_erase t k e h)
  · rcases Tab.mem_put v t k e h with h | h
    · exact .inl ⟨h, hv⟩
    · exact .inr h

/-- The canonical form is kept. -/
theorem Tab.wf_store (d : α) (t : Tab α) (k : Nat) (v : α) (h : Tab.wf d t = true) : Tab.wf d (Tab.store d t k v) = true := by
  simp only [Tab.wf, Bool.and_eq_true, List.all_eq_true, decide_eq_true_eq] at h ⊢
  refine ⟨Tab.sorted_store d t k v h.1, fun e he => ?_⟩
  rcases Tab.mem_store d t k v e he with ⟨rfl, hv⟩ | he
  · exact hv
  · exact h.2 e he

theorem Tab.wf_storeList (d : α) : ∀ (t : Tab α) (k : Nat) (vs : List α), Tab.wf d t = true → Tab.wf d (Tab.storeList d t k vs) = true
  | _, _, [], h => h
  | t, k, v :: vs, h => Tab.wf_storeList d _ (k + 1) vs (Tab.wf_store d t k v h)

/-- A read after a write of the same key gives the value written. -/
theorem Tab.get_store_same (d : α) (t : Tab α) (k : Nat) (v : α) (h : Tab.sortedFrom 0 t = true) :
    Tab.get d (Tab.store d t k v) k = v := by
  unfold Tab.get Tab.store
  split_ifs with hv
  · simp [Tab.find_erase_same t h, hv]
  · simp [Tab.find_put_same]

/-- A write leaves every other key alone. -/
theorem Tab.get_store_ne (d : α) (t : Tab α) {k l : Nat} (v : α) (h : l ≠ k) : Tab.get d (Tab.store d t k v) l = Tab.get d t l := by
  unfold Tab.get Tab.store
  split_ifs
  · rw [Tab.find_erase_ne t h]
  · rw [Tab.find_put_ne t v h]

end Sys2Proof.Machine
end

