-- ==== Sys2Proof/Laws/Ops.lean ====
section
/-! SUPPORT. What the shared operations can do: the outcomes of a command, memory and its canonical form, and what the recording of a
fault with everything that it brings about leaves alone. -/

namespace Sys2Proof.Machine

/-! ### Outcomes -/

/-- A command on an existing unit answers its effect, or nothing while the chiplet is held in reset. -/
theorem onUnit_next {i n : Nat} (f : State → State) (s : State) (h : i < n) : onUnit i n f s = .next (if s.inReset then s else f s) := by
  simp [onUnit, act, h]

/-- A command on a unit that does not exist stops. -/
theorem onUnit_stop {i n : Nat} (f : State → State) (s : State) (h : n ≤ i) : onUnit i n f s = .fault .noSuchUnit := by
  simp [onUnit, Nat.not_lt.mpr h]

/-- Everything that a command on a unit can answer. -/
theorem onUnit_cases {i n : Nat} {f : State → State} {s t : State} (h : onUnit i n f s = .next t) :
    i < n ∧ ((s.inReset = true ∧ t = s) ∨ (s.inReset = false ∧ t = f s)) := by
  unfold onUnit act at h
  split at h
  · rename_i hi
    refine ⟨hi, ?_⟩
    cases hr : s.inReset <;> simp_all
  · cases h

/-- Everything that a command on a page can answer. -/
theorem onPage_cases {pg : Nat} {f : Blk → Nat → Nat → State → State} {s t : State} (h : onPage pg f s = .next t) :
    ∃ b i, pageBlk pg = some (b, i) ∧ ((s.inReset = true ∧ t = s) ∨ (s.inReset = false ∧ t = f b pg i s)) := by
  unfold onPage act at h
  split at h
  · rename_i b i hb
    refine ⟨b, i, hb, ?_⟩
    cases hr : s.inReset <;> simp_all
  · cases h

/-! ### Memory -/

/-- The stacks' memory keeps its canonical form under a write. -/
theorem putDram_wf (key : Nat) (bs : List Byte) (s : State) (h : Memory.wf s.dram = true) : Memory.wf (putDram key bs s).dram = true :=
  Tab.wf_storeList 0 s.dram key bs h

/-- A scratchpad keeps its canonical form under a write. -/
theorem spadPut_wf (x : Core) (a : Nat) (bs : List Byte) (h : Memory.wf x.spad = true) : Memory.wf (spadPut x a bs).spad = true :=
  Tab.wf_storeList 0 x.spad a bs h

/-- Memory right after reset has its canonical form. -/
theorem reset_dram_wf : Memory.wf State.reset.dram = true := rfl

/-- A run of bytes is read back inside, and every other byte is as before. -/
theorem Tab.get_storeList {α : Type} [DecidableEq α] (d : α) : ∀ (vs : List α) (t : Tab α) (k a : Nat), Tab.wf d t = true →
    Tab.get d (Tab.storeList d t k vs) a = if k ≤ a ∧ a < k + vs.length then (vs[a - k]?).getD d else Tab.get d t a
  | [], t, k, a, _ => by
    have : ¬ (k ≤ a ∧ a < k) := by omega
    simp [Tab.storeList]
  | v :: vs, t, k, a, h => by
    have hs : Tab.sortedFrom 0 t = true := by simp [Tab.wf] at h; exact h.1
    have ih := Tab.get_storeList d vs (Tab.store d t k v) (k + 1) a (Tab.wf_store d t k v h)
    simp only [Tab.storeList, ih, List.length_cons]
    by_cases hk : a = k
    · subst hk
      have h1 : ¬ (a + 1 ≤ a ∧ a < a + 1 + vs.length) := by omega
      have h2 : a ≤ a ∧ a < a + (vs.length + 1) := by omega
      simp [h2, Tab.get_store_same d t a v hs]
    · rw [Tab.get_store_ne d t v hk]
      by_cases hr : k + 1 ≤ a ∧ a < k + 1 + vs.length
      · have h2 : k ≤ a ∧ a < k + (vs.length + 1) := by omega
        have h3 : a - k = (a - (k + 1)) + 1 := by omega
        simp [hr, h2, h3]
      · have h2 : ¬ (k ≤ a ∧ a < k + (vs.length + 1)) := by omega
        rw [if_neg hr, if_neg h2]

/-- A write to the stacks' memory is read back, and every other byte is as before. -/
theorem putDram_get (key a : Nat) (bs : List Byte) (s : State) (h : Memory.wf s.dram = true) :
    Tab.get 0 (putDram key bs s).dram a = if key ≤ a ∧ a < key + bs.length then (bs[a - key]?).getD 0 else Tab.get 0 s.dram a :=
  Tab.get_storeList 0 bs s.dram key a h

/-- The same of a scratchpad. -/
theorem spadPut_get (x : Core) (k a : Nat) (bs : List Byte) (h : Memory.wf x.spad = true) :
    Tab.get 0 (spadPut x k bs).spad a = if k ≤ a ∧ a < k + bs.length then (bs[a - k]?).getD 0 else Tab.get 0 x.spad a :=
  Tab.get_storeList 0 bs x.spad k a h

/-! ### What a fault, an alarm and a message leave alone

An update of fields outside `kept` is closed by `rfl`; a chain of operations by the lemmas of its links. -/

/-- The part of the state that no fault, alarm or message touches. -/
def kept (s : State) := (s.pending, s.fuses, s.inReset, s.testEn, s.time, s.arrs, s.vecs, s.movers, s.gths, s.ops, s.homes, s.alm, s.pwr, s.tap)

@[simp] theorem kept_setR (pg o : Nat) (v : Word) (s : State) : kept (setR pg o v s) = kept s := rfl
@[simp] theorem kept_setF (pg o lo len v : Nat) (s : State) : kept (setF pg o lo len v s) = kept s := rfl
@[simp] theorem kept_wrapR (pg o k : Nat) (s : State) : kept (wrapR pg o k s) = kept s := rfl
@[simp] theorem kept_satR (pg o k : Nat) (s : State) : kept (satR pg o k s) = kept s := rfl
@[simp] theorem kept_setQ (pg o : Nat) (v : DWord) (s : State) : kept (setQ pg o v s) = kept s := rfl
@[simp] theorem kept_send (m : OutMsg) (s : State) : kept (send m s) = kept s := rfl
@[simp] theorem kept_setPort (p : Nat) (v : Port) (s : State) : kept (setPort p v s) = kept s := rfl
@[simp] theorem kept_setBar (b : Nat) (v : Bar) (s : State) : kept (setBar b v s) = kept s := rfl
@[simp] theorem kept_updPtn (p : Nat) (f : Ptn → Ptn) (s : State) : kept (updPtn p f s) = kept s := rfl
@[simp] theorem kept_updCore (c : Nat) (f : Core → Core) (s : State) : kept (updCore c f s) = kept s := rfl
@[simp] theorem kept_putDram (k : Nat) (bs : List Byte) (s : State) : kept (putDram k bs s) = kept s := rfl
@[simp] theorem kept_fresh (s : State) : kept (fresh s).2 = kept s := rfl

@[simp] theorem kept_firstR (pg o v : Nat) (s : State) : kept (firstR pg o v s) = kept s := by
  unfold firstR; split <;> simp

theorem kept_foldS {α : Type} (f : α → State → State) (h : ∀ a s, kept (f a s) = kept s) : ∀ (l : List α) (s : State), kept (foldS f l s) = kept s
  | [], _ => rfl
  | a :: t, s => by rw [foldS, kept_foldS f h t, h]

@[simp] theorem kept_putFrame (p i : Nat) (s : State) : kept (putFrame p i s) = kept s := rfl
@[simp] theorem kept_flushN : ∀ (n p : Nat) (s : State), kept (flushN n p s) = kept s
  | 0, _, _ => rfl
  | n + 1, p, s => by
    unfold flushN
    split
    · rfl
    · simp [kept_flushN n]
@[simp] theorem kept_portSend (p c : Nat) (s : State) : kept (portSend p c s) = kept s := by simp [portSend, portFlush]
@[simp] theorem kept_portPush (p c : Nat) : ∀ (n : Nat) (s : State), kept (portPush p c n s) = kept s
  | 0, _ => rfl
  | n + 1, s => by simp [portPush, kept_portPush p c n]
@[simp] theorem kept_stackSend (i op bank x : Nat) (s : State) : kept (stackSend i op bank x s) = kept s := by
  dsimp only [stackSend]
  split <;> simp
@[simp] theorem kept_portClear (p : Nat) (s : State) : kept (portClear p s) = kept s := by simp [portClear, updPort]

/-- What `writeWait` answers: the sharers first, then the stack, else nothing to wait for (R525). -/
theorem writeWait_cases (i : Nat) (f : Flit) (l : Nat) (aw : BitVec 8) (n : Nat) (s : State) :
    (aw ≠ 0 ∧ writeWait i f l aw n s = some (.inval f l aw n)) ∨
    (aw = 0 ∧ stackAcked s i n = false ∧ writeWait i f l aw n s = some (.stackWrite f l n)) ∨
    (aw = 0 ∧ stackAcked s i n = true ∧ writeWait i f l aw n s = none) := by
  unfold writeWait
  split
  · exact .inl ⟨‹_›, rfl⟩
  · rename_i h
    have h : aw = 0 := by simpa using h
    split
    · exact .inr (.inr ⟨h, ‹_›, rfl⟩)
    · rename_i g
      exact .inr (.inl ⟨h, by simpa using g, rfl⟩)
@[simp] theorem kept_groupPost (g h c l : Nat) (m : OutMsg) (s : State) : kept (groupPost g h c l m s) = kept s := by
  unfold groupPost; split <;> simp
@[simp] theorem kept_lkgDiscard (g r d : Nat) (s : State) : kept (lkgDiscard g r d s) = kept s := by simp [lkgDiscard]
@[simp] theorem kept_post (d h c l : Nat) (m : OutMsg) (s : State) : kept (post d h c l m s).2 = kept s := by
  unfold post
  split
  · split <;> simp
  · simp
@[simp] theorem kept_postMsg (d c l : Nat) (m : OutMsg) (s : State) : kept (postMsg d c l m s) = kept s := kept_post ..
@[simp] theorem kept_spanSend (k b g c : Nat) (d : Nat × Nat) (s : State) : kept (spanSend k b g c d s) = kept s := by simp [spanSend]

@[simp] theorem kept_twinSend (k p : Nat) (q w : DWord) (bs : List Byte) (s : State) : kept (twinSend k p q w bs s) = kept s := by simp [twinSend]
@[simp] theorem kept_shipSend (k p : Nat) (q w : DWord) (bs : List Byte) (s : State) : kept (shipSend k p q w bs s) = kept s := by
  simp only [shipSend]
  split
  · simp
  · exact kept_twinSend k p q w bs s

/-- A step taken only under a condition. -/
theorem kept_ite {c : Prop} [Decidable c] {a b s : State} (ha : kept a = kept s) (hb : kept b = kept s) : kept (if c then a else b) = kept s := by
  split
  · exact ha
  · exact hb

@[simp] theorem kept_twinWrote (l : Bool) (a k : Nat) (s : State) : kept (twinWrote l a k s) = kept s := by
  unfold twinWrote
  refine kept_ite ?_ rfl
  have h1 : ∀ u, kept (if u.twn.forwarding then twinSend 5 0 0 (BitVec.ofNat 64 a) (blockBytes u a k) u else u) = kept u :=
    fun u => kept_ite (kept_twinSend ..) rfl
  refine kept_ite (h1 s) ?_
  exact (kept_foldS _ (fun p u => kept_ite (kept_shipSend ..) rfl) _ _).trans (h1 s)
@[simp] theorem kept_setReady (pg : Nat) (on : Bool) (s : State) : kept (setReady pg on s) = kept s := kept_ite rfl rfl
@[simp] theorem kept_testOver (pg : Nat) (s : State) : kept (testOver pg s) = kept s := kept_ite rfl rfl
@[simp] theorem kept_setBState (pg st : Nat) (s : State) : kept (setBState pg st s) = kept s := by
  unfold setBState
  dsimp only
  generalize h1 : setR pg R.HDR_STATE (BitVec.ofNat 32 st) s = a
  have e1 : kept a = kept s := by subst h1; rfl
  generalize h2 : (if bstate s pg = B.starting ∧ st ≠ B.starting then testOver pg a else a) = b
  have e2 : kept b = kept s := by subst h2; exact kept_ite ((kept_testOver ..).trans e1) e1
  generalize h3 : (if isPtnPage pg ∧ st ≠ B.running ∧ st ≠ B.stopping then setDegraded pg false b else b) = d
  have e3 : kept d = kept s := by subst h3; exact kept_ite ((kept_setR ..).trans e2) e2
  generalize h4 : (if st = B.running ∧ bstate s pg ≠ B.running then satR pg R.HDR_STARTS 1 d else d) = e
  have e4 : kept e = kept s := by subst h4; exact kept_ite ((kept_satR ..).trans e3) e3
  exact kept_ite ((kept_setReady ..).trans e4) e4
@[simp] theorem kept_postFlit (d : Nat) (f : Flit) (s : State) : kept (postFlit d f s).2 = kept s := by
  unfold postFlit; split <;> exact kept_post ..
@[simp] theorem kept_setDir (i line : Nat) (l : List DirEnt) (s : State) : kept (setDir i line l s) = kept s := rfl

theorem kept_foldl {α β : Type} (f : β × State → α → β × State) (h : ∀ z a, kept (f z a).2 = kept z.2) : ∀ (l : List α) (z : β × State), kept (l.foldl f z).2 = kept z.2
  | [], _ => rfl
  | a :: t, z => by rw [List.foldl_cons, kept_foldl f h t, h]

@[simp] theorem kept_sendInvs (i a : Nat) (b : BitVec 8) (s : State) : kept (sendInvs i a b s).2 = kept s := by
  unfold sendInvs
  refine kept_foldl _ ?_ _ _
  intro z q
  dsimp only
  split
  · split
    · exact kept_postFlit ..
    · rfl
  · rfl
@[simp] theorem kept_dirWrite (i line a : Nat) (s : State) : kept (dirWrite i line a s).2 = kept s := by
  unfold dirWrite
  split
  · dsimp only
    split <;> exact kept_sendInvs ..
  · rfl
@[simp] theorem kept_dirSweep (i line a : Nat) (s : State) : kept (dirSweep i line a s) = kept s :=
  kept_ite (kept_dirWrite ..) (kept_dirWrite ..)
@[simp] theorem kept_memPut (a : Nat) (bs : List Byte) (s : State) : kept (memPut a bs s) = kept s := by
  unfold memPut
  split
  · exact (kept_twinWrote ..).trans ((kept_dirSweep ..).trans (kept_ite rfl rfl))
  · rfl
@[simp] theorem kept_setRingWord (r o v : Nat) (s : State) : kept (setRingWord r o v s) = kept s := kept_memPut ..
@[simp] theorem kept_ringNotice (r p : Nat) (s : State) : kept (ringNotice r p s) = kept s := kept_ite rfl (kept_postMsg ..)
@[simp] theorem kept_alarmPost (r : Nat) (bs : List Byte) (s : State) : kept (alarmPost r bs s).2 = kept s := by
  unfold alarmPost
  split
  · dsimp only
    split
    · split
      · exact kept_ite ((kept_ringNotice ..).trans ((kept_setRingWord ..).trans (kept_memPut ..))) ((kept_setRingWord ..).trans (kept_memPut ..))
      · exact kept_setRingWord ..
    · rfl
  · rfl
@[simp] theorem kept_annPut (k : Nat) (bs : List Byte) (s : State) : kept (annPut k bs s) = kept s := rfl
@[simp] theorem kept_annSeq (s : State) : kept (annSeq s).2 = kept s := rfl
theorem kept_ann (s : State) (x : Ann) : kept { s with ann := x } = kept s := rfl
@[simp] theorem kept_annFlag (k f : Nat) (s : State) : kept (annFlag k f s) = kept s := rfl
@[simp] theorem kept_alarmSend (r : Word) (bs : List Byte) (k : Nat) (s : State) : kept (alarmSend r bs k s) = kept s := by
  unfold alarmSend
  dsimp only
  generalize hu : wrapR Pg.ann R.ANN_MSGS 1 _ = u
  have h0 : kept u = kept s := by subst hu; rfl
  generalize hv : (if bit r 1 = true then postMsg 0xFFF Cls.int 8 (.alarm false bs) u else u) = v
  have h1 : kept v = kept s := by subst hv; exact kept_ite ((kept_postMsg ..).trans h0) h0
  generalize hw : (if bit r 3 = true ∧ twinServed v = true then postMsg (getF v Pg.twn R.TWN_PEER 0 12) Cls.int 8 (.alarm true bs) v else v) = w
  have h2 : kept w = kept s := by subst hw; exact kept_ite ((kept_postMsg ..).trans h1) h1
  refine kept_ite ?_ h2
  exact kept_ite ((kept_alarmPost ..).trans h2) ((kept_annFlag ..).trans ((kept_alarmPost ..).trans h2))
@[simp] theorem kept_incidentOpen (s : State) : kept (incidentOpen s) = kept s := by
  unfold incidentOpen
  split
  · rfl
  · have h : ∀ u v : State, kept u = kept s → kept v = kept u → kept (if annHeld u = true then u else v) = kept s :=
      fun u v hu hv => kept_ite hu (hv.trans hu)
    refine h _ _ ?_ (kept_setQ ..)
    exact (kept_ann _ _).trans ((kept_setF ..).trans (kept_setF ..))
@[simp] theorem kept_ringClaim (r k l : Nat) (s : State) : kept (ringClaim r k l s) = kept s := by
  unfold ringClaim
  dsimp only
  exact kept_ite (kept_ann _ _) ((kept_satR ..).trans (kept_ann _ _))
@[simp] theorem kept_ringPlace (r l : Nat) (s : State) : kept (ringPlace r l s).2 = kept s := by
  unfold ringPlace
  dsimp only
  split
  · rfl
  · generalize hu : (if r ≤ 1 then ringClaim r (getN s Pg.ann (ringHeadReg r)) (ringHi r - getN s Pg.ann (ringHeadReg r)) s else s) = u
    have h : kept u = kept s := by subst hu; exact kept_ite (kept_ringClaim ..) rfl
    split
    · exact h
    · rw [kept_annPut]; exact h
@[simp] theorem kept_ringWrite (r : Nat) (bs : List Byte) (s : State) : kept (ringWrite r bs s).2 = kept s := by
  unfold ringWrite
  generalize hz : ringPlace r bs.length s = z
  have h : kept z.2 = kept s := by subst hz; exact kept_ringPlace ..
  dsimp only
  rw [kept_setR, kept_ann, kept_annPut, kept_ringClaim, h]
@[simp] theorem kept_annLog (pg d : Nat) (bs : List Byte) (s : State) : kept (annLog pg d bs s) = kept s := by
  unfold annLog
  dsimp only
  rw [kept_ringWrite, kept_annSeq]
@[simp] theorem kept_alarmRecord (a b c d e : Nat) (bs : List Byte) (s : State) : kept (alarmRecord a b c d e bs s).2.2 = kept s := by
  unfold alarmRecord
  dsimp only
  split
  · rw [kept_ann, kept_setF, kept_annPut, kept_wrapR, kept_annSeq]
  · rw [kept_ringWrite, kept_wrapR, kept_annSeq]
theorem kept_coalFill (i a b : Nat) (r : Word) (k : Nat) (bs : List Byte) (s : State) : kept (coalFill i a b r k bs s) = kept s := rfl
theorem kept_coalCount (i n : Nat) (s : State) : kept (coalCount i n s) = kept s := rfl
@[simp] theorem kept_coalesce (a b : Nat) (r : Word) (k : Nat) (bs : List Byte) (s : State) : kept (coalesce a b r k bs s) = kept s := by
  unfold coalesce
  split
  · exact kept_ite ((kept_satR ..).trans (kept_coalCount ..)) ((kept_satR ..).trans (kept_coalFill ..))
  · split
    · exact (kept_satR ..).trans (kept_coalFill ..)
    · exact kept_satR ..
@[simp] theorem kept_alarmFull (pg c d : Nat) (u : Bool) (bs : List Byte) (s : State) : kept (alarmFull pg c d u bs s) = kept s := by
  have key : ∀ (a e : Nat) (r : Word) (z : Nat × List Byte × State), kept z.2.2 = kept s →
      kept (if alarmServed z.2.2 r then
        if u = true ∨ (slotFree z.2.2 ∧ z.2.2.ann.coal.all (fun e => e.count = 0)) then alarmSend r z.2.1 z.1 z.2.2
        else coalesce a e r z.1 z.2.1 z.2.2
      else z.2.2) = kept s :=
    fun _ _ _ _ h => kept_ite (kept_ite ((kept_alarmSend ..).trans h) ((kept_coalesce ..).trans h)) h
  exact key (annSrc (incidentOpen s) pg) c (getR (incidentOpen s) pg R.HDR_ROUTE)
    (alarmRecord (annSrc (incidentOpen s) pg) c d 1 0 bs (incidentOpen s)) ((kept_alarmRecord ..).trans (kept_incidentOpen s))
@[simp] theorem kept_namedAlarm (pg n : Nat) (s : State) : kept (namedAlarm pg n s) = kept s := kept_alarmFull ..

@[simp] theorem kept_ringDiscard (p : Nat) (s : State) : kept (ringDiscard p s) = kept s := rfl
@[simp] theorem kept_lvnNotice (d : Nat) (m : OutMsg) (s : State) : kept (lvnNotice d m s) = kept s := kept_ite rfl (kept_postMsg ..)
@[simp] theorem kept_lvnNotices (c : Bool) (p : Nat) (s : State) : kept (lvnNotices c p s) = kept s :=
  (kept_updPtn ..).trans (kept_foldS _ (fun d u => kept_lvnNotice d _ u) _ _)
@[simp] theorem kept_redDiscard (p : Nat) (s : State) : kept (redDiscard p s) = kept s := kept_ite rfl rfl
theorem kept_satFree (pg o : Nat) (s : State) : kept (satFree pg o s) = kept s := (kept_satR ..).trans (kept_fresh s)
@[simp] theorem kept_unfreeze (p : Nat) (s : State) : kept (unfreeze p s) = kept s :=
  (kept_updPtn ..).trans (kept_ite (kept_foldS _ (fun c u => kept_satFree (Pg.cor c) R.COR_FROZEN_CC u) _ _) rfl)
@[simp] theorem kept_ptnHalt (p : Nat) (s : State) : kept (ptnHalt p s) = kept s := kept_unfreeze ..
@[simp] theorem kept_ptnDropHeld (p : Nat) (s : State) : kept (ptnDropHeld p s) = kept s :=
  kept_foldS _ (fun c u => kept_updCore c _ u) _ _
@[simp] theorem kept_ptnFaulted (p : Nat) (s : State) : kept (ptnFaulted p s) = kept s := by
  unfold ptnFaulted
  exact kept_ite rfl ((kept_updPtn ..).trans ((kept_lvnNotices ..).trans ((kept_ringDiscard ..).trans ((kept_redDiscard ..).trans
    ((kept_unfreeze ..).trans (kept_ptnDropHeld ..))))))

/-- Answers with a list of events: the same of a condition. -/
theorem kept_ite2 {α : Type} {c : Prop} [Decidable c] {a b : α × State} {s : State} (ha : kept a.2 = kept s) (hb : kept b.2 = kept s) :
    kept (if c then a else b).2 = kept s := by
  split
  · exact ha
  · exact hb

theorem kept_self (s : State) (l : List Nat) : kept { s with selfFailed := l } = kept s := rfl
@[simp] theorem kept_recordPage (pg b : Nat) (s : State) : kept (recordPage pg b s).2 = kept s := by
  unfold recordPage
  dsimp only
  split
  · rfl
  · have hm : ∀ v : State, kept v = kept s → kept (match pageBlk pg with | some (.ptn, p) => ptnFaulted p v | _ => v) = kept s := by
      intro v hv
      split
      · exact (kept_ptnFaulted ..).trans hv
      · exact hv
    generalize hu : (if b.testBit 0 = true then _ else _ : State) = u
    have h0 : kept u = kept s := by
      subst hu
      exact kept_ite ((kept_self ..).trans (kept_setReady ..)) rfl
    clear hu
    split
    · exact h0
    · split
      · split
        · exact h0
        · dsimp only
          rw [kept_alarmFull]
          exact h0
      · exact hm _ ((kept_alarmFull ..).trans ((kept_setBState ..).trans h0))
@[simp] theorem kept_recordPtn (p c : Nat) (s : State) : kept (recordPtn p c s).2 = kept s := by
  unfold recordPtn
  dsimp only
  split
  · rfl
  split
  · split
    · rfl
    · exact kept_updPtn ..
  split
  · exact (kept_setR ..).trans (kept_updPtn ..)
  · exact (kept_updPtn ..).trans ((kept_setR ..).trans ((kept_ptnHalt ..).trans (kept_redDiscard ..)))
  · rfl
@[simp] theorem kept_recordBar (b c : Nat) (k : Option Nat) (s : State) : kept (recordBar b c k s).2 = kept s := by
  unfold recordBar
  dsimp only
  refine kept_ite2 ?_ (kept_ite2 rfl rfl)
  refine kept_ite2 ?_ ?_ <;> exact kept_foldS _ (fun m u => kept_spanSend ..) _ _
@[simp] theorem kept_faultStep (e : FaultEv) (s : State) : kept (faultStep e s).2 = kept s := by
  cases e
  · exact kept_recordPage ..
  · exact kept_recordPtn ..
  · exact kept_recordBar ..
@[simp] theorem kept_cascade : ∀ (n : Nat) (l : List FaultEv) (s : State), kept (cascade n l s) = kept s
  | 0, _, _ => rfl
  | _ + 1, [], _ => rfl
  | n + 1, e :: _, s => (kept_cascade n _ _).trans (kept_faultStep e s)

/-- A fault with everything it brings about leaves alone: the queue, the fuses, package time, arrays, vector engines, move and gather engines,
outstanding operations, the Almanac, power and test access. -/
@[simp] theorem kept_raise (e : FaultEv) (s : State) : kept (raise e s) = kept s := kept_cascade ..
@[simp] theorem kept_fault (pg c : Nat) (s : State) : kept (fault pg c s) = kept s := kept_raise ..
@[simp] theorem kept_ptnFault (p c : Nat) (s : State) : kept (ptnFault p c s) = kept s := kept_raise ..
@[simp] theorem kept_ptnFaultOf (p : Option Nat) (c : Nat) (s : State) : kept (ptnFaultOf p c s) = kept s := by
  cases p
  · rfl
  · exact kept_ptnFault ..

end Sys2Proof.Machine
end

