-- ==== Sys2Proof/Laws/Rows.lean ====
section
/-! SUPPORT. Rows that name the parts of a message: every CTRL row is the row of a frame, every span row that of a message's 8 bytes. -/

namespace Sys2Proof.Machine

/-- A frame is put together from its header, its payload and its last 8 bytes. -/
theorem frameOf_parts (f : Frame) : frameOf (f.bits.extractLsb' 0 64) f.payload (f.bits.extractLsb' 576 64) f.corr = f := by
  obtain ⟨b, l⟩ := f
  simp only [frameOf, Frame.payload, Frame.mk.injEq, and_true]
  ext i hi
  simp only [BitVec.getElem_append, BitVec.getElem_extractLsb']
  split
  · simp only [Nat.zero_add]; exact BitVec.getLsbD_eq_getElem hi
  · split <;> rw [← BitVec.getLsbD_eq_getElem hi] <;> exact congrArg b.getLsbD (by omega)

/-- The CTRL row of a frame takes the frame. -/
theorem exec_ctrlRow (p : Nat) (f : Frame) (s : State) : exec (ctrlRow p f) s = onUnit p nPorts (ctrlOp p f) s :=
  congrArg (fun g => onUnit p nPorts (ctrlOp p g) s) (frameOf_parts f)

/-- Every CTRL row is the row of a frame. -/
theorem ctrl_eq_ctrlRow (p : Nat) (h : BitVec 64) (b : BitVec 512) (t : BitVec 64) (l : List Nat) :
    Instr.ctrl p h b t l = ctrlRow p (frameOf h b t l) := by
  simp only [ctrlRow, frameOf, Frame.payload, Instr.ctrl.injEq, true_and, and_true]
  refine ⟨?_, ?_, ?_⟩ <;> ext i hi <;> rw [← BitVec.getLsbD_eq_getElem hi] <;>
    simp only [BitVec.getElem_extractLsb', BitVec.getLsbD_append] <;> (repeat' split) <;>
    first | omega | exact congrArg (BitVec.getLsbD _) (by omega)

/-- Every span row is that of the 8 bytes of its message. -/
theorem span_eq_spanRow (gen dbar sbar : BitVec 8) (sdie : BitVec 12) (cause : BitVec 8) (r : SpanRest) :
    let m := spanBits gen dbar sbar sdie cause r
    Instr.spanArrive gen dbar sbar sdie r = spanArriveRow m r.parityBad ∧ Instr.spanRelease gen dbar sbar sdie r = spanReleaseRow m r.parityBad ∧
      Instr.spanFault gen dbar sbar sdie cause r = spanFaultRow m r.parityBad := by
  obtain ⟨typ, low, bad⟩ := r
  refine ⟨?_, ?_, ?_⟩ <;>
    simp only [spanArriveRow, spanReleaseRow, spanFaultRow, spanBits, Instr.spanArrive.injEq, Instr.spanRelease.injEq, Instr.spanFault.injEq,
      SpanRest.mk.injEq, and_true] <;>
    (repeat' apply And.intro) <;> ext i hi <;> rw [← BitVec.getLsbD_eq_getElem hi] <;>
    simp only [BitVec.getElem_extractLsb', BitVec.getLsbD_append] <;> (repeat' split) <;>
    first | omega | exact congrArg (BitVec.getLsbD _) (by omega)

/-- A field of a word is a slice of it. -/
theorem fld_extract {n : Nat} (w : BitVec n) (lo len : Nat) : fld w lo len = (w.extractLsb' lo len).toNat := rfl

/-- The span rows of a message take its 8 bytes; ARRIVE and RELEASE have no CAUSE, which no rule reads on arrival. -/
theorem exec_spanRow (m : BitVec 64) (bad : Bool) (s : State) :
    exec (spanArriveRow m bad) s = act s (spanTake m bad s) ∧ exec (spanReleaseRow m bad) s = act s (spanTake m bad s) ∧
      exec (spanFaultRow m bad) s = act s (spanTake m bad s) := by
  have cut : ∀ (cause : BitVec 8), spanTake (spanBits (m.extractLsb' 52 8) (m.extractLsb' 44 8) (m.extractLsb' 36 8) (m.extractLsb' 24 12) cause
      ⟨m.extractLsb' 60 4, m.extractLsb' 0 16, bad⟩) bad s = spanTake m bad s := by
    intro cause
    have e : ∀ lo len, 24 ≤ lo → lo + len ≤ 64 → fld (spanBits (m.extractLsb' 52 8) (m.extractLsb' 44 8) (m.extractLsb' 36 8) (m.extractLsb' 24 12) cause
        ⟨m.extractLsb' 60 4, m.extractLsb' 0 16, bad⟩) lo len = fld m lo len := by
      intro lo len h1 h2
      simp only [fld_extract]
      refine congrArg BitVec.toNat (BitVec.eq_of_getLsbD_eq ?_)
      intro i hi
      simp only [spanBits, BitVec.getLsbD_extractLsb', hi, decide_true, Bool.true_and, BitVec.getLsbD_append]
      repeat' split
      all_goals first | omega | (rw [decide_eq_true (by omega), Bool.true_and]; exact congrArg m.getLsbD (by omega))
    simp only [spanTake, e 44 8 (by decide) (by decide), e 60 4 (by decide) (by decide), e 52 8 (by decide) (by decide),
      e 24 12 (by decide) (by decide), e 36 8 (by decide) (by decide)]
  exact ⟨congrArg (act s) (cut 0), congrArg (act s) (cut 0), congrArg (act s) (cut _)⟩

end Sys2Proof.Machine
end

