-- ==== Sys2Proof/Tests/Slice0.lean ====
section
/-! SUPPORT. Tests: the ill-formed command of each check, small tests of one step with results worked out by hand from the rules, and for
each statement with hypotheses concrete states and operands that meet them (`wit_` theorems). -/

set_option Elab.async false

namespace Sys2Proof.Tests

open Sys2Proof Sys2Proof.Machine

/-- The chiplet out of reset with nothing done. -/
def live : State := { State.reset with inReset := false }

/-- Pages put into a state. -/
def set (st : Nat) (pgs : List Nat) (s : State) : State := foldS (fun p s => setR p R.HDR_STATE (BitVec.ofNat 32 st) s) pgs s
def on (pgs : List Nat) (s : State) : State := set 3 pgs s

/-- What a command or a step leaves. -/
def after' (o : Host.Outcome State Fault Refusal) : State := match o with | .next t => t | _ => State.reset
def after (i : Instr) (s : State) : State := after' (exec i s)
/-- Stepped cycles of core 0 alone. -/
def steps : Nat → State → State
  | 0, s => s
  | n + 1, s => steps n (stepCore 0 s)

/-- The sites of row 0 are in service: site 0 of kind M is logical core 0, site 8 of kind V core 96, site 9 of kind S core 108. Partition 0 runs
on them with their pages. -/
def row0 (s : State) : State := setR Pg.alm R.ALM_USED0 0x3FF (setR Pg.alm R.ALM_STATUS 0x1000 s)
def base : State :=
  updPtn 0 (fun x => { x with domain := [0, 8, 9] }) <| on [Pg.ptn 0, Pg.cor 0, Pg.cor 8, Pg.cor 9, Pg.vec 0, Pg.vec 8, Pg.mxa 0 0, Pg.mxa 0 1, Pg.mov 0, Pg.mov 9, Pg.gth 9, Pg.netb, Pg.netm]
    (setR (Pg.ptn 0) R.PTN_MASK0 1 (setR (Pg.ptn 0) R.PTN_MASK3 0x1001 (row0 live)))

/-- Scalar registers of core 0; signal 0 of core 0. -/
def regs (l : Tab DWord) : State := updCore 0 (fun x => { x with sreg := l }) live
def sigs (n : Nat) : State := setR (Pg.sig 0) R.SIG_COUNT0 (BitVec.ofNat 32 n) live

/-- What an operation of a core sends toward its registers: file, register, value. -/
def coreOf : Instr → Nat
  | .mfs c _ _ _ | .movx c _ _ _ => c
  | _ => 0
def written (i : Instr) (s : State) : List (Nat × Nat × DWord) := (coreAt (after i s) (coreOf i)).pend.map (fun w => (w.file, w.idx, w.val))

/-- Partition 0 is in a Sol, with freeze raised `k` syllables ago. -/
def inSol : State := foldS (fun c => updCore c (fun x => { x with res := 4 })) [0, 8, 9] (updPtn 0 (fun x => { x with phase := .sol }) base)
def frozen (k : Nat) : State := updPtn 0 (fun x => { x with skid := some k }) inSol

/-- Barrier 17 of partition 0 is Open for cores 0 and 96. -/
def bars : State :=
  setBar 17 { Bar.init with st := 1 } (setR (Pg.cal 1) (0x180 + R.CAL_MASK3) 1 (setR (Pg.cal 1) (0x180 + R.CAL_MASK0) 1
    (setR (Pg.cal 1) (0x180 + R.CAL_CFG) 0x80000000 (on [Pg.cal 1] base))))


/-- Slice 0 serves: addresses 0 to 4095 are its lines 0 to 31. -/
def mem : State := on [Pg.slc 0, Pg.med 0, Pg.lvn 0, Pg.cch 0] base

/-- A span message to barrier `b` from barrier `sb` of die `sd`. -/
def spanMsg (typ gen b sb sd : Nat) : BitVec 64 := BitVec.ofNat 64 (typ * 2 ^ 60 + gen * 2 ^ 52 + b * 2 ^ 44 + sb * 2 ^ 36 + sd * 2 ^ 24)
/-- A frame of a kind, sealed: CCLASS 1, CREDITS 3, HPORT 1, SEQ and ACK, and a control word or another payload. -/
def frame (kind seq ack : Nat) (payload : Nat) : Frame :=
  ⟨frameSeal (BitVec.ofNat 608 (kind * 2 ^ 60 + 2 ^ 49 + 3 * 2 ^ 41 + 2 ^ 38 + payload * 2 ^ 64 + seq * 2 ^ 596 + ack * 2 ^ 584)), []⟩
def fr (kind seq : Nat) : Frame := frame kind seq 0 0

/-! ### Well-formedness: for each check a command that names a missing unit, and one at the bound that passes -/

theorem wf_page : Instr.wf (.start 0x0A) = false ∧ Instr.wf (.start 0x09) = true ∧ Instr.wf (.retire 0x5004) = false ∧ Instr.wf (.retire 0x5003) = true := by decide
theorem wf_partition : Instr.wf (.syllableIssue ⟨16, []⟩) = false ∧ Instr.wf (.syllableIssue ⟨15, [3]⟩) = true := by decide
theorem wf_site : Instr.wf (.solEnd 132) = false ∧ Instr.wf (.solEnd 131) = true ∧ Instr.wf (.mNop 132 false) = false ∧ Instr.wf (.copy 132 true) = false := by decide
theorem wf_array_page : Instr.wf (.bist 0x1081) = false ∧ Instr.wf (.bist 0x1071) = true ∧ Instr.wf (.bist 0x10A1) = true ∧ Instr.wf (.bist 3) = false := by decide
theorem wf_calends_page : Instr.wf (.calForce 16 0) = false ∧ Instr.wf (.calForce 15 0) = true := by decide
theorem wf_barrier : Instr.wf (.quietExpire 256) = false ∧ Instr.wf (.quietExpire 255) = true := by decide
theorem wf_target : Instr.wf (.mcHoldExpire 0 120) = false ∧ Instr.wf (.mcHoldExpire 0 119) = true := by decide
theorem wf_slice : Instr.wf (.stackTimeout 33) = false ∧ Instr.wf (.stackTimeout 32) = true := by decide
theorem wf_peer_row : Instr.wf (.trrReq ⟨33, 0, 0, 0⟩) = false ∧ Instr.wf (.trrReq ⟨32, 0, 0, 0⟩) = true := by decide
theorem wf_ring : Instr.wf (.ringEnable 65536) = false ∧ Instr.wf (.ringEnable 65535) = true := by decide
theorem wf_port : Instr.wf (.linkDown 54) = false ∧ Instr.wf (.linkDown 53) = true := by decide
theorem wf_group : Instr.wf (.drainTimeout 8) = false ∧ Instr.wf (.drainTimeout 7) = true := by decide
theorem wf_row : Instr.wf (.hash 12) = false ∧ Instr.wf (.hash 11) = true := by decide
theorem wf_instrument : Instr.wf (.instrumentAbort 222) = false ∧ Instr.wf (.instrumentAbort 221) = true := by decide
-- a span message of another TYPE, a frame of another KIND, and two failed frames on a port that carries no codewords
theorem wf_span_type : Instr.wf (spanArriveRow (spanMsg 1 0 17 8 6) false) = true ∧ Instr.wf (spanArriveRow (spanMsg 2 0 17 8 6) false) = false ∧
    Instr.wf (spanReleaseRow (spanMsg 2 0 17 9 5) false) = true ∧ Instr.wf (spanFaultRow (spanMsg 2 0 17 9 5) false) = false := by decide
theorem wf_frame_kind : Instr.wf (.data 32 (fr 1 0)) = true ∧ Instr.wf (.data 32 (fr 2 0)) = false ∧ Instr.wf (.idle 32 (fr 1 0)) = false := by decide +kernel
theorem wf_failed_frames : Instr.wf (.failedCrcFrame 32 (0) []) = true ∧ Instr.wf (.failedCrcFrame 32 0 [0]) = false ∧ Instr.wf (.failedCrcFrame 36 0 (List.replicate 7 0)) = true := by decide
theorem wf_missing_unit_stops : exec (.solEnd 132) live = .fault .noSuchUnit ∧ exec (.start 0x0A) live = .fault .noSuchUnit := by constructor <;> rfl

/-! ### The queue and the reset -/

theorem test_decode_no_bits : decodeTableWord 32 0 = none ∧ (State.withFetchWord State.reset 32 0).pending = [] := by decide
theorem wit_StepRunsTheFrontCommand : (step { live with pending := [.sNop 0 .p0, .sNop 1 .p0] }) = .next { live with pending := [.sNop 1 .p0] } := by rfl
theorem wit_EmptyQueueMovesPackageTimeOn : live.pending = [] ∧ (after' (step live)).time = 1 := by decide +kernel
theorem wit_SoundAtReset : Sound Fuses.good State.reset := ⟨rfl, by decide +kernel⟩
theorem wit_SoundKept : Sound Fuses.good live ∧ (∃ t, step live = .next t) := ⟨⟨rfl, by decide +kernel⟩, ⟨_, rfl⟩⟩
theorem wit_WhatNoCommandChanges : ∃ t, exec (.sNop 0 .p0) live = .next t := ⟨_, rfl⟩
theorem wit_CommandsStopOnlyAtMissingUnits : Instr.unitsExist (.solEnd 131) = true ∧ Instr.unitsExist (.solEnd 132) = false ∧ Instr.wf (.solEnd 131) = true := by decide
theorem wit_ResetOfTheChiplet : live.inReset = false ∧ State.reset.inReset = true ∧ Instr.wf (.sNop 131 .p0) = true ∧ 10000 ≤ 10000 ∧ 99 < 100 := by decide
theorem wit_ResetValuesOfTheHeaders : pageBlk 0x5003 = some (.netm, 0) ∧ pageBlk 0x10 = some (.ptn, 0) ∧ pageBlk (Pg.mxa 131 1) = some (.mxa, 263) := by decide

/-! ### Scalar unit -/

-- core 0 of kind M, core 9 of kind S
theorem wit_Issues_p0 : Issues live 0 .p0 ∧ Issues live 131 .p0 := ⟨⟨rfl, by decide, by decide⟩, ⟨rfl, by decide, by decide⟩⟩
theorem wit_Issues_p1 : Issues live 9 .p1 := ⟨rfl, by decide, by decide +kernel⟩
theorem wit_ScalarImmediates : mfsValue base 9 0 5 = some 9 ∧ mfsValue base 9 0 6 = some 0 ∧ 7 ≤ (7#8).toNat ∧ runsAs base 9 = some 2 ∧ runsAs base 0 ≠ some 2 := by decide +kernel
theorem test_add_wraps : written (.add 0 .p0 3 1 2) (regs [(1, 0xFFFFFFFFFFFFFFFF), (2, 2)]) = [(0, 3, 1)] := by decide +kernel
theorem test_sub : written (.sub 0 .p0 3 1 2) (regs [(1, 1), (2, 2)]) = [(0, 3, 0xFFFFFFFFFFFFFFFF)] := by decide +kernel
theorem test_and_or_xor : written (.and 0 .p0 3 1 2) (regs [(1, 12), (2, 10)]) = [(0, 3, 8)] ∧ written (.or 0 .p0 3 1 2) (regs [(1, 12), (2, 10)]) = [(0, 3, 14)] ∧
    written (.xor 0 .p0 3 1 2) (regs [(1, 12), (2, 10)]) = [(0, 3, 6)] := by decide +kernel
theorem test_shift_amount_is_6_bits : written (.shl 0 .p0 3 1 2) (regs [(1, 1), (2, 65)]) = [(0, 3, 2)] ∧ written (.shr 0 .p0 3 1 2) (regs [(1, 0x8000000000000000), (2, 127)]) = [(0, 3, 1)] ∧
    written (.sra 0 .p0 3 1 2) (regs [(1, 0x8000000000000000), (2, 63)]) = [(0, 3, 0xFFFFFFFFFFFFFFFF)] := by decide +kernel
theorem test_mul_low_half : written (.mul 0 .p0 3 1 2) (regs [(1, 0x100000001), (2, 0x100000001)]) = [(0, 3, 0x200000001)] := by decide +kernel
theorem test_min_max_signs : written (.min 0 .p0 3 1 2) (regs [(1, 0xFFFFFFFFFFFFFFFF), (2, 1)]) = [(0, 3, 0xFFFFFFFFFFFFFFFF)] ∧
    written (.max 0 .p0 3 1 2) (regs [(1, 0xFFFFFFFFFFFFFFFF), (2, 1)]) = [(0, 3, 1)] ∧ written (.minu 0 .p0 3 1 2) (regs [(1, 0xFFFFFFFFFFFFFFFF), (2, 1)]) = [(0, 3, 1)] ∧
    written (.maxu 0 .p0 3 1 2) (regs [(1, 0xFFFFFFFFFFFFFFFF), (2, 1)]) = [(0, 3, 0xFFFFFFFFFFFFFFFF)] := by decide +kernel
theorem test_immediates : written (.addi 0 .p0 3 1 0xFF) (regs [(1, 1)]) = [(0, 3, 0)] ∧ written (.lis 0 .p0 3 0x8000) live = [(0, 3, 0xFFFFFFFFFFFF8000)] ∧
    written (.lih 0 .p0 3 0x1234) (regs [(3, 5)]) = [(0, 3, 0x51234)] ∧ written (.shli 0 .p0 3 1 63) (regs [(1, 1)]) = [(0, 3, 0x8000000000000000)] ∧
    written (.shri 0 .p0 3 1 1) (regs [(1, 3)]) = [(0, 3, 1)] := by decide +kernel
theorem test_compares : written (.cmplt 0 .p0 2 1 0) (regs [(1, 0xFFFFFFFFFFFFFFFF)]) = [(2, 2, 1)] ∧ written (.cmpltu 0 .p0 2 1 0) (regs [(1, 0xFFFFFFFFFFFFFFFF)]) = [(2, 2, 0)] ∧
    written (.cmpeq 0 .p0 2 1 0) (regs [(1, 0)]) = [(2, 2, 1)] := by decide +kernel
theorem test_predicates : written (.pand 0 .p0 2 0 1) live = [(2, 2, 0)] ∧ written (.por 0 .p0 2 0 1) live = [(2, 2, 1)] ∧ written (.pxor 0 .p0 2 0 0) live = [(2, 2, 0)] := by decide +kernel
theorem test_write_to_s0_is_ignored : written (.lis 0 .p0 0 5) live = [] ∧ rdReg (coreAt live 0) .other 0 0 0 = 0 := by decide +kernel
theorem test_mfs : written (.mfs 9 .p0 3 2) base = [(0, 3, 108)] ∧ written (.mfs 9 .p0 3 4) base = [(0, 3, 2)] ∧ written (.mfs 9 .p0 3 5) base = [(0, 3, 9)] := by decide +kernel
theorem test_mfs_bad_index_is_illegal : bit (getR (after (.mfs 0 .p0 3 7) base) (Pg.cor 0) R.HDR_FAULT) 8 = true := by decide +kernel
theorem test_movx_reads_the_other_file : written (.movx 9 .p0 3 1) (updCore 9 (fun x => { x with treg := [(1, 77)] }) base) = [(0, 3, 77)] ∧
    bit (getR (after (.movx 0 .p0 3 1) base) (Pg.cor 0) R.HDR_FAULT) 8 = true := by decide +kernel
theorem wit_ScratchpadLoadsAndStores : 3145720 % 8 = 0 ∧ 3145720 + 8 ≤ sizeOfSite live 0 ∧ ¬ (3145728 + 8 ≤ sizeOfSite live 0) ∧ ¬ (12 % 8 = 0) ∧ unitHolds (coreAt live 9) 7 = false ∧
    unitHolds (coreAt (after (.wait 9 0 1) base) 9) 7 = true := by decide +kernel
theorem test_store_then_load : written (.ld 0 .p0 3 1 1) (updCore 0 (fun x => { x with sreg := [(1, 8)], spad := [(16, 0x34), (17, 0x12)] }) live) = [(0, 3, 0x1234)] ∧
    ((coreAt (after (.st 0 .p0 2 1 0) (regs [(1, 8), (2, 0x1234)])) 0).pendSt.map (fun w => (w.addr, w.bytes))) = [(8, [0x34, 0x12, 0, 0, 0, 0, 0, 0])] := by decide +kernel
theorem test_ld_misaligned_is_scratch : bit (getR (after (.ld 0 .p0 3 1 0) (regs [(1, 4)])) (Pg.cor 0) R.HDR_FAULT) 11 = true := by decide +kernel
theorem wit_SignalWaits : (3#16).toNat ≤ (getR (sigs 3) (Pg.sig 0) R.SIG_COUNT0).toNat ∧ (getR (sigs 3) (Pg.sig 0) R.SIG_COUNT0).toNat < (4#16).toNat ∧
    (4#7 ≠ 0) ∧ (rdReg (coreAt (sigs 3) 0) .pipe0 0 0 0).toNat % 2 ^ 32 = 0 ∧ (rdReg (coreAt (regs [(1, 9)]) 0) .pipe0 0 1 0).toNat % 2 ^ 32 ≠ 0 ∧
    (rdReg (coreAt (sigs 3) 0) .other 0 0 0).toNat % 2 ^ 32 ≤ 3 ∧ 0 < (rdReg (coreAt (regs [(1, 9)]) 0) .other 0 1 0).toNat % 2 ^ 32 := by decide +kernel
/-- A WAITL with a limit waits behind a WAIT. -/
def behind : List (Nat × Nat × Instr) := [(7, 0, .wait 0 0 1), (7, 1, .waitl 0 1 0 4 1)]
theorem wit_held_waitl : (coreAt (updCore 0 (fun x => { x with holds := behind }) live) 0).holds = [(7, 0, .wait 0 0 1)] ++ (7, 1, .waitl 0 1 0 4 1) :: [] ∧
    (behind.take 1).all (fun h => !isWaitl h.2.2) = true ∧ (behind.take 1).contains (7, 1, .waitl 0 1 0 4 1) = false ∧ (coreAt live 0).holds = [] := by decide +kernel
theorem test_wait_subtracts : getR (after (.wait 0 0 2) (sigs 3)) (Pg.sig 0) R.SIG_COUNT0 = 1 ∧ getR (after (.wait 0 0 4) (sigs 3)) (Pg.sig 0) R.SIG_COUNT0 = 3 ∧
    (coreAt (after (.wait 0 0 4) (sigs 3)) 0).holds.length = 1 := by decide +kernel
theorem test_waitr : getR (after (.waitr 0 0 1) (setR (Pg.sig 0) R.SIG_COUNT0 3 (regs [(1, 3)]))) (Pg.sig 0) R.SIG_COUNT0 = 0 := by decide +kernel
theorem test_tests_and_waitl : written (.tests 0 2 0 4) (sigs 3) = [(2, 2, 0)] ∧ written (.waitl 0 2 0 4 0) (sigs 3) = [(2, 2, 0)] ∧ written (.waitl 0 2 0 3 0) (sigs 3) = [(2, 2, 1)] := by decide +kernel
theorem test_waitl_timeout : written (.waitlTimeout 0) (updCore 0 (fun x => { x with holds := behind }) live) = [(2, 1, 0)] ∧
    (coreAt (after (.waitlTimeout 0) (updCore 0 (fun x => { x with holds := behind }) live)) 0).holds = [(7, 0, .wait 0 0 1), (7, 1, .sNop 0 .p0)] := by decide +kernel
theorem wit_SequencerOperations : (coreAt live 0).branch = none ∧ (coreAt live 0).pos < (1#12).toNat ∧ (coreAt live 0).loops = [] ∧
    (coreAt (after (.br 0 0 false 5) live) 0).branch = some (2, 5) ∧ ¬ ((coreAt live 0).pos < (0#12).toNat) ∧
    (decide (rdReg (coreAt live 0) .other 2 0 0 ≠ 0) != true) = false ∧ (arrAt live 0 false).open_ = false ∧ (arrAt live 0 true).open_ = false := by decide +kernel
/-- In a loop of syllables 1 to 4. -/
def looping (at_ : Nat) : State := updCore 0 (fun x => { x with pos := at_, loops := [⟨1, 4, 3⟩] }) live
theorem wit_nested_loops : (coreAt (looping 2) 0).pos < (3#12).toNat ∧ (3#12).toNat ≤ 4 ∧ (coreAt (looping 2) 0).loops.length < 4 ∧ (coreAt (looping 4) 0).loops.any (fun l => l.stop = (coreAt (looping 4) 0).pos) = true ∧
    ¬ ((5#12).toNat ≤ 4) ∧ (rdReg (coreAt live 0) .other 0 0 0).toNat % 2 ^ 32 = 0 ∧ (rdReg (coreAt (regs [(1, 2)]) 0) .other 0 1 0).toNat % 2 ^ 32 ≠ 0 := by decide +kernel
theorem test_branch_and_loops : (coreAt (after (.br 0 0 true 5) live) 0).branch = none ∧ (coreAt (after (.loopi 0 4 3) live) 0).loops = [⟨1, 4, 3⟩] ∧
    (coreAt (after (.loopi 0 4 0) live) 0).pos = 5 ∧ (coreAt (after (.loopr 0 4 1) (regs [(1, 2)])) 0).loops = [⟨1, 4, 2⟩] := by decide +kernel
theorem test_loop_backwards_is_loop : bit (getR (after (.loopi 0 0 3) live) (Pg.cor 0) R.HDR_FAULT) 9 = true := by decide +kernel
theorem test_guard_squashes : (coreAt (after (.guard 0 0 true 0x41) live) 0).squash = 0x41 ∧ (coreAt (after (.guard 0 0 false 0x41) live) 0).squash = 0 := by decide +kernel
theorem test_sol_end : (coreAt (after (.solEnd 0) live) 0).ended = true ∧ (coreAt (after (.solEndComplete 0) (updCore 0 (fun x => { x with ended := true }) live)) 0).parked = true := by decide +kernel
theorem wit_LatestVisibleWriteIsRead : ∃ w ∈ (coreAt (after (.lis 0 .p0 3 5) live) 0).pend, w.file = 0 ∧ w.idx = 3 ∧ w.vis .pipe0 ≤ 1 ∧ ¬ (w.vis .pipe1 ≤ 2) := by decide +kernel
theorem test_visibility : rdReg (coreAt (after (.lis 0 .p0 3 5) live) 0) .pipe0 0 3 1 = 5 ∧ rdReg (coreAt (after (.lis 0 .p0 3 5) live) 0) .pipe1 0 3 2 = 0 ∧
    rdReg (coreAt (after (.lis 0 .p0 3 5) live) 0) .other 0 3 3 = 5 := by decide +kernel
theorem wit_ResultsBecomeVisibleOnTime : (∀ w ∈ (coreAt (after (.lis 0 .p1 3 5) live) 0).pend, w.file = 0 → w.idx = 3 → w.iss ≤ 2 * 0) := by decide +kernel

/-! ### Issue, freeze, signals and the control slot -/

theorem wit_sound_inSol : Sound Fuses.good inSol ∧ Sound Fuses.good (frozen 2) := ⟨⟨rfl, by decide +kernel⟩, ⟨rfl, by decide +kernel⟩⟩
theorem wit_SyllableIssueAndFreeze : (ptnAt inSol 0).phase = .sol ∧ inSol.pwr.pllsOff = false ∧ (ptnAt inSol 0).domain.any (fun k => !(coreAt inSol k).parked) = true ∧
    (ptnAt inSol 0).skid = none ∧ (ptnAt (frozen 1) 0).skid = some 1 ∧ (ptnAt (frozen 2) 0).skid = some 2 ∧ (ptnAt (frozen 2) 0).domain.all (fun k => (coreAt (frozen 2) k).holds.isEmpty) = true ∧
    unitCan (holdOp 0 7 0 (.wait 0 0 1) inSol) 0 7 = false ∧ unitCan inSol 0 7 = true ∧ (ptnAt (holdOp 0 7 0 (.wait 0 0 1) inSol) 0).skid = some 0 ∧
    (coreAt (updCore 0 (fun x => { x with parked := true }) live) 0).parked = true ∧ (coreAt (updCore 0 (fun x => { x with ended := true }) live) 0).ended = true := by decide +kernel
theorem test_issue_steps_the_cores : (coreAt (after (.syllableIssue ⟨0, []⟩) inSol) 0).steps = 1 ∧ (ptnAt (after (.syllableIssue ⟨0, []⟩) (frozen 0)) 0).skid = some 1 ∧
    (coreAt (after (.syllableIssue ⟨0, []⟩) (frozen 2)) 0).steps = 0 ∧ (ptnAt (unfreeze 0 (frozen 2)) 0).skid.isNone = true := by decide +kernel
theorem wit_ControlSlotOperations : unitHolds (coreAt bars 0) 0 = false ∧ squashed (coreAt bars 0) 0 = false ∧ ptnOfSite bars 0 = some 0 ∧ logicalAt bars 0 = some 0 ∧
    barNamed bars 0 17 = true ∧ barNamed bars 0 18 = false ∧ barPasses bars 0 17 = true ∧ barPasses (setBar 17 { barAt bars 17 with open_ := [(0, 0)] } bars) 0 17 = false ∧
    unitHolds (coreAt (after (.arwt 0 ⟨17, false⟩) bars) 0) 0 = true ∧ ptnOfSite (after (.arwt 0 ⟨17, false⟩) bars) 0 = some 0 ∧ logicalAt (after (.arwt 0 ⟨17, false⟩) bars) 0 = some 0 := by decide +kernel
theorem test_arrive : (barAt (after (.arr 0 ⟨17, false⟩) bars) 17).who0 = [0] ∧ (coreAt (after (.arwt 0 ⟨17, false⟩) bars) 0).holds.length = 1 ∧ (coreAt (after (.waitb 0 17) bars) 0).holds = [] ∧
    ((coreAt (after (.testb 0 2 17) bars) 0).pend.map (fun w => (w.file, w.idx, w.val))) = [(2, 2, 1)] := by decide +kernel
theorem test_raise : getR (after (.raise 0 3) live) (Pg.sig 0) (R.SIG_COUNT0 + 12) = 1 := by decide +kernel
theorem wit_ARaisePastTheTopSaturates : Sound Fuses.good (setR (Pg.sig 0) (R.SIG_COUNT0 + 124) 0xFFFFFFFF base) ∧
    getR (setR (Pg.sig 0) (R.SIG_COUNT0 + 124) 0xFFFFFFFF base) (Pg.sig 0) (R.SIG_COUNT0 + 4 * (31#5).toNat) = 0xFFFFFFFF ∧
    (coreAt base 0).holds = [] ∧ squashed (coreAt base 0) 0 = false ∧ bstate base (Pg.cor 0) ≠ B.absent ∧ bstate base (Pg.cor 0) ≠ B.retired :=
  ⟨⟨rfl, by decide +kernel⟩, by decide +kernel⟩
theorem test_raise_saturates : bit (getR (after (.raise 0 31) (setR (Pg.sig 0) (R.SIG_COUNT0 + 124) 0xFFFFFFFF base)) (Pg.sig 0) R.SIG_SAT) 31 = true := by decide +kernel
theorem wit_BarrierArrivalsCount : barEn bars 17 = true ∧ barPtn bars 17 = 0 ∧ (barAt bars 17).st = 1 ∧ (barMask bars 17).testBit 0 = true ∧ (barMask bars 17).testBit 7 = false ∧
    barTarget bars 17 = 0 ∧ (0 ∉ (barAt bars 17).who0) ∧ barMember bars 17 0 = none ∧ (barAt bars 17).metAt = none ∧
    barMet (setBar 17 { barAt bars 17 with n0 := 1, who0 := [0] } bars) 17 = false ∧ barMet (setBar 17 { barAt bars 17 with n0 := 2, who0 := [96, 0] } bars) 17 = true ∧
    (barAt (setBar 17 { barAt bars 17 with st := 2 } bars) 17).st = 2 ∧ (barAt bars 18).st = 0 ∧ barEn (setBar 17 { barAt bars 17 with st := 0 } bars) 17 = true ∧
    (barAt (setBar 17 { barAt bars 17 with who0 := [0], who1 := [0] } bars) 17).who1 = [0] := by decide +kernel

/-! ### Spans and Vigil, arrays -/

/-- Barrier 17 with a parent (die 5, barrier 9) and a child (die 6, barrier 8). -/
def spans : State := setR (Pg.cal 1) (0x180 + R.CAL_PARENT) 0x80050009 (setR (Pg.cal 1) (0x180 + R.CAL_CHILD0) 0x80060008 bars)
def quiet : State := setBar 17 { barAt bars 17 with st := 3 } bars
def faulty : State := setBar 17 { barAt bars 17 with st := 2 } (setR (Pg.ptn 0) R.HDR_STATE 1 bars)
def watched : State := setR Pg.vgl R.VGL_CFG 1 (on [Pg.vgl] inSol)

theorem wit_SpanMessagesBarrierControlsAndVigil : (barAt spans 17).st = 1 ∧ memberOf spans 17 (6, 8) = some (0 + 1) ∧ memberOf spans 17 (5, 9) = some 0 ∧
    memberOf (wrapR Pg.nets R.NETS_MSGS 1 spans) 17 (6, 8) = some 1 ∧ (0#8).toNat = (barAt spans 17).gen ∧ bit (barAt spans 17).ch0 0 = false ∧ nextGen 254 = 0 ∧
    (barAt spans 18).st ≠ 1 ∧ (getN (setR (Pg.cal 1) (0x180 + R.CAL_XMASK) 0x800 bars) (barPage 17) (barOff 17 R.CAL_XMASK)).testBit 11 = true ∧
    (barAt faulty 17).st = 2 ∧ runs faulty (Pg.cal 1) = true ∧ bstate faulty (Pg.ptn (barPtn faulty 17)) = B.stopped ∧ (barAt quiet 17).st = 3 ∧ vigilWatches watched 0 = true := by decide +kernel
theorem test_span_arrive_sets_child : (barAt (after (spanArriveRow (spanMsg 1 0 17 8 6) false) spans) 17).ch0 = 1 ∧ getR (after (spanArriveRow (spanMsg 1 0 18 8 6) false) spans) (Pg.cal 1) R.CAL_STALE = 1 := by decide +kernel
theorem test_span_release_moves_the_generation : (barAt (after (spanReleaseRow (spanMsg 2 0 17 9 5) false) spans) 17).gen = 1 := by decide +kernel
theorem test_span_fault_and_parity : (barAt (after (spanFaultRow (spanMsg 3 0 17 9 5) false) spans) 17).st = 2 ∧ (barAt (after (spanFaultRow (spanMsg 3 0 17 9 5) true) spans) 17).st = 2 ∧
    getR (after (spanFaultRow (spanMsg 3 0 17 9 5) true) spans) Pg.nets R.NETS_ERRORS = 1 := by decide +kernel
theorem test_cal_controls : (barAt (after (.calForce 1 0x11) bars) 17).gen = 1 ∧ (barAt (after (.calClear 1 2) faulty) 17).st ≠ 2 ∧ (barAt (after (.quietExpire 17) quiet) 17).st = 1 := by decide +kernel
theorem test_vigil_takes_the_first_path : bit (getR (after (.vigilDetect 0) watched) Pg.vgl R.VGL_LAST) 31 = true ∧ getR (after (.vigilDetect 0) watched) Pg.vgl R.VGL_ALARMS = 1 := by decide +kernel

theorem wit_MatrixSlotOperationsAndSelfTest : runs base (mPg 0 false) = true ∧ runs base (mPg 0 true) = true ∧ runs live (mPg 0 true) = false ∧ squashed (coreAt base 0) (mUnit false) = false ∧
    squashed (coreAt (after (.guard 0 0 true 0x7F) base) 0) (mUnit true) = true ∧ modeOk (modeWord 4 4 0 false false false 0 0) = true ∧ modeOk (modeWord 4 4 7 false false false 0 0) = false ∧
    (rdReg (coreAt (updCore 0 (fun x => { x with sreg := [(1, 4194303), (2, 4194304), (3, 16777216), (4, 16777217)] }) base) 0) .other 0 4 0).toNat = 16777217 ∧
    isMxaPage (Pg.mxa 131 1) = true ∧ bstate live (Pg.mxa 0 0) ≠ B.stopped ∧ bstate (set 1 [Pg.mxa 0 0] live) (Pg.mxa 0 0) = B.stopped ∧
    bistPass live (Pg.mxa 0 0) 0 0 = true ∧ bistPass live (Pg.mxa 0 0) 1 0 = false := by decide +kernel
theorem test_mode_seta_setcnt : (arrAt (after (.mode 0 false 4 4 0 false false false 0 0) base) 0 false).mode = 0x44000000 ∧ (arrAt (after (.setai 0 true 3 0x40) base) 0 true).a = [(3, 0x40)] ∧
    bit (getR (after (.mode 0 false 4 4 7 false false false 0 0) base) (mPg 0 false) R.HDR_FAULT) 12 = true ∧
    (arrAt (after (.setcnt 0 false 1) (updCore 0 (fun x => { x with sreg := [(1, 7)] }) base)) 0 false).cnt = 7 := by decide +kernel
theorem test_seta_out_of_range : (arrAt (after (.seta 0 false 2 1) (updCore 0 (fun x => { x with sreg := [(1, 4194304)] }) base)) 0 false).a = [] ∧
    (arrAt (after (.seta 0 false 2 1) (updCore 0 (fun x => { x with sreg := [(1, 4194303)] }) base)) 0 false).a = [(2, 4194303)] ∧
    bit (getR (after (.setcnt 0 false 1) base) (mPg 0 false) R.HDR_FAULT) 11 = true := by decide +kernel
theorem test_bist : (after (.bist (Pg.mxa 0 0)) (set 1 [Pg.mxa 0 0] live)).bist = [Pg.mxa 0 0] ∧ (after (.bist (Pg.mxa 0 0)) live).bist = [] := by decide +kernel

/-- Array 0 of core 0 in INT8, and with the weight 3 at (0, 0), 5 at (1, 0) in its active plane and one source row 2, 1 at byte 0. -/
def int8 (drain : Bool) : State := setArr 0 false { arrAt base 0 false with mode := modeWord 4 4 0 false false drain 0 0 } base
def loaded : State :=
  updCore 0 (fun x => { x with spad := [(0, 2), (1, 1)] }) (setArr 0 false { arrAt (int8 false) 0 false with
    a := [(1, 0x1000)], p0 := { Plane.init with valid := true, wfmt := 4, wts := BitVec.ofNat 16384 (3 + 5 * 2 ^ 256) } } (int8 false))
theorem wit_sound_int8 : Sound Fuses.good (int8 false) ∧ Sound Fuses.good loaded := ⟨⟨rfl, by decide +kernel⟩, ⟨rfl, by decide +kernel⟩⟩
theorem wit_WeightLoadsFillTheShadowPlane : tileOk (int8 false) 0 (arrAt (int8 false) 0 false) 7 = true ∧ loadFrom (arrAt (int8 false) 0 false) true ≤ arrTime (arrAt (int8 false) 0 false) 0 ∧
    mSplit (arrAt (int8 false) 0 false).mode = false ∧ fmtMx (mWfmt (arrAt (int8 false) 0 false).mode) = false ∧
    tileOk (setArr 0 false { arrAt (int8 false) 0 false with a := [(7, 4194240)] } (int8 false)) 0 { arrAt (int8 false) 0 false with a := [(7, 4194240)] } 7 = false := by decide +kernel
/-- A load of the tile at byte 0 issued in cycle 0. -/
def ldJob : LoadJob := { plane := true, at_ := 0, split := false, wfmt := 4, bases := [(0, 0)], got := [([9], [])] }
def loading : State := setArr 0 false { arrAt (int8 false) 0 false with loads := [ldJob] } (int8 false)
theorem wit_load_cycles : (arrAt loading 0 false).loads = [ldJob] ∧ ldJob.split = false ∧ fmtMx ldJob.wfmt = false ∧ (coreAt loading 0).badGlz = [] ∧ ldJob.at_ < 1 ∧ 16 ≤ ldJob.at_ + 16 ∧ ldJob.at_ + 21 ≤ 21 := by decide +kernel
def loadsNine : State := after (.mLd 0 false 0) (updCore 0 (fun x => { x with spad := [(0, 9)] }) (int8 false))
theorem test_ld_fills_the_shadow_plane : (arrAt (steps 20 loadsNine) 0 false).p1.valid = false ∧ (arrAt (steps 21 loadsNine) 0 false).p1.valid = true ∧ (arrAt (steps 21 loadsNine) 0 false).p1.wts = 9 := by decide +kernel
theorem test_ld_misaligned : bit (getR (after (.mLd 0 false 7) (setArr 0 false { arrAt (int8 false) 0 false with a := [(7, 1)] } (int8 false))) (mPg 0 false) R.HDR_FAULT) 9 = true := by decide +kernel
theorem wit_StreamsAdvanceTheArray : streamCauses loaded 0 (arrAt loaded 0 false) false false false 0 1 0 1 = 0 ∧ streamCauses loaded 0 (arrAt loaded 0 false) true false false 0 1 0 1 = 2 ^ 10 ∧
    (arrAt loaded 0 false).feed ≤ 2 ∧ (planeOf (arrAt loaded 0 false) false).validAt ≤ 4 ∧ loadFrom (arrAt loaded 0 false) true ≤ arrTime (arrAt loaded 0 false) 0 := by decide +kernel
/-- A stream of one row from byte 0 to byte 0x1000, and its row of sums. -/
def stJob : StreamJob := streamJob (arrAt loaded 0 false) false false false 0 1 1 0
def stOut : StreamJob := { stJob with outs := [(0, [([.fin false 11 0], 0)])] }
theorem wit_stream_rows : stJob.halves = [(0, 0, 0x1000)] ∧ fmtMx (mIfmt stJob.mode) = false ∧ (coreAt loaded 0).badGlz = [] ∧ bit (arrAt loaded 0 false).fence 0 = false ∧
    bit ({ arrAt loaded 0 false with fence := 1 } : Arr).fence 0 = true ∧ (drainElems stOut.mode (arrAt loaded 0 false).gen [.fin false 11 0]).2.1 ||| 0 = 0 := by decide +kernel
theorem test_stream_enters_the_array : (arrAt (after (.stream 0 false false false false false 0 1 0 1) loaded) 0 false).strs.map (fun j => (j.n, j.at_)) = [(1, 0)] ∧
    bit (getR (after (.stream 0 false true false false false 0 1 0 1) loaded) (mPg 0 false) R.HDR_FAULT) 10 = true := by decide +kernel
-- 2 × 3 + 1 × 5 = 11 in column 0, INT32 little-endian at the destination
theorem test_stream_multiplies : (coreAt (steps 12 (after (.stream 0 false false false false false 0 1 0 1) loaded)) 0).pendSt.map (fun w => (w.addr, w.bytes.take 5)) = [(0x1000, [11, 0, 0, 0, 0])] := by decide +kernel

/-! ### The vector engine -/

/-- Core 8 (kind V) with registers v0, v1, v3 and masks. -/
def vecS (l : Tab (BitVec 8192)) (m : Tab (BitVec 512)) : State := setVec 8 { Vec.init with v := l, m := m } base
/-- The VR format with sources 0 and 1 and destination 2. -/
def vr (t : BitVec 3) (md c : BitVec 5) (m : BitVec 3) : VR := { d := 2, a := 0, b := 1, c := c, m := m, mz := false, t := t, md := md }
def vm (mode : BitVec 2) : VM := { r := 2, ar := 1, mode := mode, b := 0, m := 0, mz := false, t := 3, post := false }
/-- Element `e` of v2 eight cycles later and later still. -/
def v2 (i : Instr) (s : State) (t e : Nat) : Nat := getE (rdV (vecAt (after i s) 8) 2 60) t e
def m2 (i : Instr) (s : State) : Nat := (rdM (vecAt (after i s) 8) 2 60).toNat
/-- Cause bit `k` of the vector page. -/
def vBad (i : Instr) (s : State) (k : Nat) : Bool := bit (getR (after i s) (Pg.vec 8) R.HDR_FAULT) k

theorem wit_VectorArithmeticByElement : VIssues base 8 false ∧ VIssues base 0 true ∧ vrCauses 8 (vr 0 16 0 0) allTypes 16 false base = 0 ∧ vrCauses 8 (vr 5 0 1 0) floatTypes 16 true base = 0 ∧
    vrCauses 8 (vr 3 8 0 0) allTypes 8 false base = 0 ∧ vrCauses 8 (vr 5 0 0 0) allTypes 0 false base = 0 ∧ vrCauses 8 (vr 0 0 0 0) floatTypes 0 false base = 0 ∧
    vrCauses 0 (vr 5 0 0 0) allTypes 16 false base ≠ 0 :=
  ⟨⟨rfl, by decide, by decide +kernel, by decide +kernel⟩, ⟨rfl, by decide, by decide +kernel, by decide +kernel⟩, by decide +kernel⟩
-- 1.0 + 2.0 = 3.0, 1.5 - 2 = -0.5, 1.5 × 2 = 3; 7 + 0xFFFFFFFF wraps
theorem test_vadd : v2 (.vadd 8 (vr 0 0 0 0)) (vecS [(0, 0x3F800000), (1, 0x40000000)] []) 0 0 = 0x40400000 ∧ v2 (.vadd 8 (vr 3 0 0 0)) (vecS [(0, 7), (1, 0xFFFFFFFF)] []) 3 0 = 6 := by decide +kernel
theorem test_vsub_vmul : v2 (.vsub 8 (vr 0 0 0 0)) (vecS [(0, 0x3FC00000), (1, 0x40000000)] []) 0 0 = 0xBF000000 ∧ v2 (.vmul 8 (vr 0 0 0 0)) (vecS [(0, 0x3FC00000), (1, 0x40000000)] []) 0 0 = 0x40400000 ∧
    v2 (.vmul 8 (vr 4 0 0 0)) (vecS [(0, 0xFFFF), (1, 3)] []) 4 0 = 0xFFFD := by decide +kernel
-- a × b + c = 2 × 3 + 1, 2 × 3 - 1, 1 - 2 × 3
theorem test_vfma : v2 (.vfma 8 (vr 0 0 3 0)) (vecS [(0, 0x40000000), (1, 0x40400000), (3, 0x3F800000)] []) 0 0 = 0x40E00000 ∧
    v2 (.vfms 8 (vr 0 0 3 0)) (vecS [(0, 0x40000000), (1, 0x40400000), (3, 0x3F800000)] []) 0 0 = 0x40A00000 ∧
    v2 (.vfnma 8 (vr 0 0 3 0)) (vecS [(0, 0x40000000), (1, 0x40400000), (3, 0x3F800000)] []) 0 0 = 0xC0A00000 := by decide +kernel
theorem test_vmin_vmax : v2 (.vmin 8 (vr 3 0 0 0)) (vecS [(0, 0xFFFFFFFF), (1, 1)] []) 3 0 = 0xFFFFFFFF ∧ v2 (.vmax 8 (vr 3 0 0 0)) (vecS [(0, 0xFFFFFFFF), (1, 1)] []) 3 0 = 1 := by decide +kernel
theorem test_vabs_vneg : v2 (.vabs 8 (vr 3 0 0 0)) (vecS [(0, 0xFFFFFFFE)] []) 3 0 = 2 ∧ v2 (.vneg 8 (vr 0 0 0 0)) (vecS [(0, 0x3F800000)] []) 0 0 = 0xBF800000 := by decide +kernel
-- 2.5 rounds to even 2
theorem test_vrint : v2 (.vrint 8 (vr 0 0 0 0)) (vecS [(0, 0x40200000)] []) 0 0 = 0x40000000 ∧ vBad (.vrint 8 (vr 3 0 0 0)) base 9 = true := by decide +kernel
theorem wit_VectorLogicMasksAndConversions : vrCauses 8 (vr 3 0 0 0) intTypes 0 false base = 0 ∧ tOk base 8 allTypes 5 = true ∧ tOk base 0 allTypes 5 = false ∧ (vr 3 0 0 7).mz = false ∧
    fld (vr 3 6 4 0).md 0 3 ≠ 7 ∧ bit (vr 3 6 0 0).md 4 = false ∧ fld (vr 0 0 0 0).d 3 2 = 0 ∧ vcvtCauses 8 (vr 0 1 0 0) base = 0 ∧ vunpkCauses 8 (vr 0 7 0 0) base = 0 ∧ maskCauses (vr 0 0 0 0) base = 0 := by decide +kernel
theorem wit_VIssues_second : VIssues base 8 true := ⟨rfl, by decide, by decide +kernel, by decide +kernel⟩
theorem test_vlogic : v2 (.vand 8 (vr 3 0 0 0)) (vecS [(0, 12), (1, 10)] []) 3 0 = 8 ∧ v2 (.vor 8 (vr 3 0 0 0)) (vecS [(0, 12), (1, 10)] []) 3 0 = 14 ∧ v2 (.vxor 8 (vr 3 0 0 0)) (vecS [(0, 12), (1, 10)] []) 3 0 = 6 ∧
    v2 (.vmov 8 (vr 3 0 0 0)) (vecS [(0, 12 * 2 ^ 32)] []) 3 1 = 12 := by decide +kernel
theorem test_vshift : v2 (.vshl 8 (vr 3 0 0 0)) (vecS [(0, 1), (1, 33)] []) 3 0 = 2 ∧ v2 (.vshr 8 (vr 3 0 0 0)) (vecS [(0, 0x80000000), (1, 31)] []) 3 0 = 1 ∧
    v2 (.vsra 8 (vr 3 0 0 0)) (vecS [(0, 0x80000000), (1, 31)] []) 3 0 = 0xFFFFFFFF := by decide +kernel
-- the mask chooses a where its bit is 1
theorem test_vsel : v2 (.vsel 8 (vr 3 0 0 1)) (vecS [(0, 5 + 5 * 2 ^ 32), (1, 9 + 9 * 2 ^ 32)] [(1, 2)]) 3 0 = 9 ∧ v2 (.vsel 8 (vr 3 0 0 1)) (vecS [(0, 5 + 5 * 2 ^ 32), (1, 9 + 9 * 2 ^ 32)] [(1, 2)]) 3 1 = 5 := by decide +kernel
theorem test_vcmp_bad_field : vBad (.vcmp 8 (vr 3 7 0 0)) base 8 = true := by decide +kernel
theorem test_masks : m2 (.mand 8 (vr 0 0 0 0)) (vecS [] [(1, 6)]) = 6 ∧ m2 (.mandn 8 (vr 0 0 0 0)) (vecS [] [(1, 6)]) % 16 = 9 ∧ m2 (.mxor 8 (vr 0 0 0 0)) (vecS [] [(1, 6)]) % 16 = 9 ∧
    m2 (.mor 8 (vr 0 0 0 0)) (vecS [] [(1, 6)]) % 16 = 15 := by decide +kernel
theorem test_vcvt_vunpk : v2 (.vcvt 8 (vr 0 1 0 0)) (vecS [(0, 0x3F800000)] []) 1 0 = 0x3F80 := by decide +kernel
theorem test_vlis_vbcs : v2 (.vlis 8 2 0xFFFE 3) base 3 1 = 0xFFFFFFFE ∧ v2 (.vbcs 8 2 1 3) (updCore 8 (fun x => { x with sreg := [(1, 77)] }) base) 3 63 = 77 := by decide +kernel
theorem wit_VectorSecondSlotOperations : vmCauses 8 false (vm 0) base = 0 ∧ vmCauses 8 true (vm 0) base = 0 ∧ vmCauses 8 false (vm 3) base ≠ 0 ∧ vmCauses 8 true (vm 1) base ≠ 0 ∧
    vredCauses 8 (vr 3 0 0 0) base = 0 ∧ (vr 3 0 0 0).md = 0 ∧ (vr 3 0 0 0).c = 0 ∧ (vr 5 1 0 0).md.toNat &&& 30 = 0 ∧ sfuCauses 8 (vr 0 0 0 0) base = 0 ∧
    smxCauses 8 (vr 0 0 0 0) 2 false base = 0 ∧ smxCauses 8 (vr 0 0 0 0) 0 true base = 0 ∧ squashed (coreAt live 8) 3 = false ∧ runs live (Pg.vec 8) = false := by decide +kernel
theorem test_vld_vst : v2 (.vld 8 (vm 0)) (updCore 8 (fun x => { x with spad := [(4, 7)] }) base) 3 1 = 7 ∧ vBad (.vld 8 (vm 3)) base 8 = true ∧
    ((coreAt (after (.vst 8 (vm 0)) (vecS [(2, 0x1234)] [])) 8).pendSt.map (fun w => (w.addr, w.bytes.take 2, w.bytes.length))) = [(0, [0x34, 0x12], 1024)] := by decide +kernel
theorem test_vseta : (vecAt (after (.vsetai 8 3 0x80) base) 8).va = [(3, 0x80)] ∧ vBad (.vseta 8 3 1) (updCore 8 (fun x => { x with sreg := [(1, 4194304)] }) base) 10 = true := by decide +kernel
-- the five special functions at 0, 1, 1, 1 and 0
theorem test_special_functions : v2 (.exp2 8 (vr 0 0 0 0)) base 0 0 = 0x3F800000 ∧ v2 (.log2 8 (vr 0 0 0 0)) (vecS [(0, 0x3F800000)] []) 0 0 = 0 ∧ v2 (.rcp 8 (vr 0 0 0 0)) (vecS [(0, 0x40000000)] []) 0 0 = 0x3F000000 ∧
    v2 (.rsqrt 8 (vr 0 0 0 0)) (vecS [(0, 0x40800000)] []) 0 0 = 0x3F000000 ∧ v2 (.tanh 8 (vr 0 0 0 0)) base 0 0 = 0 := by decide +kernel
theorem test_mcnt_vexpd : v2 (.mcnt 8 (vr 3 0 0 1)) (vecS [] [(1, 0b10110)]) 3 0 = 3 ∧ v2 (.vexpd 8 (vr 3 0 0 1)) (vecS [(0, 5 + 6 * 2 ^ 32)] [(1, 4)]) 3 2 = 5 := by decide +kernel
theorem wit_VectorResultsReachTheirElements : (∀ w ∈ Vec.init.pend, w.file = 0 → w.idx = 2 → w.iss ≤ 2 * 0) ∧ [some 5, none].length * tWidth 3 ≤ 8192 ∧ (∀ v, some v ∈ [some 5, none] → v < 2 ^ tWidth 3) ∧
    (0 + 4 ≤ 4) ∧ (3 < 0 + 4) ∧ (3 ≠ 2) := ⟨by simp [Vec.init], by decide, by simp [tWidth], by decide, by decide, by decide⟩

/-! ### Descriptors and the gather engine -/

/-- A descriptor: 4 bytes from 0x100 to 0x200 of own addresses, `kind` in [159:156]; ARRIVE with barrier 17 where `arr`. -/
def desc (kind : Nat) (arr : Bool) : BitVec 256 := BitVec.ofNat 256 (0x100 + 0x200 * 2 ^ 64 + kind * 2 ^ 156 + 4 * 2 ^ 160 + (if arr then 2 ^ 149 + 17 * 2 ^ 141 else 0))
def queued (kind : Nat) : State := setMover 0 false { moverAt mem 0 false with queue := [⟨0, 0, desc kind false, 0, false, []⟩] } mem
def ending (arr : Bool) : State := setMover 0 false { moverAt base 0 false with jobs := [⟨0, 0, desc 0 arr, 0, false, []⟩] } (setCore 0 (coreAt base 0) bars)
/-- The FILL descriptor at byte 32 of core 0's scratchpad: kind 1, 4 bytes. -/
def xs : State := updCore 0 (fun x => { x with xa := [(1, 32)], spad := [(51, 0x10), (52, 4)] }) base
/-- A gather descriptor: rows of 128 bytes, FP32, one bag of one index, output 0. -/
def gdesc : BitVec 512 := BitVec.ofNat 512 (2 ^ 128 + 10 * 2 ^ 256 + 2 ^ 352 + 2 ^ 368)
def gat : State := setGth 9 { Gth.init with queue := [gdesc] } base
def bag (known : Bool) (next stop : Nat) : State :=
  setGth 9 { Gth.init with groups := [{ serial := 0, desc := gdesc, nextBag := 1, done := [], raised := 0, lines := [], awaiting := [], failed := [] }], threads := [(0, { GBag.init with known := known, next := next, stop := stop })], serial := 1 } base

theorem wit_DescriptorsAreQueuedAndPerformed : squashed (coreAt xs 0) (xUnit false) = false ∧ unitHolds (coreAt xs 0) (xUnit false) = false ∧ runs xs (Pg.mov 0) = true ∧ runs live (Pg.mov 0) = false ∧
    xaGet (coreAt xs 0) false 1 = 32 ∧ 32 + 32 * 1 ≤ sizeOfSite xs 0 ∧ (moverAt xs 0 false).queue.length + xrdCount (coreAt xs 0) false false 32 + 1 ≤ 16 ∧ opsFull xs 0 = false ∧
    ¬ (4 % 32 = 0) ∧ runsAs base 9 = some 2 ∧ runs base (Pg.mov 9) = true ∧ runs base (Pg.gth 9) = true ∧ (gthAt base 9).queue.length + xrdCount (coreAt base 9) true true 64 + 1 ≤ 8 ∧
    unitHolds (coreAt (holdOp 9 2 0 (.gq 9 false 0 false) base) 9) (xUnit true) = false ∧ (coreAt (holdOp 9 2 0 (.gq 9 false 0 false) base) 9).holds.any (fun h => decide (h.1 = 2) && isGq h.2.2) = true ∧
    ¬ ((List.replicate 16 (0 : Nat)).length + 0 + 1 ≤ 16) := by decide +kernel
/-- The read of the descriptor at byte 32, and the same with what it got. -/
def xr : XRead := { x := false, gq := false, ar := 1, post := false, addr := 32, len := 32, at_ := 0, got := [] }
def xgot (op : Nat) : XRead := { xr with got := bytesOf 32 (desc op false).toNat }
theorem wit_descriptor_reads : (coreAt (after (.xq 0 false 1 false) xs) 0).xrd = [xr] ∧ xr.at_ + 1 = 1 ∧ 0 < xr.len ∧ xr.addr % 128 + xr.len ≤ 128 ∧ (coreAt xs 0).badGlz = [] ∧
    moveDescOk xs 0 (BitVec.ofNat 256 (numOf (((xgot 1).got.drop 0).take 32))) = true ∧ moveDescOk xs 0 (BitVec.ofNat 256 (numOf (((xgot 9).got.drop 0).take 32))) = false ∧
    gatherDescOk base 9 (BitVec.ofNat 512 (numOf (bytesOf 64 gdesc.toNat))) = true := by decide +kernel
theorem wit_MoveEngines : (List.range 6).all (fun k => runs (queued k) (Pg.mov 0) && !descHeld (queued k) 0 ⟨0, 0, desc k false, 0, false, []⟩ && decide (dKind (desc k false) = k)) = true ∧
    dArrive (desc 0 false) = false ∧ dArrive (desc 0 true) = true ∧ dBar (desc 0 true) = 17 ∧ ptnOfSite (ending true) 0 = some 0 ∧ logicalAt (ending true) 0 = some 0 ∧ (moverAt (ending true) 0 false).jobs.length = 1 ∧
    draining (ending true) 0 = false ∧ draining (updPtn 0 (fun x => { x with phase := .draining }) (ending true)) 0 = true := by decide +kernel
theorem test_blocks_written_and_read : Tab.get 0 (writeBlock 0 (.movWrite 0 0 0) 0x200 [0, 1] mem).2.dram 0x201 = 1 ∧
    (readBlock 0 0x100 { mem with dram := [(0x102, 7)] }).1.map (fun r => r.1.take 3) = some [0, 0, 7] := by decide +kernel
theorem test_xq : (moverAt (stepCore 0 (after (.xq 0 false 1 false) xs)) 0 false).queue.map (fun d => (d.at_, dKind d.bits)) = [(32, 1)] ∧ xaGet (coreAt (after (.xq 0 false 1 true) xs) 0) false 1 = 64 ∧
    bit (getR (after (.xq 0 false 1 false) (updCore 0 (fun x => { x with xa := [(1, 4)] }) base)) (Pg.mov 0) R.HDR_FAULT) 9 = true := by decide +kernel
theorem test_xseta : xaGet (coreAt (after (.xsetai 0 true 3 2) base) 0) true 3 = 64 ∧ xaGet (coreAt (after (.xseta 0 false 3 1) (updCore 0 (fun x => { x with sreg := [(1, 96)] }) base)) 0) false 3 = 96 := by decide +kernel
theorem test_xqn_queues_n_plus_1 : (moverAt (steps 2 (after (.xqn 0 false 1 false 1) (updCore 0 (fun x => { x with xa := [(1, 0)], spad := [(19, 0x10), (20, 4), (51, 0x10), (52, 4)] }) base))) 0 false).queue.map (fun d => d.at_) = [0, 32] := by decide +kernel
theorem test_move_complete : (moverAt (after (.moveComplete 0 ⟨false, false⟩) (ending false)) 0 false).jobs = [] ∧ getR (after (.moveComplete 0 ⟨false, false⟩) (ending false)) (Pg.mov 0) R.MOV_DONE0 = 1 ∧
    (barAt (after (.moveComplete 0 ⟨false, false⟩) (ending true)) 17).who0 = [0] := by decide +kernel
theorem wit_GatherThreadsAndMigration : (gthAt gat 9).queue = [gdesc] ∧ runs gat (Pg.gth 9) = true ∧ (threadAt (bag true 0 1) 9 0).isSome = true ∧ (bagDesc (bag true 0 1) 9 { GBag.init with known := true, stop := 1 }).isSome = true ∧
    gOffsets gdesc = false ∧ GBag.init.waiting = [] ∧ GBag.init.err = none ∧ 10 % 11 = 10 ∧ bstate (set 1 [Pg.cor 10] live) (Pg.cor 10) = B.stopped ∧ fld 0x80000009#32 0 4 ≤ 9 ∧ bit 0x80000009#32 31 = true ∧
    bit (getR live (Pg.cor 10) R.COR_MIG_STATUS) 31 = false ∧ (coreAt (after (.corMigrate 10 0x80000009) (set 1 [Pg.cor 10] live)) 10).migrating = some 9 := by decide +kernel
theorem test_gather_descriptor : (gthAt (after (.gatherDescriptor 9) gat) 9).threads.map (fun t => (t.1, t.2.bag)) = [(0, 0)] ∧ (gthAt (after (.gatherDescriptor 9) gat) 9).queue = [] := by decide +kernel
theorem test_gather_row_bounds : ((threadAt (after (.gatherRow 9 0) (bag false 0 0)) 9 0).map (fun b => (b.known, b.next, b.stop))) = some (true, 0, 1) := by decide +kernel
theorem test_bag_complete : (gthAt (after (.bagComplete 9 0) (bag true 1 1)) 9).threads = [] ∧ getR (after (.bagComplete 9 0) (bag true 1 1)) (Pg.gth 9) R.GTH_BAGS = 1 := by decide +kernel
theorem test_migrate_copies : (coreAt (after (.migrateDone 10 0) (updCore 10 (fun x => { x with migrating := some 9 }) (updCore 9 (fun x => { x with spad := [(5, 6)] }) base))) 10).spad = [(5, 6)] := by decide +kernel

/-! ### The bulk network -/

/-- A flit of a type: source core 96, destination core 0, transaction 5, address `a`, all bytes enabled, data 0x11 with the Glaze that goes with it. -/
def fl (typ : BitVec 4) (a : BitVec 48) : Flit :=
  { typ := typ, status := 0, src := 8, dst := 0, txn := 5, ptn := 0, die := 0, addr := a, rtag := 3, rtype := false, last := true, tile := false,
    glaze := crc32c (glzSeed a.toNat) (bytesOf 128 0x11), data := 0x11, ben := BitVec.allOnes 128, ecc := 0, sdie := 0 }
/-- An operation of core 0's move engine waits for transaction 5; the same of die 7. -/
def opOf (die : Nat) : Op := { txn := 5, ep := 0, ptn := 0, die := die, addr := 0, kind := .movWrite 0 0 0, port := 0, noFill := false }
def opened (die : Nat) : State := setMover 0 false { moverAt base 0 false with jobs := [⟨0, 0, desc 0 false, 1, false, []⟩] } { base with ops := [opOf die] }

-- the check value of CRC-32C: the nine digits give 0xE3069283
theorem test_crc32c : crc32c 0 [0x31, 0x32, 0x33, 0x34, 0x35, 0x36, 0x37, 0x38, 0x39] = 0xE3069283 := by decide +kernel
theorem wit_NetworkResponsesEndOperations : opFind (opened 0) (fl 3 0) = some (opOf 0) ∧ (fl 3 0).status = 0 ∧ ({ fl 3 0 with status := 1 } : Flit).status ≠ 0 ∧ opFind base (fl 3 0) = none ∧ ownFlit base (fl 3 0) = true ∧
    ((opened 0).ops.find? (fun p => p.txn = (5#14).toNat ∧ p.die = dieNum (opened 0) ∧ !neverTimes p)) = some (opOf 0) ∧
    ((opened 7).ops.find? (fun p => p.txn = (5#14).toNat ∧ p.die ≠ dieNum (opened 7) ∧ !neverTimes p)) = some (opOf 7) := by decide +kernel
theorem test_wack_ends_the_operation : (after (.wack (fl 3 0)) (opened 0)).ops = [] ∧ ((moverAt (after (.wack (fl 3 0)) (opened 0)) 0 false).jobs.map (fun j => (j.left, j.bad))) = [(0, false)] ∧
    ((moverAt (after (.wack { fl 3 0 with status := 1 }) (opened 0)) 0 false).jobs.map (fun j => (j.left, j.bad))) = [(0, true)] := by decide +kernel
theorem test_late_response_is_counted : getR (after (.rdata (fl 2 0)) base) Pg.netb R.NETB_LATE = 1 ∧ getR (after (.rack (fl 7 0)) base) Pg.netb R.NETB_LATE = 1 := by decide +kernel
theorem test_time_outs : getR (after (.netbTxnTimeout 5) (opened 0)) Pg.netb R.NETB_TIMEOUTS = 1 ∧ (after (.netbTxnTimeout 5) (opened 0)).ops = [] ∧ (after (.txnTimeout 5) (opened 7)).ops = [] := by decide +kernel

/-- Logical core 0 is a target at site 0; core 96 in a state whose page is Retired is not. -/
def mc0 : Mcast := { ep := 8, txn := 5, grp := 1, mask := 1, missed := 0, dropped := 0, seen := [], held := [], last := none }
def holding : State := { base with mcasts := [{ mc0 with held := [(0, fl 4 0)], last := some (fl 4 0) }] }
def mcRep : State := setMover 0 false { moverAt base 0 false with jobs := [⟨0, 0, desc 3 false, 1, false, []⟩] } { base with ops := [{ opOf 0 with kind := .mcastRow 0 0 0 }] }
theorem wit_MulticastFlits : mcRow holding (mcKey (fl 4 0)) = holding.mcasts.head? ∧ (mcRow holding (mcKey (fl 4 0))).map (fun r => bit r.missed 0) = some false ∧
    (mcRow { base with mcasts := [{ mc0 with missed := 1 }] } (mcKey (fl 4 0))).map (fun r => bit r.missed 0) = some true ∧ 0 ≠ mcSrc ∧
    getF (setF Pg.netm R.NETM_MC_HOLD 0 16 5 base) Pg.netm R.NETM_MC_HOLD 0 16 ≠ 0 ∧ getF (setF Pg.netm R.NETM_MC_HOLD 0 16 0 base) Pg.netm R.NETM_MC_HOLD 0 16 = 0 ∧ bit (1#120) 0 = true ∧ bit (1#120) 1 = false ∧
    mcCount base 0 (fl 4 0) = 0 ∧ siteOf base 0 = some 0 ∧ (fl 4 0x2FFF80).addr.toNat / 128 * 128 + 128 ≤ sizeOfSite base 0 ∧ sizeOfSite base 0 < (fl 4 0x300000).addr.toNat / 128 * 128 + 128 := by decide +kernel
theorem wit_multicast_commands : bstate (set 2 [Pg.netb] base) Pg.netb = B.starting ∧ bstate (set 5 [Pg.netb] base) Pg.netb = B.faulted ∧ bstate base Pg.netb = B.running ∧ base.mcasts = [] ∧ (fl 4 0).ecc = 0 ∧
    holding.mcasts.filter (fun m => m.txn = (5#14).toNat) = holding.mcasts.take 1 ∧ ({ mc0 with held := [(0, fl 4 0)], last := some (fl 4 0) } : Mcast).held.find? (fun h => h.1 = 0) = some (0, fl 4 0) ∧
    (opFind mcRep (fl 5 0)).isSome = true ∧ ((moverAt mcRep 0 false).jobs.find? (fun d => d.serial = 0)).isSome = true ∧
    getF (setR Pg.netm R.NETM_SEL 255 base) Pg.netm R.NETM_SEL 0 8 = 255 ∧ getF base Pg.netm R.NETM_SEL 0 8 = 0 := by decide +kernel
theorem test_multicast_writes_its_target : Tab.get 0 (coreAt (after (.mc { fl 4 0x80 with rtag := 0x100 } 0) { base with netmMasks := [(1, 1)] }) 0).spad 0x80 = 0x11 ∧
    getR (after (.mc { fl 4 0x80 with rtag := 0x100 } 0) { base with netmMasks := [(1, 257)] }) Pg.netm R.NETM_MC_MISSED = 1 := by decide +kernel
theorem test_mask_commit : (after (.netmMaskCommit 0) { setR Pg.netm R.NETM_SEL 3 live with wbuf := [(regKey Pg.netm R.NETM_MASK0, 5)] }).netmMasks = [(3, 5)] := by decide +kernel
theorem test_mc_hold_expires : (after (.mcHoldExpire 5 0) holding).mcasts = [] ∧ getR (after (.mcHoldExpire 5 0) holding) Pg.netm R.NETM_MC_DROPS = 1 := by decide +kernel
theorem test_mcrep_stores_the_missed_bits : (moverAt (after (.mcrep (fl 5 0)) mcRep) 0 false).jobs.map (fun j => j.left) = [0] ∧ getR (after (.mcrep (fl 5 0)) mcRep) (Pg.mov 0) R.MOV_MC_MISSES = 1 := by decide +kernel

/-- The entry of tag 3: valid, BF16 or FP32 sums of cores 0 and 96 of partition 0. -/
def rent (valid : Bool) : BitVec 256 := BitVec.ofNat 256 (2 ^ 0 + 2 ^ 96 + (if valid then 2 ^ 135 else 0))
def tagged (valid : Bool) : State := { base with tagCache := [(3, rent valid)] }
def part (r : Nat) : Nat × Flit × Nat := (r, fl 6 0, 8)
def blk (l : List (Nat × Flit × Nat)) : RedBlk := { tag := 3, die := 0, addr := 0, ptn := 0, leaven := false, int := true, spine := 0, parts := l, mask := 3, counts := [0, 0, 0, 0] }
theorem wit_ReductionSum : (blk [part 0, part 1]).parts.Perm (blk [part 1, part 0]).parts ∧ ((blk [part 0, part 1]).parts.map (fun p => p.1)).Nodup := ⟨List.Perm.swap _ _ _, by decide⟩
-- INT32 sums: 0x11 + 0x11
theorem test_reduction_sum : redSum (blk [part 0, part 1]) % 2 ^ 64 = 0x22 := by decide +kernel
theorem wit_ReductionContributions : bstate (tagged true) Pg.netb = B.running ∧ bstate (set 2 [Pg.netb] base) Pg.netb = B.starting ∧ bstate (set 5 [Pg.netb] base) Pg.netb = B.faulted ∧ (tagged true).redWait = [] ∧
    rtabRead (fl 6 0).rtag.toNat (tagged true) = (some (rent true), tagged true) ∧ (fl 6 0).typ = 6 ∧ rtValid (rent true) = true ∧ rtValid (rent false) = false ∧ rtPtn (rent true) = 0 ∧ 0 ∉ (tagged true).redDead ∧
    redBad (tagged true) (rent true) (fl 6 0) 8 = false ∧ redBad (tagged true) (rent true) { fl 6 0 with ptn := 1 } 8 = true ∧ logicalAt (tagged true) (fl 6 0).src.toNat = some 96 ∧ (tagged true).reds = [] ∧
    (fl 6 0).glaze = crc32c (glzSeed (redAddr (fl 6 0))) (bytesOf 128 (fl 6 0).data.toNat) ∧ redFull { blk [(redRank 8 96 (fl 6 0).sdie.toNat, fl 6 0, 8)] with mask := rtMask (rent true) } = false ∧
    ((after (.red (fl 6 0)) (tagged true)).reds.find? (fun x => x.tag = 3 ∧ x.addr = redAddr (fl 6 0))).map (fun q => q.parts.any (fun y => y.1 = redRank 8 96 (fl 6 0).sdie.toNat)) = some true := by decide +kernel
theorem wit_256_blocks : 256 ≤ (({ tagged true with reds := List.replicate 256 (blk []) } : State).reds.filter (fun x => x.spine = spineOf (tagged true) 0 (redDst (tagged true) 0 0))).length := by decide +kernel
theorem test_red_opens_a_block : ((after (.red (fl 6 0)) (tagged true)).reds.map (fun b => (b.tag, b.parts.map (fun p => p.1)))) = [(3, [96])] ∧ (after (.red (fl 6 0)) (tagged false)).reds = [] ∧
    getR (after (.red (fl 6 0)) { tagged true with redDead := [0] }) Pg.netb R.NETB_RED_DISCARD = 1 := by decide +kernel

/-! ### The memory side -/

theorem wit_sound_mem : Sound Fuses.good mem := ⟨rfl, by decide +kernel⟩
theorem wit_HomedWriteStoresItsBytes : runs mem Pg.netb = true ∧ dieValid mem = false ∧ areaOf (fl 1 0x80).addr.toNat = .homed ∧ homeHolds mem 0x80 = none ∧
    (match homeOf mem 0x80 with | .ok h => decide (h.slice = 0 ∧ h.off = 0x80) && !lineBusy mem h.slice (h.off / 128) | .error _ => false) = true ∧ ringsInLine mem 0x80 = [] ∧ bigTile mem 0x80 = false ∧ glazeOk (fl 1 0x80) = true := by decide +kernel
theorem test_wr_stores : Tab.get 0 (after (.wr (fl 1 0x80)) mem).dram 0x80 = 0x11 ∧ (after (.wr { fl 1 0x80 with glaze := 0 }) mem).dram = [] := by decide +kernel
theorem wit_WindowWriteThenRead : areaOf (fl 1 0xE00000000080).addr.toNat = .spad ∧ windowSite base 0xE00000000080 128 = some 0 ∧ bstate base (Pg.cor 0) ≠ B.starting ∧ (coreAt base 0).pendSt = [] ∧
    areaOf 0xE00002000000 = .spad ∧ windowSite base 0xE00002000000 128 = none := by decide +kernel
theorem wit_sound_base : Sound Fuses.good base := ⟨rfl, by decide +kernel⟩
theorem test_window_write : Tab.get 0 (coreAt (after (.wr (fl 1 0xE00000000080)) base) 0).spad 0x80 = 0x11 := by decide +kernel

/-- A read of line 1 waits at slice 0 for its stack; the same line cached; an invalidation of line 1 awaits ring position 0. -/
def waiting : State := setSlice 0 { sliceAt mem 0 with waits := [.stackRead (fl 0 0x80) 1] } mem
theorem wit_SliceReadsAndCoherence : (fl 0 0x80).typ = 0 ∧ ownFlit mem (fl 0 0x80) = true ∧ (homeHit 0 0x80 (slcServed 0 mem)).1 = false ∧ (takeStackRead 0 waiting).1 = some (fl 0 0x80, 1) ∧
    inPackage (setR Pg.glb R.GLB_PKG 0x20 (setR Pg.glb R.GLB_DIE_NUM 0x80000000 mem)) (fl 10 0x80).sdie.toNat = true := by decide +kernel
theorem test_rd_misses_and_waits : (sliceAt (after (.rd (fl 0 0x80)) mem) 0).waits = [.stackRead (fl 0 0x80) 1] ∧ (sliceAt (after (.stackTimeout 0) waiting) 0).waits = [] := by decide +kernel
theorem test_stack_response_answers : (sliceAt (after (.stackRdResponse 0 0) waiting) 0).waits = [] ∧ (after (.stackRdResponse 0 0) waiting).outbox.length = 1 ∧
    getR (after (.stackRdResponse 0 5) waiting) (Pg.med 0) R.MED_UE = 1 := by decide +kernel

/-- Slice 0 accepts gradients of 4 groups; the flit's address names block 0, group 0. -/
def grads : State := setF (Pg.lvn 0) R.LVN_GROUPS 0 13 4 (setR (Pg.lvn 0) R.LVN_STAGE_WAYS 1 mem)
def recOf (done : Bool) : LvnRec := { blk := 0, line := 0, group := 0, data := 0x11, glaze := crc32c 0 (bytesOf 128 0x11), origins := [(0, 0, 0, done)] }
def batched : State := setSlice 0 { sliceAt grads 0 with batches := [{ at_ := 0, recs := [recOf true] }] } grads
def lvnHeld : State := setSlice 0 { sliceAt grads 0 with lvnQueue := [({ fl 8 0 with typ := 8 }, [(0, 0)])] } grads
theorem wit_Leaven : runs grads (Pg.lvn 0) = true ∧ lvnBlk (fl 8 0) = 0 ∧ lvnGroup (fl 8 0) < getF grads (Pg.lvn 0) R.LVN_GROUPS 0 13 ∧ lvnGroup (fl 8 0x40) = 4 ∧
    ((fl 8 0).glaze == crc32c (glzSeed (lvnBlk (fl 8 0))) (bytesOf 128 (fl 8 0).data.toNat)) = true ∧ lvnRoom grads 0 = true ∧ lvnRoom (setR (Pg.lvn 0) R.LVN_STAGED 8192 grads) 0 = false ∧
    (sliceAt grads 0).lvnQueue = [] ∧ (sliceAt lvnHeld 0).lvnQueue.length = 1 ∧ (sliceAt batched 0).batches.length = 1 ∧ bstate (set 2 [Pg.netb] grads) Pg.netb = B.starting ∧ bstate lvnHeld Pg.netb ≠ B.starting ∧
    (match homeOf (set 2 [Pg.netb] grads) 0 with | .ok h => decide (h.slice = 0) | .error _ => false) = true := by decide +kernel
theorem test_lvn_stages : ((sliceAt (after (.lvn (fl 8 0) [(0, 0)]) grads) 0).lvnRecs.length, (sliceAt (after (.lvn (fl 8 0x40) [(0, 0)]) grads) 0).lvnRecs.length) = (1, 0) ∧
    (sliceAt (after (.lvnQueueStage 0) lvnHeld) 0).lvnRecs.length = 1 := by decide +kernel
theorem test_notices : (sliceAt (after (.lvnCommit 0 0 4) (setSlice 0 { sliceAt grads 0 with lvnRecs := [recOf false] } grads)) 0).batches.length = 1 ∧
    (sliceAt (after (.lvnDiscard 0 0 4) (setSlice 0 { sliceAt grads 0 with lvnRecs := [recOf false] } grads)) 0).lvnRecs = [] ∧ (sliceAt (after (.batchApply 0) batched) 0).batches = [] := by decide +kernel

/-! ### Rings -/

/-- Descriptor of ring 1 at byte 64: base 0x20000, order 4, partition 1, a type; the die is valid. -/
def rings (typ : Nat) (recv en : Bool) : State :=
  let s := setR Pg.glb R.GLB_PKG 0x20 (setR Pg.glb R.GLB_DIE_NUM 0x80000000 (set 1 [Pg.ptn 1] (on [Pg.dbl 0] mem)))
  let s := { s with dram := [(66, 2), (74, 0x24), (75, BitVec.ofNat 8 (0x80 + 16 * typ + (if recv then 8 else 0))), (92, 5)] }
  if en then setRingBit 1 true s else s
/-- A MSG ring with one entry to send or to receive. -/
def msgR (recv : Bool) : State := { rings 3 recv true with msgRings := [{ ring := 1, peer := (5, 0), credits := 1, next := 0, stopped := false }] }
/-- The producer index of its descriptor is 1. -/
def toSend : State := { msgR false with dram := [(66, 2), (74, 0x24), (75, 0xB0), (80, 1), (92, 5)] }

theorem wit_RingsAndDoorbells : ringEnabled (rings 0 false false) 1 = false ∧ ringOk (rings 0 false false) 1 = true ∧ (ringDesc (rings 0 false false) 1).typ ≠ 3 ∧ ringOk mem 1 = false ∧ ringEnabled (rings 0 false true) 1 = true ∧
    (rings 0 false true).msgRings = [] ∧ runs (rings 0 false true) (dblPage 1) = true ∧ hostOwns (ringDesc (rings 0 false true) 1) true = true ∧ hostOwns (ringDesc (rings 1 false true) 1) false = true ∧
    (runs (rings 1 false true) (dblPage 1) && ringEnabled (rings 1 false true) 1 && hostOwns (ringDesc (rings 1 false true) 1) true) = false ∧
    (ringDesc toSend 1).typ = 3 ∧ (ringDesc toSend 1).dir = false ∧ (msgRing toSend 1).isSome = true ∧ (ringDesc toSend 1).prod = 1 ∧ (ringDesc (msgR true) 1).dir = true ∧ (ringDesc (msgR true) 1).peerDie = (5#12).toNat ∧
    ringHeld (rings 0 false true) (ringDesc (rings 0 false true) 1) = false ∧ ringHeld (on [Pg.ptn 1] (rings 0 false true)) (ringDesc (on [Pg.ptn 1] (rings 0 false true)) 1) = true ∧
    stageFull (rings 0 false true) { ring := 1, host := true, prod := true, val := 1 } = false := by decide +kernel
theorem test_ring_enable : ringEnabled (after (.ringEnable 1) (rings 0 false false)) 1 = true ∧ ringEnabled (after (.ringEnable 1) mem) 1 = false ∧ ringEnabled (after (.ringDisable 1) (rings 0 false true)) 1 = false := by decide +kernel
theorem test_doorbells : (ringDesc (after (.dblProd 1 3) (rings 0 false true)) 1).prod = 3 ∧ (ringDesc (after (.dblCons 1 0) (rings 1 false true)) 1).cons = 0 ∧
    (ringDesc (after (.dblProd 1 3) (rings 1 false true)) 1).prod = 0 := by decide +kernel
theorem test_msg_send : (msgRing (after (.msgSend 1) toSend) 1).map (fun m => (m.credits, m.next)) = some (0, 1) ∧ (msgRing (after (.msgCredit 1 2 false) toSend) 1).map (fun m => m.credits) = some 3 := by decide +kernel
theorem test_msg_receive : (ringDesc (after (.ring 1 5 0 7) (msgR true)) 1).prod = 1 ∧ (msgRing (after (.ring 1 5 0 7) (msgR true)) 1).map (fun m => m.next) = some 1 ∧
    (ringDesc (after (.msgAck 1 0) toSend) 1).cons = 1 := by decide +kernel
/-- The staging store is full of updates of ring 9. -/
def fullStore : State := { on [Pg.ptn 1] (msgR true) with ringStage := List.replicate 2048 ⟨9, true, true, 0⟩ }
theorem wit_full_store : (ringHeld fullStore (ringDesc fullStore 1) && stageFull fullStore { ring := 1, host := true, prod := true, val := 1 }) = true := by decide +kernel

/-! ### The medium controllers and the keep -/

def peerMed : State := on [Pg.slc 8, Pg.med 8] mem
def row8 (i : Nat) : PeerRow := { slice := i, bank := 2, row := 3, spare := 4 }
theorem wit_RefreshTakeover : portOfSlice peerMed 0 = some 0 ∧ portOfSlice peerMed 8 = some 8 ∧ medLives peerMed 0 = true ∧ medRole peerMed 0 = 0 ∧ medRole peerMed 8 = 1 ∧
    medRole (updSlice 8 (fun x => { x with acting := true }) peerMed) 8 = 2 ∧ medLives (set 6 [Pg.med 0] peerMed) 0 = false ∧ (sliceAt (updSlice 0 (fun x => { x with refreshing := true, waitMgr := true }) peerMed) 0).waitMgr = true ∧
    (sliceAt (updSlice 8 (fun x => { x with armed := true }) peerMed) 8).armed = true ∧ (row8 0).slice = 0 := by decide +kernel
theorem wit_Temperature : (95 : Int) * 16 < (1521#16).toInt ∧ 92 * 16 < (1520#16).toInt ∧ (1520#16).toInt ≤ 95 * 16 ∧ (1472#16).toInt ≤ 92 * 16 ∧ (sliceAt peerMed 0).hotSent = false ∧ Sound Fuses.good peerMed :=
  ⟨by decide, by decide, by decide, by decide, by decide +kernel, rfl, by decide +kernel⟩
theorem test_temp : (sliceAt (after (.temp 0 1521) peerMed) 0).hotSent = true ∧ (sliceAt (after (.temp 0 1520) peerMed) 0).hotSent = false ∧ getR (after (.temp 0 0x4F0) peerMed) (Pg.med 0) R.MED_TEMP = 0x800004F0 := by decide +kernel
theorem test_refresh : (after (.refresh 0) (updSlice 0 (fun x => { x with refreshing := true }) peerMed)).outbox = [.stack 0 8 0 0] ∧ (after (.refresh 0) peerMed).outbox = [] ∧
    (sliceAt (after (.refNotice 8) peerMed) 8).armed = true := by decide +kernel
theorem test_takeover : (sliceAt (after (.portDown 8) peerMed) 8).acting = true ∧ (sliceAt (after (.refWatch 8) peerMed) 8).acting = false ∧
    (sliceAt (after (.refWatch 8) (updSlice 8 (fun x => { x with armed := true }) peerMed)) 8).acting = true ∧ (sliceAt (after (.release 0 9) peerMed) 0).refreshing = true := by decide +kernel
theorem test_trr_and_status : (after (.trrReq (row8 0)) peerMed).outbox = [.stack 0 9 2 3] ∧ (after (.statStatus 0 5) peerMed).outbox = [] := by decide +kernel

/-- Slice 0 waits for a stack read of line 1; the line holds an uncorrectable error where `ue`; patrol is on where `scrub`. -/
def reading (ue : Bool) : State := let s := setSlice 0 { sliceAt peerMed 0 with waits := [.stackRead (fl 0 0x80) 1] } peerMed; if ue then { s with ueLines := [1] } else s
def scrubOn : State := setR (Pg.med 0) R.MED_SCRUB 0x80000000 peerMed
def remapping8 (i : Nat) : State := setSlice i { sliceAt peerMed i with remapping := some (row8 i) } peerMed
theorem wit_LinesComeBack : (takeStackRead 0 (reading false)).1 = some (fl 0 0x80, 1) ∧ isUe (takeStackRead 0 (reading false)).2 0x80 = false ∧ isUe (takeStackRead 0 (reading true)).2 0x80 = true ∧
    4 < 5 ∧ 12 ≤ 12 ∧ bit (getR (setR (Pg.med 0) R.MED_SCRUB 0 peerMed) (Pg.med 0) R.MED_SCRUB) 31 = false ∧ bit (getR scrubOn (Pg.med 0) R.MED_SCRUB) 31 = true ∧ sideB 0 = false ∧
    (sliceAt scrubOn 0).scrubAddr < getF scrubOn (Pg.slc 0) R.SLC_HOME 0 8 * 2 ^ 29 ∧ isUe scrubOn (chanKey 0 0) = false ∧ (0 + 128) % 2 ^ 34 ≠ 0 ∧ medRole peerMed 8 = 1 ∧
    (sliceAt (remapping8 0) 0).remapping = some (row8 0) ∧ (sliceAt peerMed 8).waits = [] := by decide +kernel
theorem test_scrub : getR (after (.patrolScrub 0 0) (setSlice 0 { sliceAt scrubOn 0 with scrubAddr := 1920 } scrubOn)) (Pg.med 0) R.MED_SCRUB_POS = 1 ∧ (after (.scrubFix 8 5) peerMed).outbox.length = 4 ∧ (after (.scrubFix 0 5) peerMed).outbox = [] := by decide +kernel
theorem test_uncorrectable : (after (.stackRdResponse 0 5) (reading false)).ueLines = [1] ∧ (after (.stackRdResponse 0 4) (reading false)).ueLines = [] ∧ getR (after (.stackRdResponse 0 0) (reading true)) (Pg.med 0) R.MED_UE = 1 := by decide +kernel
theorem test_row_reports : (sliceAt (after (.rowReport 0 5 true) peerMed) 0).remapping.isSome = true ∧ (sliceAt (after (.rowReport 8 5 true) peerMed) 8).remapping = none := by decide +kernel
theorem test_remap : (sliceAt (after (.remapDone (row8 8)) (remapping8 8)) 8).remap.map (fun e => e.2) = [4] ∧ (sliceAt (after (.remapBegin (row8 8)) peerMed) 8).remapping = some (row8 8) ∧
    (sliceAt (after (.remapAck (row8 0) 0) (remapping8 0)) 0).remapping = none := by decide +kernel

/-- A keep of one page set up at slice 0. -/
def keeps : State := setF (Pg.med 0) R.MED_KEEP_COUNT 0 18 1 peerMed
def kx (left : Nat) : State := setSlice 0 { sliceAt keeps 0 with keep := some { load := false, page := 0, blk := 0, left := left, errs := 0, stop := false }, keepOps := [] } keeps
def krec : KeepRec := { data := [], glz := [], addr := 0, big := false }
theorem wit_KeepTransfers : runs keeps (Pg.med 0) = true ∧ getF keeps (Pg.med 0) R.MED_KEEP_COUNT 0 18 ≠ 0 ∧ getF keeps (Pg.med 0) R.MED_KEEP_DRAM 0 22 + 1 ≤ getF keeps (Pg.slc 0) R.SLC_HOME 0 8 * 131072 ∧
    getF keeps (Pg.med 0) R.MED_KEEP_BLOCK 0 18 + 1 ≤ 196608 ∧ bit (getR keeps (Pg.med 0) R.MED_KEEP_STATUS) 31 = false ∧ bit (getR (setR (Pg.med 0) R.MED_KEEP_STATUS 0x80000000 keeps) (Pg.med 0) R.MED_KEEP_STATUS) 31 = true ∧
    getF peerMed (Pg.med 0) R.MED_KEEP_COUNT 0 18 = 0 ∧ (keepTake 0 false (updSlice 0 (fun x => { x with keepOps := [⟨.own, 0, none⟩] }) keeps)).1 = some ⟨.own, 0, none⟩ ∧
    (keepTake 0 true (updSlice 0 (fun x => { x with keepOps := [⟨.own, 0, some krec⟩] }) keeps)).1 = some ⟨.own, 0, some krec⟩ ∧ (keepTake 0 false keeps).1 = none ∧ (sliceAt (kx 0) 0).keep.isSome = true ∧
    (sliceAt (kx 0) 0).keepOps = [] ∧ runs live (Pg.med 0) = false ∧ (poolAt keeps (stackOf 0)).age = [] := by decide +kernel
theorem test_keep_save_begins : (sliceAt (after (.keepSave 0) keeps) 0).keep.isSome = true ∧ getF (after (.keepSave 0) peerMed) (Pg.med 0) R.MED_KEEP_STATUS 27 4 = 10 ∧
    (sliceAt (after (.keepLoad 0) keeps) 0).keepOps.map (fun o => o.blk) = [0] := by decide +kernel
theorem test_keep_ends : (sliceAt (after (.keepTransferDone 0) (kx 0)) 0).keep = none ∧ (sliceAt (after (.keepTransferDone 0) (kx 1)) 0).keep.isSome = true := by decide +kernel

/-! ### The links -/

/-- Port `p` is UP; group 4 (IO) has port 32 in service with version 2. -/
def up (p : Nat) (s : State) : State := setLstate p LS.up (on [Pg.lnk p] s)
def io : State := setR (Pg.lkg 4) R.LKG_STATUS 1 (setF (Pg.lkg 4) R.LKG_FAR 14 2 2 (up 32 (on [Pg.lkg 4] base)))
def buffered : State := setPort 32 { portAt io 32 with buf := [(0, 0, 1)], tx := 1 } io
theorem wit_sound_io : Sound Fuses.good io := ⟨rfl, by decide +kernel⟩
theorem wit_FramesAreTaken : portHears base 32 = false ∧ portHears io 32 = true ∧ (fr 0 0).nak = false ∧ (portAt io 32).queue = [] ∧ (grpAt io (groupOf 32)).drain = false ∧ (fr 1 1).seq.toNat ≠ (portAt io 32).rx ∧
    (fr 1 0).seq.toNat = (portAt io 32).rx ∧ (portAt io 32).copy = none ∧ groupOf 32 ≠ G.off ∧ groupSize (groupOf 32) = 4 ∧ (fr 4 0).hport.toNat < 4 ∧
    (fr 4 0).hseq.toNat = (portAt (release1 32 0 (wrapR (Pg.lst 32) R.LST_FRAMES_RX 1 (setPort 32 { portAt io 32 with rx := 1, nak := false, copy := none } io))) 33).hseq := by decide +kernel
theorem wit_FrameKinds : frameBad (fr 0 0).bits = false ∧ frameBad (fr 4 0).bits = false ∧ frameBad (fr 5 0).bits = true ∧ frameBad 0 = true ∧ frameKind (fr 2 0).bits = 2 ∧ frameKind (fr 3 0).bits = 3 ∧
    (frame 2 0 0 (3 * 2 ^ 56)).ctrlOp = 3 ∧ (frame 3 0 0 1).idRec 9 ≠ none ∧ (frame 3 0 0 2).idRec 9 = none ∧ groupOf 36 = G.off ∧ (List.replicate 8 (0#640)).length = 8 ∧
    (portAt (after (.failedCrcFrame 32 ((fr 1 0).bits ^^^ 2 ^ 600) []) io) 32).copy = some ((fr 1 0).bits ^^^ 2 ^ 600) := by decide +kernel
-- the check value of CRC-32: the nine digits give 0xCBF43926
theorem test_crc32 : crc32 [0x31, 0x32, 0x33, 0x34, 0x35, 0x36, 0x37, 0x38, 0x39] = 0xCBF43926 := by decide +kernel
-- bytes j and j + 16 share a position at full width, j and j + 8 at half width; lane 3 is blamed where byte 3 was wrong
theorem test_positions : bytePos none 35 = 3 ∧ bytePos (some 1) 35 = 11 ∧ diffPositions none 0 (2 ^ 24) = [3] ∧ diffPositions (some 0) 0 (2 ^ (8 * 15)) = [7] := by decide +kernel
theorem test_a_failed_copy_blames_its_lane : getR (after (.data 32 (fr 1 0)) (after (.failedCrcFrame 32 ((fr 1 0).bits ^^^ 2 ^ 24) []) io)) (Pg.lst 32) (R.LST_LANE_ERR0 + 12) = 0x00010001 ∧
    (portAt (after (.data 32 (fr 1 0)) (after (.failedCrcFrame 32 ((fr 1 0).bits ^^^ 2 ^ 24) []) io)) 32).nak = false := by decide +kernel
theorem test_data_frame : (portAt (after (.data 32 (fr 1 0)) io) 32).rx = 1 ∧ (portAt (after (.data 32 (fr 1 1)) io) 32).rx = 0 ∧ getR (after (.data 32 (fr 1 0)) io) (Pg.lst 32) R.LST_FRAMES_RX = 1 ∧
    getR (after (.data 32 ⟨(fr 1 0).bits ^^^ 1, []⟩) io) (Pg.lst 32) R.LST_CRC_ERRS = 1 := by decide +kernel
theorem test_idle_frees_the_buffer : (portAt (after (.idle 32 (frame 0 0 1 0)) buffered) 32).buf = [] ∧ (portAt (after (.idle 32 (fr 0 0)) buffered) 32).buf.length = 1 ∧ (portAt (after (.idle 32 (fr 0 0)) io) 32).credit = [128, 131, 128, 128] := by decide +kernel
/-- A write of line 1 whose frames (one of ACT, three of WR) on memory port 0 are not acknowledged yet. -/
def wrote : State := up 0 (after (.wr (fl 1 0x80)) mem)
theorem wit_StackWrites : portOfSlice wrote 0 = some 0 ∧ sliceOfPort wrote 0 = some 0 ∧ groupOf 0 < 4 ∧ (sliceAt wrote 0).waits = [.stackWrite (fl 1 0x80) 1 4] ∧ (portAt wrote 0).memAck < 4 ∧
    4 ≤ (portAt (updPort 0 (fun x => { x with memAck := 4 }) wrote) 0).memAck ∧ sliceOfPort io 32 = none := by decide +kernel
theorem test_write_waits_for_its_frame : (sliceAt (after (.idle 0 (frame 0 0 3 0)) (setPort 0 { portAt wrote 0 with buf := [(0, 0, 1), (1, 0, 1), (2, 0, 1), (3, 0, 1)], queue := [], tx := 4 } wrote)) 0).waits.length = 1 ∧
    (sliceAt (after (.idle 0 (frame 0 0 4 0)) (setPort 0 { portAt wrote 0 with buf := [(0, 0, 1), (1, 0, 1), (2, 0, 1), (3, 0, 1)], queue := [], tx := 4 } wrote)) 0).waits = [] := by decide +kernel
theorem test_failed_frame : (portAt (after (.failedCrcFrame 32 ((fr 1 0).bits) []) io) 32).nak = true ∧ (portAt (after (.failedCrcFrame 32 ((fr 0 0).bits) []) io) 32).nak = false ∧ getR (after (.failedCrcFrame 32 (0) []) io) (Pg.lst 32) R.LST_CRC_ERRS = 1 := by decide +kernel
theorem test_hovr : (portAt (after (.hovr 32 (fr 4 0)) io) 33).hseq = 1 ∧ (portAt (after (ctrlRow 32 (fr 2 0)) io) 32).rx = 1 ∧ (portAt (after (ctrlRow 32 (frame 2 0 0 (7 * 2 ^ 56))) io) 32).rx = 1 := by decide +kernel

theorem wit_LanesDegrade : portLive io 32 = true ∧ (0x1F#8).toNat / 16 < 2 ∧ 2 ≤ (0x20#8).toNat / 16 ∧ stageOf io 32 true = 0 ∧ stageOf (setF (Pg.lnk 32) R.LNK_STATUS 23 3 3 io) 32 true = 3 ∧ (15#8).toNat < 16 ∧
    bit (getR (setR (Pg.lnk 32) R.LNK_TX_FAILED 0x8000 io) (Pg.lnk 32) R.LNK_TX_FAILED) (laneOf io 32 true 15) = true ∧ 16 ≤ (16#8).toNat ∧ bit (getR (setR (Pg.lnk 32) R.LNK_RX_FAILED 0x20000 io) (Pg.lnk 32) R.LNK_RX_FAILED) 17 = true ∧
    portHears io 32 = true ∧ bit (getR io (Pg.lnk 32) R.LNK_RX_FAILED) 17 = false ∧ stageOf (setF (Pg.lnk 32) R.LNK_STATUS 26 3 4 io) 32 false = 4 := by decide +kernel
/-- Lane `l` of the transmit side is marked failed, and both spares where `all`; the next stage. -/
def lost (all : Bool) (l : Nat) : State := stageTo 32 true 1 l (setR (Pg.lnk 32) R.LNK_TX_FAILED (BitVec.ofNat 32 (2 ^ l + if all then 0x30000 else 0)) io)
theorem wit_spares_and_positions : bit (getR io (Pg.lnk 32) R.LNK_TX_FAILED) (laneOf io 32 true 15) = false ∧ freeSpare (lost false 15) 32 true = some 0 ∧ freeSpare (lost true 15) 32 true = none ∧
    stageOf io 32 false = 0 ∧ posOf io 32 false 3 = some 3 ∧ posOf io 32 false 17 = none ∧ stageOf (setF (Pg.lnk 32) R.LNK_STATUS 26 3 2 io) 32 false = 2 := by decide +kernel
theorem test_lane_loss_asks_for_a_swap : getR (after (.laneLockLoss 32 3) io) (Pg.lnk 32) R.LNK_RX_FAILED = 8 ∧ stageOf (after (.laneLockLoss 32 3) io) 32 false = 1 := by decide +kernel
theorem test_swap_and_half : spareOf (after (.swap 32 0x13 0) io) 32 false 3 = some 1 ∧ getF (after (.half 32 1 0) io) (Pg.lnk 32) R.LNK_STATUS 21 1 = 1 ∧ stageOf (after (.halfreq 32 1) io) 32 true = 3 ∧
    stageOf (after (.swapreq 32 3) io) 32 true = 1 := by decide +kernel
theorem test_lane_window : getF (after (.laneWindow 32) (setR (Pg.lst 32) (R.LST_LANE_ERR0 + 68) 0x50007 io)) (Pg.lst 32) (R.LST_LANE_ERR0 + 68) 16 16 = 0 ∧
    getF (after (.laneWindow 32) (setR (Pg.lst 32) (R.LST_LANE_ERR0 + 68) 0x50007 io)) (Pg.lst 32) (R.LST_LANE_ERR0 + 68) 0 16 = 7 := by decide +kernel

def remap : State := setGrp 4 { grpAt io 4 with remap := [(33, false)] } (up 33 io)
def drain4 : State := setGrp 4 { grpAt buffered 4 with drain := true } buffered
theorem wit_PortsLeave : (portAt io 32).buf = [] ∧ (portAt buffered 32).buf = [(0, 0, 1)] ∧ (2#32).toNat % 2 = 0 ∧ (3#32).toNat % 2 = 1 ∧ runs io (Pg.lnk 32) = true ∧ lstate io 32 ≠ LS.train ∧
    groupSize (groupOf 32) ≤ (4#8).toNat ∧ (3#8).toNat < groupSize (groupOf 32) ∧ groupFirst (groupOf 32) + 0 = 32 ∧ 4 ≤ groupOf 32 ∧ (grpAt remap (groupOf 32)).remap.contains (33, false) = true ∧
    portLive remap 33 = true ∧ portLive (set 6 [Pg.lnk 33] base) 33 = false ∧ runs (setLstate 33 LS.offline remap) (Pg.lnk 33) = true ∧ lstate (setLstate 33 LS.offline remap) 33 = LS.offline ∧ lstate remap 33 = LS.up ∧
    runs io (Pg.lnk 33) = false ∧ (grpAt io 4).remap = [] ∧ (grpAt remap 4).remap ≠ [] ∧ (portsIn buffered 4) = [32] ∧ portHears remap 33 = true ∧ (portsIn remap (groupOf 33)).contains 33 = false ∧ lstate base 32 < LS.id ∧
    (grpAt io 4).drain = false ∧ (grpAt drain4 4).drain = true := by decide +kernel
theorem wit_remaps_resume : (grpAt remap 4).remap = [(33, false)] ∧ (grpAt (setGrp 4 { grpAt remap 4 with remap := [(33, true)] } remap) 4).remap = [(33, true)] ∧
    (portsIn remap 4).all (fun k => decide ((portAt remap k).buf = []) && (portAt remap k).queue.all (fun w => decide (w < 8))) = true ∧ portsIn remap 4 ≠ [] := by decide +kernel
theorem test_retrain : (portAt (after (.retrain 32 3) io) 32).retraining = true ∧ getR (after (.retrain 32 2) io) (Pg.lnk 32) R.LNK_RETRAINS = 0 := by decide +kernel
theorem test_ack_timeout_resends : (portAt (after (.ackTimeout 32) buffered) 32).buf = [(0, 0, 2)] ∧ (after (.ackTimeout 32) buffered).outbox = [.resend 32 [0]] := by decide +kernel
theorem test_link_down : lstate (after (.linkDown 33) remap) 33 = LS.down ∧ (portAt (after (.linkDown 33) remap) 33).failSince = some 0 := by decide +kernel
theorem test_drain_loss : getR (after (.drainTimeout 4) drain4) (Pg.lkg 4) R.LKG_DRAIN_LOST = 1 ∧ (portAt (after (.drainTimeout 4) drain4) 32).buf = [] := by decide +kernel
theorem test_offline_online : (portAt (after (.offline 32 1) remap) 33).farOff = true ∧ (portAt (after (.online 32 1) (updPort 33 (fun x => { x with farOff := true }) remap)) 33).farOff = false := by decide +kernel

def idr (v : BitVec 8) : IdRec := { kind := 0, versions := v, valid := false, die := 0, portByte := 0, group := 4, base := 0, count := 0, pos := 0, txTime := 0, echo := 0, echoHold := 0, rxTime := 0, uid := 0 }
def training : State := setLstate 32 LS.train (on [Pg.lnk 32] base)
def dieSet : State := setR Pg.glb R.GLB_PKG 0x00040020 (setR Pg.glb R.GLB_DIE_NUM 0x80000004 io)
theorem wit_TrainingAndDiscovery : runs live (Pg.lnk 32) = false ∧ runs training (Pg.lnk 32) = true ∧ lstate training 32 = LS.train ∧ (4#8).toNat % 4 = 0 ∧ (3#8).toNat % 4 ≠ 0 ∧ (portAt training 32).restore = false ∧
    lstate (setLstate 32 LS.down training) 32 = LS.down ∧ (portAt (updPort 32 (fun x => { x with failSince := some 0 }) training) 32).failSince ≠ none ∧ (portAt training 32).failSince = none ∧
    lstate (setLstate 32 LS.id training) 32 = LS.id ∧ lstate io 32 = LS.up ∧ dieValid io = false ∧ (List.range nPorts).all (fun k => (portAt io k).farPos == none) = true ∧ dieValid dieSet = true ∧ dieNum dieSet = 4 ∧
    pkgBase dieSet = 4 ∧ pkgCount dieSet = 2 ∧ pkgPos dieSet = 0 := by decide +kernel
theorem wit_sound_training : Sound Fuses.good training ∧ Sound Fuses.good (setLstate 32 LS.id training) ∧ Sound Fuses.good io := ⟨⟨rfl, by decide +kernel⟩, ⟨rfl, by decide +kernel⟩, wit_sound_io⟩
theorem wit_id_records : (idr 3).versions.toNat % 4 ≠ 0 ∧ (idr 4).versions.toNat % 4 = 0 ∧ portHears io 32 = true ∧ frameBad (frame 3 0 0 1).bits = false ∧ (frame 3 0 0 1).bits.extractLsb' 64 16 = 1 ∧
    frameBad (frame 3 0 0 2).bits = false ∧ (frame 3 0 0 2).bits.extractLsb' 64 16 ≠ 1 := by decide +kernel
theorem test_train_done : lstate (after (.trainDone 32 0 false true 3) training) 32 = LS.id ∧ getF (after (.trainDone 32 0 false true 3) training) (Pg.lnk 32) R.LNK_STATUS 17 2 = 2 ∧ lstate (after (.trainDone 32 0 false true 4) training) 32 = LS.down := by decide +kernel
theorem test_train_ends : lstate (after (.trainRetry 32) (setLstate 32 LS.down training)) 32 = LS.train ∧ bit (getR (after (.trainLimit 32) (updPort 32 (fun x => { x with failSince := some 0 }) training)) (Pg.lnk 32) R.HDR_FAULT) 10 = true := by decide +kernel
theorem test_id : ((portAt (after (.id 32 ⟨(frame 3 0 0 (1 + 2 ^ 16 + 3 * 2 ^ 24)), 9⟩) io) 32).farPos.map (fun r => (r.kind, r.versions, r.rxTime))) = some (1, 3, 9) ∧ (after (.idSend 32 9) (setLstate 32 LS.id training)).outbox.length = 1 := by decide +kernel
theorem test_assign : getR (after (.assign 4 4 2 0) io) Pg.glb R.GLB_DIE_NUM = 0x80000004 ∧ getR (after (.assign 4 4 2 0) io) Pg.glb R.GLB_PKG = 0x00040020 ∧ dieNum (after (.assign 5 5 2 0) dieSet) = 4 := by decide +kernel

/-- Die 5, the east neighbour, is reached through group 6. -/
def east : State := setR (Pg.lkg 6) R.LKG_STATUS 1 (up 42 (on [Pg.lkg 6] dieSet))
theorem wit_MessagesThatCross : classOf 0 = none ∧ classOf 1 = some (0#2).toNat ∧ classOf 15 = some (3#2).toNat ∧ route east 5 = some 6 ∧ route base 5 = none ∧ (5 ∉ east.unreach) ∧ 6 ≠ 4 ∧ (fl 8 0).typ = 8 ∧ 9 ≤ (fl 9 0).typ.toNat ∧
    (fl 10 0).typ ≠ 9 ∧ dieValid east = true ∧ dieNum east ≠ (5#12).toNat ∧ (5 ∈ ({ east with unreach := [5] } : State).unreach) := by decide +kernel
theorem test_forward : (after (.messageForward 4 1 5 7 3 0 []) east).outbox = [.forward 6 1 5 7 2 0 []] ∧ (after (.messageForward 4 1 5 7 0 0 []) east).outbox = [] ∧ (after (.messageForward 6 1 5 7 3 0 []) east).outbox = [] ∧
    (after (.messageForward 4 1 5 7 3 1 []) east).outbox = [] := by decide +kernel
theorem test_flit : Tab.get 0 (coreAt (after (.flit 4 (fl 1 0xE00000000080)) base) 0).spad 0x80 = 0x11 ∧ getR (after (.flit 4 (fl 9 0)) base) (Pg.lkg 4) R.LKG_DISCARDS = 1 := by decide +kernel
theorem test_die_down_and_up : (after (.dieDown 5) east).unreach = [5] ∧ (after (.dieUp 5) { east with unreach := [5] }).unreach = [] := by decide +kernel

/-! ### Bring-up, repair record, substitution, firmware -/

def dieOn (s : State) : State := setR Pg.glb R.GLB_PKG 0x20 (setR Pg.glb R.GLB_DIE_NUM 0x80000000 s)
def booted (s : State) : State := { s with alm := { s.alm with booted := true } }
/-- Site 0, the home of logical core 0, is Retired; the reserve of row 0 passed its self-test and is out of use. -/
def spare : State := setR Pg.alm R.ALM_ST_SITE0 0x400 (set 0 [Pg.cor 10] (set 6 [Pg.cor 0] (on [Pg.alm] base)))
def subbing : State := { spare with alm := { spare.alm with subst := some 0 } }
/-- The bring-up self-test of the SEQ page is under way. -/
def testing : State := booted (set 2 [Pg.seq] live)
theorem wit_BringUp : dieValid (dieOn base) = true ∧ (dieOn base).alm.booted = false ∧ (1023#10) ≠ 0 ∧ dieValid base = false ∧ (booted base).alm.booted = true ∧ (pageBlk Pg.seq).isSome = true ∧
    inSelftest (on [Pg.seq] base) Pg.seq = false ∧ inSelftest testing Pg.seq = true ∧ testing.alm.retest = [] ∧ siteOfPage Pg.seq = none ∧ Pg.seq ≠ Pg.netb ∧
    medOfGroup (on [Pg.med 0, Pg.med 16] base) 0 = true ∧ medOfGroup (on [Pg.med 0, Pg.med 16] base) 2 = true ∧ medOfGroup (set 1 ((List.range 8).map Pg.med) base) 0 = false ∧ base.alm.readA = 0 ∧ base.alm.recDone = false := by decide +kernel
theorem wit_Substitution : homeSite spare 0 = 0 ∧ 2 ^ 31 ≤ (0x80000000#32).toNat ∧ (0x80000078#32).toNat % 128 = 120 ∧ subbing.alm.subst.isSome = true ∧ spare.alm.subst = none ∧ runs spare Pg.alm = true ∧ bstate spare (Pg.cor 0) = B.retired ∧
    bstate base (Pg.cor 0) ≠ B.retired ∧ (rowFixed spare 0 && reserveFree spare 0) = true ∧ (rowFixed (setR Pg.alm R.ALM_ST_SITE0 0 spare) 0 && reserveFree (setR Pg.alm R.ALM_ST_SITE0 0 spare) 0) = false := by decide +kernel
theorem test_boot : (after (.boot 5) (dieOn base)).alm.booted = true ∧ getR (after (.boot 5) (dieOn base)) Pg.glb R.GLB_CMD_TIMEOUT = 5 ∧ (after (.boot 5) base).alm.booted = false := by decide +kernel
theorem test_selftest_done : bit (getR (after (.selftestDone Pg.seq false 0 0) testing) Pg.seq R.HDR_FAULT) 0 = true ∧ bit (getR (after (.selftestDone Pg.seq true 0 0) testing) Pg.seq R.HDR_READY) 0 = true := by decide +kernel
theorem test_record : (after (.repairRecordRead false false []) (booted (on [Pg.med 0, Pg.med 16] base))).alm.readA = 1 ∧ (after (.repairRecordRead false false []) base).alm.readA = 0 ∧ (after .recordTimeout (booted base)).alm.readB = 1 := by decide +kernel
theorem test_subst : (after (.almSubst 0x80000000) spare).alm.subst = some 0 ∧ bstate (after (.almSubst 0x80000000) spare) (Pg.cor 10) = B.starting ∧ (after (.almSubst 0) spare).alm.subst = none ∧ (after (.almSubst 0x80000008) spare).alm.subst = none ∧
    (after (.substDone 0 false) subbing).alm.subst = none := by decide +kernel
theorem test_rec_clear : (after .recClear { live with alm := { live.alm with recDone := true, entries := [⟨1, 5, 0, 0⟩] } }).alm.entries = [] := by decide +kernel

/-- A load with core 0 at phase `ph`; its entry 0 takes 128 bytes. -/
def ent0 : FwEntry := { kindForm := false, tgt := 0, size := 128, dest := 0, scriptOff := 0xFFFFFFFF, src := 0, digest := Config.sha384 (List.replicate 128 0) }
def load (ph : Nat) : State := let s := on [Pg.alm, Pg.sec] base; { s with alm := { s.alm with fw := some { wait := 0, pushed := [], accepted := true, ents := [ent0], log := 0, cores := [⟨0, 0, ph⟩] } } }
def man (buf : Tab Byte) : State := { load 0 with unitJobs := [(manUnit, { left := 0, bad := false, buf := buf, stage := 2 })] }
def secOn : State := setR Pg.sec R.SEC_STATUS 0x80000000 (on [Pg.sec] mem)
def attesting : State := { secOn with report := some [1], unitJobs := [(secUnit, { left := 0, bad := false, buf := [], stage := 0 })] }
-- an accepted manifest is one that the signature checks accept: those are free in the model, so the reasons 1 and 2 stand for the refusals
theorem wit_Firmware : (1#32).toNat % 2 = 1 ∧ ¬ ((2#32).toNat % 2 = 1) ∧ runs base Pg.alm = false ∧ runs (load 0) Pg.alm = true ∧ (load 0).alm.fw.isSome = true ∧ (on [Pg.alm] base).alm.fw = none ∧ runs (on [Pg.alm] base) Pg.sec = false ∧
    runs (on [Pg.alm, Pg.sec] base) Pg.sec = true ∧ (on [Pg.alm, Pg.sec] base).alm.fw = none ∧ unitJob base manUnit = none ∧ (unitJob (man []) manUnit).map (fun j => j.stage) = some 2 ∧ manifestCheck (man []) [] = 1 ∧
    manifestCheck (man [(0x40, 1)]) [(0x40, 1)] = 2 ∧ runs (man []) Pg.sec = true ∧ siteOf (load 1) 0 = some 0 ∧ rowOf 0 = 0 := by decide +kernel
theorem wit_slice_good : sliceGood (load 1) 0 ent0 = true := by
  have h : spadBytes (coreAt (load 1) 0) 2 (coreAt (load 1) 0).steps ent0.dest ent0.size = List.replicate 128 0 := by decide +kernel
  have r : rangeBad (coreAt (load 1) 0) ent0.dest ent0.size = false := by decide +kernel
  unfold sliceGood
  simp only [h, r, Bool.not_false, Bool.true_and]
  exact beq_self_eq_true _
theorem wit_slice_bad : sliceGood (setCore 0 { coreAt (load 3) 0 with badGlz := [(0, 1)] } (load 3)) 0 ent0 = false := by
  have r : rangeBad (coreAt (setCore 0 { coreAt (load 3) 0 with badGlz := [(0, 1)] } (load 3)) 0) ent0.dest ent0.size = true := by decide +kernel
  unfold sliceGood
  simp only [r, Bool.not_true, Bool.false_and]
theorem wit_Attestation : runs base Pg.sec = false ∧ runs secOn Pg.sec = true ∧ bit (getR secOn Pg.sec R.SEC_ATT_STATUS) 31 = false ∧ bit (getR secOn Pg.sec R.SEC_STATUS) 31 = true ∧ bit (getR (on [Pg.sec] base) Pg.sec R.SEC_STATUS) 31 = false ∧
    base.report = none ∧ attesting.report = some [1] ∧ (unitJob attesting secUnit).isSome = true ∧ attAddrOk attesting 0 = true ∧ attAddrOk attesting 512 = false := by decide +kernel
theorem test_fw_cmd : getF (after (.almFwCmd 1) (load 0)) Pg.alm R.ALM_FW_STATUS 27 3 = 2 ∧ getF (after .manifestCheck (man [])) Pg.alm R.ALM_FW_STATUS 27 3 = 3 ∧ getR (after .manifestCheck (man [])) Pg.sec R.SEC_MAN_REFUSED = 1 ∧
    getF (after .manifestCheck (man [(0x40, 1)])) Pg.sec R.SEC_MAN_ERR 24 3 = 2 := by decide +kernel
theorem test_push_done : ((after (.pushDone 0) (load 0)).alm.fw.map (fun j => j.cores.map (fun c => c.phase))) = some [1] ∧ ((after .pushWaitTimeout (load 0)).alm.fw.map (fun j => j.cores.map (fun c => c.phase))) = some [1] := by decide +kernel
theorem test_attest : (after .attest secOn).report.isSome = true ∧ getF (after .attest (on [Pg.sec] base)) Pg.sec R.SEC_ATT_STATUS 27 3 = 2 := by decide +kernel

/-! ### Power, Annals, test access -/

def plan (serial fn fs : Nat) : DWord := BitVec.ofNat 64 (serial * 2 ^ 48 + fn * 2 ^ 12 + fs * 2 ^ 24)
def slewing : State := { live with pwr := { live.pwr with slewN := some 700, slewS := some 800 } }
def planned : State := { live with pwr := { live.pwr with serial := some 5 } }
/-- Partition 0 also has logical core 48, in the south half. -/
def seam : State := setR Pg.alm (R.ALM_USED0 + 8) 4 (setR Pg.alm R.ALM_STATUS 0x41000 (setR (Pg.ptn 0) R.PTN_MASK1 0x10000 inSol))
def held : State := setR Pg.pwr R.PWR_STATUS 0x40000000 seam
theorem wit_Power : signedOf 16 ((5#16) - 5).toNat ≤ 0 ∧ signedOf 16 ((0x8005#16) - 5).toNat ≤ 0 ∧ ¬ (signedOf 16 ((6#16) - 5).toNat ≤ 0) ∧ planned.pwr.serial = some 5 ∧ changeWanted live = false ∧ changesHeld live = false ∧
    changesHeld seam = true ∧ changeWanted { seam with pwr := { seam.pwr with tgtN := 400 } } = true ∧ bit (getR held Pg.pwr R.PWR_STATUS) 30 = true ∧ slewOf live true = none ∧ slewing.pwr.slewS = some 800 ∧ slewing.pwr.slewN = some 700 := by decide +kernel
/-- The limit at reset is `powerLimit`; capping at duty 15. -/
def capped : State := setDuties 15 0 live
theorem wit_Governor : capDuty capped = 15 ∧ capDuty live ≠ 15 ∧ live.pwr.overL < 9 ∧ live.pwr.limitSent = false ∧ runs live Pg.pwr = false ∧ runs (on [Pg.pwr] live) Pg.pwr = true ∧
    bit (getR (setR Pg.pwr R.PWR_TELEM 0x80000000 live) Pg.pwr R.PWR_TELEM) 31 = true ∧ groupVersion live G.io ≠ 2 ∧ (live.pwr.periods + 1) % 16 ≠ 0 := by decide +kernel
theorem wit_power_bounds : 16 * powerLimit live < 16 * powerLimit live + 1 ∧ 0 ≤ 16 * powerLimit live ∧ 95 * 16 * powerLimit live ≤ (16 * powerLimit live) * 100 := by omega
theorem wit_sound_capped : Sound Fuses.good capped := ⟨rfl, by decide +kernel⟩
-- sixteenths of a degree; HOT is 100 degrees
theorem wit_temperatures : getF (setR Pg.pwr R.PWR_TEMP_MAX 1600 live) Pg.pwr R.PWR_THERM 0 7 = 100 ∧ 16 * 100 - 48 < (1553#16).toInt ∧ (1600#16).toInt ≤ 16 * 100 ∧ (1552#16).toInt ≤ 16 * 100 - 48 ∧ 16 * 100 < (1601#16).toInt ∧
    (1839#16).toInt < 1840 ∧ live.pwr.hotArmed = true ∧ (noteSlow { live with pwr := { live.pwr with hotArmed := false } }).pwr.hotArmed = false := by decide +kernel
theorem test_hot_alarms_once : (after (.thermalSample [1601]) live).pwr.hotArmed = false ∧ thermDuty (after (.thermalSample [1601]) live) = 1 ∧ (after (.thermalSample [1600]) live).pwr.hotArmed = true := by decide +kernel
theorem test_plan : (after (.plan (plan 6 700 800)) planned).pwr.serial = some 6 ∧ (after (.plan (plan 6 710 399)) planned).pwr.tgtN = 700 ∧ (after (.plan (plan 6 710 399)) planned).pwr.tgtS = 400 ∧
    getR (after (.plan (plan 5 700 800)) planned) Pg.pwr R.PWR_PLAN_STALE = 1 := by decide +kernel
theorem test_slew_done : getF (after (.slewDone true) slewing) Pg.pwr R.PWR_CCLK 16 12 = 800 ∧ getF (after (.slewDone false) slewing) Pg.pwr R.PWR_CCLK 0 12 = 700 := by decide +kernel
theorem test_droop : (after (.droop true) live).pwr.droopS = true ∧ getR (after (.droop false) live) Pg.pwr R.PWR_DROOP_N = 1 ∧ (after (.droopEnd false) { live with pwr := { live.pwr with droopN := true } }).pwr.droopN = false := by decide +kernel
theorem test_governor : (after (.governorInterval 0xFFFFF) capped).pwr.overL = 1 ∧ capDuty (after (.governorInterval 0) capped) = 14 := by decide +kernel
theorem test_refclk_loss : (after .refclkLoss base).inReset = true ∧ (after .refclkLoss base).tripped = base.tripped := by decide +kernel

/-- An incident is open; a key waits with one occurrence. -/
def incident : State := setR Pg.ann R.ANN_STATUS 0x80000000 live
def waits1 : State := { live with ann := { live.ann with coal := [{ slot := 0, src := 1, code := 2, count := 1, order := 0, route := 3, at_ := 0 }], keys := [(1, 2)], slotBusy := true } }
theorem wit_Annals : ({ live.ann with slotHeld := true }).slotHeld = true ∧ live.ann.coal = [] ∧ getR live Pg.ann R.ANN_OTHER = 0 ∧ bit (getR incident Pg.ann R.ANN_STATUS) 31 = true ∧ bit (getR live Pg.ann R.ANN_STATUS) 31 = false ∧
    waits1.ann.coal.map (fun e => e.count) = [1] ∧ bit (getR live Pg.ann R.ANN_DUMP_STATUS) 31 = false ∧ bit (getR (setR Pg.ann R.ANN_DUMP_STATUS 0x80000000 live) Pg.ann R.ANN_DUMP_STATUS) 31 = true := by decide +kernel
theorem test_slot_free : (after .alarmSlotFree waits1).ann.slotBusy = true ∧ (after .alarmSlotFree waits1).ann.coal.map (fun e => e.count) = [0] ∧ (after .alarmSlotFree { live with ann := { live.ann with slotBusy := true } }).ann.slotBusy = false := by decide +kernel
theorem test_incident : getR (after .incidentClose incident) Pg.ann R.ANN_STATUS = 0x40000000 ∧ getR (after .annRelease (after .incidentClose incident)) Pg.ann R.ANN_STATUS = 0 ∧ getR (after .annRelease incident) Pg.ann R.ANN_STATUS = 0x80000000 := by decide +kernel
theorem test_annals_clear : (after .annClear waits1).ann.coal.length = 1 ∧ (after .annClear { live with ann := { live.ann with buf := [(1, 2)] } }).ann.buf = [] ∧ getR (after (.traceTailWrite 0x40005) live) Pg.ann R.ANN_TRACE_TAIL = 5 := by decide +kernel

def pinsOn : State := setR Pg.tst R.TST_STATUS 0x80000000 live
theorem wit_TestAccess : bit (getR pinsOn Pg.tst R.TST_STATUS) 31 = true ∧ bit (getR live Pg.tst R.TST_STATUS) 31 = false ∧ 16320 < 16321 ∧ 1 ≤ 16320 ∧ (instrAt (setInstr 5 (1, 0) live) 5).1 = 1 ∧ instrReady live 5 = false ∧
    (instrAt live 5).1 ≠ 1 ∧ live.tap.csaBusy = false ∧ 221 < nInstruments := by decide +kernel
theorem test_test_messages : getR (after (.testReset 1) live) Pg.tst R.TST_TEST_DROPS = 1 ∧ getR (after (.testReset 0) live) Pg.tst R.TST_SCANS = 1 ∧ getR (after (.testDr 16321 []) live) Pg.tst R.TST_TEST_DROPS = 1 := by decide +kernel
-- eight ones select BYPASS
theorem test_ir_scan : getF (after (.testIr 8 [true, true, true, true, true, true, true, true]) live) Pg.tst R.TST_STATUS 0 8 = 0xFF ∧ getF (after .idcode live) Pg.tst R.TST_STATUS 0 8 = 2 ∧ getF (after .trstN pinsOn) Pg.tst R.TST_STATUS 8 4 = 15 := by decide +kernel
theorem test_instruments : instrAt (after (.instrumentAbort 5) (setInstr 5 (1, 0) live)) 5 = (4, 0) ∧ instrAt (after (.instrumentDone 5 9) (setInstr 5 (1, 0) live)) 5 = (2, 9) ∧ instrAt (after (.instrumentDone 5 9) live) 5 = (0, 0) := by decide +kernel

/-! ### The twin unit -/

/-- A pair with die 7 for partition 0: mode, standby side, PSTATE. -/
def pair (mode : Nat) (standby : Bool) (st : Nat) : State :=
  let s := setPstate st (setR Pg.twn R.TWN_PEER 7 (setR Pg.twn R.TWN_CFG (BitVec.ofNat 32 (mode + (if standby then 4 else 0) + 0x10000)) (on [Pg.twn] (setR (Pg.lkg 5) R.LKG_STATUS 1 (up 36 (on [Pg.lkg 5] mem))))))
  { s with twn := { s.twn with formed := true } }
/-- The same unit in Starting, with PSTATE 1 and no HELLO yet. -/
def greeting : State := let s := set 2 [Pg.twn] (pair 1 false 1); { s with twn := { s.twn with formed := false } }
/-- The standby with one staged BLOCK of shipment 1 and partition 0 Stopped. -/
def shipped : State :=
  let s := set 1 [Pg.ptn 0] (pair 1 true 3)
  { s with twn := { s.twn with staged := [{ kind := 5, p := 0, q := 1, whr := 0, bytes := bytesOf 128 0x11, tile := false, glaze := crc32c 0 (bytesOf 128 0x11) }] } }
def lostDie : State := { setR Pg.twn R.TWN_FOSTER 0x80010000 (setR Pg.glb R.GLB_PKG 0x30 (setR Pg.glb R.GLB_DIE_NUM 0x80000000 (pair 1 false 3))) with unreach := [1] }
theorem wit_TwinPairing : bstate greeting Pg.twn = B.starting ∧ greeting.twn.formed = false ∧ pstate greeting = 1 ∧ (0 : Word) = getR greeting Pg.twn R.TWN_EPOCH ∧ (1#16).toNat = twnPtns greeting ∧ (1#2).toNat = twnMode greeting ∧
    true ≠ twnStandby greeting ∧ twnUp (pair 1 false 3) = true ∧ twnUp base = false ∧ bit (getR (pair 1 true 3) Pg.twn R.TWN_CFG) 3 = false ∧ twnBusy (pair 1 true 3) = false ∧
    twnBusy (setR Pg.twn R.TWN_ACTION_STATUS 0x80000000 base) = true ∧ twnStandby (pair 1 true 4) = true ∧ runs (pair 1 true 4) Pg.twn = true ∧ pstate (pair 1 true 4) = 4 ∧ pstate (pair 1 true 6) = 6 ∧ pstate (pair 1 true 3) ≠ 4 := by decide +kernel
theorem wit_TwinCopies : bit (getR lostDie Pg.twn R.TWN_FOSTER) 31 = true ∧ (getR lostDie Pg.twn R.TWN_FOSTER).toNat / 2 ^ 16 % 2 ^ 12 = 1 ∧ inPackage lostDie 1 = true ∧ neighbour lostDie G.east = 1 ∧ neighbour lostDie G.west = 2 ∧
    dieNum lostDie = 0 ∧ (pair 1 false 3).twn.action = 0 ∧ pstate (pair 1 true 6) = 6 ∧ inPackage (pair 1 true 6) 9 = false ∧ (twnUp (pair 1 true 3) && decide ((7#12).toNat = twnPeer (pair 1 true 3))) = true ∧
    (List.range 8).all (fun k => match homeOf mem (0 + 128 * k) with | .ok _ => true | .error _ => false) = true := by decide +kernel
theorem test_hello : (after (.hello 0 1 true 1) greeting).twn.formed = true ∧ pstate (after (.hello 0 1 true 1) greeting) = 3 ∧ bit (getR (after (.hello 1 1 true 1) greeting) Pg.twn R.HDR_FAULT) 9 = true ∧
    (after .helloTimer greeting).outbox.length = 1 := by decide +kernel
theorem test_peer_lost : pstate (after .peerLost (pair 1 false 3)) = 6 ∧ (after .beatTimer (pair 1 false 3)).outbox.length = 1 ∧ pstate (after (.beat 9) (pair 1 false 3)) = 3 := by decide +kernel
theorem test_take : getF (after .take (pair 1 true 4)) Pg.twn R.TWN_ACTION_STATUS 27 3 = 1 ∧ getF (after .take (pair 1 true 3)) Pg.twn R.TWN_ACTION_STATUS 27 3 = 2 ∧ getF (after .take (pair 1 false 3)) Pg.twn R.TWN_ACTION_STATUS 27 3 = 3 := by decide +kernel
theorem test_silver_and_foster_refused : getF (after .silver (pair 1 true 3)) Pg.twn R.TWN_ACTION_STATUS 27 3 = 3 ∧ getF (after .foster (pair 1 false 3)) Pg.twn R.TWN_ACTION_STATUS 27 3 = 2 ∧
    pstate (after .silverDone (let s := pair 1 false 2; { s with twn := { s.twn with action := 1 } })) = 3 := by decide +kernel
theorem test_foster : getR (after .foster lostDie) Pg.twn R.TWN_ACTION_STATUS = 0x80000000 := by decide +kernel
theorem wit_TwinShipments : twnUp shipped = true ∧ twnStandby shipped = true ∧ (0 ∉ shipped.twn.taken) ∧ shipped.twn.lost = [] ∧ stagedBytes shipped + 128 ≤ stageBytes (setF Pg.twn R.TWN_STAGE_MIB 0 15 1 shipped) ∧
    ¬ (stagedBytes shipped + 128 ≤ stageBytes (setF Pg.twn R.TWN_STAGE_MIB 0 15 0 shipped)) ∧ shipCheck shipped 0 1 3 shipped.twn.staged = 2 ∧ shipCheck (setR (Pg.ptn 0) R.PTN_MASK0 0 (setR (Pg.ptn 0) R.PTN_MASK3 0 shipped)) 0 1 2 shipped.twn.staged = 0 ∧
    bstate shipped (Pg.ptn 0) = B.stopped ∧ twnUp (pair 1 false 3) = true ∧ (twnUp (pair 2 false 3) && decide (twnMode (pair 2 false 3) = 2) && twnPtn (pair 2 false 3) 0) = true ∧ batchesDone (pair 1 false 3) 0 1 = true := by decide +kernel
theorem test_shipment_is_staged : (after (.snap 0 1 0 [1]) (pair 1 true 3)).twn.staged.map (fun m => m.kind) = [2] ∧ (after (.snap 0 1 0 [1]) (pair 1 false 3)).twn.staged = [] ∧ (after (.plane 0 1 0 [1]) (pair 1 true 3)).twn.staged.map (fun m => m.kind) = [3] := by decide +kernel
theorem test_done_applies : Tab.get 0 (after (.done 0 1 2) (setR (Pg.ptn 0) R.PTN_MASK0 0 (setR (Pg.ptn 0) R.PTN_MASK3 0 shipped))).dram 0 = 0x11 ∧ Tab.get 0 (after (.done 0 1 3) shipped).dram 0 = 0 ∧ (after (.done 0 1 3) shipped).twn.staged = [] := by decide +kernel
theorem test_digest : (after (.digest 0 1 2 3) (pair 2 false 3)).twn.theirs = [(0, 1, 2, 3)] ∧ (after (.digest 0 1 2 3) (pair 1 false 3)).twn.theirs = [] := by decide +kernel
theorem test_silvered : pstate (after (.silvered 0) (pair 1 true 5)) = 3 ∧ pstate (after (.silvered 0) (let s := pair 1 true 3; { s with twn := { s.twn with silverBad := true } })) = 5 := by decide +kernel

/-! ### Headers, reset, package time, Sols -/

theorem wit_IgnoredHeaderCommands : pageBlk Pg.glb = some (.glb, 0) ∧ pageBlk Pg.sec = some (.sec, 0) ∧ ctlTarget live 0x0000F0000000000C = .here 0xC ∧ pageOfSlot (0xC / 4096) = some 0 ∧ (0#32).toNat % 8 = 0 ∧ 5 < (6#32).toNat % 8 ∧ (9#32).toNat / 8 ≠ 0 := by decide +kernel
theorem test_ignored : getR (after (.stop Pg.glb) live) Pg.glb R.HDR_IGNORED = 2 ∧ getR (after (.retire Pg.sec) live) Pg.sec R.HDR_IGNORED = 2 ∧ getR (regWrite .dir 0 0 0xC 6 live) 0 R.HDR_IGNORED = 2 := by decide +kernel
theorem wit_HeaderCommands : bstate (set 1 [Pg.seq] base) Pg.seq = B.stopped ∧ startBad (setF (Pg.cor 0) R.COR_ASYNC_GUARD 0 6 3 base) .cor (Pg.cor 0) 0 = some 15 ∧ startBad (setBState (Pg.sig 0) B.starting base) .sig (Pg.sig 0) 0 = none ∧
    bstate base (Pg.vec 8) = B.running ∧ ignoresStop .vec = false ∧ ignoresAbort .vec = false ∧ ignoresRetire .vec = false ∧ bstate (set 5 [Pg.seq] base) Pg.seq = B.faulted ∧ bit (getR (setR Pg.seq R.HDR_FAULT 1 base) Pg.seq R.HDR_FAULT) 0 = true ∧
    bstate (set 6 [Pg.seq] base) Pg.seq = B.retired ∧ bstate (set 0 [Pg.seq] base) Pg.seq = B.absent ∧ bstate (set 4 [Pg.seq] base) Pg.seq = B.stopping ∧ stopBusy base .seq 0 = false ∧ stopBusy waiting .slc 0 = true ∧ base.selfFailed = [] := by decide +kernel
/-- The SEQ page is in Starting after its self-test. -/
def seqGoes : State := { set 2 [Pg.seq] base with testEnded := [Pg.seq] }
theorem wit_starting : bstate seqGoes Pg.seq = B.starting ∧ inSelftest seqGoes Pg.seq = false ∧ inSelftest (set 2 [Pg.seq] live) Pg.seq = true ∧ testReleased (set 2 [Pg.seq] live) Pg.seq = false ∧
    (pair 1 false 1).twn.formed = true ∧ greeting.twn.formed = false ∧ bstate (pageFault Pg.seq 4 seqGoes) Pg.seq = B.faulted ∧ bstate (pageFault Pg.seq 4 (setR Pg.seq R.HDR_FAULT_EN 0 seqGoes)) Pg.seq = B.starting := by decide +kernel
theorem test_start_stop : bstate (after (.start (Pg.sig 0)) (set 1 [Pg.sig 0] base)) (Pg.sig 0) = B.starting ∧ bstate (after (.stop (Pg.vec 8)) base) (Pg.vec 8) = B.stopping ∧ bstate (after (.stoppingDone Pg.seq) (set 4 [Pg.seq] base)) Pg.seq = B.stopped ∧
    bstate (after (.startingDone Pg.seq) seqGoes) Pg.seq = B.running := by decide +kernel
theorem test_abort_clear_retire : bstate (after (.abort (Pg.vec 8)) base) (Pg.vec 8) = B.faulted ∧ bit (getR (after (.abort (Pg.vec 8)) base) (Pg.vec 8) R.HDR_FAULT) 1 = true ∧ bstate (after (.clear Pg.seq) (set 5 [Pg.seq] base)) Pg.seq = B.stopped ∧
    bstate (after (.retire (Pg.sig 0)) (set 1 [Pg.sig 0] base)) (Pg.sig 0) = B.retired := by decide +kernel
theorem test_cmd_timeout : bit (getR (after (.cmdTimeout Pg.seq) (set 4 [Pg.seq] base)) Pg.seq R.HDR_FAULT) 2 = true := by decide +kernel
theorem test_reset : (after (.resetAssert 10000 true) base).inReset = true ∧ (after (.resetAssert 99 true) base).inReset = false ∧ (after (.resetRelease true true) State.reset).testEn = true ∧ (after (.resetRelease true false) State.reset).inReset = true := by decide +kernel

/-- Package time is valid and SEQ runs: period 1000 ns, guard 100 ns, epoch 0. -/
def timed : State := setF Pg.seq R.SEQ_SOL_GUARD 0 17 100 (setF Pg.seq R.SEQ_SOL_PERIOD 0 24 1000 (setR Pg.seq R.SEQ_TIME_STATUS 0x80000000 (on [Pg.seq] (dieOn base))))
theorem wit_PackageTime : timeValid timed = true ∧ timeValid base = false ∧ dieValid (dieOn base) = true ∧ runs timed Pg.seq = true ∧ linkDelay timed = 0 ∧ timed.time = 0 ∧
    ((100#64 - BitVec.ofNat 64 (linkDelay timed)).toNat : Int) - (timed.time.toNat : Int) = 100 ∧ (0#64 < BitVec.ofNat 64 (solEpoch timed + 1 * solPeriod timed)) ∧ ({ timed with timePend := 5 } : State).timePend ≠ 0 := by decide +kernel
theorem test_time : (after (.time 100) timed).timePend = 100 ∧ (after (.time 101) timed).time = 101 ∧ bit (getR (after (.time 101) timed) Pg.seq R.HDR_FAULT) 9 = true ∧ (after (.time 77) (dieOn base)).time = 77 := by decide +kernel
theorem test_time_lost : timeValid (after .timeLost timed) = false ∧ bit (getR (after .holdover timed) Pg.seq R.SEQ_TIME_STATUS) 30 = true ∧ (after (.packageTick 2) timed).time = 2000 := by decide +kernel
theorem test_slew : (tickNs { timed with timePend := 1, timeFrac := 99 }).time = 2 ∧ (tickNs timed).time = 1 := by decide +kernel

def solAt (ph : Phase) : State := updPtn 0 (fun x => { x with phase := ph }) timed
/-- Both cores have parked in the Sol. -/
def parked : State := foldS (fun c => updCore c (fun x => { x with parked := true })) [0, 8, 9] (solAt .sol)
theorem wit_SolTicks : ticksRun timed = true ∧ bstate timed (Pg.ptn 0) = B.running ∧ (ptnAt (solAt .armed) 0).since.toNat ≤ tickTime (solAt .armed) 0 0 ∧ (ptnAt (solAt .waiting) 0).tickAt.toNat < tickTime (solAt .waiting) 0 1 ∧
    ptnSites parked 0 = [0, 8, 9] ∧ atEndPoint parked 0 = true ∧ (ptnAt parked 0).tickAt ≤ 5#64 ∧ (5#64).toNat ≤ deadline parked 0 ∧ (ptnAt parked 0).deferred = 0 ∧ (ptnAt parked 0).stopWait = false ∧
    bstate (fault (Pg.ptn 0) PC.snapshot (solAt .copying)) (Pg.ptn 0) = bstate (after (.solCommit 0 true) (solAt .copying)) (Pg.ptn 0) ∧ (ptnAt (solAt .sol) 0).slow = false ∧ ptnQuiet (solAt .draining) 0 = true := by decide +kernel
/-- What is still held when the operations of a partition in draining have ended, performed. -/
def flushed (s : State) : State := foldS drainCore (ptnAt s 0).domain (ptnDropHeld 0 (heldPass false 0 s))
/-- Core 0 holds an XQ whose descriptor it can read. -/
def heldXq : State := updPtn 0 (fun x => { x with phase := .draining }) (updCore 0 (fun x => { x with steps := 1, holds := [(2, 0, .xq 0 false 1 false)] }) xs)
theorem wit_draining : ptnQuiet (flushed (solAt .draining)) 0 = true ∧ ptnQuiet heldXq 0 = true ∧ ptnQuiet (flushed heldXq) 0 = false := by decide +kernel
theorem test_sol : (ptnAt (after (.partitionTick 0 0) (solAt .armed)) 0).phase = .sol ∧ (ptnAt (after (.solEndPoint 0 5) parked) 0).phase = .copying ∧ (ptnAt (after (.solEndPoint 0 5) (solAt .sol)) 0).phase = .sol := by decide +kernel
theorem test_commit : (ptnAt (after (.solCommit 0 false) (solAt .copying)) 0).phase = .waiting ∧ ptnSeq (after (.solCommit 0 false) (solAt .copying)) 0 = 1 ∧ ptnSeq (after (.solCommit 0 true) (solAt .copying)) 0 = 0 := by decide +kernel
theorem test_overrun : getR (after (.solOverrun 0) (solAt .sol)) Pg.seq R.SEQ_OVERRUNS = 1 ∧ getF (after (.solOverrun 0) (solAt .sol)) (Pg.ptn 0) R.PTN_OVR 0 7 = 3 := by decide +kernel
/-- The same with OVERRUN disabled, after the deadline. -/
def lateSol : State := setR (Pg.ptn 0) R.HDR_FAULT_EN 0 parked
theorem wit_late_end_point : atEndPoint lateSol 0 = true ∧ ¬ (950#64).toNat ≤ deadline lateSol 0 ∧ bit (getR lateSol (Pg.ptn 0) R.HDR_FAULT_EN) PC.overrun = false ∧
    (ptnAt (after (.solEndPoint 0 950) lateSol) 0).phase = .copying ∧ (ptnAt (after (.solEndPoint 0 950) parked) 0).phase = .sol ∧ (ptnAt (updPtn 0 (fun x => { x with slow := true }) parked) 0).slow = true := by decide +kernel
theorem test_slow_overrun : (ptnAt (after (.solOverrun 0) (updPtn 0 (fun x => { x with slow := true }) parked)) 0).pendFault = 2 ^ 8 + 2 ^ 9 := by decide +kernel
theorem test_partition_faulted : bstate (after (.partitionFaulted 0) (updPtn 0 (fun x => { x with phase := .draining, pendFault := 2 ^ 2 }) timed)) (Pg.ptn 0) = B.faulted := by decide +kernel

/-- Partition 0 is Faulted with a valid snapshot; its mask and the snapshot's are empty. -/
def snapped : State := set 5 [Pg.ptn 0] (setR (Pg.ptn 0) R.PTN_SNAP_STATUS 0x80000000 (setR (Pg.ptn 0) R.PTN_MASK0 0 (setR (Pg.ptn 0) R.PTN_MASK3 0 timed)))
def jobOf (u left stage : Nat) (s : State) : State := { s with unitJobs := [(u, { left := left, bad := false, buf := [], stage := stage })] }
theorem wit_Replay : bstate snapped (Pg.ptn 0) = B.faulted ∧ bit (getR snapped (Pg.ptn 0) R.HDR_FAULT) 0 = false ∧ snapValid snapped 0 = true ∧ snapValid timed 0 = false ∧ (maskSame snapped 0 && recordsOk snapped 0 && allPlaced snapped 0) = true ∧
    (maskSame (setR (Pg.ptn 0) R.PTN_MASK0 2 snapped) 0 && recordsOk (setR (Pg.ptn 0) R.PTN_MASK0 2 snapped) 0 && allPlaced snapped 0) = false ∧ (unitJob (jobOf 0 1 0 snapped) 0).isSome = true ∧ (unitJob snapped 0).isSome = false ∧
    bstate (set 1 [Pg.ptn 0] snapped) (Pg.ptn 0) = B.stopped := by decide +kernel
theorem wit_RestoreAndScript : (ptnAt (set 2 [Pg.ptn 0] (updPtn 0 (fun x => { x with phase := .loading true }) snapped)) 0).phase = .loading true ∧ ptnReady (set 2 [Pg.ptn 0] (updPtn 0 (fun x => { x with phase := .loading true }) snapped)) 0 = true ∧
    unitJob base (imgUnit 0) = none ∧ (unitJob (jobOf (imgUnit 0) 0 2 base) (imgUnit 0)).isSome = true ∧ (coreAt base 0).loading = false := by decide +kernel
/-- A script image of one syllable for a core of kind M, with its two CRCs, has been read while the partition loads. -/
def image : Tab Byte := [(0, 1), (4, 1), (8, 0xAA), (9, 0x36), (10, 0x91), (11, 0x8A), (60, 0xC2), (61, 0x65), (62, 0x4B), (63, 0x29)]
def imaged (buf : Tab Byte) (stage : Nat) : State :=
  let s := set 2 [Pg.ptn 0] (updPtn 0 (fun x => { x with phase := .loading false }) (updCore 0 (fun x => { x with loading := true }) timed))
  { s with unitJobs := [(imgUnit 0, { left := 0, bad := false, buf := buf, stage := stage })] }
theorem wit_script_loads : (unitJob (imaged image 1) (imgUnit 0)).map (fun i => (i.left, i.stage, i.bad, i.buf)) = some (0, 1, false, image) ∧ (coreAt (imaged image 1) 0).loading = true ∧ loadsScript (imaged image 1) 0 = true ∧
    startOpen (imaged image 1) 0 = true ∧ imgHeaderOk (imaged image 1) 0 { left := 0, bad := false, buf := image, stage := 1 } = true ∧ tabNum image 8 4 = crcOf (Tab.slice 0 image 64 32) ∧
    imgHeaderOk (imaged [] 1) 0 { left := 0, bad := false, buf := [], stage := 1 } = false ∧ ptnOfSite (imaged image 1) 0 = some 0 ∧ (unitJob (imaged image 2) (imgUnit 0)).map (fun i => i.stage) = some 2 := by decide +kernel
theorem test_script_load : (coreAt (after (.scriptLoadDone 0) (imaged image 1)) 0).loaded = true ∧ bit (getR (after (.scriptLoadDone 0) (imaged [] 2)) (Pg.cor 0) R.HDR_FAULT) 12 = true := by decide +kernel
theorem test_replay : getF (after (.replay 0) timed) (Pg.ptn 0) R.PTN_ACTION_STATUS 0 3 = 2 ∧ (ptnAt (after (.replay 0) snapped) 0).phase = .loading true ∧
    bstate (after (.replayRestoreDone 0) (set 2 [Pg.ptn 0] (updPtn 0 (fun x => { x with phase := .loading true }) snapped))) (Pg.ptn 0) = B.running := by decide +kernel
theorem test_dump_load : getF (after (.dump 0) timed) (Pg.ptn 0) R.PTN_ACTION_STATUS 0 3 = 3 ∧ getF (after (.load 0) timed) (Pg.ptn 0) R.PTN_ACTION_STATUS 0 3 = 2 := by decide +kernel

/-! ### Registers -/

theorem wit_RegistersReadBack : Sound Fuses.good base ∧ regKey 5 0x40 ≠ regKey 5 0x44 := ⟨⟨rfl, by decide +kernel⟩, by decide⟩
/-- The signal page of site 0 by its slot. -/
def sigAddr : DWord := BitVec.ofNat 64 (0xF00000000000 + slotOfPage (Pg.sig 0) * 4096 + R.SIG_COUNT0)
theorem wit_RegisterAccesses : (match ctlTarget base sigAddr with | .here l => decide (l % 4 = 0) && (pageOfSlot (l / 4096) == some (Pg.sig 0)) | _ => false) = true ∧ pageBlk (Pg.sig 0) = some (.sig, 0) ∧
    ctlTarget base 0xF00000000002 = .here 2 ∧ ctlTarget base 0xF00003FFF000 = .here 0x3FFF000 ∧ pageOfSlot (0x3FFF000 / 4096) = none ∧ ctlTarget base 0x8000F00000000000 = .bad ∧
    (route east 5).isSome = true ∧ ctlTarget east 0x8005F00000000000 = .far 5 0xF00000000000 ∧ Blk.sig.row R.SIG_COUNT0 ≠ none ∧ (0x40 ≤ R.SIG_COUNT0) ∧ bstate base (Pg.ptn 0) ≠ B.absent ∧ isBuffered .sig R.SIG_COUNT0 = false ∧
    recordOf .sig R.SIG_COUNT0 = none ∧ actWrite .sig (Pg.sig 0) 0 R.SIG_COUNT0 5 base = none ∧ bufferedLow .sig (R.SIG_COUNT0 - 4) = false ∧ (wideLows .ptn).contains R.PTN_SOL_SEQ_LO = true ∧
    isBuffered .ptn R.PTN_DUMP_ADDR_LO = true ∧ Blk.ptn.row R.PTN_DUMP_ADDR_LO ≠ none ∧ ctlLocal 0xF00000000000 = .here 0 ∧ base.ops = [] := by decide +kernel
theorem test_read_and_write : (regRead .dir 0 0 0x10 live).1 = getR live 0 0x10 ∧ getR (accErr 1 0xF00000000002 live) Pg.glb R.GLB_ACC_ERR = 0x80000001 ∧ getR (regWrite .netm Pg.netm 0 R.NETM_MC_HOLD 5 base) Pg.netm R.NETM_MC_HOLD = 5 := by decide +kernel
theorem test_wide_capture : (regRead .ptn (Pg.ptn 0) 0 (R.PTN_SOL_SEQ_LO + 4) (regRead .ptn (Pg.ptn 0) 0 R.PTN_SOL_SEQ_LO (setPtnSeq 0 0x500000007 base)).2).1 = 5 := by decide +kernel
theorem test_reg_message : (after (.reg true false false 3 9 0 7) live).outbox = [] ∧ getR (after (.reg true false false 3 9 0 7) live) (Pg.lkg (routeFirst live 3)) R.LKG_LATE = 1 := by decide +kernel

end Sys2Proof.Tests
end

/-! What every step keeps: the canonical form of the registers, of the stacks' memory, of the scratchpads and of the units' tables, and the
fuses (O59), with what that form gives of the registers (O55) and at reset (O58).

Only the setters of the state, a reset and a migration touch these parts; their lemmas carry the proof. Every other function of the model that answers
a state has one lemma, `Sound.<its name>`, which chains those of the functions it calls: `h.setR.satR` is about the state after `setR`, then `satR`.
A function that answers a pair is followed to the state in it; one that answers a core has `SpadWf.<its name>`. -/

namespace Sys2Proof.Machine

variable {F : Fuses} {s : State}

/-! ### What a sound state is, part by part -/

/-- A core's scratchpad is in canonical form. -/
def SpadWf (x : Core) : Prop := Memory.wf x.spad = true

/-- The canonical form of the table of cores: of the table and of each core's scratchpad. -/
def coresWf (t : Tab Core) : Prop := Tab.wf Core.init t = true ∧ ∀ e ∈ t, SpadWf e.2

/-- A sound state, part by part. -/
theorem sound_iff : Sound F s ↔ s.fuses = F ∧ regsWf F s.regs = true ∧ Memory.wf s.dram = true ∧ coresWf s.cores ∧
    Tab.wf Arr.init s.arrs = true ∧ Tab.wf Vec.init s.vecs = true ∧ Tab.wf Ptn.init s.ptns = true ∧ Tab.wf Bar.init s.bars = true ∧
    Tab.wf Slice.init s.slices = true ∧ Tab.wf Port.init s.ports = true ∧ Tab.wf ⟨[], false⟩ s.grps = true := by
  simp only [Sound, unitsWf, coresWf, SpadWf, Bool.and_eq_true, List.all_eq_true]
  constructor
  · rintro ⟨rfl, h⟩; tauto
  · rintro ⟨rfl, h⟩; tauto

/-- An update of fields outside the sound part. -/
protected theorem Sound.frame {pending outbox freeCtr inReset testEn tripped capt selfFailed testEnded wbuf time timePend timeFrac pwr snap prec
    psave bist movers gths ops unitJobs opWait opTurn peakAll peaks nextTxn netmMasks reds redWait tagCache redDead homes standIn cache dirs
    heights badGlz ueLines keepPools keepRecs heldReqs unreach mcasts twn ringStage msgRings ann alm recCopies report tap} (h : Sound F s) :
    Sound F { s with
      pending := pending, outbox := outbox, freeCtr := freeCtr, inReset := inReset, testEn := testEn, tripped := tripped, capt := capt,
      selfFailed := selfFailed, testEnded := testEnded, wbuf := wbuf, time := time, timePend := timePend, timeFrac := timeFrac, pwr := pwr,
      snap := snap, prec := prec, psave := psave, bist := bist, movers := movers, gths := gths, ops := ops, unitJobs := unitJobs,
      opWait := opWait, opTurn := opTurn, peakAll := peakAll, peaks := peaks, nextTxn := nextTxn, netmMasks := netmMasks, reds := reds,
      redWait := redWait, tagCache := tagCache, redDead := redDead, homes := homes, standIn := standIn, cache := cache, dirs := dirs,
      heights := heights, badGlz := badGlz, ueLines := ueLines, keepPools := keepPools, keepRecs := keepRecs, heldReqs := heldReqs,
      unreach := unreach, mcasts := mcasts, twn := twn, ringStage := ringStage, msgRings := msgRings, ann := ann, alm := alm,
      recCopies := recCopies, report := report, tap := tap } := h

/-! ### Branches and folds -/

protected theorem Sound.ite {c : Prop} [Decidable c] {a b : State} (ha : Sound F a) (hb : Sound F b) : Sound F (if c then a else b) := by
  split
  · exact ha
  · exact hb

protected theorem Sound.ite₃ {α β : Type} {c : Prop} [Decidable c] {a b : α × β × State} (ha : Sound F a.2.2) (hb : Sound F b.2.2) :
    Sound F (if c then a else b).2.2 := by
  split
  · exact ha
  · exact hb

protected theorem Sound.elim {α : Type} {o : Option α} {f : α → State} (h : Sound F s) (hf : ∀ a, Sound F (f a)) : Sound F (o.elim s f) := by
  cases o with
  | none => exact h
  | some a => exact hf a

protected theorem Sound.ite₂ {α : Type} {c : Prop} [Decidable c] {a b : α × State} (ha : Sound F a.2) (hb : Sound F b.2) :
    Sound F (if c then a else b).2 := by
  split
  · exact ha
  · exact hb

/-- One step further on a state that is used more than once. -/
protected theorem Sound.bind {t : State} (h : Sound F s) (f : Sound F s → Sound F t) : Sound F t := f h

/-- The state that a pair holds. -/
theorem Sound.of_snd {α : Type} {a : α} {p : α × State} (h : Sound F p.2) (e : p = (a, s)) : Sound F s := by rwa [e] at h

theorem Sound.of_snd₃ {α β γ : Type} {a : α} {b : β} {c : γ} {p : α × β × γ × State} (h : Sound F p.2.2.2) (e : p = (a, b, c, s)) : Sound F s := by
  rwa [e] at h

theorem Sound.of_snd₂ {α β : Type} {a : α} {b : β} {p : α × β × State} (h : Sound F p.2.2) (e : p = (a, b, s)) : Sound F s := by rwa [e] at h

protected theorem Sound.foldl {α : Type} {f : State → α → State} (h : Sound F s) (hf : ∀ s a, Sound F s → Sound F (f s a)) {l : List α} :
    Sound F (l.foldl f s) :=
  List.foldlRecOn l f h fun s h a _ => hf s a h

/-- The same where the step takes its pair as a whole. -/
protected theorem Sound.foldl₂' {α β : Type} {f : β × State → α → β × State} {b : β} (h : Sound F s)
    (hf : ∀ p a, Sound F p.2 → Sound F (f p a).2) {l : List α} : Sound F (l.foldl f (b, s)).2 :=
  List.foldlRecOn (motive := fun p => Sound F p.2) l f h fun p h a _ => hf p a h

protected theorem Sound.foldl₂ {α β : Type} {f : β × State → α → β × State} {b : β} (h : Sound F s)
    (hf : ∀ b s a, Sound F s → Sound F (f (b, s) a).2) {l : List α} : Sound F (l.foldl f (b, s)).2 :=
  h.foldl₂' fun p a h => hf p.1 p.2 a h

protected theorem Sound.foldl₄ {α β γ δ : Type} {f : β × γ × δ × State → α → β × γ × δ × State} {b : β} {c : γ} {d : δ} (h : Sound F s)
    (hf : ∀ p a, Sound F p.2.2.2 → Sound F (f p a).2.2.2) {l : List α} : Sound F (l.foldl f (b, c, d, s)).2.2.2 :=
  List.foldlRecOn (motive := fun p => Sound F p.2.2.2) l f h fun p h a _ => hf p a h

protected theorem Sound.foldS {α : Type} {f : α → State → State} (h : Sound F s) (hf : ∀ a s, Sound F s → Sound F (f a s))
    {l : List α} : Sound F (foldS f l s) := by
  induction l generalizing s with
  | nil => exact h
  | cons a t ih => exact ih (hf a s h)

/-! ### The parts' own operations -/

theorem regsWf_store {r : Tab Word} (k : Nat) (v : Word) (h : regsWf F r = true) : regsWf F (Tab.store (resetKey F k) r k v) = true := by
  simp only [regsWf, Bool.and_eq_true, List.all_eq_true, decide_eq_true_eq] at h ⊢
  refine ⟨Tab.sorted_store _ r k v h.1, fun e he => ?_⟩
  rcases Tab.mem_store _ r k v e he with ⟨rfl, hv⟩ | he
  · exact hv
  · exact h.2 e he

theorem coresWf_store {t : Tab Core} (c : Nat) {x : Core} (h : coresWf t) (hx : SpadWf x) : coresWf (Tab.store Core.init t c x) := by
  refine ⟨Tab.wf_store _ t c x h.1, fun e he => ?_⟩
  rcases Tab.mem_store _ t c x e he with ⟨rfl, -⟩ | he
  · exact hx
  · exact h.2 e he

/-- What a table lists at a key is one of its entries. -/
theorem Tab.mem_of_find {α : Type} {t : Tab α} {k : Nat} {v : α} (h : Tab.find t k = some v) : (k, v) ∈ t := by
  induction t with
  | nil => cases h
  | cons e t ih =>
    obtain ⟨j, w⟩ := e
    unfold Tab.find at h
    split_ifs at h with hk
    · subst hk; cases h; exact List.mem_cons_self
    · exact List.mem_cons_of_mem _ (ih h)

/-- The fuses stay. -/
theorem Sound.fuses_eq (h : Sound F s) : s.fuses = F := h.1

/-- Each core's scratchpad is in canonical form. -/
theorem Sound.coreAt {c} (h : Sound F s) : SpadWf (coreAt s c) := by
  obtain ⟨-, -, -, hc, -⟩ := sound_iff.1 h
  unfold Machine.coreAt Tab.get
  cases hf : Tab.find s.cores c with
  | none => rfl
  | some x => exact hc.2 _ (Tab.mem_of_find hf)

protected theorem Sound.setR {pg o v} (h : Sound F s) : Sound F (setR pg o v s) := by
  obtain ⟨rfl, hr, h⟩ := sound_iff.1 h
  exact sound_iff.2 ⟨rfl, regsWf_store _ v hr, h⟩

protected theorem SpadWf.frame {x : Core} {sreg treg preds pend loops branch script res entry valid pos steps ended parked holds squash badGlz pendSt xa xrd claims
    denied loaded loading migrating} (w : SpadWf x) :
    SpadWf { x with
      sreg := sreg, treg := treg, preds := preds, pend := pend, loops := loops, branch := branch, script := script, res := res, entry := entry,
      valid := valid, pos := pos, steps := steps, ended := ended, parked := parked, holds := holds, squash := squash, badGlz := badGlz,
      pendSt := pendSt, xa := xa, xrd := xrd, claims := claims, denied := denied, loaded := loaded, loading := loading, migrating := migrating } := w

protected theorem SpadWf.ite {c : Prop} [Decidable c] {a b : Core} (wa : SpadWf a) (wb : SpadWf b) : SpadWf (if c then a else b) := by
  split
  · exact wa
  · exact wb

protected theorem SpadWf.bind {x y : Core} (w : SpadWf x) (f : SpadWf x → SpadWf y) : SpadWf y := f w

protected theorem SpadWf.foldl {α : Type} {f : Core → α → Core} {x : Core} (w : SpadWf x) (hf : ∀ x a, SpadWf x → SpadWf (f x a)) {l : List α} :
    SpadWf (l.foldl f x) :=
  List.foldlRecOn l f w fun x w a _ => hf x a w

protected theorem SpadWf.spadPut {x a bs} (w : SpadWf x) : SpadWf (spadPut x a bs) := spadPut_wf x a bs w

protected theorem Sound.putDram {key bs} (h : Sound F s) : Sound F (putDram key bs s) := by
  obtain ⟨hf, hr, hd, h⟩ := sound_iff.1 h
  exact sound_iff.2 ⟨hf, hr, putDram_wf key bs s hd, h⟩

protected theorem Sound.setCore {c v} (h : Sound F s) (w : SpadWf v) : Sound F (setCore c v s) := by
  obtain ⟨hf, hr, hd, hc, h⟩ := sound_iff.1 h
  exact sound_iff.2 ⟨hf, hr, hd, coresWf_store c hc w, h⟩

/-- A core updated by a function that keeps its scratchpad canonical; most leave the scratchpad alone. -/
protected theorem Sound.updCore {c f} (h : Sound F s) (hf : ∀ x, SpadWf x → SpadWf (f x) := by exact fun _ w => w) :
    Sound F (updCore c f s) := h.setCore (hf _ h.coreAt)

protected theorem Sound.setArr {c m v} (h : Sound F s) : Sound F (setArr c m v s) := by
  obtain ⟨hf, hr, hd, hc, ha, h⟩ := sound_iff.1 h
  exact sound_iff.2 ⟨hf, hr, hd, hc, Tab.wf_store _ _ _ v ha, h⟩

protected theorem Sound.setVec {c v} (h : Sound F s) : Sound F (setVec c v s) := by
  obtain ⟨hf, hr, hd, hc, ha, hv, h⟩ := sound_iff.1 h
  exact sound_iff.2 ⟨hf, hr, hd, hc, ha, Tab.wf_store _ _ _ v hv, h⟩

protected theorem Sound.setPtn {p v} (h : Sound F s) : Sound F (setPtn p v s) := by
  obtain ⟨hf, hr, hd, hc, ha, hv, hp, h⟩ := sound_iff.1 h
  exact sound_iff.2 ⟨hf, hr, hd, hc, ha, hv, Tab.wf_store _ _ _ v hp, h⟩

protected theorem Sound.setBar {b v} (h : Sound F s) : Sound F (setBar b v s) := by
  obtain ⟨hf, hr, hd, hc, ha, hv, hp, hb, h⟩ := sound_iff.1 h
  exact sound_iff.2 ⟨hf, hr, hd, hc, ha, hv, hp, Tab.wf_store _ _ _ v hb, h⟩

protected theorem Sound.setSlice {i v} (h : Sound F s) : Sound F (setSlice i v s) := by
  obtain ⟨hf, hr, hd, hc, ha, hv, hp, hb, hs, h⟩ := sound_iff.1 h
  exact sound_iff.2 ⟨hf, hr, hd, hc, ha, hv, hp, hb, Tab.wf_store _ _ _ v hs, h⟩

protected theorem Sound.setPort {p v} (h : Sound F s) : Sound F (setPort p v s) := by
  obtain ⟨hf, hr, hd, hc, ha, hv, hp, hb, hs, ho, hg⟩ := sound_iff.1 h
  exact sound_iff.2 ⟨hf, hr, hd, hc, ha, hv, hp, hb, hs, Tab.wf_store _ _ _ v ho, hg⟩

protected theorem Sound.setGrp {g v} (h : Sound F s) : Sound F (setGrp g v s) := by
  obtain ⟨hf, hr, hd, hc, ha, hv, hp, hb, hs, ho, hg⟩ := sound_iff.1 h
  exact sound_iff.2 ⟨hf, hr, hd, hc, ha, hv, hp, hb, hs, ho, Tab.wf_store _ _ _ v hg⟩

end Sys2Proof.Machine
namespace Sys2Proof.Machine

variable {F : Fuses} {s : State}

/-! ### Registers of a sound state read back -/

/-- The listed registers of a sound state stand in the order of their keys. -/
theorem Sound.regs_sorted (h : Sound F s) : Tab.sortedFrom 0 s.regs = true := by
  obtain ⟨-, hr, -⟩ := sound_iff.1 h
  exact (Bool.and_eq_true_iff.1 hr).1

theorem getR_setR_same {pg o v} (h : Sound F s) : getR (setR pg o v s) pg o = v := Tab.get_store_same _ _ _ v h.regs_sorted

/-- A store leaves every other key alone, whatever the default values are. -/
theorem Tab.find_store_ne {α : Type} [DecidableEq α] (d : α) (t : Tab α) {k l : Nat} (v : α) (hne : l ≠ k) :
    Tab.find (Tab.store d t k v) l = Tab.find t l := by
  unfold Tab.store
  split
  · exact Tab.find_erase_ne t hne
  · exact Tab.find_put_ne t v hne

theorem getR_setR_ne {pg o v k l} (hne : regKey k l ≠ regKey pg o) : getR (setR pg o v s) k l = getR s k l :=
  congrArg (Option.getD · (resetKey s.fuses (regKey k l))) (Tab.find_store_ne _ _ v hne)

/-- A key names a page and the offset in it. -/
theorem regKey_mod (pg o : Nat) : regKey pg o % 4096 = o % 4096 := by
  unfold regKey
  split <;> omega

/-- The two words of a 64-bit quantity are two registers (R9). -/
theorem regKey_ne_next (pg o : Nat) : regKey pg o ≠ regKey pg (o + 4) := by
  intro h
  have := regKey_mod pg o
  have := regKey_mod pg (o + 4)
  omega

theorem dword_of_halves (q : DWord) :
    BitVec.ofNat 64 ((BitVec.ofNat 32 q.toNat).toNat + (BitVec.ofNat 32 (q.toNat >>> 32)).toNat * 4294967296) = q := by
  refine BitVec.eq_of_toNat_eq ?_
  have := q.isLt
  simp only [BitVec.toNat_ofNat, Nat.shiftRight_eq_div_pow]
  omega

theorem getQ_setQ {pg o q} (h : Sound F s) : getQ (setQ pg o q s) pg o = q := by
  unfold getQ setQ getN
  rw [getR_setR_ne (regKey_ne_next pg o), getR_setR_same h, getR_setR_same h.setR, dword_of_halves]

protected theorem Sound.setQ {pg o q} (h : Sound F s) : Sound F (setQ pg o q s) := h.setR.setR

/-- Settles O55: a table in the order of its keys reads back what is stored (R9, R11), and the words of a 64-bit quantity are two registers. -/
theorem registersReadBack : Obligations.RegistersReadBack :=
  fun _ _ _ _ _ _ h => ⟨getR_setR_same h, fun _ _ => getR_setR_ne, h.setR, getQ_setQ h, h.setQ⟩

/-- Settles O58: nothing is listed after reset, so every table is canonical. -/
theorem soundAtReset : Obligations.SoundAtReset :=
  ⟨sound_iff.2 ⟨rfl, rfl, reset_dram_wf, ⟨rfl, List.forall_mem_nil _⟩, rfl, rfl, rfl, rfl, rfl, rfl, rfl⟩, List.forall_mem_nil _⟩

end Sys2Proof.Machine

namespace Sys2Proof.Machine

variable {F : Fuses} {s : State}

/-! ### Operations of the state -/

protected theorem Sound.setF {pg o lo len v} (h : Sound F s) : Sound F (setF pg o lo len v s) := h.setR
protected theorem Sound.wrapR {pg o k} (h : Sound F s) : Sound F (wrapR pg o k s) := h.setR
protected theorem Sound.satR {pg o k} (h : Sound F s) : Sound F (satR pg o k s) := h.setR
protected theorem Sound.firstR {pg o v} (h : Sound F s) : Sound F (firstR pg o v s) := .ite h h.setR
protected theorem Sound.fresh (h : Sound F s) : Sound F (fresh s).2 := h.frame
protected theorem Sound.satFree {pg o} (h : Sound F s) : Sound F (satFree pg o s) := h.fresh.satR
protected theorem Sound.collectBusy {ep} (h : Sound F s) : Sound F (collectBusy ep s) := .ite h.satFree h
protected theorem Sound.send {m} (h : Sound F s) : Sound F (send m s) := h.frame
protected theorem Sound.setReady {pg on} (h : Sound F s) : Sound F (setReady pg on s) := .ite h h.setR.setR.wrapR
protected theorem Sound.setDegraded {pg on} (h : Sound F s) : Sound F (setDegraded pg on s) := h.setR
protected theorem Sound.testOver {pg} (h : Sound F s) : Sound F (testOver pg s) := .ite h h.frame

protected theorem Sound.setBState {pg st} (h : Sound F s) : Sound F (setBState pg st s) :=
  h.setR.bind fun h => (Sound.ite h.testOver h).bind fun h => (Sound.ite h.setDegraded h).bind fun h => (Sound.ite h.satR h).bind fun h =>
    .ite h.setReady h

protected theorem Sound.ignoredRws {pg o} (h : Sound F s) : Sound F (ignoredRws pg o s) := .ite h h.setR
protected theorem Sound.ignoredCmd {pg} (h : Sound F s) : Sound F (ignoredCmd pg s) := h.setR
protected theorem Sound.updPtn {p f} (h : Sound F s) : Sound F (updPtn p f s) := h.setPtn
protected theorem Sound.updSlice {i f} (h : Sound F s) : Sound F (updSlice i f s) := h.setSlice
protected theorem Sound.setMover {c e v} (h : Sound F s) : Sound F (setMover c e v s) := h.frame
protected theorem Sound.setGth {c v} (h : Sound F s) : Sound F (setGth c v s) := h.frame
protected theorem Sound.unfreeze {p} (h : Sound F s) : Sound F (unfreeze p s) := (Sound.ite (h.foldS fun _ _ h => h.satFree) h).updPtn

/-! ### Routes -/

protected theorem Sound.updPort {p f} (h : Sound F s) : Sound F (updPort p f s) := h.setPort
protected theorem Sound.lkgDiscard {g reason d} (h : Sound F s) : Sound F (lkgDiscard g reason d s) := h.satR.firstR
protected theorem Sound.putFrame {port item} (h : Sound F s) : Sound F (putFrame port item s) := h.setPort.wrapR

protected theorem Sound.flushN {n port} (h : Sound F s) : Sound F (flushN n port s) := by
  induction n generalizing s with
  | zero => exact h
  | succ n ih =>
    unfold flushN
    split
    · exact h
    · exact ih h.setPort.putFrame

protected theorem Sound.portFlush {port} (h : Sound F s) : Sound F (portFlush port s) := h.flushN
protected theorem Sound.portSend {port cls} (h : Sound F s) : Sound F (portSend port cls s) := h.setPort.portFlush
protected theorem Sound.portClear {port} (h : Sound F s) : Sound F (portClear port s) := h.updPort

protected theorem Sound.portPush {port cls n} (h : Sound F s) : Sound F (portPush port cls n s) := by
  induction n generalizing s with
  | zero => exact h
  | succ n ih => exact ih h.portSend

protected theorem Sound.groupPost {g h' cls len m} (h : Sound F s) : Sound F (groupPost g h' cls len m s) := by
  unfold groupPost
  split
  · exact h.portPush.send
  · exact h.send

protected theorem Sound.post {d h' cls len m} (h : Sound F s) : Sound F (post d h' cls len m s).2 := by
  unfold post
  split
  · exact .ite₂ h h.groupPost
  · exact h.lkgDiscard

protected theorem Sound.postMsg {d cls len m} (h : Sound F s) : Sound F (postMsg d cls len m s) := h.post
protected theorem Sound.postFlit {d f} (h : Sound F s) : Sound F (postFlit d f s).2 := .ite₂ h.post h.post

/-! ### Frames -/

protected theorem Sound.idleFrame {port kind payload} (h : Sound F s) : Sound F (idleFrame port kind payload s).2 := h.fresh

/-! ### Places -/

protected theorem Sound.setFamilyBit {pg o i b} (h : Sound F s) : Sound F (setFamilyBit pg o i b s) := h.setR

/-! ### Directories -/

protected theorem Sound.setDir {i line l} (h : Sound F s) : Sound F (setDir i line l s) := h.frame.setR

protected theorem Sound.sendInvs {i a sharers} (h : Sound F s) : Sound F (sendInvs i a sharers s).2 :=
  h.foldl₂' fun _ _ h => by exact .ite₂ (.ite₂ h.postFlit.wrapR h) h

protected theorem Sound.dirWrite {i line a} (h : Sound F s) : Sound F (dirWrite i line a s).2 := by
  unfold dirWrite
  dsimp only
  split
  · exact .ite₂ h.sendInvs.setDir h.sendInvs.setDir
  · exact h

protected theorem Sound.dirSweep {i line a} (h : Sound F s) : Sound F (dirSweep i line a s) := h.dirWrite.bind fun h => .ite h.setDir h

/-! ### Twin pairs: what they share -/

protected theorem Sound.setPstate {v} (h : Sound F s) : Sound F (setPstate v s) := h.setF
protected theorem Sound.twinSend {kind p q whr bs} (h : Sound F s) : Sound F (twinSend kind p q whr bs s) := h.postMsg

protected theorem Sound.shipSend {kind p q whr bs} (h : Sound F s) : Sound F (shipSend kind p q whr bs s) :=
  h.twinSend.bind fun h => .ite h h.frame

protected theorem Sound.twinWrote {leaven a key} (h : Sound F s) : Sound F (twinWrote leaven a key s) :=
  .ite ((Sound.ite h.twinSend h).bind fun h => .ite h (h.foldS fun _ _ h => .ite h.shipSend h)) h

protected theorem Sound.twinDigest {p a glaze} (h : Sound F s) : Sound F (twinDigest p a glaze s) := .ite h.updPtn h

/-! ### The Annals -/

protected theorem Sound.annPut {off bs} (h : Sound F s) : Sound F (annPut off bs s) := h.frame
protected theorem Sound.ringClaim {r at_ len} (h : Sound F s) : Sound F (ringClaim r at_ len s) := h.frame.bind fun h => .ite h h.satR

protected theorem Sound.ringPlace {r len} (h : Sound F s) : Sound F (ringPlace r len s).2 :=
  .ite₂ h ((Sound.ite h.ringClaim h).bind fun h => (.ite h h.annPut))

protected theorem Sound.ringWrite {r bs} (h : Sound F s) : Sound F (ringWrite r bs s).2 := h.ringPlace.ringClaim.annPut.frame.setR
protected theorem Sound.annSeq (h : Sound F s) : Sound F (annSeq s).2 := h.frame
protected theorem Sound.annLog {pg data body} (h : Sound F s) : Sound F (annLog pg data body s) := h.annSeq.ringWrite
protected theorem Sound.traceAdjust (h : Sound F s) : Sound F (traceAdjust s) := .ite h.setF (.ite h.setF h)
protected theorem Sound.traceDrop (h : Sound F s) : Sound F (traceDrop s) := h.satR

protected theorem Sound.traceWrite {pg src data} (h : Sound F s) : Sound F (traceWrite pg src data s) :=
  h.annSeq.annPut.setR.frame.bind fun h => (Sound.ite h.postMsg.setR.frame h).traceAdjust

protected theorem Sound.memPut {a bs} (h : Sound F s) : Sound F (memPut a bs s) := by
  unfold memPut
  dsimp only
  split
  · exact h.putDram.bind fun h => (Sound.ite h.frame h).dirSweep.twinWrote
  · exact h

protected theorem Sound.setRingWord {r off v} (h : Sound F s) : Sound F (setRingWord r off v s) := h.memPut
protected theorem Sound.ringNotice {r newProd} (h : Sound F s) : Sound F (ringNotice r newProd s) := .ite h h.postMsg.wrapR

protected theorem Sound.alarmPost {r bs} (h : Sound F s) : Sound F (alarmPost r bs s).2 :=
  .ite₂ (.ite₂ (.ite₂ (h.memPut.setRingWord.bind fun h => .ite h.ringNotice h) h.setRingWord) h) h

protected theorem Sound.annFlag {at_ flag} (h : Sound F s) : Sound F (annFlag at_ flag s) := h.annPut

protected theorem Sound.alarmSend {route bs at_} (h : Sound F s) : Sound F (alarmSend route bs at_ s) :=
  h.frame.wrapR.bind fun h => (Sound.ite h.postMsg h).bind fun h => (Sound.ite h.postMsg h).bind fun h => .ite
    (.ite h.alarmPost h.alarmPost.annFlag) h

protected theorem Sound.incidentOpen (h : Sound F s) : Sound F (incidentOpen s) := .ite h (h.setF.setF.frame.bind fun h => .ite h h.setQ)

protected theorem Sound.alarmRecord {src code data count flags body} (h : Sound F s) :
    Sound F (alarmRecord src code data count flags body s).2.2 := by
  unfold alarmRecord
  dsimp only
  split
  · exact h.annSeq.wrapR.annPut.setF.frame
  · exact h.annSeq.wrapR.ringWrite

protected theorem Sound.coalFill {i src code route at_ bs} (h : Sound F s) : Sound F (coalFill i src code route at_ bs s) := h.annPut.frame
protected theorem Sound.coalCount {i n} (h : Sound F s) : Sound F (coalCount i n s) := h.annPut.frame

protected theorem Sound.coalesce {src code route at_ bs} (h : Sound F s) : Sound F (coalesce src code route at_ bs s) := by
  unfold coalesce
  split
  · exact .ite h.coalCount.satR h.coalFill.satR
  · split
    · exact h.coalFill.satR
    · exact h.satR

protected theorem Sound.alarmFull {pg code data urgent body} (h : Sound F s) : Sound F (alarmFull pg code data urgent body s) := by
  unfold alarmFull
  dsimp only
  split
  · split
    · exact h.incidentOpen.alarmRecord.alarmSend
    · exact h.incidentOpen.alarmRecord.coalesce
  · exact h.incidentOpen.alarmRecord

protected theorem Sound.namedAlarm {pg n} (h : Sound F s) : Sound F (namedAlarm pg n s) := h.alarmFull

protected theorem Sound.slotService (h : Sound F s) : Sound F (slotService s) := by
  unfold slotService
  dsimp only
  split
  · split
    · exact .ite h (h.annSeq.ringWrite.setR.wrapR.bind fun h => .ite h.alarmSend h)
    · exact h.alarmSend.coalCount
  · exact h

protected theorem Sound.trace {src pg} (h : Sound F s) : Sound F (trace src pg s) :=
  .ite (.ite h.fresh.traceDrop (.ite (.ite h.fresh.setF.traceDrop.alarmFull h.fresh.traceAdjust.traceDrop) (.ite h.fresh.frame.traceWrite
    h.fresh.frame.traceDrop))) h

/-! ### Faults -/

protected theorem Sound.spanSend {typ b gen cause dst} (h : Sound F s) : Sound F (spanSend typ b gen cause dst s) := h.postMsg.wrapR
protected theorem Sound.ringDiscard {p} (h : Sound F s) : Sound F (ringDiscard p s) := h.frame.setR
protected theorem Sound.lvnNotice {d m} (h : Sound F s) : Sound F (lvnNotice d m s) := .ite h.send h.postMsg
protected theorem Sound.lvnNotices {commit p} (h : Sound F s) : Sound F (lvnNotices commit p s) := (h.foldS fun _ _ h => h.lvnNotice).updPtn
protected theorem Sound.redDiscard {p} (h : Sound F s) : Sound F (redDiscard p s) := h.frame.setR.bind fun h => .ite h h.satR
protected theorem Sound.ptnHalt {p} (h : Sound F s) : Sound F (ptnHalt p s) := h.unfreeze
protected theorem Sound.ptnDropHeld {p} (h : Sound F s) : Sound F (ptnDropHeld p s) := h.foldS fun _ _ h => h.updCore

protected theorem Sound.ptnFaulted {p} (h : Sound F s) : Sound F (ptnFaulted p s) :=
  .ite h h.ptnDropHeld.unfreeze.redDiscard.ringDiscard.lvnNotices.updPtn

protected theorem Sound.recordPage {pg bits} (h : Sound F s) : Sound F (recordPage pg bits s).2 := by
  unfold recordPage
  refine .ite₂ h ?_
  extract_lets _ s₁ _ s₂ _ _ _ s₃ s₄ s₅
  have h₁ : Sound F s₁ := h.setR
  have h₂ : Sound F s₂ := .ite h₁.setReady.frame h₁
  have h₄ : Sound F s₄ := h₂.setBState.alarmFull
  refine .ite₂ h₂ (.ite₂ (.ite₂ h₂ ?_) ?_)
  · dsimp only
    exact h₂.alarmFull
  · unfold s₅
    split
    · exact h₄.ptnFaulted
    · exact h₄

protected theorem Sound.recordPtn {p cause} (h : Sound F s) : Sound F (recordPtn p cause s).2 := by
  unfold recordPtn
  dsimp only
  split
  · exact h
  · split
    · exact .ite₂ h h.updPtn
    · split
      · exact h.updPtn.setR
      · exact h.redDiscard.ptnHalt.setR.updPtn
      · exact h

protected theorem Sound.recordBar {b cause skip} (h : Sound F s) : Sound F (recordBar b cause skip s).2 :=
  .ite₂ ((h.setBar.foldS fun _ _ h => h.spanSend).bind fun h => .ite₂ h h) (.ite₂ h.setBar h)

protected theorem Sound.faultStep {e} (h : Sound F s) : Sound F (faultStep e s).2 := by
  unfold faultStep
  split
  · exact h.recordPage
  · exact h.recordPtn
  · exact h.recordBar

protected theorem Sound.cascade {n es} (h : Sound F s) : Sound F (cascade n es s) := by
  induction n generalizing es s with
  | zero => exact h
  | succ n ih =>
    cases es with
    | nil => exact h
    | cons e t => exact ih h.faultStep

protected theorem Sound.raise {e} (h : Sound F s) : Sound F (raise e s) := h.cascade
protected theorem Sound.fault {pg cause} (h : Sound F s) : Sound F (fault pg cause s) := h.raise
protected theorem Sound.ptnFault {p cause} (h : Sound F s) : Sound F (ptnFault p cause s) := h.raise

protected theorem Sound.ptnFaultOf {p cause} (h : Sound F s) : Sound F (ptnFaultOf p cause s) := by
  unfold ptnFaultOf
  split
  · exact h.ptnFault
  · exact h

/-! ### Operands, registers and stores of a core -/

protected theorem SpadWf.setBase {x file idx v} (w : SpadWf x) : SpadWf (setBase x file idx v) := by
  unfold setBase
  split <;> exact w.frame

protected theorem SpadWf.wrReg {x q file idx i lat v} (w : SpadWf x) : SpadWf (wrReg x q file idx i lat v) := .ite w w.frame
protected theorem SpadWf.wrPred {x q idx i v} (w : SpadWf x) : SpadWf (wrPred x q idx i v) := w.wrReg
protected theorem SpadWf.wrOther {x file idx i lat v} (w : SpadWf x) : SpadWf (wrOther x file idx i lat v) := .ite w w.frame

protected theorem SpadWf.retireWrites {n i x} (w : SpadWf x) : SpadWf (retireWrites n i x) := by
  induction n generalizing x with
  | zero => exact w
  | succ n ih =>
    unfold retireWrites
    split
    · exact w
    · dsimp only
      split
      · exact w
      · exact ih w.frame.setBase

protected theorem SpadWf.spadStore {x a bs iss visLd visV visO} (w : SpadWf x) : SpadWf (spadStore x a bs iss visLd visV visO) := w.frame
protected theorem SpadWf.unitStore {src a bs w' x} (w : SpadWf x) : SpadWf (unitStore src a bs w' x) := w.frame
protected theorem SpadWf.retireStores {i x} (w : SpadWf x) : SpadWf (retireStores i x) := w.frame.foldl fun _ _ w => w.spadPut
protected theorem SpadWf.settle {i x} (w : SpadWf x) : SpadWf (settle i x) := w.retireWrites.retireStores
protected theorem Sound.verifySpad {c r i a len} (h : Sound F s) : Sound F (verifySpad c r i a len s) := .ite h.ptnFaultOf h
protected theorem SpadWf.claim {rank unit t a len x} (w : SpadWf x) : SpadWf (claim rank unit t a len x) := w.frame
protected theorem SpadWf.claimAll {rank unit t n x} (w : SpadWf x) : SpadWf (claimAll rank unit t n x) := w.frame
protected theorem Sound.coreFault {c code} (h : Sound F s) : Sound F (coreFault c code s) := h.firstR.fault
protected theorem Sound.setSig {c n v} (h : Sound F s) : Sound F (setSig c n v s) := h.setR

protected theorem Sound.sigSatisfy {c n} (h : Sound F s) : Sound F (sigSatisfy c n s) := by
  unfold sigSatisfy
  dsimp only
  split
  · exact h
  · split
    · exact h
    · exact .ite (h.setSig.updCore fun _ w => SpadWf.bind (by split; exacts [w.wrPred, w]) fun w => w.frame) h

protected theorem Sound.raiseSig {c n k} (h : Sound F s) : Sound F (raiseSig c n k s) :=
  (Sound.ite h.setSig.setR.coreFault h.setSig).sigSatisfy

protected theorem Sound.raiseFreeze {c} (h : Sound F s) : Sound F (raiseFreeze c s) := by
  unfold raiseFreeze
  split
  · exact h
  · exact .ite h h.updPtn.satR.trace

protected theorem Sound.holdQuiet {c u i op} (h : Sound F s) : Sound F (holdQuiet c u i op s) := h.updCore
protected theorem Sound.holdOp {c u i op} (h : Sound F s) : Sound F (holdOp c u i op s) := h.holdQuiet.raiseFreeze
protected theorem Sound.raiseDenied {c u} (h : Sound F s) : Sound F (raiseDenied c u s) := h.updCore.raiseFreeze
protected theorem Sound.promotedBanks {c} (h : Sound F s) : Sound F (promotedBanks c s).2 := .ite₂ h.fresh h

protected theorem Sound.bankStep {c t} (h : Sound F s) : Sound F (bankStep c t s) :=
  .ite h (h.promotedBanks.updCore.foldS fun _ _ h => h.raiseDenied)

/-! ### Barriers -/

protected theorem Sound.barRelease {b} (h : Sound F s) : Sound F (barRelease b s) := (h.wrapR.foldS fun _ _ h => h.spanSend).setBar.trace

protected theorem Sound.barCheck {n b} (h : Sound F s) : Sound F (barCheck n b s) := by
  induction n generalizing s with
  | zero => exact h
  | succ n ih =>
    unfold barCheck
    dsimp only
    split
    · split
      · exact ih h.setBar.barRelease
      · exact .ite h h.setBar.spanSend
    · exact h

protected theorem Sound.barCount {b who nxt} (h : Sound F s) : Sound F (barCount b who nxt s) := h.setBar.barCheck
protected theorem Sound.barSaturate {b} (h : Sound F s) : Sound F (barSaturate b s) := h.setR.setBar.raise

protected theorem Sound.barArriveOpen {b who} (h : Sound F s) : Sound F (barArriveOpen b who s) :=
  .ite (.ite h.barCount (.ite h.barCount h.barSaturate)) (.ite h.barCount (.ite h.barCount h.barSaturate))

protected theorem Sound.calStale {b} (h : Sound F s) : Sound F (calStale b s) := h.satR
protected theorem Sound.syncParity {b} (h : Sound F s) : Sound F (syncParity b s) := h.satR.raise

protected theorem Sound.coreArrive {p n b bad} (h : Sound F s) : Sound F (coreArrive p n b bad s) :=
  .ite h.syncParity (h.wrapR.bind fun h => .ite h.ptnFault (.ite h.calStale (.ite h.barArriveOpen h.raise)))

protected theorem Sound.spanArriveAt {gen b src} (h : Sound F s) : Sound F (spanArriveAt gen b src s) := by
  unfold spanArriveAt
  dsimp only
  split
  · exact h.calStale
  · split
    · exact .ite (.ite h.raise h.setBar.barCheck) (.ite (.ite h.raise h.setBar) h.raise)
    · exact h.raise

protected theorem Sound.spanReleaseAt {gen b src} (h : Sound F s) : Sound F (spanReleaseAt gen b src s) := by
  unfold spanReleaseAt
  dsimp only
  split
  · exact h.calStale
  · split
    · exact .ite h.barRelease.barCheck h.calStale
    · exact h.raise

protected theorem Sound.spanFaultAt {b src} (h : Sound F s) : Sound F (spanFaultAt b src s) := by
  unfold spanFaultAt
  dsimp only
  split
  · exact h.calStale
  · split
    · exact h.raise
    · exact h.calStale

protected theorem Sound.spanTake {msg bad} (h : Sound F s) : Sound F (spanTake msg bad s) := by
  unfold spanTake
  dsimp only
  split
  · exact h.syncParity
  · split
    · exact h.wrapR.spanArriveAt
    · exact h.wrapR.spanReleaseAt
    · exact h.wrapR.spanFaultAt
    · exact h.wrapR.calStale

protected theorem Sound.calForceOp {k idx} (h : Sound F s) : Sound F (calForceOp k idx s) := .ite h.satR.annLog.setBar.barRelease.barCheck h
protected theorem Sound.calForceWrite {k v} (h : Sound F s) : Sound F (calForceWrite k v s) := .ite h.calForceOp h
protected theorem Sound.calXarriveWrite {k v} (h : Sound F s) : Sound F (calXarriveWrite k v s) := .ite (.ite h.barArriveOpen h.raise) h
protected theorem Sound.barRestore {b gen} (h : Sound F s) : Sound F (barRestore b gen s) := h.setBar

protected theorem Sound.calClearWrite {k v} (h : Sound F s) : Sound F (calClearWrite k v s) :=
  h.foldS fun _ _ h => .ite h.barRestore h.ignoredRws

protected theorem Sound.quietExpireOp {b} (h : Sound F s) : Sound F (quietExpireOp b s) := .ite h.setBar h

protected theorem Sound.calStartOp {k} (h : Sound F s) : Sound F (calStartOp k s) :=
  h.foldS fun _ _ h => .ite (Sound.ite h.barRestore h.setBar).setBar h.setBar

protected theorem Sound.calDisable {k} (h : Sound F s) : Sound F (calDisable k s) := h.foldS fun _ _ h => h.setBar

protected theorem Sound.vigilDetectOp {p} (h : Sound F s) : Sound F (vigilDetectOp p s) :=
  .ite ((Sound.ite h h.firstR.setQ).alarmFull.satR.bind fun h => .ite h.satR.ptnFault h) h

/-! ### Rings and doorbells -/

protected theorem Sound.dblErr {r reason} (h : Sound F s) : Sound F (dblErr r reason s) := h.firstR
protected theorem Sound.dblRefuse {r reason} (h : Sound F s) : Sound F (dblRefuse r reason s) := h.satR.dblErr
protected theorem Sound.setRingBit {r on} (h : Sound F s) : Sound F (setRingBit r on s) := h.setR
protected theorem Sound.setMsgRing {m} (h : Sound F s) : Sound F (setMsgRing m s) := h.frame
protected theorem Sound.setStage {l} (h : Sound F s) : Sound F (setStage l s) := h.frame.setR
protected theorem Sound.stagePut {u} (h : Sound F s) : Sound F (stagePut u s) := h.setStage
protected theorem Sound.updRefused {r} (h : Sound F s) : Sound F (updRefused r s) := h.dblRefuse.namedAlarm
protected theorem Sound.creditBack {d n reenable} (h : Sound F s) : Sound F (creditBack d n reenable s) := h.postMsg

protected theorem Sound.applyUpd {u} (h : Sound F s) : Sound F (applyUpd u s) :=
  .ite (.ite (.ite (Sound.ite h.setRingWord.setRingWord h).setRingWord h.updRefused) (.ite (h.setRingWord.bind fun h => .ite h.ringNotice h)
    (Sound.ite h.setRingWord h).updRefused)) (.ite (h.setRingWord.bind fun h => .ite h.creditBack h) h.updRefused)

protected theorem Sound.hostUpd {u} (h : Sound F s) : Sound F (hostUpd u s) := .ite (.ite h.dblRefuse h.stagePut) h.applyUpd

protected theorem Sound.ringCommit {p} (h : Sound F s) : Sound F (ringCommit p s) :=
  h.setStage.foldS fun _ _ h => h.foldS fun _ _ h => h.applyUpd

protected theorem Sound.ringStopped {p} (h : Sound F s) : Sound F (ringStopped p s) :=
  h.setStage.foldS fun _ _ h => h.foldS fun _ _ h => h.applyUpd

protected theorem Sound.ringDrop {r} (h : Sound F s) : Sound F (ringDrop r s) := h.setStage.bind fun h => .ite h h.satR
protected theorem Sound.dblDiscard {d} (h : Sound F s) : Sound F (dblDiscard d s) := h.foldS fun _ _ h => h.ringDrop

protected theorem Sound.ringEnableOp {r} (h : Sound F s) : Sound F (ringEnableOp r s) :=
  .ite h (.ite (h.setRingBit.bind fun h => .ite (.ite (Sound.ite h h.setMsgRing).creditBack h.setMsgRing) h) h.dblErr)

protected theorem Sound.ringDisableOp {r} (h : Sound F s) : Sound F (ringDisableOp r s) := .ite h.frame.ringDrop.setRingBit h
protected theorem Sound.doorbellWrite {r prod v} (h : Sound F s) : Sound F (doorbellWrite r prod v s) := .ite h.hostUpd h.dblRefuse

/-- To compare the applied function with its body the kernel would evaluate what the body matches on. Here and below the function is taken apart
before it is applied. -/
protected theorem Sound.ringRefuse {a} (h : Sound F s) : Sound F (ringRefuse a s) := by
  suffices key : ∀ f, f = ringRefuse → Sound F (f a s) from key _ rfl
  intro f e
  delta ringRefuse at e
  subst e
  dsimp only
  split
  · exact h.satR
  · exact h

protected theorem Sound.msgSendOp {r} (h : Sound F s) : Sound F (msgSendOp r s) := by
  unfold msgSendOp
  dsimp only
  split
  · exact .ite h.postMsg.setMsgRing.wrapR h
  · exact h

protected theorem Sound.ringArrive {r sdie index entry} (h : Sound F s) : Sound F (ringArrive r sdie index entry s) := by
  unfold ringArrive
  dsimp only
  split
  · exact .ite (.ite (.ite h h.memPut.hostUpd.setMsgRing.wrapR.postMsg) h.postMsg) h
  · exact h

protected theorem Sound.msgAckOp {r index} (h : Sound F s) : Sound F (msgAckOp r index s) := .ite h.hostUpd h

protected theorem Sound.msgCreditOp {r n reenable} (h : Sound F s) : Sound F (msgCreditOp r n reenable s) := by
  unfold msgCreditOp
  dsimp only
  split
  · exact .ite (.ite h.setMsgRing h.setMsgRing) h
  · exact h

protected theorem Sound.ringsLost {d} (h : Sound F s) : Sound F (ringsLost d s) := h.foldS fun _ _ h => .ite h.setMsgRing.namedAlarm h

/-! ### The bulk network -/

protected theorem Sound.flitSend {f} (h : Sound F s) : Sound F (flitSend f s) := h.send

/-! ### Slices and requests -/

protected theorem Sound.respond {typ status data glaze tile f} (h : Sound F s) : Sound F (respond typ status data glaze tile f s) :=
  .ite h.flitSend h.postFlit

protected theorem Sound.respondRd {f bs g tile} (h : Sound F s) : Sound F (respondRd f bs g tile s) := h.respond
protected theorem Sound.respondErr {f} (h : Sound F s) : Sound F (respondErr f s) := h.respond
protected theorem Sound.respondWack {f} (h : Sound F s) : Sound F (respondWack f s) := h.respond

protected theorem Sound.sliceErr {i reason a p} (h : Sound F s) : Sound F (sliceErr i reason a p s) :=
  h.satR.bind fun h => (Sound.ite h h.firstR.setQ).annLog.ptnFaultOf

protected theorem Sound.sliceTick {i} (h : Sound F s) : Sound F (sliceTick i s).2 := h.updSlice
protected theorem Sound.cacheTouch {i key l} (h : Sound F s) : Sound F (cacheTouch i key l s) := h.sliceTick.frame
protected theorem Sound.remoteLines {i up} (h : Sound F s) : Sound F (remoteLines i up s) := h.setR

protected theorem Sound.cacheDrop {i key} (h : Sound F s) : Sound F (cacheDrop i key s) := by
  unfold cacheDrop
  dsimp only
  split
  · exact h.frame.bind fun h => .ite h.remoteLines h
  · exact h

protected theorem Sound.cacheAlloc {i set l} (h : Sound F s) : Sound F (cacheAlloc i set l s) := by
  unfold cacheAlloc
  dsimp only
  split
  · exact h
  · exact h.cacheDrop.sliceTick.frame.bind fun h => .ite h.remoteLines h

protected theorem Sound.cacheDropIf {i p} (h : Sound F s) : Sound F (cacheDropIf i p s) := h.foldS fun _ _ h => h.cacheDrop
protected theorem Sound.peerMsg {j m} (h : Sound F s) : Sound F (peerMsg j m s) := h.postMsg

protected theorem Sound.stackSend {i op bank x} (h : Sound F s) : Sound F (stackSend i op bank x s) := by
  unfold stackSend
  dsimp only
  split
  · exact h.send.portPush
  · exact h.send

protected theorem Sound.rowActivate {i bank row} (h : Sound F s) : Sound F (rowActivate i bank row s) := by
  unfold rowActivate
  dsimp only
  split
  · split
    · split
      · exact h.updSlice
      · exact h.updSlice.bind fun h => .ite h.peerMsg h.stackSend
    · exact .ite h.updSlice h.fresh.updSlice
  · exact h

protected theorem Sound.stackAccess {i op x} (h : Sound F s) : Sound F (stackAccess i op x s) := h.stackSend.stackSend.rowActivate
protected theorem Sound.clearUe {key} (h : Sound F s) : Sound F (clearUe key s) := h.frame

protected theorem Sound.homeHit {i off} (h : Sound F s) : Sound F (homeHit i off s).2 := by
  unfold homeHit
  split
  · split
    · exact h.wrapR.cacheTouch
    · exact h.wrapR
  · exact h

protected theorem Sound.homeFill {i off} (h : Sound F s) : Sound F (homeFill i off s) := .ite h.cacheAlloc h

protected theorem Sound.homeLoad {h'} (h : Sound F s) : Sound F (homeLoad h' s).2 :=
  .ite₂ h.homeHit (h.homeHit.stackAccess.bind fun h => .ite₂ h.satR h.homeFill)

protected theorem Sound.dirNote {i line q} (h : Sound F s) : Sound F (dirNote i line q s).2 := by
  unfold dirNote
  dsimp only
  split
  · exact h.sliceTick.setDir
  · split
    · exact h.sliceTick.setDir
    · split
      · exact h.sliceTick
      · exact h.sliceTick.satR.bind fun h => .ite₂ h.sendInvs.setDir h.sendInvs

protected theorem Sound.slcServed {i} (h : Sound F s) : Sound F (slcServed i s) := h.wrapR
protected theorem Sound.addWait {i w'} (h : Sound F s) : Sound F (addWait i w' s) := h.updSlice
protected theorem Sound.storeLine {h' a bs} (h : Sound F s) : Sound F (storeLine h' a bs s) := h.putDram.stackAccess.frame.clearUe.twinWrote

protected theorem Sound.writeLine {h' a whole merge p} (h : Sound F s) : Sound F (writeLine h' a whole merge p s).2 :=
  (Sound.ite h.homeHit h.homeHit.stackAccess).bind fun h => .ite₂ h.satR.sliceErr (.ite₂ h.satR.sliceErr h.storeLine.dirWrite)

protected theorem Sound.writeTile {h' a bs} (h : Sound F s) : Sound F (writeTile h' a bs s).2 :=
  h.putDram.frame.foldl₂' fun _ _ h => by exact h.homeHit.stackAccess.clearUe.twinWrote.dirWrite

protected theorem Sound.dropStage {i tile} (h : Sound F s) : Sound F (dropStage i tile s) := by
  unfold dropStage
  dsimp only
  split
  · exact h
  · exact h.updSlice.satR.foldS fun _ _ h => h.sliceErr.respondErr

protected theorem Sound.finishStage {h' f t} (h : Sound F s) : Sound F (finishStage h' f t s).2 := by
  unfold finishStage
  dsimp only
  split
  · exact (h.updSlice.satR.foldS fun _ _ h => h.sliceErr.respondErr).sliceErr
  · exact h.updSlice.writeTile.foldl₂' fun _ _ h => by split; exacts [h.addWait, .ite₂ h h.respondWack]

protected theorem Sound.stageBlock {h' f} (h : Sound F s) : Sound F (stageBlock h' f s).2 := by
  unfold stageBlock
  dsimp only
  split
  · exact .ite₂ h.updSlice h.sliceErr
  · exact .ite₂ h.dropStage.sliceErr (.ite₂ h.sliceErr (.ite₂ h.finishStage h.updSlice))

protected theorem Sound.homeRead {f h'} (h : Sound F s) : Sound F (homeRead f h' s).2 := by
  unfold homeRead
  dsimp only
  split
  · exact ((Sound.ite₂ h.dirNote h).of_snd ‹_›).addWait
  · exact .ite₂ ((Sound.ite₂ h.dirNote h).of_snd ‹_›).slcServed.homeHit ((Sound.ite₂ h.dirNote h).of_snd
      ‹_›).slcServed.homeHit.stackAccess.addWait

protected theorem Sound.homeWrite {f h'} (h : Sound F s) : Sound F (homeWrite f h' s).2 := by
  unfold homeWrite
  dsimp only
  split
  · exact h.slcServed.stageBlock
  · split
    · exact h.slcServed.satR.sliceErr
    · split
      · split
        · exact h.slcServed.stagePut
        · exact h.addWait
        · exact h.slcServed.ringRefuse.ptnFaultOf
      · split
        · exact h.slcServed.writeLine.of_snd ‹_›
        · split
          · exact (h.slcServed.writeLine.of_snd ‹_›).addWait
          · exact h.slcServed.writeLine.of_snd ‹_›

protected theorem Sound.homedReq {held f} (h : Sound F s) : Sound F (homedReq held f s).2 := by
  unfold homedReq
  split
  · exact h.frame
  · split
    · exact h.sliceErr
    · exact h.ptnFaultOf
    · exact .ite₂ h.addWait (.ite₂ h.homeRead h.homeWrite)

/-- The address map that the function matches on becomes a variable first (`Sound.ringRefuse` says why). -/
protected theorem Sound.windowReq {f} (h : Sound F s) : Sound F (windowReq f s).2 := by
  suffices key : ∀ g, g = windowReq → Sound F (g f s).2 from key _ rfl
  rintro _ e
  delta windowReq at e
  obtain ⟨site, e₁⟩ := exists_eq' (a' := windowSite)
  rw [e₁] at e
  subst e
  dsimp only
  split
  · exact h
  · exact .ite₂ h.frame (.ite₂ h (h.setCore h.coreAt.spadPut))

protected theorem Sound.accErr {kind a} (h : Sound F s) : Sound F (accErr kind a s) := .ite h h.firstR.setQ

protected theorem Sound.localReq {held f} (h : Sound F s) : Sound F (localReq held f s).2 := by
  unfold localReq
  split
  · exact h.frame
  · split
    · split
      · exact h.homedReq
      · exact h.windowReq
      · exact h.accErr
      · exact h
    · exact h

protected theorem Sound.answer {f r} (h : Sound F r.2) : Sound F (answer f r) := by
  unfold answer
  split
  · exact .ite h.respondRd h.respondWack
  · exact h.respondErr
  · exact h

protected theorem Sound.proxyLook {i d a} (h : Sound F s) : Sound F (proxyLook i d a s).2 := by
  unfold proxyLook
  split
  · split
    · exact h.wrapR.cacheTouch
    · exact h.wrapR
  · exact h

protected theorem Sound.proxyFill {d a data g tile noFill} (h : Sound F s) : Sound F (proxyFill d a data g tile noFill s) := by
  unfold proxyFill
  split
  · exact h
  · exact .ite h.satR (.ite h.cacheAlloc h)

protected theorem Sound.proxyDrop {d a} (h : Sound F s) : Sound F (proxyDrop d a s) := by
  unfold proxyDrop
  split
  · exact h
  · split
    · exact h.cacheDrop
    · exact h

protected theorem Sound.newTxn (h : Sound F s) : Sound F (newTxn s).2 := h.frame

protected theorem Sound.farReq {f} (h : Sound F s) : Sound F (farReq f s) := by
  unfold farReq
  dsimp only
  split
  · split
    · exact h.frame
    · exact h.ptnFaultOf.respondErr
    · split
      · split
        · exact (h.proxyLook.of_snd ‹_›).respondRd
        · have h := h.proxyLook.of_snd ‹_›
          exact .ite h.newTxn.postFlit.frame h.newTxn.postFlit.respondErr
      · exact .ite h.proxyDrop.newTxn.postFlit.frame h.proxyDrop.newTxn.postFlit.respondErr
  · exact .ite h.postFlit h.postFlit.respondErr

protected theorem Sound.headerOk {f} (h : Sound F s) : Sound F (headerOk f s).2 := .ite₂ h (.ite₂ h.satR h.satR.firstR.namedAlarm)
protected theorem Sound.serveReq {f} (h : Sound F s) : Sound F (serveReq f s) := .ite h.localReq.answer h.farReq
protected theorem Sound.reqFlit {f} (h : Sound F s) : Sound F (reqFlit f s) := .ite h.headerOk.serveReq h.headerOk
protected theorem Sound.retry {fs} (h : Sound F s) : Sound F (retry fs s) := h.foldS fun _ _ h => h.localReq.answer
protected theorem Sound.lineFree {i line} (h : Sound F s) : Sound F (lineFree i line s) := h.updSlice.retry
protected theorem Sound.releaseHeld {pg} (h : Sound F s) : Sound F (releaseHeld pg s) := h.frame.foldS fun _ _ h => h.serveReq

protected theorem Sound.retryRings (h : Sound F s) : Sound F (retryRings s) :=
  h.foldS fun _ _ h => h.foldS fun _ _ h => h.satFree.collectBusy.lineFree

protected theorem Sound.ackLine {i line q} (h : Sound F s) : Sound F (ackLine i line q s) :=
  h.updSlice.foldS fun _ _ h =>
    (by split; exacts [h.setDir.bind fun h => Sound.lineFree (by split; exacts [h.addWait, h.respondWack]), h.setDir.retry.lineFree, h])

protected theorem Sound.stackAcks {i} (h : Sound F s) : Sound F (stackAcks i s) := .ite h (h.updSlice.foldS fun _ _ h => h.respondWack)

protected theorem Sound.memoryLost {d} (h : Sound F s) : Sound F (memoryLost d s) :=
  (h.foldS fun _ _ h => h.cacheDropIf).bind fun h => .ite (h.frame.foldS fun _ _ h => h.foldS fun _ _ h => h.ackLine) h

protected theorem Sound.cohnOp {d} (h : Sound F s) : Sound F (cohnOp d s) := h.foldS fun _ _ h => h.cacheDropIf

protected theorem Sound.sliceRetired {i} (h : Sound F s) : Sound F (sliceRetired i s) :=
  h.frame.setR.bind fun h => .ite (h.foldS fun _ _ h => .ite h h.postMsg) h

protected theorem Sound.invOp {f} (h : Sound F s) : Sound F (invOp f s) :=
  .ite (Sound.bind (by split; exacts [h.headerOk.wrapR, h.headerOk]) fun h => h.proxyDrop.frame.postFlit) h.headerOk

protected theorem Sound.iackOp {f} (h : Sound F s) : Sound F (iackOp f s) := by
  unfold iackOp
  dsimp only
  split
  · split
    · exact h.headerOk.ackLine
    · exact h.headerOk
  · exact h.headerOk

protected theorem Sound.stageTimeoutOp {i a} (h : Sound F s) : Sound F (stageTimeoutOp i a s) := h.dropStage

protected theorem Sound.takeStackRead {i} (h : Sound F s) : Sound F (takeStackRead i s).2 := by
  unfold takeStackRead
  dsimp only
  split
  · exact h.updSlice
  · exact h

protected theorem Sound.peerAck {i} (h : Sound F s) : Sound F (peerAck i s) := by
  unfold peerAck
  dsimp only
  split
  · exact .ite h.setSlice.peerMsg h
  · exact h

protected theorem Sound.stackTimeoutOp {i} (h : Sound F s) : Sound F (stackTimeoutOp i s) := by
  unfold stackTimeoutOp
  split
  · exact (h.takeStackRead.of_snd ‹_›).sliceErr.respondErr.lineFree.peerAck
  · exact h.takeStackRead.of_snd ‹_›

/-! ### Move engines -/

protected theorem Sound.noteReject {c a len} (h : Sound F s) : Sound F (noteReject c a len s) := by
  unfold noteReject
  extract_lets s₁
  have h₁ : Sound F s₁ := by
    unfold s₁
    split
    · exact h.accErr
    · exact h
  split
  · split
    · refine .ite ?_ h₁
      split
      · exact h₁.sliceErr
      · exact h₁
    · exact h₁
  · exact h₁

protected theorem Sound.chipPeak {v} (h : Sound F s) : Sound F (chipPeak v s) := h.frame
protected theorem Sound.peakClear {c} (h : Sound F s) : Sound F (peakClear c s) := .ite h h.frame
protected theorem Sound.peakAt {c n m} (h : Sound F s) : Sound F (peakAt c n m s) := h.setR.chipPeak
protected theorem Sound.opAdd {o} (h : Sound F s) : Sound F (opAdd o s) := h.frame.bind fun h => .ite h.peakAt h
protected theorem Sound.localPeak {c n} (h : Sound F s) : Sound F (localPeak c n s) := .ite h h.fresh.peakAt

protected theorem Sound.opGo {o f} (h : Sound F s) : Sound F (opGo o f s).2 := by
  unfold opGo
  split
  · exact h.opAdd.flitSend
  · exact h.opAdd.flitSend
  · split
    · split
      · exact h.opAdd.localReq.answer
      · split
        · exact h.localReq.of_snd ‹_›
        · exact h.localReq.of_snd ‹_›
        · exact (h.localReq.of_snd ‹_›).opAdd
    · exact .ite₂ (.ite h.lkgDiscard h) h.opAdd.postFlit

protected theorem Sound.opIssue {o f} (h : Sound F s) : Sound F (opIssue o f s).2 := .ite₂ h.frame h.opGo

protected theorem Sound.readBlock {c a} (h : Sound F s) : Sound F (readBlock c a s).2 := by
  suffices key : ∀ g, g = readBlock → Sound F (g c a s).2 from key _ rfl
  intro g e
  delta readBlock at e
  obtain ⟨site, e₁⟩ := exists_eq' (a' := windowSite)
  obtain ⟨home, e₂⟩ := exists_eq' (a' := homeOf)
  obtain ⟨area, e₃⟩ := exists_eq' (a' := areaOf)
  rw [e₁, e₂, e₃] at e
  subst e
  dsimp only
  split
  · exact h
  · split
    · split
      · exact h.sliceErr
      · exact h
      · exact .ite₂ h.wrapR.homeLoad h.wrapR.homeLoad.sliceErr
    · split <;> exact h
    · exact h

protected theorem Sound.writeBlock {c kind a bs} (h : Sound F s) : Sound F (writeBlock c kind a bs s).2 := by
  unfold writeBlock
  dsimp only
  split
  · exact h.newTxn.opGo
  · exact h.newTxn.opIssue

protected theorem Sound.writeWholeTile {c kind a bs} (h : Sound F s) : Sound F (writeWholeTile c kind a bs s).2 := by
  unfold writeWholeTile
  dsimp only
  split
  · exact h
  · split
    · exact h.foldl₂' fun _ _ h => by exact h.writeBlock
    · split
      · exact h.sliceErr
      · exact h
      · exact h.dropStage.wrapR.writeTile.foldl₂' fun _ _ h => (by split; exacts [h.newTxn, h.newTxn.opAdd.addWait])

protected theorem Sound.updJob {c e serial f} (h : Sound F s) : Sound F (updJob c e serial f s) := h.setMover
protected theorem Sound.jobOps {c e serial up n} (h : Sound F s) : Sound F (jobOps c e serial up n s) := h.updJob

protected theorem Sound.jobFail {c e serial reason a} (h : Sound F s) : Sound F (jobFail c e serial reason a s) := by
  unfold jobFail
  dsimp only
  split
  · exact h
  · exact h.updJob.bind fun h => (Sound.ite h h.firstR.setQ).ptnFaultOf

protected theorem Sound.wrNote {c e serial a r} (h : Sound F r.2) : Sound F (wrNote c e serial a r) := by
  unfold wrNote
  split
  · exact h
  · exact h.jobFail
  · exact h.jobOps

protected theorem Sound.digestPiece {c a g} (h : Sound F s) : Sound F (digestPiece c a g s) := by
  unfold digestPiece
  split
  · exact .ite h.twinDigest h
  · exact h

protected theorem Sound.writePiece {c e serial a bs} (h : Sound F s) : Sound F (writePiece c e serial a bs s) := by
  unfold writePiece
  dsimp only
  split
  · exact h.jobFail
  · exact h.digestPiece.writeBlock.wrNote
  · exact (Sound.ite h.newTxn.proxyDrop h.newTxn).digestPiece.bind fun h => (Sound.ite₂ h h.opIssue).wrNote

protected theorem Sound.writeRow {c e serial a bs} (h : Sound F s) : Sound F (writeRow c e serial a bs s) :=
  h.localPeak.foldS fun _ _ h =>
    (by split; exacts [.ite (.ite ((h.foldS fun _ _ h => h.digestPiece).writeWholeTile.foldS fun _ _ h => h.wrNote) h) h.writePiece, h.writePiece])

protected theorem Sound.writeScript {c e j bs} (h : Sound F s) : Sound F (writeScript c e j bs s) := by
  unfold writeScript
  dsimp only
  split
  · exact h.jobFail
  · exact h.foldS fun _ _ h => h.updCore

protected theorem Sound.sendMcast {c e j bs} (h : Sound F s) : Sound F (sendMcast c e j bs s) :=
  .ite h.jobFail ((h.newTxn.foldS fun _ _ h => h.opAdd).foldS fun _ _ h => h.flitSend).jobOps

protected theorem Sound.sendRed {c e j bs} (h : Sound F s) : Sound F (sendRed c e j bs s) := by
  unfold sendRed
  dsimp only
  split
  · exact h.jobFail
  · exact .ite h.jobFail (Sound.bind (by split; exacts [h.updPtn, h]) fun h => h.foldS fun _ _ h => h.newTxn.digestPiece.opIssue.jobOps)

protected theorem Sound.rowRead {c e j row bs} (h : Sound F s) : Sound F (rowRead c e j row bs s) := by
  unfold rowRead
  split
  · exact h.writeRow
  · exact h.writeScript
  · exact h.sendMcast
  · exact h.sendRed
  · exact h.sendRed
  · exact h

protected theorem Sound.glazeNote {c good} (h : Sound F s) : Sound F (glazeNote c good s) := .ite h h.ptnFaultOf

protected theorem Sound.readPiece {c kind p} (h : Sound F s) : Sound F (readPiece c kind p s).2 := by
  unfold readPiece
  dsimp only
  split
  · exact h
  · split
    · exact h.newTxn.opIssue
    · split
      · exact (h.readBlock.of_snd ‹_›).glazeNote
      · exact h.readBlock.of_snd ‹_›
  next d l _ =>
    have hl : Sound F (if proxied s d l then
        (match proxyOf s l with | none => (none, true, s) | some i => ((proxyLook i d l s).1, false, (proxyLook i d l s).2))
      else (none, false, s)).2.2 := .ite₃ (by split; exacts [h, h.proxyLook]) h
    split
    · exact h
    · split
      · exact hl.of_snd₂ ‹_›
      · exact .ite₂ (hl.of_snd₂ ‹_›) (hl.of_snd₂ ‹_›).glazeNote
      · split <;> exact (hl.of_snd₂ ‹_›).newTxn.opIssue.of_snd ‹_›

protected theorem Sound.readRow {c e j row} (h : Sound F s) : Sound F (readRow c e j row s).2 := by
  refine (h.localPeak.foldl₄ fun p a h => ?_).bind fun h => .ite₂ h.jobOps (.ite₂ h.rowRead h.updJob)
  obtain ⟨ok, bs, m, t⟩ := p
  cases ok with
  | false => exact h
  | true =>
    dsimp only
    split
    · exact (Sound.readPiece h).of_snd ‹_›
    · exact (Sound.readPiece h).of_snd ‹_›
    · exact ((Sound.readPiece h).of_snd ‹_›).jobFail

protected theorem Sound.rowCheck {c e j row} (h : Sound F s) : Sound F (rowCheck c e j row s).2 :=
  .ite₂ h.noteReject.jobFail (.ite₂ h.noteReject.jobFail (.ite₂ h.jobFail (.ite₂ h.jobFail h)))

protected theorem Sound.fillRow {c e j row} (h : Sound F s) : Sound F (fillRow c e j row s) := h.writeRow

protected theorem Sound.runRows {c e j l} (h : Sound F s) : Sound F (runRows c e j l s) := by
  induction l generalizing s with
  | nil => exact h
  | cons r t ih =>
    exact h.rowCheck.bind fun h =>
      .ite (.ite (h.fillRow.bind fun h => .ite h (ih h)) (h.readRow.bind fun h => .ite (ih h) h)) h

protected theorem Sound.takeDesc {k c e} (h : Sound F s) : Sound F (takeDesc k c e s) := by
  unfold takeDesc
  dsimp only
  split
  · exact .ite h.setMover.runRows h
  · exact h

protected theorem Sound.completeDesc {c e bad} (h : Sound F s) : Sound F (completeDesc c e bad s) := by
  unfold completeDesc
  dsimp only
  split
  · exact .ite (h.setMover.wrapR.bind fun h => (Sound.ite h.satR h).bind fun h =>
      .ite h ((Sound.ite h.raiseSig h).bind fun h => .ite (by split; exacts [h.coreArrive, h]) h)) h
  · exact h

protected theorem Sound.movAbort {c} (h : Sound F s) : Sound F (movAbort c s) :=
  h.updCore.frame.foldS fun _ _ h => h.setMover.bind fun h => .ite h h.satR.wrapR

protected theorem SpadWf.xaSet {x ar v k} (w : SpadWf k) : SpadWf (xaSet x ar v k) := w.frame
protected theorem Sound.movCause {c cause} (h : Sound F s) : Sound F (movCause c cause s) := h.fault
protected theorem Sound.descErr {c x at_} (h : Sound F s) : Sound F (descErr c x at_ s) := h.firstR.movCause

protected theorem Sound.xOn {c pg f} (h : Sound F s) (hf : ∀ s, Sound F s → Sound F (f s)) : Sound F (xOn c pg f s) :=
  .ite (hf _ h) h.ptnFaultOf

protected theorem Sound.xsetaAt {c x ar sreg i} (h : Sound F s) : Sound F (xsetaAt c x ar sreg i s) :=
  h.xOn fun _ h => .ite (h.updCore fun _ w => w.xaSet) h.movCause

protected theorem Sound.xsetaiAt {c x ar off i} (h : Sound F s) : Sound F (xsetaiAt c x ar off i s) :=
  h.xOn fun _ h => h.updCore fun _ w => w.xaSet

protected theorem Sound.xBegin {c x gq ar post a len i} (h : Sound F s) : Sound F (xBegin c x gq ar post a len i s) :=
  h.updCore fun _ w => w.frame.bind fun w => .ite w.xaSet w

protected theorem Sound.xUndo {c r} (h : Sound F s) : Sound F (xUndo c r s) := h.updCore fun _ w => .ite w.xaSet w

protected theorem Sound.xqAt {c x ar post n op i} (h : Sound F s) : Sound F (xqAt c x ar post n op i s) :=
  h.xOn fun _ h => .ite h.movCause (.ite h.holdOp h.xBegin)

protected theorem Sound.xqDone {c r} (h : Sound F s) : Sound F (xqDone c r s) := by
  unfold xqDone
  dsimp only
  split
  · exact h.descErr.xUndo
  · exact h.setMover

protected theorem Sound.xOp {c x op f} (h : Sound F s) (hf : ∀ a0 s, Sound F s → Sound F (f a0 s)) : Sound F (xOp c x op f s) :=
  .ite h (.ite h.holdOp (hf _ _ h))

/-! ### Matrix arrays -/

protected theorem Sound.updArr {c m f} (h : Sound F s) : Sound F (updArr c m f s) := h.setArr
protected theorem Sound.mCause {c m bits} (h : Sound F s) : Sound F (mCause c m bits s) := h.raise
protected theorem Sound.mFlags {c m fl} (h : Sound F s) : Sound F (mFlags c m fl s) := h.setR

protected theorem Sound.mOp {c m f} (h : Sound F s) (hf : ∀ a0 s, Sound F s → Sound F (f a0 s)) : Sound F (mOp c m f s) :=
  .ite h (.ite (hf _ _ h) h.ptnFaultOf)

protected theorem Sound.modeAt {c m v} (h : Sound F s) : Sound F (modeAt c m v s) := .ite h.updArr h.mCause
protected theorem Sound.setaAt {c m ar sreg i} (h : Sound F s) : Sound F (setaAt c m ar sreg i s) := .ite h.updArr h.mCause
protected theorem Sound.setaiAt {c m ar off} (h : Sound F s) : Sound F (setaiAt c m ar off s) := h.updArr
protected theorem Sound.setcntAt {c m sreg i} (h : Sound F s) : Sound F (setcntAt c m sreg i s) := .ite h.updArr h.mCause

protected theorem Sound.mismatch {c m col half split idx serial} (h : Sound F s) : Sound F (mismatch c m col half split idx serial s) :=
  h.setR.bind fun h => (Sound.ite h h.firstR.setR).updArr.ptnFaultOf

protected theorem Sound.checkSkips {c m n} (h : Sound F s) : Sound F (checkSkips c m n s) := .ite h h.satR.mFlags
protected theorem Sound.loadStart {c m p k i} (h : Sound F s) : Sound F (loadStart c m p k i s) := h.updArr

protected theorem Sound.arrRead {c rank m i a len} (h : Sound F s) : Sound F (arrRead c rank m i a len s).2 :=
  .ite₂ h (h.verifySpad.updCore fun _ w => w.claim)

protected theorem Sound.loaderRead {c m n i j} (h : Sound F s) : Sound F (loaderRead c m n i j s).2 :=
  h.foldl₂' fun _ _ h => by exact h.arrRead.arrRead

protected theorem Sound.loadCycle {c m a i} (h : Sound F s) : Sound F (loadCycle c m a i s) :=
  (h.foldl₂' fun _ _ h => by exact .ite₂ h.loaderRead h).updArr

protected theorem Sound.combAdd {c m r k w' serial p} (h : Sound F s) : Sound F (combAdd c m r k w' serial p s) :=
  h.setArr.bind fun h => (Sound.ite h h.mFlags).bind fun h => .ite h.mismatch h

protected theorem Sound.combRound {c m r k e f o serial} (h : Sound F s) : Sound F (combRound c m r k e f o serial s).2 :=
  (Sound.ite h.mismatch h).bind fun h => .ite₂ h.mFlags (.ite h h.mFlags)

protected theorem Sound.combTake {c m r j out} (h : Sound F s) : Sound F (combTake c m r j out s) :=
  (Sound.ite h.updArr h).foldS fun _ _ h => h.combAdd

protected theorem Sound.combGive {c m r i j} (h : Sound F s) : Sound F (combGive c m r i j s).2 := by
  unfold combGive
  dsimp only
  refine Sound.updCore (Sound.updArr (Sound.foldl₂' ?_ fun _ _ h => by exact h.combRound)) fun _ w => w.unitStore.claim
  exact .ite₂ h.arrRead.arrRead h.arrRead

protected theorem Sound.feedRow {c m r i j} (h : Sound F s) : Sound F (feedRow c m r i j s).2 :=
  h.foldl₂' fun _ _ h => by exact h.arrRead.arrRead

protected theorem Sound.checkTake {c m col half split idx serial res} (h : Sound F s) :
    Sound F (checkTake c m col half split idx serial res s) :=
  .ite h.checkSkips (.ite h.mismatch h)

protected theorem Sound.sumHalf {c m r i j h' q dst bytes scales} (h : Sound F s) : Sound F (sumHalf c m r i j h' q dst bytes scales s).2 :=
  (Sound.ite h.mFlags h).checkTake.bind fun h => .ite₂ (.ite h.arrRead h.arrRead.mFlags) h

protected theorem Sound.sumRow {c m r i j} (h : Sound F s) : Sound F (sumRow c m r i j s).2 := h.foldl₂' fun _ _ h => by exact h.sumHalf

protected theorem Sound.checkCols {c m j} (h : Sound F s) : Sound F (checkCols c m j s) :=
  .ite h (h.foldS fun _ _ h => h.foldS fun _ _ h => h.checkTake)

protected theorem Sound.drainRow {c m r i j} (h : Sound F s) : Sound F (drainRow c m r i j s).2 :=
  h.foldS fun _ _ h => h.updArr.bind fun h => .ite h ((Sound.ite h h.mFlags).updCore fun _ w => w.unitStore.claim)

protected theorem Sound.handRow {c m r j} (h : Sound F s) : Sound F (handRow c m r j s).2 := h.combTake

protected theorem Sound.eachStream {c m f} (h : Sound F s) (hf : ∀ a0 s, Sound F s → Sound F (f a0 s).2) : Sound F (eachStream c m f s) :=
  (h.foldl₂' fun _ _ h => by exact hf _ _ h).updArr

protected theorem Sound.onRow {d a f j} (h : Sound F s) (hf : ∀ a0 a1 s, Sound F s → Sound F (f a0 a1 s).2) :
    Sound F (onRow d a f j s).2 := by
  unfold onRow
  split
  · exact hf _ _ _ h
  · exact h

protected theorem Sound.arrCycle {c m a i} (h : Sound F s) : Sound F (arrCycle c m a i s) :=
  .ite h ((((((h.loadCycle.eachStream fun _ _ h => h.onRow fun _ _ _ h => h.feedRow).eachStream fun _ _ h => h.onRow fun _ _ _ h =>
    h.sumRow).eachStream fun _ _ h => .ite h.checkCols h).eachStream fun _ _ h =>
    (by split; exacts [h.onRow fun _ _ _ h => h.handRow, h.onRow fun _ _ _ h => h.drainRow])).eachStream fun _ _ h =>
    (by split; exacts [h.onRow fun _ _ _ h => h.combGive, h])).updArr)

protected theorem Sound.arrHold {c m h' i} (h : Sound F s) : Sound F (arrHold c m h' i s) :=
  .ite h (h.foldS fun _ _ h => h.arrCycle).updArr.raiseDenied

protected theorem Sound.mLdAt {c m wgt i} (h : Sound F s) : Sound F (mLdAt c m wgt i s) := .ite h.arrHold.loadStart h.mCause

protected theorem Sound.streamAt {c m sw ld acc ckr src dst wgt count i} (h : Sound F s) :
    Sound F (streamAt c m sw ld acc ckr src dst wgt count i s) :=
  .ite h.mCause (h.arrHold.bind fun h => (Sound.ite h.satR h).updArr.bind fun h => .ite h.loadStart h)

protected theorem Sound.bistRecord {pg rows cols} (h : Sound F s) : Sound F (bistRecord pg rows cols s) := h.setR.setR.setR
protected theorem Sound.bistStart {pg} (h : Sound F s) : Sound F (bistStart pg s) := .ite h.setF.frame h.ignoredRws

protected theorem Sound.bistFinish {pg rows cols} (h : Sound F s) : Sound F (bistFinish pg rows cols s) :=
  .ite (h.frame.bistRecord.bind fun h => .ite h h.fault) h

protected theorem Sound.arrReset {c m} (h : Sound F s) : Sound F (arrReset c m s) := h.setArr.setR
protected theorem Sound.planesDrop {c m} (h : Sound F s) : Sound F (planesDrop c m s) := h.updArr
protected theorem Sound.combClose {c m} (h : Sound F s) : Sound F (combClose c m s) := h.updArr

/-! ### Vector engines -/

protected theorem Sound.vecSettle {c i} (h : Sound F s) : Sound F (vecSettle c i s) := .ite h h.setVec.setR
protected theorem Sound.updVec {c f} (h : Sound F s) : Sound F (updVec c f s) := h.setVec
protected theorem Sound.vCause {c slot op bits} (h : Sound F s) : Sound F (vCause c slot op bits s) := h.firstR.raise

protected theorem Sound.vOp {c slot op causes f} (h : Sound F s) (hf : ∀ a0 s, Sound F s → Sound F (f a0 s)) :
    Sound F (vOp c slot op causes f s) :=
  .ite h (.ite (.ite h.vCause (hf _ _ h)) h.ptnFaultOf)

protected theorem Sound.vrBody {c f sr lat g i} (h : Sound F s) : Sound F (vrBody c f sr lat g i s) := h.setVec
protected theorem Sound.vaddAt {c f i} (h : Sound F s) : Sound F (vaddAt c f i s) := h.vrBody
protected theorem Sound.vsubAt {c f i} (h : Sound F s) : Sound F (vsubAt c f i s) := h.vrBody
protected theorem Sound.vmulAt {c f i} (h : Sound F s) : Sound F (vmulAt c f i s) := h.vrBody
protected theorem Sound.vfmaAt {c f i} (h : Sound F s) : Sound F (vfmaAt c f i s) := h.vrBody
protected theorem Sound.vfmsAt {c f i} (h : Sound F s) : Sound F (vfmsAt c f i s) := h.vrBody
protected theorem Sound.vfnmaAt {c f i} (h : Sound F s) : Sound F (vfnmaAt c f i s) := h.vrBody
protected theorem Sound.vminAt {c f i} (h : Sound F s) : Sound F (vminAt c f i s) := h.vrBody
protected theorem Sound.vmaxAt {c f i} (h : Sound F s) : Sound F (vmaxAt c f i s) := h.vrBody

protected theorem Sound.vabsAt {c f i} (h : Sound F s) : Sound F (vabsAt c f i s) := by
  unfold vabsAt
  dsimp only
  exact h.vrBody

protected theorem Sound.vnegAt {c f i} (h : Sound F s) : Sound F (vnegAt c f i s) := by
  unfold vnegAt
  dsimp only
  exact h.vrBody

protected theorem Sound.vrintAt {c f i} (h : Sound F s) : Sound F (vrintAt c f i s) := by
  unfold vrintAt
  dsimp only
  exact h.vrBody

protected theorem Sound.vcmpAt {c f i} (h : Sound F s) : Sound F (vcmpAt c f i s) := h.setVec
protected theorem Sound.vselAt {c f i} (h : Sound F s) : Sound F (vselAt c f i s) := h.setVec
protected theorem Sound.vmovAt {c f i} (h : Sound F s) : Sound F (vmovAt c f i s) := h.vrBody
protected theorem Sound.vandAt {c f i} (h : Sound F s) : Sound F (vandAt c f i s) := h.vrBody
protected theorem Sound.vorAt {c f i} (h : Sound F s) : Sound F (vorAt c f i s) := h.vrBody
protected theorem Sound.vxorAt {c f i} (h : Sound F s) : Sound F (vxorAt c f i s) := h.vrBody

protected theorem Sound.vshlAt {c f i} (h : Sound F s) : Sound F (vshlAt c f i s) := by
  unfold vshlAt
  dsimp only
  exact h.vrBody

protected theorem Sound.vshrAt {c f i} (h : Sound F s) : Sound F (vshrAt c f i s) := by
  unfold vshrAt
  dsimp only
  exact h.vrBody

protected theorem Sound.vsraAt {c f i} (h : Sound F s) : Sound F (vsraAt c f i s) := by
  unfold vsraAt
  dsimp only
  exact h.vrBody

protected theorem Sound.cvtBody {c f a b sr i} (h : Sound F s) : Sound F (cvtBody c f a b sr i s) := h.setVec
protected theorem Sound.vcvtAt {c f i} (h : Sound F s) : Sound F (vcvtAt c f i s) := h.cvtBody
protected theorem Sound.vunpkAt {c f i} (h : Sound F s) : Sound F (vunpkAt c f i s) := h.cvtBody
protected theorem Sound.maskAt {g c f i} (h : Sound F s) : Sound F (maskAt g c f i s) := h.setVec
protected theorem Sound.splat {c slot d t v i} (h : Sound F s) : Sound F (splat c slot d t v i s) := h.updVec
protected theorem Sound.vlisAt {c d imm t i} (h : Sound F s) : Sound F (vlisAt c d imm t i s) := h.splat
protected theorem Sound.vbcsAt {c d sreg t i} (h : Sound F s) : Sound F (vbcsAt c d sreg t i s) := h.splat
protected theorem Sound.vaSet {c ar v} (h : Sound F s) : Sound F (vaSet c ar v s) := h.updVec
protected theorem Sound.vmPost {c f} (h : Sound F s) : Sound F (vmPost c f s) := .ite h.updVec h
protected theorem Sound.vOor {c n} (h : Sound F s) : Sound F (vOor c n s) := .ite h h.satR
protected theorem Sound.vRead {c t a len} (h : Sound F s) : Sound F (vRead c t a len s) := h.verifySpad.updCore fun _ w => w.claim

protected theorem Sound.vldAt {c f i} (h : Sound F s) : Sound F (vldAt c f i s) :=
  Sound.bind (by split; exacts [h.setVec.vRead, h.setVec.vRead, ((h.setVec.updCore fun _ w => w.claimAll).foldS fun _ _ h => .ite h h.verifySpad).vOor]) fun h => h.vmPost

protected theorem Sound.vstAt {c f i} (h : Sound F s) : Sound F (vstAt c f i s) :=
  ((h.updCore fun _ w => w.foldl fun _ _ w => w.unitStore).updCore fun _ w => .ite w.claimAll (w.foldl fun _ _ w =>
    w.claim)).updVec.vOor.vmPost

protected theorem Sound.vcmprAt {c f i} (h : Sound F s) : Sound F (vcmprAt c f i s) := h.setVec
protected theorem Sound.vexpdAt {c f i} (h : Sound F s) : Sound F (vexpdAt c f i s) := h.setVec
protected theorem Sound.wrElem0 {c d lat v i} (h : Sound F s) : Sound F (wrElem0 c d lat v i s) := h.updVec
protected theorem Sound.mcntAt {c f i} (h : Sound F s) : Sound F (mcntAt c f i s) := h.wrElem0
protected theorem Sound.vflagsAt {c f i} (h : Sound F s) : Sound F (vflagsAt c f i s) := h.updVec.bind fun h => .ite h.updVec.setR h
protected theorem Sound.vEmpties {c n} (h : Sound F s) : Sound F (vEmpties c n s) := .ite h h.satR
protected theorem Sound.vredAt {c f i} (h : Sound F s) : Sound F (vredAt c f i s) := h.setVec.vEmpties
protected theorem Sound.sfuBody {c f op lat g i} (h : Sound F s) : Sound F (sfuBody c f op lat g i s) := h.setVec
protected theorem Sound.smxaAt {c f i} (h : Sound F s) : Sound F (smxaAt c f i s) := h.setVec
protected theorem Sound.smxnAt {c f i} (h : Sound F s) : Sound F (smxnAt c f i s) := h.setVec.vEmpties
protected theorem Sound.vecReset {c} (h : Sound F s) : Sound F (vecReset c s) := h.setVec.setR
protected theorem Sound.vecClear {c} (h : Sound F s) : Sound F (vecClear c s) := h.updVec.setR

/-! ### Gather engines -/

protected theorem Sound.gqAt {c x ar post i} (h : Sound F s) : Sound F (gqAt c x ar post i s) :=
  h.xOn fun _ h => .ite h.movCause (h.xOn fun _ h => .ite h.movCause (.ite h.holdOp h.xBegin))

protected theorem Sound.gqDone {c r} (h : Sound F s) : Sound F (gqDone c r s) := .ite h.setGth h.descErr.fault.xUndo

protected theorem Sound.xStep {c t} (h : Sound F s) : Sound F (xStep c t s) :=
  (h.foldS fun _ _ h => (by split; exacts [(h.updCore fun _ w => w.claim).verifySpad, h])).bind fun h => (h.setCore h.coreAt.frame).foldS
    fun _ _ h => .ite h.gqDone h.xqDone

protected theorem Sound.setThread {c t b} (h : Sound F s) : Sound F (setThread c t b s) := h.setGth

protected theorem Sound.lineFetch {c kind k} (h : Sound F s) : Sound F (lineFetch c kind k s).2.2 := by
  unfold lineFetch
  dsimp only
  refine .ite₃ h.noteReject (.ite₃ h (.ite₃ h ?_))
  split <;> exact h.localPeak.readPiece.of_snd ‹_›

protected theorem Sound.updGroup {c serial f} (h : Sound F s) : Sound F (updGroup c serial f s) := h.setGth

protected theorem Sound.sharedLine {c serial k} (h : Sound F s) : Sound F (sharedLine c serial k s).2 := by
  unfold sharedLine
  split
  · exact h
  · split
    · exact h
    · exact h
    · split
      · exact h
      · split
        · exact (h.lineFetch.of_snd₂ ‹_›).updGroup
        · exact (h.lineFetch.of_snd₂ ‹_›).updGroup
        · exact (h.lineFetch.of_snd₂ ‹_›).updGroup
        · exact h.lineFetch.of_snd₂ ‹_›

protected theorem Sound.rowLine {c t k} (h : Sound F s) : Sound F (rowLine c t k s).2 := by
  unfold rowLine
  split
  · exact h
  · split
    · exact h
    · refine .ite₂ h ?_
      extract_lets upd
      have hu (f s) (h : Sound F s) : Sound F (upd f s) := by
        dsimp only [upd]
        split
        · exact h.setThread
        · exact h
      have hl := h.lineFetch (c := c) (kind := .gthRead c t k) (k := k)
      split
      next e => exact hu _ _ (hl.of_snd₂ e)
      next e => exact hl.of_snd₂ e
      next e => exact hu _ _ (hl.of_snd₂ e)
      next e => exact hl.of_snd₂ e

protected theorem Sound.gatherPieces {line l} (h : Sound F s) (hline : ∀ k s, Sound F s → Sound F (line k s).2) :
    Sound F (gatherPieces line l s).2 := by
  induction l generalizing s with
  | nil => exact h
  | cons p l ih =>
    unfold gatherPieces
    split
    next r t e =>
      have h := (hline _ _ h).of_snd e
      split
      · exact h
      · split
        next q u e' =>
          have h := (ih h).of_snd e'
          split <;> exact h

protected theorem Sound.sharedBytes {c serial a n} (h : Sound F s) : Sound F (sharedBytes c serial a n s).2 :=
  h.gatherPieces fun _ _ h => h.sharedLine

protected theorem Sound.rowBytes {c t a n} (h : Sound F s) : Sound F (rowBytes c t a n s).2 := h.gatherPieces fun _ _ h => h.rowLine

protected theorem Sound.gatherAhead {c d b} (h : Sound F s) : Sound F (gatherAhead c d b s) :=
  .ite h (h.sharedBytes.bind fun h => .ite h.sharedBytes h)

protected theorem Sound.gatherStart {c} (h : Sound F s) : Sound F (gatherStart c s) := by
  unfold gatherStart
  dsimp only
  split
  · exact .ite (h.setGth.bind fun h => .ite (h.foldS fun _ _ h => h.sharedBytes) h) h
  · exact h

protected theorem Sound.gatherErr {c bag reason} (h : Sound F s) : Sound F (gatherErr c bag reason s) := h.firstR.ptnFaultOf
protected theorem Sound.gthFlag {c n} (h : Sound F s) : Sound F (gthFlag c n s) := h.setR

protected theorem Sound.bagBounds {c t b lo hi} (h : Sound F s) : Sound F (bagBounds c t b lo hi s) :=
  .ite h.setThread.satR.gthFlag h.setThread

protected theorem Sound.gatherIndex {c t d b} (h : Sound F s) : Sound F (gatherIndex c t d b s) := by
  unfold gatherIndex
  extract_lets w next _
  have hn (s) (h : Sound F s) : Sound F (next s) := by
    dsimp only [next]
    split
    · exact h.setThread
    · exact h
  have hs := h.sharedBytes (c := c) (serial := b.serial) (a := gIdx d + b.next * w) (n := w)
  split
  next e => exact hs.of_snd e
  next e => exact (hn _ (hs.of_snd e)).gatherErr
  next s₁ e =>
    have h₁ := hs.of_snd e
    refine .ite (hn _ h₁) (.ite (hn _ h₁).satR ?_)
    split
    next e =>
      have h₂ := Sound.of_snd (.ite₂ h₁.sharedBytes h₁) e
      split
      next e =>
        have h₃ := h₂.rowBytes.of_snd e
        split
        · exact (hn _ h₃).gatherErr
        · exact (hn _ h₃).gatherErr
        · exact h₃.setThread.wrapR
        · exact h₃

protected theorem Sound.gatherStep {c t} (h : Sound F s) : Sound F (gatherStep c t s) := by
  unfold gatherStep
  dsimp only
  split
  · exact h
  · split
    · exact h
    · split
      · exact h
      · split
        · exact h.gatherErr.bind fun h => .ite h.setThread h.setThread
        · split
          · exact .ite h.gatherAhead.gatherIndex h
          · split
            · split
              · exact h.sharedBytes.of_snd ‹_›
              · exact (h.sharedBytes.of_snd ‹_›).setThread.gatherErr
              · exact (h.sharedBytes.of_snd ‹_›).bagBounds
            · exact h.bagBounds

protected theorem Sound.raiseGroups {c n} (h : Sound F s) : Sound F (raiseGroups c n s) := by
  induction n generalizing s with
  | zero => exact h
  | succ n ih =>
    unfold raiseGroups
    dsimp only
    split
    · exact h
    · exact .ite (.ite (ih (by split; exacts [h.setGth, h.setGth.raiseSig])) h) (ih h.setGth)

protected theorem Sound.bagFinish {c t} (h : Sound F s) : Sound F (bagFinish c t s) := by
  unfold bagFinish
  dsimp only
  split
  · exact h
  · split
    · exact h
    · exact .ite ((h.updCore fun _ w => w.spadPut).bind fun h => (Sound.ite h h.gthFlag).wrapR.bind fun h =>
        (Sound.ite h.satR h).setGth.raiseGroups) h

protected theorem Sound.gthAbort {c} (h : Sound F s) : Sound F (gthAbort c s) := h.updCore.setGth.frame

/-! ### Network blocks -/

protected theorem Sound.rackTo {status k} (h : Sound F s) : Sound F (rackTo status k s) := .ite h.flitSend h.postFlit

protected theorem Sound.unitNote {u bad} (h : Sound F s) : Sound F (unitNote u bad s) := by
  unfold unitNote
  split
  · exact h.frame
  · exact h

protected theorem Sound.opError {o} (h : Sound F s) : Sound F (opError o s) := by
  unfold opError
  dsimp only
  split
  · exact h.jobFail.updJob
  · exact h.jobFail.jobOps
  · split
    · exact h.updGroup
    · split
      · split
        · exact h.setThread.gatherStep
        · exact h.setThread
      · exact h
  · exact h.respondErr
  · exact h.foldS fun _ _ h => h.rackTo
  · exact h.jobFail.jobOps
  · exact h.jobFail.jobOps
  · exact h.unitNote
  · exact h.unitNote
  · exact h.send

protected theorem Sound.opDone {o} (h : Sound F s) : Sound F (opDone o s) := h.frame
protected theorem Sound.lateResponse {f} (h : Sound F s) : Sound F (lateResponse f s) := .ite h.satR h.satR
protected theorem Sound.fillFor {o f} (h : Sound F s) : Sound F (fillFor o f s) := .ite h.proxyFill h

protected theorem Sound.opData {o f} (h : Sound F s) : Sound F (opData o f s) := by
  unfold opData
  split
  · refine .ite h.opError ?_
    extract_lets s₁ _
    have h₁ : Sound F s₁ := h.fillFor.glazeNote
    split
    · exact h₁
    · split
      · exact h₁.jobOps
      · exact .ite h₁.updJob.rowRead h₁.updJob
  · extract_lets note s₁
    have hn (s) (h : Sound F s) : Sound F (note s) := .ite h h.fillFor.glazeNote
    refine .ite (hn _ h).updGroup ?_
    split
    · exact h
    · have h₁ : Sound F s₁ := hn _ h
      extract_lets
      split
      · exact h₁.setThread.gatherStep
      · exact h₁.setThread
  · exact h.fillFor.respondRd
  · refine .ite h.opError ?_
    split
    · exact h.frame.unitNote
    · exact h
  · exact h.opError

protected theorem Sound.opAck {o} (h : Sound F s) : Sound F (opAck o s) := by
  unfold opAck
  split
  · exact h.jobOps
  · exact h.respondWack
  · exact h.unitNote
  · exact h.wrapR.foldS fun _ _ h => h.rackTo
  · exact h.opError

protected theorem Sound.opGrant {n} (h : Sound F s) : Sound F (opGrant n s) := by
  induction n generalizing s with
  | zero => exact h
  | succ n ih =>
    unfold opGrant
    split
    · exact h
    · refine ih ?_
      split
      · exact (h.frame.opGo.of_snd ‹_›).opAck
      · exact (h.frame.opGo.of_snd ‹_›).opError
      · exact h.frame.opGo.of_snd ‹_›

protected theorem Sound.opDrain (h : Sound F s) : Sound F (opDrain s) := h.opGrant

protected theorem Sound.responseOp {good f} (h : Sound F s) (hgood : ∀ a0 a1 s, Sound F s → Sound F (good a0 a1 s)) :
    Sound F (responseOp good f s) := by
  unfold responseOp
  dsimp only
  split
  · split
    · exact h.headerOk.lateResponse
    · exact h.headerOk.opDone.bind fun h => (Sound.ite (hgood _ _ _ h) h.opError).opDrain
  · exact h.headerOk

protected theorem Sound.rdataOp {f} (h : Sound F s) : Sound F (rdataOp f s) := h.responseOp fun _ _ _ h => h.opData
protected theorem Sound.wackOp {f} (h : Sound F s) : Sound F (wackOp f s) := h.responseOp fun _ _ _ h => h.opAck

protected theorem Sound.rackGood {o f} (h : Sound F s) : Sound F (rackGood o f s) := by
  unfold rackGood
  split
  · exact h.jobOps
  · exact h.opAck
  · exact h.opError

protected theorem Sound.rackOp {f} (h : Sound F s) : Sound F (rackOp f s) := h.responseOp fun _ _ _ h => h.rackGood

protected theorem Sound.localTimeout {txn} (h : Sound F s) : Sound F (localTimeout txn s) := by
  unfold localTimeout
  dsimp only
  split
  · exact h
  · exact h.opDone.satR.firstR.opError.opDrain

protected theorem Sound.farTimeout {txn} (h : Sound F s) : Sound F (farTimeout txn s) := by
  unfold farTimeout
  split
  · exact h
  · exact h.opDone.satR.opError.opDrain

protected theorem Sound.opsLost {p} (h : Sound F s) : Sound F (opsLost p s) :=
  (h.foldS fun _ _ h => .ite h.opDone.opError h).frame.foldS fun _ _ h => h.opError

protected theorem Sound.maskCommit {v} (h : Sound F s) : Sound F (maskCommit v s) := .ite h h.frame

protected theorem Sound.mcWrite {n f} (h : Sound F s) : Sound F (mcWrite n f s).2 := by
  unfold mcWrite
  dsimp only
  split
  · exact h
  · exact .ite₂ (h.updCore fun _ w => w.spadPut) h

protected theorem Sound.updMc {k g} (h : Sound F s) : Sound F (updMc k g s) := h.frame

protected theorem Sound.mcMiss {k n} (h : Sound F s) : Sound F (mcMiss k n s) := by
  unfold mcMiss
  split
  · exact h
  · exact .ite h h.satR.updMc

protected theorem Sound.mcDrop {k beneath} (h : Sound F s) : Sound F (mcDrop k beneath s) := by
  unfold mcDrop
  dsimp only
  split
  · exact h.satR.firstR.updMc.foldS fun _ _ h => h.mcMiss
  · exact h

protected theorem Sound.mcHold {o beneath f} (h : Sound F s) : Sound F (mcHold o beneath f s) :=
  .ite h.mcDrop (h.updMc.bind fun h => .ite h h.satR)

protected theorem Sound.mcTarget {blocked f n} (h : Sound F s) : Sound F (mcTarget blocked f n s) :=
  .ite h.mcHold (.ite h.mcWrite h.mcWrite.mcMiss)

protected theorem Sound.mcLeaf {blocked f leaf} (h : Sound F s) : Sound F (mcLeaf blocked f leaf s) := by
  unfold mcLeaf
  split
  · exact h
  · exact h.foldS fun _ _ h => h.mcTarget

protected theorem Sound.mcSpineGo {blocked f} (h : Sound F s) : Sound F (mcSpineGo blocked f s) := by
  unfold mcSpineGo
  split
  · exact h
  · exact h.foldS fun _ _ h => .ite h.mcLeaf h.mcHold

protected theorem Sound.mcSourceGo {blocked f} (h : Sound F s) : Sound F (mcSourceGo blocked f s) := by
  unfold mcSourceGo
  dsimp only
  split
  · exact h
  · exact Sound.bind (by split; exacts [h.mcLeaf, h]) fun h => .ite h (.ite h.mcSpineGo h.mcHold)

protected theorem Sound.mcUnhold {o f} (h : Sound F s) : Sound F (mcUnhold o f s) := h.updMc

protected theorem Sound.mcRelease {blocked} (h : Sound F s) : Sound F (mcRelease blocked s) :=
  h.foldS fun _ _ h => .ite h (.ite h.mcUnhold.collectBusy.mcWrite h.mcUnhold.collectBusy.mcWrite.mcMiss)

protected theorem Sound.mcAdvance {blocked} (h : Sound F s) : Sound F (mcAdvance blocked s) :=
  ((h.foldS fun _ _ h => .ite h.mcUnhold.mcLeaf h).foldS fun _ _ h => .ite h.mcUnhold.mcSpineGo h).foldS fun _ _ h =>
    .ite h.mcUnhold.mcSourceGo h

protected theorem Sound.mcReport {f status missed} (h : Sound F s) : Sound F (mcReport f status missed s) := .ite h.flitSend h.postFlit
protected theorem Sound.mcSettle (h : Sound F s) : Sound F (mcSettle s) := h.frame.foldS fun _ _ h => by split; exacts [h.mcReport, h]

protected theorem Sound.mcOp {f blocked} (h : Sound F s) : Sound F (mcOp f blocked s) := by
  unfold mcOp
  dsimp only
  split
  · split
    · exact h.headerOk.frame
    · split
      · exact h.headerOk.mcReport
      · split
        · exact Sound.bind (by split; exacts [h.headerOk, h.headerOk.frame.wrapR]) fun h => h.mcRelease.mcAdvance.mcSettle
        · exact Sound.bind (by split; exacts [h.headerOk, h.headerOk.frame.wrapR]) fun h => h.mcRelease.mcAdvance.bind fun h =>
            .ite h.mcSettle ((h.updMc.foldS fun _ _ h => .ite h.mcMiss h).bind fun h => (Sound.ite h.mcSourceGo h.mcHold).mcSettle)
  · exact h.headerOk

protected theorem Sound.mcExpire {txn target} (h : Sound F s) : Sound F (mcExpire txn target s) := by
  unfold mcExpire
  dsimp only
  split
  · exact h
  · exact .ite h.mcUnhold.mcDrop.mcAdvance.mcSettle h

protected theorem Sound.mcrepOp {f} (h : Sound F s) : Sound F (mcrepOp f s) := by
  unfold mcrepOp
  dsimp only
  split
  · split
    · exact h.headerOk.lateResponse
    · split
      · split
        · exact h.headerOk.opDone.opError.opDrain
        · split
          · exact h.headerOk.opDone.opDrain
          · exact (h.headerOk.opDone.updCore fun _ w => w.spadPut).bind fun h => (Sound.ite h h.satR).jobOps.opDrain
      · exact h.headerOk.opDone.opError.opDrain
  · exact h.headerOk

protected theorem Sound.rtabRead {tag} (h : Sound F s) : Sound F (rtabRead tag s).2 := by
  suffices key : ∀ g, g = rtabRead → Sound F (g tag s).2 from key _ rfl
  intro g e
  delta rtabRead at e
  obtain ⟨home, e₂⟩ := exists_eq' (a' := homeOf)
  obtain ⟨base, e₃⟩ := exists_eq' (a' := rtabBase)
  rw [e₂, e₃] at e
  subst e
  dsimp only
  split
  · exact h
  · split
    · exact h.wrapR
    · split
      · exact h.wrapR
      · exact .ite₂ h.wrapR (Sound.frame (.ite₂ h.wrapR h.wrapR.fresh))

protected theorem Sound.redOpenNote (h : Sound F s) : Sound F (redOpenNote s) := h.setR

protected theorem Sound.redFinish {r} (h : Sound F s) : Sound F (redFinish r s) := by
  unfold redFinish
  dsimp only
  split
  · exact h.frame.redOpenNote
  · exact h.frame.redOpenNote.bind fun h => .ite h.newTxn.frame.flitSend (.ite h.newTxn.postFlit.frame (h.newTxn.postFlit.foldS fun _ _ h =>
      h.rackTo))

protected theorem Sound.redStray {f grp} (h : Sound F s) : Sound F (redStray f grp s) := h.satR.firstR.rackTo
protected theorem Sound.redGlaze {p f} (h : Sound F s) : Sound F (redGlaze p f s) := .ite h h.ptnFault

protected theorem Sound.redArrive {f grp} (h : Sound F s) : Sound F (redArrive f grp s).2 := by
  unfold redArrive
  split
  next e' t e =>
    have h := h.rtabRead.of_snd e
    split
    · exact h.redStray
    · refine .ite₂ h.satR (.ite₂ h.redStray ?_)
      extract_lets lv a die rank sp counts here parked fits
      clear_value lv a die rank sp counts here parked fits
      split
      · exact .ite₂ h (.ite₂ h.redStray (.ite₂ (h.frame.bind fun h => (Sound.ite h.redFinish h).redGlaze) h))
      · exact .ite₂ h.redStray (.ite₂ h (h.frame.redOpenNote.bind fun h => (Sound.ite h.redFinish h).redGlaze))

protected theorem Sound.redPass (h : Sound F s) : Sound F (redPass s) :=
  h.frame.foldl₂' fun _ _ h => by exact .ite₂ h.frame (.ite₂ h.redArrive h.redArrive.frame)

protected theorem Sound.redPasses {n} (h : Sound F s) : Sound F (redPasses n s) := by
  induction n generalizing s with
  | zero => exact h
  | succ n ih => exact h.redPass.bind fun h => .ite (ih h) h

protected theorem Sound.redSettle (h : Sound F s) : Sound F (redSettle s) := h.redPasses

protected theorem Sound.redOp {f grp} (h : Sound F s) : Sound F (redOp f grp s) :=
  .ite (.ite h.headerOk.frame (.ite h.headerOk.rackTo h.headerOk.frame.redSettle)) h.headerOk

protected theorem Sound.netbRunning (h : Sound F s) : Sound F (netbRunning s) := (h.frame.foldS fun _ _ h => h.mcOp).redSettle
protected theorem Sound.tagsDrop {p} (h : Sound F s) : Sound F (tagsDrop p s) := h.frame

/-! ### Leaven -/

protected theorem Sound.lvnNote {i} (h : Sound F s) : Sound F (lvnNote i s) := h.setR.setR
protected theorem Sound.lvnRefuse {f} (h : Sound F s) : Sound F (lvnRefuse f s) := h.respond
protected theorem Sound.lvnStage {i h' f origins} (h : Sound F s) : Sound F (lvnStage i h' f origins s) := h.updSlice.lvnNote.respondWack

protected theorem Sound.lvnTake {i h' f origins} (h : Sound F s) : Sound F (lvnTake i h' f origins s) := by
  unfold lvnTake
  dsimp only
  split
  · exact h.updSlice
  · split
    · exact h.lvnRefuse
    · split
      · exact h.lvnStage
      · exact h.updSlice

protected theorem Sound.lvnKeep {f origins} (h : Sound F s) : Sound F (lvnKeep f origins s) := by
  unfold lvnKeep
  split
  · exact h.updSlice
  · exact h.lvnRefuse

protected theorem Sound.lvnOp {f origins} (h : Sound F s) : Sound F (lvnOp f origins s) := by
  unfold lvnOp
  dsimp only
  split
  · split
    · exact h.headerOk.lvnKeep
    · split
      · exact h.headerOk.lvnRefuse
      · split
        · exact h.headerOk.sliceErr.lvnRefuse
        · exact h.headerOk.lvnRefuse
        · exact h.headerOk.lvnTake
  · exact h.headerOk

protected theorem Sound.lvnWaited {i} (h : Sound F s) : Sound F (lvnWaited i s) := .ite h.satFree.collectBusy h

protected theorem Sound.lvnQueueOp {i} (h : Sound F s) : Sound F (lvnQueueOp i s) := by
  unfold lvnQueueOp
  dsimp only
  split
  · exact h
  · split
    · exact h
    · split
      · exact h.updSlice.lvnWaited.lvnRefuse
      · split
        · exact h.updSlice.lvnWaited.lvnRefuse
        · split
          · exact h.updSlice.lvnWaited.lvnStage
          · exact h

protected theorem Sound.lvnCommitAt {d p q i} (h : Sound F s) : Sound F (lvnCommitAt d p q i s) := .ite h h.setSlice.lvnNote
protected theorem Sound.lvnDropRec {i r} (h : Sound F s) : Sound F (lvnDropRec i r s) := h.satR.bind fun h => .ite h.satR.namedAlarm h

protected theorem Sound.lvnDropIf {i t} (h : Sound F s) : Sound F (lvnDropIf i t s) :=
  .ite h (h.updSlice.foldS fun _ _ h => h.lvnDropRec).lvnNote

protected theorem Sound.lvnCommitOp {d p q} (h : Sound F s) : Sound F (lvnCommitOp d p q s) := h.foldS fun _ _ h => h.lvnCommitAt
protected theorem Sound.lvnDiscardOp {d p} (h : Sound F s) : Sound F (lvnDiscardOp d p s) := h.foldS fun _ _ h => h.lvnDropIf
protected theorem Sound.lvnDieLost {d} (h : Sound F s) : Sound F (lvnDieLost d s) := h.foldS fun _ _ h => h.lvnDropIf

protected theorem Sound.lvnAbort {i} (h : Sound F s) : Sound F (lvnAbort i s) :=
  h.setSlice.bind fun h => ((Sound.ite h h.satR).lvnNote.foldS fun _ _ h => h.lvnRefuse).foldS fun _ _ h => h.lineFree

protected theorem Sound.lvnStart {i} (h : Sound F s) : Sound F (lvnStart i s) := h.foldS fun _ _ h => h.cacheDrop

protected theorem Sound.lvnRead {a} (h : Sound F s) : Sound F (lvnRead a s).2 := by
  unfold lvnRead
  dsimp only
  split
  · exact h
  · exact .ite₂ h.homeLoad h.homeLoad

protected theorem Sound.lvnReads {n a} (h : Sound F s) : Sound F (lvnReads n a s).2 := by
  induction n generalizing a s with
  | zero => exact h
  | succ n ih =>
    unfold lvnReads
    split
    · exact h.lvnRead.of_snd ‹_›
    · have h := h.lvnRead.of_snd ‹_›
      split <;> exact (ih h).of_snd ‹_›

protected theorem Sound.lvnWrite {i owner q a bs} (h : Sound F s) : Sound F (lvnWrite i owner q a bs s) := by
  unfold lvnWrite
  dsimp only
  split
  · exact h
  · exact .ite h (h.putDram.stackAccess.frame.clearUe.twinWrote.dirSweep.bind fun h => .ite h.shipSend h)

protected theorem Sound.lvnWrites {i owner q a bs} (h : Sound F s) : Sound F (lvnWrites i owner q a bs s) := h.foldS fun _ _ h => h.lvnWrite

protected theorem Sound.curveRead {g} (h : Sound F s) : Sound F (curveRead g s).2 := by
  unfold curveRead
  dsimp only
  split
  · exact h
  · split
    · exact h
    · split <;> exact (h.lvnReads.of_snd ‹_›)

protected theorem Sound.lvnErr {i reason r} (h : Sound F s) : Sound F (lvnErr i reason r s) := (Sound.ite h h.firstR.setQ).satR.namedAlarm
protected theorem Sound.lvnFlag {i b} (h : Sound F s) : Sound F (lvnFlag i b s) := h.setR

protected theorem Sound.lvnMerge {i acc l} (h : Sound F s) : Sound F (lvnMerge i acc l s).2 := by
  induction l generalizing acc s with
  | nil => exact h
  | cons r t ih =>
    unfold lvnMerge
    split
    · split
      · exact .ite₂ (ih h.satR.lvnFlag) (ih h)
      · exact ih h
    · exact ih h.lvnErr

protected theorem Sound.lvnApplied {i} (h : Sound F s) : Sound F (lvnApplied i s) := h.wrapR

protected theorem Sound.applyElem {i g pts q r} (h : Sound F s) : Sound F (applyElem i g pts q r s) := by
  unfold applyElem
  dsimp only
  split
  · exact (h.lvnRead.of_snd ‹_›).lvnErr
  · have h := h.lvnRead.of_snd ‹_›
    split
    next e => exact (Sound.of_snd (.ite₂ h.lvnRead h) e).lvnErr
    next e =>
      have h := Sound.of_snd (.ite₂ h.lvnRead h) e
      split
      next e => exact (Sound.of_snd (.ite₂ h.lvnRead h) e).lvnErr
      next e =>
        exact (Sound.of_snd (.ite₂ h.lvnRead h) e).lvnWrite.bind fun h =>
          (Sound.ite h.lvnWrite h).bind fun h => (Sound.ite h.lvnWrite h).lvnApplied

protected theorem Sound.pageParams {i l} (h : Sound F s) : Sound F (pageParams i l s).2 := by
  induction l generalizing s with
  | nil => exact h
  | cons r t ih =>
    unfold pageParams
    split
    · exact ih (h.lvnRead.of_snd ‹_›).lvnErr
    · exact ih (h.lvnRead.of_snd ‹_›)

protected theorem Sound.pageStep {i g pts q gb pb r0 rs} (h : Sound F s) : Sound F (pageStep i g pts q gb pb r0 rs s) :=
  h.lvnWrites.bind fun h => (Sound.ite h.satR.lvnFlag (.ite h.satR.lvnFlag h)).bind fun h => (Sound.ite h.lvnWrites h).foldS fun _ _ h =>
    h.lvnWrite.lvnApplied

protected theorem Sound.applyPage {i g pts q rs} (h : Sound F s) : Sound F (applyPage i g pts q rs s) := by
  unfold applyPage
  dsimp only
  split
  · exact h
  · split
    · exact (h.lvnReads.of_snd ‹_›).foldS fun _ _ h => h.lvnErr
    · split
      · exact ((h.lvnReads.of_snd ‹_›).lvnReads.of_snd ‹_›).foldS fun _ _ h => h.lvnErr
      · have h := h.lvnReads.of_snd ‹_›
        exact .ite (h.lvnReads.of_snd ‹_›).pageParams (h.lvnReads.of_snd ‹_›).pageParams.pageStep

protected theorem Sound.lvnScreen {i g curve l} (h : Sound F s) : Sound F (lvnScreen i g curve l s).2 := by
  induction l generalizing s with
  | nil => exact h
  | cons r t ih =>
    unfold lvnScreen
    dsimp only
    refine ih (.ite₂ h.lvnErr (.ite₂ h.lvnErr (.ite₂ h.lvnErr (.ite₂ ?_ (.ite₂ ?_ h)))))
    · dsimp only
      exact h.lvnErr
    · dsimp only
      exact h.satR.lvnFlag

protected theorem Sound.lvnGroupApply {i grp rs} (h : Sound F s) : Sound F (lvnGroupApply i grp rs s) := by
  unfold lvnGroupApply
  dsimp only
  split
  · exact (h.lvnRead.of_snd ‹_›).foldS fun _ _ h => h.lvnErr
  · have h := h.lvnRead.of_snd ‹_›
    exact .ite (h.foldS fun _ _ h => h.lvnErr) (.ite h.satR (.ite (h.curveRead.lvnScreen.foldS fun _ _ h => h.applyPage)
      (h.curveRead.lvnScreen.foldS fun _ _ h => h.applyElem)))

protected theorem Sound.batchOp {i} (h : Sound F s) : Sound F (batchOp i s) := by
  unfold batchOp
  dsimp only
  split
  · exact h
  · exact .ite ((h.lvnMerge.foldS fun _ _ h => h.lvnGroupApply).updSlice.lvnNote.setR.foldS fun _ _ h => h.lineFree) h

/-! ### Media -/

protected theorem Sound.refOnce {i} (h : Sound F s) : Sound F (refOnce i s) := h.stackSend.updSlice

protected theorem Sound.refMany {i n} (h : Sound F s) : Sound F (refMany i n s) := by
  induction n generalizing s with
  | zero => exact h
  | succ n ih => exact ih h.refOnce

protected theorem Sound.refreshOp {i} (h : Sound F s) : Sound F (refreshOp i s) := .ite h.refOnce h
protected theorem Sound.sysRead {i} (h : Sound F s) : Sound F (sysRead i s) := h.updSlice.stackSend.stackSend
protected theorem Sound.takeover {i} (h : Sound F s) : Sound F (takeover i s) := .ite h.updSlice.refMany.sysRead.namedAlarm.satR h
protected theorem Sound.refWatchOp {i} (h : Sound F s) : Sound F (refWatchOp i s) := .ite h.takeover h
protected theorem Sound.refNoticeOp {i} (h : Sound F s) : Sound F (refNoticeOp i s) := .ite h.updSlice h
protected theorem Sound.peerArmOp {i} (h : Sound F s) : Sound F (peerArmOp i s) := .ite h.updSlice h

protected theorem Sound.managerWaitOp {i notices} (h : Sound F s) : Sound F (managerWaitOp i notices s) := by
  unfold managerWaitOp
  dsimp only
  split
  · split
    · split
      · exact h.setSlice.peerMsg
      · exact h.setSlice
    · exact h.setSlice.updSlice.refOnce
  · exact h

protected theorem Sound.claimOp {i} (h : Sound F s) : Sound F (claimOp i s) := by
  unfold claimOp
  dsimp only
  split
  · split
    · exact h.setSlice.peerMsg
    · exact h.setSlice
  · exact h

protected theorem Sound.releaseOp {i pos} (h : Sound F s) : Sound F (releaseOp i pos s) := .ite h.updSlice.refOnce.namedAlarm h

protected theorem Sound.tempOp {i t} (h : Sound F s) : Sound F (tempOp i t s) :=
  .ite (h.setR.updSlice.bind fun h => .ite h.updSlice.namedAlarm (.ite h.updSlice h)) h

protected theorem Sound.trrReqOp {r} (h : Sound F s) : Sound F (trrReqOp r s) := .ite h.stackSend h

protected theorem Sound.retireNext {i} (h : Sound F s) : Sound F (retireNext i s) := by
  unfold retireNext
  dsimp only
  split
  · exact h.setSlice.peerMsg
  · exact h

protected theorem Sound.retireRow {i bank row} (h : Sound F s) : Sound F (retireRow i bank row s) := .ite h.updSlice.retireNext h

protected theorem Sound.foundUe {i x} (h : Sound F s) : Sound F (foundUe i x s) := by
  unfold foundUe
  split
  · exact h.retireRow
  · split
    · exact h.peerMsg
    · exact h

protected theorem Sound.countCe {i x} (h : Sound F s) : Sound F (countCe i x s) := h.updSlice.bind fun h => .ite h.retireRow h

protected theorem Sound.foundCe {i x} (h : Sound F s) : Sound F (foundCe i x s) := by
  unfold foundCe
  dsimp only
  split
  · exact h.satR.countCe
  · split
    · exact h.satR.peerMsg
    · exact h.satR

protected theorem Sound.rowReportOp {i x uncorr} (h : Sound F s) : Sound F (rowReportOp i x uncorr s) := .ite (.ite h.retireRow h.countCe) h
protected theorem Sound.remapBeginOp {r} (h : Sound F s) : Sound F (remapBeginOp r s) := .ite h.updSlice.peerAck h

protected theorem Sound.remapAckOp {r bad} (h : Sound F s) : Sound F (remapAckOp r bad s) := by
  unfold remapAckOp
  dsimp only
  split
  · exact .ite ((h.stackSend.stackSend.foldS fun _ _ h => h.stackSend.stackSend).frame.updSlice.setR.namedAlarm.bind fun h =>
      (Sound.ite h.updSlice.namedAlarm h).peerMsg.retireNext) h
  · exact h

protected theorem Sound.remapDoneOp {r} (h : Sound F s) : Sound F (remapDoneOp r s) := by
  unfold remapDoneOp
  dsimp only
  split
  · split
    · exact h.updSlice
    · exact h.updSlice.foldS fun _ _ h => h.lineFree
  · exact h

protected theorem Sound.freshLine (h : Sound F s) : Sound F (freshLine s).2 := h.foldl₂' fun _ _ h => by exact h.fresh
protected theorem Sound.rewriteLine {i key} (h : Sound F s) : Sound F (rewriteLine i key s) := h.stackAccess

protected theorem Sound.stackRdOp {i bad} (h : Sound F s) : Sound F (stackRdOp i bad s) := by
  unfold stackRdOp
  dsimp only
  split
  · exact h.takeStackRead.of_snd ‹_›
  · split
    · exact (h.takeStackRead.of_snd ‹_›).sliceErr.respondErr.lineFree
    · have h := h.takeStackRead.of_snd ‹_›
      exact (Sound.ite (Sound.ite h h.frame).satR.foundUe.sliceErr.respondErr (.ite (Sound.ite h h.foundCe.rewriteLine).homeFill.respondRd
        h.freshLine.respondRd)).lineFree.peerAck

protected theorem Sound.scrubOp {i bad} (h : Sound F s) : Sound F (scrubOp i bad s) := by
  unfold scrubOp
  dsimp only
  split
  · exact h
  · exact .ite (h.stackAccess.bind fun h => (Sound.ite (Sound.ite h.frame h).satR.retireRow (.ite h (h.satR.countCe.bind fun h =>
      .ite h.rewriteLine h.peerMsg))).updSlice.setR.bind fun h => .ite h.wrapR h) h

protected theorem Sound.scrubFixOp {i x} (h : Sound F s) : Sound F (scrubFixOp i x s) := .ite h.stackAccess.stackAccess h
protected theorem Sound.setPool {k v} (h : Sound F s) : Sound F (setPool k v s) := h.frame

protected theorem Sound.keepNote {i j} (h : Sound F s) : Sound F (keepNote i j s) :=
  (Sound.ite h.namedAlarm h).setPool.foldS fun _ _ h => .ite h.setR.setR h

protected theorem Sound.keepIssue {i j who l w'} (h : Sound F s) : Sound F (keepIssue i j who l w' s).2 := by
  unfold keepIssue
  dsimp only
  split
  · exact h.stackSend.updSlice
  · exact .ite₂ h h.setPool.keepNote.frame.stackSend.updSlice

protected theorem Sound.putRecord {i j n r} (h : Sound F s) : Sound F (putRecord i j n r s).2 :=
  h.foldS fun _ _ h => h.putDram.foldS fun _ _ h => h.stackAccess.frame.clearUe.twinWrote.dirSweep

protected theorem Sound.keepMoved {i} (h : Sound F s) : Sound F (keepMoved i s) := h.setF
protected theorem Sound.keepErrs {i n} (h : Sound F s) : Sound F (keepErrs i n s) := .ite h h.satR.updSlice

protected theorem Sound.keepNext {i n} (h : Sound F s) : Sound F (keepNext i n s) := by
  induction n generalizing s with
  | zero => exact h
  | succ n ih =>
    unfold keepNext
    dsimp only
    split
    · exact .ite h (.ite (.ite h.setSlice.keepIssue h.setSlice.peerMsg)
        (h.setSlice.keepErrs.bind fun h => .ite (h.keepIssue.bind fun h => .ite h (ih h.keepErrs)) h.peerMsg))
    · exact h

protected theorem Sound.keepGo {i} (h : Sound F s) : Sound F (keepGo i s) := h.keepNext

protected theorem Sound.keepStart {i load} (h : Sound F s) : Sound F (keepStart i load s) := by
  unfold keepStart
  dsimp only
  split
  · exact h
  · exact .ite (.ite (.ite h.setF h.setF) h.setR.updSlice.keepGo) h

protected theorem Sound.keepBack {i r} (h : Sound F s) : Sound F (keepBack i r s) := by
  unfold keepBack
  dsimp only
  split
  · exact ((Sound.keepErrs (by split; exacts [h.putRecord, h])).keepMoved).keepGo
  · exact h

protected theorem Sound.keepTake {i wr} (h : Sound F s) : Sound F (keepTake i wr s).2 := by
  unfold keepTake
  dsimp only
  split
  · exact h.updSlice
  · exact h

protected theorem Sound.keepRecordOp {i bits mask} (h : Sound F s) : Sound F (keepRecordOp i bits mask s) := by
  unfold keepRecordOp
  dsimp only
  split
  · split
    · have h := h.keepTake.of_snd ‹_›
      exact Sound.bind (by split; exacts [h.keepIssue, h, .ite h.keepIssue h]) fun h => h.updSlice
    · have h := h.keepTake.of_snd ‹_›
      exact Sound.bind (by split; exacts [h.keepIssue, h, .ite h.keepIssue h]) fun h => .ite h.fault h
    · have h := h.keepTake.of_snd ‹_›
      exact Sound.bind (by split; exacts [h.keepIssue, h, .ite h.keepIssue h]) fun h => h.keepBack
    · have h := h.keepTake.of_snd ‹_›
      exact Sound.bind (by split; exacts [h.keepIssue, h, .ite h.keepIssue h]) fun h => h.peerMsg
    · split
      · exact (h.keepTake.of_snd ‹_›).keepIssue
      · exact h.keepTake.of_snd ‹_›
      · exact .ite (h.keepTake.of_snd ‹_›).keepIssue (h.keepTake.of_snd ‹_›)
  · exact h.keepTake.of_snd ‹_›

protected theorem Sound.verifyOp {i ok} (h : Sound F s) : Sound F (verifyOp i ok s) := by
  unfold verifyOp
  dsimp only
  split
  · split
    · split
      · exact (h.keepTake.of_snd ‹_›).keepBack
      · exact (h.keepTake.of_snd ‹_›).peerMsg
      · exact h.keepTake.of_snd ‹_›
      · exact h.keepTake.of_snd ‹_›
    · split
      · split
        · have h := h.keepTake.of_snd ‹_›
          exact (Sound.ite h.keepErrs h).keepBack
        · have h := h.keepTake.of_snd ‹_›
          exact (Sound.ite h.keepErrs h).peerMsg
        · have h := h.keepTake.of_snd ‹_›
          exact .ite h.keepErrs h
        · have h := h.keepTake.of_snd ‹_›
          exact .ite h.keepErrs h
      · split
        · exact (h.keepTake.of_snd ‹_›).setPool.keepNote.keepIssue
        · split
          · exact (h.keepTake.of_snd ‹_›).setPool.keepNote.bind fun h => (Sound.ite h.keepIssue.keepErrs h.keepIssue).keepBack
          · exact (h.keepTake.of_snd ‹_›).setPool.keepNote.bind fun h => (Sound.ite h.keepIssue.keepErrs h.keepIssue).peerMsg
          · exact (h.keepTake.of_snd ‹_›).setPool.keepNote.bind fun h => .ite h.keepIssue.keepErrs h.keepIssue
          · exact (h.keepTake.of_snd ‹_›).setPool.keepNote.bind fun h => .ite h.keepIssue.keepErrs h.keepIssue
  · exact h.keepTake.of_snd ‹_›

protected theorem Sound.keepReqOp {i write blk r} (h : Sound F s) : Sound F (keepReqOp i write blk r s) := by
  unfold keepReqOp
  split
  · exact .ite h.keepIssue h
  · exact h

protected theorem Sound.keepDataOp {i blk r} (h : Sound F s) : Sound F (keepDataOp i blk r s) := by
  unfold keepDataOp
  split
  · exact .ite h.keepBack h
  · exact h

protected theorem Sound.keepDoneOp {i} (h : Sound F s) : Sound F (keepDoneOp i s) := by
  unfold keepDoneOp
  dsimp only
  split
  · exact .ite h.setSlice.setR h
  · exact h

protected theorem Sound.medStop {i} (h : Sound F s) : Sound F (medStop i s) := h.updSlice

protected theorem Sound.ageOp {i t} (h : Sound F s) : Sound F (ageOp i t s) := by
  unfold ageOp
  dsimp only
  split
  · exact h
  · exact .ite (h.setPool.foldS fun _ _ h => h.keepIssue) h

protected theorem Sound.medRunning {i} (h : Sound F s) : Sound F (medRunning i s) :=
  Sound.bind (by split; exacts [h.updSlice.keepNote, h.updSlice, h]) fun h => h.keepGo

/-! ### Scalar commands -/

protected theorem Sound.scalarOp {c q op f} (h : Sound F s) (hf : ∀ a0 s, Sound F s → Sound F (f a0 s)) :
    Sound F (scalarOp c q op f s) := by
  unfold scalarOp
  dsimp only
  split
  · exact .ite h.holdOp (hf _ _ h)
  · exact .ite (.ite h (.ite h.holdQuiet (hf _ _ h))) h

protected theorem Sound.binAt {f c q d a b i} (h : Sound F s) : Sound F (binAt f c q d a b i s) := h.updCore fun _ w => w.wrReg
protected theorem Sound.cmpAt {f c q pd a b i} (h : Sound F s) : Sound F (cmpAt f c q pd a b i s) := h.updCore fun _ w => w.wrPred
protected theorem Sound.predAt {f c q pd pa pb i} (h : Sound F s) : Sound F (predAt f c q pd pa pb i s) := h.updCore fun _ w => w.wrPred
protected theorem Sound.unAt {f c q d a i} (h : Sound F s) : Sound F (unAt f c q d a i s) := h.updCore fun _ w => w.wrReg

protected theorem Sound.ldAt {c q d a imm i} (h : Sound F s) : Sound F (ldAt c q d a imm i s) :=
  .ite (h.updCore fun _ w => w.wrReg.claim) h.coreFault

protected theorem Sound.stAt {c q d a imm i} (h : Sound F s) : Sound F (stAt c q d a imm i s) :=
  .ite (h.updCore fun _ w => w.spadStore.claim) h.coreFault

protected theorem Sound.mfsAt {c q d index i} (h : Sound F s) : Sound F (mfsAt c q d index i s) := by
  unfold mfsAt
  split
  · exact h.updCore fun _ w => w.wrReg
  · exact h.coreFault

protected theorem Sound.movxAt {c q d a i} (h : Sound F s) : Sound F (movxAt c q d a i s) := .ite (h.updCore fun _ w => w.wrReg) h.coreFault
protected theorem Sound.waitOn {c sig need i op} (h : Sound F s) : Sound F (waitOn c sig need i op s) := .ite h.setSig h.holdOp
protected theorem Sound.waitAt {c sig count i} (h : Sound F s) : Sound F (waitAt c sig count i s) := h.waitOn
protected theorem Sound.waitrAt {c sig a i} (h : Sound F s) : Sound F (waitrAt c sig a i s) := h.waitOn

protected theorem Sound.waitlAt {c pd sig count a i} (h : Sound F s) : Sound F (waitlAt c pd sig count a i s) :=
  .ite (h.updCore fun _ w => w.wrPred) (.ite (h.setSig.updCore fun _ w => w.wrPred) (.ite (h.updCore fun _ w => w.wrPred) h.holdOp))

protected theorem Sound.testsAt {c pd sig count i} (h : Sound F s) : Sound F (testsAt c pd sig count i s) := h.updCore fun _ w => w.wrPred

protected theorem Sound.waitlExpire {c} (h : Sound F s) : Sound F (waitlExpire c s) := by
  unfold waitlExpire
  dsimp only
  split
  · exact h.updCore fun _ w => w.wrPred.frame
  · exact h

protected theorem Sound.brAt {c p neg target i} (h : Sound F s) : Sound F (brAt c p neg target i s) :=
  .ite h.coreFault (.ite (.ite h.coreFault (h.setCore h.coreAt.frame)) h)

protected theorem Sound.loopAt {c stop n} (h : Sound F s) : Sound F (loopAt c stop n s) := by
  unfold loopAt
  dsimp only
  split
  · exact h.coreFault
  · split
    · exact h.coreFault
    · split
      · exact h.setCore h.coreAt.frame
      · exact h.setCore h.coreAt.frame

protected theorem Sound.loopiAt {c stop count i} (h : Sound F s) : Sound F (loopiAt c stop count i s) := h.loopAt
protected theorem Sound.looprAt {c stop a i} (h : Sound F s) : Sound F (looprAt c stop a i s) := h.loopAt
protected theorem Sound.guardAt {c p neg slots i} (h : Sound F s) : Sound F (guardAt c p neg slots i s) := .ite h (h.setCore h.coreAt.frame)
protected theorem Sound.solEndAt {c i} (h : Sound F s) : Sound F (solEndAt c i s) := .ite h.coreFault h.updCore
protected theorem Sound.seqOp {c f} (h : Sound F s) (hf : ∀ a0 s, Sound F s → Sound F (f a0 s)) : Sound F (seqOp c f s) := hf _ _ h
protected theorem Sound.addAt {c q d a b i} (h : Sound F s) : Sound F (addAt c q d a b i s) := h.binAt
protected theorem Sound.subAt {c q d a b i} (h : Sound F s) : Sound F (subAt c q d a b i s) := h.binAt
protected theorem Sound.andAt {c q d a b i} (h : Sound F s) : Sound F (andAt c q d a b i s) := h.binAt
protected theorem Sound.orAt {c q d a b i} (h : Sound F s) : Sound F (orAt c q d a b i s) := h.binAt
protected theorem Sound.xorAt {c q d a b i} (h : Sound F s) : Sound F (xorAt c q d a b i s) := h.binAt
protected theorem Sound.shlAt {c q d a b i} (h : Sound F s) : Sound F (shlAt c q d a b i s) := h.binAt
protected theorem Sound.shrAt {c q d a b i} (h : Sound F s) : Sound F (shrAt c q d a b i s) := h.binAt
protected theorem Sound.sraAt {c q d a b i} (h : Sound F s) : Sound F (sraAt c q d a b i s) := h.binAt
protected theorem Sound.mulAt {c q d a b i} (h : Sound F s) : Sound F (mulAt c q d a b i s) := h.binAt
protected theorem Sound.minAt {c q d a b i} (h : Sound F s) : Sound F (minAt c q d a b i s) := h.binAt
protected theorem Sound.maxAt {c q d a b i} (h : Sound F s) : Sound F (maxAt c q d a b i s) := h.binAt
protected theorem Sound.minuAt {c q d a b i} (h : Sound F s) : Sound F (minuAt c q d a b i s) := h.binAt
protected theorem Sound.maxuAt {c q d a b i} (h : Sound F s) : Sound F (maxuAt c q d a b i s) := h.binAt
protected theorem Sound.addiAt {c q d a imm i} (h : Sound F s) : Sound F (addiAt c q d a imm i s) := h.unAt
protected theorem Sound.shliAt {c q d a imm i} (h : Sound F s) : Sound F (shliAt c q d a imm i s) := h.unAt
protected theorem Sound.shriAt {c q d a imm i} (h : Sound F s) : Sound F (shriAt c q d a imm i s) := h.unAt
protected theorem Sound.lisAt {c q d imm i} (h : Sound F s) : Sound F (lisAt c q d imm i s) := h.unAt
protected theorem Sound.lihAt {c q d imm i} (h : Sound F s) : Sound F (lihAt c q d imm i s) := h.unAt
protected theorem Sound.cmpeqAt {c q pd a b i} (h : Sound F s) : Sound F (cmpeqAt c q pd a b i s) := h.cmpAt
protected theorem Sound.cmpltAt {c q pd a b i} (h : Sound F s) : Sound F (cmpltAt c q pd a b i s) := h.cmpAt
protected theorem Sound.cmpltuAt {c q pd a b i} (h : Sound F s) : Sound F (cmpltuAt c q pd a b i s) := h.cmpAt
protected theorem Sound.pandAt {c q pd pa pb i} (h : Sound F s) : Sound F (pandAt c q pd pa pb i s) := h.predAt
protected theorem Sound.porAt {c q pd pa pb i} (h : Sound F s) : Sound F (porAt c q pd pa pb i s) := h.predAt
protected theorem Sound.pxorAt {c q pd pa pb i} (h : Sound F s) : Sound F (pxorAt c q pd pa pb i s) := h.predAt

/-! ### Vector commands -/

protected theorem Sound.vaddOp {c f} (h : Sound F s) : Sound F (vaddOp c f s) := h.vOp fun _ _ h => h.vaddAt
protected theorem Sound.vsubOp {c f} (h : Sound F s) : Sound F (vsubOp c f s) := h.vOp fun _ _ h => h.vsubAt
protected theorem Sound.vmulOp {c f} (h : Sound F s) : Sound F (vmulOp c f s) := h.vOp fun _ _ h => h.vmulAt
protected theorem Sound.vfmaOp {c f} (h : Sound F s) : Sound F (vfmaOp c f s) := h.vOp fun _ _ h => h.vfmaAt
protected theorem Sound.vfmsOp {c f} (h : Sound F s) : Sound F (vfmsOp c f s) := h.vOp fun _ _ h => h.vfmsAt
protected theorem Sound.vfnmaOp {c f} (h : Sound F s) : Sound F (vfnmaOp c f s) := h.vOp fun _ _ h => h.vfnmaAt
protected theorem Sound.vminOp {c f} (h : Sound F s) : Sound F (vminOp c f s) := h.vOp fun _ _ h => h.vminAt
protected theorem Sound.vmaxOp {c f} (h : Sound F s) : Sound F (vmaxOp c f s) := h.vOp fun _ _ h => h.vmaxAt
protected theorem Sound.vabsOp {c f} (h : Sound F s) : Sound F (vabsOp c f s) := h.vOp fun _ _ h => h.vabsAt
protected theorem Sound.vnegOp {c f} (h : Sound F s) : Sound F (vnegOp c f s) := h.vOp fun _ _ h => h.vnegAt
protected theorem Sound.vrintOp {c f} (h : Sound F s) : Sound F (vrintOp c f s) := h.vOp fun _ _ h => h.vrintAt
protected theorem Sound.vmovOp {c f} (h : Sound F s) : Sound F (vmovOp c f s) := h.vOp fun _ _ h => h.vmovAt
protected theorem Sound.vandOp {c f} (h : Sound F s) : Sound F (vandOp c f s) := h.vOp fun _ _ h => h.vandAt
protected theorem Sound.vorOp {c f} (h : Sound F s) : Sound F (vorOp c f s) := h.vOp fun _ _ h => h.vorAt
protected theorem Sound.vxorOp {c f} (h : Sound F s) : Sound F (vxorOp c f s) := h.vOp fun _ _ h => h.vxorAt
protected theorem Sound.vshlOp {c f} (h : Sound F s) : Sound F (vshlOp c f s) := h.vOp fun _ _ h => h.vshlAt
protected theorem Sound.vshrOp {c f} (h : Sound F s) : Sound F (vshrOp c f s) := h.vOp fun _ _ h => h.vshrAt
protected theorem Sound.vsraOp {c f} (h : Sound F s) : Sound F (vsraOp c f s) := h.vOp fun _ _ h => h.vsraAt
protected theorem Sound.vcmpOp {c f} (h : Sound F s) : Sound F (vcmpOp c f s) := h.vOp fun _ _ h => h.vcmpAt
protected theorem Sound.vselOp {c f} (h : Sound F s) : Sound F (vselOp c f s) := h.vOp fun _ _ h => h.vselAt
protected theorem Sound.vcvtOp {c f} (h : Sound F s) : Sound F (vcvtOp c f s) := h.vOp fun _ _ h => h.vcvtAt
protected theorem Sound.vunpkOp {c f} (h : Sound F s) : Sound F (vunpkOp c f s) := h.vOp fun _ _ h => h.vunpkAt
protected theorem Sound.mandOp {c f} (h : Sound F s) : Sound F (mandOp c f s) := h.vOp fun _ _ h => h.maskAt
protected theorem Sound.morOp {c f} (h : Sound F s) : Sound F (morOp c f s) := h.vOp fun _ _ h => h.maskAt
protected theorem Sound.mxorOp {c f} (h : Sound F s) : Sound F (mxorOp c f s) := h.vOp fun _ _ h => h.maskAt
protected theorem Sound.mandnOp {c f} (h : Sound F s) : Sound F (mandnOp c f s) := h.vOp fun _ _ h => h.maskAt
protected theorem Sound.vlisOp {c d imm t} (h : Sound F s) : Sound F (vlisOp c d imm t s) := h.vOp fun _ _ h => h.vlisAt
protected theorem Sound.vldOp {c f} (h : Sound F s) : Sound F (vldOp c f s) := h.vOp fun _ _ h => h.vldAt
protected theorem Sound.vstOp {c f} (h : Sound F s) : Sound F (vstOp c f s) := h.vOp fun _ _ h => h.vstAt
protected theorem Sound.vsetaOp {c ar sreg} (h : Sound F s) : Sound F (vsetaOp c ar sreg s) := h.vOp fun _ _ h => h.vaSet
protected theorem Sound.vsetaiOp {c ar off} (h : Sound F s) : Sound F (vsetaiOp c ar off s) := h.vOp fun _ _ h => h.vaSet
protected theorem Sound.vbcsOp {c d sreg t} (h : Sound F s) : Sound F (vbcsOp c d sreg t s) := h.vOp fun _ _ h => h.vbcsAt
protected theorem Sound.vredOp {c f} (h : Sound F s) : Sound F (vredOp c f s) := h.vOp fun _ _ h => h.vredAt
protected theorem Sound.vcmprOp {c f} (h : Sound F s) : Sound F (vcmprOp c f s) := h.vOp fun _ _ h => h.vcmprAt
protected theorem Sound.vexpdOp {c f} (h : Sound F s) : Sound F (vexpdOp c f s) := h.vOp fun _ _ h => h.vexpdAt
protected theorem Sound.mcntOp {c f} (h : Sound F s) : Sound F (mcntOp c f s) := h.vOp fun _ _ h => h.mcntAt
protected theorem Sound.vflagsOp {c f} (h : Sound F s) : Sound F (vflagsOp c f s) := h.vOp fun _ _ h => h.vflagsAt
protected theorem Sound.exp2Op {c f} (h : Sound F s) : Sound F (exp2Op c f s) := h.vOp fun _ _ h => h.sfuBody
protected theorem Sound.log2Op {c f} (h : Sound F s) : Sound F (log2Op c f s) := h.vOp fun _ _ h => h.sfuBody
protected theorem Sound.rcpOp {c f} (h : Sound F s) : Sound F (rcpOp c f s) := h.vOp fun _ _ h => h.sfuBody
protected theorem Sound.rsqrtOp {c f} (h : Sound F s) : Sound F (rsqrtOp c f s) := h.vOp fun _ _ h => h.sfuBody
protected theorem Sound.tanhOp {c f} (h : Sound F s) : Sound F (tanhOp c f s) := h.vOp fun _ _ h => h.sfuBody
protected theorem Sound.smxaOp {c f} (h : Sound F s) : Sound F (smxaOp c f s) := h.vOp fun _ _ h => h.smxaAt
protected theorem Sound.smxnOp {c f} (h : Sound F s) : Sound F (smxnOp c f s) := h.vOp fun _ _ h => h.smxnAt

/-! ### Slots -/

protected theorem Sound.scalarDo {op i} (h : Sound F s) : Sound F (scalarDo op i s) := by
  unfold scalarDo
  split
  · exact h.addAt
  · exact h.subAt
  · exact h.andAt
  · exact h.orAt
  · exact h.xorAt
  · exact h.shlAt
  · exact h.shrAt
  · exact h.sraAt
  · exact h.mulAt
  · exact h.minAt
  · exact h.maxAt
  · exact h.minuAt
  · exact h.maxuAt
  · exact h.addiAt
  · exact h.lisAt
  · exact h.lihAt
  · exact h.shliAt
  · exact h.shriAt
  · exact h.cmpeqAt
  · exact h.cmpltAt
  · exact h.cmpltuAt
  · exact h.pandAt
  · exact h.porAt
  · exact h.pxorAt
  · exact h.ldAt
  · exact h.stAt
  · exact h.mfsAt
  · exact h.movxAt
  · exact h.waitAt
  · exact h.waitrAt
  · exact h.waitlAt
  · exact h.testsAt
  · exact h

protected theorem Sound.xDo {op i} (h : Sound F s) : Sound F (xDo op i s) := by
  unfold xDo
  split
  · exact h.xsetaAt
  · exact h.xsetaiAt
  · exact h.xqAt
  · exact h.xqAt
  · exact h.gqAt
  · exact h

protected theorem Sound.mDo {op} (h : Sound F s) : Sound F (mDo op s) := by
  unfold mDo
  split
  · exact h.mOp fun _ _ h => h.modeAt
  · exact h.mOp fun _ _ h => h.setaAt
  · exact h.mOp fun _ _ h => h.setaiAt
  · exact h.mOp fun _ _ h => h.setcntAt
  · exact h.mOp fun _ _ h => h.mLdAt
  · exact h.mOp fun _ _ h => h.streamAt
  · exact h

protected theorem Sound.vDo {op} (h : Sound F s) : Sound F (vDo op s) := by
  unfold vDo
  split
  · exact h.vaddOp
  · exact h.vsubOp
  · exact h.vmulOp
  · exact h.vfmaOp
  · exact h.vfmsOp
  · exact h.vfnmaOp
  · exact h.vminOp
  · exact h.vmaxOp
  · exact h.vabsOp
  · exact h.vnegOp
  · exact h.vrintOp
  · exact h.vcmpOp
  · exact h.vselOp
  · exact h.vmovOp
  · exact h.vandOp
  · exact h.vorOp
  · exact h.vxorOp
  · exact h.vshlOp
  · exact h.vshrOp
  · exact h.vsraOp
  · exact h.vcvtOp
  · exact h.vunpkOp
  · exact h.mandOp
  · exact h.morOp
  · exact h.mxorOp
  · exact h.mandnOp
  · exact h.vredOp
  · exact h.vcmprOp
  · exact h.vexpdOp
  · exact h.mcntOp
  · exact h.vflagsOp
  · exact h.exp2Op
  · exact h.log2Op
  · exact h.rcpOp
  · exact h.rsqrtOp
  · exact h.tanhOp
  · exact h.smxaOp
  · exact h.smxnOp
  · exact h.vlisOp
  · exact h.vldOp
  · exact h.vstOp
  · exact h.vsetaOp
  · exact h.vsetaiOp
  · exact h.vbcsOp
  · exact h

/-! ### The command stream -/

protected theorem Sound.barOp {c b f} (h : Sound F s) (hf : ∀ a0 a1 s, Sound F s → Sound F (f a0 a1 s)) : Sound F (barOp c b f s) := by
  unfold barOp
  split
  · exact .ite (hf _ _ _ h) h.ptnFault
  · exact h

protected theorem Sound.arrOpAt {c bar bad i} (h : Sound F s) : Sound F (arrOpAt c bar bad i s) := h.barOp fun _ _ _ h => h.coreArrive
protected theorem Sound.waitbAt {c bar i} (h : Sound F s) : Sound F (waitbAt c bar i s) := h.barOp fun _ _ _ h => .ite h h.holdOp
protected theorem Sound.arwtAt {c bar bad i} (h : Sound F s) : Sound F (arwtAt c bar bad i s) := h.barOp fun _ _ _ h => h.coreArrive.waitbAt

protected theorem Sound.testbAt {c pd bar i} (h : Sound F s) : Sound F (testbAt c pd bar i s) :=
  h.barOp fun _ _ _ h => h.updCore fun _ w => w.wrOther

protected theorem Sound.raiseAt {c sig i} (h : Sound F s) : Sound F (raiseAt c sig i s) := h.raiseSig

protected theorem Sound.cOp {c op f} (h : Sound F s) (hf : ∀ a0 s, Sound F s → Sound F (f a0 s)) : Sound F (cOp c op f s) := by
  unfold cOp
  dsimp only
  split
  · exact h
  · split
    · split
      · exact h.arrOpAt
      · exact h.barOp fun _ _ _ h => h.coreArrive.holdOp
      · exact h.holdOp
    · exact hf _ _ h

protected theorem Sound.cDo {op i} (h : Sound F s) : Sound F (cDo op i s) := by
  unfold cDo
  split
  · exact h.arrOpAt
  · exact h.waitbAt
  · exact h.arwtAt
  · exact h.testbAt
  · exact h.raiseAt
  · exact h

protected theorem Sound.scalarCopy {c} (h : Sound F s) : Sound F (scalarCopy c s) := h.foldS fun _ _ h => .ite h h.scalarDo
protected theorem SpadWf.afterPlain {x} (w : SpadWf x) : SpadWf (afterPlain x) := w.frame
protected theorem SpadWf.afterDelay {x n target} (w : SpadWf x) : SpadWf (afterDelay x n target) := .ite w.frame w.frame

protected theorem SpadWf.advance {was jumped x} (w : SpadWf x) : SpadWf (advance was jumped x) := by
  unfold advance
  split
  · exact w.afterDelay
  · exact .ite w (.ite w.frame w.afterPlain)

protected theorem Sound.solEndIssue {c i} (h : Sound F s) : Sound F (solEndIssue c i s) :=
  h.solEndAt.foldS fun _ _ h => .ite h.combClose.mCause h

protected theorem Sound.seqDo {op i} (h : Sound F s) : Sound F (seqDo op i s) := by
  unfold seqDo
  split
  · exact h.brAt
  · exact h.loopiAt
  · exact h.looprAt
  · exact h.guardAt
  · exact h.solEndIssue
  · exact h

protected theorem Sound.sSlot {c op} (h : Sound F s) : Sound F (sSlot c op s) := .ite h.seqDo (h.scalarOp fun _ _ h => h.scalarDo)

protected theorem Sound.mSlot {c m w'} (h : Sound F s) : Sound F (mSlot c m w' s) := by
  unfold mSlot
  split
  · exact h.mDo
  · exact h.mOp fun _ _ h => h.mCause

protected theorem Sound.vSlot {c v1 w'} (h : Sound F s) : Sound F (vSlot c v1 w' s) := by
  unfold vSlot
  split
  · exact h.vDo
  · exact h.vOp fun _ _ h => h

protected theorem Sound.xSlot {c x w'} (h : Sound F s) : Sound F (xSlot c x w' s) := by
  unfold xSlot
  split
  · exact h.xOp fun _ _ h => h
  · exact h.xOp fun _ _ h => h.xDo
  · exact .ite h (h.xOn fun _ h => h.movCause)

protected theorem Sound.performSlots {c k} (h : Sound F s) : Sound F (performSlots c k s) :=
  (h.elim fun _ => .ite h h.sSlot).bind fun h => (Sound.ite h.mSlot.mSlot h).bind fun h =>
    Sound.bind (.ite (h.elim fun _ => h.scalarOp fun _ _ h => h.scalarDo) h.vSlot.vSlot) fun h =>
      h.xSlot.xSlot.bind fun h => h.elim fun _ => .ite h.sSlot h

protected theorem Sound.performC {c bad k} (h : Sound F s) : Sound F (performC c bad k s) := by
  unfold performC
  split
  · exact h.cOp fun _ _ h => h
  · exact h.cOp fun _ _ h => h.cDo
  · exact h

protected theorem Sound.settleCore {c} (h : Sound F s) : Sound F (settleCore c s) := (h.updCore fun _ w => w.settle).vecSettle
protected theorem Sound.unitCycle {c t} (h : Sound F s) : Sound F (unitCycle c t s) := (h.foldS fun _ _ h => h.arrCycle).xStep
protected theorem Sound.stepCore {c} (h : Sound F s) : Sound F (stepCore c s) := h.bankStep.updCore.settleCore.unitCycle

protected theorem Sound.issueCore {bad c} (h : Sound F s) : Sound F (issueCore bad c s) := by
  unfold issueCore
  dsimp only
  split
  · exact h
  · split
    · exact h.stepCore
    · split
      · exact (h.coreFault.updCore fun _ w => w.advance).stepCore
      · exact (h.performSlots.updCore fun _ w => w.advance).performC.stepCore

protected theorem Sound.issueOp {p bad} (h : Sound F s) : Sound F (issueOp p bad s) := by
  unfold issueOp
  dsimp only
  split
  · split
    · exact (h.foldS fun _ _ h => h.issueCore).updPtn
    · exact h.foldS fun _ _ h => h.issueCore
  · exact h

protected theorem Sound.heldDo {u i op} (h : Sound F s) : Sound F (heldDo u i op s) := .ite h.scalarDo (.ite h.cDo h.xDo)

protected theorem Sound.heldCycle {inOrder hs i c} (h : Sound F s) : Sound F (heldCycle inOrder hs i c s) :=
  h.foldS fun _ _ h => h.foldS fun _ _ h => .ite h.holdQuiet h.heldDo

protected theorem Sound.heldPass {inOrder p} (h : Sound F s) : Sound F (heldPass inOrder p s) :=
  (h.foldS fun _ _ h => h.updCore).foldS fun _ _ h => h.foldS fun _ _ h => h.heldCycle.xStep

protected theorem Sound.lowerOp {p} (h : Sound F s) : Sound F (lowerOp p s) :=
  .ite ((h.foldS fun _ _ h => h.updCore).heldPass.bind fun h => .ite (h.unfreeze.foldS fun _ _ h => h.settleCore).trace h) h

protected theorem Sound.drainCore {c} (h : Sound F s) : Sound F (drainCore c s) :=
  ((h.foldS fun _ _ h => h.unitCycle).updCore fun _ w => w.frame.settle).vecSettle

protected theorem Sound.parkOp {c} (h : Sound F s) : Sound F (parkOp c s) := .ite (h.setCore h.coreAt.frame).drainCore h

protected theorem Sound.solEndOp {c} (h : Sound F s) : Sound F (solEndOp c s) :=
  .ite h (.ite h.solEndAt (h.solEndIssue.updCore fun _ w => w.advance))

/-! ### Power -/

protected theorem Sound.incidentShut (h : Sound F s) : Sound F (incidentShut s) := .ite h.setF.setF.frame h

/-- What a reset clears is in canonical form, and it leaves the fuses and the stacks' memory. -/
theorem Sound.cleared (h : Sound F s) : Sound F { State.reset with fuses := s.fuses, dram := s.dram } := by
  obtain ⟨hf, -, hd, -⟩ := h
  exact ⟨hf, rfl, hd, rfl⟩

protected theorem Sound.chipReset {keep} (h : Sound F s) : Sound F (chipReset keep s) :=
  .ite ((Sound.frame h.cleared).foldS fun _ _ h => h.setR).setF.setF (Sound.frame h.cleared)

protected theorem Sound.setDuties {cap therm} (h : Sound F s) : Sound F (setDuties cap therm s) := h.setR
protected theorem Sound.noteSlow (h : Sound F s) : Sound F (noteSlow s) := h.foldS fun _ _ h => .ite h.updPtn h
protected theorem Sound.clockGo (h : Sound F s) : Sound F (clockGo s) := .ite h (h.foldS fun _ _ h => h.updPtn)
protected theorem Sound.applyTargets (h : Sound F s) : Sound F (applyTargets s) := h.frame.setF.noteSlow.clockGo

protected theorem Sound.planOp {body} (h : Sound F s) : Sound F (planOp body s) :=
  .ite h.satR (h.frame.setQ.setF.trace.bind fun h => .ite h.applyTargets (.ite (.ite h h.setF.namedAlarm) h.applyTargets))

protected theorem Sound.slewDoneOp {south} (h : Sound F s) : Sound F (slewDoneOp south s) := by
  unfold slewDoneOp
  dsimp only
  split
  · exact h
  · exact h.setF.frame.clockGo

protected theorem Sound.heldApplyOp (h : Sound F s) : Sound F (heldApplyOp s) := .ite h.applyTargets h
protected theorem Sound.railFault {bad} (h : Sound F s) : Sound F (railFault bad s) := (Sound.ite h h.alarmFull).chipReset

protected theorem Sound.powerSampleOp {rails p16} (h : Sound F s) : Sound F (powerSampleOp rails p16 s) :=
  .ite h ((h.foldS fun _ _ h => h.setR).bind fun h => .ite h.railFault (h.frame.setF.bind fun h => .ite h.setDuties.noteSlow h))

protected theorem Sound.governorOp {mean} (h : Sound F s) : Sound F (governorOp mean s) :=
  h.setR.bind fun h => .ite (.ite h.frame.namedAlarm h.frame) (h.frame.bind fun h => .ite h.setDuties h)

protected theorem Sound.thermTrip (h : Sound F s) : Sound F (thermTrip s) := h.frame.setF.fault.alarmFull.frame

protected theorem Sound.thermalOp {temps} (h : Sound F s) : Sound F (thermalOp temps s) :=
  .ite h ((h.foldS fun _ _ h => h.setF).setR.setF.bind fun h => (Sound.ite (h.setDuties.noteSlow.bind fun h => .ite h.frame.namedAlarm h)
    (.ite h.frame.setDuties h)).frame.bind fun h => .ite h.thermTrip h)

protected theorem Sound.droopOp {south} (h : Sound F s) : Sound F (droopOp south s) := h.satR.frame
protected theorem Sound.droopEndOp {south} (h : Sound F s) : Sound F (droopEndOp south s) := h.frame
protected theorem Sound.telemSend {kind bs room} (h : Sound F s) : Sound F (telemSend kind bs room s) := .ite h.postMsg h.satR

protected theorem Sound.telemOp {room} (h : Sound F s) : Sound F (telemOp room s) := by
  unfold telemOp
  refine .ite ?_ h
  extract_lets s₁ _ _ s₂ s₃ _
  have h₁ : Sound F s₁ := h.telemSend
  have h₂ : Sound F s₂ := .ite h₁.frame h₁.frame
  have h₃ : Sound F s₃ := .ite h₂.telemSend h₂
  refine .ite ?_ h₃
  split
  · exact h₃.frame.telemSend
  · exact h₃

protected theorem Sound.alarmSlotFreeOp (h : Sound F s) : Sound F (alarmSlotFreeOp s) := h.frame.slotService
protected theorem Sound.traceTailOp {v} (h : Sound F s) : Sound F (traceTailOp v s) := h.setR.frame.traceAdjust
protected theorem Sound.annReleaseOp (h : Sound F s) : Sound F (annReleaseOp s) := .ite h h.setF.setF

protected theorem Sound.annClearOp (h : Sound F s) : Sound F (annClearOp s) :=
  .ite h.ignoredCmd ((h.annReleaseOp.foldS fun _ _ h => h.setR).foldS fun _ _ h => h.setR).frame

protected theorem Sound.traceRestartOp (h : Sound F s) : Sound F (traceRestartOp s) := h.setF

/-! ### Commands of the units -/

protected theorem Sound.unitOpen {u stage} (h : Sound F s) : Sound F (unitOpen u stage s) := h.frame
protected theorem Sound.unitClose {u} (h : Sound F s) : Sound F (unitClose u s) := h.frame

protected theorem Sound.updUnit {u f} (h : Sound F s) : Sound F (updUnit u f s) := by
  unfold updUnit
  split
  · exact h.frame
  · exact h

protected theorem Sound.unitFail {u} (h : Sound F s) : Sound F (unitFail u s) := h.updUnit

protected theorem Sound.unitSend {u ep d a kind mk} (h : Sound F s) : Sound F (unitSend u ep d a kind mk s) := by
  unfold unitSend
  dsimp only
  split
  · exact (h.newTxn.opIssue.of_snd ‹_›).updUnit
  · exact h.newTxn.opIssue.of_snd ‹_›
  · exact (h.newTxn.opIssue.of_snd ‹_›).unitFail

protected theorem Sound.unitReadPiece {u ep p} (h : Sound F s) : Sound F (unitReadPiece u ep p s) := by
  unfold unitReadPiece
  dsimp only
  split
  · exact h.unitFail
  · split
    · exact h.unitSend
    · split
      · exact (h.readBlock.of_snd ‹_›).updUnit
      · exact (h.readBlock.of_snd ‹_›).unitFail
  · exact h.unitSend

protected theorem Sound.unitRead {u ep pos a len} (h : Sound F s) : Sound F (unitRead u ep pos a len s) :=
  h.foldS fun _ _ h => h.unitReadPiece

protected theorem Sound.unitWritePiece {u ep bs p} (h : Sound F s) : Sound F (unitWritePiece u ep bs p s) := by
  unfold unitWritePiece
  dsimp only
  split
  · exact h.unitFail
  · split
    · exact h.writeBlock.of_snd ‹_›
    · exact (h.writeBlock.of_snd ‹_›).unitFail
    · exact (h.writeBlock.of_snd ‹_›).updUnit
  · exact h.unitSend

protected theorem Sound.unitWrite {u ep a bs} (h : Sound F s) : Sound F (unitWrite u ep a bs s) := h.foldS fun _ _ h => h.unitWritePiece

/-! ### Sols and time -/

protected theorem Sound.timeTo {t} (h : Sound F s) : Sound F (timeTo t s) := .ite h.frame h

protected theorem Sound.tickNs (h : Sound F s) : Sound F (tickNs s) :=
  .ite h (h.frame.bind fun h => .ite (.ite h.frame h.frame) (.ite h.frame (.ite h.frame h.frame)))

protected theorem Sound.timeFault (h : Sound F s) : Sound F (timeFault s) := h.foldS fun _ _ h => .ite h.ptnFault h

protected theorem Sound.timeOp {v} (h : Sound F s) : Sound F (timeOp v s) :=
  .ite (.ite h.frame.setR h) (h.setR.bind fun h => .ite h.frame (Sound.ite h.frame h.frame).fault.timeFault)

protected theorem Sound.holdoverOp (h : Sound F s) : Sound F (holdoverOp s) := .ite h.setF h
protected theorem Sound.timeLostOp (h : Sound F s) : Sound F (timeLostOp s) := .ite h.setF.fault.timeFault h
protected theorem Sound.packageTickOp {k} (h : Sound F s) : Sound F (packageTickOp k s) := .ite h.timeTo h
protected theorem Sound.setPtnSeq {p q} (h : Sound F s) : Sound F (setPtnSeq p q s) := h.setQ
protected theorem Sound.putSnap {c k t} (h : Sound F s) : Sound F (putSnap c k t s) := h.frame
protected theorem Sound.putPrec {p k t} (h : Sound F s) : Sound F (putPrec p k t s) := h.frame
protected theorem Sound.putPlanes {c k m l} (h : Sound F s) : Sound F (putPlanes c k m l s) := h.frame

protected theorem Sound.snapCopy {p q tick} (h : Sound F s) : Sound F (snapCopy p q tick s) :=
  (h.foldS fun _ _ h => h.putSnap.bind fun h => .ite (h.foldS fun _ _ h => h.putPlanes) h).putPrec.updPtn

protected theorem Sound.snapFlip {p} (h : Sound F s) : Sound F (snapFlip p s) := h.updPtn.setF
protected theorem Sound.snapCommit {p q tick} (h : Sound F s) : Sound F (snapCommit p q tick s) := h.snapCopy.snapFlip
protected theorem Sound.restoreArr {c m t saved} (h : Sound F s) : Sound F (restoreArr c m t saved s) := h.setArr.setR
protected theorem Sound.restoreVec {c t} (h : Sound F s) : Sound F (restoreVec c t s) := h.setVec.setR

protected theorem Sound.restoreCore {c t planes} (h : Sound F s) : Sound F (restoreCore c t planes s) := by
  unfold restoreCore
  extract_lets loops xa s₁ s₂ s₃ s₄
  have h₁ : Sound F s₁ := h.updCore fun _ w => w.frame
  have h₂ : Sound F s₂ := h₁.foldS fun _ _ h => h.setSig
  have h₃ : Sound F s₃ := h₂.setR
  have h₄ : Sound F s₄ := .ite (h₃.foldS fun _ _ h => h.restoreArr) h₃
  exact .ite h₄.restoreVec h₄

protected theorem Sound.clearCore {c} (h : Sound F s) : Sound F (clearCore c s) :=
  (h.updCore.foldS fun _ _ h => h.setSig).setR.bind fun h => (Sound.ite (h.foldS fun _ _ h => h.arrReset) h).bind fun h => .ite h.vecReset h

protected theorem Sound.restoreBars {p gens} (h : Sound F s) : Sound F (restoreBars p gens s) :=
  h.foldS fun _ _ h => .ite (by split <;> exact h.barRestore) h

protected theorem Sound.snapRestore {p} (h : Sound F s) : Sound F (snapRestore p s) :=
  (h.foldS fun _ _ h => (by split; exacts [h.restoreCore, h])).updPtn.setPtnSeq

protected theorem Sound.barsGo {p} (h : Sound F s) : Sound F (barsGo p s) := .ite h.setPtn.restoreBars h

protected theorem Sound.imgStep {c} (h : Sound F s) : Sound F (imgStep c s) := by
  unfold imgStep
  split
  · exact .ite (.ite h.updUnit h.updUnit.unitRead) h
  · exact h

protected theorem Sound.imgStart {c} (h : Sound F s) : Sound F (imgStart c s) := h.updCore.unitOpen.unitRead.imgStep

protected theorem Sound.scriptLoadOp {c} (h : Sound F s) : Sound F (scriptLoadOp c s) := by
  unfold scriptLoadOp
  dsimp only
  split
  · split
    · split
      · exact h.updCore.unitClose.coreFault
      · split
        · exact h.updCore.unitClose.updCore.barsGo
        · exact h.updCore.unitClose.updCore
    · exact h
  · exact h

protected theorem Sound.ptnCancel {p} (h : Sound F s) : Sound F (ptnCancel p s) := h.foldS fun _ _ h => h.updCore.unitClose

protected theorem Sound.startRefused {pg cause} (h : Sound F s) : Sound F (startRefused pg cause s) :=
  h.fault.bind fun h => .ite h.setBState h

protected theorem Sound.ptnBegin {p} (h : Sound F s) : Sound F (ptnBegin p s) :=
  h.updPtn.bind fun h => ((Sound.ite h.snapRestore (h.foldS fun _ _ h => h.clearCore).restoreBars.setPtnSeq).foldS fun _ _ h =>
    h.imgStart).barsGo

protected theorem Sound.ptnStart {p} (h : Sound F s) : Sound F (ptnStart p s) := h.setR.updPtn.bind fun h => .ite h.ptnBegin h

protected theorem Sound.ptnRunning {p} (h : Sound F s) : Sound F (ptnRunning p s) := by
  unfold ptnRunning
  dsimp only
  split
  · exact .ite ((h.setBState.frame.setDegraded.foldS fun _ _ h => h.updCore.vecClear).updPtn.snapCommit.bind fun h =>
      (Sound.ite h.setF h.setR).trace) h
  · exact h

protected theorem Sound.coreTick {c} (h : Sound F s) : Sound F (coreTick c s) :=
  ((h.updCore.vecClear.foldS fun _ _ h => h.combClose.updArr).foldS fun _ _ h => h.setMover).setGth

protected theorem Sound.ptnTickOp {p j} (h : Sound F s) : Sound F (ptnTickOp p j s) :=
  .ite (h.timeTo.tagsDrop.foldS fun _ _ h => h.coreTick).updPtn h

protected theorem Sound.hardRuns {reached p} (h : Sound F s) : Sound F (hardRuns reached p s) :=
  h.foldS fun _ _ h => .ite (h.setR.bind fun h => .ite h.fault h) (.ite h.setR h)

protected theorem Sound.hardCount {p} (h : Sound F s) : Sound F (hardCount p s) := h.hardRuns

protected theorem Sound.replayStart {p} (h : Sound F s) : Sound F (replayStart p s) :=
  h.setR.setBState.satR.satR.bind fun h => .ite h.updPtn.startRefused (h.updPtn.setF.snapRestore.foldS fun _ _ h => .ite h.imgStart
    h).barsGo.trace

protected theorem Sound.replayOp {p} (h : Sound F s) : Sound F (replayOp p s) := by
  unfold replayOp
  split
  · exact h.replayStart
  · exact h.setF

protected theorem Sound.takeDeferred {atEnd p} (h : Sound F s) : Sound F (takeDeferred atEnd p s) :=
  h.updPtn.raise.bind fun h => (Sound.ite h.hardCount h).bind fun h => .ite h.setR.replayStart h

protected theorem Sound.endPointOp {p now} (h : Sound F s) : Sound F (endPointOp p now s) :=
  .ite (h.timeTo.bind fun h => (Sound.ite h.setR h).updPtn.bind fun h => .ite h.takeDeferred h.updPtn.snapCopy.hardCount) h

protected theorem Sound.shipment {p q} (h : Sound F s) : Sound F (shipment p q s) :=
  ((((h.foldS fun _ _ h => h.shipSend).foldS fun _ _ h => .ite (h.foldS fun _ _ h => h.foldS fun _ _ h => h.shipSend) h).foldS fun _ _ h =>
    h.foldS fun _ _ h => h.foldS fun _ _ h => h.shipSend).foldS fun _ _ h => h.shipSend).frame

protected theorem Sound.setPseq {p q} (h : Sound F s) : Sound F (setPseq p q s) := h.frame

protected theorem Sound.digestCheck {p q} (h : Sound F s) : Sound F (digestCheck p q s) := by
  unfold digestCheck
  dsimp only
  split
  · exact h.frame.bind fun h => .ite (.ite h h.setPseq) h.setR.namedAlarm
  · exact h

protected theorem Sound.twinCommit {p q} (h : Sound F s) : Sound F (twinCommit p q s) :=
  (Sound.ite h.shipment h).bind fun h => (Sound.ite (.ite h.twinSend.frame.digestCheck (.ite h.setPseq h)) h).frame

protected theorem Sound.ptnStopped {p} (h : Sound F s) : Sound F (ptnStopped p s) := h.updPtn.setBState.ringStopped

protected theorem Sound.commitOp {p bad} (h : Sound F s) : Sound F (commitOp p bad s) :=
  .ite (.ite (h.fault.bind fun h => .ite h h.ringDiscard.retryRings.lvnNotices.updPtn) (.ite h.takeDeferred
    (h.snapFlip.ringCommit.retryRings.lvnNotices.setPtnSeq.setR.setR.twinCommit.trace.bind fun h => .ite h.ptnStopped h.updPtn))) h

protected theorem Sound.overrunOp {p} (h : Sound F s) : Sound F (overrunOp p s) :=
  .ite (h.timeTo.setR.satR.ptnFault.bind fun h => .ite h.ptnFault h) h

protected theorem Sound.ptnFaultedOp {p} (h : Sound F s) : Sound F (ptnFaultedOp p s) :=
  .ite ((h.heldPass.ptnDropHeld.foldS fun _ _ h => h.drainCore).bind fun h => .ite h.hardRuns.raise.retryRings.redSettle h) h

protected theorem Sound.actionDone {p result} (h : Sound F s) : Sound F (actionDone p result s) := h.setR
protected theorem Sound.actionCancel {p} (h : Sound F s) : Sound F (actionCancel p s) := .ite h.unitClose.actionDone h

protected theorem Sound.dumpSettle {p} (h : Sound F s) : Sound F (dumpSettle p s) := by
  unfold dumpSettle
  split
  · exact .ite h.unitClose.actionDone h
  · exact h

protected theorem Sound.dumpOp {p} (h : Sound F s) : Sound F (dumpOp p s) := .ite h (.ite h.actionDone h.unitOpen.setR.unitWrite.dumpSettle)

protected theorem Sound.loadSettle {p} (h : Sound F s) : Sound F (loadSettle p s) := by
  unfold loadSettle
  dsimp only
  split
  · exact .ite h (.ite (.ite h.unitClose.actionDone (.ite h.unitClose.actionDone h.updUnit.unitRead)) (.ite (h.unitClose.bind fun h =>
      .ite h.actionDone (h.foldS fun _ _ h => h.putSnap.foldS fun _ _ h => h.putPlanes.planesDrop).putPrec.updPtn.setF.setPtnSeq.actionDone)
      h))
  · exact h

protected theorem Sound.loadOp {p} (h : Sound F s) : Sound F (loadOp p s) :=
  .ite h (.ite h.actionDone h.unitOpen.setR.unitRead.loadSettle.loadSettle)

/-! ### Twin copies -/

protected theorem Sound.updTwn {f} (h : Sound F s) : Sound F (updTwn f s) := h.frame
protected theorem Sound.enterPstate {v} (h : Sound F s) : Sound F (enterPstate v s) := h.setPstate.setDegraded

protected theorem Sound.markStale (h : Sound F s) : Sound F (markStale s) :=
  .ite h (h.updTwn.bind fun h => (Sound.ite h h.enterPstate).namedAlarm)

protected theorem Sound.helloSend (h : Sound F s) : Sound F (helloSend s) := h.twinSend
protected theorem Sound.twnStart (h : Sound F s) : Sound F (twnStart s) := h.updTwn.setF.enterPstate.helloSend
protected theorem Sound.twnStop (h : Sound F s) : Sound F (twnStop s) := h.updTwn.setF.enterPstate

protected theorem Sound.helloOp {epoch ptns role mode} (h : Sound F s) : Sound F (helloOp epoch ptns role mode s) :=
  .ite (.ite h.updTwn.enterPstate h.fault) h

protected theorem Sound.helloTimerOp (h : Sound F s) : Sound F (helloTimerOp s) := .ite h.helloSend h
protected theorem Sound.beatTimerOp (h : Sound F s) : Sound F (beatTimerOp s) := .ite h.twinSend h

protected theorem Sound.startPtn {p} (h : Sound F s) : Sound F (startPtn p s) :=
  .ite (h.setBState.bind fun h => .ite h.startRefused h.ptnStart) h

protected theorem Sound.enableRings {p} (h : Sound F s) : Sound F (enableRings p s) := h.foldS fun _ _ h => .ite h.ringEnableOp h
protected theorem Sound.takePtns {mask} (h : Sound F s) : Sound F (takePtns mask s) := h.foldS fun _ _ h => h.updTwn.enableRings
protected theorem Sound.twnResult {busy done r} (h : Sound F s) : Sound F (twnResult busy done r s) := h.setR
protected theorem Sound.takeOp (h : Sound F s) : Sound F (takeOp s) := .ite h (.ite h.twnResult (.ite h.twnResult h.takePtns.twnResult))

protected theorem Sound.twinLost (h : Sound F s) : Sound F (twinLost s) :=
  .ite (h.updTwn.enterPstate.namedAlarm.bind fun h => .ite (h.takePtns.foldS fun _ _ h => h.startPtn) h) h

protected theorem Sound.stageMsg {m} (h : Sound F s) : Sound F (stageMsg m s) := .ite (.ite h (.ite h.updTwn.markStale h.updTwn)) h

protected theorem Sound.twinPut {a bs} (h : Sound F s) : Sound F (twinPut a bs s).2 :=
  h.foldl₂' fun _ _ h => by split; exacts [h.clearUe.memPut, h]

protected theorem Sound.shipApply {m} (h : Sound F s) : Sound F (shipApply m s) := by
  unfold shipApply
  dsimp only
  split
  · split
    · exact .ite (h.updCore fun _ w => w.spadPut) h
    · exact h
  · exact h.twinPut
  · exact h

protected theorem Sound.ringApply {m} (h : Sound F s) : Sound F (ringApply m s) := .ite h.setRingWord.setRingWord h

protected theorem Sound.snapApply {p q ms} (h : Sound F s) : Sound F (snapApply p q ms s) :=
  (h.foldS fun _ _ h => h.putSnap.foldS fun _ _ h => h.putPlanes).putPrec.updPtn.setPtnSeq.setF

protected theorem Sound.syncBit {p} (h : Sound F s) : Sound F (syncBit p s) := .ite (h.setR.bind fun h => .ite h.enterPstate.namedAlarm h) h

protected theorem Sound.doneOp {p q count} (h : Sound F s) : Sound F (doneOp p q count s) :=
  .ite (h.updTwn.bind fun h => .ite (h.twinSend.bind fun h => .ite h h.markStale) ((h.foldS fun _ _ h => h.shipApply).snapApply.foldS
    fun _ _ h => h.ringApply).twinSend.setPseq.wrapR.syncBit) h

protected theorem Sound.shipDoneOp {p} (h : Sound F s) : Sound F (shipDoneOp p s) := by
  unfold shipDoneOp
  dsimp only
  split
  · exact .ite h.twinSend.updTwn.wrapR h
  · exact h

protected theorem Sound.ackOp {p q code} (h : Sound F s) : Sound F (ackOp p q code s) := .ite h.setPseq.syncBit h
protected theorem Sound.digestOp {p q n d} (h : Sound F s) : Sound F (digestOp p q n d s) := .ite h.updTwn.digestCheck h

protected theorem Sound.digestTimeoutOp {p} (h : Sound F s) : Sound F (digestTimeoutOp p s) := by
  unfold digestTimeoutOp
  split
  · exact .ite h.updTwn.namedAlarm h
  · exact h

protected theorem Sound.silverPiece {die a key} (h : Sound F s) : Sound F (silverPiece die a key s) := h.postMsg

protected theorem Sound.silverZeros {die a n step len} (h : Sound F s) : Sound F (silverZeros die a n step len s) := by
  unfold silverZeros
  split
  · exact h
  · split
    · exact .ite h h.send
    · exact h.lkgDiscard

protected theorem Sound.silverCopy (h : Sound F s) : Sound F (silverCopy s) :=
  (h.foldl₂' fun _ _ h => by exact h.silverZeros.silverPiece).silverZeros.updTwn

protected theorem Sound.silverOp (h : Sound F s) : Sound F (silverOp s) :=
  .ite h (.ite h.twnResult (.ite h.twnResult h.setF.enterPstate.silverCopy.updTwn.twnResult))

protected theorem Sound.copyEnd (h : Sound F s) : Sound F (copyEnd s) := h.setR.updTwn.twnResult.bind fun h => .ite h h.namedAlarm

protected theorem Sound.silverDoneOp (h : Sound F s) : Sound F (silverDoneOp s) :=
  .ite (.ite h.updTwn.twnResult (.ite h.updTwn.enterPstate.copyEnd (h.twinSend.enterPstate.updTwn.foldS fun _ _ h => h.shipment).copyEnd)) h

protected theorem Sound.silverMsgOp {sdie a bs glzs} (h : Sound F s) : Sound F (silverMsgOp sdie a bs glzs s) :=
  .ite ((Sound.ite h ((Sound.ite h.updTwn h).bind fun h => .ite h h.enterPstate)).bind fun h => .ite h.twinPut h.updTwn.markStale) h

protected theorem Sound.silveredOp (h : Sound F s) : Sound F (silveredOp s) := .ite (.ite h.enterPstate h.setF.updTwn.enterPstate) h

protected theorem Sound.blockOp {p q whr bs tile glaze} (h : Sound F s) : Sound F (blockOp p q whr bs tile glaze s) :=
  .ite (.ite (.ite h.twinPut h.updTwn.markStale) h) h.stageMsg

protected theorem Sound.zeroGaps {die a0 step cuts hi} (h : Sound F s) : Sound F (zeroGaps die a0 step cuts hi s) :=
  (h.foldl₂' fun _ _ h => by exact h.silverZeros).silverZeros

protected theorem Sound.fosterRun {die a0 step key0 cnt} (h : Sound F s) : Sound F (fosterRun die a0 step key0 cnt s) :=
  (h.zeroGaps.foldS fun _ _ h => h.foldS fun _ _ h => h.silverPiece).updTwn

protected theorem Sound.fosterChannel {g h' ch} (h : Sound F s) : Sound F (fosterChannel g h' ch s) := by
  unfold fosterChannel
  dsimp only
  split
  · exact h.updTwn
  · exact .ite (h.foldS fun _ _ h => (by split; exacts [h.fosterRun, h])) h.updTwn

protected theorem Sound.fosterOp (h : Sound F s) : Sound F (fosterOp s) :=
  .ite h (.ite (h.updTwn.foldS fun _ _ h => h.foldS fun _ _ h => h.fosterChannel).twnResult h.twnResult)

protected theorem Sound.fosterDoneOp (h : Sound F s) : Sound F (fosterDoneOp s) := .ite h.copyEnd h

/-! ### Links -/

protected theorem Sound.setLstate {p v} (h : Sound F s) : Sound F (setLstate p v s) := h.setF
protected theorem Sound.barsLost {d} (h : Sound F s) : Sound F (barsLost d s) := h.cascade

protected theorem Sound.dieLost {d} (h : Sound F s) : Sound F (dieLost d s) :=
  .ite h (h.frame.namedAlarm.send.memoryLost.lvnDieLost.ringsLost.barsLost.bind fun h => .ite h.twinLost h)

protected theorem Sound.checkRoutes (h : Sound F s) : Sound F (checkRoutes s) := h.foldS fun _ _ h => .ite h.dieLost h

protected theorem Sound.groupGone {g} (h : Sound F s) : Sound F (groupGone g s) :=
  .ite (h.foldS fun _ _ h => (by split; exacts [h.fault, h])) h.checkRoutes

protected theorem Sound.serviceBit {p on} (h : Sound F s) : Sound F (serviceBit p on s) := h.setR.setDegraded

protected theorem Sound.setService {p on} (h : Sound F s) : Sound F (setService p on s) :=
  h.serviceBit.bind fun h => .ite h.groupGone (.ite h.portFlush h)

protected theorem Sound.afterLeave {p} (h : Sound F s) : Sound F (afterLeave p s) := .ite h.setLstate (.ite h h.setLstate)
protected theorem Sound.ctrlSend {p op arg1 seq} (h : Sound F s) : Sound F (ctrlSend p op arg1 seq s) := h.portSend.send

protected theorem Sound.leaveSet {p} (h : Sound F s) : Sound F (leaveSet p s) := by
  unfold leaveSet
  dsimp only
  split
  · exact h.afterLeave
  · split
    · exact h
    · split
      · exact .ite h.setService.afterLeave h.setGrp
      · exact h.setGrp.bind fun h => .ite h h.ctrlSend.satR

protected theorem Sound.joinSet {p} (h : Sound F s) : Sound F (joinSet p s) := .ite h.setGrp (.ite h.setService h.setGrp)

protected theorem Sound.remapResumeOp {g} (h : Sound F s) : Sound F (remapResumeOp g s) := by
  unfold remapResumeOp
  dsimp only
  split
  · exact h
  · exact (((h.setGrp.foldS fun _ _ h => .ite h.setService h).foldS fun _ _ h => .ite h h.setService.afterLeave).foldS fun _ _ h => .ite h
      (h.updPort.bind fun h => (by split; exacts [h, h.foldS fun _ _ h => h.portSend]))).foldS fun _ _ h => h.portFlush

protected theorem Sound.retrainOp {p restore} (h : Sound F s) : Sound F (retrainOp p restore s) := .ite h.satR.namedAlarm.updPort.leaveSet h

protected theorem Sound.sliceStranded {i reason reads} (h : Sound F s) : Sound F (sliceStranded i reason reads s) :=
  h.foldS fun _ _ h => (by split; exacts [.ite h.updSlice.sliceErr.respondErr.lineFree h, .ite h h.updSlice.sliceErr.respondErr.lineFree, .ite h h.updSlice.sliceErr.respondErr.lineFree, h])

protected theorem Sound.portRetire {p} (h : Sound F s) : Sound F (portRetire p s) :=
  .ite h (h.setF.namedAlarm.setBState.bind fun h => (Sound.ite h.setGrp h).leaveSet.bind fun h => .ite (Sound.portClear
    (by split; exacts [h.fault.sliceStranded, h])) h)

protected theorem Sound.stageTo {p tx st lane} (h : Sound F s) : Sound F (stageTo p tx st lane s) :=
  h.setF.firstR.bind fun h => .ite h.namedAlarm (.ite h.namedAlarm.setDegraded h.portRetire)

protected theorem Sound.laneStage {p tx lane} (h : Sound F s) : Sound F (laneStage p tx lane s).2 := by
  unfold laneStage
  dsimp only
  split
  · exact h
  · split
    · exact h.setR.stageTo
    · split
      · exact h.setR.setF.stageTo
      · split
        · split
          · exact h.setR.bind fun h => .ite₂ h.stageTo h
          · exact h.setR
        · exact h.setR

protected theorem Sound.rxFail {p lane} (h : Sound F s) : Sound F (rxFail p lane s) := by
  unfold rxFail
  dsimp only
  split
  · exact h.laneStage.ctrlSend
  · exact h.laneStage
  · exact h.laneStage
  · split
    · exact h.laneStage.ctrlSend
    · exact h.laneStage

protected theorem Sound.laneErr {p lane} (h : Sound F s) : Sound F (laneErr p lane s) := h.setR.bind fun h => .ite h.rxFail h
protected theorem Sound.useSpare {p tx k pos} (h : Sound F s) : Sound F (useSpare p tx k pos s) := h.setR

protected theorem Sound.swapReqOp {p pos} (h : Sound F s) : Sound F (swapReqOp p pos s) := by
  unfold swapReqOp
  dsimp only
  split
  · split
    · exact .ite h.laneStage.useSpare.ctrlSend h.laneStage
    · exact h.laneStage
  · exact h

protected theorem Sound.swapOp {p arg} (h : Sound F s) : Sound F (swapOp p arg s) := .ite h.useSpare h
protected theorem Sound.halfReqOp {p h'} (h : Sound F s) : Sound F (halfReqOp p h' s) := .ite h.setF.stageTo.ctrlSend h
protected theorem Sound.halfOp {p h'} (h : Sound F s) : Sound F (halfOp p h' s) := .ite h.setF h

protected theorem Sound.resendFrom {p seq} (h : Sound F s) : Sound F (resendFrom p seq s) :=
  .ite h (.ite h.retrainOp h.setPort.satR.wrapR.send)

protected theorem Sound.drainCheck {g} (h : Sound F s) : Sound F (drainCheck g s) := .ite h.setGrp h

protected theorem Sound.frameAcks {p f} (h : Sound F s) : Sound F (frameAcks p f s) :=
  h.setPort.bind fun h => (Sound.ite (by split; exacts [h.stackAcks.peerAck, h]) h).bind fun h => (Sound.ite h.resendFrom
    h).portFlush.drainCheck

protected theorem Sound.posErrs {p l} (h : Sound F s) : Sound F (posErrs p l s) := h.foldS fun _ _ h => h.laneErr

protected theorem Sound.frameSeq {p f} (h : Sound F s) : Sound F (frameSeq p f s).2 :=
  .ite₂ (h.setPort.wrapR.bind fun h => (by split; exacts [h.posErrs, h])) h

protected theorem Sound.release1 {p c} (h : Sound F s) : Sound F (release1 p c s) := h.updPort
protected theorem Sound.failedFrame {p f} (h : Sound F s) : Sound F (failedFrame p f s) := h.satR.bind fun h => .ite h.updPort h
protected theorem Sound.fecCount {p l} (h : Sound F s) : Sound F (fecCount p l s) := .ite h.satR.posErrs h

protected theorem Sound.frameIn {p f act} (h : Sound F s) (hact : ∀ s, Sound F s → Sound F (act s)) : Sound F (frameIn p f act s) :=
  .ite (h.fecCount.bind fun h => .ite h.failedFrame (hact _ h)) h

protected theorem Sound.idleOp {p f} (h : Sound F s) : Sound F (idleOp p f s) := h.frameIn fun _ h => h.frameAcks

protected theorem Sound.dataOp {p f} (h : Sound F s) : Sound F (dataOp p f s) :=
  h.frameIn fun _ h => (Sound.ite h.frameSeq.release1 h.frameSeq).frameAcks

protected theorem Sound.hovrOp {p f} (h : Sound F s) : Sound F (hovrOp p f s) :=
  h.frameIn fun _ h => (Sound.ite (h.frameSeq.release1.bind fun h => .ite h.updPort h) h.frameSeq).frameAcks

protected theorem Sound.failedFramesOp {p fs} (h : Sound F s) : Sound F (failedFramesOp p fs s) :=
  .ite ((Sound.ite h.satR h).foldS fun _ _ h => h.failedFrame) h

protected theorem Sound.ackTimeoutOp {p} (h : Sound F s) : Sound F (ackTimeoutOp p s) := by
  unfold ackTimeoutOp
  split
  · exact h
  · exact .ite h.resendFrom h

protected theorem Sound.retireWordOp {p idx expected} (h : Sound F s) : Sound F (retireWordOp p idx expected s) :=
  .ite h (h.updPort.setPort.bind fun h => (Sound.ite h (Sound.ite h.setGrp h).ctrlSend.satR).foldS fun _ _ h => h.send.portSend)

protected theorem Sound.offlineOp {p idx} (h : Sound F s) : Sound F (offlineOp p idx s) := .ite h h.updPort.leaveSet

protected theorem Sound.onlineOp {p idx} (h : Sound F s) : Sound F (onlineOp p idx s) :=
  .ite h (h.updPort.bind fun h => .ite h.setLstate.joinSet (.ite h.joinSet h))

protected theorem Sound.ctrlOp {p f} (h : Sound F s) : Sound F (ctrlOp p f s) :=
  h.frameIn fun _ h => h.frameSeq.frameAcks.bind fun h => .ite
    (by split; exacts [h.swapReqOp, h.swapOp, h.halfReqOp, h.halfOp, h.retireWordOp, h.offlineOp, h.onlineOp, h]) h

protected theorem Sound.trainFail {p} (h : Sound F s) : Sound F (trainFail p s) := h.updPort.setLstate
protected theorem Sound.portFresh {p} (h : Sound F s) : Sound F (portFresh p s) := h.setPort

protected theorem Sound.trainDoneOp {p rxFailed reversed wired versions} (h : Sound F s) :
    Sound F (trainDoneOp p rxFailed reversed wired versions s) :=
  .ite (.ite h.trainFail ((Sound.ite h.setR.setR.setR.setF.setF.setDegraded h).portFresh.updPort.setF.setF.setLstate.foldS fun _ _ h =>
    .ite h h.rxFail)) h

protected theorem Sound.trainRetryOp {p} (h : Sound F s) : Sound F (trainRetryOp p s) := .ite h.setLstate h
protected theorem Sound.trainLimitOp {p} (h : Sound F s) : Sound F (trainLimitOp p s) := .ite h.fault h

protected theorem Sound.idOut {p tx} (h : Sound F s) : Sound F (idOut p tx s) := by
  unfold idOut
  dsimp only
  exact h.idleFrame.send.wrapR

protected theorem Sound.idSendOp {p tx} (h : Sound F s) : Sound F (idSendOp p tx s) := .ite h.idOut h

protected theorem Sound.portChecks {p} (h : Sound F s) : Sound F (portChecks p s) := by
  unfold portChecks
  dsimp only
  split
  · exact h
  · exact .ite ((Sound.ite h h.fault).bind fun h => .ite h (h.fault.bind fun h => .ite h.groupGone h)) h

protected theorem Sound.groupChecks {g} (h : Sound F s) : Sound F (groupChecks g s) := h.foldS fun _ _ h => h.portChecks

protected theorem Sound.portUpOp {p} (h : Sound F s) : Sound F (portUpOp p s) :=
  h.setLstate.updPort.joinSet.bind fun h => .ite h.frame.slotService h

protected theorem Sound.idRecord {p r} (h : Sound F s) : Sound F (idRecord p r s) :=
  .ite (.ite (.ite h.trainFail h) (h.setPort.bind fun h => (Sound.ite h h.setR).setR.setF.setR.bind fun h =>
    (Sound.ite h.portUpOp h).portChecks)) h

protected theorem Sound.idOp {p f rx} (h : Sound F s) : Sound F (idOp p f rx s) :=
  h.frameIn fun _ h => h.frameAcks.bind fun h => by split; exacts [h.idRecord, h]

protected theorem Sound.linkDownOp {p} (h : Sound F s) : Sound F (linkDownOp p s) :=
  .ite (h.setLstate.namedAlarm.updPort.bind fun h => .ite h (.ite h.leaveSet ((h.foldS fun _ _ h => h.portClear).setGrp.bind fun h =>
    (Sound.ite (h.foldS fun _ _ h => h.setService) (h.foldS fun _ _ h => h.serviceBit)).bind fun h => .ite h.dieLost.checkRoutes
    (.ite h.dieLost.checkRoutes h)))) h

protected theorem Sound.drainTimeoutOp {g} (h : Sound F s) : Sound F (drainTimeoutOp g s) :=
  .ite (h.foldS fun _ _ h => h.portClear).setGrp.satR h

protected theorem Sound.dieDownOp {d} (h : Sound F s) : Sound F (dieDownOp d s) := h.dieLost.checkRoutes
protected theorem Sound.dieUpOp {d} (h : Sound F s) : Sound F (dieUpOp d s) := .ite h.frame h

protected theorem Sound.lnkRunning {p} (h : Sound F s) : Sound F (lnkRunning p s) :=
  .ite (h.ctrlSend.bind fun h => .ite h h.setLstate.joinSet) (.ite h.setLstate h)

protected theorem Sound.lnkStop {p} (h : Sound F s) : Sound F (lnkStop p s) := .ite h.ctrlSend.leaveSet h

protected theorem Sound.lnkAbort {p} (h : Sound F s) : Sound F (lnkAbort p s) :=
  (Sound.ite (by split; exacts [h.sliceStranded, h]) h).portClear.setGrp.bind fun h => (Sound.ite h.setService h).bind fun h =>
    .ite h.setLstate h

protected theorem Sound.forwardOp {g mtype ddie sdie hops cls body} (h : Sound F s) :
    Sound F (forwardOp g mtype ddie sdie hops cls body s) := by
  unfold forwardOp
  split
  · exact h.lkgDiscard
  · split
    · exact h.lkgDiscard
    · split
      · exact h.lkgDiscard
      · split
        · exact h.lkgDiscard
        · exact .ite h.lkgDiscard (.ite h.lkgDiscard h.wrapR.groupPost)

protected theorem Sound.mcFromIo {f} (h : Sound F s) : Sound F (mcFromIo f s) := by
  unfold mcFromIo
  dsimp only
  exact h.fresh.fresh.mcOp

protected theorem Sound.flitOp {g f} (h : Sound F s) : Sound F (flitOp g f s) := by
  unfold flitOp
  dsimp only
  split
  · exact h.reqFlit
  · exact h.reqFlit
  · exact h.rdataOp
  · exact h.wackOp
  · exact .ite h.mcFromIo h.lkgDiscard
  · exact h.mcrepOp
  · exact h.redOp
  · exact h.redOp
  · exact h.rackOp
  · exact h.lkgDiscard

protected theorem Sound.cflitOp {g f} (h : Sound F s) : Sound F (cflitOp g f s) := by
  unfold cflitOp
  dsimp only
  split
  · exact h.invOp
  · exact h.iackOp
  · exact h.lkgDiscard

protected theorem Sound.assignOp {die base count pos} (h : Sound F s) : Sound F (assignOp die base count pos s) :=
  .ite (((h.setR.setR.foldS fun _ _ h => .ite h.fresh.idOut h).foldS fun _ _ h => h.setR).foldS fun _ _ h => h.portChecks)
    (.ite h h.lkgDiscard)

/-! ### Pages -/

protected theorem Sound.sliceAbort {i} (h : Sound F s) : Sound F (sliceAbort i s) :=
  (h.updSlice.foldS fun _ _ h => h.sliceErr.respondErr).foldS fun _ _ h => h.dropStage

protected theorem Sound.netAbort (h : Sound F s) : Sound F (netAbort s) := h.frame.setR.opsLost

protected theorem Sound.pageAbort {pg} (h : Sound F s) : Sound F (pageAbort pg s) := by
  unfold pageAbort
  split
  · exact h.updCore.unitClose
  · exact h.movAbort
  · exact h.gthAbort
  · exact h.planesDrop.combClose
  · exact h.vecClear
  · exact h.sliceAbort
  · exact h.cacheDropIf
  · exact h.medStop
  · exact h.lvnAbort
  · exact h.lnkAbort
  · exact h.dblDiscard
  · exact h.netAbort
  · exact h.calDisable
  · exact h.twnStop
  · exact h

protected theorem Sound.pageRetire {pg} (h : Sound F s) : Sound F (pageRetire pg s) :=
  .ite h (h.setBState.cascade.bind fun h => Sound.bind (by split; exacts [h.sliceRetired, h]) fun h => h.pageAbort.releaseHeld)

protected theorem Sound.pageOff {pg} (h : Sound F s) : Sound F (pageOff pg s) := .ite h h.setBState

theorem Tab.sortedFrom_filter {α : Type} (p : Nat × α → Bool) {t : Tab α} {lo : Nat} (h : Tab.sortedFrom lo t = true) :
    Tab.sortedFrom lo (t.filter p) = true := by
  induction t generalizing lo with
  | nil => rfl
  | cons e t ih =>
    simp only [Tab.sortedFrom, Bool.and_eq_true, decide_eq_true_eq] at h
    rw [List.filter_cons]
    split
    · simp only [Tab.sortedFrom, Bool.and_eq_true, decide_eq_true_eq]
      exact ⟨h.1, ih h.2⟩
    · exact Tab.sortedFrom_mono _ (by omega) (ih h.2)

/-- Registers that take their reset values again. -/
theorem Sound.filterRegs {p capt wbuf} (h : Sound F s) : Sound F { s with regs := s.regs.filter p, capt := capt, wbuf := wbuf } := by
  obtain ⟨hf, hr, h⟩ := h
  simp only [regsWf, Bool.and_eq_true] at hr
  refine ⟨hf, ?_, h⟩
  simp only [regsWf, Bool.and_eq_true]
  exact ⟨Tab.sortedFrom_filter p hr.1, List.all_eq_true.2 fun e he => List.all_eq_true.1 hr.2 e (List.mem_of_mem_filter he)⟩

protected theorem Sound.sitePower {c} (h : Sound F s) : Sound F (sitePower c s) :=
  (((h.filterRegs.setCore (v := Core.init) rfl).setVec.setGth.foldS fun _ _ h => h.setArr).foldS fun _ _ h => h.setMover)

protected theorem Sound.ptnsDegraded (h : Sound F s) : Sound F (ptnsDegraded s) := h.foldS fun _ _ h => .ite h.setDegraded h

protected theorem Sound.slcRunning {i} (h : Sound F s) : Sound F (slcRunning i s) :=
  (Sound.ite h.frame h).bind fun h => (Sound.ite h h.wrapR).setDegraded

protected theorem Sound.cchRunning {i} (h : Sound F s) : Sound F (cchRunning i s) := h.setDegraded

/-! ### The Almanac -/

protected theorem Sound.updAlm {f} (h : Sound F s) : Sound F (updAlm f s) := h.frame
protected theorem Sound.almSeq (h : Sound F s) : Sound F (almSeq s) := h.wrapR
protected theorem Sound.classUpdate (h : Sound F s) : Sound F (classUpdate s) := .ite h.setR.almSeq.setDegraded.namedAlarm h

protected theorem Sound.classFirst (h : Sound F s) : Sound F (classFirst s) :=
  h.setR.almSeq.setR.bind fun h => .ite h.setDegraded.namedAlarm h

protected theorem Sound.almChange (h : Sound F s) : Sound F (almChange s) := h.almSeq.classUpdate
protected theorem Sound.recNote (h : Sound F s) : Sound F (recNote s) := h.setR.setR

protected theorem Sound.recWrite (h : Sound F s) : Sound F (recWrite s) :=
  h.updAlm.recNote.bind fun h => (Sound.ite (Sound.ite h.frame h.namedAlarm).frame (Sound.ite h.frame h.namedAlarm).namedAlarm).bind
    fun h => .ite h.fault h

protected theorem Sound.recAppend {kind unit value} (h : Sound F s) : Sound F (recAppend kind unit value s) :=
  .ite h.updAlm (.ite h.setF.namedAlarm h.updAlm.recWrite)

protected theorem Sound.siteRetire {c} (h : Sound F s) : Sound F (siteRetire c s) :=
  (h.foldS fun _ _ h => h.pageRetire).setFamilyBit.namedAlarm.recAppend.ptnsDegraded.bind fun h => .ite h.almChange (.ite h.almSeq h)

protected theorem Sound.sliceEntry {i} (h : Sound F s) : Sound F (sliceEntry i s) := h.namedAlarm.recAppend.almChange
protected theorem Sound.spineOut {k} (h : Sound F s) : Sound F (spineOut k s) := .ite h.setR.setDegraded h

protected theorem Sound.siteDecide {c} (h : Sound F s) : Sound F (siteDecide c s) :=
  .ite (h.foldS fun _ _ h => h.pageOff) (.ite (h.foldS fun _ _ h => h.pageRetire).namedAlarm (.ite h.siteRetire h))

protected theorem Sound.reservePages {c kind} (h : Sound F s) : Sound F (reservePages c kind s) :=
  (Sound.ite h h.pageOff.pageOff).bind fun h => (Sound.ite h.pageOff h).bind fun h => .ite h h.pageOff

protected theorem Sound.rowGo {p} (h : Sound F s) : Sound F (rowGo p s) := .ite h.updPtn.startRefused (.ite h.ptnBegin h)

protected theorem Sound.rowFix {row} (h : Sound F s) : Sound F (rowFix row s) :=
  .ite h (((h.foldS fun _ _ h => h.siteDecide).foldS fun _ _ h => .ite h.setFamilyBit h).bind fun h =>
    (Sound.ite (by split; exacts [h.frame.reservePages.setFamilyBit, h.foldS fun _ _ h => h.pageOff]) h).setR.almSeq.bind fun h =>
    (Sound.ite h.classFirst h).foldS fun _ _ h => h.rowGo)

protected theorem Sound.slicesFix (h : Sound F s) : Sound F (slicesFix s) := by
  unfold slicesFix
  dsimp only
  split
  · exact h
  · split
    · exact (h.updAlm.foldS fun _ _ h => (h.foldS fun _ _ h => h.pageRetire).bind fun h => .ite h.sliceEntry (.ite h.namedAlarm.almChange
        h)).bind fun h => .ite h.setR.slcRunning.almChange h
    · exact h.updAlm.foldS fun _ _ h => (h.foldS fun _ _ h => h.pageRetire).bind fun h => .ite h.sliceEntry (.ite h.namedAlarm.almChange h)

protected theorem Sound.decide_ (h : Sound F s) : Sound F (decide_ s) := (h.foldS fun _ _ h => h.rowFix).slicesFix
protected theorem Sound.testAgain {pg} (h : Sound F s) : Sound F (testAgain pg s) := h.frame
protected theorem Sound.arrayRetest {pg append} (h : Sound F s) : Sound F (arrayRetest pg append s) := h.setBState.setR.testAgain.updAlm

protected theorem Sound.secTested (h : Sound F s) : Sound F (secTested s) :=
  h.setF.bind fun h => .ite (h.setF.foldS fun _ _ h => h.setR) h.setF

protected theorem Sound.pageSettle {pg} (h : Sound F s) : Sound F (pageSettle pg s) := by
  unfold pageSettle
  split
  · exact h
  · extract_lets s₁ s₂
    have h₁ : Sound F s₁ := h.setBState.setReady
    have h₂ : Sound F s₂ := by
      unfold s₂
      split
      · exact h₁.slcRunning
      · exact h₁.cchRunning
      · exact h₁.medRunning
      · exact h₁.lnkRunning
      · exact h₁.setDegraded
      · exact h₁.secTested
      · exact h₁
    exact h₂.releaseHeld

protected theorem Sound.siteNote {c} (h : Sound F s) : Sound F (siteNote c s) := .ite h h.setFamilyBit

protected theorem Sound.selftestOp {pg pass rows cols} (h : Sound F s) : Sound F (selftestOp pg pass rows cols s) := by
  unfold selftestOp
  refine .ite ?_ h
  extract_lets _ _ s₁ s₂ s₃ s₄ s₅ s₆
  have h₁ : Sound F s₁ := h.updAlm
  have h₂ : Sound F s₂ := .ite h₁.bistRecord h₁
  have h₃ : Sound F s₃ := by
    unfold s₃
    split
    · exact .ite h₂.setR h₂
    · exact h₂
  have h₄ : Sound F s₄ := h₃.pageSettle
  have h₅ : Sound F s₅ := by
    refine .ite h₃.fault.releaseHeld (.ite ?_ (.ite ?_ h₄))
    · split
      · exact .ite h₃.fault.releaseHeld h₃.setR.arrayRetest
      · exact h₃.fault.releaseHeld
    · split
      · exact h₄.recAppend
      · exact h₄
  have h₆ : Sound F s₆ := .ite (h₅.foldS fun _ _ h => .ite (Sound.recAppend h.spineOut) h) h₅
  refine Sound.decide_ ?_
  split
  · exact h₆.siteNote
  · exact h₆

protected theorem Sound.bootOp {ms} (h : Sound F s) : Sound F (bootOp ms s) := .ite (h.updAlm.bind fun h => .ite h h.setR) h

protected theorem Sound.recChoose (h : Sound F s) : Sound F (recChoose s) :=
  .ite h ((Sound.ite h.updAlm (.ite h.updAlm h)).updAlm.recNote.bind fun h => (((Sound.ite h.setF h.setF.namedAlarm).foldS fun _ _ h =>
    .ite h.spineOut (.ite (h.setR.bind fun h => .ite h.arrayRetest h) h)).foldS fun _ _ h => h.recAppend).decide_)

protected theorem Sound.recReadOp {copyB readable bs} (h : Sound F s) : Sound F (recReadOp copyB readable bs s) := .ite h.updAlm.recChoose h
protected theorem Sound.recTimeoutOp (h : Sound F s) : Sound F (recTimeoutOp s) := .ite h.updAlm.recChoose h
protected theorem Sound.recClearOp (h : Sound F s) : Sound F (recClearOp s) := .ite h.setF.updAlm.recWrite h
protected theorem Sound.substResult {busy done r n} (h : Sound F s) : Sound F (substResult busy done r n s) := h.setR

protected theorem Sound.substOp {v} (h : Sound F s) : Sound F (substOp v s) :=
  .ite h (.ite h.ignoredCmd (.ite h.substResult (.ite h.substResult (h.sitePower.foldS fun _ _ h =>
    h.setBState.testAgain).updAlm.substResult)))

protected theorem Sound.substDoneOp {n pass} (h : Sound F s) : Sound F (substDoneOp n pass s) :=
  .ite (h.updAlm.bind fun h => .ite (h.foldS fun _ _ h =>
    h.setBState.setReady).frame.reservePages.setFamilyBit.substResult.almChange.ptnsDegraded h.setFamilyBit.siteRetire.substResult) h

protected theorem Sound.almStart (h : Sound F s) : Sound F (almStart s) := .ite h h.frame.almChange

/-! ### Firmware -/

protected theorem Sound.setPageByte {o v} (h : Sound F s) : Sound F (setPageByte o v s) := h.setF
protected theorem Sound.logNote (h : Sound F s) : Sound F (logNote s) := (h.foldS fun _ _ h => h.setPageByte).setF
protected theorem Sound.setCoreMap {n v} (h : Sound F s) : Sound F (setCoreMap n v s) := h.setPageByte.logNote

protected theorem Sound.scriptAddrWritten {c} (h : Sound F s) : Sound F (scriptAddrWritten c s) := by
  unfold scriptAddrWritten
  split
  · exact h.setCoreMap
  · exact h

protected theorem Sound.logPut {i serial d} (h : Sound F s) : Sound F (logPut i serial d s) := (h.foldS fun _ _ h => h.setPageByte).logNote
protected theorem Sound.fwStatus {busy done r} (h : Sound F s) : Sound F (fwStatus busy done r s) := h.setR
protected theorem Sound.fwRefuse {r} (h : Sound F s) : Sound F (fwRefuse r s) := h.updAlm.unitClose.fwStatus

protected theorem Sound.fwFinish (h : Sound F s) : Sound F (fwFinish s) := by
  unfold fwFinish
  split
  · exact .ite h.updAlm.fwStatus h
  · exact h

protected theorem Sound.fwDrop {n} (h : Sound F s) : Sound F (fwDrop n s) := h.updAlm
protected theorem Sound.fwPhase {n ph} (h : Sound F s) : Sound F (fwPhase n ph s) := h.updAlm
protected theorem Sound.fwFail {n} (h : Sound F s) : Sound F (fwFail n s) := h.fwDrop.setFamilyBit.setF.setCoreMap.namedAlarm

protected theorem Sound.fwLoaded {n e log} (h : Sound F s) : Sound F (fwLoaded n e log s) :=
  Sound.bind (by split; exacts [.ite h h.setQ, h]) fun h => h.fwDrop.setF.setCoreMap

protected theorem Sound.fwBegin {es log} (h : Sound F s) : Sound F (fwBegin es log s) := by
  unfold fwBegin
  dsimp only
  exact (h.updAlm.foldS fun _ _ h => (by split; exacts [.ite h.updAlm h.fwFail, h.fwFail])).unitClose.fwFinish

protected theorem Sound.manSettle (h : Sound F s) : Sound F (manSettle s) := by
  unfold manSettle
  dsimp only
  split
  · exact .ite h (.ite (.ite h.fwRefuse (.ite h.fwRefuse h.updUnit.unitRead)) (.ite (.ite h.fwRefuse h.updUnit) h))
  · exact h

protected theorem Sound.fwCmdOp {v} (h : Sound F s) : Sound F (fwCmdOp v s) :=
  .ite h (.ite h.ignoredCmd (.ite h.setF ((h.foldS fun _ _ h => h.setR.setR).setR.updAlm.unitOpen.bind fun h =>
    .ite h.unitRead.manSettle.manSettle h.fwRefuse)))

protected theorem Sound.manCheckOp (h : Sound F s) : Sound F (manCheckOp s) := by
  unfold manCheckOp
  dsimp only
  split
  · exact .ite h (.ite h.fwRefuse (.ite (h.satR.firstR.bind fun h => (Sound.ite h.setF h).fwRefuse) (h.logPut.wrapR.bind fun h =>
      .ite h.fwBegin h.fwRefuse)))
  · exact h

protected theorem Sound.pushDoneOp {i} (h : Sound F s) : Sound F (pushDoneOp i s) := h.updAlm
protected theorem Sound.pushWaitOp (h : Sound F s) : Sound F (pushWaitOp s) := h.updAlm

protected theorem Sound.fetchSettle {c} (h : Sound F s) : Sound F (fetchSettle c s) := by
  unfold fetchSettle
  dsimp only
  split
  · split
    · exact h
    · split
      · split
        · exact h.unitClose.bind fun h => .ite h.fwFail.fwFinish (h.updCore fun _ w => w.spadPut).fwPhase
        · exact h.unitClose
      · exact h.unitClose
  · exact h

protected theorem Sound.hashOp {row} (h : Sound F s) : Sound F (hashOp row s) := by
  unfold hashOp
  dsimp only
  split
  · exact h
  · split
    · exact h
    · split
      · exact .ite h.fwLoaded.fwFinish (.ite h.fwFail.fwFinish h.fwPhase.setFamilyBit.unitOpen.unitRead.fetchSettle)
      · exact h.fwFail.fwFinish

protected theorem Sound.attResult {busy done r} (h : Sound F s) : Sound F (attResult busy done r s) := h.setR
protected theorem Sound.attestOp (h : Sound F s) : Sound F (attestOp s) := .ite h.ignoredCmd (.ite h.attResult h.frame.attResult)

protected theorem Sound.attSettle (h : Sound F s) : Sound F (attSettle s) := by
  unfold attSettle
  dsimp only
  split
  · exact .ite (h.unitClose.bind fun h => .ite h.attResult h.attResult.wrapR) h
  · exact h

protected theorem Sound.attDoneOp (h : Sound F s) : Sound F (attDoneOp s) := by
  unfold attDoneOp
  dsimp only
  split
  · exact h.frame.updUnit.bind fun h => (Sound.ite h.unitWrite h.unitFail).attSettle
  · exact h

/-! ### Migration -/

protected theorem Sound.migrateOp {c v} (h : Sound F s) : Sound F (migrateOp c v s) := .ite h (.ite (.ite h.updCore.setR h) h.ignoredRws)

theorem Tab.sortedFrom_append {α : Type} {a b : Tab α} {lo n : Nat} (ha : Tab.sortedFrom lo a = true) (hn : ∀ e ∈ a, e.1 < n)
    (hb : Tab.sortedFrom lo b = true) (hbn : ∀ e ∈ b, n ≤ e.1) : Tab.sortedFrom lo (a ++ b) = true := by
  induction a generalizing lo with
  | nil => exact hb
  | cons e t ih =>
    simp only [Tab.sortedFrom, Bool.and_eq_true, decide_eq_true_eq, List.cons_append] at ha ⊢
    have he := hn e List.mem_cons_self
    refine ⟨ha.1, ih ha.2 (fun x hx => hn x (List.mem_cons_of_mem _ hx)) ?_⟩
    cases b with
    | nil => rfl
    | cons f u =>
      have hf := hbn f List.mem_cons_self
      simp only [Tab.sortedFrom, Bool.and_eq_true, decide_eq_true_eq] at hb ⊢
      exact ⟨by omega, hb.2⟩

/-- The scratchpad after a migration: the source's bytes below the size, the target's own above it. -/
theorem Tab.wf_splice {α : Type} [DecidableEq α] {d : α} {a b : Tab α} {p q : Nat × α → Bool} (n : Nat) (ha : Tab.wf d a = true)
    (hb : Tab.wf d b = true) (hp : ∀ e, p e = true → e.1 < n) (hq : ∀ e, q e = true → n ≤ e.1) :
    Tab.wf d (a.filter p ++ b.filter q) = true := by
  simp only [Tab.wf, Bool.and_eq_true, List.all_eq_true] at ha hb ⊢
  refine ⟨Tab.sortedFrom_append (Tab.sortedFrom_filter p ha.1) (fun e he => hp e (List.mem_filter.1 he).2)
    (Tab.sortedFrom_filter q hb.1) (fun e he => hq e (List.mem_filter.1 he).2), fun e he => ?_⟩
  rcases List.mem_append.1 he with he | he
  · exact ha.2 e (List.mem_of_mem_filter he)
  · exact hb.2 e (List.mem_of_mem_filter he)

protected theorem Sound.migrateDoneOp {c unreadable} (h : Sound F s) : Sound F (migrateDoneOp c unreadable s) := by
  unfold migrateDoneOp
  split
  · exact h
  next src _ =>
    extract_lets size from_ lost spad s₁ s₂
    have hf : SpadWf from_ := h.coreAt.retireStores
    have h₁ : Sound F s₁ := h.updCore fun x w =>
      Tab.wf_splice size hf w (fun e he => of_decide_eq_true (Bool.and_eq_true_iff.1 he).1) (fun e he => of_decide_eq_true he)
    have h₂ : Sound F s₂ := h₁.setR
    exact .ite h₂ h₂.fault

/-! ### Responses -/

protected theorem Sound.annSettle (h : Sound F s) : Sound F (annSettle s) := by
  unfold annSettle
  split
  · exact .ite h.unitClose.setR h
  · exact h

protected theorem Sound.annDumpOp (h : Sound F s) : Sound F (annDumpOp s) := .ite h.ignoredCmd h.setR.unitOpen.unitWrite.annSettle

protected theorem Sound.settleUnit {u} (h : Sound F s) : Sound F (settleUnit u s) :=
  .ite h.dumpSettle.loadSettle.loadSettle (.ite h.annSettle (.ite h.manSettle.manSettle (.ite h.attSettle (.ite h.imgStep
    (.ite h.fetchSettle h)))))

protected theorem Sound.settleUnits (h : Sound F s) : Sound F (settleUnits s) := h.foldS fun _ _ h => h.settleUnit

/-! ### Blocks -/

protected theorem Sound.startHook {b pg i} (h : Sound F s) : Sound F (startHook b pg i s) := by
  unfold startHook
  split
  · exact h.ptnStart
  · exact h.twnStart
  · exact h.almStart
  · exact h.lvnStart
  · exact h.combClose
  · exact h.setR.setR
  · exact h.setR.setR
  · exact h.classUpdate
  · exact h

protected theorem Sound.stopHook {b i ran} (h : Sound F s) : Sound F (stopHook b i ran s) := by
  unfold stopHook
  dsimp only
  split
  · exact .ite h.timeFault h
  · exact h.foldS fun _ _ h => h.raise
  · split
    · exact .ite h.ptnFault h
    · exact h
  · exact h.combClose
  · exact h.cacheDropIf
  · exact h.medStop
  · exact h.dblDiscard
  · exact h.twnStop
  · exact h.lnkStop
  · split
    · exact h.updPtn.ptnCancel
    · exact h.updPtn.ptnCancel
    · exact h.updPtn
  · exact h

protected theorem Sound.runHook {b i} (h : Sound F s) : Sound F (runHook b i s) := by
  unfold runHook
  split
  · exact h.slcRunning
  · exact h.cchRunning
  · exact h.medRunning
  · exact h.lnkRunning
  · exact h.calStartOp
  · exact h.netbRunning
  · exact h.groupChecks.setDegraded
  · exact h

protected theorem Sound.pageFault {pg bits} (h : Sound F s) : Sound F (pageFault pg bits s) := by
  unfold pageFault
  dsimp only
  split
  · exact h.cascade
  · exact h.raise

protected theorem Sound.startOp {b pg i} (h : Sound F s) : Sound F (startOp b pg i s) := by
  unfold startOp
  dsimp only
  split
  · split
    · exact h.setBState.startRefused
    · exact h.setBState.startHook
  · exact .ite h h.ignoredCmd

protected theorem Sound.stopOp {b pg i} (h : Sound F s) : Sound F (stopOp b pg i s) :=
  .ite h.ignoredCmd (.ite h.setBState.stopHook.releaseHeld (.ite h.setBState.stopHook (.ite h h.ignoredCmd)))

protected theorem Sound.abortOp {b pg i} (h : Sound F s) : Sound F (abortOp b pg i s) :=
  .ite h.ignoredCmd (.ite (Sound.bind (by split; exacts [h.actionCancel.ptnCancel, h]) fun h =>
    h.pageFault.pageAbort.releaseHeld.settleUnits.opDrain) (.ite h h.ignoredCmd))

protected theorem Sound.clearOp {b pg i} (h : Sound F s) : Sound F (clearOp b pg i s) := by
  unfold clearOp
  dsimp only
  split
  · split
    · exact h.ignoredCmd
    · split
      · exact h.setR.ptnStopped
      · exact h.setR.setBState
  · exact .ite h h.ignoredCmd

protected theorem Sound.retireOp {b pg i} (h : Sound F s) : Sound F (retireOp b pg i s) := by
  unfold retireOp
  dsimp only
  split
  · exact h.ignoredCmd
  · split
    · split
      · exact h.siteRetire
      · exact h.pageRetire.sliceEntry
      · exact h.portRetire
      · exact h.pageRetire
    · exact .ite h h.ignoredCmd

protected theorem Sound.startingDoneOp {b pg i} (h : Sound F s) : Sound F (startingDoneOp b pg i s) := by
  unfold startingDoneOp
  split
  · split
    · exact h.ptnRunning
    · exact .ite h h.setBState.runHook.releaseHeld
  · exact h

protected theorem Sound.stoppingDoneOp {b pg i} (h : Sound F s) : Sound F (stoppingDoneOp b pg i s) := by
  unfold stoppingDoneOp
  split
  · split
    · exact h.ptnStopped
    · exact h.setBState
  · exact h

protected theorem Sound.cmdTimeoutOp {b pg i} (h : Sound F s) : Sound F (cmdTimeoutOp b pg i s) :=
  .ite h (.ite (Sound.bind (by split; exacts [.ite h.ptnCancel h, h]) fun h => h.pageFault.bind fun h => .ite h h.releaseHeld.decide_) h)

protected theorem Sound.resetAssertOp {ns kept} (h : Sound F s) : Sound F (resetAssertOp ns kept s) :=
  .ite (h.frame.bind fun h => .ite h h.chipReset) h

protected theorem Sound.portsAbsent (h : Sound F s) : Sound F (portsAbsent s) := h.foldS fun _ _ h => .ite h h.setBState.setBState

protected theorem Sound.resetReleaseOp {testEn railsOk} (h : Sound F s) : Sound F (resetReleaseOp testEn railsOk s) :=
  .ite (h.frame.portsAbsent.setF.bind fun h => .ite h.setF h) h

/-! ### Control space -/

protected theorem Sound.countNow {b pg i o} (h : Sound F s) : Sound F (countNow b pg i o s) := by
  unfold countNow
  dsimp only
  split
  · exact .ite h.satFree h
  · exact .ite h.fresh.setR h
  · exact h

protected theorem Sound.rcClear {b pg i o} (h : Sound F s) : Sound F (rcClear b pg i o s) := h.setR.bind fun h => .ite h.peakClear h

protected theorem Sound.regRead {b pg i o} (h : Sound F s) : Sound F (regRead b pg i o s).2 := by
  unfold regRead
  dsimp only
  split
  · exact h
  · split
    · exact h.frame
    · split
      · split <;> exact h
      · exact h.countNow.bind fun h => .ite h.rcClear h

protected theorem Sound.cmdWrite {b pg i v} (h : Sound F s) : Sound F (cmdWrite b pg i v s) := by
  unfold cmdWrite
  split
  · exact h.startOp
  · exact h.stopOp
  · exact h.abortOp
  · exact h.clearOp
  · exact h.retireOp
  · exact h.ignoredCmd

protected theorem Sound.headerWrite {b pg i o v} (h : Sound F s) : Sound F (headerWrite b pg i o v s) :=
  .ite h.cmdWrite (.ite h.setR (.ite (.ite h.setR h.ignoredRws) (.ite h.setR (.ite h.setR h))))

protected theorem Sound.rowWrite {b pg o r v} (h : Sound F s) : Sound F (rowWrite b pg o r v s) :=
  Sound.bind (by split; exacts [.ite (h.foldS fun _ _ h => h.setR) h, h.setR]) fun h => .ite h.ignoredRws h

protected theorem Sound.ptnAction {p v} (h : Sound F s) : Sound F (ptnAction p v s) := by
  unfold ptnAction
  split
  · exact h
  · exact h.replayOp
  · exact h.dumpOp
  · exact h.loadOp
  · exact .ite h h.setF

protected theorem Sound.twnAction {v} (h : Sound F s) : Sound F (twnAction v s) := by
  unfold twnAction
  split
  · exact h
  · exact h.takeOp
  · exact h.silverOp
  · exact h.fosterOp
  · exact .ite h h.twnResult

protected theorem Sound.annAction {v} (h : Sound F s) : Sound F (annAction v s) :=
  (Sound.ite h.annReleaseOp h).bind fun h => (Sound.ite h.traceRestartOp h).bind fun h => (Sound.ite h.annDumpOp h).bind fun h =>
    .ite h.annClearOp h

protected theorem Sound.enableWrite {d k v} (h : Sound F s) : Sound F (enableWrite d k v s) :=
  h.foldS fun _ _ h => .ite h.ringEnableOp h.ringDisableOp

protected theorem Sound.commitHook {b i o} (h : Sound F s) : Sound F (commitHook b i o s) := by
  unfold commitHook
  split
  · exact .ite h.frame h
  · exact .ite h.scriptAddrWritten h
  · exact h

protected theorem Sound.commitLow {pg o} (h : Sound F s) : Sound F (commitLow pg o s) := by
  unfold commitLow
  dsimp only
  split
  · exact h.frame.setR
  · exact h

/-- A register's write, where it has an action of its own, gives a sound state. -/
def SoundOpt (F : Fuses) (o : Option State) : Prop := ∀ t, o = some t → Sound F t

theorem SoundOpt.some (h : Sound F s) : SoundOpt F (some s) := fun _ e => Option.some.inj e ▸ h

theorem SoundOpt.none : SoundOpt F none := fun _ e => nomatch e

protected theorem SoundOpt.ite {c : Prop} [Decidable c] {a b : Option State} (ha : SoundOpt F a) (hb : SoundOpt F b) :
    SoundOpt F (if c then a else b) := by
  split
  · exact ha
  · exact hb

theorem Sound.actWrite {b pg i o v} (h : Sound F s) : SoundOpt F (actWrite b pg i o v s) := by
  cases b with
  | glb => exact .ite (.some h.setR) .none
  | ptn => exact .ite (.some h.ptnAction) .none
  | mxa => exact .ite (.some (.ite h.bistStart h)) .none
  | cor => exact .ite (.some h.migrateOp) .none
  | cal => exact .ite (.some h.calForceWrite) (.ite (.some h.calXarriveWrite) (.ite (.some h.calClearWrite) .none))
  | med => exact .ite (.some (.ite h.keepStart h)) .none
  | dbl => exact .ite (.some h.enableWrite) (.ite (.some h.enableWrite) (.ite (.some h.doorbellWrite) .none))
  | lnk => exact .ite (.some (.ite h.retrainOp h)) .none
  | alm => exact .ite (.some h.substOp) (.ite (.some (.ite h.recClearOp h)) (.ite (.some h.fwCmdOp) .none))
  | twn => exact .ite (.some h.twnAction) .none
  | ann => exact .ite (.some h.annAction) (.ite (.some h.setR) (.ite (.some h.traceTailOp) .none))
  | sec => exact .ite (.some (.ite h.attestOp h)) .none
  | netm => exact .ite (.some h.maskCommit) .none
  | _ => exact .none

protected theorem Sound.regWrite {b pg i o v} (h : Sound F s) : Sound F (regWrite b pg i o v s) := by
  unfold regWrite
  refine .ite h.headerWrite (.ite h ?_)
  split
  next t e => exact h.actWrite t e
  · split
    · exact h
    · exact .ite h.frame (.ite h.commitLow.rowWrite.commitHook h.rowWrite)

protected theorem Sound.accCount {err} (h : Sound F s) : Sound F (accCount err s) := h.wrapR.fresh.setR.bind fun h => .ite h.satR h

protected theorem Sound.regAccess {write a v} (h : Sound F s) : Sound F (regAccess write a v s).2 := by
  unfold regAccess
  dsimp only
  split
  · exact h.accErr.accCount
  · split
    · exact h.accCount
    · split
      · exact h.accCount
      · exact .ite₂ h.regWrite.settleUnits.accCount h.regRead.accCount

protected theorem Sound.farAccess {write d a v} (h : Sound F s) : Sound F (farAccess write d a v s) :=
  .ite (Sound.ite h.lkgDiscard h).send h.newTxn.frame.postMsg

protected theorem Sound.accessOp {write a v} (h : Sound F s) : Sound F (accessOp write a v s) := by
  unfold accessOp
  dsimp only
  split
  · exact h.regAccess.send
  · exact h.farAccess
  · exact h.accCount.send
  · exact h.accErr.accCount.send

protected theorem Sound.regMsgOp {compl write err sdie tag addr v} (h : Sound F s) :
    Sound F (regMsgOp compl write err sdie tag addr v s) := by
  unfold regMsgOp
  dsimp only
  split
  · split
    · exact h.opDone.send
    · exact h.satR
  · split
    · exact h.regAccess.postMsg
    · exact h.accCount.postMsg

/-! ### Test access -/

protected theorem Sound.updTap {f} (h : Sound F s) : Sound F (updTap f s) := h.frame
protected theorem Sound.setTapState {v} (h : Sound F s) : Sound F (setTapState v s) := h.setF
protected theorem Sound.setTapInstr {v} (h : Sound F s) : Sound F (setTapInstr v s) := h.setF

protected theorem Sound.freshBits {n} (h : Sound F s) : Sound F (freshBits s n).2 := by
  induction n generalizing s with
  | zero => exact h
  | succ n ih => exact ih h.fresh

protected theorem Sound.drCapture (h : Sound F s) : Sound F (drCapture s).2 := by
  unfold drCapture
  dsimp only
  split
  · exact h.freshBits
  · exact h.freshBits
  · exact h
  · exact h.fresh
  · exact h

protected theorem Sound.irCapture (h : Sound F s) : Sound F (irCapture s).2 := by
  unfold irCapture
  dsimp only
  exact h.freshBits

protected theorem Sound.setInstr {k v} (h : Sound F s) : Sound F (setInstr k v s) := h.updTap
protected theorem Sound.instrStart {k} (h : Sound F s) : Sound F (instrStart k s) := .ite h (.ite h.setInstr h.setInstr)
protected theorem Sound.csaUpdate {w'} (h : Sound F s) : Sound F (csaUpdate w' s) := .ite h.regAccess.wrapR.updTap h

protected theorem Sound.drUpdate (h : Sound F s) : Sound F (drUpdate s) := by
  unfold drUpdate
  dsimp only
  split
  · exact h.updTap
  · exact h.updTap
  · exact Sound.bind (by split; exacts [h.csaUpdate, h]) fun h => (h.foldS fun _ _ h => h.instrStart).updTap
  · exact h

protected theorem Sound.tapAct {tdi} (h : Sound F s) : Sound F (tapAct tdi s) :=
  .ite h.drCapture.updTap (.ite h.irCapture.updTap (.ite h.updTap (.ite h.updTap h.updTap)))

protected theorem Sound.tapEnter {st} (h : Sound F s) : Sound F (tapEnter st s) :=
  h.setTapState.bind fun h => .ite h.setTapInstr (.ite h.setTapInstr (.ite h.drUpdate h))

protected theorem Sound.tapEdge {tms tdi} (h : Sound F s) : Sound F (tapEdge tms tdi s) := h.tapAct.tapEnter

protected theorem Sound.tapRun {l} (h : Sound F s) : Sound F (tapRun l s).2 := by
  induction l generalizing s with
  | nil => exact h
  | cons e t ih => exact ih h.tapEdge

protected theorem Sound.tapIdle (h : Sound F s) : Sound F (tapIdle s) := .ite h.tapEdge h

protected theorem Sound.scanOp {op nbits ok f} (h : Sound F s) (hf : ∀ s, Sound F s → Sound F (f s).2) : Sound F (scanOp op nbits ok f s) :=
  .ite h.satR (hf _ h).wrapR.postMsg

protected theorem Sound.testResetOp {nbits} (h : Sound F s) : Sound F (testResetOp nbits s) := h.scanOp fun _ h => h.tapRun
protected theorem Sound.testIrOp {nbits tdi} (h : Sound F s) : Sound F (testIrOp nbits tdi s) := h.scanOp fun _ h => h.tapIdle.tapRun
protected theorem Sound.testDrOp {nbits tdi} (h : Sound F s) : Sound F (testDrOp nbits tdi s) := h.scanOp fun _ h => h.tapIdle.tapRun
protected theorem Sound.testIdleOp {nbits} (h : Sound F s) : Sound F (testIdleOp nbits s) := h.scanOp fun _ h => h.tapIdle.updTap.freshBits
protected theorem Sound.selectInstr {v} (h : Sound F s) : Sound F (selectInstr v s) := h.setTapInstr

/-! ### Every command -/

/-- A command's answer: the next state, if there is one, is sound. -/
def SoundOut (F : Fuses) (r : Host.Outcome State Fault Refusal) : Prop := ∀ t, r = .next t → Sound F t

theorem SoundOut.next (h : Sound F s) : SoundOut F (.next s) := by
  rintro _ ⟨⟩
  exact h

theorem SoundOut.fault {e} : SoundOut F (.fault e) := fun _ e => nomatch e

protected theorem SoundOut.ite {c : Prop} [Decidable c] {a b : Host.Outcome State Fault Refusal} (ha : SoundOut F a) (hb : SoundOut F b) :
    SoundOut F (if c then a else b) := by
  split
  · exact ha
  · exact hb

/-- Held in reset, the chiplet stays as it is. -/
protected theorem Sound.act {t : State} (h : Sound F s) (ht : Sound F t) : SoundOut F (act s t) := .next (.ite h ht)

protected theorem Sound.onUnit {i n f} (h : Sound F s) (hf : Sound F (f s)) : SoundOut F (onUnit i n f s) := .ite (h.act hf) .fault

protected theorem Sound.onPage {pg f} (h : Sound F s) (hf : ∀ b i, Sound F (f b pg i s)) : SoundOut F (onPage pg f s) := by
  unfold onPage
  split
  · exact h.act (hf _ _)
  · exact .fault

/-- What each command rests on: the lemma about its function. -/
protected theorem Sound.exec {i} (h : Sound F s) : SoundOut F (exec i s) := by
  cases i with
  | resetRelease => exact .next h.resetReleaseOp
  | resetAssert => exact .next h.resetAssertOp
  | start => exact h.onPage fun _ _ => h.startOp
  | stop => exact h.onPage fun _ _ => h.stopOp
  | abort => exact h.onPage fun _ _ => h.abortOp
  | clear => exact h.onPage fun _ _ => h.clearOp
  | retire => exact h.onPage fun _ _ => h.retireOp
  | startingDone => exact h.onPage fun _ _ => h.startingDoneOp
  | stoppingDone => exact h.onPage fun _ _ => h.stoppingDoneOp
  | cmdTimeout => exact h.onPage fun _ _ => h.cmdTimeoutOp
  | selftestDone => exact .ite (h.act h.selftestOp) .fault
  | registerWrite => exact h.act h.accessOp
  | rcRead => exact h.act h.accessOp
  | wideReadCapture => exact h.act h.accessOp
  | wideWriteCommit => exact h.act h.accessOp
  | reg => exact h.act h.regMsgOp
  | time => exact h.act h.timeOp
  | holdover => exact h.act h.holdoverOp
  | timeLost => exact h.act h.timeLostOp
  | packageTick => exact h.act h.packageTickOp
  | partitionTick => exact h.onUnit h.ptnTickOp
  | solEndPoint => exact h.onUnit h.endPointOp
  | solCommit => exact h.onUnit h.commitOp
  | solOverrun => exact h.onUnit h.overrunOp
  | partitionFaulted => exact h.onUnit h.ptnFaultedOp
  | replay => exact h.onUnit h.replayOp
  | replayRestoreDone => exact h.onUnit h.ptnRunning
  | dump => exact h.onUnit h.dumpOp
  | load => exact h.onUnit h.loadOp
  | scriptLoadDone => exact h.onUnit h.scriptLoadOp
  | syllableIssue => exact h.onUnit h.issueOp
  | freezeLower => exact h.onUnit h.lowerOp
  | sNop => exact h.onUnit (h.scalarOp fun _ _ h => h)
  | solEnd => exact h.onUnit h.solEndOp
  | solEndComplete => exact h.onUnit h.parkOp
  | br => exact h.onUnit (h.seqOp fun _ _ h => h.brAt)
  | loopi => exact h.onUnit (h.seqOp fun _ _ h => h.loopiAt)
  | loopr => exact h.onUnit (h.seqOp fun _ _ h => h.looprAt)
  | guard => exact h.onUnit (h.seqOp fun _ _ h => h.guardAt)
  | wait => exact h.onUnit (h.scalarOp fun _ _ h => h.waitAt)
  | waitr => exact h.onUnit (h.scalarOp fun _ _ h => h.waitrAt)
  | waitl => exact h.onUnit (h.scalarOp fun _ _ h => h.waitlAt)
  | waitlTimeout => exact h.onUnit h.waitlExpire
  | tests => exact h.onUnit (h.scalarOp fun _ _ h => h.testsAt)
  | add => exact h.onUnit (h.scalarOp fun _ _ h => h.addAt)
  | sub => exact h.onUnit (h.scalarOp fun _ _ h => h.subAt)
  | and => exact h.onUnit (h.scalarOp fun _ _ h => h.andAt)
  | or => exact h.onUnit (h.scalarOp fun _ _ h => h.orAt)
  | xor => exact h.onUnit (h.scalarOp fun _ _ h => h.xorAt)
  | shl => exact h.onUnit (h.scalarOp fun _ _ h => h.shlAt)
  | shr => exact h.onUnit (h.scalarOp fun _ _ h => h.shrAt)
  | sra => exact h.onUnit (h.scalarOp fun _ _ h => h.sraAt)
  | mul => exact h.onUnit (h.scalarOp fun _ _ h => h.mulAt)
  | min => exact h.onUnit (h.scalarOp fun _ _ h => h.minAt)
  | max => exact h.onUnit (h.scalarOp fun _ _ h => h.maxAt)
  | minu => exact h.onUnit (h.scalarOp fun _ _ h => h.minuAt)
  | maxu => exact h.onUnit (h.scalarOp fun _ _ h => h.maxuAt)
  | addi => exact h.onUnit (h.scalarOp fun _ _ h => h.addiAt)
  | lis => exact h.onUnit (h.scalarOp fun _ _ h => h.lisAt)
  | lih => exact h.onUnit (h.scalarOp fun _ _ h => h.lihAt)
  | shli => exact h.onUnit (h.scalarOp fun _ _ h => h.shliAt)
  | shri => exact h.onUnit (h.scalarOp fun _ _ h => h.shriAt)
  | cmpeq => exact h.onUnit (h.scalarOp fun _ _ h => h.cmpeqAt)
  | cmplt => exact h.onUnit (h.scalarOp fun _ _ h => h.cmpltAt)
  | cmpltu => exact h.onUnit (h.scalarOp fun _ _ h => h.cmpltuAt)
  | pand => exact h.onUnit (h.scalarOp fun _ _ h => h.pandAt)
  | por => exact h.onUnit (h.scalarOp fun _ _ h => h.porAt)
  | pxor => exact h.onUnit (h.scalarOp fun _ _ h => h.pxorAt)
  | ld => exact h.onUnit (h.scalarOp fun _ _ h => h.ldAt)
  | st => exact h.onUnit (h.scalarOp fun _ _ h => h.stAt)
  | mfs => exact h.onUnit (h.scalarOp fun _ _ h => h.mfsAt)
  | movx => exact h.onUnit (h.scalarOp fun _ _ h => h.movxAt)
  | mNop => exact h.onUnit (f := id) h
  | mode => exact h.onUnit (h.mOp fun _ _ h => h.modeAt)
  | seta => exact h.onUnit (h.mOp fun _ _ h => h.setaAt)
  | setai => exact h.onUnit (h.mOp fun _ _ h => h.setaiAt)
  | setcnt => exact h.onUnit (h.mOp fun _ _ h => h.setcntAt)
  | mLd => exact h.onUnit (h.mOp fun _ _ h => h.mLdAt)
  | stream => exact h.onUnit (h.mOp fun _ _ h => h.streamAt)
  | bist => exact .ite (h.act (.ite h h.bistStart)) .fault
  | bistDone => exact .ite (h.act h.bistFinish) .fault
  | vNop => exact h.onUnit (f := id) h
  | vadd => exact h.onUnit h.vaddOp
  | vsub => exact h.onUnit h.vsubOp
  | vmul => exact h.onUnit h.vmulOp
  | vfma => exact h.onUnit h.vfmaOp
  | vfms => exact h.onUnit h.vfmsOp
  | vfnma => exact h.onUnit h.vfnmaOp
  | vmin => exact h.onUnit h.vminOp
  | vmax => exact h.onUnit h.vmaxOp
  | vabs => exact h.onUnit h.vabsOp
  | vneg => exact h.onUnit h.vnegOp
  | vrint => exact h.onUnit h.vrintOp
  | vcmp => exact h.onUnit h.vcmpOp
  | vsel => exact h.onUnit h.vselOp
  | vmov => exact h.onUnit h.vmovOp
  | vand => exact h.onUnit h.vandOp
  | vor => exact h.onUnit h.vorOp
  | vxor => exact h.onUnit h.vxorOp
  | vshl => exact h.onUnit h.vshlOp
  | vshr => exact h.onUnit h.vshrOp
  | vsra => exact h.onUnit h.vsraOp
  | vcvt => exact h.onUnit h.vcvtOp
  | vunpk => exact h.onUnit h.vunpkOp
  | mand => exact h.onUnit h.mandOp
  | mor => exact h.onUnit h.morOp
  | mxor => exact h.onUnit h.mxorOp
  | mandn => exact h.onUnit h.mandnOp
  | vlis => exact h.onUnit h.vlisOp
  | vld => exact h.onUnit h.vldOp
  | vst => exact h.onUnit h.vstOp
  | vseta => exact h.onUnit h.vsetaOp
  | vsetai => exact h.onUnit h.vsetaiOp
  | vbcs => exact h.onUnit h.vbcsOp
  | vred => exact h.onUnit h.vredOp
  | vcmpr => exact h.onUnit h.vcmprOp
  | vexpd => exact h.onUnit h.vexpdOp
  | mcnt => exact h.onUnit h.mcntOp
  | vflags => exact h.onUnit h.vflagsOp
  | exp2 => exact h.onUnit h.exp2Op
  | log2 => exact h.onUnit h.log2Op
  | rcp => exact h.onUnit h.rcpOp
  | rsqrt => exact h.onUnit h.rsqrtOp
  | tanh => exact h.onUnit h.tanhOp
  | smxa => exact h.onUnit h.smxaOp
  | smxn => exact h.onUnit h.smxnOp
  | xNop => exact h.onUnit (f := id) h
  | xseta => exact h.onUnit (h.xOp fun _ _ h => h.xsetaAt)
  | xsetai => exact h.onUnit (h.xOp fun _ _ h => h.xsetaiAt)
  | xq => exact h.onUnit (h.xOp fun _ _ h => h.xqAt)
  | xqn => exact h.onUnit (h.xOp fun _ _ h => h.xqAt)
  | gq => exact h.onUnit (h.xOp fun _ _ h => h.gqAt)
  | copy => exact h.onUnit h.takeDesc
  | fill => exact h.onUnit h.takeDesc
  | script => exact h.onUnit h.takeDesc
  | mcast => exact h.onUnit h.takeDesc
  | reduce => exact h.onUnit h.takeDesc
  | leaven => exact h.onUnit h.takeDesc
  | moveComplete => exact h.onUnit h.completeDesc
  | gatherDescriptor => exact h.onUnit h.gatherStart
  | gatherRow => exact h.onUnit h.gatherStep
  | bagComplete => exact h.onUnit h.bagFinish
  | corMigrate => exact h.onUnit h.migrateOp
  | migrateDone => exact h.onUnit h.migrateDoneOp
  | cNop => exact h.onUnit (f := id) h
  | arr => exact h.onUnit (h.cOp fun _ _ h => h.arrOpAt)
  | waitb => exact h.onUnit (h.cOp fun _ _ h => h.waitbAt)
  | arwt => exact h.onUnit (h.cOp fun _ _ h => h.arwtAt)
  | testb => exact h.onUnit (h.cOp fun _ _ h => h.testbAt)
  | raise => exact h.onUnit (h.cOp fun _ _ h => h.raiseAt)
  | spanArrive => exact h.act h.spanTake
  | spanRelease => exact h.act h.spanTake
  | spanFault => exact h.act h.spanTake
  | calForce => exact h.onUnit h.calForceWrite
  | calXarrive => exact h.onUnit h.calXarriveWrite
  | calClear => exact h.onUnit h.calClearWrite
  | quietExpire => exact h.onUnit h.quietExpireOp
  | vigilDetect => exact h.onUnit h.vigilDetectOp
  | rd => exact h.act h.reqFlit
  | wr => exact h.act h.reqFlit
  | rdata => exact h.act h.rdataOp.settleUnits
  | wack => exact h.act h.wackOp.settleUnits
  | mc => exact h.act h.mcOp
  | mcrep => exact h.act h.mcrepOp
  | mcHoldExpire => exact h.onUnit h.mcExpire
  | red => exact h.act h.redOp
  | rack => exact h.act h.rackOp
  | netbTxnTimeout => exact h.act h.localTimeout.settleUnits
  | netmMaskCommit => exact h.act h.maskCommit
  | inv => exact h.act h.invOp
  | iack => exact h.act h.iackOp
  | cohn => exact h.act h.cohnOp
  | stackTimeout => exact h.onUnit h.stackTimeoutOp
  | tileStageTimeout => exact h.onUnit h.stageTimeoutOp
  | stackRdResponse => exact h.onUnit h.stackRdOp
  | keepRecord => exact h.onUnit h.keepRecordOp
  | verifyStatus => exact h.onUnit h.verifyOp
  | statStatus => exact h.onUnit (f := id) h
  | refNotice => exact h.onUnit h.refNoticeOp
  | portDown => exact h.onUnit h.takeover
  | portUp => exact h.onUnit (f := id) h
  | temp => exact h.onUnit h.tempOp
  | refresh => exact h.onUnit h.refreshOp
  | refWatch => exact h.onUnit h.refWatchOp
  | peerArm => exact h.onUnit h.peerArmOp
  | managerWait => exact h.onUnit h.managerWaitOp
  | claim => exact h.onUnit h.claimOp
  | release => exact h.onUnit h.releaseOp
  | remapBegin => exact h.onUnit h.remapBeginOp
  | remapAck => exact h.onUnit h.remapAckOp
  | remapDone => exact h.onUnit h.remapDoneOp
  | scrubFix => exact h.onUnit h.scrubFixOp
  | rowReport => exact h.onUnit h.rowReportOp
  | trrReq => exact h.onUnit h.trrReqOp
  | keepReq => exact h.onUnit h.keepReqOp
  | keepData => exact h.onUnit h.keepDataOp
  | patrolScrub => exact h.onUnit h.scrubOp
  | keepSave => exact h.onUnit h.keepStart
  | keepLoad => exact h.onUnit h.keepStart
  | keepTransferDone => exact h.onUnit h.keepDoneOp
  | ageUpdate => exact h.onUnit h.ageOp
  | lvn => exact h.act h.lvnOp
  | lvnQueueStage => exact h.onUnit h.lvnQueueOp
  | lvnCommit => exact h.act h.lvnCommitOp
  | lvnDiscard => exact h.act h.lvnDiscardOp
  | batchApply => exact h.onUnit h.batchOp
  | ringEnable => exact h.onUnit h.ringEnableOp
  | ringDisable => exact h.onUnit h.ringDisableOp
  | dblProd => exact h.onUnit h.doorbellWrite
  | dblCons => exact h.onUnit h.doorbellWrite
  | msgSend => exact h.onUnit h.msgSendOp
  | ring => exact h.act h.ringArrive
  | msgAck => exact h.act h.msgAckOp
  | msgCredit => exact h.act h.msgCreditOp
  | idle => exact h.onUnit h.idleOp
  | data => exact h.onUnit h.dataOp
  | ctrl => exact h.onUnit h.ctrlOp
  | id => exact h.onUnit h.idOp
  | hovr => exact h.onUnit h.hovrOp
  | ackTimeout => exact h.onUnit h.ackTimeoutOp
  | swapreq => exact h.onUnit h.swapReqOp
  | swap => exact h.onUnit h.swapOp
  | halfreq => exact h.onUnit h.halfReqOp
  | half => exact h.onUnit h.halfOp
  | ctrlRetire => exact h.onUnit h.retireWordOp
  | offline => exact h.onUnit h.offlineOp
  | online => exact h.onUnit h.onlineOp
  | remapResume => exact h.onUnit h.remapResumeOp
  | laneWindow => exact h.onUnit (h.foldS fun _ _ h => h.setF)
  | laneLockLoss => exact h.onUnit (.ite h.rxFail h)
  | trainDone => exact h.onUnit h.trainDoneOp
  | trainRetry => exact h.onUnit h.trainRetryOp
  | trainLimit => exact h.onUnit h.trainLimitOp
  | idSend => exact h.onUnit h.idSendOp
  | retrain => exact h.onUnit (.ite h.retrainOp h)
  | linkDown => exact h.onUnit h.linkDownOp
  | drainTimeout => exact h.onUnit h.drainTimeoutOp
  | txnTimeout => exact h.act h.farTimeout.settleUnits
  | messageForward => exact h.onUnit h.forwardOp
  | flit => exact h.onUnit (f := fun _ => _) h.flitOp.settleUnits
  | cflit => exact h.onUnit h.cflitOp
  | assign => exact h.act h.assignOp
  | dieDown => exact h.act h.dieDownOp
  | dieUp => exact h.act h.dieUpOp
  | boot => exact h.act h.bootOp
  | repairRecordRead => exact h.act h.recReadOp
  | recordTimeout => exact h.act h.recTimeoutOp
  | almSubst => exact h.act h.substOp
  | substDone => exact h.act h.substDoneOp
  | recClear => exact h.act h.recClearOp
  | almFwCmd => exact h.act h.fwCmdOp
  | manifestCheck => exact h.act h.manCheckOp
  | pushDone => exact h.act h.pushDoneOp
  | pushWaitTimeout => exact h.act h.pushWaitOp
  | hash => exact h.onUnit h.hashOp
  | plan => exact h.act h.planOp
  | powerSample => exact h.act h.powerSampleOp
  | governorInterval => exact h.act h.governorOp
  | thermalSample => exact h.act h.thermalOp
  | droop => exact h.act h.droopOp
  | droopEnd => exact h.act h.droopEndOp
  | slewDone => exact h.act h.slewDoneOp
  | heldChangeApply => exact h.act h.heldApplyOp
  | refclkLoss => exact h.act h.chipReset
  | telemPeriod => exact h.act h.telemOp
  | alarmSlotFree => exact h.act h.alarmSlotFreeOp
  | incidentClose => exact h.act h.incidentShut
  | traceTailWrite => exact h.act h.traceTailOp
  | annRelease => exact h.act h.annReleaseOp
  | annDump => exact h.act h.annDumpOp
  | annClear => exact h.act h.annClearOp
  | traceRestart => exact h.act h.traceRestartOp
  | attest => exact h.act h.attestOp
  | attestDone => exact h.act h.attDoneOp
  | testReset => exact h.act h.testResetOp
  | testIr => exact h.act h.testIrOp
  | testDr => exact h.act h.testDrOp
  | testIdle => exact h.act h.testIdleOp
  | extest => exact h.act h.selectInstr
  | samplePreload => exact h.act h.selectInstr
  | idcode => exact h.act h.selectInstr
  | ijtag => exact h.act h.selectInstr
  | bypass => exact h.act h.selectInstr
  | instrumentAbort => exact h.onUnit (.ite h.setInstr h)
  | take => exact h.act h.takeOp
  | silver => exact h.act h.silverOp
  | silverDone => exact h.act h.silverDoneOp
  | foster => exact h.act h.fosterOp
  | fosterDone => exact h.act h.fosterDoneOp
  | hello => exact h.act h.helloOp
  | helloTimer => exact h.act h.helloTimerOp
  | beat => exact .next h
  | beatTimer => exact h.act h.beatTimerOp
  | peerLost => exact h.act h.twinLost
  | snap => exact h.act h.stageMsg
  | plane => exact h.act h.stageMsg
  | carry => exact h.act h.stageMsg
  | block => exact h.act h.blockOp
  | twinRing => exact h.act h.stageMsg
  | done => exact h.act h.doneOp
  | shipmentDone => exact h.onUnit h.shipDoneOp
  | ack => exact h.act h.ackOp
  | digest => exact h.act h.digestOp
  | digestTimeout => exact h.onUnit h.digestTimeoutOp
  | silverMessage => exact h.act h.silverMsgOp
  | silvered => exact h.act h.silveredOp
  | tck => exact h.act (.ite h.tapEdge h)
  | trstN => exact h.act (.ite h.tapEnter h)
  | failedCrcFrame => exact h.onUnit h.failedFramesOp
  | alarm => exact .next h
  | instrumentDone => exact h.onUnit (f := fun _ => _) (.ite (.ite h.updTap h) (.ite h.setInstr h))

/-- Settles O59: the command at the front of the queue, or the tick, keeps the state sound. -/
theorem soundKept : Obligations.SoundKept := by
  intro F s t h e
  unfold Machine.step at e
  split at e
  · cases e
    exact h.tickNs
  · exact h.frame.exec t e
end Sys2Proof.Machine

namespace Sys2Proof.Machine

/-! ### A command stops only where its unit is missing

Each command's function has one of three shapes: an effect, an effect under the check of a unit, or an effect on a page. Each shape stops
exactly where its unit is missing, and `exec` has one of them for every command. -/

/-- The answer is a next state where the units exist, a stop by name where one is missing. -/
def StopsUnless (units : Bool) (r : Host.Outcome State Fault Refusal) : Prop := ∃ t, r = if units then .next t else .fault .noSuchUnit

theorem StopsUnless.of_exist {r} (h : StopsUnless true r) : ∃ t, r = .next t := h

theorem StopsUnless.of_missing {r} (h : StopsUnless false r) : r = .fault .noSuchUnit :=
  let ⟨_, e⟩ := h
  e

/-- A next state names no unit that could be missing. -/
theorem stopsUnless_next (t : State) : StopsUnless true (.next t) := ⟨t, rfl⟩

/-- An effect under the check that the unit exists. -/
theorem stopsUnless_ite {u : Bool} {c : Prop} [Decidable c] {s t : State} (h : u = true ↔ c) :
    StopsUnless u (if c then act s t else .fault .noSuchUnit) := by
  cases u with
  | true => exact ⟨_, if_pos (h.1 rfl)⟩
  | false => exact ⟨s, if_neg (h.not.1 Bool.false_ne_true)⟩

theorem stopsUnless_onPage (pg : Nat) (f : Blk → Nat → Nat → State → State) (s : State) : StopsUnless (pageBlk pg).isSome (onPage pg f s) := by
  unfold onPage
  cases pageBlk pg with
  | none => exact ⟨s, rfl⟩
  | some e => exact stopsUnless_next _

/-- The kinds of site with arrays, by column (R19, R20). -/
theorem kindHas_mxa (c : Nat) : kindHas .mxa c = (decide (c % 11 < 8) || decide (c % 11 = 10)) := by
  have := Nat.mod_lt c (show 0 < 11 by decide)
  simp only [kindHas, kindOfSite]
  split_ifs <;> simp <;> omega

/-- The pages that self-test their arrays are those of the sites that have arrays. -/
theorem mxaPage_eq_isMxaPage (pg : Nat) : mxaPage pg = isMxaPage pg := by
  unfold mxaPage isMxaPage
  rcases pageBlk pg with _ | ⟨b, i⟩
  · rfl
  · cases b with
    | mxa => exact (kindHas_mxa (i / 2)).symm
    | _ => rfl

/-- What each command can answer: the shape of its function, with the units that it names. -/
theorem exec_stopsUnless (i : Instr) (s : State) : StopsUnless i.unitsExist (exec i s) := by
  cases i with
  | resetRelease | resetAssert | beat | alarm | registerWrite | rcRead | wideReadCapture | wideWriteCommit | reg | time | holdover
  | timeLost | packageTick | spanArrive | spanRelease | spanFault | rd | wr | rdata | wack | mc | mcrep | red | rack | netbTxnTimeout
  | netmMaskCommit | inv | iack | cohn | lvn | lvnCommit | lvnDiscard | ring | msgAck | msgCredit | txnTimeout | assign | dieDown | dieUp
  | boot | repairRecordRead | recordTimeout | almSubst | substDone | recClear | almFwCmd | manifestCheck | pushDone | pushWaitTimeout
  | plan | powerSample | governorInterval | thermalSample | droop | droopEnd | slewDone | heldChangeApply | refclkLoss | telemPeriod
  | alarmSlotFree | incidentClose | traceTailWrite | annRelease | annDump | annClear | traceRestart | attest | attestDone | testReset
  | testIr | testDr | testIdle | extest | samplePreload | idcode | ijtag | bypass | take | silver | silverDone | foster | fosterDone
  | hello | helloTimer | beatTimer | peerLost | snap | plane | carry | block | twinRing | done | ack | digest | silverMessage | silvered
  | tck | trstN =>
    exact stopsUnless_next _
  | partitionTick | solEndPoint | solCommit | solOverrun | partitionFaulted | replay | replayRestoreDone | dump | load | scriptLoadDone
  | syllableIssue | freezeLower | sNop | solEnd | solEndComplete | br | loopi | loopr | guard | wait | waitr | waitl | waitlTimeout
  | tests | add | sub | and | or | xor | shl | shr | sra | mul | min | max | minu | maxu | addi | lis | lih | shli | shri | cmpeq | cmplt
  | cmpltu | pand | por | pxor | ld | st | mfs | movx | mNop | mode | seta | setai | setcnt | mLd | stream | vNop | vadd | vsub | vmul
  | vfma | vfms | vfnma | vmin | vmax | vabs | vneg | vrint | vcmp | vsel | vmov | vand | vor | vxor | vshl | vshr | vsra | vcvt | vunpk
  | mand | mor | mxor | mandn | vlis | vld | vst | vseta | vsetai | vbcs | vred | vcmpr | vexpd | mcnt | vflags | exp2 | log2 | rcp
  | rsqrt | tanh | smxa | smxn | xNop | xseta | xsetai | xq | xqn | gq | copy | fill | script | mcast | reduce | leaven | moveComplete
  | gatherDescriptor | gatherRow | bagComplete | corMigrate | migrateDone | cNop | arr | waitb | arwt | testb | raise | calForce
  | calXarrive | calClear | quietExpire | vigilDetect | mcHoldExpire | stackTimeout | tileStageTimeout | stackRdResponse | keepRecord
  | verifyStatus | statStatus | refNotice | portDown | portUp | temp | refresh | refWatch | peerArm | managerWait | claim | release
  | remapBegin | remapAck | remapDone | scrubFix | rowReport | trrReq | keepReq | keepData | patrolScrub | keepSave | keepLoad
  | keepTransferDone | ageUpdate | lvnQueueStage | batchApply | ringEnable | ringDisable | dblProd | dblCons | msgSend | idle | data
  | ctrl | id | hovr | ackTimeout | swapreq | swap | halfreq | half | ctrlRetire | offline | online | remapResume | laneWindow
  | laneLockLoss | trainDone | trainRetry | trainLimit | idSend | retrain | linkDown | drainTimeout | messageForward | flit | cflit | hash
  | instrumentAbort | shipmentDone | digestTimeout | failedCrcFrame | instrumentDone =>
    exact stopsUnless_ite decide_eq_true_iff
  | start | stop | abort | clear | retire | startingDone | stoppingDone | cmdTimeout =>
    exact stopsUnless_onPage _ _ _
  | selftestDone =>
    exact stopsUnless_ite .rfl
  | bist | bistDone =>
    exact stopsUnless_ite (mxaPage_eq_isMxaPage _ ▸ .rfl)

/-- Settles O3, from the answer of each command. That a missing unit stops the machine is the model's choice (log entry 7). -/
theorem commandsStopOnlyAtMissingUnits : Obligations.CommandsStopOnlyAtMissingUnits := fun i s =>
  ⟨fun h => (h ▸ exec_stopsUnless i s).of_exist, fun h => (h ▸ exec_stopsUnless i s).of_missing, fun h => (Bool.and_eq_true_iff.1 h).1⟩

end Sys2Proof.Machine

/-! What no command changes: the waiting commands and the fuses; what has been sent stays sent, and no free value is drawn twice (O60).

Only `send` and `fresh` touch these parts, and a reset copies them. `Follows s₀ s` says what that leaves true of a state `s` reached from `s₀`. Every
function that answers a state has one lemma, `Follows.<its name>`, which chains those of the functions it calls: `h.fresh.satR` is about the state after
`fresh`, then `satR`. A function that only names another one has none: the lemma of what it calls speaks of it. -/

namespace Sys2Proof.Machine

/-- What `Follows` says of the four parts. -/
structure FollowsIn (s : State) (pending : List Instr) (fuses : Fuses) (outbox : List OutMsg) (freeCtr : Nat) : Prop where
  pending_eq : pending = s.pending
  fuses_eq : fuses = s.fuses
  outbox_eq : ∃ l, outbox = s.outbox ++ l
  le_freeCtr : s.freeCtr ≤ freeCtr

/-- `t` has the queue and the fuses of `s`, has sent what `s` had sent and then perhaps more, and has drawn no fewer free values. -/
def Follows (s t : State) : Prop := FollowsIn s t.pending t.fuses t.outbox t.freeCtr

variable {s₀ s : State}

theorem Follows.refl (s : State) : Follows s s := ⟨rfl, rfl, ⟨[], (List.append_nil _).symm⟩, Nat.le_refl _⟩

/-! ### Branches and folds -/

protected theorem Follows.ite {c : Prop} [Decidable c] {a b : State} (ha : Follows s₀ a) (hb : Follows s₀ b) : Follows s₀ (if c then a else b) := by
  split
  · exact ha
  · exact hb

protected theorem Follows.ite₃ {α β : Type} {c : Prop} [Decidable c] {a b : α × β × State} (ha : Follows s₀ a.2.2) (hb : Follows s₀ b.2.2) :
    Follows s₀ (if c then a else b).2.2 := by
  split
  · exact ha
  · exact hb

protected theorem Follows.elim {α : Type} {o : Option α} {f : α → State} (h : Follows s₀ s) (hf : ∀ a, Follows s₀ (f a)) :
    Follows s₀ (o.elim s f) := by
  cases o with
  | none => exact h
  | some a => exact hf a

protected theorem Follows.ite₂ {α : Type} {c : Prop} [Decidable c] {a b : α × State} (ha : Follows s₀ a.2) (hb : Follows s₀ b.2) :
    Follows s₀ (if c then a else b).2 := by
  split
  · exact ha
  · exact hb

/-- One step further on a state that is used more than once. -/
protected theorem Follows.bind {t : State} (h : Follows s₀ s) (f : Follows s₀ s → Follows s₀ t) : Follows s₀ t := f h

theorem Follows.of_snd {α : Type} {a : α} {p : α × State} (h : Follows s₀ p.2) (e : p = (a, s)) : Follows s₀ s := by rwa [e] at h

theorem Follows.of_snd₂ {α β : Type} {a : α} {b : β} {p : α × β × State} (h : Follows s₀ p.2.2) (e : p = (a, b, s)) : Follows s₀ s := by rwa [e] at h

protected theorem Follows.foldl {α : Type} {f : State → α → State} (h : Follows s₀ s) (hf : ∀ s a, Follows s₀ s → Follows s₀ (f s a)) {l : List α} :
    Follows s₀ (l.foldl f s) :=
  List.foldlRecOn l f h fun s h a _ => hf s a h

protected theorem Follows.foldl₂' {α β : Type} {f : β × State → α → β × State} {b : β} (h : Follows s₀ s)
    (hf : ∀ p a, Follows s₀ p.2 → Follows s₀ (f p a).2) {l : List α} : Follows s₀ (l.foldl f (b, s)).2 :=
  List.foldlRecOn (motive := fun p => Follows s₀ p.2) l f h fun p h a _ => hf p a h

protected theorem Follows.foldl₄ {α β γ δ : Type} {f : β × γ × δ × State → α → β × γ × δ × State} {b : β} {c : γ} {d : δ} (h : Follows s₀ s)
    (hf : ∀ p a, Follows s₀ p.2.2.2 → Follows s₀ (f p a).2.2.2) {l : List α} : Follows s₀ (l.foldl f (b, c, d, s)).2.2.2 :=
  List.foldlRecOn (motive := fun p => Follows s₀ p.2.2.2) l f h fun p h a _ => hf p a h

protected theorem Follows.foldS {α : Type} {f : α → State → State} (h : Follows s₀ s) (hf : ∀ a s, Follows s₀ s → Follows s₀ (f a s))
    {l : List α} : Follows s₀ (foldS f l s) := by
  induction l generalizing s with
  | nil => exact h
  | cons a t ih => exact ih (hf a s h)

/-! ### The parts' own operations -/

/-- An update of fields other than the four parts. -/
protected theorem Follows.frame
    {inReset testEn tripped regs capt selfFailed testEnded wbuf time timePend timeFrac pwr ptns snap prec psave cores arrs bist vecs movers gths
    bars ops unitJobs opWait opTurn peakAll peaks nextTxn netmMasks reds redWait tagCache redDead homes standIn slices cache dirs heights dram
    badGlz ueLines keepPools keepRecs heldReqs ports grps unreach mcasts twn ringStage msgRings ann alm recCopies report tap} (h : Follows s₀ s) :
    Follows s₀ { s with
      inReset := inReset, testEn := testEn, tripped := tripped, regs := regs, capt := capt, selfFailed := selfFailed, testEnded := testEnded,
      wbuf := wbuf, time := time, timePend := timePend, timeFrac := timeFrac, pwr := pwr, ptns := ptns, snap := snap, prec := prec, psave := psave,
      cores := cores, arrs := arrs, bist := bist, vecs := vecs, movers := movers, gths := gths, bars := bars, ops := ops, unitJobs := unitJobs,
      opWait := opWait, opTurn := opTurn, peakAll := peakAll, peaks := peaks, nextTxn := nextTxn, netmMasks := netmMasks, reds := reds,
      redWait := redWait, tagCache := tagCache, redDead := redDead, homes := homes, standIn := standIn, slices := slices, cache := cache,
      dirs := dirs, heights := heights, dram := dram, badGlz := badGlz, ueLines := ueLines, keepPools := keepPools, keepRecs := keepRecs,
      heldReqs := heldReqs, ports := ports, grps := grps, unreach := unreach, mcasts := mcasts, twn := twn, ringStage := ringStage,
      msgRings := msgRings, ann := ann, alm := alm, recCopies := recCopies, report := report, tap := tap } := h

protected theorem Follows.fresh (h : Follows s₀ s) : Follows s₀ (fresh s).2 := by
  obtain ⟨hp, hf, ho, hc⟩ := h
  exact ⟨hp, hf, ho, Nat.le_succ_of_le hc⟩

protected theorem Follows.send {m} (h : Follows s₀ s) : Follows s₀ (send m s) := by
  obtain ⟨hp, hf, ⟨l, ho⟩, hc⟩ := h
  exact ⟨hp, hf, ⟨l ++ [m], by simp [Machine.send, ho]⟩, hc⟩

protected theorem Follows.setR {pg o v} (h : Follows s₀ s) : Follows s₀ (setR pg o v s) := h.frame
protected theorem Follows.putDram {key bs} (h : Follows s₀ s) : Follows s₀ (putDram key bs s) := h.frame
protected theorem Follows.setCore {c v} (h : Follows s₀ s) : Follows s₀ (setCore c v s) := h.frame
protected theorem Follows.updCore {c f} (h : Follows s₀ s) : Follows s₀ (updCore c f s) := h.frame
protected theorem Follows.setArr {c m v} (h : Follows s₀ s) : Follows s₀ (setArr c m v s) := h.frame
protected theorem Follows.setVec {c v} (h : Follows s₀ s) : Follows s₀ (setVec c v s) := h.frame
protected theorem Follows.setPtn {p v} (h : Follows s₀ s) : Follows s₀ (setPtn p v s) := h.frame
protected theorem Follows.setBar {b v} (h : Follows s₀ s) : Follows s₀ (setBar b v s) := h.frame
protected theorem Follows.setSlice {i v} (h : Follows s₀ s) : Follows s₀ (setSlice i v s) := h.frame
protected theorem Follows.setPort {p v} (h : Follows s₀ s) : Follows s₀ (setPort p v s) := h.frame
protected theorem Follows.setGrp {g v} (h : Follows s₀ s) : Follows s₀ (setGrp g v s) := h.frame
protected theorem Follows.setQ {pg o q} (h : Follows s₀ s) : Follows s₀ (setQ pg o q s) := h.frame

/-! ### Operations of the state -/

protected theorem Follows.setF {pg o lo len v} (h : Follows s₀ s) : Follows s₀ (setF pg o lo len v s) := h.setR
protected theorem Follows.wrapR {pg o k} (h : Follows s₀ s) : Follows s₀ (wrapR pg o k s) := h.setR
protected theorem Follows.satR {pg o k} (h : Follows s₀ s) : Follows s₀ (satR pg o k s) := h.setR
protected theorem Follows.firstR {pg o v} (h : Follows s₀ s) : Follows s₀ (firstR pg o v s) := .ite h h.setR
protected theorem Follows.satFree {pg o} (h : Follows s₀ s) : Follows s₀ (satFree pg o s) := h.fresh.satR
protected theorem Follows.collectBusy {ep} (h : Follows s₀ s) : Follows s₀ (collectBusy ep s) := .ite h.satFree h
protected theorem Follows.setReady {pg on} (h : Follows s₀ s) : Follows s₀ (setReady pg on s) := .ite h h.setR.setR.wrapR
protected theorem Follows.testOver {pg} (h : Follows s₀ s) : Follows s₀ (testOver pg s) := .ite h h.frame

protected theorem Follows.setBState {pg st} (h : Follows s₀ s) : Follows s₀ (setBState pg st s) :=
  h.setR.bind fun h => (Follows.ite h.testOver h).bind fun h => (Follows.ite h.setR h).bind fun h => (Follows.ite h.satR h).bind fun h =>
    .ite h.setReady h

protected theorem Follows.ignoredRws {pg o} (h : Follows s₀ s) : Follows s₀ (ignoredRws pg o s) := .ite h h.setR
protected theorem Follows.updPtn {p f} (h : Follows s₀ s) : Follows s₀ (updPtn p f s) := h.setPtn
protected theorem Follows.updSlice {i f} (h : Follows s₀ s) : Follows s₀ (updSlice i f s) := h.setSlice
protected theorem Follows.setMover {c e v} (h : Follows s₀ s) : Follows s₀ (setMover c e v s) := h.frame
protected theorem Follows.setGth {c v} (h : Follows s₀ s) : Follows s₀ (setGth c v s) := h.frame
protected theorem Follows.unfreeze {p} (h : Follows s₀ s) : Follows s₀ (unfreeze p s) := (Follows.ite (h.foldS fun _ _ h => h.satFree) h).updPtn

/-! ### Routes -/

protected theorem Follows.updPort {p f} (h : Follows s₀ s) : Follows s₀ (updPort p f s) := h.setPort
protected theorem Follows.lkgDiscard {g reason d} (h : Follows s₀ s) : Follows s₀ (lkgDiscard g reason d s) := h.satR.firstR
protected theorem Follows.putFrame {port item} (h : Follows s₀ s) : Follows s₀ (putFrame port item s) := h.setPort.wrapR

protected theorem Follows.flushN {n port} (h : Follows s₀ s) : Follows s₀ (flushN n port s) := by
  induction n generalizing s with
  | zero => exact h
  | succ n ih =>
    unfold flushN
    split
    · exact h
    · exact ih h.setPort.putFrame

protected theorem Follows.portSend {port cls} (h : Follows s₀ s) : Follows s₀ (portSend port cls s) := h.setPort.flushN

protected theorem Follows.portPush {port cls n} (h : Follows s₀ s) : Follows s₀ (portPush port cls n s) := by
  induction n generalizing s with
  | zero => exact h
  | succ n ih => exact ih h.portSend

protected theorem Follows.groupPost {g h' cls len m} (h : Follows s₀ s) : Follows s₀ (groupPost g h' cls len m s) := by
  unfold groupPost
  split
  · exact h.portPush.send
  · exact h.send

protected theorem Follows.post {d h' cls len m} (h : Follows s₀ s) : Follows s₀ (post d h' cls len m s).2 := by
  unfold post
  split
  · exact .ite₂ h h.groupPost
  · exact h.lkgDiscard

protected theorem Follows.postFlit {d f} (h : Follows s₀ s) : Follows s₀ (postFlit d f s).2 := .ite₂ h.post h.post

/-! ### Frames -/

/-! ### Places -/

/-! ### Directories -/

protected theorem Follows.setDir {i line l} (h : Follows s₀ s) : Follows s₀ (setDir i line l s) := h.frame.setR

protected theorem Follows.sendInvs {i a sharers} (h : Follows s₀ s) : Follows s₀ (sendInvs i a sharers s).2 :=
  h.foldl₂' fun _ _ h => by exact .ite₂ (.ite₂ h.postFlit.wrapR h) h

protected theorem Follows.dirWrite {i line a} (h : Follows s₀ s) : Follows s₀ (dirWrite i line a s).2 := by
  unfold dirWrite
  dsimp only
  split
  · exact .ite₂ h.sendInvs.setDir h.sendInvs.setDir
  · exact h

protected theorem Follows.dirSweep {i line a} (h : Follows s₀ s) : Follows s₀ (dirSweep i line a s) := h.dirWrite.bind fun h => .ite h.setDir h

/-! ### Twin pairs: what they share -/

protected theorem Follows.shipSend {kind p q whr bs} (h : Follows s₀ s) : Follows s₀ (shipSend kind p q whr bs s) :=
  h.post.bind fun h => .ite h h.frame

protected theorem Follows.twinWrote {leaven a key} (h : Follows s₀ s) : Follows s₀ (twinWrote leaven a key s) :=
  .ite ((Follows.ite h.post h).bind fun h => .ite h (h.foldS fun _ _ h => .ite h.shipSend h)) h

protected theorem Follows.twinDigest {p a glaze} (h : Follows s₀ s) : Follows s₀ (twinDigest p a glaze s) := .ite h.updPtn h

/-! ### The Annals -/

protected theorem Follows.annPut {off bs} (h : Follows s₀ s) : Follows s₀ (annPut off bs s) := h.frame
protected theorem Follows.ringClaim {r at_ len} (h : Follows s₀ s) : Follows s₀ (ringClaim r at_ len s) := h.frame.bind fun h => .ite h h.satR

protected theorem Follows.ringPlace {r len} (h : Follows s₀ s) : Follows s₀ (ringPlace r len s).2 :=
  .ite₂ h ((Follows.ite h.ringClaim h).bind fun h => (.ite h h.annPut))

protected theorem Follows.ringWrite {r bs} (h : Follows s₀ s) : Follows s₀ (ringWrite r bs s).2 := h.ringPlace.ringClaim.annPut.frame.setR
protected theorem Follows.annSeq (h : Follows s₀ s) : Follows s₀ (annSeq s).2 := h.frame
protected theorem Follows.annLog {pg data body} (h : Follows s₀ s) : Follows s₀ (annLog pg data body s) := h.annSeq.ringWrite
protected theorem Follows.traceAdjust (h : Follows s₀ s) : Follows s₀ (traceAdjust s) := .ite h.setF (.ite h.setF h)

protected theorem Follows.traceWrite {pg src data} (h : Follows s₀ s) : Follows s₀ (traceWrite pg src data s) :=
  h.annSeq.annPut.setR.frame.bind fun h => (Follows.ite h.post.setR.frame h).traceAdjust

protected theorem Follows.memPut {a bs} (h : Follows s₀ s) : Follows s₀ (memPut a bs s) := by
  unfold memPut
  dsimp only
  split
  · exact h.putDram.bind fun h => (Follows.ite h.frame h).dirSweep.twinWrote
  · exact h

protected theorem Follows.setRingWord {r off v} (h : Follows s₀ s) : Follows s₀ (setRingWord r off v s) := h.memPut
protected theorem Follows.ringNotice {r newProd} (h : Follows s₀ s) : Follows s₀ (ringNotice r newProd s) := .ite h h.post.wrapR

protected theorem Follows.alarmPost {r bs} (h : Follows s₀ s) : Follows s₀ (alarmPost r bs s).2 :=
  .ite₂ (.ite₂ (.ite₂ (h.memPut.setRingWord.bind fun h => .ite h.ringNotice h) h.setRingWord) h) h

protected theorem Follows.alarmSend {route bs at_} (h : Follows s₀ s) : Follows s₀ (alarmSend route bs at_ s) :=
  h.frame.wrapR.bind fun h => (Follows.ite h.post h).bind fun h => (Follows.ite h.post h).bind fun h => .ite
    (.ite h.alarmPost h.alarmPost.annPut) h

protected theorem Follows.incidentOpen (h : Follows s₀ s) : Follows s₀ (incidentOpen s) := .ite h (h.setF.setF.frame.bind fun h => .ite h h.setQ)

protected theorem Follows.alarmRecord {src code data count flags body} (h : Follows s₀ s) :
    Follows s₀ (alarmRecord src code data count flags body s).2.2 := by
  unfold alarmRecord
  dsimp only
  split
  · exact h.annSeq.wrapR.annPut.setF.frame
  · exact h.annSeq.wrapR.ringWrite

protected theorem Follows.coalFill {i src code route at_ bs} (h : Follows s₀ s) : Follows s₀ (coalFill i src code route at_ bs s) := h.annPut.frame
protected theorem Follows.coalCount {i n} (h : Follows s₀ s) : Follows s₀ (coalCount i n s) := h.annPut.frame

protected theorem Follows.coalesce {src code route at_ bs} (h : Follows s₀ s) : Follows s₀ (coalesce src code route at_ bs s) := by
  unfold coalesce
  split
  · exact .ite h.coalCount.satR h.coalFill.satR
  · split
    · exact h.coalFill.satR
    · exact h.satR

protected theorem Follows.alarmFull {pg code data urgent body} (h : Follows s₀ s) : Follows s₀ (alarmFull pg code data urgent body s) := by
  unfold alarmFull
  dsimp only
  split
  · split
    · exact h.incidentOpen.alarmRecord.alarmSend
    · exact h.incidentOpen.alarmRecord.coalesce
  · exact h.incidentOpen.alarmRecord

protected theorem Follows.namedAlarm {pg n} (h : Follows s₀ s) : Follows s₀ (namedAlarm pg n s) := h.alarmFull

protected theorem Follows.slotService (h : Follows s₀ s) : Follows s₀ (slotService s) := by
  unfold slotService
  dsimp only
  split
  · split
    · exact .ite h (h.annSeq.ringWrite.setR.wrapR.bind fun h => .ite h.alarmSend h)
    · exact h.alarmSend.coalCount
  · exact h

protected theorem Follows.trace {src pg} (h : Follows s₀ s) : Follows s₀ (trace src pg s) :=
  .ite (.ite h.fresh.satR (.ite (.ite h.fresh.setF.satR.alarmFull h.fresh.traceAdjust.satR) (.ite h.fresh.frame.traceWrite
    h.fresh.frame.satR))) h

/-! ### Faults -/

protected theorem Follows.spanSend {typ b gen cause dst} (h : Follows s₀ s) : Follows s₀ (spanSend typ b gen cause dst s) := h.post.wrapR
protected theorem Follows.ringDiscard {p} (h : Follows s₀ s) : Follows s₀ (ringDiscard p s) := h.frame.setR
protected theorem Follows.lvnNotice {d m} (h : Follows s₀ s) : Follows s₀ (lvnNotice d m s) := .ite h.send h.post
protected theorem Follows.lvnNotices {commit p} (h : Follows s₀ s) : Follows s₀ (lvnNotices commit p s) := (h.foldS fun _ _ h => h.lvnNotice).updPtn
protected theorem Follows.redDiscard {p} (h : Follows s₀ s) : Follows s₀ (redDiscard p s) := h.frame.setR.bind fun h => .ite h h.satR
protected theorem Follows.ptnDropHeld {p} (h : Follows s₀ s) : Follows s₀ (ptnDropHeld p s) := h.foldS fun _ _ h => h.updCore

protected theorem Follows.ptnFaulted {p} (h : Follows s₀ s) : Follows s₀ (ptnFaulted p s) :=
  .ite h h.ptnDropHeld.unfreeze.redDiscard.ringDiscard.lvnNotices.updPtn

protected theorem Follows.recordPage {pg bits} (h : Follows s₀ s) : Follows s₀ (recordPage pg bits s).2 := by
  unfold recordPage
  refine .ite₂ h ?_
  extract_lets _ s₁ _ s₂ _ _ _ s₃ s₄ s₅
  have h₁ : Follows s₀ s₁ := h.setR
  have h₂ : Follows s₀ s₂ := .ite h₁.setReady.frame h₁
  have h₄ : Follows s₀ s₄ := h₂.setBState.alarmFull
  refine .ite₂ h₂ (.ite₂ (.ite₂ h₂ ?_) ?_)
  · dsimp only
    exact h₂.alarmFull
  · unfold s₅
    split
    · exact h₄.ptnFaulted
    · exact h₄

protected theorem Follows.recordPtn {p cause} (h : Follows s₀ s) : Follows s₀ (recordPtn p cause s).2 := by
  unfold recordPtn
  dsimp only
  split
  · exact h
  · split
    · exact .ite₂ h h.updPtn
    · split
      · exact h.updPtn.setR
      · exact h.redDiscard.unfreeze.setR.updPtn
      · exact h

protected theorem Follows.recordBar {b cause skip} (h : Follows s₀ s) : Follows s₀ (recordBar b cause skip s).2 :=
  .ite₂ ((h.setBar.foldS fun _ _ h => h.spanSend).bind fun h => .ite₂ h h) (.ite₂ h.setBar h)

protected theorem Follows.faultStep {e} (h : Follows s₀ s) : Follows s₀ (faultStep e s).2 := by
  unfold faultStep
  split
  · exact h.recordPage
  · exact h.recordPtn
  · exact h.recordBar

protected theorem Follows.cascade {n es} (h : Follows s₀ s) : Follows s₀ (cascade n es s) := by
  induction n generalizing es s with
  | zero => exact h
  | succ n ih =>
    cases es with
    | nil => exact h
    | cons e t => exact ih h.faultStep

protected theorem Follows.fault {pg cause} (h : Follows s₀ s) : Follows s₀ (fault pg cause s) := h.cascade

protected theorem Follows.ptnFaultOf {p cause} (h : Follows s₀ s) : Follows s₀ (ptnFaultOf p cause s) := by
  unfold ptnFaultOf
  split
  · exact h.cascade
  · exact h

/-! ### Operands, registers and stores of a core -/

protected theorem Follows.verifySpad {c r i a len} (h : Follows s₀ s) : Follows s₀ (verifySpad c r i a len s) := .ite h.ptnFaultOf h
protected theorem Follows.coreFault {c code} (h : Follows s₀ s) : Follows s₀ (coreFault c code s) := h.firstR.fault

protected theorem Follows.sigSatisfy {c n} (h : Follows s₀ s) : Follows s₀ (sigSatisfy c n s) := by
  unfold sigSatisfy
  dsimp only
  split
  · exact h
  · split
    · exact h
    · exact .ite (h.setR.updCore) h

protected theorem Follows.raiseSig {c n k} (h : Follows s₀ s) : Follows s₀ (raiseSig c n k s) :=
  (Follows.ite h.setR.setR.coreFault h.setR).sigSatisfy

protected theorem Follows.raiseFreeze {c} (h : Follows s₀ s) : Follows s₀ (raiseFreeze c s) := by
  unfold raiseFreeze
  split
  · exact h
  · exact .ite h h.updPtn.satR.trace

protected theorem Follows.holdOp {c u i op} (h : Follows s₀ s) : Follows s₀ (holdOp c u i op s) := h.updCore.raiseFreeze
protected theorem Follows.raiseDenied {c u} (h : Follows s₀ s) : Follows s₀ (raiseDenied c u s) := h.updCore.raiseFreeze
protected theorem Follows.promotedBanks {c} (h : Follows s₀ s) : Follows s₀ (promotedBanks c s).2 := .ite₂ h.fresh h

protected theorem Follows.bankStep {c t} (h : Follows s₀ s) : Follows s₀ (bankStep c t s) :=
  .ite h (h.promotedBanks.updCore.foldS fun _ _ h => h.raiseDenied)

/-! ### Barriers -/

protected theorem Follows.barRelease {b} (h : Follows s₀ s) : Follows s₀ (barRelease b s) := (h.wrapR.foldS fun _ _ h => h.spanSend).setBar.trace

protected theorem Follows.barCheck {n b} (h : Follows s₀ s) : Follows s₀ (barCheck n b s) := by
  induction n generalizing s with
  | zero => exact h
  | succ n ih =>
    unfold barCheck
    dsimp only
    split
    · split
      · exact ih h.setBar.barRelease
      · exact .ite h h.setBar.spanSend
    · exact h

protected theorem Follows.barCount {b who nxt} (h : Follows s₀ s) : Follows s₀ (barCount b who nxt s) := h.setBar.barCheck
protected theorem Follows.barSaturate {b} (h : Follows s₀ s) : Follows s₀ (barSaturate b s) := h.setR.setBar.cascade

protected theorem Follows.barArriveOpen {b who} (h : Follows s₀ s) : Follows s₀ (barArriveOpen b who s) :=
  .ite (.ite h.barCount (.ite h.barCount h.barSaturate)) (.ite h.barCount (.ite h.barCount h.barSaturate))

protected theorem Follows.syncParity {b} (h : Follows s₀ s) : Follows s₀ (syncParity b s) := h.satR.cascade

protected theorem Follows.coreArrive {p n b bad} (h : Follows s₀ s) : Follows s₀ (coreArrive p n b bad s) :=
  .ite h.syncParity (h.wrapR.bind fun h => .ite h.cascade (.ite h.satR (.ite h.barArriveOpen h.cascade)))

protected theorem Follows.spanArriveAt {gen b src} (h : Follows s₀ s) : Follows s₀ (spanArriveAt gen b src s) := by
  unfold spanArriveAt
  dsimp only
  split
  · exact h.satR
  · split
    · exact .ite (.ite h.cascade h.setBar.barCheck) (.ite (.ite h.cascade h.setBar) h.cascade)
    · exact h.cascade

protected theorem Follows.spanReleaseAt {gen b src} (h : Follows s₀ s) : Follows s₀ (spanReleaseAt gen b src s) := by
  unfold spanReleaseAt
  dsimp only
  split
  · exact h.satR
  · split
    · exact .ite h.barRelease.barCheck h.satR
    · exact h.cascade

protected theorem Follows.spanFaultAt {b src} (h : Follows s₀ s) : Follows s₀ (spanFaultAt b src s) := by
  unfold spanFaultAt
  dsimp only
  split
  · exact h.satR
  · split
    · exact h.cascade
    · exact h.satR

protected theorem Follows.spanTake {msg bad} (h : Follows s₀ s) : Follows s₀ (spanTake msg bad s) := by
  unfold spanTake
  dsimp only
  split
  · exact h.syncParity
  · split
    · exact h.wrapR.spanArriveAt
    · exact h.wrapR.spanReleaseAt
    · exact h.wrapR.spanFaultAt
    · exact h.wrapR.satR

protected theorem Follows.calForceOp {k idx} (h : Follows s₀ s) : Follows s₀ (calForceOp k idx s) := .ite h.satR.annLog.setBar.barRelease.barCheck h
protected theorem Follows.calForceWrite {k v} (h : Follows s₀ s) : Follows s₀ (calForceWrite k v s) := .ite h.calForceOp h
protected theorem Follows.calXarriveWrite {k v} (h : Follows s₀ s) : Follows s₀ (calXarriveWrite k v s) := .ite (.ite h.barArriveOpen h.cascade) h

protected theorem Follows.calClearWrite {k v} (h : Follows s₀ s) : Follows s₀ (calClearWrite k v s) :=
  h.foldS fun _ _ h => .ite h.setBar h.ignoredRws

protected theorem Follows.quietExpireOp {b} (h : Follows s₀ s) : Follows s₀ (quietExpireOp b s) := .ite h.setBar h

protected theorem Follows.calStartOp {k} (h : Follows s₀ s) : Follows s₀ (calStartOp k s) :=
  h.foldS fun _ _ h => .ite (Follows.ite h.setBar h.setBar).setBar h.setBar

protected theorem Follows.calDisable {k} (h : Follows s₀ s) : Follows s₀ (calDisable k s) := h.foldS fun _ _ h => h.setBar

protected theorem Follows.vigilDetectOp {p} (h : Follows s₀ s) : Follows s₀ (vigilDetectOp p s) :=
  .ite ((Follows.ite h h.firstR.setQ).alarmFull.satR.bind fun h => .ite h.satR.cascade h) h

/-! ### Rings and doorbells -/

protected theorem Follows.dblRefuse {r reason} (h : Follows s₀ s) : Follows s₀ (dblRefuse r reason s) := h.satR.firstR
protected theorem Follows.setStage {l} (h : Follows s₀ s) : Follows s₀ (setStage l s) := h.frame.setR
protected theorem Follows.updRefused {r} (h : Follows s₀ s) : Follows s₀ (updRefused r s) := h.dblRefuse.namedAlarm
protected theorem Follows.creditBack {d n reenable} (h : Follows s₀ s) : Follows s₀ (creditBack d n reenable s) := h.post

protected theorem Follows.applyUpd {u} (h : Follows s₀ s) : Follows s₀ (applyUpd u s) :=
  .ite (.ite (.ite (Follows.ite h.setRingWord.setRingWord h).setRingWord h.updRefused) (.ite (h.setRingWord.bind fun h => .ite h.ringNotice h)
    (Follows.ite h.setRingWord h).updRefused)) (.ite (h.setRingWord.bind fun h => .ite h.creditBack h) h.updRefused)

protected theorem Follows.hostUpd {u} (h : Follows s₀ s) : Follows s₀ (hostUpd u s) := .ite (.ite h.dblRefuse h.setStage) h.applyUpd

protected theorem Follows.ringCommit {p} (h : Follows s₀ s) : Follows s₀ (ringCommit p s) :=
  h.setStage.foldS fun _ _ h => h.foldS fun _ _ h => h.applyUpd

protected theorem Follows.ringStopped {p} (h : Follows s₀ s) : Follows s₀ (ringStopped p s) :=
  h.setStage.foldS fun _ _ h => h.foldS fun _ _ h => h.applyUpd

protected theorem Follows.ringDrop {r} (h : Follows s₀ s) : Follows s₀ (ringDrop r s) := h.setStage.bind fun h => .ite h h.satR
protected theorem Follows.dblDiscard {d} (h : Follows s₀ s) : Follows s₀ (dblDiscard d s) := h.foldS fun _ _ h => h.ringDrop

protected theorem Follows.ringEnableOp {r} (h : Follows s₀ s) : Follows s₀ (ringEnableOp r s) :=
  .ite h (.ite (h.setR.bind fun h => .ite (.ite (Follows.ite h h.frame).creditBack h.frame) h) h.firstR)

protected theorem Follows.ringDisableOp {r} (h : Follows s₀ s) : Follows s₀ (ringDisableOp r s) := .ite h.frame.ringDrop.setR h
protected theorem Follows.doorbellWrite {r prod v} (h : Follows s₀ s) : Follows s₀ (doorbellWrite r prod v s) := .ite h.hostUpd h.dblRefuse

/-- The function is taken apart before it is applied, as in `Sound.ringRefuse`. -/

protected theorem Follows.ringRefuse {a} (h : Follows s₀ s) : Follows s₀ (ringRefuse a s) := by
  suffices key : ∀ f, f = ringRefuse → Follows s₀ (f a s) from key _ rfl
  intro f e
  delta ringRefuse at e
  subst e
  dsimp only
  split
  · exact h.satR
  · exact h

protected theorem Follows.msgSendOp {r} (h : Follows s₀ s) : Follows s₀ (msgSendOp r s) := by
  unfold msgSendOp
  dsimp only
  split
  · exact .ite h.post.frame.wrapR h
  · exact h

protected theorem Follows.ringArrive {r sdie index entry} (h : Follows s₀ s) : Follows s₀ (ringArrive r sdie index entry s) := by
  unfold ringArrive
  dsimp only
  split
  · exact .ite (.ite (.ite h h.memPut.hostUpd.frame.wrapR.post) h.post) h
  · exact h

protected theorem Follows.msgAckOp {r index} (h : Follows s₀ s) : Follows s₀ (msgAckOp r index s) := .ite h.hostUpd h

protected theorem Follows.msgCreditOp {r n reenable} (h : Follows s₀ s) : Follows s₀ (msgCreditOp r n reenable s) := by
  unfold msgCreditOp
  dsimp only
  split
  · exact .ite (.ite h.frame h.frame) h
  · exact h

protected theorem Follows.ringsLost {d} (h : Follows s₀ s) : Follows s₀ (ringsLost d s) := h.foldS fun _ _ h => .ite h.frame.namedAlarm h

/-! ### The bulk network -/

/-! ### Slices and requests -/

protected theorem Follows.respond {typ status data glaze tile f} (h : Follows s₀ s) : Follows s₀ (respond typ status data glaze tile f s) :=
  .ite h.send h.postFlit

protected theorem Follows.sliceErr {i reason a p} (h : Follows s₀ s) : Follows s₀ (sliceErr i reason a p s) :=
  h.satR.bind fun h => (Follows.ite h h.firstR.setQ).annLog.ptnFaultOf

protected theorem Follows.cacheTouch {i key l} (h : Follows s₀ s) : Follows s₀ (cacheTouch i key l s) := h.updSlice.frame

protected theorem Follows.cacheDrop {i key} (h : Follows s₀ s) : Follows s₀ (cacheDrop i key s) := by
  unfold cacheDrop
  dsimp only
  split
  · exact h.frame.bind fun h => .ite h.setR h
  · exact h

protected theorem Follows.cacheAlloc {i set l} (h : Follows s₀ s) : Follows s₀ (cacheAlloc i set l s) := by
  unfold cacheAlloc
  dsimp only
  split
  · exact h
  · exact h.cacheDrop.updSlice.frame.bind fun h => .ite h.setR h

protected theorem Follows.cacheDropIf {i p} (h : Follows s₀ s) : Follows s₀ (cacheDropIf i p s) := h.foldS fun _ _ h => h.cacheDrop

protected theorem Follows.stackSend {i op bank x} (h : Follows s₀ s) : Follows s₀ (stackSend i op bank x s) := by
  unfold stackSend
  dsimp only
  split
  · exact h.send.portPush
  · exact h.send

protected theorem Follows.rowActivate {i bank row} (h : Follows s₀ s) : Follows s₀ (rowActivate i bank row s) := by
  unfold rowActivate
  dsimp only
  split
  · split
    · split
      · exact h.updSlice
      · exact h.updSlice.bind fun h => .ite h.post h.stackSend
    · exact .ite h.updSlice h.fresh.updSlice
  · exact h

protected theorem Follows.stackAccess {i op x} (h : Follows s₀ s) : Follows s₀ (stackAccess i op x s) := h.stackSend.stackSend.rowActivate

protected theorem Follows.homeHit {i off} (h : Follows s₀ s) : Follows s₀ (homeHit i off s).2 := by
  unfold homeHit
  split
  · split
    · exact h.wrapR.cacheTouch
    · exact h.wrapR
  · exact h

protected theorem Follows.homeFill {i off} (h : Follows s₀ s) : Follows s₀ (homeFill i off s) := .ite h.cacheAlloc h

protected theorem Follows.homeLoad {h'} (h : Follows s₀ s) : Follows s₀ (homeLoad h' s).2 :=
  .ite₂ h.homeHit (h.homeHit.stackAccess.bind fun h => .ite₂ h.satR h.homeFill)

protected theorem Follows.dirNote {i line q} (h : Follows s₀ s) : Follows s₀ (dirNote i line q s).2 := by
  unfold dirNote
  dsimp only
  split
  · exact h.updSlice.setDir
  · split
    · exact h.updSlice.setDir
    · split
      · exact h.updSlice
      · exact h.updSlice.satR.bind fun h => .ite₂ h.sendInvs.setDir h.sendInvs

protected theorem Follows.storeLine {h' a bs} (h : Follows s₀ s) : Follows s₀ (storeLine h' a bs s) := h.putDram.stackAccess.frame.frame.twinWrote

protected theorem Follows.writeLine {h' a whole merge p} (h : Follows s₀ s) : Follows s₀ (writeLine h' a whole merge p s).2 :=
  (Follows.ite h.homeHit h.homeHit.stackAccess).bind fun h => .ite₂ h.satR.sliceErr (.ite₂ h.satR.sliceErr h.storeLine.dirWrite)

protected theorem Follows.writeTile {h' a bs} (h : Follows s₀ s) : Follows s₀ (writeTile h' a bs s).2 :=
  h.putDram.frame.foldl₂' fun _ _ h => by exact h.homeHit.stackAccess.frame.twinWrote.dirWrite

protected theorem Follows.dropStage {i tile} (h : Follows s₀ s) : Follows s₀ (dropStage i tile s) := by
  unfold dropStage
  dsimp only
  split
  · exact h
  · exact h.updSlice.satR.foldS fun _ _ h => h.sliceErr.respond

protected theorem Follows.finishStage {h' f t} (h : Follows s₀ s) : Follows s₀ (finishStage h' f t s).2 := by
  unfold finishStage
  dsimp only
  split
  · exact (h.updSlice.satR.foldS fun _ _ h => h.sliceErr.respond).sliceErr
  · exact h.updSlice.writeTile.foldl₂' fun _ _ h => by split; exacts [h.updSlice, .ite₂ h h.respond]

protected theorem Follows.stageBlock {h' f} (h : Follows s₀ s) : Follows s₀ (stageBlock h' f s).2 := by
  unfold stageBlock
  dsimp only
  split
  · exact .ite₂ h.updSlice h.sliceErr
  · exact .ite₂ h.dropStage.sliceErr (.ite₂ h.sliceErr (.ite₂ h.finishStage h.updSlice))

protected theorem Follows.homeRead {f h'} (h : Follows s₀ s) : Follows s₀ (homeRead f h' s).2 := by
  unfold homeRead
  dsimp only
  split
  · exact ((Follows.ite₂ h.dirNote h).of_snd ‹_›).updSlice
  · exact .ite₂ ((Follows.ite₂ h.dirNote h).of_snd ‹_›).wrapR.homeHit ((Follows.ite₂ h.dirNote h).of_snd
      ‹_›).wrapR.homeHit.stackAccess.updSlice

protected theorem Follows.homeWrite {f h'} (h : Follows s₀ s) : Follows s₀ (homeWrite f h' s).2 := by
  unfold homeWrite
  dsimp only
  split
  · exact h.wrapR.stageBlock
  · split
    · exact h.wrapR.satR.sliceErr
    · split
      · split
        · exact h.wrapR.setStage
        · exact h.updSlice
        · exact h.wrapR.ringRefuse.ptnFaultOf
      · split
        · exact h.wrapR.writeLine.of_snd ‹_›
        · split
          · exact (h.wrapR.writeLine.of_snd ‹_›).updSlice
          · exact h.wrapR.writeLine.of_snd ‹_›

protected theorem Follows.homedReq {held f} (h : Follows s₀ s) : Follows s₀ (homedReq held f s).2 := by
  unfold homedReq
  split
  · exact h.frame
  · split
    · exact h.sliceErr
    · exact h.ptnFaultOf
    · exact .ite₂ h.updSlice (.ite₂ h.homeRead h.homeWrite)

/-- The address map that the function matches on becomes a variable first (`Sound.ringRefuse` says why). -/

protected theorem Follows.windowReq {f} (h : Follows s₀ s) : Follows s₀ (windowReq f s).2 := by
  suffices key : ∀ g, g = windowReq → Follows s₀ (g f s).2 from key _ rfl
  rintro _ e
  delta windowReq at e
  obtain ⟨site, e₁⟩ := exists_eq' (a' := windowSite)
  rw [e₁] at e
  subst e
  dsimp only
  split
  · exact h
  · exact .ite₂ h.frame (.ite₂ h h.setCore)

protected theorem Follows.accErr {kind a} (h : Follows s₀ s) : Follows s₀ (accErr kind a s) := .ite h h.firstR.setQ

protected theorem Follows.localReq {held f} (h : Follows s₀ s) : Follows s₀ (localReq held f s).2 := by
  unfold localReq
  split
  · exact h.frame
  · split
    · split
      · exact h.homedReq
      · exact h.windowReq
      · exact h.accErr
      · exact h
    · exact h

protected theorem Follows.answer {f r} (h : Follows s₀ r.2) : Follows s₀ (answer f r) := by
  unfold answer
  split
  · exact .ite h.respond h.respond
  · exact h.respond
  · exact h

protected theorem Follows.proxyLook {i d a} (h : Follows s₀ s) : Follows s₀ (proxyLook i d a s).2 := by
  unfold proxyLook
  split
  · split
    · exact h.wrapR.cacheTouch
    · exact h.wrapR
  · exact h

protected theorem Follows.proxyFill {d a data g tile noFill} (h : Follows s₀ s) : Follows s₀ (proxyFill d a data g tile noFill s) := by
  unfold proxyFill
  split
  · exact h
  · exact .ite h.satR (.ite h.cacheAlloc h)

protected theorem Follows.proxyDrop {d a} (h : Follows s₀ s) : Follows s₀ (proxyDrop d a s) := by
  unfold proxyDrop
  split
  · exact h
  · split
    · exact h.cacheDrop
    · exact h

protected theorem Follows.farReq {f} (h : Follows s₀ s) : Follows s₀ (farReq f s) := by
  unfold farReq
  dsimp only
  split
  · split
    · exact h.frame
    · exact h.ptnFaultOf.respond
    · split
      · split
        · exact (h.proxyLook.of_snd ‹_›).respond
        · have h := h.proxyLook.of_snd ‹_›
          exact .ite h.frame.postFlit.frame h.frame.postFlit.respond
      · exact .ite h.proxyDrop.frame.postFlit.frame h.proxyDrop.frame.postFlit.respond
  · exact .ite h.postFlit h.postFlit.respond

protected theorem Follows.headerOk {f} (h : Follows s₀ s) : Follows s₀ (headerOk f s).2 := .ite₂ h (.ite₂ h.satR h.satR.firstR.namedAlarm)
protected theorem Follows.serveReq {f} (h : Follows s₀ s) : Follows s₀ (serveReq f s) := .ite h.localReq.answer h.farReq
protected theorem Follows.reqFlit {f} (h : Follows s₀ s) : Follows s₀ (reqFlit f s) := .ite h.headerOk.serveReq h.headerOk
protected theorem Follows.retry {fs} (h : Follows s₀ s) : Follows s₀ (retry fs s) := h.foldS fun _ _ h => h.localReq.answer
protected theorem Follows.lineFree {i line} (h : Follows s₀ s) : Follows s₀ (lineFree i line s) := h.updSlice.retry
protected theorem Follows.releaseHeld {pg} (h : Follows s₀ s) : Follows s₀ (releaseHeld pg s) := h.frame.foldS fun _ _ h => h.serveReq

protected theorem Follows.retryRings (h : Follows s₀ s) : Follows s₀ (retryRings s) :=
  h.foldS fun _ _ h => h.foldS fun _ _ h => h.satFree.collectBusy.lineFree

protected theorem Follows.ackLine {i line q} (h : Follows s₀ s) : Follows s₀ (ackLine i line q s) :=
  h.updSlice.foldS fun _ _ h =>
    (by split; exacts [h.setDir.bind fun h => Follows.lineFree (by split; exacts [h.updSlice, h.respond]), h.setDir.retry.lineFree, h])

protected theorem Follows.stackAcks {i} (h : Follows s₀ s) : Follows s₀ (stackAcks i s) := .ite h (h.updSlice.foldS fun _ _ h => h.respond)

protected theorem Follows.memoryLost {d} (h : Follows s₀ s) : Follows s₀ (memoryLost d s) :=
  (h.foldS fun _ _ h => h.cacheDropIf).bind fun h => .ite (h.frame.foldS fun _ _ h => h.foldS fun _ _ h => h.ackLine) h

protected theorem Follows.cohnOp {d} (h : Follows s₀ s) : Follows s₀ (cohnOp d s) := h.foldS fun _ _ h => h.cacheDropIf

protected theorem Follows.sliceRetired {i} (h : Follows s₀ s) : Follows s₀ (sliceRetired i s) :=
  h.frame.setR.bind fun h => .ite (h.foldS fun _ _ h => .ite h h.post) h

protected theorem Follows.invOp {f} (h : Follows s₀ s) : Follows s₀ (invOp f s) :=
  .ite (Follows.bind (by split; exacts [h.headerOk.wrapR, h.headerOk]) fun h => h.proxyDrop.frame.postFlit) h.headerOk

protected theorem Follows.iackOp {f} (h : Follows s₀ s) : Follows s₀ (iackOp f s) := by
  unfold iackOp
  dsimp only
  split
  · split
    · exact h.headerOk.ackLine
    · exact h.headerOk
  · exact h.headerOk

protected theorem Follows.takeStackRead {i} (h : Follows s₀ s) : Follows s₀ (takeStackRead i s).2 := by
  unfold takeStackRead
  dsimp only
  split
  · exact h.updSlice
  · exact h

protected theorem Follows.peerAck {i} (h : Follows s₀ s) : Follows s₀ (peerAck i s) := by
  unfold peerAck
  dsimp only
  split
  · exact .ite h.setSlice.post h
  · exact h

protected theorem Follows.stackTimeoutOp {i} (h : Follows s₀ s) : Follows s₀ (stackTimeoutOp i s) := by
  unfold stackTimeoutOp
  split
  · exact (h.takeStackRead.of_snd ‹_›).sliceErr.respond.lineFree.peerAck
  · exact h.takeStackRead.of_snd ‹_›

/-! ### Move engines -/

protected theorem Follows.noteReject {c a len} (h : Follows s₀ s) : Follows s₀ (noteReject c a len s) := by
  unfold noteReject
  extract_lets s₁
  have h₁ : Follows s₀ s₁ := by
    unfold s₁
    split
    · exact h.accErr
    · exact h
  split
  · split
    · refine .ite ?_ h₁
      split
      · exact h₁.sliceErr
      · exact h₁
    · exact h₁
  · exact h₁

protected theorem Follows.peakClear {c} (h : Follows s₀ s) : Follows s₀ (peakClear c s) := .ite h h.frame
protected theorem Follows.peakAt {c n m} (h : Follows s₀ s) : Follows s₀ (peakAt c n m s) := h.setR.frame
protected theorem Follows.opAdd {o} (h : Follows s₀ s) : Follows s₀ (opAdd o s) := h.frame.bind fun h => .ite h.peakAt h
protected theorem Follows.localPeak {c n} (h : Follows s₀ s) : Follows s₀ (localPeak c n s) := .ite h h.fresh.peakAt

protected theorem Follows.opGo {o f} (h : Follows s₀ s) : Follows s₀ (opGo o f s).2 := by
  unfold opGo
  split
  · exact h.opAdd.send
  · exact h.opAdd.send
  · split
    · split
      · exact h.opAdd.localReq.answer
      · split
        · exact h.localReq.of_snd ‹_›
        · exact h.localReq.of_snd ‹_›
        · exact (h.localReq.of_snd ‹_›).opAdd
    · exact .ite₂ (.ite h.lkgDiscard h) h.opAdd.postFlit

protected theorem Follows.opIssue {o f} (h : Follows s₀ s) : Follows s₀ (opIssue o f s).2 := .ite₂ h.frame h.opGo

protected theorem Follows.readBlock {c a} (h : Follows s₀ s) : Follows s₀ (readBlock c a s).2 := by
  suffices key : ∀ g, g = readBlock → Follows s₀ (g c a s).2 from key _ rfl
  intro g e
  delta readBlock at e
  obtain ⟨site, e₁⟩ := exists_eq' (a' := windowSite)
  obtain ⟨home, e₂⟩ := exists_eq' (a' := homeOf)
  obtain ⟨area, e₃⟩ := exists_eq' (a' := areaOf)
  rw [e₁, e₂, e₃] at e
  subst e
  dsimp only
  split
  · exact h
  · split
    · split
      · exact h.sliceErr
      · exact h
      · exact .ite₂ h.wrapR.homeLoad h.wrapR.homeLoad.sliceErr
    · split <;> exact h
    · exact h

protected theorem Follows.writeBlock {c kind a bs} (h : Follows s₀ s) : Follows s₀ (writeBlock c kind a bs s).2 := by
  unfold writeBlock
  dsimp only
  split
  · exact h.frame.opGo
  · exact h.frame.opIssue

protected theorem Follows.writeWholeTile {c kind a bs} (h : Follows s₀ s) : Follows s₀ (writeWholeTile c kind a bs s).2 := by
  unfold writeWholeTile
  dsimp only
  split
  · exact h
  · split
    · exact h.foldl₂' fun _ _ h => by exact h.writeBlock
    · split
      · exact h.sliceErr
      · exact h
      · exact h.dropStage.wrapR.writeTile.foldl₂' fun _ _ h => (by split; exacts [h.frame, h.frame.opAdd.updSlice])

protected theorem Follows.jobFail {c e serial reason a} (h : Follows s₀ s) : Follows s₀ (jobFail c e serial reason a s) := by
  unfold jobFail
  dsimp only
  split
  · exact h
  · exact h.setMover.bind fun h => (Follows.ite h h.firstR.setQ).ptnFaultOf

protected theorem Follows.wrNote {c e serial a r} (h : Follows s₀ r.2) : Follows s₀ (wrNote c e serial a r) := by
  unfold wrNote
  split
  · exact h
  · exact h.jobFail
  · exact h.setMover

protected theorem Follows.digestPiece {c a g} (h : Follows s₀ s) : Follows s₀ (digestPiece c a g s) := by
  unfold digestPiece
  split
  · exact .ite h.twinDigest h
  · exact h

protected theorem Follows.writePiece {c e serial a bs} (h : Follows s₀ s) : Follows s₀ (writePiece c e serial a bs s) := by
  unfold writePiece
  dsimp only
  split
  · exact h.jobFail
  · exact h.digestPiece.writeBlock.wrNote
  · exact (Follows.ite h.frame.proxyDrop h.frame).digestPiece.bind fun h => (Follows.ite₂ h h.opIssue).wrNote

protected theorem Follows.writeRow {c e serial a bs} (h : Follows s₀ s) : Follows s₀ (writeRow c e serial a bs s) :=
  h.localPeak.foldS fun _ _ h =>
    (by split; exacts [.ite (.ite ((h.foldS fun _ _ h => h.digestPiece).writeWholeTile.foldS fun _ _ h => h.wrNote) h) h.writePiece, h.writePiece])

protected theorem Follows.writeScript {c e j bs} (h : Follows s₀ s) : Follows s₀ (writeScript c e j bs s) := by
  unfold writeScript
  dsimp only
  split
  · exact h.jobFail
  · exact h.foldS fun _ _ h => h.updCore

protected theorem Follows.sendMcast {c e j bs} (h : Follows s₀ s) : Follows s₀ (sendMcast c e j bs s) :=
  .ite h.jobFail ((h.frame.foldS fun _ _ h => h.opAdd).foldS fun _ _ h => h.send).setMover

protected theorem Follows.sendRed {c e j bs} (h : Follows s₀ s) : Follows s₀ (sendRed c e j bs s) := by
  unfold sendRed
  dsimp only
  split
  · exact h.jobFail
  · exact .ite h.jobFail (Follows.bind (by split; exacts [h.updPtn, h]) fun h => h.foldS fun _ _ h => h.frame.digestPiece.opIssue.setMover)

protected theorem Follows.rowRead {c e j row bs} (h : Follows s₀ s) : Follows s₀ (rowRead c e j row bs s) := by
  unfold rowRead
  split
  · exact h.writeRow
  · exact h.writeScript
  · exact h.sendMcast
  · exact h.sendRed
  · exact h.sendRed
  · exact h

protected theorem Follows.glazeNote {c good} (h : Follows s₀ s) : Follows s₀ (glazeNote c good s) := .ite h h.ptnFaultOf

protected theorem Follows.readPiece {c kind p} (h : Follows s₀ s) : Follows s₀ (readPiece c kind p s).2 := by
  unfold readPiece
  dsimp only
  split
  · exact h
  · split
    · exact h.frame.opIssue
    · split
      · exact (h.readBlock.of_snd ‹_›).glazeNote
      · exact h.readBlock.of_snd ‹_›
  next d l _ =>
    have hl : Follows s₀ (if proxied s d l then
        (match proxyOf s l with | none => (none, true, s) | some i => ((proxyLook i d l s).1, false, (proxyLook i d l s).2))
      else (none, false, s)).2.2 := .ite₃ (by split; exacts [h, h.proxyLook]) h
    split
    · exact h
    · split
      · exact hl.of_snd₂ ‹_›
      · exact .ite₂ (hl.of_snd₂ ‹_›) (hl.of_snd₂ ‹_›).glazeNote
      · split <;> exact (hl.of_snd₂ ‹_›).frame.opIssue.of_snd ‹_›

protected theorem Follows.readRow {c e j row} (h : Follows s₀ s) : Follows s₀ (readRow c e j row s).2 := by
  refine (h.localPeak.foldl₄ fun p a h => ?_).bind fun h => .ite₂ h.setMover (.ite₂ h.rowRead h.setMover)
  obtain ⟨ok, bs, m, t⟩ := p
  cases ok with
  | false => exact h
  | true =>
    dsimp only
    split
    · exact (Follows.readPiece h).of_snd ‹_›
    · exact (Follows.readPiece h).of_snd ‹_›
    · exact ((Follows.readPiece h).of_snd ‹_›).jobFail

protected theorem Follows.rowCheck {c e j row} (h : Follows s₀ s) : Follows s₀ (rowCheck c e j row s).2 :=
  .ite₂ h.noteReject.jobFail (.ite₂ h.noteReject.jobFail (.ite₂ h.jobFail (.ite₂ h.jobFail h)))

protected theorem Follows.runRows {c e j l} (h : Follows s₀ s) : Follows s₀ (runRows c e j l s) := by
  induction l generalizing s with
  | nil => exact h
  | cons r t ih =>
    exact h.rowCheck.bind fun h =>
      .ite (.ite (h.writeRow.bind fun h => .ite h (ih h)) (h.readRow.bind fun h => .ite (ih h) h)) h

protected theorem Follows.takeDesc {k c e} (h : Follows s₀ s) : Follows s₀ (takeDesc k c e s) := by
  unfold takeDesc
  dsimp only
  split
  · exact .ite h.setMover.runRows h
  · exact h

protected theorem Follows.completeDesc {c e bad} (h : Follows s₀ s) : Follows s₀ (completeDesc c e bad s) := by
  unfold completeDesc
  dsimp only
  split
  · exact .ite (h.setMover.wrapR.bind fun h => (Follows.ite h.satR h).bind fun h =>
      .ite h ((Follows.ite h.raiseSig h).bind fun h => .ite (by split; exacts [h.coreArrive, h]) h)) h
  · exact h

protected theorem Follows.movAbort {c} (h : Follows s₀ s) : Follows s₀ (movAbort c s) :=
  h.updCore.frame.foldS fun _ _ h => h.setMover.bind fun h => .ite h h.satR.wrapR

protected theorem Follows.descErr {c x at_} (h : Follows s₀ s) : Follows s₀ (descErr c x at_ s) := h.firstR.fault

protected theorem Follows.xOn {c pg f} (h : Follows s₀ s) (hf : ∀ s, Follows s₀ s → Follows s₀ (f s)) : Follows s₀ (xOn c pg f s) :=
  .ite (hf _ h) h.ptnFaultOf

protected theorem Follows.xsetaAt {c x ar sreg i} (h : Follows s₀ s) : Follows s₀ (xsetaAt c x ar sreg i s) :=
  h.xOn fun _ h => .ite h.updCore h.fault

protected theorem Follows.xsetaiAt {c x ar off i} (h : Follows s₀ s) : Follows s₀ (xsetaiAt c x ar off i s) :=
  h.xOn fun _ h => h.updCore

protected theorem Follows.xqAt {c x ar post n op i} (h : Follows s₀ s) : Follows s₀ (xqAt c x ar post n op i s) :=
  h.xOn fun _ h => .ite h.fault (.ite h.holdOp h.updCore)

protected theorem Follows.xqDone {c r} (h : Follows s₀ s) : Follows s₀ (xqDone c r s) := by
  unfold xqDone
  dsimp only
  split
  · exact h.descErr.updCore
  · exact h.setMover

protected theorem Follows.xOp {c x op f} (h : Follows s₀ s) (hf : ∀ a0 s, Follows s₀ s → Follows s₀ (f a0 s)) : Follows s₀ (xOp c x op f s) :=
  .ite h (.ite h.holdOp (hf _ _ h))

/-! ### Matrix arrays -/

protected theorem Follows.updArr {c m f} (h : Follows s₀ s) : Follows s₀ (updArr c m f s) := h.setArr

protected theorem Follows.mOp {c m f} (h : Follows s₀ s) (hf : ∀ a0 s, Follows s₀ s → Follows s₀ (f a0 s)) : Follows s₀ (mOp c m f s) :=
  .ite h (.ite (hf _ _ h) h.ptnFaultOf)

protected theorem Follows.modeAt {c m v} (h : Follows s₀ s) : Follows s₀ (modeAt c m v s) := .ite h.updArr h.cascade
protected theorem Follows.setaAt {c m ar sreg i} (h : Follows s₀ s) : Follows s₀ (setaAt c m ar sreg i s) := .ite h.updArr h.cascade
protected theorem Follows.setcntAt {c m sreg i} (h : Follows s₀ s) : Follows s₀ (setcntAt c m sreg i s) := .ite h.updArr h.cascade

protected theorem Follows.mismatch {c m col half split idx serial} (h : Follows s₀ s) : Follows s₀ (mismatch c m col half split idx serial s) :=
  h.setR.bind fun h => (Follows.ite h h.firstR.setR).updArr.ptnFaultOf

protected theorem Follows.checkSkips {c m n} (h : Follows s₀ s) : Follows s₀ (checkSkips c m n s) := .ite h h.satR.setR

protected theorem Follows.arrRead {c rank m i a len} (h : Follows s₀ s) : Follows s₀ (arrRead c rank m i a len s).2 :=
  .ite₂ h (h.verifySpad.updCore)

protected theorem Follows.loaderRead {c m n i j} (h : Follows s₀ s) : Follows s₀ (loaderRead c m n i j s).2 :=
  h.foldl₂' fun _ _ h => by exact h.arrRead.arrRead

protected theorem Follows.loadCycle {c m a i} (h : Follows s₀ s) : Follows s₀ (loadCycle c m a i s) :=
  (h.foldl₂' fun _ _ h => by exact .ite₂ h.loaderRead h).updArr

protected theorem Follows.combAdd {c m r k w' serial p} (h : Follows s₀ s) : Follows s₀ (combAdd c m r k w' serial p s) :=
  h.setArr.bind fun h => (Follows.ite h h.setR).bind fun h => .ite h.mismatch h

protected theorem Follows.combRound {c m r k e f o serial} (h : Follows s₀ s) : Follows s₀ (combRound c m r k e f o serial s).2 :=
  (Follows.ite h.mismatch h).bind fun h => .ite₂ h.setR (.ite h h.setR)

protected theorem Follows.combTake {c m r j out} (h : Follows s₀ s) : Follows s₀ (combTake c m r j out s) :=
  (Follows.ite h.updArr h).foldS fun _ _ h => h.combAdd

protected theorem Follows.combGive {c m r i j} (h : Follows s₀ s) : Follows s₀ (combGive c m r i j s).2 := by
  unfold combGive
  dsimp only
  refine Follows.updCore (Follows.updArr (Follows.foldl₂' ?_ fun _ _ h => by exact h.combRound))
  exact .ite₂ h.arrRead.arrRead h.arrRead

protected theorem Follows.feedRow {c m r i j} (h : Follows s₀ s) : Follows s₀ (feedRow c m r i j s).2 :=
  h.foldl₂' fun _ _ h => by exact h.arrRead.arrRead

protected theorem Follows.checkTake {c m col half split idx serial res} (h : Follows s₀ s) :
    Follows s₀ (checkTake c m col half split idx serial res s) :=
  .ite h.checkSkips (.ite h.mismatch h)

protected theorem Follows.sumHalf {c m r i j h' q dst bytes scales} (h : Follows s₀ s) : Follows s₀ (sumHalf c m r i j h' q dst bytes scales s).2 :=
  (Follows.ite h.setR h).checkTake.bind fun h => .ite₂ (.ite h.arrRead h.arrRead.setR) h

protected theorem Follows.sumRow {c m r i j} (h : Follows s₀ s) : Follows s₀ (sumRow c m r i j s).2 := h.foldl₂' fun _ _ h => by exact h.sumHalf

protected theorem Follows.checkCols {c m j} (h : Follows s₀ s) : Follows s₀ (checkCols c m j s) :=
  .ite h (h.foldS fun _ _ h => h.foldS fun _ _ h => h.checkTake)

protected theorem Follows.drainRow {c m r i j} (h : Follows s₀ s) : Follows s₀ (drainRow c m r i j s).2 :=
  h.foldS fun _ _ h => h.updArr.bind fun h => .ite h ((Follows.ite h h.setR).updCore)

protected theorem Follows.eachStream {c m f} (h : Follows s₀ s) (hf : ∀ a0 s, Follows s₀ s → Follows s₀ (f a0 s).2) : Follows s₀ (eachStream c m f s) :=
  (h.foldl₂' fun _ _ h => by exact hf _ _ h).updArr

protected theorem Follows.onRow {d a f j} (h : Follows s₀ s) (hf : ∀ a0 a1 s, Follows s₀ s → Follows s₀ (f a0 a1 s).2) :
    Follows s₀ (onRow d a f j s).2 := by
  unfold onRow
  split
  · exact hf _ _ _ h
  · exact h

protected theorem Follows.arrCycle {c m a i} (h : Follows s₀ s) : Follows s₀ (arrCycle c m a i s) :=
  .ite h ((((((h.loadCycle.eachStream fun _ _ h => h.onRow fun _ _ _ h => h.feedRow).eachStream fun _ _ h => h.onRow fun _ _ _ h =>
    h.sumRow).eachStream fun _ _ h => .ite h.checkCols h).eachStream fun _ _ h =>
    (by split; exacts [h.onRow fun _ _ _ h => h.combTake, h.onRow fun _ _ _ h => h.drainRow])).eachStream fun _ _ h =>
    (by split; exacts [h.onRow fun _ _ _ h => h.combGive, h])).updArr)

protected theorem Follows.arrHold {c m h' i} (h : Follows s₀ s) : Follows s₀ (arrHold c m h' i s) :=
  .ite h (h.foldS fun _ _ h => h.arrCycle).updArr.raiseDenied

protected theorem Follows.mLdAt {c m wgt i} (h : Follows s₀ s) : Follows s₀ (mLdAt c m wgt i s) := .ite h.arrHold.updArr h.cascade

protected theorem Follows.streamAt {c m sw ld acc ckr src dst wgt count i} (h : Follows s₀ s) :
    Follows s₀ (streamAt c m sw ld acc ckr src dst wgt count i s) :=
  .ite h.cascade (h.arrHold.bind fun h => (Follows.ite h.satR h).updArr.bind fun h => .ite h.updArr h)

protected theorem Follows.bistRecord {pg rows cols} (h : Follows s₀ s) : Follows s₀ (bistRecord pg rows cols s) := h.setR.setR.setR
protected theorem Follows.bistStart {pg} (h : Follows s₀ s) : Follows s₀ (bistStart pg s) := .ite h.setF.frame h.ignoredRws

protected theorem Follows.bistFinish {pg rows cols} (h : Follows s₀ s) : Follows s₀ (bistFinish pg rows cols s) :=
  .ite (h.frame.bistRecord.bind fun h => .ite h h.fault) h

protected theorem Follows.arrReset {c m} (h : Follows s₀ s) : Follows s₀ (arrReset c m s) := h.setArr.setR

/-! ### Vector engines -/

protected theorem Follows.vecSettle {c i} (h : Follows s₀ s) : Follows s₀ (vecSettle c i s) := .ite h h.setVec.setR
protected theorem Follows.updVec {c f} (h : Follows s₀ s) : Follows s₀ (updVec c f s) := h.setVec
protected theorem Follows.vCause {c slot op bits} (h : Follows s₀ s) : Follows s₀ (vCause c slot op bits s) := h.firstR.cascade

protected theorem Follows.vOp {c slot op causes f} (h : Follows s₀ s) (hf : ∀ a0 s, Follows s₀ s → Follows s₀ (f a0 s)) :
    Follows s₀ (vOp c slot op causes f s) :=
  .ite h (.ite (.ite h.vCause (hf _ _ h)) h.ptnFaultOf)

protected theorem Follows.vabsAt {c f i} (h : Follows s₀ s) : Follows s₀ (vabsAt c f i s) := by
  unfold vabsAt
  dsimp only
  exact h.setVec

protected theorem Follows.vnegAt {c f i} (h : Follows s₀ s) : Follows s₀ (vnegAt c f i s) := by
  unfold vnegAt
  dsimp only
  exact h.setVec

protected theorem Follows.vrintAt {c f i} (h : Follows s₀ s) : Follows s₀ (vrintAt c f i s) := by
  unfold vrintAt
  dsimp only
  exact h.setVec

protected theorem Follows.vshlAt {c f i} (h : Follows s₀ s) : Follows s₀ (vshlAt c f i s) := by
  unfold vshlAt
  dsimp only
  exact h.setVec

protected theorem Follows.vshrAt {c f i} (h : Follows s₀ s) : Follows s₀ (vshrAt c f i s) := by
  unfold vshrAt
  dsimp only
  exact h.setVec

protected theorem Follows.vsraAt {c f i} (h : Follows s₀ s) : Follows s₀ (vsraAt c f i s) := by
  unfold vsraAt
  dsimp only
  exact h.setVec

protected theorem Follows.vmPost {c f} (h : Follows s₀ s) : Follows s₀ (vmPost c f s) := .ite h.updVec h
protected theorem Follows.vOor {c n} (h : Follows s₀ s) : Follows s₀ (vOor c n s) := .ite h h.satR
protected theorem Follows.vRead {c t a len} (h : Follows s₀ s) : Follows s₀ (vRead c t a len s) := h.verifySpad.updCore

protected theorem Follows.vldAt {c f i} (h : Follows s₀ s) : Follows s₀ (vldAt c f i s) :=
  Follows.bind (by split; exacts [h.setVec.vRead, h.setVec.vRead, ((h.setVec.updCore).foldS fun _ _ h => .ite h h.verifySpad).vOor]) fun h => h.vmPost

protected theorem Follows.vstAt {c f i} (h : Follows s₀ s) : Follows s₀ (vstAt c f i s) :=
  (h.updCore.updCore).updVec.vOor.vmPost

protected theorem Follows.vflagsAt {c f i} (h : Follows s₀ s) : Follows s₀ (vflagsAt c f i s) := h.updVec.bind fun h => .ite h.updVec.setR h
protected theorem Follows.vEmpties {c n} (h : Follows s₀ s) : Follows s₀ (vEmpties c n s) := .ite h h.satR
protected theorem Follows.vredAt {c f i} (h : Follows s₀ s) : Follows s₀ (vredAt c f i s) := h.setVec.vEmpties
protected theorem Follows.smxnAt {c f i} (h : Follows s₀ s) : Follows s₀ (smxnAt c f i s) := h.setVec.vEmpties
protected theorem Follows.vecReset {c} (h : Follows s₀ s) : Follows s₀ (vecReset c s) := h.setVec.setR
protected theorem Follows.vecClear {c} (h : Follows s₀ s) : Follows s₀ (vecClear c s) := h.updVec.setR

/-! ### Gather engines -/

protected theorem Follows.gqAt {c x ar post i} (h : Follows s₀ s) : Follows s₀ (gqAt c x ar post i s) :=
  h.xOn fun _ h => .ite h.fault (h.xOn fun _ h => .ite h.fault (.ite h.holdOp h.updCore))

protected theorem Follows.gqDone {c r} (h : Follows s₀ s) : Follows s₀ (gqDone c r s) := .ite h.setGth h.descErr.fault.updCore

protected theorem Follows.xStep {c t} (h : Follows s₀ s) : Follows s₀ (xStep c t s) :=
  (h.foldS fun _ _ h => (by split; exacts [h.updCore.verifySpad, h])).bind fun h => h.setCore.foldS
    fun _ _ h => .ite h.gqDone h.xqDone

protected theorem Follows.lineFetch {c kind k} (h : Follows s₀ s) : Follows s₀ (lineFetch c kind k s).2.2 := by
  unfold lineFetch
  dsimp only
  refine .ite₃ h.noteReject (.ite₃ h (.ite₃ h ?_))
  split <;> exact h.localPeak.readPiece.of_snd ‹_›

protected theorem Follows.sharedLine {c serial k} (h : Follows s₀ s) : Follows s₀ (sharedLine c serial k s).2 := by
  unfold sharedLine
  split
  · exact h
  · split
    · exact h
    · exact h
    · split
      · exact h
      · split
        · exact (h.lineFetch.of_snd₂ ‹_›).setGth
        · exact (h.lineFetch.of_snd₂ ‹_›).setGth
        · exact (h.lineFetch.of_snd₂ ‹_›).setGth
        · exact h.lineFetch.of_snd₂ ‹_›

protected theorem Follows.rowLine {c t k} (h : Follows s₀ s) : Follows s₀ (rowLine c t k s).2 := by
  unfold rowLine
  split
  · exact h
  · split
    · exact h
    · refine .ite₂ h ?_
      extract_lets upd
      have hu (f s) (h : Follows s₀ s) : Follows s₀ (upd f s) := by
        dsimp only [upd]
        split
        · exact h.setGth
        · exact h
      have hl := h.lineFetch (c := c) (kind := .gthRead c t k) (k := k)
      split
      next e => exact hu _ _ (hl.of_snd₂ e)
      next e => exact hl.of_snd₂ e
      next e => exact hu _ _ (hl.of_snd₂ e)
      next e => exact hl.of_snd₂ e

protected theorem Follows.gatherPieces {line l} (h : Follows s₀ s) (hline : ∀ k s, Follows s₀ s → Follows s₀ (line k s).2) :
    Follows s₀ (gatherPieces line l s).2 := by
  induction l generalizing s with
  | nil => exact h
  | cons p l ih =>
    unfold gatherPieces
    split
    next r t e =>
      have h := (hline _ _ h).of_snd e
      split
      · exact h
      · split
        next q u e' =>
          have h := (ih h).of_snd e'
          split <;> exact h

protected theorem Follows.sharedBytes {c serial a n} (h : Follows s₀ s) : Follows s₀ (sharedBytes c serial a n s).2 :=
  h.gatherPieces fun _ _ h => h.sharedLine

protected theorem Follows.rowBytes {c t a n} (h : Follows s₀ s) : Follows s₀ (rowBytes c t a n s).2 := h.gatherPieces fun _ _ h => h.rowLine

protected theorem Follows.gatherAhead {c d b} (h : Follows s₀ s) : Follows s₀ (gatherAhead c d b s) :=
  .ite h (h.sharedBytes.bind fun h => .ite h.sharedBytes h)

protected theorem Follows.gatherStart {c} (h : Follows s₀ s) : Follows s₀ (gatherStart c s) := by
  unfold gatherStart
  dsimp only
  split
  · exact .ite (h.setGth.bind fun h => .ite (h.foldS fun _ _ h => h.sharedBytes) h) h
  · exact h

protected theorem Follows.gatherErr {c bag reason} (h : Follows s₀ s) : Follows s₀ (gatherErr c bag reason s) := h.firstR.ptnFaultOf

protected theorem Follows.bagBounds {c t b lo hi} (h : Follows s₀ s) : Follows s₀ (bagBounds c t b lo hi s) :=
  .ite h.setGth.satR.setR h.setGth

protected theorem Follows.gatherIndex {c t d b} (h : Follows s₀ s) : Follows s₀ (gatherIndex c t d b s) := by
  unfold gatherIndex
  extract_lets w next _
  have hn (s) (h : Follows s₀ s) : Follows s₀ (next s) := by
    dsimp only [next]
    split
    · exact h.setGth
    · exact h
  have hs := h.sharedBytes (c := c) (serial := b.serial) (a := gIdx d + b.next * w) (n := w)
  split
  next e => exact hs.of_snd e
  next e => exact (hn _ (hs.of_snd e)).gatherErr
  next s₁ e =>
    have h₁ := hs.of_snd e
    refine .ite (hn _ h₁) (.ite (hn _ h₁).satR ?_)
    split
    next e =>
      have h₂ := Follows.of_snd (.ite₂ h₁.sharedBytes h₁) e
      split
      next e =>
        have h₃ := h₂.rowBytes.of_snd e
        split
        · exact (hn _ h₃).gatherErr
        · exact (hn _ h₃).gatherErr
        · exact h₃.setGth.wrapR
        · exact h₃

protected theorem Follows.gatherStep {c t} (h : Follows s₀ s) : Follows s₀ (gatherStep c t s) := by
  unfold gatherStep
  dsimp only
  split
  · exact h
  · split
    · exact h
    · split
      · exact h
      · split
        · exact h.gatherErr.bind fun h => .ite h.setGth h.setGth
        · split
          · exact .ite h.gatherAhead.gatherIndex h
          · split
            · split
              · exact h.sharedBytes.of_snd ‹_›
              · exact (h.sharedBytes.of_snd ‹_›).setGth.gatherErr
              · exact (h.sharedBytes.of_snd ‹_›).bagBounds
            · exact h.bagBounds

protected theorem Follows.raiseGroups {c n} (h : Follows s₀ s) : Follows s₀ (raiseGroups c n s) := by
  induction n generalizing s with
  | zero => exact h
  | succ n ih =>
    unfold raiseGroups
    dsimp only
    split
    · exact h
    · exact .ite (.ite (ih (by split; exacts [h.setGth, h.setGth.raiseSig])) h) (ih h.setGth)

protected theorem Follows.bagFinish {c t} (h : Follows s₀ s) : Follows s₀ (bagFinish c t s) := by
  unfold bagFinish
  dsimp only
  split
  · exact h
  · split
    · exact h
    · exact .ite (h.updCore.bind fun h => (Follows.ite h h.setR).wrapR.bind fun h =>
        (Follows.ite h.satR h).setGth.raiseGroups) h

protected theorem Follows.gthAbort {c} (h : Follows s₀ s) : Follows s₀ (gthAbort c s) := h.updCore.setGth.frame

/-! ### Network blocks -/

protected theorem Follows.rackTo {status k} (h : Follows s₀ s) : Follows s₀ (rackTo status k s) := .ite h.send h.postFlit

protected theorem Follows.unitNote {u bad} (h : Follows s₀ s) : Follows s₀ (unitNote u bad s) := by
  unfold unitNote
  split
  · exact h.frame
  · exact h

protected theorem Follows.opError {o} (h : Follows s₀ s) : Follows s₀ (opError o s) := by
  unfold opError
  dsimp only
  split
  · exact h.jobFail.setMover
  · exact h.jobFail.setMover
  · split
    · exact h.setGth
    · split
      · split
        · exact h.setGth.gatherStep
        · exact h.setGth
      · exact h
  · exact h.respond
  · exact h.foldS fun _ _ h => h.rackTo
  · exact h.jobFail.setMover
  · exact h.jobFail.setMover
  · exact h.unitNote
  · exact h.unitNote
  · exact h.send

protected theorem Follows.opDone {o} (h : Follows s₀ s) : Follows s₀ (opDone o s) := h.frame
protected theorem Follows.lateResponse {f} (h : Follows s₀ s) : Follows s₀ (lateResponse f s) := .ite h.satR h.satR
protected theorem Follows.fillFor {o f} (h : Follows s₀ s) : Follows s₀ (fillFor o f s) := .ite h.proxyFill h

protected theorem Follows.opData {o f} (h : Follows s₀ s) : Follows s₀ (opData o f s) := by
  unfold opData
  split
  · refine .ite h.opError ?_
    extract_lets s₁ _
    have h₁ : Follows s₀ s₁ := h.fillFor.glazeNote
    split
    · exact h₁
    · split
      · exact h₁.setMover
      · exact .ite h₁.setMover.rowRead h₁.setMover
  · extract_lets note s₁
    have hn (s) (h : Follows s₀ s) : Follows s₀ (note s) := .ite h h.fillFor.glazeNote
    refine .ite (hn _ h).setGth ?_
    split
    · exact h
    · have h₁ : Follows s₀ s₁ := hn _ h
      extract_lets
      split
      · exact h₁.setGth.gatherStep
      · exact h₁.setGth
  · exact h.fillFor.respond
  · refine .ite h.opError ?_
    split
    · exact h.frame.unitNote
    · exact h
  · exact h.opError

protected theorem Follows.opAck {o} (h : Follows s₀ s) : Follows s₀ (opAck o s) := by
  unfold opAck
  split
  · exact h.setMover
  · exact h.respond
  · exact h.unitNote
  · exact h.wrapR.foldS fun _ _ h => h.rackTo
  · exact h.opError

protected theorem Follows.opGrant {n} (h : Follows s₀ s) : Follows s₀ (opGrant n s) := by
  induction n generalizing s with
  | zero => exact h
  | succ n ih =>
    unfold opGrant
    split
    · exact h
    · refine ih ?_
      split
      · exact (h.frame.opGo.of_snd ‹_›).opAck
      · exact (h.frame.opGo.of_snd ‹_›).opError
      · exact h.frame.opGo.of_snd ‹_›

protected theorem Follows.opDrain (h : Follows s₀ s) : Follows s₀ (opDrain s) := h.opGrant

protected theorem Follows.responseOp {good f} (h : Follows s₀ s) (hgood : ∀ a0 a1 s, Follows s₀ s → Follows s₀ (good a0 a1 s)) :
    Follows s₀ (responseOp good f s) := by
  unfold responseOp
  dsimp only
  split
  · split
    · exact h.headerOk.lateResponse
    · exact h.headerOk.opDone.bind fun h => (Follows.ite (hgood _ _ _ h) h.opError).opDrain
  · exact h.headerOk

protected theorem Follows.rdataOp {f} (h : Follows s₀ s) : Follows s₀ (rdataOp f s) := h.responseOp fun _ _ _ h => h.opData
protected theorem Follows.wackOp {f} (h : Follows s₀ s) : Follows s₀ (wackOp f s) := h.responseOp fun _ _ _ h => h.opAck

protected theorem Follows.rackGood {o f} (h : Follows s₀ s) : Follows s₀ (rackGood o f s) := by
  unfold rackGood
  split
  · exact h.setMover
  · exact h.opAck
  · exact h.opError

protected theorem Follows.rackOp {f} (h : Follows s₀ s) : Follows s₀ (rackOp f s) := h.responseOp fun _ _ _ h => h.rackGood

protected theorem Follows.localTimeout {txn} (h : Follows s₀ s) : Follows s₀ (localTimeout txn s) := by
  unfold localTimeout
  dsimp only
  split
  · exact h
  · exact h.opDone.satR.firstR.opError.opDrain

protected theorem Follows.farTimeout {txn} (h : Follows s₀ s) : Follows s₀ (farTimeout txn s) := by
  unfold farTimeout
  split
  · exact h
  · exact h.opDone.satR.opError.opDrain

protected theorem Follows.opsLost {p} (h : Follows s₀ s) : Follows s₀ (opsLost p s) :=
  (h.foldS fun _ _ h => .ite h.opDone.opError h).frame.foldS fun _ _ h => h.opError

protected theorem Follows.maskCommit {v} (h : Follows s₀ s) : Follows s₀ (maskCommit v s) := .ite h h.frame

protected theorem Follows.mcWrite {n f} (h : Follows s₀ s) : Follows s₀ (mcWrite n f s).2 := by
  unfold mcWrite
  dsimp only
  split
  · exact h
  · exact .ite₂ h.updCore h

protected theorem Follows.mcMiss {k n} (h : Follows s₀ s) : Follows s₀ (mcMiss k n s) := by
  unfold mcMiss
  split
  · exact h
  · exact .ite h h.satR.frame

protected theorem Follows.mcDrop {k beneath} (h : Follows s₀ s) : Follows s₀ (mcDrop k beneath s) := by
  unfold mcDrop
  dsimp only
  split
  · exact h.satR.firstR.frame.foldS fun _ _ h => h.mcMiss
  · exact h

protected theorem Follows.mcHold {o beneath f} (h : Follows s₀ s) : Follows s₀ (mcHold o beneath f s) :=
  .ite h.mcDrop (h.frame.bind fun h => .ite h h.satR)

protected theorem Follows.mcTarget {blocked f n} (h : Follows s₀ s) : Follows s₀ (mcTarget blocked f n s) :=
  .ite h.mcHold (.ite h.mcWrite h.mcWrite.mcMiss)

protected theorem Follows.mcLeaf {blocked f leaf} (h : Follows s₀ s) : Follows s₀ (mcLeaf blocked f leaf s) := by
  unfold mcLeaf
  split
  · exact h
  · exact h.foldS fun _ _ h => h.mcTarget

protected theorem Follows.mcSpineGo {blocked f} (h : Follows s₀ s) : Follows s₀ (mcSpineGo blocked f s) := by
  unfold mcSpineGo
  split
  · exact h
  · exact h.foldS fun _ _ h => .ite h.mcLeaf h.mcHold

protected theorem Follows.mcSourceGo {blocked f} (h : Follows s₀ s) : Follows s₀ (mcSourceGo blocked f s) := by
  unfold mcSourceGo
  dsimp only
  split
  · exact h
  · exact Follows.bind (by split; exacts [h.mcLeaf, h]) fun h => .ite h (.ite h.mcSpineGo h.mcHold)

protected theorem Follows.mcRelease {blocked} (h : Follows s₀ s) : Follows s₀ (mcRelease blocked s) :=
  h.foldS fun _ _ h => .ite h (.ite h.frame.collectBusy.mcWrite h.frame.collectBusy.mcWrite.mcMiss)

protected theorem Follows.mcAdvance {blocked} (h : Follows s₀ s) : Follows s₀ (mcAdvance blocked s) :=
  ((h.foldS fun _ _ h => .ite h.frame.mcLeaf h).foldS fun _ _ h => .ite h.frame.mcSpineGo h).foldS fun _ _ h =>
    .ite h.frame.mcSourceGo h

protected theorem Follows.mcReport {f status missed} (h : Follows s₀ s) : Follows s₀ (mcReport f status missed s) := .ite h.send h.postFlit
protected theorem Follows.mcSettle (h : Follows s₀ s) : Follows s₀ (mcSettle s) := h.frame.foldS fun _ _ h => by split; exacts [h.mcReport, h]

protected theorem Follows.mcOp {f blocked} (h : Follows s₀ s) : Follows s₀ (mcOp f blocked s) := by
  unfold mcOp
  dsimp only
  split
  · split
    · exact h.headerOk.frame
    · split
      · exact h.headerOk.mcReport
      · split
        · exact Follows.bind (by split; exacts [h.headerOk, h.headerOk.frame.wrapR]) fun h => h.mcRelease.mcAdvance.mcSettle
        · exact Follows.bind (by split; exacts [h.headerOk, h.headerOk.frame.wrapR]) fun h => h.mcRelease.mcAdvance.bind fun h =>
            .ite h.mcSettle ((h.frame.foldS fun _ _ h => .ite h.mcMiss h).bind fun h => (Follows.ite h.mcSourceGo h.mcHold).mcSettle)
  · exact h.headerOk

protected theorem Follows.mcExpire {txn target} (h : Follows s₀ s) : Follows s₀ (mcExpire txn target s) := by
  unfold mcExpire
  dsimp only
  split
  · exact h
  · exact .ite h.frame.mcDrop.mcAdvance.mcSettle h

protected theorem Follows.mcrepOp {f} (h : Follows s₀ s) : Follows s₀ (mcrepOp f s) := by
  unfold mcrepOp
  dsimp only
  split
  · split
    · exact h.headerOk.lateResponse
    · split
      · split
        · exact h.headerOk.opDone.opError.opDrain
        · split
          · exact h.headerOk.opDone.opDrain
          · exact (h.headerOk.opDone.updCore).bind fun h => (Follows.ite h h.satR).setMover.opDrain
      · exact h.headerOk.opDone.opError.opDrain
  · exact h.headerOk

protected theorem Follows.rtabRead {tag} (h : Follows s₀ s) : Follows s₀ (rtabRead tag s).2 := by
  suffices key : ∀ g, g = rtabRead → Follows s₀ (g tag s).2 from key _ rfl
  intro g e
  delta rtabRead at e
  obtain ⟨home, e₂⟩ := exists_eq' (a' := homeOf)
  obtain ⟨base, e₃⟩ := exists_eq' (a' := rtabBase)
  rw [e₂, e₃] at e
  subst e
  dsimp only
  split
  · exact h
  · split
    · exact h.wrapR
    · split
      · exact h.wrapR
      · exact .ite₂ h.wrapR (Follows.frame (.ite₂ h.wrapR h.wrapR.fresh))

protected theorem Follows.redFinish {r} (h : Follows s₀ s) : Follows s₀ (redFinish r s) := by
  unfold redFinish
  dsimp only
  split
  · exact h.frame.setR
  · exact h.frame.setR.bind fun h => .ite h.frame.frame.send (.ite h.frame.postFlit.frame (h.frame.postFlit.foldS fun _ _ h =>
      h.rackTo))

protected theorem Follows.redStray {f grp} (h : Follows s₀ s) : Follows s₀ (redStray f grp s) := h.satR.firstR.rackTo
protected theorem Follows.redGlaze {p f} (h : Follows s₀ s) : Follows s₀ (redGlaze p f s) := .ite h h.cascade

protected theorem Follows.redArrive {f grp} (h : Follows s₀ s) : Follows s₀ (redArrive f grp s).2 := by
  unfold redArrive
  split
  next e' t e =>
    have h := h.rtabRead.of_snd e
    split
    · exact h.redStray
    · refine .ite₂ h.satR (.ite₂ h.redStray ?_)
      extract_lets lv a die rank sp counts here parked fits
      clear_value lv a die rank sp counts here parked fits
      split
      · exact .ite₂ h (.ite₂ h.redStray (.ite₂ (h.frame.bind fun h => (Follows.ite h.redFinish h).redGlaze) h))
      · exact .ite₂ h.redStray (.ite₂ h (h.frame.setR.bind fun h => (Follows.ite h.redFinish h).redGlaze))

protected theorem Follows.redPass (h : Follows s₀ s) : Follows s₀ (redPass s) :=
  h.frame.foldl₂' fun _ _ h => by exact .ite₂ h.frame (.ite₂ h.redArrive h.redArrive.frame)

protected theorem Follows.redPasses {n} (h : Follows s₀ s) : Follows s₀ (redPasses n s) := by
  induction n generalizing s with
  | zero => exact h
  | succ n ih => exact h.redPass.bind fun h => .ite (ih h) h

protected theorem Follows.redOp {f grp} (h : Follows s₀ s) : Follows s₀ (redOp f grp s) :=
  .ite (.ite h.headerOk.frame (.ite h.headerOk.rackTo h.headerOk.frame.redPasses)) h.headerOk

protected theorem Follows.netbRunning (h : Follows s₀ s) : Follows s₀ (netbRunning s) := (h.frame.foldS fun _ _ h => h.mcOp).redPasses

/-! ### Leaven -/

protected theorem Follows.lvnNote {i} (h : Follows s₀ s) : Follows s₀ (lvnNote i s) := h.setR.setR
protected theorem Follows.lvnStage {i h' f origins} (h : Follows s₀ s) : Follows s₀ (lvnStage i h' f origins s) := h.updSlice.lvnNote.respond

protected theorem Follows.lvnTake {i h' f origins} (h : Follows s₀ s) : Follows s₀ (lvnTake i h' f origins s) := by
  unfold lvnTake
  dsimp only
  split
  · exact h.updSlice
  · split
    · exact h.respond
    · split
      · exact h.lvnStage
      · exact h.updSlice

protected theorem Follows.lvnKeep {f origins} (h : Follows s₀ s) : Follows s₀ (lvnKeep f origins s) := by
  unfold lvnKeep
  split
  · exact h.updSlice
  · exact h.respond

protected theorem Follows.lvnOp {f origins} (h : Follows s₀ s) : Follows s₀ (lvnOp f origins s) := by
  unfold lvnOp
  dsimp only
  split
  · split
    · exact h.headerOk.lvnKeep
    · split
      · exact h.headerOk.respond
      · split
        · exact h.headerOk.sliceErr.respond
        · exact h.headerOk.respond
        · exact h.headerOk.lvnTake
  · exact h.headerOk

protected theorem Follows.lvnWaited {i} (h : Follows s₀ s) : Follows s₀ (lvnWaited i s) := .ite h.satFree.collectBusy h

protected theorem Follows.lvnQueueOp {i} (h : Follows s₀ s) : Follows s₀ (lvnQueueOp i s) := by
  unfold lvnQueueOp
  dsimp only
  split
  · exact h
  · split
    · exact h
    · split
      · exact h.updSlice.lvnWaited.respond
      · split
        · exact h.updSlice.lvnWaited.respond
        · split
          · exact h.updSlice.lvnWaited.lvnStage
          · exact h

protected theorem Follows.lvnCommitAt {d p q i} (h : Follows s₀ s) : Follows s₀ (lvnCommitAt d p q i s) := .ite h h.setSlice.lvnNote
protected theorem Follows.lvnDropRec {i r} (h : Follows s₀ s) : Follows s₀ (lvnDropRec i r s) := h.satR.bind fun h => .ite h.satR.namedAlarm h

protected theorem Follows.lvnDropIf {i t} (h : Follows s₀ s) : Follows s₀ (lvnDropIf i t s) :=
  .ite h (h.updSlice.foldS fun _ _ h => h.lvnDropRec).lvnNote

protected theorem Follows.lvnCommitOp {d p q} (h : Follows s₀ s) : Follows s₀ (lvnCommitOp d p q s) := h.foldS fun _ _ h => h.lvnCommitAt
protected theorem Follows.lvnDiscardOp {d p} (h : Follows s₀ s) : Follows s₀ (lvnDiscardOp d p s) := h.foldS fun _ _ h => h.lvnDropIf
protected theorem Follows.lvnDieLost {d} (h : Follows s₀ s) : Follows s₀ (lvnDieLost d s) := h.foldS fun _ _ h => h.lvnDropIf

protected theorem Follows.lvnAbort {i} (h : Follows s₀ s) : Follows s₀ (lvnAbort i s) :=
  h.setSlice.bind fun h => ((Follows.ite h h.satR).lvnNote.foldS fun _ _ h => h.respond).foldS fun _ _ h => h.lineFree

protected theorem Follows.lvnStart {i} (h : Follows s₀ s) : Follows s₀ (lvnStart i s) := h.foldS fun _ _ h => h.cacheDrop

protected theorem Follows.lvnRead {a} (h : Follows s₀ s) : Follows s₀ (lvnRead a s).2 := by
  unfold lvnRead
  dsimp only
  split
  · exact h
  · exact .ite₂ h.homeLoad h.homeLoad

protected theorem Follows.lvnReads {n a} (h : Follows s₀ s) : Follows s₀ (lvnReads n a s).2 := by
  induction n generalizing a s with
  | zero => exact h
  | succ n ih =>
    unfold lvnReads
    split
    · exact h.lvnRead.of_snd ‹_›
    · have h := h.lvnRead.of_snd ‹_›
      split <;> exact (ih h).of_snd ‹_›

protected theorem Follows.lvnWrite {i owner q a bs} (h : Follows s₀ s) : Follows s₀ (lvnWrite i owner q a bs s) := by
  unfold lvnWrite
  dsimp only
  split
  · exact h
  · exact .ite h (h.putDram.stackAccess.frame.frame.twinWrote.dirSweep.bind fun h => .ite h.shipSend h)

protected theorem Follows.lvnWrites {i owner q a bs} (h : Follows s₀ s) : Follows s₀ (lvnWrites i owner q a bs s) := h.foldS fun _ _ h => h.lvnWrite

protected theorem Follows.curveRead {g} (h : Follows s₀ s) : Follows s₀ (curveRead g s).2 := by
  unfold curveRead
  dsimp only
  split
  · exact h
  · split
    · exact h
    · split <;> exact (h.lvnReads.of_snd ‹_›)

protected theorem Follows.lvnErr {i reason r} (h : Follows s₀ s) : Follows s₀ (lvnErr i reason r s) := (Follows.ite h h.firstR.setQ).satR.namedAlarm

protected theorem Follows.lvnMerge {i acc l} (h : Follows s₀ s) : Follows s₀ (lvnMerge i acc l s).2 := by
  induction l generalizing acc s with
  | nil => exact h
  | cons r t ih =>
    unfold lvnMerge
    split
    · split
      · exact .ite₂ (ih h.satR.setR) (ih h)
      · exact ih h
    · exact ih h.lvnErr

protected theorem Follows.applyElem {i g pts q r} (h : Follows s₀ s) : Follows s₀ (applyElem i g pts q r s) := by
  unfold applyElem
  dsimp only
  split
  · exact (h.lvnRead.of_snd ‹_›).lvnErr
  · have h := h.lvnRead.of_snd ‹_›
    split
    next e => exact (Follows.of_snd (.ite₂ h.lvnRead h) e).lvnErr
    next e =>
      have h := Follows.of_snd (.ite₂ h.lvnRead h) e
      split
      next e => exact (Follows.of_snd (.ite₂ h.lvnRead h) e).lvnErr
      next e =>
        exact (Follows.of_snd (.ite₂ h.lvnRead h) e).lvnWrite.bind fun h =>
          (Follows.ite h.lvnWrite h).bind fun h => (Follows.ite h.lvnWrite h).wrapR

protected theorem Follows.pageParams {i l} (h : Follows s₀ s) : Follows s₀ (pageParams i l s).2 := by
  induction l generalizing s with
  | nil => exact h
  | cons r t ih =>
    unfold pageParams
    split
    · exact ih (h.lvnRead.of_snd ‹_›).lvnErr
    · exact ih (h.lvnRead.of_snd ‹_›)

protected theorem Follows.pageStep {i g pts q gb pb r0 rs} (h : Follows s₀ s) : Follows s₀ (pageStep i g pts q gb pb r0 rs s) :=
  h.lvnWrites.bind fun h => (Follows.ite h.satR.setR (.ite h.satR.setR h)).bind fun h => (Follows.ite h.lvnWrites h).foldS fun _ _ h =>
    h.lvnWrite.wrapR

protected theorem Follows.applyPage {i g pts q rs} (h : Follows s₀ s) : Follows s₀ (applyPage i g pts q rs s) := by
  unfold applyPage
  dsimp only
  split
  · exact h
  · split
    · exact (h.lvnReads.of_snd ‹_›).foldS fun _ _ h => h.lvnErr
    · split
      · exact ((h.lvnReads.of_snd ‹_›).lvnReads.of_snd ‹_›).foldS fun _ _ h => h.lvnErr
      · have h := h.lvnReads.of_snd ‹_›
        exact .ite (h.lvnReads.of_snd ‹_›).pageParams (h.lvnReads.of_snd ‹_›).pageParams.pageStep

protected theorem Follows.lvnScreen {i g curve l} (h : Follows s₀ s) : Follows s₀ (lvnScreen i g curve l s).2 := by
  induction l generalizing s with
  | nil => exact h
  | cons r t ih =>
    unfold lvnScreen
    dsimp only
    refine ih (.ite₂ h.lvnErr (.ite₂ h.lvnErr (.ite₂ h.lvnErr (.ite₂ ?_ (.ite₂ ?_ h)))))
    · dsimp only
      exact h.lvnErr
    · dsimp only
      exact h.satR.setR

protected theorem Follows.lvnGroupApply {i grp rs} (h : Follows s₀ s) : Follows s₀ (lvnGroupApply i grp rs s) := by
  unfold lvnGroupApply
  dsimp only
  split
  · exact (h.lvnRead.of_snd ‹_›).foldS fun _ _ h => h.lvnErr
  · have h := h.lvnRead.of_snd ‹_›
    exact .ite (h.foldS fun _ _ h => h.lvnErr) (.ite h.satR (.ite (h.curveRead.lvnScreen.foldS fun _ _ h => h.applyPage)
      (h.curveRead.lvnScreen.foldS fun _ _ h => h.applyElem)))

protected theorem Follows.batchOp {i} (h : Follows s₀ s) : Follows s₀ (batchOp i s) := by
  unfold batchOp
  dsimp only
  split
  · exact h
  · exact .ite ((h.lvnMerge.foldS fun _ _ h => h.lvnGroupApply).updSlice.lvnNote.setR.foldS fun _ _ h => h.lineFree) h

/-! ### Media -/

protected theorem Follows.refOnce {i} (h : Follows s₀ s) : Follows s₀ (refOnce i s) := h.stackSend.updSlice

protected theorem Follows.refMany {i n} (h : Follows s₀ s) : Follows s₀ (refMany i n s) := by
  induction n generalizing s with
  | zero => exact h
  | succ n ih => exact ih h.refOnce

protected theorem Follows.refreshOp {i} (h : Follows s₀ s) : Follows s₀ (refreshOp i s) := .ite h.refOnce h
protected theorem Follows.sysRead {i} (h : Follows s₀ s) : Follows s₀ (sysRead i s) := h.updSlice.stackSend.stackSend
protected theorem Follows.takeover {i} (h : Follows s₀ s) : Follows s₀ (takeover i s) := .ite h.updSlice.refMany.sysRead.namedAlarm.satR h
protected theorem Follows.refWatchOp {i} (h : Follows s₀ s) : Follows s₀ (refWatchOp i s) := .ite h.takeover h
protected theorem Follows.refNoticeOp {i} (h : Follows s₀ s) : Follows s₀ (refNoticeOp i s) := .ite h.updSlice h
protected theorem Follows.peerArmOp {i} (h : Follows s₀ s) : Follows s₀ (peerArmOp i s) := .ite h.updSlice h

protected theorem Follows.managerWaitOp {i notices} (h : Follows s₀ s) : Follows s₀ (managerWaitOp i notices s) := by
  unfold managerWaitOp
  dsimp only
  split
  · split
    · split
      · exact h.setSlice.post
      · exact h.setSlice
    · exact h.setSlice.updSlice.refOnce
  · exact h

protected theorem Follows.claimOp {i} (h : Follows s₀ s) : Follows s₀ (claimOp i s) := by
  unfold claimOp
  dsimp only
  split
  · split
    · exact h.setSlice.post
    · exact h.setSlice
  · exact h

protected theorem Follows.releaseOp {i pos} (h : Follows s₀ s) : Follows s₀ (releaseOp i pos s) := .ite h.updSlice.refOnce.namedAlarm h

protected theorem Follows.tempOp {i t} (h : Follows s₀ s) : Follows s₀ (tempOp i t s) :=
  .ite (h.setR.updSlice.bind fun h => .ite h.updSlice.namedAlarm (.ite h.updSlice h)) h

protected theorem Follows.trrReqOp {r} (h : Follows s₀ s) : Follows s₀ (trrReqOp r s) := .ite h.stackSend h

protected theorem Follows.retireNext {i} (h : Follows s₀ s) : Follows s₀ (retireNext i s) := by
  unfold retireNext
  dsimp only
  split
  · exact h.setSlice.post
  · exact h

protected theorem Follows.retireRow {i bank row} (h : Follows s₀ s) : Follows s₀ (retireRow i bank row s) := .ite h.updSlice.retireNext h

protected theorem Follows.foundUe {i x} (h : Follows s₀ s) : Follows s₀ (foundUe i x s) := by
  unfold foundUe
  split
  · exact h.retireRow
  · split
    · exact h.post
    · exact h

protected theorem Follows.countCe {i x} (h : Follows s₀ s) : Follows s₀ (countCe i x s) := h.updSlice.bind fun h => .ite h.retireRow h

protected theorem Follows.foundCe {i x} (h : Follows s₀ s) : Follows s₀ (foundCe i x s) := by
  unfold foundCe
  dsimp only
  split
  · exact h.satR.countCe
  · split
    · exact h.satR.post
    · exact h.satR

protected theorem Follows.rowReportOp {i x uncorr} (h : Follows s₀ s) : Follows s₀ (rowReportOp i x uncorr s) := .ite (.ite h.retireRow h.countCe) h
protected theorem Follows.remapBeginOp {r} (h : Follows s₀ s) : Follows s₀ (remapBeginOp r s) := .ite h.updSlice.peerAck h

protected theorem Follows.remapAckOp {r bad} (h : Follows s₀ s) : Follows s₀ (remapAckOp r bad s) := by
  unfold remapAckOp
  dsimp only
  split
  · exact .ite ((h.stackSend.stackSend.foldS fun _ _ h => h.stackSend.stackSend).frame.updSlice.setR.namedAlarm.bind fun h =>
      (Follows.ite h.updSlice.namedAlarm h).post.retireNext) h
  · exact h

protected theorem Follows.remapDoneOp {r} (h : Follows s₀ s) : Follows s₀ (remapDoneOp r s) := by
  unfold remapDoneOp
  dsimp only
  split
  · split
    · exact h.updSlice
    · exact h.updSlice.foldS fun _ _ h => h.lineFree
  · exact h

protected theorem Follows.freshLine (h : Follows s₀ s) : Follows s₀ (freshLine s).2 := h.foldl₂' fun _ _ h => by exact h.fresh

protected theorem Follows.stackRdOp {i bad} (h : Follows s₀ s) : Follows s₀ (stackRdOp i bad s) := by
  unfold stackRdOp
  dsimp only
  split
  · exact h.takeStackRead.of_snd ‹_›
  · split
    · exact (h.takeStackRead.of_snd ‹_›).sliceErr.respond.lineFree
    · have h := h.takeStackRead.of_snd ‹_›
      exact (Follows.ite (Follows.ite h h.frame).satR.foundUe.sliceErr.respond (.ite (Follows.ite h h.foundCe.stackAccess).homeFill.respond
        h.freshLine.respond)).lineFree.peerAck

protected theorem Follows.scrubOp {i bad} (h : Follows s₀ s) : Follows s₀ (scrubOp i bad s) := by
  unfold scrubOp
  dsimp only
  split
  · exact h
  · exact .ite (h.stackAccess.bind fun h => (Follows.ite (Follows.ite h.frame h).satR.retireRow (.ite h (h.satR.countCe.bind fun h =>
      .ite h.stackAccess h.post))).updSlice.setR.bind fun h => .ite h.wrapR h) h

protected theorem Follows.scrubFixOp {i x} (h : Follows s₀ s) : Follows s₀ (scrubFixOp i x s) := .ite h.stackAccess.stackAccess h

protected theorem Follows.keepNote {i j} (h : Follows s₀ s) : Follows s₀ (keepNote i j s) :=
  (Follows.ite h.namedAlarm h).frame.foldS fun _ _ h => .ite h.setR.setR h

protected theorem Follows.keepIssue {i j who l w'} (h : Follows s₀ s) : Follows s₀ (keepIssue i j who l w' s).2 := by
  unfold keepIssue
  dsimp only
  split
  · exact h.stackSend.updSlice
  · exact .ite₂ h h.frame.keepNote.frame.stackSend.updSlice

protected theorem Follows.putRecord {i j n r} (h : Follows s₀ s) : Follows s₀ (putRecord i j n r s).2 :=
  h.foldS fun _ _ h => h.putDram.foldS fun _ _ h => h.stackAccess.frame.frame.twinWrote.dirSweep

protected theorem Follows.keepErrs {i n} (h : Follows s₀ s) : Follows s₀ (keepErrs i n s) := .ite h h.satR.updSlice

protected theorem Follows.keepNext {i n} (h : Follows s₀ s) : Follows s₀ (keepNext i n s) := by
  induction n generalizing s with
  | zero => exact h
  | succ n ih =>
    unfold keepNext
    dsimp only
    split
    · exact .ite h (.ite (.ite h.setSlice.keepIssue h.setSlice.post)
        (h.setSlice.keepErrs.bind fun h => .ite (h.keepIssue.bind fun h => .ite h (ih h.keepErrs)) h.post))
    · exact h

protected theorem Follows.keepStart {i load} (h : Follows s₀ s) : Follows s₀ (keepStart i load s) := by
  unfold keepStart
  dsimp only
  split
  · exact h
  · exact .ite (.ite (.ite h.setF h.setF) h.setR.updSlice.keepNext) h

protected theorem Follows.keepBack {i r} (h : Follows s₀ s) : Follows s₀ (keepBack i r s) := by
  unfold keepBack
  dsimp only
  split
  · exact ((Follows.keepErrs (by split; exacts [h.putRecord, h])).setF).keepNext
  · exact h

protected theorem Follows.keepTake {i wr} (h : Follows s₀ s) : Follows s₀ (keepTake i wr s).2 := by
  unfold keepTake
  dsimp only
  split
  · exact h.updSlice
  · exact h

protected theorem Follows.keepRecordOp {i bits mask} (h : Follows s₀ s) : Follows s₀ (keepRecordOp i bits mask s) := by
  unfold keepRecordOp
  dsimp only
  split
  · split
    · have h := h.keepTake.of_snd ‹_›
      exact Follows.bind (by split; exacts [h.keepIssue, h, .ite h.keepIssue h]) fun h => h.updSlice
    · have h := h.keepTake.of_snd ‹_›
      exact Follows.bind (by split; exacts [h.keepIssue, h, .ite h.keepIssue h]) fun h => .ite h.fault h
    · have h := h.keepTake.of_snd ‹_›
      exact Follows.bind (by split; exacts [h.keepIssue, h, .ite h.keepIssue h]) fun h => h.keepBack
    · have h := h.keepTake.of_snd ‹_›
      exact Follows.bind (by split; exacts [h.keepIssue, h, .ite h.keepIssue h]) fun h => h.post
    · split
      · exact (h.keepTake.of_snd ‹_›).keepIssue
      · exact h.keepTake.of_snd ‹_›
      · exact .ite (h.keepTake.of_snd ‹_›).keepIssue (h.keepTake.of_snd ‹_›)
  · exact h.keepTake.of_snd ‹_›

protected theorem Follows.verifyOp {i ok} (h : Follows s₀ s) : Follows s₀ (verifyOp i ok s) := by
  unfold verifyOp
  dsimp only
  split
  · split
    · split
      · exact (h.keepTake.of_snd ‹_›).keepBack
      · exact (h.keepTake.of_snd ‹_›).post
      · exact h.keepTake.of_snd ‹_›
      · exact h.keepTake.of_snd ‹_›
    · split
      · split
        · have h := h.keepTake.of_snd ‹_›
          exact (Follows.ite h.keepErrs h).keepBack
        · have h := h.keepTake.of_snd ‹_›
          exact (Follows.ite h.keepErrs h).post
        · have h := h.keepTake.of_snd ‹_›
          exact .ite h.keepErrs h
        · have h := h.keepTake.of_snd ‹_›
          exact .ite h.keepErrs h
      · split
        · exact (h.keepTake.of_snd ‹_›).frame.keepNote.keepIssue
        · split
          · exact (h.keepTake.of_snd ‹_›).frame.keepNote.bind fun h => (Follows.ite h.keepIssue.keepErrs h.keepIssue).keepBack
          · exact (h.keepTake.of_snd ‹_›).frame.keepNote.bind fun h => (Follows.ite h.keepIssue.keepErrs h.keepIssue).post
          · exact (h.keepTake.of_snd ‹_›).frame.keepNote.bind fun h => .ite h.keepIssue.keepErrs h.keepIssue
          · exact (h.keepTake.of_snd ‹_›).frame.keepNote.bind fun h => .ite h.keepIssue.keepErrs h.keepIssue
  · exact h.keepTake.of_snd ‹_›

protected theorem Follows.keepReqOp {i write blk r} (h : Follows s₀ s) : Follows s₀ (keepReqOp i write blk r s) := by
  unfold keepReqOp
  split
  · exact .ite h.keepIssue h
  · exact h

protected theorem Follows.keepDataOp {i blk r} (h : Follows s₀ s) : Follows s₀ (keepDataOp i blk r s) := by
  unfold keepDataOp
  split
  · exact .ite h.keepBack h
  · exact h

protected theorem Follows.keepDoneOp {i} (h : Follows s₀ s) : Follows s₀ (keepDoneOp i s) := by
  unfold keepDoneOp
  dsimp only
  split
  · exact .ite h.setSlice.setR h
  · exact h

protected theorem Follows.ageOp {i t} (h : Follows s₀ s) : Follows s₀ (ageOp i t s) := by
  unfold ageOp
  dsimp only
  split
  · exact h
  · exact .ite (h.frame.foldS fun _ _ h => h.keepIssue) h

protected theorem Follows.medRunning {i} (h : Follows s₀ s) : Follows s₀ (medRunning i s) :=
  Follows.bind (by split; exacts [h.updSlice.keepNote, h.updSlice, h]) fun h => h.keepNext

/-! ### Scalar commands -/

protected theorem Follows.scalarOp {c q op f} (h : Follows s₀ s) (hf : ∀ a0 s, Follows s₀ s → Follows s₀ (f a0 s)) :
    Follows s₀ (scalarOp c q op f s) := by
  unfold scalarOp
  dsimp only
  split
  · exact .ite h.holdOp (hf _ _ h)
  · exact .ite (.ite h (.ite h.updCore (hf _ _ h))) h

protected theorem Follows.ldAt {c q d a imm i} (h : Follows s₀ s) : Follows s₀ (ldAt c q d a imm i s) :=
  .ite h.updCore h.coreFault

protected theorem Follows.stAt {c q d a imm i} (h : Follows s₀ s) : Follows s₀ (stAt c q d a imm i s) :=
  .ite h.updCore h.coreFault

protected theorem Follows.mfsAt {c q d index i} (h : Follows s₀ s) : Follows s₀ (mfsAt c q d index i s) := by
  unfold mfsAt
  split
  · exact h.updCore
  · exact h.coreFault

protected theorem Follows.movxAt {c q d a i} (h : Follows s₀ s) : Follows s₀ (movxAt c q d a i s) := .ite h.updCore h.coreFault
protected theorem Follows.waitOn {c sig need i op} (h : Follows s₀ s) : Follows s₀ (waitOn c sig need i op s) := .ite h.setR h.holdOp

protected theorem Follows.waitlAt {c pd sig count a i} (h : Follows s₀ s) : Follows s₀ (waitlAt c pd sig count a i s) :=
  .ite h.updCore (.ite (h.setR.updCore) (.ite h.updCore h.holdOp))

protected theorem Follows.waitlExpire {c} (h : Follows s₀ s) : Follows s₀ (waitlExpire c s) := by
  unfold waitlExpire
  dsimp only
  split
  · exact h.updCore
  · exact h

protected theorem Follows.brAt {c p neg target i} (h : Follows s₀ s) : Follows s₀ (brAt c p neg target i s) :=
  .ite h.coreFault (.ite (.ite h.coreFault h.setCore) h)

protected theorem Follows.loopAt {c stop n} (h : Follows s₀ s) : Follows s₀ (loopAt c stop n s) := by
  unfold loopAt
  dsimp only
  split
  · exact h.coreFault
  · split
    · exact h.coreFault
    · split
      · exact h.setCore
      · exact h.setCore

protected theorem Follows.guardAt {c p neg slots i} (h : Follows s₀ s) : Follows s₀ (guardAt c p neg slots i s) := .ite h h.setCore
protected theorem Follows.solEndAt {c i} (h : Follows s₀ s) : Follows s₀ (solEndAt c i s) := .ite h.coreFault h.updCore
protected theorem Follows.seqOp {c f} (h : Follows s₀ s) (hf : ∀ a0 s, Follows s₀ s → Follows s₀ (f a0 s)) : Follows s₀ (seqOp c f s) := hf _ _ h

/-! ### Vector commands -/

/-! ### Slots -/

protected theorem Follows.scalarDo {op i} (h : Follows s₀ s) : Follows s₀ (scalarDo op i s) := by
  cases op with
  | wait => exact h.waitOn
  | waitr => exact h.waitOn
  | waitl => exact h.waitlAt
  | tests | add | sub | and | or | xor | shl | shr | sra | mul | min | max | minu | maxu | addi | lis | lih | shli | shri | cmpeq | cmplt | cmpltu
  | pand | por | pxor =>
    exact h.updCore
  | ld => exact h.ldAt
  | st => exact h.stAt
  | mfs => exact h.mfsAt
  | movx => exact h.movxAt
  | _ => exact h

protected theorem Follows.xDo {op i} (h : Follows s₀ s) : Follows s₀ (xDo op i s) := by
  unfold xDo
  split
  · exact h.xsetaAt
  · exact h.xsetaiAt
  · exact h.xqAt
  · exact h.xqAt
  · exact h.gqAt
  · exact h

protected theorem Follows.mDo {op} (h : Follows s₀ s) : Follows s₀ (mDo op s) := by
  unfold mDo
  split
  · exact h.mOp fun _ _ h => h.modeAt
  · exact h.mOp fun _ _ h => h.setaAt
  · exact h.mOp fun _ _ h => h.updArr
  · exact h.mOp fun _ _ h => h.setcntAt
  · exact h.mOp fun _ _ h => h.mLdAt
  · exact h.mOp fun _ _ h => h.streamAt
  · exact h

protected theorem Follows.vDo {op} (h : Follows s₀ s) : Follows s₀ (vDo op s) := by
  cases op with
  | vadd | vsub | vmul | vfma | vfms | vfnma | vmin | vmax | vcmp | vsel | vmov | vand | vor | vxor | vcvt | vunpk | mand | mor | mxor | mandn
  | vlis | vbcs | vcmpr | vexpd | exp2 | log2 | rcp | rsqrt | tanh | smxa =>
    exact h.vOp fun _ _ h => h.setVec
  | vabs => exact h.vOp fun _ _ h => h.vabsAt
  | vneg => exact h.vOp fun _ _ h => h.vnegAt
  | vrint => exact h.vOp fun _ _ h => h.vrintAt
  | vshl => exact h.vOp fun _ _ h => h.vshlAt
  | vshr => exact h.vOp fun _ _ h => h.vshrAt
  | vsra => exact h.vOp fun _ _ h => h.vsraAt
  | vld => exact h.vOp fun _ _ h => h.vldAt
  | vst => exact h.vOp fun _ _ h => h.vstAt
  | vseta | vsetai => exact h.vOp fun _ _ h => h.updVec
  | vred => exact h.vOp fun _ _ h => h.vredAt
  | mcnt => exact h.vOp fun _ _ h => h.updVec
  | vflags => exact h.vOp fun _ _ h => h.vflagsAt
  | smxn => exact h.vOp fun _ _ h => h.smxnAt
  | _ => exact h

/-! ### The command stream -/

protected theorem Follows.barOp {c b f} (h : Follows s₀ s) (hf : ∀ a0 a1 s, Follows s₀ s → Follows s₀ (f a0 a1 s)) : Follows s₀ (barOp c b f s) := by
  unfold barOp
  split
  · exact .ite (hf _ _ _ h) h.cascade
  · exact h

protected theorem Follows.arrOpAt {c bar bad i} (h : Follows s₀ s) : Follows s₀ (arrOpAt c bar bad i s) := h.barOp fun _ _ _ h => h.coreArrive
protected theorem Follows.waitbAt {c bar i} (h : Follows s₀ s) : Follows s₀ (waitbAt c bar i s) := h.barOp fun _ _ _ h => .ite h h.holdOp
protected theorem Follows.arwtAt {c bar bad i} (h : Follows s₀ s) : Follows s₀ (arwtAt c bar bad i s) := h.barOp fun _ _ _ h => h.coreArrive.waitbAt

protected theorem Follows.testbAt {c pd bar i} (h : Follows s₀ s) : Follows s₀ (testbAt c pd bar i s) :=
  h.barOp fun _ _ _ h => h.updCore

protected theorem Follows.cOp {c op f} (h : Follows s₀ s) (hf : ∀ a0 s, Follows s₀ s → Follows s₀ (f a0 s)) : Follows s₀ (cOp c op f s) := by
  unfold cOp
  dsimp only
  split
  · exact h
  · split
    · split
      · exact h.arrOpAt
      · exact h.barOp fun _ _ _ h => h.coreArrive.holdOp
      · exact h.holdOp
    · exact hf _ _ h

protected theorem Follows.cDo {op i} (h : Follows s₀ s) : Follows s₀ (cDo op i s) := by
  unfold cDo
  split
  · exact h.arrOpAt
  · exact h.waitbAt
  · exact h.arwtAt
  · exact h.testbAt
  · exact h.raiseSig
  · exact h

protected theorem Follows.solEndIssue {c i} (h : Follows s₀ s) : Follows s₀ (solEndIssue c i s) :=
  h.solEndAt.foldS fun _ _ h => .ite h.updArr.cascade h

protected theorem Follows.seqDo {op i} (h : Follows s₀ s) : Follows s₀ (seqDo op i s) := by
  unfold seqDo
  split
  · exact h.brAt
  · exact h.loopAt
  · exact h.loopAt
  · exact h.guardAt
  · exact h.solEndIssue
  · exact h

protected theorem Follows.sSlot {c op} (h : Follows s₀ s) : Follows s₀ (sSlot c op s) := .ite h.seqDo (h.scalarOp fun _ _ h => h.scalarDo)

protected theorem Follows.mSlot {c m w'} (h : Follows s₀ s) : Follows s₀ (mSlot c m w' s) := by
  unfold mSlot
  split
  · exact h.mDo
  · exact h.mOp fun _ _ h => h.cascade

protected theorem Follows.vSlot {c v1 w'} (h : Follows s₀ s) : Follows s₀ (vSlot c v1 w' s) := by
  unfold vSlot
  split
  · exact h.vDo
  · exact h.vOp fun _ _ h => h

protected theorem Follows.xSlot {c x w'} (h : Follows s₀ s) : Follows s₀ (xSlot c x w' s) := by
  unfold xSlot
  split
  · exact h.xOp fun _ _ h => h
  · exact h.xOp fun _ _ h => h.xDo
  · exact .ite h (h.xOn fun _ h => h.fault)

protected theorem Follows.performSlots {c k} (h : Follows s₀ s) : Follows s₀ (performSlots c k s) :=
  (h.elim fun _ => .ite h h.sSlot).bind fun h => (Follows.ite h.mSlot.mSlot h).bind fun h =>
    Follows.bind (.ite (h.elim fun _ => h.scalarOp fun _ _ h => h.scalarDo) h.vSlot.vSlot) fun h =>
      h.xSlot.xSlot.bind fun h => h.elim fun _ => .ite h.sSlot h

protected theorem Follows.performC {c bad k} (h : Follows s₀ s) : Follows s₀ (performC c bad k s) := by
  unfold performC
  split
  · exact h.cOp fun _ _ h => h
  · exact h.cOp fun _ _ h => h.cDo
  · exact h

protected theorem Follows.settleCore {c} (h : Follows s₀ s) : Follows s₀ (settleCore c s) := h.updCore.vecSettle
protected theorem Follows.unitCycle {c t} (h : Follows s₀ s) : Follows s₀ (unitCycle c t s) := (h.foldS fun _ _ h => h.arrCycle).xStep
protected theorem Follows.stepCore {c} (h : Follows s₀ s) : Follows s₀ (stepCore c s) := h.bankStep.updCore.settleCore.unitCycle

protected theorem Follows.issueCore {bad c} (h : Follows s₀ s) : Follows s₀ (issueCore bad c s) := by
  unfold issueCore
  dsimp only
  split
  · exact h
  · split
    · exact h.stepCore
    · split
      · exact (h.coreFault.updCore).stepCore
      · exact (h.performSlots.updCore).performC.stepCore

protected theorem Follows.issueOp {p bad} (h : Follows s₀ s) : Follows s₀ (issueOp p bad s) := by
  unfold issueOp
  dsimp only
  split
  · split
    · exact (h.foldS fun _ _ h => h.issueCore).updPtn
    · exact h.foldS fun _ _ h => h.issueCore
  · exact h

protected theorem Follows.heldDo {u i op} (h : Follows s₀ s) : Follows s₀ (heldDo u i op s) := .ite h.scalarDo (.ite h.cDo h.xDo)

protected theorem Follows.heldCycle {inOrder hs i c} (h : Follows s₀ s) : Follows s₀ (heldCycle inOrder hs i c s) :=
  h.foldS fun _ _ h => h.foldS fun _ _ h => .ite h.updCore h.heldDo

protected theorem Follows.heldPass {inOrder p} (h : Follows s₀ s) : Follows s₀ (heldPass inOrder p s) :=
  (h.foldS fun _ _ h => h.updCore).foldS fun _ _ h => h.foldS fun _ _ h => h.heldCycle.xStep

protected theorem Follows.lowerOp {p} (h : Follows s₀ s) : Follows s₀ (lowerOp p s) :=
  .ite ((h.foldS fun _ _ h => h.updCore).heldPass.bind fun h => .ite (h.unfreeze.foldS fun _ _ h => h.settleCore).trace h) h

protected theorem Follows.drainCore {c} (h : Follows s₀ s) : Follows s₀ (drainCore c s) :=
  ((h.foldS fun _ _ h => h.unitCycle).updCore).vecSettle

protected theorem Follows.parkOp {c} (h : Follows s₀ s) : Follows s₀ (parkOp c s) := .ite h.setCore.drainCore h

protected theorem Follows.solEndOp {c} (h : Follows s₀ s) : Follows s₀ (solEndOp c s) :=
  .ite h (.ite h.solEndAt (h.solEndIssue.updCore))

/-! ### Power -/

protected theorem Follows.incidentShut (h : Follows s₀ s) : Follows s₀ (incidentShut s) := .ite h.setF.setF.frame h

/-- What a reset leaves where the Annals are not kept (`chipReset`). -/
def cleared (s : State) : State :=
  { State.reset with
    pending := s.pending, outbox := s.outbox, freeCtr := s.freeCtr, fuses := s.fuses, tripped := s.tripped, dram := s.dram, badGlz := s.badGlz,
    ueLines := s.ueLines, keepPools := s.keepPools, keepRecs := s.keepRecs, recCopies := s.recCopies }

/-- A reset leaves the queue, the fuses, what was sent and the counter of free values. -/

protected theorem Follows.chipReset {keep} (h : Follows s₀ s) : Follows s₀ (chipReset keep s) :=
  Follows.bind (t := chipReset keep s) (s := cleared s) h fun h => .ite (h.frame.foldS fun _ _ h => h.setR).setF.setF h

protected theorem Follows.noteSlow (h : Follows s₀ s) : Follows s₀ (noteSlow s) := h.foldS fun _ _ h => .ite h.updPtn h
protected theorem Follows.clockGo (h : Follows s₀ s) : Follows s₀ (clockGo s) := .ite h (h.foldS fun _ _ h => h.updPtn)
protected theorem Follows.applyTargets (h : Follows s₀ s) : Follows s₀ (applyTargets s) := h.frame.setF.noteSlow.clockGo

protected theorem Follows.planOp {body} (h : Follows s₀ s) : Follows s₀ (planOp body s) :=
  .ite h.satR (h.frame.setQ.setF.trace.bind fun h => .ite h.applyTargets (.ite (.ite h h.setF.namedAlarm) h.applyTargets))

protected theorem Follows.slewDoneOp {south} (h : Follows s₀ s) : Follows s₀ (slewDoneOp south s) := by
  unfold slewDoneOp
  dsimp only
  split
  · exact h
  · exact h.setF.frame.clockGo

protected theorem Follows.heldApplyOp (h : Follows s₀ s) : Follows s₀ (heldApplyOp s) := .ite h.applyTargets h
protected theorem Follows.railFault {bad} (h : Follows s₀ s) : Follows s₀ (railFault bad s) := (Follows.ite h h.alarmFull).chipReset

protected theorem Follows.powerSampleOp {rails p16} (h : Follows s₀ s) : Follows s₀ (powerSampleOp rails p16 s) :=
  .ite h ((h.foldS fun _ _ h => h.setR).bind fun h => .ite h.railFault (h.frame.setF.bind fun h => .ite h.setR.noteSlow h))

protected theorem Follows.governorOp {mean} (h : Follows s₀ s) : Follows s₀ (governorOp mean s) :=
  h.setR.bind fun h => .ite (.ite h.frame.namedAlarm h.frame) (h.frame.bind fun h => .ite h.setR h)

protected theorem Follows.thermTrip (h : Follows s₀ s) : Follows s₀ (thermTrip s) := h.frame.setF.fault.alarmFull.frame

protected theorem Follows.thermalOp {temps} (h : Follows s₀ s) : Follows s₀ (thermalOp temps s) :=
  .ite h ((h.foldS fun _ _ h => h.setF).setR.setF.bind fun h => (Follows.ite (h.setR.noteSlow.bind fun h => .ite h.frame.namedAlarm h)
    (.ite h.frame.setR h)).frame.bind fun h => .ite h.thermTrip h)

protected theorem Follows.droopOp {south} (h : Follows s₀ s) : Follows s₀ (droopOp south s) := h.satR.frame
protected theorem Follows.telemSend {kind bs room} (h : Follows s₀ s) : Follows s₀ (telemSend kind bs room s) := .ite h.post h.satR

protected theorem Follows.telemOp {room} (h : Follows s₀ s) : Follows s₀ (telemOp room s) := by
  unfold telemOp
  refine .ite ?_ h
  extract_lets s₁ _ _ s₂ s₃ _
  have h₁ : Follows s₀ s₁ := h.telemSend
  have h₂ : Follows s₀ s₂ := .ite h₁.frame h₁.frame
  have h₃ : Follows s₀ s₃ := .ite h₂.telemSend h₂
  refine .ite ?_ h₃
  split
  · exact h₃.frame.telemSend
  · exact h₃

protected theorem Follows.alarmSlotFreeOp (h : Follows s₀ s) : Follows s₀ (alarmSlotFreeOp s) := h.frame.slotService
protected theorem Follows.traceTailOp {v} (h : Follows s₀ s) : Follows s₀ (traceTailOp v s) := h.setR.frame.traceAdjust
protected theorem Follows.annReleaseOp (h : Follows s₀ s) : Follows s₀ (annReleaseOp s) := .ite h h.setF.setF

protected theorem Follows.annClearOp (h : Follows s₀ s) : Follows s₀ (annClearOp s) :=
  .ite h.setR ((h.annReleaseOp.foldS fun _ _ h => h.setR).foldS fun _ _ h => h.setR).frame

/-! ### Commands of the units -/

protected theorem Follows.updUnit {u f} (h : Follows s₀ s) : Follows s₀ (updUnit u f s) := by
  unfold updUnit
  split
  · exact h.frame
  · exact h

protected theorem Follows.unitSend {u ep d a kind mk} (h : Follows s₀ s) : Follows s₀ (unitSend u ep d a kind mk s) := by
  unfold unitSend
  dsimp only
  split
  · exact (h.frame.opIssue.of_snd ‹_›).updUnit
  · exact h.frame.opIssue.of_snd ‹_›
  · exact (h.frame.opIssue.of_snd ‹_›).updUnit

protected theorem Follows.unitReadPiece {u ep p} (h : Follows s₀ s) : Follows s₀ (unitReadPiece u ep p s) := by
  unfold unitReadPiece
  dsimp only
  split
  · exact h.updUnit
  · split
    · exact h.unitSend
    · split
      · exact (h.readBlock.of_snd ‹_›).updUnit
      · exact (h.readBlock.of_snd ‹_›).updUnit
  · exact h.unitSend

protected theorem Follows.unitRead {u ep pos a len} (h : Follows s₀ s) : Follows s₀ (unitRead u ep pos a len s) :=
  h.foldS fun _ _ h => h.unitReadPiece

protected theorem Follows.unitWritePiece {u ep bs p} (h : Follows s₀ s) : Follows s₀ (unitWritePiece u ep bs p s) := by
  unfold unitWritePiece
  dsimp only
  split
  · exact h.updUnit
  · split
    · exact h.writeBlock.of_snd ‹_›
    · exact (h.writeBlock.of_snd ‹_›).updUnit
    · exact (h.writeBlock.of_snd ‹_›).updUnit
  · exact h.unitSend

protected theorem Follows.unitWrite {u ep a bs} (h : Follows s₀ s) : Follows s₀ (unitWrite u ep a bs s) := h.foldS fun _ _ h => h.unitWritePiece

/-! ### Sols and time -/

protected theorem Follows.timeTo {t} (h : Follows s₀ s) : Follows s₀ (timeTo t s) := .ite h.frame h

protected theorem Follows.timeFault (h : Follows s₀ s) : Follows s₀ (timeFault s) := h.foldS fun _ _ h => .ite h.cascade h

protected theorem Follows.timeOp {v} (h : Follows s₀ s) : Follows s₀ (timeOp v s) :=
  .ite (.ite h.frame.setR h) (h.setR.bind fun h => .ite h.frame (Follows.ite h.frame h.frame).fault.timeFault)

protected theorem Follows.holdoverOp (h : Follows s₀ s) : Follows s₀ (holdoverOp s) := .ite h.setF h
protected theorem Follows.timeLostOp (h : Follows s₀ s) : Follows s₀ (timeLostOp s) := .ite h.setF.fault.timeFault h
protected theorem Follows.packageTickOp {k} (h : Follows s₀ s) : Follows s₀ (packageTickOp k s) := .ite h.timeTo h

protected theorem Follows.snapCopy {p q tick} (h : Follows s₀ s) : Follows s₀ (snapCopy p q tick s) :=
  (h.foldS fun _ _ h => h.frame.bind fun h => .ite (h.foldS fun _ _ h => h.frame) h).frame.updPtn

protected theorem Follows.snapFlip {p} (h : Follows s₀ s) : Follows s₀ (snapFlip p s) := h.updPtn.setF
protected theorem Follows.snapCommit {p q tick} (h : Follows s₀ s) : Follows s₀ (snapCommit p q tick s) := h.snapCopy.snapFlip
protected theorem Follows.restoreArr {c m t saved} (h : Follows s₀ s) : Follows s₀ (restoreArr c m t saved s) := h.setArr.setR
protected theorem Follows.restoreVec {c t} (h : Follows s₀ s) : Follows s₀ (restoreVec c t s) := h.setVec.setR

protected theorem Follows.restoreCore {c t planes} (h : Follows s₀ s) : Follows s₀ (restoreCore c t planes s) := by
  unfold restoreCore
  extract_lets loops xa s₁ s₂ s₃ s₄
  have h₁ : Follows s₀ s₁ := h.updCore
  have h₂ : Follows s₀ s₂ := h₁.foldS fun _ _ h => h.setR
  have h₃ : Follows s₀ s₃ := h₂.setR
  have h₄ : Follows s₀ s₄ := .ite (h₃.foldS fun _ _ h => h.restoreArr) h₃
  exact .ite h₄.restoreVec h₄

protected theorem Follows.clearCore {c} (h : Follows s₀ s) : Follows s₀ (clearCore c s) :=
  (h.updCore.foldS fun _ _ h => h.setR).setR.bind fun h => (Follows.ite (h.foldS fun _ _ h => h.arrReset) h).bind fun h => .ite h.vecReset h

protected theorem Follows.restoreBars {p gens} (h : Follows s₀ s) : Follows s₀ (restoreBars p gens s) :=
  h.foldS fun _ _ h => .ite (by split <;> exact h.setBar) h

protected theorem Follows.snapRestore {p} (h : Follows s₀ s) : Follows s₀ (snapRestore p s) :=
  (h.foldS fun _ _ h => (by split; exacts [h.restoreCore, h])).updPtn.setQ

protected theorem Follows.barsGo {p} (h : Follows s₀ s) : Follows s₀ (barsGo p s) := .ite h.setPtn.restoreBars h

protected theorem Follows.imgStep {c} (h : Follows s₀ s) : Follows s₀ (imgStep c s) := by
  unfold imgStep
  split
  · exact .ite (.ite h.updUnit h.updUnit.unitRead) h
  · exact h

protected theorem Follows.imgStart {c} (h : Follows s₀ s) : Follows s₀ (imgStart c s) := h.updCore.frame.unitRead.imgStep

protected theorem Follows.scriptLoadOp {c} (h : Follows s₀ s) : Follows s₀ (scriptLoadOp c s) := by
  unfold scriptLoadOp
  dsimp only
  split
  · split
    · split
      · exact h.updCore.frame.coreFault
      · split
        · exact h.updCore.frame.updCore.barsGo
        · exact h.updCore.frame.updCore
    · exact h
  · exact h

protected theorem Follows.ptnCancel {p} (h : Follows s₀ s) : Follows s₀ (ptnCancel p s) := h.foldS fun _ _ h => h.updCore.frame

protected theorem Follows.startRefused {pg cause} (h : Follows s₀ s) : Follows s₀ (startRefused pg cause s) :=
  h.fault.bind fun h => .ite h.setBState h

protected theorem Follows.ptnBegin {p} (h : Follows s₀ s) : Follows s₀ (ptnBegin p s) :=
  h.updPtn.bind fun h => ((Follows.ite h.snapRestore (h.foldS fun _ _ h => h.clearCore).restoreBars.setQ).foldS fun _ _ h =>
    h.imgStart).barsGo

protected theorem Follows.ptnStart {p} (h : Follows s₀ s) : Follows s₀ (ptnStart p s) := h.setR.updPtn.bind fun h => .ite h.ptnBegin h

protected theorem Follows.ptnRunning {p} (h : Follows s₀ s) : Follows s₀ (ptnRunning p s) := by
  unfold ptnRunning
  dsimp only
  split
  · exact .ite ((h.setBState.frame.setR.foldS fun _ _ h => h.updCore.vecClear).updPtn.snapCommit.bind fun h =>
      (Follows.ite h.setF h.setR).trace) h
  · exact h

protected theorem Follows.coreTick {c} (h : Follows s₀ s) : Follows s₀ (coreTick c s) :=
  ((h.updCore.vecClear.foldS fun _ _ h => h.updArr.updArr).foldS fun _ _ h => h.setMover).setGth

protected theorem Follows.ptnTickOp {p j} (h : Follows s₀ s) : Follows s₀ (ptnTickOp p j s) :=
  .ite (h.timeTo.frame.foldS fun _ _ h => h.coreTick).updPtn h

protected theorem Follows.hardRuns {reached p} (h : Follows s₀ s) : Follows s₀ (hardRuns reached p s) :=
  h.foldS fun _ _ h => .ite (h.setR.bind fun h => .ite h.fault h) (.ite h.setR h)

protected theorem Follows.replayStart {p} (h : Follows s₀ s) : Follows s₀ (replayStart p s) :=
  h.setR.setBState.satR.satR.bind fun h => .ite h.updPtn.startRefused (h.updPtn.setF.snapRestore.foldS fun _ _ h => .ite h.imgStart
    h).barsGo.trace

protected theorem Follows.replayOp {p} (h : Follows s₀ s) : Follows s₀ (replayOp p s) := by
  unfold replayOp
  split
  · exact h.replayStart
  · exact h.setF

protected theorem Follows.takeDeferred {atEnd p} (h : Follows s₀ s) : Follows s₀ (takeDeferred atEnd p s) :=
  h.updPtn.cascade.bind fun h => (Follows.ite h.hardRuns h).bind fun h => .ite h.setR.replayStart h

protected theorem Follows.endPointOp {p now} (h : Follows s₀ s) : Follows s₀ (endPointOp p now s) :=
  .ite (h.timeTo.bind fun h => (Follows.ite h.setR h).updPtn.bind fun h => .ite h.takeDeferred h.updPtn.snapCopy.hardRuns) h

protected theorem Follows.shipment {p q} (h : Follows s₀ s) : Follows s₀ (shipment p q s) :=
  ((((h.foldS fun _ _ h => h.shipSend).foldS fun _ _ h => .ite (h.foldS fun _ _ h => h.foldS fun _ _ h => h.shipSend) h).foldS fun _ _ h =>
    h.foldS fun _ _ h => h.foldS fun _ _ h => h.shipSend).foldS fun _ _ h => h.shipSend).frame

protected theorem Follows.digestCheck {p q} (h : Follows s₀ s) : Follows s₀ (digestCheck p q s) := by
  unfold digestCheck
  dsimp only
  split
  · exact h.frame.bind fun h => .ite (.ite h h.frame) h.setR.namedAlarm
  · exact h

protected theorem Follows.twinCommit {p q} (h : Follows s₀ s) : Follows s₀ (twinCommit p q s) :=
  (Follows.ite h.shipment h).bind fun h => (Follows.ite (.ite h.post.frame.digestCheck (.ite h.frame h)) h).frame

protected theorem Follows.ptnStopped {p} (h : Follows s₀ s) : Follows s₀ (ptnStopped p s) := h.updPtn.setBState.ringStopped

protected theorem Follows.commitOp {p bad} (h : Follows s₀ s) : Follows s₀ (commitOp p bad s) :=
  .ite (.ite (h.fault.bind fun h => .ite h h.ringDiscard.retryRings.lvnNotices.updPtn) (.ite h.takeDeferred
    (h.snapFlip.ringCommit.retryRings.lvnNotices.setQ.setR.setR.twinCommit.trace.bind fun h => .ite h.ptnStopped h.updPtn))) h

protected theorem Follows.overrunOp {p} (h : Follows s₀ s) : Follows s₀ (overrunOp p s) :=
  .ite (h.timeTo.setR.satR.cascade.bind fun h => .ite h.cascade h) h

protected theorem Follows.ptnFaultedOp {p} (h : Follows s₀ s) : Follows s₀ (ptnFaultedOp p s) :=
  .ite ((h.heldPass.ptnDropHeld.foldS fun _ _ h => h.drainCore).bind fun h => .ite h.hardRuns.cascade.retryRings.redPasses h) h

protected theorem Follows.actionCancel {p} (h : Follows s₀ s) : Follows s₀ (actionCancel p s) := .ite h.frame.setR h

protected theorem Follows.dumpSettle {p} (h : Follows s₀ s) : Follows s₀ (dumpSettle p s) := by
  unfold dumpSettle
  split
  · exact .ite h.frame.setR h
  · exact h

protected theorem Follows.dumpOp {p} (h : Follows s₀ s) : Follows s₀ (dumpOp p s) := .ite h (.ite h.setR h.frame.setR.unitWrite.dumpSettle)

protected theorem Follows.loadSettle {p} (h : Follows s₀ s) : Follows s₀ (loadSettle p s) := by
  unfold loadSettle
  dsimp only
  split
  · exact .ite h (.ite (.ite h.frame.setR (.ite h.frame.setR h.updUnit.unitRead)) (.ite (h.frame.bind fun h =>
      .ite h.setR (h.foldS fun _ _ h => h.frame.foldS fun _ _ h => h.frame.updArr).frame.updPtn.setF.setQ.setR)
      h))
  · exact h

protected theorem Follows.loadOp {p} (h : Follows s₀ s) : Follows s₀ (loadOp p s) :=
  .ite h (.ite h.setR h.frame.setR.unitRead.loadSettle.loadSettle)

/-! ### Twin copies -/

protected theorem Follows.enterPstate {v} (h : Follows s₀ s) : Follows s₀ (enterPstate v s) := h.setF.setR

protected theorem Follows.markStale (h : Follows s₀ s) : Follows s₀ (markStale s) :=
  .ite h (h.frame.bind fun h => (Follows.ite h h.enterPstate).namedAlarm)

protected theorem Follows.twnStart (h : Follows s₀ s) : Follows s₀ (twnStart s) := h.frame.setF.enterPstate.post
protected theorem Follows.twnStop (h : Follows s₀ s) : Follows s₀ (twnStop s) := h.frame.setF.enterPstate

protected theorem Follows.helloOp {epoch ptns role mode} (h : Follows s₀ s) : Follows s₀ (helloOp epoch ptns role mode s) :=
  .ite (.ite h.frame.enterPstate h.fault) h

protected theorem Follows.helloTimerOp (h : Follows s₀ s) : Follows s₀ (helloTimerOp s) := .ite h.post h
protected theorem Follows.beatTimerOp (h : Follows s₀ s) : Follows s₀ (beatTimerOp s) := .ite h.post h

protected theorem Follows.startPtn {p} (h : Follows s₀ s) : Follows s₀ (startPtn p s) :=
  .ite (h.setBState.bind fun h => .ite h.startRefused h.ptnStart) h

protected theorem Follows.enableRings {p} (h : Follows s₀ s) : Follows s₀ (enableRings p s) := h.foldS fun _ _ h => .ite h.ringEnableOp h
protected theorem Follows.takePtns {mask} (h : Follows s₀ s) : Follows s₀ (takePtns mask s) := h.foldS fun _ _ h => h.frame.enableRings
protected theorem Follows.takeOp (h : Follows s₀ s) : Follows s₀ (takeOp s) := .ite h (.ite h.setR (.ite h.setR h.takePtns.setR))

protected theorem Follows.twinLost (h : Follows s₀ s) : Follows s₀ (twinLost s) :=
  .ite (h.frame.enterPstate.namedAlarm.bind fun h => .ite (h.takePtns.foldS fun _ _ h => h.startPtn) h) h

protected theorem Follows.stageMsg {m} (h : Follows s₀ s) : Follows s₀ (stageMsg m s) := .ite (.ite h (.ite h.frame.markStale h.frame)) h

protected theorem Follows.twinPut {a bs} (h : Follows s₀ s) : Follows s₀ (twinPut a bs s).2 :=
  h.foldl₂' fun _ _ h => by split; exacts [h.frame.memPut, h]

protected theorem Follows.shipApply {m} (h : Follows s₀ s) : Follows s₀ (shipApply m s) := by
  unfold shipApply
  dsimp only
  split
  · split
    · exact .ite h.updCore h
    · exact h
  · exact h.twinPut
  · exact h

protected theorem Follows.ringApply {m} (h : Follows s₀ s) : Follows s₀ (ringApply m s) := .ite h.setRingWord.setRingWord h

protected theorem Follows.snapApply {p q ms} (h : Follows s₀ s) : Follows s₀ (snapApply p q ms s) :=
  (h.foldS fun _ _ h => h.frame.foldS fun _ _ h => h.frame).frame.updPtn.setQ.setF

protected theorem Follows.syncBit {p} (h : Follows s₀ s) : Follows s₀ (syncBit p s) := .ite (h.setR.bind fun h => .ite h.enterPstate.namedAlarm h) h

protected theorem Follows.doneOp {p q count} (h : Follows s₀ s) : Follows s₀ (doneOp p q count s) :=
  .ite (h.frame.bind fun h => .ite (h.post.bind fun h => .ite h h.markStale) ((h.foldS fun _ _ h => h.shipApply).snapApply.foldS
    fun _ _ h => h.ringApply).post.frame.wrapR.syncBit) h

protected theorem Follows.shipDoneOp {p} (h : Follows s₀ s) : Follows s₀ (shipDoneOp p s) := by
  unfold shipDoneOp
  dsimp only
  split
  · exact .ite h.post.frame.wrapR h
  · exact h

protected theorem Follows.ackOp {p q code} (h : Follows s₀ s) : Follows s₀ (ackOp p q code s) := .ite h.frame.syncBit h
protected theorem Follows.digestOp {p q n d} (h : Follows s₀ s) : Follows s₀ (digestOp p q n d s) := .ite h.frame.digestCheck h

protected theorem Follows.digestTimeoutOp {p} (h : Follows s₀ s) : Follows s₀ (digestTimeoutOp p s) := by
  unfold digestTimeoutOp
  split
  · exact .ite h.frame.namedAlarm h
  · exact h

protected theorem Follows.silverZeros {die a n step len} (h : Follows s₀ s) : Follows s₀ (silverZeros die a n step len s) := by
  unfold silverZeros
  split
  · exact h
  · split
    · exact .ite h h.send
    · exact h.lkgDiscard

protected theorem Follows.silverCopy (h : Follows s₀ s) : Follows s₀ (silverCopy s) :=
  (h.foldl₂' fun _ _ h => by exact h.silverZeros.post).silverZeros.frame

protected theorem Follows.silverOp (h : Follows s₀ s) : Follows s₀ (silverOp s) :=
  .ite h (.ite h.setR (.ite h.setR h.setF.enterPstate.silverCopy.frame.setR))

protected theorem Follows.copyEnd (h : Follows s₀ s) : Follows s₀ (copyEnd s) := h.setR.frame.setR.bind fun h => .ite h h.namedAlarm

protected theorem Follows.silverDoneOp (h : Follows s₀ s) : Follows s₀ (silverDoneOp s) :=
  .ite (.ite h.frame.setR (.ite h.frame.enterPstate.copyEnd (h.post.enterPstate.frame.foldS fun _ _ h => h.shipment).copyEnd)) h

protected theorem Follows.silverMsgOp {sdie a bs glzs} (h : Follows s₀ s) : Follows s₀ (silverMsgOp sdie a bs glzs s) :=
  .ite ((Follows.ite h ((Follows.ite h.frame h).bind fun h => .ite h h.enterPstate)).bind fun h => .ite h.twinPut h.frame.markStale) h

protected theorem Follows.silveredOp (h : Follows s₀ s) : Follows s₀ (silveredOp s) := .ite (.ite h.enterPstate h.setF.frame.enterPstate) h

protected theorem Follows.blockOp {p q whr bs tile glaze} (h : Follows s₀ s) : Follows s₀ (blockOp p q whr bs tile glaze s) :=
  .ite (.ite (.ite h.twinPut h.frame.markStale) h) h.stageMsg

protected theorem Follows.zeroGaps {die a0 step cuts hi} (h : Follows s₀ s) : Follows s₀ (zeroGaps die a0 step cuts hi s) :=
  (h.foldl₂' fun _ _ h => by exact h.silverZeros).silverZeros

protected theorem Follows.fosterRun {die a0 step key0 cnt} (h : Follows s₀ s) : Follows s₀ (fosterRun die a0 step key0 cnt s) :=
  (h.zeroGaps.foldS fun _ _ h => h.foldS fun _ _ h => h.post).frame

protected theorem Follows.fosterChannel {g h' ch} (h : Follows s₀ s) : Follows s₀ (fosterChannel g h' ch s) := by
  unfold fosterChannel
  dsimp only
  split
  · exact h.frame
  · exact .ite (h.foldS fun _ _ h => (by split; exacts [h.fosterRun, h])) h.frame

protected theorem Follows.fosterOp (h : Follows s₀ s) : Follows s₀ (fosterOp s) :=
  .ite h (.ite (h.frame.foldS fun _ _ h => h.foldS fun _ _ h => h.fosterChannel).setR h.setR)

protected theorem Follows.fosterDoneOp (h : Follows s₀ s) : Follows s₀ (fosterDoneOp s) := .ite h.copyEnd h

/-! ### Links -/

protected theorem Follows.dieLost {d} (h : Follows s₀ s) : Follows s₀ (dieLost d s) :=
  .ite h (h.frame.namedAlarm.send.memoryLost.lvnDieLost.ringsLost.cascade.bind fun h => .ite h.twinLost h)

protected theorem Follows.checkRoutes (h : Follows s₀ s) : Follows s₀ (checkRoutes s) := h.foldS fun _ _ h => .ite h.dieLost h

protected theorem Follows.groupGone {g} (h : Follows s₀ s) : Follows s₀ (groupGone g s) :=
  .ite (h.foldS fun _ _ h => (by split; exacts [h.fault, h])) h.checkRoutes

protected theorem Follows.serviceBit {p on} (h : Follows s₀ s) : Follows s₀ (serviceBit p on s) := h.setR.setR

protected theorem Follows.setService {p on} (h : Follows s₀ s) : Follows s₀ (setService p on s) :=
  h.serviceBit.bind fun h => .ite h.groupGone (.ite h.flushN h)

protected theorem Follows.afterLeave {p} (h : Follows s₀ s) : Follows s₀ (afterLeave p s) := .ite h.setF (.ite h h.setF)
protected theorem Follows.ctrlSend {p op arg1 seq} (h : Follows s₀ s) : Follows s₀ (ctrlSend p op arg1 seq s) := h.portSend.send

protected theorem Follows.leaveSet {p} (h : Follows s₀ s) : Follows s₀ (leaveSet p s) := by
  unfold leaveSet
  dsimp only
  split
  · exact h.afterLeave
  · split
    · exact h
    · split
      · exact .ite h.setService.afterLeave h.setGrp
      · exact h.setGrp.bind fun h => .ite h h.ctrlSend.satR

protected theorem Follows.joinSet {p} (h : Follows s₀ s) : Follows s₀ (joinSet p s) := .ite h.setGrp (.ite h.setService h.setGrp)

protected theorem Follows.remapResumeOp {g} (h : Follows s₀ s) : Follows s₀ (remapResumeOp g s) := by
  unfold remapResumeOp
  dsimp only
  split
  · exact h
  · exact (((h.setGrp.foldS fun _ _ h => .ite h.setService h).foldS fun _ _ h => .ite h h.setService.afterLeave).foldS fun _ _ h => .ite h
      (h.updPort.bind fun h => (by split; exacts [h, h.foldS fun _ _ h => h.portSend]))).foldS fun _ _ h => h.flushN

protected theorem Follows.retrainOp {p restore} (h : Follows s₀ s) : Follows s₀ (retrainOp p restore s) := .ite h.satR.namedAlarm.updPort.leaveSet h

protected theorem Follows.sliceStranded {i reason reads} (h : Follows s₀ s) : Follows s₀ (sliceStranded i reason reads s) :=
  h.foldS fun _ _ h => by
    split
    · exact .ite h.updSlice.sliceErr.respond.lineFree h
    · exact .ite h h.updSlice.sliceErr.respond.lineFree
    · exact .ite h h.updSlice.sliceErr.respond.lineFree
    · exact h

protected theorem Follows.portRetire {p} (h : Follows s₀ s) : Follows s₀ (portRetire p s) :=
  .ite h (h.setF.namedAlarm.setBState.bind fun h => (Follows.ite h.setGrp h).leaveSet.bind fun h => .ite (Follows.updPort
    (by split; exacts [h.fault.sliceStranded, h])) h)

protected theorem Follows.stageTo {p tx st lane} (h : Follows s₀ s) : Follows s₀ (stageTo p tx st lane s) :=
  h.setF.firstR.bind fun h => .ite h.namedAlarm (.ite h.namedAlarm.setR h.portRetire)

protected theorem Follows.laneStage {p tx lane} (h : Follows s₀ s) : Follows s₀ (laneStage p tx lane s).2 := by
  unfold laneStage
  dsimp only
  split
  · exact h
  · split
    · exact h.setR.stageTo
    · split
      · exact h.setR.setF.stageTo
      · split
        · split
          · exact h.setR.bind fun h => .ite₂ h.stageTo h
          · exact h.setR
        · exact h.setR

protected theorem Follows.rxFail {p lane} (h : Follows s₀ s) : Follows s₀ (rxFail p lane s) := by
  unfold rxFail
  dsimp only
  split
  · exact h.laneStage.ctrlSend
  · exact h.laneStage
  · exact h.laneStage
  · split
    · exact h.laneStage.ctrlSend
    · exact h.laneStage

protected theorem Follows.laneErr {p lane} (h : Follows s₀ s) : Follows s₀ (laneErr p lane s) := h.setR.bind fun h => .ite h.rxFail h

protected theorem Follows.swapReqOp {p pos} (h : Follows s₀ s) : Follows s₀ (swapReqOp p pos s) := by
  unfold swapReqOp
  dsimp only
  split
  · split
    · exact .ite h.laneStage.setR.ctrlSend h.laneStage
    · exact h.laneStage
  · exact h

protected theorem Follows.swapOp {p arg} (h : Follows s₀ s) : Follows s₀ (swapOp p arg s) := .ite h.setR h
protected theorem Follows.halfReqOp {p h'} (h : Follows s₀ s) : Follows s₀ (halfReqOp p h' s) := .ite h.setF.stageTo.ctrlSend h
protected theorem Follows.halfOp {p h'} (h : Follows s₀ s) : Follows s₀ (halfOp p h' s) := .ite h.setF h

protected theorem Follows.resendFrom {p seq} (h : Follows s₀ s) : Follows s₀ (resendFrom p seq s) :=
  .ite h (.ite h.retrainOp h.setPort.satR.wrapR.send)

protected theorem Follows.drainCheck {g} (h : Follows s₀ s) : Follows s₀ (drainCheck g s) := .ite h.setGrp h

protected theorem Follows.frameAcks {p f} (h : Follows s₀ s) : Follows s₀ (frameAcks p f s) :=
  h.setPort.bind fun h => (Follows.ite (by split; exacts [h.stackAcks.peerAck, h]) h).bind fun h => (Follows.ite h.resendFrom
    h).flushN.drainCheck

protected theorem Follows.posErrs {p l} (h : Follows s₀ s) : Follows s₀ (posErrs p l s) := h.foldS fun _ _ h => h.laneErr

protected theorem Follows.frameSeq {p f} (h : Follows s₀ s) : Follows s₀ (frameSeq p f s).2 :=
  .ite₂ (h.setPort.wrapR.bind fun h => (by split; exacts [h.posErrs, h])) h

protected theorem Follows.failedFrame {p f} (h : Follows s₀ s) : Follows s₀ (failedFrame p f s) := h.satR.bind fun h => .ite h.updPort h
protected theorem Follows.fecCount {p l} (h : Follows s₀ s) : Follows s₀ (fecCount p l s) := .ite h.satR.posErrs h

protected theorem Follows.frameIn {p f act} (h : Follows s₀ s) (hact : ∀ s, Follows s₀ s → Follows s₀ (act s)) : Follows s₀ (frameIn p f act s) :=
  .ite (h.fecCount.bind fun h => .ite h.failedFrame (hact _ h)) h

protected theorem Follows.idleOp {p f} (h : Follows s₀ s) : Follows s₀ (idleOp p f s) := h.frameIn fun _ h => h.frameAcks

protected theorem Follows.dataOp {p f} (h : Follows s₀ s) : Follows s₀ (dataOp p f s) :=
  h.frameIn fun _ h => (Follows.ite h.frameSeq.updPort h.frameSeq).frameAcks

protected theorem Follows.hovrOp {p f} (h : Follows s₀ s) : Follows s₀ (hovrOp p f s) :=
  h.frameIn fun _ h => (Follows.ite (h.frameSeq.updPort.bind fun h => .ite h.updPort h) h.frameSeq).frameAcks

protected theorem Follows.failedFramesOp {p fs} (h : Follows s₀ s) : Follows s₀ (failedFramesOp p fs s) :=
  .ite ((Follows.ite h.satR h).foldS fun _ _ h => h.failedFrame) h

protected theorem Follows.ackTimeoutOp {p} (h : Follows s₀ s) : Follows s₀ (ackTimeoutOp p s) := by
  unfold ackTimeoutOp
  split
  · exact h
  · exact .ite h.resendFrom h

protected theorem Follows.retireWordOp {p idx expected} (h : Follows s₀ s) : Follows s₀ (retireWordOp p idx expected s) :=
  .ite h (h.updPort.setPort.bind fun h => (Follows.ite h (Follows.ite h.setGrp h).ctrlSend.satR).foldS fun _ _ h => h.send.portSend)

protected theorem Follows.offlineOp {p idx} (h : Follows s₀ s) : Follows s₀ (offlineOp p idx s) := .ite h h.updPort.leaveSet

protected theorem Follows.onlineOp {p idx} (h : Follows s₀ s) : Follows s₀ (onlineOp p idx s) :=
  .ite h (h.updPort.bind fun h => .ite h.setF.joinSet (.ite h.joinSet h))

protected theorem Follows.ctrlOp {p f} (h : Follows s₀ s) : Follows s₀ (ctrlOp p f s) :=
  h.frameIn fun _ h => h.frameSeq.frameAcks.bind fun h => .ite
    (by split; exacts [h.swapReqOp, h.swapOp, h.halfReqOp, h.halfOp, h.retireWordOp, h.offlineOp, h.onlineOp, h]) h

protected theorem Follows.trainFail {p} (h : Follows s₀ s) : Follows s₀ (trainFail p s) := h.updPort.setF

protected theorem Follows.trainDoneOp {p rxFailed reversed wired versions} (h : Follows s₀ s) :
    Follows s₀ (trainDoneOp p rxFailed reversed wired versions s) :=
  .ite (.ite h.trainFail ((Follows.ite h.setR.setR.setR.setF.setF.setR h).setPort.updPort.setF.setF.setF.foldS fun _ _ h =>
    .ite h h.rxFail)) h

protected theorem Follows.trainRetryOp {p} (h : Follows s₀ s) : Follows s₀ (trainRetryOp p s) := .ite h.setF h
protected theorem Follows.trainLimitOp {p} (h : Follows s₀ s) : Follows s₀ (trainLimitOp p s) := .ite h.fault h

protected theorem Follows.idOut {p tx} (h : Follows s₀ s) : Follows s₀ (idOut p tx s) := by
  unfold idOut
  dsimp only
  exact h.fresh.send.wrapR

protected theorem Follows.idSendOp {p tx} (h : Follows s₀ s) : Follows s₀ (idSendOp p tx s) := .ite h.idOut h

protected theorem Follows.portChecks {p} (h : Follows s₀ s) : Follows s₀ (portChecks p s) := by
  unfold portChecks
  dsimp only
  split
  · exact h
  · exact .ite ((Follows.ite h h.fault).bind fun h => .ite h (h.fault.bind fun h => .ite h.groupGone h)) h

protected theorem Follows.groupChecks {g} (h : Follows s₀ s) : Follows s₀ (groupChecks g s) := h.foldS fun _ _ h => h.portChecks

protected theorem Follows.portUpOp {p} (h : Follows s₀ s) : Follows s₀ (portUpOp p s) :=
  h.setF.updPort.joinSet.bind fun h => .ite h.frame.slotService h

protected theorem Follows.idRecord {p r} (h : Follows s₀ s) : Follows s₀ (idRecord p r s) :=
  .ite (.ite (.ite h.trainFail h) (h.setPort.bind fun h => (Follows.ite h h.setR).setR.setF.setR.bind fun h =>
    (Follows.ite h.portUpOp h).portChecks)) h

protected theorem Follows.idOp {p f rx} (h : Follows s₀ s) : Follows s₀ (idOp p f rx s) :=
  h.frameIn fun _ h => h.frameAcks.bind fun h => by split; exacts [h.idRecord, h]

protected theorem Follows.linkDownOp {p} (h : Follows s₀ s) : Follows s₀ (linkDownOp p s) :=
  .ite (h.setF.namedAlarm.updPort.bind fun h => .ite h (.ite h.leaveSet ((h.foldS fun _ _ h => h.updPort).setGrp.bind fun h =>
    (Follows.ite (h.foldS fun _ _ h => h.setService) (h.foldS fun _ _ h => h.serviceBit)).bind fun h => .ite h.dieLost.checkRoutes
    (.ite h.dieLost.checkRoutes h)))) h

protected theorem Follows.drainTimeoutOp {g} (h : Follows s₀ s) : Follows s₀ (drainTimeoutOp g s) :=
  .ite (h.foldS fun _ _ h => h.updPort).setGrp.satR h

protected theorem Follows.dieDownOp {d} (h : Follows s₀ s) : Follows s₀ (dieDownOp d s) := h.dieLost.checkRoutes
protected theorem Follows.dieUpOp {d} (h : Follows s₀ s) : Follows s₀ (dieUpOp d s) := .ite h.frame h

protected theorem Follows.lnkRunning {p} (h : Follows s₀ s) : Follows s₀ (lnkRunning p s) :=
  .ite (h.ctrlSend.bind fun h => .ite h h.setF.joinSet) (.ite h.setF h)

protected theorem Follows.lnkStop {p} (h : Follows s₀ s) : Follows s₀ (lnkStop p s) := .ite h.ctrlSend.leaveSet h

protected theorem Follows.lnkAbort {p} (h : Follows s₀ s) : Follows s₀ (lnkAbort p s) :=
  (Follows.ite (by split; exacts [h.sliceStranded, h]) h).updPort.setGrp.bind fun h => (Follows.ite h.setService h).bind fun h =>
    .ite h.setF h

protected theorem Follows.forwardOp {g mtype ddie sdie hops cls body} (h : Follows s₀ s) :
    Follows s₀ (forwardOp g mtype ddie sdie hops cls body s) := by
  unfold forwardOp
  split
  · exact h.lkgDiscard
  · split
    · exact h.lkgDiscard
    · split
      · exact h.lkgDiscard
      · split
        · exact h.lkgDiscard
        · exact .ite h.lkgDiscard (.ite h.lkgDiscard h.wrapR.groupPost)

protected theorem Follows.mcFromIo {f} (h : Follows s₀ s) : Follows s₀ (mcFromIo f s) := by
  unfold mcFromIo
  dsimp only
  exact h.fresh.fresh.mcOp

protected theorem Follows.flitOp {g f} (h : Follows s₀ s) : Follows s₀ (flitOp g f s) := by
  unfold flitOp
  dsimp only
  split
  · exact h.reqFlit
  · exact h.reqFlit
  · exact h.rdataOp
  · exact h.wackOp
  · exact .ite h.mcFromIo h.lkgDiscard
  · exact h.mcrepOp
  · exact h.redOp
  · exact h.redOp
  · exact h.rackOp
  · exact h.lkgDiscard

protected theorem Follows.cflitOp {g f} (h : Follows s₀ s) : Follows s₀ (cflitOp g f s) := by
  unfold cflitOp
  dsimp only
  split
  · exact h.invOp
  · exact h.iackOp
  · exact h.lkgDiscard

protected theorem Follows.assignOp {die base count pos} (h : Follows s₀ s) : Follows s₀ (assignOp die base count pos s) :=
  .ite (((h.setR.setR.foldS fun _ _ h => .ite h.fresh.idOut h).foldS fun _ _ h => h.setR).foldS fun _ _ h => h.portChecks)
    (.ite h h.lkgDiscard)

/-! ### Pages -/

protected theorem Follows.sliceAbort {i} (h : Follows s₀ s) : Follows s₀ (sliceAbort i s) :=
  (h.updSlice.foldS fun _ _ h => h.sliceErr.respond).foldS fun _ _ h => h.dropStage

protected theorem Follows.netAbort (h : Follows s₀ s) : Follows s₀ (netAbort s) := h.frame.setR.opsLost

protected theorem Follows.pageAbort {pg} (h : Follows s₀ s) : Follows s₀ (pageAbort pg s) := by
  unfold pageAbort
  split
  · exact h.updCore.frame
  · exact h.movAbort
  · exact h.gthAbort
  · exact h.updArr.updArr
  · exact h.vecClear
  · exact h.sliceAbort
  · exact h.cacheDropIf
  · exact h.updSlice
  · exact h.lvnAbort
  · exact h.lnkAbort
  · exact h.dblDiscard
  · exact h.netAbort
  · exact h.calDisable
  · exact h.twnStop
  · exact h

protected theorem Follows.pageRetire {pg} (h : Follows s₀ s) : Follows s₀ (pageRetire pg s) :=
  .ite h (h.setBState.cascade.bind fun h => Follows.bind (by split; exacts [h.sliceRetired, h]) fun h => h.pageAbort.releaseHeld)

protected theorem Follows.pageOff {pg} (h : Follows s₀ s) : Follows s₀ (pageOff pg s) := .ite h h.setBState

protected theorem Follows.sitePower {c} (h : Follows s₀ s) : Follows s₀ (sitePower c s) :=
  ((h.frame.setCore.setVec.setGth.foldS fun _ _ h => h.setArr).foldS fun _ _ h => h.setMover)

protected theorem Follows.ptnsDegraded (h : Follows s₀ s) : Follows s₀ (ptnsDegraded s) := h.foldS fun _ _ h => .ite h.setR h

protected theorem Follows.slcRunning {i} (h : Follows s₀ s) : Follows s₀ (slcRunning i s) :=
  (Follows.ite h.frame h).bind fun h => (Follows.ite h h.wrapR).setR

/-! ### The Almanac -/

protected theorem Follows.updAlm {f} (h : Follows s₀ s) : Follows s₀ (updAlm f s) := h.frame
protected theorem Follows.classUpdate (h : Follows s₀ s) : Follows s₀ (classUpdate s) := .ite h.setR.wrapR.setR.namedAlarm h

protected theorem Follows.classFirst (h : Follows s₀ s) : Follows s₀ (classFirst s) :=
  h.setR.wrapR.setR.bind fun h => .ite h.setR.namedAlarm h

protected theorem Follows.almChange (h : Follows s₀ s) : Follows s₀ (almChange s) := h.wrapR.classUpdate
protected theorem Follows.recNote (h : Follows s₀ s) : Follows s₀ (recNote s) := h.setR.setR

protected theorem Follows.recWrite (h : Follows s₀ s) : Follows s₀ (recWrite s) :=
  h.updAlm.recNote.bind fun h => (Follows.ite (Follows.ite h.frame h.namedAlarm).frame (Follows.ite h.frame h.namedAlarm).namedAlarm).bind
    fun h => .ite h.fault h

protected theorem Follows.recAppend {kind unit value} (h : Follows s₀ s) : Follows s₀ (recAppend kind unit value s) :=
  .ite h.updAlm (.ite h.setF.namedAlarm h.updAlm.recWrite)

protected theorem Follows.siteRetire {c} (h : Follows s₀ s) : Follows s₀ (siteRetire c s) :=
  (h.foldS fun _ _ h => h.pageRetire).setR.namedAlarm.recAppend.ptnsDegraded.bind fun h => .ite h.almChange (.ite h.wrapR h)

protected theorem Follows.sliceEntry {i} (h : Follows s₀ s) : Follows s₀ (sliceEntry i s) := h.namedAlarm.recAppend.almChange
protected theorem Follows.spineOut {k} (h : Follows s₀ s) : Follows s₀ (spineOut k s) := .ite h.setR.setR h

protected theorem Follows.siteDecide {c} (h : Follows s₀ s) : Follows s₀ (siteDecide c s) :=
  .ite (h.foldS fun _ _ h => h.pageOff) (.ite (h.foldS fun _ _ h => h.pageRetire).namedAlarm (.ite h.siteRetire h))

protected theorem Follows.reservePages {c kind} (h : Follows s₀ s) : Follows s₀ (reservePages c kind s) :=
  (Follows.ite h h.pageOff.pageOff).bind fun h => (Follows.ite h.pageOff h).bind fun h => .ite h h.pageOff

protected theorem Follows.rowGo {p} (h : Follows s₀ s) : Follows s₀ (rowGo p s) := .ite h.updPtn.startRefused (.ite h.ptnBegin h)

protected theorem Follows.rowFix {row} (h : Follows s₀ s) : Follows s₀ (rowFix row s) :=
  .ite h (((h.foldS fun _ _ h => h.siteDecide).foldS fun _ _ h => .ite h.setR h).bind fun h =>
    (Follows.ite (by split; exacts [h.frame.reservePages.setR, h.foldS fun _ _ h => h.pageOff]) h).setR.wrapR.bind fun h =>
    (Follows.ite h.classFirst h).foldS fun _ _ h => h.rowGo)

protected theorem Follows.slicesFix (h : Follows s₀ s) : Follows s₀ (slicesFix s) := by
  unfold slicesFix
  dsimp only
  split
  · exact h
  · split
    · exact (h.updAlm.foldS fun _ _ h => (h.foldS fun _ _ h => h.pageRetire).bind fun h => .ite h.sliceEntry (.ite h.namedAlarm.almChange
        h)).bind fun h => .ite h.setR.slcRunning.almChange h
    · exact h.updAlm.foldS fun _ _ h => (h.foldS fun _ _ h => h.pageRetire).bind fun h => .ite h.sliceEntry (.ite h.namedAlarm.almChange h)

protected theorem Follows.decide_ (h : Follows s₀ s) : Follows s₀ (decide_ s) := (h.foldS fun _ _ h => h.rowFix).slicesFix
protected theorem Follows.arrayRetest {pg append} (h : Follows s₀ s) : Follows s₀ (arrayRetest pg append s) := h.setBState.setR.frame.updAlm

protected theorem Follows.secTested (h : Follows s₀ s) : Follows s₀ (secTested s) :=
  h.setF.bind fun h => .ite (h.setF.foldS fun _ _ h => h.setR) h.setF

protected theorem Follows.pageSettle {pg} (h : Follows s₀ s) : Follows s₀ (pageSettle pg s) := by
  unfold pageSettle
  split
  · exact h
  · extract_lets s₁ s₂
    have h₁ : Follows s₀ s₁ := h.setBState.setReady
    have h₂ : Follows s₀ s₂ := by
      unfold s₂
      split
      · exact h₁.slcRunning
      · exact h₁.setR
      · exact h₁.medRunning
      · exact h₁.lnkRunning
      · exact h₁.setR
      · exact h₁.secTested
      · exact h₁
    exact h₂.releaseHeld

protected theorem Follows.siteNote {c} (h : Follows s₀ s) : Follows s₀ (siteNote c s) := .ite h h.setR

protected theorem Follows.selftestOp {pg pass rows cols} (h : Follows s₀ s) : Follows s₀ (selftestOp pg pass rows cols s) := by
  unfold selftestOp
  refine .ite ?_ h
  extract_lets _ _ s₁ s₂ s₃ s₄ s₅ s₆
  have h₁ : Follows s₀ s₁ := h.updAlm
  have h₂ : Follows s₀ s₂ := .ite h₁.bistRecord h₁
  have h₃ : Follows s₀ s₃ := by
    unfold s₃
    split
    · exact .ite h₂.setR h₂
    · exact h₂
  have h₄ : Follows s₀ s₄ := h₃.pageSettle
  have h₅ : Follows s₀ s₅ := by
    refine .ite h₃.fault.releaseHeld (.ite ?_ (.ite ?_ h₄))
    · split
      · exact .ite h₃.fault.releaseHeld h₃.setR.arrayRetest
      · exact h₃.fault.releaseHeld
    · split
      · exact h₄.recAppend
      · exact h₄
  have h₆ : Follows s₀ s₆ := .ite (h₅.foldS fun _ _ h => .ite (Follows.recAppend h.spineOut) h) h₅
  refine Follows.decide_ ?_
  split
  · exact h₆.siteNote
  · exact h₆

protected theorem Follows.bootOp {ms} (h : Follows s₀ s) : Follows s₀ (bootOp ms s) := .ite (h.updAlm.bind fun h => .ite h h.setR) h

protected theorem Follows.recChoose (h : Follows s₀ s) : Follows s₀ (recChoose s) :=
  .ite h ((Follows.ite h.updAlm (.ite h.updAlm h)).updAlm.recNote.bind fun h => (((Follows.ite h.setF h.setF.namedAlarm).foldS fun _ _ h =>
    .ite h.spineOut (.ite (h.setR.bind fun h => .ite h.arrayRetest h) h)).foldS fun _ _ h => h.recAppend).decide_)

protected theorem Follows.recReadOp {copyB readable bs} (h : Follows s₀ s) : Follows s₀ (recReadOp copyB readable bs s) := .ite h.updAlm.recChoose h
protected theorem Follows.recTimeoutOp (h : Follows s₀ s) : Follows s₀ (recTimeoutOp s) := .ite h.updAlm.recChoose h
protected theorem Follows.recClearOp (h : Follows s₀ s) : Follows s₀ (recClearOp s) := .ite h.setF.updAlm.recWrite h

protected theorem Follows.substOp {v} (h : Follows s₀ s) : Follows s₀ (substOp v s) :=
  .ite h (.ite h.setR (.ite h.setR (.ite h.setR (h.sitePower.foldS fun _ _ h =>
    h.setBState.frame).updAlm.setR)))

protected theorem Follows.substDoneOp {n pass} (h : Follows s₀ s) : Follows s₀ (substDoneOp n pass s) :=
  .ite (h.updAlm.bind fun h => .ite (h.foldS fun _ _ h =>
    h.setBState.setReady).frame.reservePages.setR.setR.almChange.ptnsDegraded h.setR.siteRetire.setR) h

protected theorem Follows.almStart (h : Follows s₀ s) : Follows s₀ (almStart s) := .ite h h.frame.almChange

/-! ### Firmware -/

protected theorem Follows.logNote (h : Follows s₀ s) : Follows s₀ (logNote s) := (h.foldS fun _ _ h => h.setF).setF
protected theorem Follows.setCoreMap {n v} (h : Follows s₀ s) : Follows s₀ (setCoreMap n v s) := h.setF.logNote

protected theorem Follows.scriptAddrWritten {c} (h : Follows s₀ s) : Follows s₀ (scriptAddrWritten c s) := by
  unfold scriptAddrWritten
  split
  · exact h.setCoreMap
  · exact h

protected theorem Follows.logPut {i serial d} (h : Follows s₀ s) : Follows s₀ (logPut i serial d s) := (h.foldS fun _ _ h => h.setF).logNote
protected theorem Follows.fwRefuse {r} (h : Follows s₀ s) : Follows s₀ (fwRefuse r s) := h.updAlm.frame.setR

protected theorem Follows.fwFinish (h : Follows s₀ s) : Follows s₀ (fwFinish s) := by
  unfold fwFinish
  split
  · exact .ite h.updAlm.setR h
  · exact h

protected theorem Follows.fwFail {n} (h : Follows s₀ s) : Follows s₀ (fwFail n s) := h.updAlm.setR.setF.setCoreMap.namedAlarm

protected theorem Follows.fwLoaded {n e log} (h : Follows s₀ s) : Follows s₀ (fwLoaded n e log s) :=
  Follows.bind (by split; exacts [.ite h h.setQ, h]) fun h => h.updAlm.setF.setCoreMap

protected theorem Follows.fwBegin {es log} (h : Follows s₀ s) : Follows s₀ (fwBegin es log s) := by
  unfold fwBegin
  dsimp only
  exact (h.updAlm.foldS fun _ _ h => (by split; exacts [.ite h.updAlm h.fwFail, h.fwFail])).frame.fwFinish

protected theorem Follows.manSettle (h : Follows s₀ s) : Follows s₀ (manSettle s) := by
  unfold manSettle
  dsimp only
  split
  · exact .ite h (.ite (.ite h.fwRefuse (.ite h.fwRefuse h.updUnit.unitRead)) (.ite (.ite h.fwRefuse h.updUnit) h))
  · exact h

protected theorem Follows.fwCmdOp {v} (h : Follows s₀ s) : Follows s₀ (fwCmdOp v s) :=
  .ite h (.ite h.setR (.ite h.setF ((h.foldS fun _ _ h => h.setR.setR).setR.updAlm.frame.bind fun h =>
    .ite h.unitRead.manSettle.manSettle h.fwRefuse)))

protected theorem Follows.manCheckOp (h : Follows s₀ s) : Follows s₀ (manCheckOp s) := by
  unfold manCheckOp
  dsimp only
  split
  · exact .ite h (.ite h.fwRefuse (.ite (h.satR.firstR.bind fun h => (Follows.ite h.setF h).fwRefuse) (h.logPut.wrapR.bind fun h =>
      .ite h.fwBegin h.fwRefuse)))
  · exact h

protected theorem Follows.fetchSettle {c} (h : Follows s₀ s) : Follows s₀ (fetchSettle c s) := by
  unfold fetchSettle
  dsimp only
  split
  · split
    · exact h
    · split
      · split
        · exact h.frame.bind fun h => .ite h.fwFail.fwFinish h.updCore.updAlm
        · exact h.frame
      · exact h.frame
  · exact h

protected theorem Follows.hashOp {row} (h : Follows s₀ s) : Follows s₀ (hashOp row s) := by
  unfold hashOp
  dsimp only
  split
  · exact h
  · split
    · exact h
    · split
      · exact .ite h.fwLoaded.fwFinish (.ite h.fwFail.fwFinish h.updAlm.setR.frame.unitRead.fetchSettle)
      · exact h.fwFail.fwFinish

protected theorem Follows.attestOp (h : Follows s₀ s) : Follows s₀ (attestOp s) := .ite h.setR (.ite h.setR h.frame.setR)

protected theorem Follows.attSettle (h : Follows s₀ s) : Follows s₀ (attSettle s) := by
  unfold attSettle
  dsimp only
  split
  · exact .ite (h.frame.bind fun h => .ite h.setR h.setR.wrapR) h
  · exact h

protected theorem Follows.attDoneOp (h : Follows s₀ s) : Follows s₀ (attDoneOp s) := by
  unfold attDoneOp
  dsimp only
  split
  · exact h.frame.updUnit.bind fun h => (Follows.ite h.unitWrite h.updUnit).attSettle
  · exact h

/-! ### Migration -/

protected theorem Follows.migrateOp {c v} (h : Follows s₀ s) : Follows s₀ (migrateOp c v s) := .ite h (.ite (.ite h.updCore.setR h) h.ignoredRws)

protected theorem Follows.migrateDoneOp {c unreadable} (h : Follows s₀ s) : Follows s₀ (migrateDoneOp c unreadable s) := by
  unfold migrateDoneOp
  split
  · exact h
  next src _ =>
    extract_lets size from_ lost spad s₁ s₂
    have h₁ : Follows s₀ s₁ := h.updCore
    have h₂ : Follows s₀ s₂ := h₁.setR
    exact .ite h₂ h₂.fault

/-! ### Responses -/

protected theorem Follows.annSettle (h : Follows s₀ s) : Follows s₀ (annSettle s) := by
  unfold annSettle
  split
  · exact .ite h.frame.setR h
  · exact h

protected theorem Follows.annDumpOp (h : Follows s₀ s) : Follows s₀ (annDumpOp s) := .ite h.setR h.setR.frame.unitWrite.annSettle

protected theorem Follows.settleUnit {u} (h : Follows s₀ s) : Follows s₀ (settleUnit u s) :=
  .ite h.dumpSettle.loadSettle.loadSettle (.ite h.annSettle (.ite h.manSettle.manSettle (.ite h.attSettle (.ite h.imgStep
    (.ite h.fetchSettle h)))))

protected theorem Follows.settleUnits (h : Follows s₀ s) : Follows s₀ (settleUnits s) := h.foldS fun _ _ h => h.settleUnit

/-! ### Blocks -/

protected theorem Follows.startHook {b pg i} (h : Follows s₀ s) : Follows s₀ (startHook b pg i s) := by
  unfold startHook
  split
  · exact h.ptnStart
  · exact h.twnStart
  · exact h.almStart
  · exact h.lvnStart
  · exact h.updArr
  · exact h.setR.setR
  · exact h.setR.setR
  · exact h.classUpdate
  · exact h

protected theorem Follows.stopHook {b i ran} (h : Follows s₀ s) : Follows s₀ (stopHook b i ran s) := by
  unfold stopHook
  dsimp only
  split
  · exact .ite h.timeFault h
  · exact h.foldS fun _ _ h => h.cascade
  · split
    · exact .ite h.cascade h
    · exact h
  · exact h.updArr
  · exact h.cacheDropIf
  · exact h.updSlice
  · exact h.dblDiscard
  · exact h.twnStop
  · exact h.lnkStop
  · split
    · exact h.updPtn.ptnCancel
    · exact h.updPtn.ptnCancel
    · exact h.updPtn
  · exact h

protected theorem Follows.runHook {b i} (h : Follows s₀ s) : Follows s₀ (runHook b i s) := by
  unfold runHook
  split
  · exact h.slcRunning
  · exact h.setR
  · exact h.medRunning
  · exact h.lnkRunning
  · exact h.calStartOp
  · exact h.netbRunning
  · exact h.groupChecks.setR
  · exact h

protected theorem Follows.pageFault {pg bits} (h : Follows s₀ s) : Follows s₀ (pageFault pg bits s) := by
  unfold pageFault
  dsimp only
  split
  · exact h.cascade
  · exact h.cascade

protected theorem Follows.startOp {b pg i} (h : Follows s₀ s) : Follows s₀ (startOp b pg i s) := by
  unfold startOp
  dsimp only
  split
  · split
    · exact h.setBState.startRefused
    · exact h.setBState.startHook
  · exact .ite h h.setR

protected theorem Follows.stopOp {b pg i} (h : Follows s₀ s) : Follows s₀ (stopOp b pg i s) :=
  .ite h.setR (.ite h.setBState.stopHook.releaseHeld (.ite h.setBState.stopHook (.ite h h.setR)))

protected theorem Follows.abortOp {b pg i} (h : Follows s₀ s) : Follows s₀ (abortOp b pg i s) :=
  .ite h.setR (.ite (Follows.bind (by split; exacts [h.actionCancel.ptnCancel, h]) fun h =>
    h.pageFault.pageAbort.releaseHeld.settleUnits.opDrain) (.ite h h.setR))

protected theorem Follows.clearOp {b pg i} (h : Follows s₀ s) : Follows s₀ (clearOp b pg i s) := by
  unfold clearOp
  dsimp only
  split
  · split
    · exact h.setR
    · split
      · exact h.setR.ptnStopped
      · exact h.setR.setBState
  · exact .ite h h.setR

protected theorem Follows.retireOp {b pg i} (h : Follows s₀ s) : Follows s₀ (retireOp b pg i s) := by
  unfold retireOp
  dsimp only
  split
  · exact h.setR
  · split
    · split
      · exact h.siteRetire
      · exact h.pageRetire.sliceEntry
      · exact h.portRetire
      · exact h.pageRetire
    · exact .ite h h.setR

protected theorem Follows.startingDoneOp {b pg i} (h : Follows s₀ s) : Follows s₀ (startingDoneOp b pg i s) := by
  unfold startingDoneOp
  split
  · split
    · exact h.ptnRunning
    · exact .ite h h.setBState.runHook.releaseHeld
  · exact h

protected theorem Follows.stoppingDoneOp {b pg i} (h : Follows s₀ s) : Follows s₀ (stoppingDoneOp b pg i s) := by
  unfold stoppingDoneOp
  split
  · split
    · exact h.ptnStopped
    · exact h.setBState
  · exact h

protected theorem Follows.cmdTimeoutOp {b pg i} (h : Follows s₀ s) : Follows s₀ (cmdTimeoutOp b pg i s) :=
  .ite h (.ite (Follows.bind (by split; exacts [.ite h.ptnCancel h, h]) fun h => h.pageFault.bind fun h => .ite h h.releaseHeld.decide_) h)

protected theorem Follows.resetAssertOp {ns kept} (h : Follows s₀ s) : Follows s₀ (resetAssertOp ns kept s) :=
  .ite (h.frame.bind fun h => .ite h h.chipReset) h

protected theorem Follows.portsAbsent (h : Follows s₀ s) : Follows s₀ (portsAbsent s) := h.foldS fun _ _ h => .ite h h.setBState.setBState

protected theorem Follows.resetReleaseOp {testEn railsOk} (h : Follows s₀ s) : Follows s₀ (resetReleaseOp testEn railsOk s) :=
  .ite (h.frame.portsAbsent.setF.bind fun h => .ite h.setF h) h

/-! ### Control space -/

protected theorem Follows.countNow {b pg i o} (h : Follows s₀ s) : Follows s₀ (countNow b pg i o s) := by
  unfold countNow
  dsimp only
  split
  · exact .ite h.satFree h
  · exact .ite h.fresh.setR h
  · exact h

protected theorem Follows.rcClear {b pg i o} (h : Follows s₀ s) : Follows s₀ (rcClear b pg i o s) := h.setR.bind fun h => .ite h.peakClear h

protected theorem Follows.regRead {b pg i o} (h : Follows s₀ s) : Follows s₀ (regRead b pg i o s).2 := by
  unfold regRead
  dsimp only
  split
  · exact h
  · split
    · exact h.frame
    · split
      · split <;> exact h
      · exact h.countNow.bind fun h => .ite h.rcClear h

protected theorem Follows.cmdWrite {b pg i v} (h : Follows s₀ s) : Follows s₀ (cmdWrite b pg i v s) := by
  unfold cmdWrite
  split
  · exact h.startOp
  · exact h.stopOp
  · exact h.abortOp
  · exact h.clearOp
  · exact h.retireOp
  · exact h.setR

protected theorem Follows.headerWrite {b pg i o v} (h : Follows s₀ s) : Follows s₀ (headerWrite b pg i o v s) :=
  .ite h.cmdWrite (.ite h.setR (.ite (.ite h.setR h.ignoredRws) (.ite h.setR (.ite h.setR h))))

protected theorem Follows.rowWrite {b pg o r v} (h : Follows s₀ s) : Follows s₀ (rowWrite b pg o r v s) :=
  Follows.bind (by split; exacts [.ite (h.foldS fun _ _ h => h.setR) h, h.setR]) fun h => .ite h.ignoredRws h

protected theorem Follows.ptnAction {p v} (h : Follows s₀ s) : Follows s₀ (ptnAction p v s) := by
  unfold ptnAction
  split
  · exact h
  · exact h.replayOp
  · exact h.dumpOp
  · exact h.loadOp
  · exact .ite h h.setF

protected theorem Follows.twnAction {v} (h : Follows s₀ s) : Follows s₀ (twnAction v s) := by
  unfold twnAction
  split
  · exact h
  · exact h.takeOp
  · exact h.silverOp
  · exact h.fosterOp
  · exact .ite h h.setR

protected theorem Follows.annAction {v} (h : Follows s₀ s) : Follows s₀ (annAction v s) :=
  (Follows.ite h.annReleaseOp h).bind fun h => (Follows.ite h.setF h).bind fun h => (Follows.ite h.annDumpOp h).bind fun h =>
    .ite h.annClearOp h

protected theorem Follows.enableWrite {d k v} (h : Follows s₀ s) : Follows s₀ (enableWrite d k v s) :=
  h.foldS fun _ _ h => .ite h.ringEnableOp h.ringDisableOp

protected theorem Follows.commitHook {b i o} (h : Follows s₀ s) : Follows s₀ (commitHook b i o s) := by
  unfold commitHook
  split
  · exact .ite h.frame h
  · exact .ite h.scriptAddrWritten h
  · exact h

protected theorem Follows.commitLow {pg o} (h : Follows s₀ s) : Follows s₀ (commitLow pg o s) := by
  unfold commitLow
  dsimp only
  split
  · exact h.frame.setR
  · exact h

/-- A register's write, where it has an action of its own, gives a state that follows. -/
def FollowsOpt (s₀ : State) (o : Option State) : Prop := ∀ t, o = some t → Follows s₀ t

theorem FollowsOpt.some (h : Follows s₀ s) : FollowsOpt s₀ (some s) := fun _ e => Option.some.inj e ▸ h

theorem FollowsOpt.none : FollowsOpt s₀ none := fun _ e => nomatch e

protected theorem FollowsOpt.ite {c : Prop} [Decidable c] {a b : Option State} (ha : FollowsOpt s₀ a) (hb : FollowsOpt s₀ b) :
    FollowsOpt s₀ (if c then a else b) := by
  split
  · exact ha
  · exact hb

theorem Follows.actWrite {b pg i o v} (h : Follows s₀ s) : FollowsOpt s₀ (actWrite b pg i o v s) := by
  cases b with
  | glb => exact .ite (.some h.setR) .none
  | ptn => exact .ite (.some h.ptnAction) .none
  | mxa => exact .ite (.some (.ite h.bistStart h)) .none
  | cor => exact .ite (.some h.migrateOp) .none
  | cal => exact .ite (.some h.calForceWrite) (.ite (.some h.calXarriveWrite) (.ite (.some h.calClearWrite) .none))
  | med => exact .ite (.some (.ite h.keepStart h)) .none
  | dbl => exact .ite (.some h.enableWrite) (.ite (.some h.enableWrite) (.ite (.some h.doorbellWrite) .none))
  | lnk => exact .ite (.some (.ite h.retrainOp h)) .none
  | alm => exact .ite (.some h.substOp) (.ite (.some (.ite h.recClearOp h)) (.ite (.some h.fwCmdOp) .none))
  | twn => exact .ite (.some h.twnAction) .none
  | ann => exact .ite (.some h.annAction) (.ite (.some h.setR) (.ite (.some h.traceTailOp) .none))
  | sec => exact .ite (.some (.ite h.attestOp h)) .none
  | netm => exact .ite (.some h.maskCommit) .none
  | _ => exact .none

protected theorem Follows.regWrite {b pg i o v} (h : Follows s₀ s) : Follows s₀ (regWrite b pg i o v s) := by
  unfold regWrite
  refine .ite h.headerWrite (.ite h ?_)
  split
  next t e => exact h.actWrite t e
  · split
    · exact h
    · exact .ite h.frame (.ite h.commitLow.rowWrite.commitHook h.rowWrite)

protected theorem Follows.accCount {err} (h : Follows s₀ s) : Follows s₀ (accCount err s) := h.wrapR.fresh.setR.bind fun h => .ite h.satR h

protected theorem Follows.regAccess {write a v} (h : Follows s₀ s) : Follows s₀ (regAccess write a v s).2 := by
  unfold regAccess
  dsimp only
  split
  · exact h.accErr.accCount
  · split
    · exact h.accCount
    · split
      · exact h.accCount
      · exact .ite₂ h.regWrite.settleUnits.accCount h.regRead.accCount

protected theorem Follows.farAccess {write d a v} (h : Follows s₀ s) : Follows s₀ (farAccess write d a v s) :=
  .ite (Follows.ite h.lkgDiscard h).send h.frame.frame.post

protected theorem Follows.accessOp {write a v} (h : Follows s₀ s) : Follows s₀ (accessOp write a v s) := by
  unfold accessOp
  dsimp only
  split
  · exact h.regAccess.send
  · exact h.farAccess
  · exact h.accCount.send
  · exact h.accErr.accCount.send

protected theorem Follows.regMsgOp {compl write err sdie tag addr v} (h : Follows s₀ s) :
    Follows s₀ (regMsgOp compl write err sdie tag addr v s) := by
  unfold regMsgOp
  dsimp only
  split
  · split
    · exact h.opDone.send
    · exact h.satR
  · split
    · exact h.regAccess.post
    · exact h.accCount.post

/-! ### Test access -/

protected theorem Follows.updTap {f} (h : Follows s₀ s) : Follows s₀ (updTap f s) := h.frame
protected theorem Follows.setTapState {v} (h : Follows s₀ s) : Follows s₀ (setTapState v s) := h.setF
protected theorem Follows.setTapInstr {v} (h : Follows s₀ s) : Follows s₀ (setTapInstr v s) := h.setF

protected theorem Follows.freshBits {n} (h : Follows s₀ s) : Follows s₀ (freshBits s n).2 := by
  induction n generalizing s with
  | zero => exact h
  | succ n ih => exact ih h.fresh

protected theorem Follows.drCapture (h : Follows s₀ s) : Follows s₀ (drCapture s).2 := by
  unfold drCapture
  dsimp only
  split
  · exact h.freshBits
  · exact h.freshBits
  · exact h
  · exact h.fresh
  · exact h

protected theorem Follows.irCapture (h : Follows s₀ s) : Follows s₀ (irCapture s).2 := by
  unfold irCapture
  dsimp only
  exact h.freshBits

protected theorem Follows.setInstr {k v} (h : Follows s₀ s) : Follows s₀ (setInstr k v s) := h.updTap
protected theorem Follows.instrStart {k} (h : Follows s₀ s) : Follows s₀ (instrStart k s) := .ite h (.ite h.setInstr h.setInstr)
protected theorem Follows.csaUpdate {w'} (h : Follows s₀ s) : Follows s₀ (csaUpdate w' s) := .ite h.regAccess.wrapR.updTap h

protected theorem Follows.drUpdate (h : Follows s₀ s) : Follows s₀ (drUpdate s) := by
  unfold drUpdate
  dsimp only
  split
  · exact h.updTap
  · exact h.updTap
  · exact Follows.bind (by split; exacts [h.csaUpdate, h]) fun h => (h.foldS fun _ _ h => h.instrStart).updTap
  · exact h

protected theorem Follows.tapAct {tdi} (h : Follows s₀ s) : Follows s₀ (tapAct tdi s) :=
  .ite h.drCapture.updTap (.ite h.irCapture.updTap (.ite h.updTap (.ite h.updTap h.updTap)))

protected theorem Follows.tapEnter {st} (h : Follows s₀ s) : Follows s₀ (tapEnter st s) :=
  h.setTapState.bind fun h => .ite h.setTapInstr (.ite h.setTapInstr (.ite h.drUpdate h))

protected theorem Follows.tapEdge {tms tdi} (h : Follows s₀ s) : Follows s₀ (tapEdge tms tdi s) := h.tapAct.tapEnter

protected theorem Follows.tapRun {l} (h : Follows s₀ s) : Follows s₀ (tapRun l s).2 := by
  induction l generalizing s with
  | nil => exact h
  | cons e t ih => exact ih h.tapEdge

protected theorem Follows.tapIdle (h : Follows s₀ s) : Follows s₀ (tapIdle s) := .ite h.tapEdge h

protected theorem Follows.scanOp {op nbits ok f} (h : Follows s₀ s) (hf : ∀ s, Follows s₀ s → Follows s₀ (f s).2) : Follows s₀ (scanOp op nbits ok f s) :=
  .ite h.satR (hf _ h).wrapR.post

protected theorem Follows.testResetOp {nbits} (h : Follows s₀ s) : Follows s₀ (testResetOp nbits s) := h.scanOp fun _ h => h.tapRun
protected theorem Follows.testIrOp {nbits tdi} (h : Follows s₀ s) : Follows s₀ (testIrOp nbits tdi s) := h.scanOp fun _ h => h.tapIdle.tapRun
protected theorem Follows.testDrOp {nbits tdi} (h : Follows s₀ s) : Follows s₀ (testDrOp nbits tdi s) := h.scanOp fun _ h => h.tapIdle.tapRun
protected theorem Follows.testIdleOp {nbits} (h : Follows s₀ s) : Follows s₀ (testIdleOp nbits s) := h.scanOp fun _ h => h.tapIdle.updTap.freshBits
protected theorem Follows.selectInstr {v} (h : Follows s₀ s) : Follows s₀ (selectInstr v s) := h.setTapInstr

/-! ### Every command -/

/-- A command's answer: the next state, if there is one, follows. -/
def FollowsOut (s₀ : State) (r : Host.Outcome State Fault Refusal) : Prop := ∀ t, r = .next t → Follows s₀ t

theorem FollowsOut.next (h : Follows s₀ s) : FollowsOut s₀ (.next s) := by
  rintro _ ⟨⟩
  exact h

theorem FollowsOut.fault {e} : FollowsOut s₀ (.fault e) := fun _ e => nomatch e

protected theorem FollowsOut.ite {c : Prop} [Decidable c] {a b : Host.Outcome State Fault Refusal} (ha : FollowsOut s₀ a) (hb : FollowsOut s₀ b) :
    FollowsOut s₀ (if c then a else b) := by
  split
  · exact ha
  · exact hb

/-- Held in reset, the chiplet stays as it is. -/

protected theorem Follows.act {t : State} (h : Follows s₀ s) (ht : Follows s₀ t) : FollowsOut s₀ (act s t) := .next (.ite h ht)
protected theorem Follows.onUnit {i n f} (h : Follows s₀ s) (hf : Follows s₀ (f s)) : FollowsOut s₀ (onUnit i n f s) := .ite (h.act hf) .fault

protected theorem Follows.onPage {pg f} (h : Follows s₀ s) (hf : ∀ b i, Follows s₀ (f b pg i s)) : FollowsOut s₀ (onPage pg f s) := by
  unfold onPage
  split
  · exact h.act (hf _ _)
  · exact .fault

/-- What each command rests on: the lemma about its function. -/

protected theorem Follows.exec {i} (h : Follows s₀ s) : FollowsOut s₀ (exec i s) := by
  cases i with
  | resetRelease => exact .next h.resetReleaseOp
  | resetAssert => exact .next h.resetAssertOp
  | start => exact h.onPage fun _ _ => h.startOp
  | stop => exact h.onPage fun _ _ => h.stopOp
  | abort => exact h.onPage fun _ _ => h.abortOp
  | clear => exact h.onPage fun _ _ => h.clearOp
  | retire => exact h.onPage fun _ _ => h.retireOp
  | startingDone => exact h.onPage fun _ _ => h.startingDoneOp
  | stoppingDone => exact h.onPage fun _ _ => h.stoppingDoneOp
  | cmdTimeout => exact h.onPage fun _ _ => h.cmdTimeoutOp
  | selftestDone => exact .ite (h.act h.selftestOp) .fault
  | registerWrite | rcRead | wideReadCapture | wideWriteCommit => exact h.act h.accessOp
  | reg => exact h.act h.regMsgOp
  | time => exact h.act h.timeOp
  | holdover => exact h.act h.holdoverOp
  | timeLost => exact h.act h.timeLostOp
  | packageTick => exact h.act h.packageTickOp
  | partitionTick => exact h.onUnit h.ptnTickOp
  | solEndPoint => exact h.onUnit h.endPointOp
  | solCommit => exact h.onUnit h.commitOp
  | solOverrun => exact h.onUnit h.overrunOp
  | partitionFaulted => exact h.onUnit h.ptnFaultedOp
  | replay => exact h.onUnit h.replayOp
  | replayRestoreDone => exact h.onUnit h.ptnRunning
  | dump => exact h.onUnit h.dumpOp
  | load => exact h.onUnit h.loadOp
  | scriptLoadDone => exact h.onUnit h.scriptLoadOp
  | syllableIssue => exact h.onUnit h.issueOp
  | freezeLower => exact h.onUnit h.lowerOp
  | sNop => exact h.onUnit (h.scalarOp fun _ _ h => h)
  | solEnd => exact h.onUnit h.solEndOp
  | solEndComplete => exact h.onUnit h.parkOp
  | br => exact h.onUnit (h.seqOp fun _ _ h => h.brAt)
  | loopi => exact h.onUnit (h.seqOp fun _ _ h => h.loopAt)
  | loopr => exact h.onUnit (h.seqOp fun _ _ h => h.loopAt)
  | guard => exact h.onUnit (h.seqOp fun _ _ h => h.guardAt)
  | wait => exact h.onUnit (h.scalarOp fun _ _ h => h.waitOn)
  | waitr => exact h.onUnit (h.scalarOp fun _ _ h => h.waitOn)
  | waitl => exact h.onUnit (h.scalarOp fun _ _ h => h.waitlAt)
  | waitlTimeout => exact h.onUnit h.waitlExpire
  | tests | add | sub | and | or | xor | shl | shr | sra | mul | min | max | minu | maxu | addi | lis | lih | shli | shri | cmpeq | cmplt | cmpltu
  | pand | por | pxor =>
    exact h.onUnit (h.scalarOp fun _ _ h => h.updCore)
  | ld => exact h.onUnit (h.scalarOp fun _ _ h => h.ldAt)
  | st => exact h.onUnit (h.scalarOp fun _ _ h => h.stAt)
  | mfs => exact h.onUnit (h.scalarOp fun _ _ h => h.mfsAt)
  | movx => exact h.onUnit (h.scalarOp fun _ _ h => h.movxAt)
  | mNop | vNop | xNop | cNop | statStatus | portUp => exact h.onUnit (f := id) h
  | mode => exact h.onUnit (h.mOp fun _ _ h => h.modeAt)
  | seta => exact h.onUnit (h.mOp fun _ _ h => h.setaAt)
  | setai => exact h.onUnit (h.mOp fun _ _ h => h.updArr)
  | setcnt => exact h.onUnit (h.mOp fun _ _ h => h.setcntAt)
  | mLd => exact h.onUnit (h.mOp fun _ _ h => h.mLdAt)
  | stream => exact h.onUnit (h.mOp fun _ _ h => h.streamAt)
  | bist => exact .ite (h.act (.ite h h.bistStart)) .fault
  | bistDone => exact .ite (h.act h.bistFinish) .fault
  | vadd | vsub | vmul | vfma | vfms | vfnma | vmin | vmax | vcmp | vsel | vmov | vand | vor | vxor | vcvt | vunpk | mand | mor | mxor | mandn
  | vlis | vbcs | vcmpr | vexpd | exp2 | log2 | rcp | rsqrt | tanh | smxa =>
    exact h.onUnit (h.vOp fun _ _ h => h.setVec)
  | vabs => exact h.onUnit (h.vOp fun _ _ h => h.vabsAt)
  | vneg => exact h.onUnit (h.vOp fun _ _ h => h.vnegAt)
  | vrint => exact h.onUnit (h.vOp fun _ _ h => h.vrintAt)
  | vshl => exact h.onUnit (h.vOp fun _ _ h => h.vshlAt)
  | vshr => exact h.onUnit (h.vOp fun _ _ h => h.vshrAt)
  | vsra => exact h.onUnit (h.vOp fun _ _ h => h.vsraAt)
  | vld => exact h.onUnit (h.vOp fun _ _ h => h.vldAt)
  | vst => exact h.onUnit (h.vOp fun _ _ h => h.vstAt)
  | vseta | vsetai => exact h.onUnit (h.vOp fun _ _ h => h.updVec)
  | vred => exact h.onUnit (h.vOp fun _ _ h => h.vredAt)
  | mcnt => exact h.onUnit (h.vOp fun _ _ h => h.updVec)
  | vflags => exact h.onUnit (h.vOp fun _ _ h => h.vflagsAt)
  | smxn => exact h.onUnit (h.vOp fun _ _ h => h.smxnAt)
  | xseta => exact h.onUnit (h.xOp fun _ _ h => h.xsetaAt)
  | xsetai => exact h.onUnit (h.xOp fun _ _ h => h.xsetaiAt)
  | xq | xqn => exact h.onUnit (h.xOp fun _ _ h => h.xqAt)
  | gq => exact h.onUnit (h.xOp fun _ _ h => h.gqAt)
  | copy | fill | script | mcast | reduce | leaven => exact h.onUnit h.takeDesc
  | moveComplete => exact h.onUnit h.completeDesc
  | gatherDescriptor => exact h.onUnit h.gatherStart
  | gatherRow => exact h.onUnit h.gatherStep
  | bagComplete => exact h.onUnit h.bagFinish
  | corMigrate => exact h.onUnit h.migrateOp
  | migrateDone => exact h.onUnit h.migrateDoneOp
  | arr => exact h.onUnit (h.cOp fun _ _ h => h.arrOpAt)
  | waitb => exact h.onUnit (h.cOp fun _ _ h => h.waitbAt)
  | arwt => exact h.onUnit (h.cOp fun _ _ h => h.arwtAt)
  | testb => exact h.onUnit (h.cOp fun _ _ h => h.testbAt)
  | raise => exact h.onUnit (h.cOp fun _ _ h => h.raiseSig)
  | spanArrive | spanRelease | spanFault => exact h.act h.spanTake
  | calForce => exact h.onUnit h.calForceWrite
  | calXarrive => exact h.onUnit h.calXarriveWrite
  | calClear => exact h.onUnit h.calClearWrite
  | quietExpire => exact h.onUnit h.quietExpireOp
  | vigilDetect => exact h.onUnit h.vigilDetectOp
  | rd | wr => exact h.act h.reqFlit
  | rdata => exact h.act h.rdataOp.settleUnits
  | wack => exact h.act h.wackOp.settleUnits
  | mc => exact h.act h.mcOp
  | mcrep => exact h.act h.mcrepOp
  | mcHoldExpire => exact h.onUnit h.mcExpire
  | red => exact h.act h.redOp
  | rack => exact h.act h.rackOp
  | netbTxnTimeout => exact h.act h.localTimeout.settleUnits
  | netmMaskCommit => exact h.act h.maskCommit
  | inv => exact h.act h.invOp
  | iack => exact h.act h.iackOp
  | cohn => exact h.act h.cohnOp
  | stackTimeout => exact h.onUnit h.stackTimeoutOp
  | tileStageTimeout => exact h.onUnit h.dropStage
  | stackRdResponse => exact h.onUnit h.stackRdOp
  | keepRecord => exact h.onUnit h.keepRecordOp
  | verifyStatus => exact h.onUnit h.verifyOp
  | refNotice => exact h.onUnit h.refNoticeOp
  | portDown => exact h.onUnit h.takeover
  | temp => exact h.onUnit h.tempOp
  | refresh => exact h.onUnit h.refreshOp
  | refWatch => exact h.onUnit h.refWatchOp
  | peerArm => exact h.onUnit h.peerArmOp
  | managerWait => exact h.onUnit h.managerWaitOp
  | claim => exact h.onUnit h.claimOp
  | release => exact h.onUnit h.releaseOp
  | remapBegin => exact h.onUnit h.remapBeginOp
  | remapAck => exact h.onUnit h.remapAckOp
  | remapDone => exact h.onUnit h.remapDoneOp
  | scrubFix => exact h.onUnit h.scrubFixOp
  | rowReport => exact h.onUnit h.rowReportOp
  | trrReq => exact h.onUnit h.trrReqOp
  | keepReq => exact h.onUnit h.keepReqOp
  | keepData => exact h.onUnit h.keepDataOp
  | patrolScrub => exact h.onUnit h.scrubOp
  | keepSave | keepLoad => exact h.onUnit h.keepStart
  | keepTransferDone => exact h.onUnit h.keepDoneOp
  | ageUpdate => exact h.onUnit h.ageOp
  | lvn => exact h.act h.lvnOp
  | lvnQueueStage => exact h.onUnit h.lvnQueueOp
  | lvnCommit => exact h.act h.lvnCommitOp
  | lvnDiscard => exact h.act h.lvnDiscardOp
  | batchApply => exact h.onUnit h.batchOp
  | ringEnable => exact h.onUnit h.ringEnableOp
  | ringDisable => exact h.onUnit h.ringDisableOp
  | dblProd | dblCons => exact h.onUnit h.doorbellWrite
  | msgSend => exact h.onUnit h.msgSendOp
  | ring => exact h.act h.ringArrive
  | msgAck => exact h.act h.msgAckOp
  | msgCredit => exact h.act h.msgCreditOp
  | idle => exact h.onUnit h.idleOp
  | data => exact h.onUnit h.dataOp
  | ctrl => exact h.onUnit h.ctrlOp
  | id => exact h.onUnit h.idOp
  | hovr => exact h.onUnit h.hovrOp
  | ackTimeout => exact h.onUnit h.ackTimeoutOp
  | swapreq => exact h.onUnit h.swapReqOp
  | swap => exact h.onUnit h.swapOp
  | halfreq => exact h.onUnit h.halfReqOp
  | half => exact h.onUnit h.halfOp
  | ctrlRetire => exact h.onUnit h.retireWordOp
  | offline => exact h.onUnit h.offlineOp
  | online => exact h.onUnit h.onlineOp
  | remapResume => exact h.onUnit h.remapResumeOp
  | laneWindow => exact h.onUnit (h.foldS fun _ _ h => h.setF)
  | laneLockLoss => exact h.onUnit (.ite h.rxFail h)
  | trainDone => exact h.onUnit h.trainDoneOp
  | trainRetry => exact h.onUnit h.trainRetryOp
  | trainLimit => exact h.onUnit h.trainLimitOp
  | idSend => exact h.onUnit h.idSendOp
  | retrain => exact h.onUnit (.ite h.retrainOp h)
  | linkDown => exact h.onUnit h.linkDownOp
  | drainTimeout => exact h.onUnit h.drainTimeoutOp
  | txnTimeout => exact h.act h.farTimeout.settleUnits
  | messageForward => exact h.onUnit h.forwardOp
  | flit => exact h.onUnit (f := fun _ => _) h.flitOp.settleUnits
  | cflit => exact h.onUnit h.cflitOp
  | assign => exact h.act h.assignOp
  | dieDown => exact h.act h.dieDownOp
  | dieUp => exact h.act h.dieUpOp
  | boot => exact h.act h.bootOp
  | repairRecordRead => exact h.act h.recReadOp
  | recordTimeout => exact h.act h.recTimeoutOp
  | almSubst => exact h.act h.substOp
  | substDone => exact h.act h.substDoneOp
  | recClear => exact h.act h.recClearOp
  | almFwCmd => exact h.act h.fwCmdOp
  | manifestCheck => exact h.act h.manCheckOp
  | pushDone => exact h.act h.updAlm
  | pushWaitTimeout => exact h.act h.updAlm
  | hash => exact h.onUnit h.hashOp
  | plan => exact h.act h.planOp
  | powerSample => exact h.act h.powerSampleOp
  | governorInterval => exact h.act h.governorOp
  | thermalSample => exact h.act h.thermalOp
  | droop => exact h.act h.droopOp
  | droopEnd => exact h.act h.frame
  | slewDone => exact h.act h.slewDoneOp
  | heldChangeApply => exact h.act h.heldApplyOp
  | refclkLoss => exact h.act h.chipReset
  | telemPeriod => exact h.act h.telemOp
  | alarmSlotFree => exact h.act h.alarmSlotFreeOp
  | incidentClose => exact h.act h.incidentShut
  | traceTailWrite => exact h.act h.traceTailOp
  | annRelease => exact h.act h.annReleaseOp
  | annDump => exact h.act h.annDumpOp
  | annClear => exact h.act h.annClearOp
  | traceRestart => exact h.act h.setF
  | attest => exact h.act h.attestOp
  | attestDone => exact h.act h.attDoneOp
  | testReset => exact h.act h.testResetOp
  | testIr => exact h.act h.testIrOp
  | testDr => exact h.act h.testDrOp
  | testIdle => exact h.act h.testIdleOp
  | extest | samplePreload | idcode | ijtag | bypass => exact h.act h.selectInstr
  | instrumentAbort => exact h.onUnit (.ite h.setInstr h)
  | take => exact h.act h.takeOp
  | silver => exact h.act h.silverOp
  | silverDone => exact h.act h.silverDoneOp
  | foster => exact h.act h.fosterOp
  | fosterDone => exact h.act h.fosterDoneOp
  | hello => exact h.act h.helloOp
  | helloTimer => exact h.act h.helloTimerOp
  | beat | alarm => exact .next h
  | beatTimer => exact h.act h.beatTimerOp
  | peerLost => exact h.act h.twinLost
  | snap | plane | carry | twinRing => exact h.act h.stageMsg
  | block => exact h.act h.blockOp
  | done => exact h.act h.doneOp
  | shipmentDone => exact h.onUnit h.shipDoneOp
  | ack => exact h.act h.ackOp
  | digest => exact h.act h.digestOp
  | digestTimeout => exact h.onUnit h.digestTimeoutOp
  | silverMessage => exact h.act h.silverMsgOp
  | silvered => exact h.act h.silveredOp
  | tck => exact h.act (.ite h.tapEdge h)
  | trstN => exact h.act (.ite h.tapEnter h)
  | failedCrcFrame => exact h.onUnit h.failedFramesOp
  | instrumentDone => exact h.onUnit (f := fun _ => _) (.ite (.ite h.updTap h) (.ite h.setInstr h))

/-- Settles O60: every command's lemma, from the state it starts in. That the outbox is never shortened and that free values are numbered by a counter
is the model's choice (log entries 10 and 11). -/
theorem whatNoCommandChanges : Obligations.WhatNoCommandChanges := by
  intro i s t e
  obtain ⟨hpending, hfuses, houtbox, hctr⟩ := (Follows.refl s).exec t e
  exact ⟨hpending, hfuses, houtbox, hctr⟩

end Sys2Proof.Machine

/-! The page headers at reset (O57). -/

namespace Sys2Proof.Machine

/-- No register of a page header is shared between pages: those that are stand at 0x040 and above. -/
theorem sharedPage_header (b : Blk) (pg : Nat) {o : Nat} (ho : o < 0x40) : sharedPage b pg o = pg := by
  cases b with
  | slc | lvn => exact if_neg (by omega)
  | lnk | lkg => exact if_neg fun e => absurd (e ▸ ho) (by decide)
  | dbl => exact if_neg (by rintro (rfl | rfl | rfl | rfl) <;> exact absurd ho (by decide))
  | _ => rfl

theorem regKey_header (pg : Nat) {o : Nat} (ho : o < 0x40) : regKey pg o = pg * 0x1000 + o := by
  unfold regKey
  split
  · rw [sharedPage_header _ _ ho]
  · rfl

/-- A header register reads its reset value after reset: nothing is listed then. -/
theorem getR_reset_header (pg : Nat) {o : Nat} (ho : o < 0x40) : getR State.reset pg o = resetReg Fuses.good pg o := by
  have hpage : (pg * 0x1000 + o) / 0x1000 = pg := by omega
  have hoff : (pg * 0x1000 + o) % 0x1000 = o := by omega
  calc getR State.reset pg o = resetKey Fuses.good (regKey pg o) := rfl
    _ = resetReg Fuses.good pg o := by rw [regKey_header pg ho, resetKey, hpage, hoff]

/-- Settles O57: each header register of the table reads its Reset column (R67). That memory is empty and the package time 0 at reset is the
model's choice (log entries 12 and 13). -/
theorem resetValuesOfTheHeaders : Obligations.ResetValuesOfTheHeaders := by
  refine ⟨fun pg i b hb => ?_, rfl, rfl, rfl, rfl⟩
  refine ⟨?_, ?_, ?_, ?_, ?_, ?_, ?_, ?_⟩ <;> rw [getR_reset_header pg (by decide), resetReg, hb] <;> rfl

end Sys2Proof.Machine

/-! The commands of HDR_CMD and the ends of Starting and Stopping, by the block's state (O49, O50): an equation for each case of R79 and R78. -/

namespace Sys2Proof.Machine

variable {s : State} {b : Blk} {pg i c : Nat}

theorem act_next (hr : s.inReset = false) (t : State) : act s t = .next t := by simp [act, hr]

theorem onPage_next (hr : s.inReset = false) (hb : pageBlk pg = some (b, i)) (f : Blk → Nat → Nat → State → State) :
    onPage pg f s = .next (f b pg i s) := by simp [onPage, hb, act_next hr]

theorem onPage_gives {f : Blk → Nat → Nat → State → State} {t : State} (hr : s.inReset = false) (hb : pageBlk pg = some (b, i))
    (h : f b pg i s = t) : onPage pg f s = .next t := h ▸ onPage_next hr hb f

/-! ### START -/

theorem startOp_refused (h : bstate s pg = B.stopped) (hc : startBad (setBState pg B.starting s) b pg i = some c) :
    startOp b pg i s = startRefused pg c (setBState pg B.starting s) := by simp [startOp, h, hc]

theorem startOp_accepted (h : bstate s pg = B.stopped) (hc : startBad (setBState pg B.starting s) b pg i = none) :
    startOp b pg i s = startHook b pg i (setBState pg B.starting s) := by simp [startOp, h, hc]

theorem startOp_kept (h : bstate s pg = B.starting ∨ bstate s pg = B.running) : startOp b pg i s = s := by
  rcases h with h | h <;> simp [startOp, h]

theorem startOp_ignored (h : bstate s pg = B.absent ∨ bstate s pg = B.stopping ∨ bstate s pg = B.faulted ∨ bstate s pg = B.retired) :
    startOp b pg i s = ignoredCmd pg s := by
  rcases h with h | h | h | h <;> simp [startOp, h]

/-! ### STOP -/

theorem stopOp_deaf (hi : ignoresStop b = true) : stopOp b pg i s = ignoredCmd pg s := by simp [stopOp, hi]

theorem stopOp_starting (hi : ignoresStop b = false) (h : bstate s pg = B.starting) :
    stopOp b pg i s = releaseHeld pg (stopHook b i false (setBState pg B.stopping s)) := by simp [stopOp, hi, h]

theorem stopOp_running (hi : ignoresStop b = false) (h : bstate s pg = B.running) :
    stopOp b pg i s = stopHook b i true (setBState pg B.stopping s) := by simp [stopOp, hi, h]

theorem stopOp_kept (hi : ignoresStop b = false) (h : bstate s pg = B.stopped ∨ bstate s pg = B.stopping) : stopOp b pg i s = s := by
  rcases h with h | h <;> simp [stopOp, hi, h]

theorem stopOp_ignored (hi : ignoresStop b = false) (h : bstate s pg = B.absent ∨ bstate s pg = B.faulted ∨ bstate s pg = B.retired) :
    stopOp b pg i s = ignoredCmd pg s := by
  rcases h with h | h | h <;> simp [stopOp, hi, h]

/-! ### ABORT -/

theorem abortOp_deaf (hi : ignoresAbort b = true) : abortOp b pg i s = ignoredCmd pg s := by simp [abortOp, hi]

/-- What ABORT does to a block that works, once a partition's own work has been given up. -/
def abortPage (pg : Nat) (s : State) : State := opDrain (settleUnits (releaseHeld pg (pageAbort pg (pageFault pg 2 s))))

theorem abortOp_page (hi : ignoresAbort b = false) (hb : b ≠ .ptn)
    (h : bstate s pg = B.starting ∨ bstate s pg = B.running ∨ bstate s pg = B.stopping) : abortOp b pg i s = abortPage pg s := by
  cases b with
  | ptn => exact absurd rfl hb
  | _ => rcases h with h | h | h <;> simp [abortOp, abortPage, hi, h]

theorem abortOp_ptn (h : bstate s pg = B.starting ∨ bstate s pg = B.running ∨ bstate s pg = B.stopping) :
    abortOp .ptn pg i s = abortPage pg (ptnCancel i (actionCancel i s)) := by
  rcases h with h | h | h <;> simp [abortOp, abortPage, ignoresAbort, ignoresStop, h]

theorem abortOp_kept (hi : ignoresAbort b = false) (h : bstate s pg = B.stopped ∨ bstate s pg = B.faulted) : abortOp b pg i s = s := by
  rcases h with h | h <;> simp [abortOp, hi, h]

theorem abortOp_ignored (hi : ignoresAbort b = false) (h : bstate s pg = B.absent ∨ bstate s pg = B.retired) :
    abortOp b pg i s = ignoredCmd pg s := by
  rcases h with h | h <;> simp [abortOp, hi, h]

/-! ### CLEAR -/

theorem clearOp_selftest (h : bstate s pg = B.faulted) (hf : bit (getR s pg R.HDR_FAULT) 0 = true ∨ pg ∈ s.selfFailed) :
    clearOp b pg i s = ignoredCmd pg s := by
  rcases hf with hf | hf <;> simp [clearOp, h, hf]

theorem clearOp_page (h : bstate s pg = B.faulted) (hf : bit (getR s pg R.HDR_FAULT) 0 = false) (hs : pg ∉ s.selfFailed) (hb : b ≠ .ptn) :
    clearOp b pg i s = setBState pg B.stopped (setR pg R.HDR_FAULT 0 s) := by
  cases b with
  | ptn => exact absurd rfl hb
  | _ => simp [clearOp, h, hf, hs]

theorem clearOp_ptn (h : bstate s pg = B.faulted) (hf : bit (getR s pg R.HDR_FAULT) 0 = false) (hs : pg ∉ s.selfFailed) :
    clearOp .ptn pg i s = ptnStopped i (setR pg R.HDR_FAULT 0 s) := by
  simp [clearOp, h, hf, hs]

theorem clearOp_kept (h : bstate s pg = B.stopped) : clearOp b pg i s = s := by simp [clearOp, h]

theorem clearOp_ignored (h : bstate s pg = B.absent ∨ bstate s pg = B.starting ∨ bstate s pg = B.running ∨ bstate s pg = B.stopping ∨
    bstate s pg = B.retired) : clearOp b pg i s = ignoredCmd pg s := by
  rcases h with h | h | h | h | h <;> simp [clearOp, h]

/-! ### RETIRE -/

theorem retireOp_deaf (hi : ignoresRetire b = true) : retireOp b pg i s = ignoredCmd pg s := by simp [retireOp, hi]

theorem retireOp_page (hi : ignoresRetire b = false) (h : bstate s pg = B.stopped ∨ bstate s pg = B.faulted) (hcor : b ≠ .cor) (hslc : b ≠ .slc)
    (hlnk : b ≠ .lnk) : retireOp b pg i s = pageRetire pg s := by
  cases b with
  | cor | slc | lnk => contradiction
  | _ => rcases h with h | h <;> simp [retireOp, hi, h]

theorem retireOp_cor (h : bstate s pg = B.stopped ∨ bstate s pg = B.faulted) : retireOp .cor pg i s = siteRetire i s := by
  rcases h with h | h <;> simp [retireOp, ignoresRetire, ignoresAbort, ignoresStop, h]

theorem retireOp_slc (h : bstate s pg = B.stopped ∨ bstate s pg = B.faulted) : retireOp .slc pg i s = sliceEntry i (pageRetire pg s) := by
  rcases h with h | h <;> simp [retireOp, ignoresRetire, ignoresAbort, ignoresStop, h]

theorem retireOp_lnk (h : bstate s pg = B.stopped ∨ bstate s pg = B.faulted) : retireOp .lnk pg i s = portRetire i s := by
  rcases h with h | h <;> simp [retireOp, ignoresRetire, ignoresAbort, ignoresStop, h]

theorem retireOp_kept (hi : ignoresRetire b = false) (h : bstate s pg = B.retired) : retireOp b pg i s = s := by simp [retireOp, hi, h]

theorem retireOp_ignored (hi : ignoresRetire b = false)
    (h : bstate s pg = B.absent ∨ bstate s pg = B.starting ∨ bstate s pg = B.running ∨ bstate s pg = B.stopping) :
    retireOp b pg i s = ignoredCmd pg s := by
  rcases h with h | h | h | h <;> simp [retireOp, hi, h]

/-! ### The ends of Starting and Stopping -/

theorem startingDoneOp_kept (h : bstate s pg ≠ B.starting ∨ inSelftest s pg = true) : startingDoneOp b pg i s = s := by
  rcases h with h | h <;> simp [startingDoneOp, h]

theorem startingDoneOp_page (h : bstate s pg = B.starting) (ht : inSelftest s pg = false) (hptn : b ≠ .ptn) (htwn : b ≠ .twn) :
    startingDoneOp b pg i s = releaseHeld pg (runHook b i (setBState pg B.running s)) := by
  cases b with
  | ptn | twn => contradiction
  | _ => simp [startingDoneOp, h, ht]

theorem startingDoneOp_ptn (h : bstate s pg = B.starting) (ht : inSelftest s pg = false) : startingDoneOp .ptn pg i s = ptnRunning i s := by
  simp [startingDoneOp, h, ht]

theorem startingDoneOp_unpaired (h : s.twn.formed = false) : startingDoneOp .twn pg i s = s := by simp [startingDoneOp, twnReady, h]

theorem startingDoneOp_paired (h : bstate s pg = B.starting) (ht : inSelftest s pg = false) (hf : s.twn.formed = true) :
    startingDoneOp .twn pg i s = releaseHeld pg (setBState pg B.running s) := by
  simp [startingDoneOp, twnReady, runHook, h, ht, hf]

theorem stoppingDoneOp_kept (h : bstate s pg ≠ B.stopping ∨ stopBusy s b i = true) : stoppingDoneOp b pg i s = s := by
  rcases h with h | h <;> simp [stoppingDoneOp, h]

theorem stoppingDoneOp_page (h : bstate s pg = B.stopping) (hs : stopBusy s b i = false) (hb : b ≠ .ptn) :
    stoppingDoneOp b pg i s = setBState pg B.stopped s := by
  cases b with
  | ptn => exact absurd rfl hb
  | _ => simp [stoppingDoneOp, h, hs]

theorem stoppingDoneOp_ptn (h : bstate s pg = B.stopping) (hs : stopBusy s .ptn i = false) : stoppingDoneOp .ptn pg i s = ptnStopped i s := by
  simp [stoppingDoneOp, h, hs]

/-! ### GLB_CMD_TIMEOUT -/

theorem cmdTimeoutOp_kept (hstart : bstate s pg ≠ B.starting) (hstop : bstate s pg ≠ B.stopping) : cmdTimeoutOp b pg i s = s := by
  simp [cmdTimeoutOp, hstart, hstop]

theorem cmdTimeoutOp_unreleased (h : bstate s pg = B.starting) (ht : inSelftest s pg = true) (hr : testReleased s pg = false) :
    cmdTimeoutOp b pg i s = s := by
  simp [cmdTimeoutOp, h, ht, hr]

theorem cmdTimeoutOp_page (h : bstate s pg = B.stopping ∨ (bstate s pg = B.starting ∧ inSelftest s pg = false)) (hb : b ≠ .ptn) :
    cmdTimeoutOp b pg i s =
      if bstate (pageFault pg 4 s) pg = bstate s pg then pageFault pg 4 s else decide_ (releaseHeld pg (pageFault pg 4 s)) := by
  cases b with
  | ptn => exact absurd rfl hb
  | _ =>
    rcases h with h | ⟨h, ht⟩
    · simp [cmdTimeoutOp, h]
    · simp [cmdTimeoutOp, h, ht]

/-- Settles O50, from the equation of each case. The model's own readings: which blocks ignore STOP, ABORT and RETIRE (log entry 30, DEDUCED), a refused
START that takes effect at once (31, DESIGN CHOICE), CLEAR ignored also after a write-1 of SELFTEST (32, DEDUCED), and what a Stopping block finishes
before it is Stopped (33, DEDUCED). -/
theorem headerCommandsAndTheirEnds : Obligations.HeaderCommandsAndTheirEnds := by
  constructor
  · intro s pg i b hr hb st ign t
    have start {t} (h : startOp b pg i s = t) : Gives (.start pg) s t := onPage_gives hr hb h
    have stop {t} (h : stopOp b pg i s = t) : Gives (.stop pg) s t := onPage_gives hr hb h
    have abort {t} (h : abortOp b pg i s = t) : Gives (.abort pg) s t := onPage_gives hr hb h
    have clear {t} (h : clearOp b pg i s = t) : Gives (.clear pg) s t := onPage_gives hr hb h
    have retire {t} (h : retireOp b pg i s = t) : Gives (.retire pg) s t := onPage_gives hr hb h
    exact ⟨fun h => ⟨fun _ hc => start (startOp_refused h hc), fun hc => start (startOp_accepted h hc)⟩,
      fun h => start (startOp_kept h),
      fun h => start (startOp_ignored h),
      fun hi => ⟨fun h => stop (stopOp_starting hi h), fun h => stop (stopOp_running hi h), fun h => stop (stopOp_kept hi h),
        fun h => stop (stopOp_ignored hi h)⟩,
      fun hi => ⟨fun hptn h => abort (abortOp_page hi hptn h), fun hptn h => abort (hptn ▸ abortOp_ptn h), fun h => abort (abortOp_kept hi h),
        fun h => abort (abortOp_ignored hi h)⟩,
      fun h => ⟨fun hf => clear (clearOp_selftest h hf), fun hf hs hptn => clear (clearOp_page h hf hs hptn),
        fun hf hs hptn => clear (hptn ▸ clearOp_ptn h hf hs)⟩,
      fun h => clear (clearOp_kept h),
      fun h => clear (clearOp_ignored h),
      fun hi => ⟨fun h => ⟨fun hcor hslc hlnk => retire (retireOp_page hi h hcor hslc hlnk), fun hcor => retire (hcor ▸ retireOp_cor h),
          fun hslc => retire (hslc ▸ retireOp_slc h), fun hlnk => retire (hlnk ▸ retireOp_lnk h)⟩,
        fun h => retire (retireOp_kept hi h), fun h => retire (retireOp_ignored hi h)⟩⟩
  · intro s pg i b hr hb st t
    have started {t} (h : startingDoneOp b pg i s = t) : Gives (.startingDone pg) s t := onPage_gives hr hb h
    have stopped {t} (h : stoppingDoneOp b pg i s = t) : Gives (.stoppingDone pg) s t := onPage_gives hr hb h
    have late {t} (h : cmdTimeoutOp b pg i s = t) : Gives (.cmdTimeout pg) s t := onPage_gives hr hb h
    exact ⟨fun h => started (startingDoneOp_kept h),
      fun h ht => ⟨fun hptn htwn => started (startingDoneOp_page h ht hptn htwn), fun hptn => started (hptn ▸ startingDoneOp_ptn h ht),
        fun htwn hf => started (htwn ▸ startingDoneOp_unpaired hf), fun htwn hf => started (htwn ▸ startingDoneOp_paired h ht hf)⟩,
      fun h => stopped (stoppingDoneOp_kept h),
      fun h hs => ⟨fun hptn => stopped (stoppingDoneOp_page h hs hptn), fun hptn => stopped (hptn ▸ stoppingDoneOp_ptn h (hptn ▸ hs))⟩,
      fun hstart hstop => late (cmdTimeoutOp_kept hstart hstop),
      fun h ht hrel => late (cmdTimeoutOp_unreleased h ht hrel),
      fun h hptn => ⟨fun hk => late ((cmdTimeoutOp_page h hptn).trans (if_pos hk)),
        fun hk => late ((cmdTimeoutOp_page h hptn).trans (if_neg hk))⟩⟩

/-! ### Commands that nothing obeys -/

theorem cmdWrite_reserved {v : Word} (hv : v.toNat % 8 = 0 ∨ 5 < v.toNat % 8 ∨ v.toNat / 8 ≠ 0) : cmdWrite b pg i v s = ignoredCmd pg s := by
  unfold cmdWrite
  split
  case h_6 => rfl
  all_goals omega

/-- A write to HDR_CMD of a page of this chiplet: its command, beside which the access is counted and completed. -/
theorem accessOp_hdrCmd {a : DWord} {l : Nat} {v : Word} (ha : ctlTarget s a = .here l) (hl : l % 4096 = 0xC)
    (hpg : pageOfSlot (l / 4096) = some pg) (hb : pageBlk pg = some (b, i)) :
    accessOp true a v s = send (.access false 0) (accCount false (settleUnits (cmdWrite b pg i v s))) := by
  have hword : l % 4 = 0 := by omega
  simp [accessOp, regAccess, regWrite, headerWrite, ha, hword, hpg, hb, hl]

/-- Settles O49: these blocks are among those that ignore each of the three commands (R82), and a reserved value names no command (R83). -/
theorem ignoredHeaderCommands : Obligations.IgnoredHeaderCommands := by
  constructor
  · intro s pg i b hr hb hdeaf
    have hstop : ignoresStop b = true := by rcases hdeaf with rfl | rfl | rfl | rfl <;> rfl
    have habort : ignoresAbort b = true := Bool.or_eq_true_iff.2 (.inl hstop)
    have hretire : ignoresRetire b = true := Bool.or_eq_true_iff.2 (.inl habort)
    exact ⟨onPage_gives hr hb (stopOp_deaf hstop), onPage_gives hr hb (abortOp_deaf habort), onPage_gives hr hb (retireOp_deaf hretire)⟩
  · intro s a l pg i b v hr ha hl hpg hb hv
    have hwrite := accessOp_hdrCmd (v := v) ha hl hpg hb
    rw [cmdWrite_reserved hv] at hwrite
    exact hwrite ▸ act_next hr _

end Sys2Proof.Machine

/-! A RED contribution at its spine (O28): what the states of NETB do with it, and what its tag's entry and the open blocks make of it. -/

namespace Sys2Proof.Machine

variable {s : State} {f : Flit} {grp : Nat}

theorem headerOk_sound (hecc : f.ecc = 0) : headerOk f s = (true, s) := if_pos hecc

/-! ### By the state of NETB (R86, R432) -/

theorem redOp_starting (hecc : f.ecc = 0) (h : bstate s Pg.netb = B.starting) : redOp f grp s = { s with redWait := s.redWait ++ [(grp, f)] } := by
  simp [redOp, headerOk_sound hecc, h]

theorem redOp_closed (hecc : f.ecc = 0) (hstart : bstate s Pg.netb ≠ B.starting) (hrun : bstate s Pg.netb ≠ B.running)
    (hstop : bstate s Pg.netb ≠ B.stopping) : redOp f grp s = rackTo 1 (redSource s grp f) s := by
  simp [redOp, headerOk_sound hecc, hstart, hrun, hstop]

/-- The only contribution that waits is offered once. -/
theorem redSettle_single {e : Nat × Flit} (h : s.redWait = [e]) : redSettle s = redPass s := by
  simp [redSettle, h, redPasses]

/-- What a pass makes of the only contribution that waits. -/
theorem redPass_single (hw : s.redWait = []) :
    redPass { s with redWait := [(grp, f)] } =
      (let z := redArrive f grp s
       if z.1 then z.2 else { z.2 with redWait := z.2.redWait ++ [(grp, f)] }) := by
  have hs : { s with redWait := [] } = s := by rw [← hw]
  simp only [redPass, List.foldl_cons, List.foldl_nil, hs]
  rcases redArrive f grp s with ⟨took, t⟩
  cases took <;> rfl

theorem redOp_running (hecc : f.ecc = 0) (h : bstate s Pg.netb = B.running) (hw : s.redWait = []) :
    redOp f grp s =
      (let z := redArrive f grp s
       if z.1 then z.2 else { z.2 with redWait := z.2.redWait ++ [(grp, f)] }) := by
  have hsettle : redOp f grp s = redSettle { s with redWait := [(grp, f)] } := by simp [redOp, headerOk_sound hecc, h, hw]
  rw [hsettle, redSettle_single rfl, redPass_single hw]

/-! ### By the entry of the tag (R447, R449) -/

section
variable {e : BitVec 256} (he : rtabRead f.rtag.toNat s = (some e, s))
include he

theorem redArrive_discarded (hv : rtValid e = true) (hd : rtPtn e ∈ s.redDead) :
    redArrive f grp s = (true, satR Pg.netb R.NETB_RED_DISCARD 1 s) := by
  simp [redArrive, he, hv, hd]

theorem redArrive_bad (hd : ¬ (rtValid e = true ∧ rtPtn e ∈ s.redDead)) (hb : redBad s e f grp = true) :
    redArrive f grp s = (true, redStray f grp s) := by
  simp [redArrive, he, hd, hb]

theorem redArrive_invalid (hv : rtValid e = false) : redArrive f grp s = (true, redStray f grp s) :=
  redArrive_bad he (by simp [hv]) (by simp [redBad, hv])

/-! ### By the open blocks, for a core of this die (R443, R444, R446, R448) -/

/-- The block that the contribution of logical core `n` opens. -/
def redOpened (s : State) (f : Flit) (e : BitVec 256) (n : Nat) : RedBlk :=
  { tag := f.rtag.toNat, die := f.die.toNat, addr := redAddr f, ptn := rtPtn e, leaven := false, int := rtInt e,
    spine := spineOf s (redAddr f) (redDst s f.die.toNat (redAddr f)), parts := [(redRank 8 n f.sdie.toNat, f, 8)], mask := rtMask e,
    counts := (List.range 4).map (rtCount e) }

/-- The blocks open at the spine of the contribution. -/
def redHere (s : State) (f : Flit) : List RedBlk :=
  s.reds.filter (fun x => x.spine = spineOf s (redAddr f) (redDst s f.die.toNat (redAddr f)))

/-- The block that the contribution is for, where it is open. -/
def redMine (s : State) (f : Flit) : Option RedBlk :=
  s.reds.find? (fun x => x.tag = f.rtag.toNat ∧ x.die = f.die.toNat ∧ x.addr = redAddr f)

variable {n : Nat} (htyp : f.typ = 6) (hd : rtPtn e ∉ s.redDead) (hb : redBad s e f 8 = false) (hn : logicalAt s f.src.toNat = some n)
include htyp hd hb hn

theorem redArrive_full (hmine : redMine s f = none) (hfull : 256 ≤ (redHere s f).length) : redArrive f 8 s = (false, s) := by
  simp only [redMine, Bool.decide_and] at hmine
  unfold redHere at hfull
  simp [redArrive, he, hd, hb, hn, htyp, hmine, hfull]

theorem redArrive_opens (hmine : redMine s f = none) (hroom : (redHere s f).length < 256)
    (hpark : ((redHere s f).map redParked).foldl (· + ·) 0 < 512) (hmore : redFull (redOpened s f e n) = false)
    (hglz : f.glaze = crc32c (glzSeed (redAddr f)) (bytesOf 128 f.data.toNat)) :
    redArrive f 8 s = (true, redOpenNote { s with reds := s.reds ++ [redOpened s f e n] }) := by
  simp only [redMine, Bool.decide_and] at hmine
  unfold redHere at hroom hpark
  unfold redOpened at hmore ⊢
  simp [redArrive, he, hd, hb, hn, htyp, hmine, hroom, hpark, hmore, redGlaze, hglz]

theorem redArrive_again {q : RedBlk} (hmine : redMine s f = some q) (hq : q.parts.any (fun y => y.1 = redRank 8 n f.sdie.toNat) = true) :
    redArrive f 8 s = (false, s) := by
  simp only [redMine, Bool.decide_and] at hmine
  simp [redArrive, he, hd, hb, hn, htyp, hmine, hq]

end

/-- Settles O28, from the lemma of each case. -/
theorem reductionContributions : Obligations.ReductionContributions := by
  constructor
  · intro s f hr hecc grp z
    have gives {t} (h : redOp f (redGroup s f) s = t) : Gives (.red f) s t := h ▸ act_next hr _
    exact ⟨fun h hw => gives (redOp_running hecc h hw), fun h => gives (redOp_starting hecc h),
      fun hstart hrun hstop => gives (redOp_closed hecc hstart hrun hstop)⟩
  · intro s f e n he htyp p a sp here b mine
    exact ⟨fun _ hv hd => redArrive_discarded he hv hd, fun _ hv => redArrive_invalid he hv,
      fun _ hd hb => redArrive_bad he (fun h => hd h.2) hb,
      fun hd hb hn => ⟨fun hmine => ⟨redArrive_full he htyp hd hb hn hmine, redArrive_opens he htyp hd hb hn hmine⟩,
        fun _ hmine hq => redArrive_again he htyp hd hb hn hmine hq⟩⟩

end Sys2Proof.Machine

/-! A window of a scratchpad, written and read back (O30): a message touches no memory; a run of bytes with no store on its way reads what was put. -/

namespace Sys2Proof.Machine

variable {s : State} {f : Flit}

/-! ### Messages touch no memory -/

/-- The scratchpads, with the rest of the cores, and the stacks' memory. -/
def memories (s : State) : Tab Core × Tab Byte := (s.cores, s.dram)

@[simp] theorem memories_setR (pg o : Nat) (v : Word) (s : State) : memories (setR pg o v s) = memories s := rfl
@[simp] theorem memories_satR (pg o k : Nat) (s : State) : memories (satR pg o k s) = memories s := rfl
@[simp] theorem memories_setPort (p : Nat) (v : Port) (s : State) : memories (setPort p v s) = memories s := rfl
@[simp] theorem memories_putFrame (p i : Nat) (s : State) : memories (putFrame p i s) = memories s := rfl
@[simp] theorem memories_send (m : OutMsg) (s : State) : memories (send m s) = memories s := rfl
@[simp] theorem memories_flitSend (f : Flit) (s : State) : memories (flitSend f s) = memories s := rfl

@[simp] theorem memories_firstR (pg o v : Nat) (s : State) : memories (firstR pg o v s) = memories s := by
  unfold firstR
  split <;> rfl

@[simp] theorem memories_flushN (n p : Nat) (s : State) : memories (flushN n p s) = memories s := by
  induction n generalizing s with
  | zero => rfl
  | succ n ih =>
    unfold flushN
    split
    · rfl
    · simp [ih]

@[simp] theorem memories_portPush (p c n : Nat) (s : State) : memories (portPush p c n s) = memories s := by
  induction n generalizing s with
  | zero => rfl
  | succ n ih => simp [portPush, portSend, portFlush, ih]

@[simp] theorem memories_groupPost (g h c l : Nat) (m : OutMsg) (s : State) : memories (groupPost g h c l m s) = memories s := by
  unfold groupPost
  split <;> simp

@[simp] theorem memories_post (d h c l : Nat) (m : OutMsg) (s : State) : memories (post d h c l m s).2 = memories s := by
  unfold post
  split
  · split <;> simp
  · simp [lkgDiscard]

@[simp] theorem memories_postFlit (d : Nat) (f : Flit) (s : State) : memories (postFlit d f s).2 = memories s := by
  unfold postFlit
  split <;> simp

@[simp] theorem memories_respond (typ status : Nat) (bs : List Byte) (g : Word) (tile : Bool) (f : Flit) (s : State) :
    memories (respond typ status bs g tile f s) = memories s := by
  unfold respond
  dsimp only
  split <;> simp

/-! ### Bytes of a scratchpad -/

/-- With no store on its way every unit reads the scratchpad itself (R375). -/
theorem spadByte_settled {x : Core} (hx : x.pendSt = []) (r i a : Nat) : spadByte x r i a = Tab.get 0 x.spad a := by
  simp [spadByte, hx]

@[simp] theorem length_spadBytes (x : Core) (r i a n : Nat) : (spadBytes x r i a n).length = n := by
  induction n generalizing a with
  | zero => rfl
  | succ n ih => simp [spadBytes, ih]

theorem getElem_spadBytes (x : Core) (r i a n k : Nat) (hk : k < (spadBytes x r i a n).length) :
    (spadBytes x r i a n)[k] = spadByte x r i (a + k) := by
  induction n generalizing a k with
  | zero => simp [spadBytes] at hk
  | succ n ih =>
    cases k with
    | zero => rfl
    | succ k => simp [spadBytes, ih, Nat.add_assoc, Nat.add_comm 1]

/-- What is put in a scratchpad is read back. -/
theorem spadBytes_spadPut {x : Core} (hx : x.pendSt = []) (hw : Memory.wf x.spad = true) (r i a : Nat) (bs : List Byte) :
    spadBytes (spadPut x a bs) r i a bs.length = bs := by
  refine List.ext_getElem (length_spadBytes ..) fun k hk hk' => ?_
  have hin : a ≤ a + k ∧ a + k < a + bs.length := by omega
  rw [getElem_spadBytes, spadByte_settled (show (spadPut x a bs).pendSt = [] from hx), spadPut_get x a _ bs hw, if_pos hin]
  simp [hk']

/-- Every byte outside is as before. -/
theorem spadPut_get_outside (x : Core) (hw : Memory.wf x.spad = true) {a b : Nat} {bs : List Byte} (hb : b < a ∨ a + bs.length ≤ b) :
    Tab.get 0 (spadPut x a bs).spad b = Tab.get 0 x.spad b := by
  have hout : ¬ (a ≤ b ∧ b < a + bs.length) := by omega
  rw [spadPut_get x a b bs hw, if_neg hout]

theorem length_mergeBytes {old : List Byte} (h : old.length = 128) : (mergeBytes f old).length = 128 := by
  simp [mergeBytes, flitBytes, flitMask, bytesOf, h]

/-! ### Requests to a window (R58, R59) -/

/-- Offset, in its window, of the block that a flit names. -/
abbrev windowOff (f : Flit) : Nat := (windowOf (f.addr.toNat / 128 * 128)).2

/-- The core that a write of `f` leaves: its enabled bytes over what unit X reads. -/
def windowPut (f : Flit) (x : Core) : Core := spadPut x (windowOff f) (mergeBytes f (spadBytes x 2 x.steps (windowOff f) 128))

/-- The function is taken apart before it is applied, as in `Sound.ringRefuse`; so too below. -/
theorem windowReq_unserved (hw : windowSite s (f.addr.toNat / 128 * 128) 128 = none) : windowReq f s = (.err, s) := by
  generalize hg : windowReq = g
  delta windowReq at hg
  subst hg
  simp only [hw]

theorem windowReq_write {c : Nat} (hw : windowSite s (f.addr.toNat / 128 * 128) 128 = some c) (hst : bstate s (Pg.cor c) ≠ B.starting)
    (htyp : f.typ ≠ 0) : windowReq f s = (.ok [] 0 false, setCore c (windowPut f (coreAt s c)) s) := by
  generalize hg : windowReq = g
  delta windowReq at hg
  subst hg
  simp only [hw, if_neg hst, if_neg htyp, windowPut]

section
variable (hecc : f.ecc = 0) (hrun : runs s Pg.netb = true) (hdie : f.die.toNat = dieNum s ∨ dieValid s = false)
  (harea : areaOf f.addr.toNat = .spad)
include hecc hrun hdie harea

/-- A sound request to a scratchpad window of this die, on a Running NETB, is answered by what its window makes of it. -/
theorem reqFlit_window : reqFlit f s = answer f (windowReq f s) := by
  have hstart : bstate s Pg.netb ≠ B.starting := fun h => by simp [runs, h] at hrun
  have hlocal : localReq false f s = windowReq f s := by simp [localReq, hstart, hrun, harea]
  have hserve : serveReq f s = answer f (localReq false f s) := if_pos (by simpa using hdie)
  rw [← hlocal, ← hserve]
  simp [reqFlit, headerOk_sound hecc]

theorem reqFlit_window_unserved (hw : windowSite s (f.addr.toNat / 128 * 128) 128 = none) : reqFlit f s = respondErr f s := by
  rw [reqFlit_window hecc hrun hdie harea, windowReq_unserved hw]
  rfl

theorem reqFlit_window_write {c : Nat} (hw : windowSite s (f.addr.toNat / 128 * 128) 128 = some c) (hst : bstate s (Pg.cor c) ≠ B.starting)
    (htyp : f.typ ≠ 0) : reqFlit f s = respondWack f (setCore c (windowPut f (coreAt s c)) s) := by
  rw [reqFlit_window hecc hrun hdie harea, windowReq_write hw hst htyp]
  exact if_neg htyp

end

/-- Settles O30: the write from what its window makes of it, the read back from the scratchpad that is left. -/
theorem windowWriteThenRead : Obligations.WindowWriteThenRead := by
  intro F s f c hs hr hecc hrun hdie harea a off
  constructor
  · intro hw hst hpend
    have hspad : Memory.wf (coreAt s c).spad = true := hs.coreAt
    have hlen : (mergeBytes f (spadBytes (coreAt s c) 2 (coreAt s c).steps off 128)).length = 128 := length_mergeBytes (length_spadBytes ..)
    have hreq := reqFlit_window_write (f := { f with typ := 1 }) hecc hrun hdie harea hw hst (show (1 : BitVec 4) ≠ 0 by decide)
    have hread := spadBytes_spadPut hpend hspad 2 (coreAt s c).steps off (mergeBytes f (spadBytes (coreAt s c) 2 (coreAt s c).steps off 128))
    rw [hlen] at hread
    exact ⟨⟨_, act_next hr _, hreq ▸ Prod.mk.inj (memories_respond ..)⟩, hread, fun b hb => spadPut_get_outside _ hspad (hlen.symm ▸ hb)⟩
  · intro hw
    have refused (ty : BitVec 4) : memories (reqFlit { f with typ := ty } s) = memories s := by
      rw [reqFlit_window_unserved (f := { f with typ := ty }) hecc hrun hdie harea hw]
      exact memories_respond ..
    have both (ty : BitVec 4) := Prod.mk.inj (refused ty)
    exact ⟨⟨_, act_next hr _, (both 1).symm⟩, ⟨_, act_next hr _, (both 0).symm⟩⟩

end Sys2Proof.Machine

/-! BOOT, self-tests, the repair record and the substitution of a site (O42): an equation for each case of R689 to R710. -/

namespace Sys2Proof.Machine

variable {s : State} {pg n : Nat}

/-! ### BOOT (R689) -/

/-- The state in which BOOT has been captured. -/
def booted (s : State) : State := { s with alm := { s.alm with booted := true } }

theorem bootOp_zero (hd : dieValid s = true) (hb : s.alm.booted = false) : bootOp 0 s = booted s := by
  simp [bootOp, hd, hb, updAlm, booted]

theorem bootOp_first {ms : BitVec 10} (hd : dieValid s = true) (hb : s.alm.booted = false) (hms : ms ≠ 0) :
    bootOp ms.toNat s = setR Pg.glb R.GLB_CMD_TIMEOUT (ms.zeroExtend 32) (booted s) := by
  have hnz : ms.toNat ≠ 0 := fun h => hms (BitVec.eq_of_toNat_eq h)
  simp [bootOp, hd, hb, updAlm, booted, hnz, BitVec.ofNat_toNat]

theorem bootOp_kept {ms : Nat} (h : dieValid s = false ∨ s.alm.booted = true) : bootOp ms s = s := by
  rcases h with h | h <;> simp [bootOp, h]

/-! ### The end of a self-test (R691, R694) -/

section
variable {rows : Word} {cols : BitVec 36}

theorem selftestOp_kept {pass : Bool} (h : inSelftest s pg = false) : selftestOp pg pass rows cols s = s := by simp [selftestOp, h]

/-- No array waits for a retest. -/
def retested (s : State) : State := { s with alm := { s.alm with retest := [] } }

variable {b : Blk} {i : Nat} (hpg : pageBlk pg = some (b, i)) (hcch : b ≠ .cch) (hmxa : b ≠ .mxa) (ht : inSelftest s pg = true)
  (hboot : s.alm.booted = true) (hre : s.alm.retest = []) (hsite : siteOfPage pg = none) (hnetb : pg ≠ Pg.netb)
include hpg hcch hmxa ht hboot hre hsite hnetb

theorem selftestOp_page (pass : Bool) : selftestOp pg pass rows cols s =
    decide_ (if pass then pageSettle pg (retested s) else releaseHeld pg (fault pg 0 (retested s))) := by
  have hrel : testReleased s pg = true := by simp [testReleased, hboot]
  have hmx : isMxaPage pg = false := by
    unfold isMxaPage
    rw [hpg]
    cases b with
    | mxa => exact absurd rfl hmxa
    | _ => rfl
  cases b with
  | cch | mxa => contradiction
  | _ => cases pass <;> simp [selftestOp, updAlm, retested, ht, hrel, hsite, hmx, hre, hpg, hnetb]

end

/-! ### The repair record (R701, R703 to R705) -/

/-- What the record's copies were seen as, with one more of them. -/
def recSeen (s : State) (copyB readable : Bool) (bytes : List Byte) : Alm :=
  let a := s.alm
  let copy := if readable then recParse s bytes else none
  if copyB then { a with readB := if copy.isSome then 2 else 1, seqB := (copy.getD (0, [])).1, entB := (copy.getD (0, [])).2 }
  else { a with readA := if copy.isSome then 2 else 1, seqA := (copy.getD (0, [])).1, entA := (copy.getD (0, [])).2 }

section
variable {copyB readable : Bool} {bytes : List Byte}

theorem recReadOp_counts (hboot : s.alm.booted = true) (hseen : (if copyB then s.alm.readB else s.alm.readA) = 0) (h0 : medOfGroup s 0 = true)
    (h2 : medOfGroup s 2 = true) : recReadOp copyB readable bytes s = recChoose { s with alm := recSeen s copyB readable bytes } := by
  cases copyB <;> simp_all [recReadOp, recSeen, updAlm]

theorem recReadOp_kept (h : s.alm.booted = false ∨ (if copyB then s.alm.readB else s.alm.readA) ≠ 0 ∨ medOfGroup s 0 = false ∨
    medOfGroup s 2 = false) : recReadOp copyB readable bytes s = s := by
  rcases h with h | h | h | h <;> simp [recReadOp, h]

end

theorem recTimeoutOp_booted (h : s.alm.booted = true) :
    recTimeoutOp s = recChoose { s with alm := { s.alm with readA := Nat.max 1 s.alm.readA, readB := Nat.max 1 s.alm.readB } } := if_pos h

theorem recTimeoutOp_kept (h : s.alm.booted = false) : recTimeoutOp s = s := if_neg (by simp [h])

theorem recClearOp_known (h : s.alm.recDone = true) :
    recClearOp s = recWrite (updAlm (fun a => { a with entries := [] }) (setF Pg.alm R.ALM_STATUS 28 1 0 s)) := if_pos h

theorem recClearOp_kept (h : s.alm.recDone = false) : recClearOp s = s := if_neg (by simp [h])

/-! ### A write of ALM_SUBST (R709, R710) -/

section
variable {v : Word}

/-- GO is the top bit. -/
theorem bit_top (v : Word) : bit v 31 = decide (2 ^ 31 ≤ v.toNat) := by
  rw [← BitVec.msb_eq_decide v, BitVec.msb_eq_getLsbD_last]
  rfl

theorem bit_top_go (h : 2 ^ 31 ≤ v.toNat) : bit v 31 = true := by rw [bit_top]; exact decide_eq_true h

theorem substOp_noGo (h : v.toNat < 2 ^ 31) : substOp v s = s := by
  have hbit : bit v 31 = false := by rw [bit_top]; exact decide_eq_false (by omega)
  simp [substOp, hbit]

/-- The logical core that the write names. -/
theorem fld_low (v : Word) : fld v 0 7 = v.toNat % 128 := rfl

variable (hgo : 2 ^ 31 ≤ v.toNat)
include hgo

theorem substOp_busy (h : s.alm.subst.isSome = true) : substOp v s = ignoredCmd Pg.alm s := by
  simp [substOp, bit_top_go hgo, h]

variable {k row : Nat} (hs : s.alm.subst = none) (hk : v.toNat % 128 = k)
include hs hk

theorem substOp_refused (h : 120 ≤ k ∨ runs s Pg.alm = false ∨ bstate s (Pg.cor (homeSite s k)) ≠ B.retired) :
    substOp v s = substResult false true 2 k s := by
  rcases h with h | h | h
  · simp [substOp, bit_top_go hgo, hs, fld_low, hk, show ¬ k < 120 by omega]
  · simp [substOp, bit_top_go hgo, hs, fld_low, hk, h]
  · simp [substOp, bit_top_go hgo, hs, fld_low, hk, h]

variable (hn : k < 120) (hrun : runs s Pg.alm = true) (hret : bstate s (Pg.cor (homeSite s k)) = B.retired) (hrow : rowOf (homeSite s k) = row)
include hn hrun hret hrow

theorem substOp_unfit (h : (rowFixed s row && reserveFree s row) = false) : substOp v s = substResult false true 3 k s := by
  simp only [substOp, bit_top_go hgo, hs, fld_low, hk, hn, hrun, hret, hrow, h]
  rfl

/-- The reserve of a row powered and in self-test, for the substitution of core `k`. -/
def reserveTested (s : State) (row k : Nat) : State :=
  let t := foldS (fun pg u => testAgain pg (setBState pg B.starting u)) (sitePages (reserveOf row)) (sitePower (reserveOf row) s)
  { t with alm := { t.alm with subst := some k } }

theorem substOp_tests (h : (rowFixed s row && reserveFree s row) = true) :
    substOp v s = substResult true false 0 k (reserveTested s row k) := by
  simp only [substOp, bit_top_go hgo, hs, fld_low, hk, hn, hrun, hret, hrow, h]
  rfl

end

/-! ### The end of the reserve's test (R710) -/

/-- No substitution runs. -/
def substEnded (s : State) : State := { s with alm := { s.alm with subst := none } }

theorem substDoneOp_kept (pass : Bool) (h : s.alm.subst ≠ some n) : substDoneOp n pass s = s := if_neg h

theorem substDoneOp_fail (h : s.alm.subst = some n) : substDoneOp n false s =
    let r := reserveOf (rowOf (homeSite s n))
    substResult false true 4 n (siteRetire r (setFamilyBit Pg.alm R.ALM_ST_SITE0 r false (substEnded s))) := if_pos h

/-- The reserve of a row Ready and Stopped, in the place of the home `h`. -/
def reserveStands (s : State) (h : Nat) : State :=
  let r := reserveOf (rowOf h)
  let t := foldS (fun pg u => setReady pg true (setBState pg B.stopped u)) (sitePages r) (substEnded s)
  reservePages r (kindOfSite h) { t with standIn := Tab.put t.standIn (rowOf h) h }

theorem substDoneOp_pass (h : s.alm.subst = some n) : substDoneOp n true s =
    let r := reserveOf (rowOf (homeSite s n))
    ptnsDegraded (almChange (substResult false true 1 n (setFamilyBit Pg.alm R.ALM_USED0 r true (reserveStands s (homeSite s n))))) := if_pos h

/-! ### The obligation -/

/-- Settles O42. DONE beside the RESULT of a refused write of ALM_SUBST is the model's reading (log entry 133, DEDUCED). -/
theorem bringUpRecordAndSubstitution : Obligations.BringUpRecordAndSubstitution := by
  constructor
  · intro s ms pg rows cols b rd bytes hr a seen booted copy noted
    have boot {ms t} (h : bootOp ms.toNat s = t) : Gives (.boot ms) s t := h ▸ act_next hr _
    have test {pass t} (hpg : (pageBlk pg).isSome = true) (h : selftestOp pg pass rows cols s = t) : Gives (.selftestDone pg pass rows cols) s t :=
      (if_pos hpg).trans (h ▸ act_next hr _)
    have read {t} (h : recReadOp b rd bytes s = t) : Gives (.repairRecordRead b rd bytes) s t := h ▸ act_next hr _
    have timeout {t} (h : recTimeoutOp s = t) : Gives .recordTimeout s t := h ▸ act_next hr _
    have clear {t} (h : recClearOp s = t) : Gives .recClear s t := h ▸ act_next hr _
    refine ⟨fun hd hb => ⟨boot (bootOp_zero hd hb), fun hms => boot (bootOp_first hd hb hms)⟩, fun h => boot (bootOp_kept h),
      fun hpg h => ⟨test hpg (selftestOp_kept h), test hpg (selftestOp_kept h)⟩, fun b i hpg hcch hmxa ht hb hre hsite hnetb => ?_,
      fun hb hseen h0 h2 => read (recReadOp_counts hb hseen h0 h2), fun h => read (recReadOp_kept h),
      fun h => timeout (recTimeoutOp_booted h), fun h => timeout (recTimeoutOp_kept h),
      fun h => clear (recClearOp_known h), fun h => clear (recClearOp_kept h)⟩
    have page (pass : Bool) := selftestOp_page (rows := rows) (cols := cols) hpg hcch hmxa ht hb hre hsite hnetb pass
    have hsome : (pageBlk pg).isSome = true := by rw [hpg]; rfl
    exact ⟨test hsome (page true), test hsome (page false)⟩
  · intro s v n hr k h row
    have subst {t} (h : substOp v s = t) : Gives (.almSubst v) s t := h ▸ act_next hr _
    have done {pass t} (h : substDoneOp n pass s = t) : Gives (.substDone n pass) s t := h ▸ act_next hr _
    refine ⟨fun h => subst (substOp_noGo h),
      fun hgo => ⟨fun h => subst (substOp_busy hgo h), fun hs => ⟨fun h => subst (substOp_refused hgo hs rfl h), ?_⟩⟩,
      fun h => ⟨done (substDoneOp_kept true h), done (substDoneOp_kept false h)⟩, fun h => ⟨done (substDoneOp_fail h), done (substDoneOp_pass h)⟩⟩
    exact fun hn hrun hret => ⟨fun h => subst (substOp_unfit hgo hs rfl hn hrun hret rfl h),
      fun h => subst (substOp_tests (k := k) (row := row) hgo hs rfl hn hrun hret rfl h)⟩

end Sys2Proof.Machine

/-! The Sol frame's package time (O2, O52): what 1 ns of REFCLK does, and an equation for each case of R107 to R113. -/

namespace Sys2Proof.Machine

variable {s : State} {v : DWord} {k : Nat}

/-! ### One nanosecond of REFCLK (R109, R110) -/

/-- A tick is a change of the local copy, of the correction still to be made and of the tick's own count. -/
theorem tickNs_frame (s : State) :
    tickNs s = { s with time := (tickNs s).time, timePend := (tickNs s).timePend, timeFrac := (tickNs s).timeFrac } := by
  unfold tickNs
  split
  · rfl
  · dsimp only
    split_ifs <;> rfl

/-- Out of reset the copy is held for 1 ns of a negative correction, moves on by 1 ns, or by 2 ns with 1 ns of a positive correction. -/
theorem tickNs_cases (hr : s.inReset = false) :
    (s.timePend < 0 ∧ (tickNs s).time = s.time ∧ (tickNs s).timePend = s.timePend + 1) ∨
    ((tickNs s).time = s.time + 1 ∧ (tickNs s).timePend = s.timePend) ∨
    (0 < s.timePend ∧ (tickNs s).time = s.time + 2 ∧ (tickNs s).timePend = s.timePend - 1) := by
  simp only [tickNs, hr, Bool.false_eq_true, if_false]
  split_ifs with hfar hfrac hfast hslow
  · exact .inr (.inl ⟨rfl, rfl⟩)
  · exact .inl ⟨by omega, rfl, rfl⟩
  · exact .inr (.inr ⟨hfast.2, rfl, rfl⟩)
  · exact .inl ⟨hslow.2, rfl, rfl⟩
  · exact .inr (.inl ⟨rfl, rfl⟩)

theorem tickNs_advance_le (hr : s.inReset = false) : (tickNs s).time - s.time ≤ 2 := by
  rcases tickNs_cases hr with ⟨-, ht, -⟩ | ⟨ht, -⟩ | ⟨-, ht, -⟩ <;> rw [ht] <;> bv_omega

theorem tickNs_settled (hr : s.inReset = false) (h : s.timePend = 0) : (tickNs s).time = s.time + 1 ∧ (tickNs s).timePend = 0 := by
  rcases tickNs_cases hr with ⟨hneg, -, -⟩ | ⟨ht, hp⟩ | ⟨hpos, -, -⟩
  · omega
  · exact ⟨ht, hp.trans h⟩
  · omega

theorem tickNs_natAbs_timePend_le (hr : s.inReset = false) : (tickNs s).timePend.natAbs ≤ s.timePend.natAbs := by
  rcases tickNs_cases hr with ⟨hneg, -, hp⟩ | ⟨-, hp⟩ | ⟨hpos, -, hp⟩ <;> omega

/-- Settles O2: a tick changes nothing but the package time's own fields. That a step on an empty queue is a tick is the model's choice (log
entry 4, DESIGN CHOICE). -/
theorem emptyQueueMovesPackageTimeOn : Obligations.EmptyQueueMovesPackageTimeOn := by
  intro s hq
  have hframe := tickNs_frame s
  refine ⟨?_, ?_, ?_, ?_⟩
  · simp only [step, hq]
  · rw [hframe]
    exact hq
  · rw [hframe]
  · rw [hframe]

/-! ### TIME (R107 to R112) -/

/-- The package time that a message names, less the link's delay. -/
def timeRef (s : State) (v : DWord) : DWord := v - BitVec.ofNat 64 (linkDelay s)

/-- By how much the message is ahead of the local copy. -/
def timeError (s : State) (v : DWord) : Int := ((timeRef s v).toNat : Int) - (s.time.toNat : Int)

/-- HOLDOVER cleared and the correction in OFFSET, which stops at the ends of 16 signed bits. -/
def timeNoted (s : State) (v : DWord) : State :=
  setR Pg.seq R.SEQ_TIME_STATUS
    (setFld (setBit (getR s Pg.seq R.SEQ_TIME_STATUS) 30 false) 0 16 (BitVec.ofInt 16 (max (-32768) (min 32767 (timeError s v)))).toNat) s

theorem timeOp_acquires (hv : timeValid s = false) (hd : dieValid s = true) :
    timeOp v s = setR Pg.seq R.SEQ_TIME_STATUS (setBit (setBit (getR s Pg.seq R.SEQ_TIME_STATUS) 31 true) 30 false)
      { s with time := timeRef s v, timePend := 0 } := by
  simp [timeOp, timeRef, hv, hd]

theorem timeOp_undiscovered (hv : timeValid s = false) (hd : dieValid s = false) : timeOp v s = s := by simp [timeOp, hv, hd]

/-- The field's two bounds, written as the model tests them. -/
theorem saturate_eq (e : Int) : (if e < -32768 then -32768 else if 32767 < e then 32767 else e) = max (-32768) (min 32767 e) := by
  split_ifs <;> omega

/-- While time is valid the correction is noted, then slewed, stepped or held. -/
theorem timeOp_corrects (hv : timeValid s = true) :
    timeOp v s =
      if timeError s v ≤ 100 ∧ -100 ≤ timeError s v then { timeNoted s v with timePend := timeError s v }
      else timeFault (fault Pg.seq 9
        (if 100 < timeError s v then { timeNoted s v with time := timeRef s v, timePend := 0 }
          else { timeNoted s v with timePend := timeError s v })) := by
  simp only [timeOp, hv, Bool.not_true, Bool.false_eq_true, if_false, saturate_eq]
  rfl

theorem timeOp_slews (hv : timeValid s = true) (hlo : -100 ≤ timeError s v) (hhi : timeError s v ≤ 100) :
    timeOp v s = { timeNoted s v with timePend := timeError s v } := by
  rw [timeOp_corrects hv, if_pos ⟨hhi, hlo⟩]

theorem timeOp_steps (hv : timeValid s = true) (h : 100 < timeError s v) :
    timeOp v s = timeFault (fault Pg.seq 9 { timeNoted s v with time := timeRef s v, timePend := 0 }) := by
  rw [timeOp_corrects hv, if_neg (by omega), if_pos h]

theorem timeOp_holds (hv : timeValid s = true) (h : timeError s v < -100) :
    timeOp v s = timeFault (fault Pg.seq 9 { timeNoted s v with timePend := timeError s v }) := by
  rw [timeOp_corrects hv, if_neg (by omega), if_neg (by omega)]

/-! ### HOLDOVER, TIME_LOST and PACKAGE_TICK -/

theorem holdoverOp_kept (hv : timeValid s = false) : holdoverOp s = s := by simp [holdoverOp, hv]

theorem holdoverOp_valid (hv : timeValid s = true) :
    holdoverOp s = setR Pg.seq R.SEQ_TIME_STATUS (setFld (getR s Pg.seq R.SEQ_TIME_STATUS) 30 1 1) s := if_pos hv

theorem timeLostOp_kept (hv : timeValid s = false) : timeLostOp s = s := by simp [timeLostOp, hv]

theorem timeLostOp_valid (hv : timeValid s = true) :
    timeLostOp s = timeFault (fault Pg.seq 8 (setR Pg.seq R.SEQ_TIME_STATUS (setFld (getR s Pg.seq R.SEQ_TIME_STATUS) 31 1 0) s)) := if_pos hv

theorem ticksRun_iff : ticksRun s = true ↔ timeValid s = true ∧ runs s Pg.seq = true := Bool.and_eq_true_iff

theorem timeTo_later {t : DWord} (h : s.time < t) : timeTo t s = { s with time := t } := if_pos h

theorem timeTo_reached {t : DWord} (h : t ≤ s.time) : timeTo t s = s := if_neg (BitVec.not_lt.2 h)

theorem packageTickOp_ticks (hv : timeValid s = true) (hrun : runs s Pg.seq = true) :
    packageTickOp k s = timeTo (BitVec.ofNat 64 (solEpoch s + k * solPeriod s)) s := if_pos (ticksRun_iff.2 ⟨hv, hrun⟩)

theorem packageTickOp_kept (h : timeValid s = false ∨ runs s Pg.seq = false) : packageTickOp k s = s := by
  rcases h with h | h <;> simp [packageTickOp, ticksRun, h]

/-- Settles O52. That OFFSET stops at the ends of its field (log entry 144, DESIGN CHOICE) and that the local copy moves forward to a command's
time (log entry 6, DESIGN CHOICE) are the model's readings. -/
theorem packageTimeAndTicks : Obligations.PackageTimeAndTicks := by
  intro s v k hr st ref e c noted
  have time {t} (h : timeOp v s = t) : Gives (.time v) s t := h ▸ act_next hr _
  have holdover {t} (h : holdoverOp s = t) : Gives .holdover s t := h ▸ act_next hr _
  have lost {t} (h : timeLostOp s = t) : Gives .timeLost s t := h ▸ act_next hr _
  have tick {t} (h : packageTickOp k s = t) : Gives (.packageTick k) s t := h ▸ act_next hr _
  refine ⟨fun hv => ⟨?_, ?_, ?_, ?_, ?_⟩, fun hv => ⟨?_, ?_, ?_, ?_, ?_, ?_, ?_⟩,
    ⟨tickNs_advance_le hr, tickNs_settled hr⟩, fun _ => tickNs_natAbs_timePend_le hr⟩
  · exact fun hd => time (timeOp_acquires hv hd)
  · exact fun hd => time (timeOp_undiscovered hv hd)
  · exact holdover (holdoverOp_kept hv)
  · exact lost (timeLostOp_kept hv)
  · exact tick (packageTickOp_kept (.inl hv))
  · exact fun hlo hhi => time (timeOp_slews hv hlo hhi)
  · exact fun h => time (timeOp_steps hv h)
  · exact fun h => time (timeOp_holds hv h)
  · exact holdover (holdoverOp_valid hv)
  · exact lost (timeLostOp_valid hv)
  · intro hrun t
    have hto := packageTickOp_ticks (k := k) hv hrun
    exact ⟨fun h => tick (hto.trans (timeTo_later h)), fun h => tick (hto.trans (timeTo_reached h))⟩
  · exact fun hrun => tick (packageTickOp_kept (.inr hrun))

end Sys2Proof.Machine

/-! A partition's Sol (O53): its tick, its end point, its commit, an overrun and the end of draining, with an equation for each phase in which
the command acts (R117 to R146). -/

namespace Sys2Proof.Machine

variable {s : State} {p j : Nat} {now : DWord}

theorem onUnit_gives {i n : Nat} {f : State → State} {t : State} (hr : s.inReset = false) (hi : i < n) (h : f s = t) :
    onUnit i n f s = .next t := by
  rw [onUnit_next f s hi, hr, ← h]
  rfl

/-! ### PARTITION_TICK (R117) -/

/-- The partition takes its tick `j` now. -/
def TickDue (s : State) (p j : Nat) : Prop :=
  ticksRun s = true ∧ (bstate s (Pg.ptn p) = B.running ∨ bstate s (Pg.ptn p) = B.stopping) ∧
    (((ptnAt s p).phase = .waiting ∧ (ptnAt s p).tickAt.toNat < tickTime s p j) ∨ ((ptnAt s p).phase = .armed ∧ (ptnAt s p).since.toNat ≤ tickTime s p j))

/-- Time has reached tick `j`, and the cores of the partition resume. -/
def tickBegun (s : State) (p j : Nat) : State :=
  foldS coreTick (ptnAt s p).domain (tagsDrop p (timeTo (BitVec.ofNat 64 (tickTime s p j)) s))

theorem ptnTickOp_due (h : TickDue s p j) :
    ptnTickOp p j s = updPtn p (fun y => { y with phase := .sol, tickAt := BitVec.ofNat 64 (tickTime s p j), tick := j, skid := none,
                                                   slow := ptnSlowNow (tickBegun s p j) p, leavenDies := [], digest := 0, digN := 0 }) (tickBegun s p j) :=
  if_pos h

theorem ptnTickOp_kept (h : ¬ TickDue s p j) : ptnTickOp p j s = s := if_neg h

/-! ### SOL_END_POINT (R127, R129) -/

/-- The Sol of the partition ends at `now`. -/
def SolEnds (s : State) (p : Nat) (now : DWord) : Prop :=
  (ptnAt s p).phase = .sol ∧ atEndPoint s p = true ∧ (ptnAt s p).tickAt ≤ now ∧
    (now.toNat ≤ deadline s p ∨ bit (getR s (Pg.ptn p) R.HDR_FAULT_EN) PC.overrun = false)

/-- The end of the Sol and its slack are noted. -/
def solEnded (s : State) (p : Nat) (now : DWord) : State :=
  let u := timeTo now s
  let slack := deadline u p - now.toNat
  updPtn p (fun y => { y with endAt := now })
    (if slack < getN u (Pg.ptn p) R.PTN_MIN_SLACK then setR (Pg.ptn p) R.PTN_MIN_SLACK (BitVec.ofNat 32 slack) u else u)

theorem endPointOp_kept (h : ¬ SolEnds s p now) : endPointOp p now s = s := if_neg h

/-- At the end point the deferred causes come first; with none of them the snapshot is copied. -/
theorem endPointOp_ends (h : SolEnds s p now) :
    endPointOp p now s =
      if (ptnAt s p).deferred ≠ 0 then takeDeferred true p (solEnded s p now)
      else hardCount p (snapCopy p (ptnSeq (solEnded s p now) p + 1) ((ptnAt s p).tickAt.toNat + solLen (solEnded s p now) p)
        (updPtn p (fun y => { y with phase := .copying }) (solEnded s p now))) :=
  if_pos h

theorem endPointOp_copies (h : SolEnds s p now) (hd : (ptnAt s p).deferred = 0) :
    endPointOp p now s = hardCount p (snapCopy p (ptnSeq (solEnded s p now) p + 1) ((ptnAt s p).tickAt.toNat + solLen (solEnded s p now) p)
      (updPtn p (fun y => { y with phase := .copying }) (solEnded s p now))) := by
  rw [endPointOp_ends h, if_neg (not_not_intro hd)]

theorem endPointOp_deferred (h : SolEnds s p now) (hd : (ptnAt s p).deferred ≠ 0) :
    endPointOp p now s = takeDeferred true p (solEnded s p now) := by
  rw [endPointOp_ends h, if_pos hd]

/-! ### SOL_COMMIT (R130, R134, R138) -/

/-- The snapshot copied last is in force, and the memory operations of the Sol with it; the Sol sequence counts on. -/
def solSequenced (s : State) (p : Nat) : State :=
  setR (Pg.ptn p) R.PTN_LAST_END (BitVec.ofNat 32 ((ptnAt s p).endAt - (ptnAt s p).tickAt).toNat)
    (setPtnSeq p (ptnSeq s p + 1) (lvnNotices true p (retryRings (ringCommit p (snapFlip p s)))))

/-- All of a commit but the partition's next phase. -/
def solCommitted (s : State) (p : Nat) : State :=
  trace 0 (Pg.ptn p) (twinCommit p (ptnSeq s p)
    (setR (Pg.ptn p) R.PTN_AUTO_LEFT (BitVec.ofNat 32 (getF (solSequenced s p) (Pg.ptn p) R.PTN_CFG 8 8)) (solSequenced s p)))

theorem commitOp_kept (bad : Bool) (h : (ptnAt s p).phase ≠ .copying) : commitOp p bad s = s := if_neg h

section
variable (h : (ptnAt s p).phase = .copying)
include h

theorem commitOp_deferred (hd : (ptnAt s p).deferred ≠ 0) : commitOp p false s = takeDeferred false p s := (if_pos h).trans (if_pos hd)

/-- The commit of a Sol with no deferred cause. -/
theorem commitOp_commits (hd : (ptnAt s p).deferred = 0) :
    commitOp p false s =
      if (ptnAt s p).stopWait then ptnStopped p (solCommitted s p) else updPtn p (fun y => { y with phase := .waiting }) (solCommitted s p) :=
  (if_pos h).trans (if_neg (not_not_intro hd))

theorem commitOp_waits (hd : (ptnAt s p).deferred = 0) (hw : (ptnAt s p).stopWait = false) :
    commitOp p false s = updPtn p (fun y => { y with phase := .waiting }) (solCommitted s p) := by
  simp [commitOp_commits h hd, hw]

theorem commitOp_stops (hd : (ptnAt s p).deferred = 0) (hw : (ptnAt s p).stopWait = true) :
    commitOp p false s = ptnStopped p (solCommitted s p) := by
  simp [commitOp_commits h hd, hw]

theorem commitOp_parity_faults (hf : bstate (fault (Pg.ptn p) PC.snapshot s) (Pg.ptn p) = B.faulted) :
    commitOp p true s = fault (Pg.ptn p) PC.snapshot s := (if_pos h).trans (if_pos hf)

theorem commitOp_parity_discards (hf : bstate (fault (Pg.ptn p) PC.snapshot s) (Pg.ptn p) ≠ B.faulted) :
    commitOp p true s =
      updPtn p (fun y => { y with phase := .waiting }) (lvnNotices false p (retryRings (ringDiscard p (fault (Pg.ptn p) PC.snapshot s)))) :=
  (if_pos h).trans (if_neg hf)

end

/-! ### SOL_OVERRUN (R142, R144) -/

/-- The deadline has passed: PTN_OVR holds the cores that are late and their operations, and OVERRUN is recorded. -/
def solOverrun (s : State) (p : Nat) : State :=
  let u := timeTo (BitVec.ofNat 64 (deadline s p)) s
  let late := ((ptnAt s p).domain.filter (fun c => !(coreAt u c).parked)).length
  let out := ((ptnAt s p).domain.map (coreOps u)).foldl (· + ·) 0
  ptnFault p PC.overrun (satR Pg.seq R.SEQ_OVERRUNS 1 (setR (Pg.ptn p) R.PTN_OVR (BitVec.ofNat 32 (Nat.min 65535 out * 65536 + late % 128)) u))

theorem overrunOp_kept (h : (ptnAt s p).phase ≠ .sol) : overrunOp p s = s := if_neg h

/-- In a Sol OVERRUN is recorded, and CLOCK after it where a half was slow. -/
theorem overrunOp_sol (h : (ptnAt s p).phase = .sol) :
    overrunOp p s = if (ptnAt s p).slow then ptnFault p PC.clock (solOverrun s p) else solOverrun s p := if_pos h

theorem overrunOp_inTime (h : (ptnAt s p).phase = .sol) (hs : (ptnAt s p).slow = false) : overrunOp p s = solOverrun s p := by
  simp [overrunOp_sol h, hs]

theorem overrunOp_slow (h : (ptnAt s p).phase = .sol) (hs : (ptnAt s p).slow = true) :
    overrunOp p s = ptnFault p PC.clock (solOverrun s p) := by
  simp [overrunOp_sol h, hs]

/-! ### PARTITION_FAULTED (R142, R145, R146) -/

/-- What the partition's units held is performed where it can be, and the rest is discarded. -/
def heldDone (s : State) (p : Nat) : State := foldS drainCore (ptnAt s p).domain (ptnDropHeld p (heldPass false p s))

theorem ptnFaultedOp_kept (h : (ptnAt s p).phase ≠ .draining ∨ ptnQuiet s p = false) : ptnFaultedOp p s = s := by
  rcases h with h | h <;> simp [ptnFaultedOp, h]

section
variable (h : (ptnAt s p).phase = .draining) (hq : ptnQuiet s p = true)
include h hq

theorem ptnFaultedOp_ends (hv : ptnQuiet (heldDone s p) p = true) :
    ptnFaultedOp p s = redSettle (retryRings (raise (.page (Pg.ptn p) ((ptnAt s p).pendFault ||| (ptnAt s p).deferred)) (hardRuns false p (heldDone s p)))) :=
  (if_pos ⟨h, hq⟩).trans (if_pos hv)

theorem ptnFaultedOp_drains (hv : ptnQuiet (heldDone s p) p = false) : ptnFaultedOp p s = heldDone s p :=
  (if_pos ⟨h, hq⟩).trans (if_neg (by simp [hv] : ¬ ptnQuiet (heldDone s p) p = true))

end

/-! ### The obligation -/

/-- Settles O53, from the equation of each phase. The model's own readings: a Sol may reach its end point after the deadline where OVERRUN is
disabled (log entry 135, DEDUCED), PTN_OVR counts the cores that are not parked (28, DEDUCED), the local time moves forward to a command's time
(6, DESIGN CHOICE), and deferred causes are recorded at the end point (43, DEDUCED). -/
theorem solTicksEndPointsAndCommits : Obligations.SolTicksEndPointsAndCommits := by
  intro s p j now hr hp x t due begun ends q snap seq full
  have tick {t} (h : ptnTickOp p j s = t) : Gives (.partitionTick p j) s t := onUnit_gives hr hp h
  have endPoint {t} (h : endPointOp p now s = t) : Gives (.solEndPoint p now) s t := onUnit_gives hr hp h
  have commit {bad t} (h : commitOp p bad s = t) : Gives (.solCommit p bad) s t := onUnit_gives hr hp h
  have overrun {t} (h : overrunOp p s = t) : Gives (.solOverrun p) s t := onUnit_gives hr hp h
  have faulted {t} (h : ptnFaultedOp p s = t) : Gives (.partitionFaulted p) s t := onUnit_gives hr hp h
  refine ⟨?_, ?_, ?_, ?_, ?_, ?_, ?_, ?_, ?_, ?_⟩
  · exact fun h => tick (ptnTickOp_due h)
  · exact fun h => tick (ptnTickOp_kept h)
  · exact fun h => endPoint (endPointOp_kept h)
  · exact fun h => ⟨fun hd => endPoint (endPointOp_copies h hd), fun hd => endPoint (endPointOp_deferred h hd)⟩
  · exact fun h => ⟨commit (commitOp_kept false h), commit (commitOp_kept true h)⟩
  · exact fun h => ⟨fun hd => commit (commitOp_deferred h hd), fun hd hw => commit (commitOp_waits h hd hw),
      fun hd hw => commit (commitOp_stops h hd hw), fun hf => commit (commitOp_parity_faults h hf), fun hf => commit (commitOp_parity_discards h hf)⟩
  · exact fun h => overrun (overrunOp_kept h)
  · exact fun h => ⟨fun hs => overrun (overrunOp_inTime h hs), fun hs => overrun (overrunOp_slow h hs)⟩
  · exact fun h hq => ⟨fun hv => faulted (ptnFaultedOp_ends h hq hv), fun hv => faulted (ptnFaultedOp_drains h hq hv)⟩
  · exact fun h => faulted (ptnFaultedOp_kept h)

end Sys2Proof.Machine

/-! REPLAY, DUMP, LOAD and the loading of scripts (O54): an equation for each outcome of R121, R139, R140, R147, R148 and R172 to R174. -/

namespace Sys2Proof.Machine

variable {s : State} {p c : Nat}

/-! ### REPLAY (R147, R148) -/

/-- A partition that REPLAY may restart: Faulted, and not by its self-test. -/
def Replayable (s : State) (p : Nat) : Prop := bstate s (Pg.ptn p) = B.faulted ∧ bit (getR s (Pg.ptn p) R.HDR_FAULT) 0 = false

theorem replayRefusal_state (h : ¬ Replayable s p) : replayRefusal s p = 2 := by
  have hbad : bstate s (Pg.ptn p) ≠ B.faulted ∨ bit (getR s (Pg.ptn p) R.HDR_FAULT) 0 = true := by
    rw [← Bool.not_eq_false]
    exact Decidable.not_and_iff_or_not.1 h
  exact if_pos hbad

section
variable (h : Replayable s p)
include h

theorem replayRefusal_replayable : replayRefusal s p =
    if !snapValid s p then 3 else if !maskSame s p ∨ !recordsOk s p ∨ !allPlaced s p then 4 else 0 := by
  obtain ⟨hst, hf⟩ := h
  simp [replayRefusal, hst, hf]

theorem replayRefusal_snapshot (hs : snapValid s p = false) : replayRefusal s p = 3 := by
  simp [replayRefusal_replayable h, hs]

theorem replayRefusal_records (hs : snapValid s p = true) (hok : (maskSame s p && recordsOk s p && allPlaced s p) = false) :
    replayRefusal s p = 4 := by
  rw [replayRefusal_replayable h, hs]
  revert hok
  cases maskSame s p <;> cases recordsOk s p <;> cases allPlaced s p <;> decide

theorem replayRefusal_accepted (hs : snapValid s p = true) (hok : (maskSame s p && recordsOk s p && allPlaced s p) = true) :
    replayRefusal s p = 0 := by
  obtain ⟨⟨hmask, hrec⟩, hplaced⟩ : (maskSame s p = true ∧ recordsOk s p = true) ∧ allPlaced s p = true := by simpa using hok
  simp [replayRefusal_replayable h, hs, hmask, hrec, hplaced]

end

theorem replayOp_refused {r : Nat} (h : replayRefusal s p = r + 1) : replayOp p s = setF (Pg.ptn p) R.PTN_ACTION_STATUS 0 3 (r + 1) s := by
  simp [replayOp, h]

theorem replayOp_accepted (h : replayRefusal s p = 0) : replayOp p s = replayStart p s := by simp [replayOp, h]

/-! ### DUMP and LOAD (R139, R140) -/

theorem dumpOp_busy (h : (unitJob s p).isSome = true) : dumpOp p s = s := if_pos h

theorem loadOp_busy (h : (unitJob s p).isSome = true) : loadOp p s = s := if_pos h

section
variable (h : (unitJob s p).isSome = false)
include h

theorem dumpOp_noSnapshot (hs : snapValid s p = false) : dumpOp p s = setR (Pg.ptn p) R.PTN_ACTION_STATUS 3 s := by
  simp [dumpOp, actionDone, h, hs]

theorem dumpOp_begins (hs : snapValid s p = true) :
    dumpOp p s =
      (let t := setR (Pg.ptn p) R.PTN_ACTION_STATUS 0x80000000 (unitOpen p 0 s)
       dumpSettle p (unitWrite p unitEp (getQ t (Pg.ptn p) R.PTN_DUMP_ADDR_LO).toNat (dumpImage t p) t)) := by
  simp [dumpOp, h, hs]

theorem loadOp_notStopped (hst : bstate s (Pg.ptn p) ≠ B.stopped) : loadOp p s = setR (Pg.ptn p) R.PTN_ACTION_STATUS 2 s := by
  simp [loadOp, actionDone, h, hst]

theorem loadOp_begins (hst : bstate s (Pg.ptn p) = B.stopped) :
    loadOp p s =
      (let t := setR (Pg.ptn p) R.PTN_ACTION_STATUS 0x80000000 (unitOpen p 1 s)
       loadSettle p (loadSettle p (unitRead p unitEp 0 (getQ t (Pg.ptn p) R.PTN_DUMP_ADDR_LO).toNat 512 t))) := by
  simp [loadOp, h, hst]

end

/-! ### REPLAY_RESTORE_DONE (R121, R123, R148) -/

theorem ptnRunning_notLoading (h : ∀ r, (ptnAt s p).phase ≠ .loading r) : ptnRunning p s = s := by
  unfold ptnRunning
  split
  · exact absurd ‹_› (h _)
  · rfl

theorem ptnRunning_held (h : bstate s (Pg.ptn p) ≠ B.starting ∨ ptnReady s p = false) : ptnRunning p s = s := by
  unfold ptnRunning
  split
  · exact if_neg fun hgo => h.elim (fun hst => hst hgo.1) (fun hready => by simp [hready] at hgo)
  · rfl

/-- The partition Running and armed from now on, its cores' overlays and vector registers cleared. -/
def replayArmed (s : State) (p : Nat) : State :=
  let t := setBState (Pg.ptn p) B.running s
  let u := setDegraded (Pg.ptn p) (ptnDegraded t p) { t with redDead := t.redDead.filter (fun e => decide (e ≠ p)) }
  let v := foldS (fun k w => vecClear k (updCore k (fun x => { x with valid := [] }) w)) (ptnAt u p).domain u
  updPtn p (fun x => { x with phase := .armed, since := BitVec.ofNat 64 s.time.toNat }) v

theorem ptnRunning_replay (hph : (ptnAt s p).phase = .loading true) (hst : bstate s (Pg.ptn p) = B.starting) (hready : ptnReady s p = true) :
    ptnRunning p s = trace 0 (Pg.ptn p) (setF (Pg.ptn p) R.PTN_ACTION_STATUS 0 3 1
      (snapCommit p (ptnSeq (replayArmed s p) p) (nextTick (replayArmed s p) p s.time.toNat) (replayArmed s p))) := by
  unfold ptnRunning
  rw [hph]
  exact if_pos ⟨hst, hready⟩

/-! ### SCRIPT_LOAD_DONE (R172 to R174) -/

/-- The image of core `c` has been read, and its partition still loads and may start. -/
def ImageRead (s : State) (c : Nat) (i : UnitJob) : Prop :=
  (coreAt s c).loading = true ∧ i.left = 0 ∧ i.stage ≠ 0 ∧ loadsScript s c = true ∧ startOpen s c = true

/-- The load has ended: its unit is free and the core no longer loads. -/
def loadEnded (s : State) (c : Nat) : State := unitClose (imgUnit c) (updCore c (fun x => { x with loading := false }) s)

/-- The bytes of an image's resident syllables. -/
def imgBody (i : UnitJob) : List Byte := Tab.slice 0 i.buf 64 (32 * tabNum i.buf 4 2)

/-- The syllables that an image holds. -/
def imgScript (i : UnitJob) : Tab Syllable :=
  (List.range (tabNum i.buf 4 2)).foldl (fun (z : Tab Syllable) k => Tab.store 0 z k (syllableOf (((imgBody i).drop (32 * k)).take 32))) []

/-- The image fails the checks of R174. -/
def ImageBad (s : State) (c : Nat) (i : UnitJob) : Prop :=
  i.stage = 2 ∨ i.bad = true ∨ imgHeaderOk (loadEnded s c) c i = false ∨ tabNum i.buf 8 4 ≠ crcOf (imgBody i)

/-- The checks as the model tests them. -/
theorem imageBad_iff {i : UnitJob} :
    ImageBad s c i ↔ i.stage = 2 ∨ i.bad = true ∨ (!imgHeaderOk (loadEnded s c) c i) = true ∨ tabNum i.buf 8 4 ≠ crcOf (imgBody i) := by
  rw [Bool.not_eq_true', ImageBad]

theorem not_imageBad {i : UnitJob} (hstage : i.stage ≠ 2) (hbad : i.bad = false) (hhead : imgHeaderOk (loadEnded s c) c i = true)
    (hcrc : tabNum i.buf 8 4 = crcOf (imgBody i)) : ¬ ImageBad s c i := by
  simp [ImageBad, hstage, hbad, hhead, hcrc]

/-- The image of a core of partition `h` has become the resident region; a first load starts the core at the image's entry point. -/
def imgInstalled (s : State) (c h : Nat) (i : UnitJob) : State :=
  let first := decide ((ptnAt (loadEnded s c) h).phase = .loading false) && !ptnResume (loadEnded s c) h
  updCore c (fun x => { x with script := imgScript i, res := tabNum i.buf 4 2, entry := tabNum i.buf 6 2, valid := [], loaded := true,
                               pos := if first then tabNum i.buf 6 2 else x.pos }) (loadEnded s c)

/-- The partition of a site does not depend on the state of its core. -/
theorem ptnOfSite_updCore (f : Core → Core) : ptnOfSite (updCore c f s) c = ptnOfSite s c := rfl

/-- A partition that loads a script is in the phase of loading. -/
theorem loading_of_loadsScript {h : Nat} (hl : loadsScript s c = true) (hh : ptnOfSite s c = some h) : ∃ r, (ptnAt s h).phase = .loading r := by
  simp only [loadsScript, hh, Bool.and_eq_true] at hl
  obtain ⟨-, hphase⟩ := hl
  split at hphase
  · exact ⟨_, ‹_›⟩
  · contradiction

theorem scriptLoadOp_none (h : unitJob s (imgUnit c) = none) : scriptLoadOp c s = s := by simp [scriptLoadOp, h]

section
variable {i : UnitJob} (hj : unitJob s (imgUnit c) = some i)
include hj

theorem scriptLoadOp_kept (h : (coreAt s c).loading = false ∨ i.left ≠ 0 ∨ i.stage = 0 ∨ loadsScript s c = false ∨ startOpen s c = false) :
    scriptLoadOp c s = s := by
  simp only [scriptLoadOp, hj]
  refine if_neg ?_
  rintro ⟨hload, hleft, hstage, hpart, hopen⟩
  simp [hload, hleft, hstage, hpart, hopen] at h

variable (hread : ImageRead s c i)
include hread

theorem scriptLoadOp_bad (h : ImageBad s c i) : scriptLoadOp c s = coreFault c 5 (loadEnded s c) := by
  simp only [scriptLoadOp, hj]
  exact (if_pos hread).trans (if_pos (imageBad_iff.1 h))

theorem scriptLoadOp_good {h : Nat} (hok : ¬ ImageBad s c i) (hh : ptnOfSite (loadEnded s c) c = some h) :
    scriptLoadOp c s = barsGo h (imgInstalled s c h i) := by
  have ⟨_, _, _, hloads, _⟩ := hread
  obtain ⟨r, hph⟩ : ∃ r, (ptnAt (loadEnded s c) h).phase = .loading r := loading_of_loadsScript hloads hh
  simp only [scriptLoadOp, hj]
  refine (if_pos hread).trans ((if_neg (mt imageBad_iff.2 hok)).trans ?_)
  rw [loadEnded] at hh hph
  simp only [ptnOfSite_updCore, imgInstalled, loadEnded, hh, hph]
  cases r <;> rfl

end

/-! ### The obligation -/

/-- Settles O54, from the equation of each outcome. The model's own readings: an action while a DUMP or LOAD is BUSY changes nothing (log entry 147,
DESIGN CHOICE), and SCRIPT_LOAD_DONE waits for valid time, for SEQ and for the clocks (29, DEDUCED). -/
theorem replayDumpLoadAndScripts : Obligations.ReplayDumpLoadAndScripts := by
  intro s p c hr hp hc pg res busy ok
  have replay {t} (h : replayOp p s = t) : Gives (.replay p) s t := onUnit_gives hr hp h
  have dump {t} (h : dumpOp p s = t) : Gives (.dump p) s t := onUnit_gives hr hp h
  have load {t} (h : loadOp p s = t) : Gives (.load p) s t := onUnit_gives hr hp h
  have restored {t} (h : ptnRunning p s = t) : Gives (.replayRestoreDone p) s t := onUnit_gives hr hp h
  have script {t} (h : scriptLoadOp c s = t) : Gives (.scriptLoadDone c) s t := onUnit_gives hr hc h
  refine ⟨?_, ?_, ?_, ?_, ?_, ?_, ?_, ?_, ?_, ?_, ?_⟩
  · exact fun h => replay (replayOp_refused (replayRefusal_state h))
  · exact fun h hs => replay (replayOp_refused (replayRefusal_snapshot h hs))
  · exact fun h hs hbad => replay (replayOp_refused (replayRefusal_records h hs hbad))
  · exact fun h hs hgood => replay (replayOp_accepted (replayRefusal_accepted h hs hgood))
  · exact fun h => ⟨dump (dumpOp_busy h), load (loadOp_busy h)⟩
  · exact fun h => ⟨fun hs => dump (dumpOp_noSnapshot h hs), fun hs => dump (dumpOp_begins h hs),
      fun hst => load (loadOp_notStopped h hst), fun hst => load (loadOp_begins h hst)⟩
  · exact fun h => restored (h.elim ptnRunning_notLoading ptnRunning_held)
  · exact fun hph hst hready => restored (ptnRunning_replay hph hst hready)
  · exact fun h => script (scriptLoadOp_none h)
  · exact fun i hj h => script (scriptLoadOp_kept hj h)
  · intro i hj hload hleft hstage hloads hopen t n body
    have hread : ImageRead s c i := ⟨hload, hleft, hstage, hloads, hopen⟩
    exact ⟨fun h => script (scriptLoadOp_bad hj hread h),
      fun hstage hbad hhead hcrc h hh => script (scriptLoadOp_good hj hread (not_imageBad hstage hbad hhead hcrc) hh)⟩

end Sys2Proof.Machine
/-! Which pending write of a scalar register a reader sees (O9, O10; R183, R184, R192 to R194, R210). -/

namespace Sys2Proof.Machine

variable {l : List PendWrite} {w : PendWrite} {r : Rd} {file idx i : Nat}

/-- The later issued of what has been found and one more write; of two issued together the one queued later. -/
def laterOf (m : Option PendWrite) (w : PendWrite) : Option PendWrite :=
  match m with
  | none => some w
  | some x => if x.iss ≤ w.iss then some w else some x

/-- Write `w` is one of the register, and reader `r` sees it at stepped index `i`. -/
def seenAt (r : Rd) (file idx i : Nat) (w : PendWrite) : Bool := decide (w.file = file ∧ w.idx = idx ∧ w.vis r ≤ i)

theorem seenAt_iff : seenAt r file idx i w = true ↔ w.file = file ∧ w.idx = idx ∧ w.vis r ≤ i := decide_eq_true_iff

theorem pendSeen_eq_foldl : pendSeen l r file idx i = (l.filter (seenAt r file idx i)).foldl laterOf none := rfl

/-- A search that has found a write ends with one than which none was issued later. -/
theorem foldl_laterOf_some (l : List PendWrite) (x : PendWrite) :
    ∃ top, l.foldl laterOf (some x) = some top ∧ (top = x ∨ top ∈ l) ∧ x.iss ≤ top.iss ∧ ∀ v ∈ l, v.iss ≤ top.iss := by
  induction l generalizing x with
  | nil => exact ⟨x, rfl, .inl rfl, le_rfl, List.forall_mem_nil _⟩
  | cons w l ih =>
    rw [List.foldl_cons]
    by_cases h : x.iss ≤ w.iss
    · obtain ⟨top, htop, hmem, hle, hall⟩ := ih w
      exact ⟨top, by rwa [laterOf, if_pos h], .inr (List.mem_cons.2 hmem), h.trans hle, List.forall_mem_cons.2 ⟨hle, hall⟩⟩
    · obtain ⟨top, htop, hmem, hle, hall⟩ := ih x
      exact ⟨top, by rwa [laterOf, if_neg h], hmem.imp_right (List.mem_cons_of_mem w), hle, List.forall_mem_cons.2 ⟨by omega, hall⟩⟩

theorem pendSeen_none (h : ∀ v ∈ l, seenAt r file idx i v = false) : pendSeen l r file idx i = none := by
  rw [pendSeen_eq_foldl, List.filter_eq_nil_iff.2 (by simpa using h), List.foldl_nil]

/-- A reader that sees a write of the register sees one than which none that it sees was issued later (R194). -/
theorem pendSeen_latest (hw : w ∈ l) (hs : seenAt r file idx i w = true) :
    ∃ top, pendSeen l r file idx i = some top ∧ (top ∈ l ∧ seenAt r file idx i top = true) ∧
      ∀ v ∈ l, seenAt r file idx i v = true → v.iss ≤ top.iss := by
  have hmem : w ∈ l.filter (seenAt r file idx i) := List.mem_filter.2 ⟨hw, hs⟩
  rw [pendSeen_eq_foldl]
  cases hf : l.filter (seenAt r file idx i) with
  | nil => rw [hf] at hmem; exact absurd hmem List.not_mem_nil
  | cons x rest =>
    obtain ⟨top, htop, hmem, hle, hall⟩ := foldl_laterOf_some rest x
    refine ⟨top, htop, List.mem_filter.1 (hf ▸ List.mem_cons.2 hmem), fun v hv hsv => ?_⟩
    have hv : v ∈ x :: rest := hf ▸ List.mem_filter.2 ⟨hv, hsv⟩
    exact (List.mem_cons.1 hv).elim (fun heq => heq ▸ hle) (hall v)

theorem pendSeen_append_unseen (hw : seenAt r file idx i w = false) : pendSeen (l ++ [w]) r file idx i = pendSeen l r file idx i := by
  simp [pendSeen_eq_foldl, hw]

theorem pendSeen_append_seen (hw : seenAt r file idx i w = true) (hl : ∀ v ∈ l, seenAt r file idx i v = true → v.iss ≤ w.iss) :
    pendSeen (l ++ [w]) r file idx i = some w := by
  have hstep : pendSeen (l ++ [w]) r file idx i = laterOf (pendSeen l r file idx i) w := by simp [pendSeen_eq_foldl, hw]
  rw [hstep]
  by_cases hsome : ∃ v ∈ l, seenAt r file idx i v = true
  · obtain ⟨v, hv, hs⟩ := hsome
    obtain ⟨top, htop, ⟨hmem, hseen⟩, -⟩ := pendSeen_latest hv hs
    rw [htop, laterOf, if_pos (hl top hmem hseen)]
  · rw [pendSeen_none fun v hv => Bool.eq_false_iff.2 fun hs => hsome ⟨v, hv, hs⟩, laterOf]

/-! ### What a read gives -/

theorem rdReg_zero (x : Core) (r : Rd) (file i : Nat) : rdReg x r file 0 i = if file = 2 then 1 else 0 := if_pos rfl

theorem rdReg_seen {x : Core} {top : PendWrite} (h0 : idx ≠ 0) (h : pendSeen x.pend r file idx i = some top) :
    rdReg x r file idx i = top.val := by
  simp [rdReg, h0, h]

theorem rdReg_unseen {x : Core} (h0 : idx ≠ 0) (h : pendSeen x.pend r file idx i = none) : rdReg x r file idx i = coreBase x file idx := by
  simp [rdReg, h0, h]

/-- Settles O9: a search of the pending writes keeps the latest issued of those it has met. -/
theorem latestVisibleWriteIsRead : Obligations.LatestVisibleWriteIsRead := by
  intro x r file idx i h0 seen
  have hseen {w} : seen w ↔ w ∈ x.pend ∧ seenAt r file idx i w = true := and_congr_right fun _ => seenAt_iff.symm
  refine ⟨?_, fun hnone => ?_⟩
  · rintro ⟨w, hw⟩
    obtain ⟨hmem, hs⟩ := hseen.1 hw
    obtain ⟨top, htop, hin, hlast⟩ := pendSeen_latest hmem hs
    exact ⟨top, hseen.2 hin, fun v hv => hlast v (hseen.1 hv).1 (hseen.1 hv).2, rdReg_seen h0 htop⟩
  · exact rdReg_unseen h0 (pendSeen_none fun v hv => Bool.eq_false_iff.2 fun hs => hnone ⟨v, hseen.2 ⟨hv, hs⟩⟩)

/-! ### A result on its way -/

/-- The pending write of a result of pipeline `q` (R192, R193). -/
def resultOf (q : Pipe) (file idx i lat : Nat) (v : DWord) : PendWrite :=
  match q with
  | .p0 => { file := file, idx := idx, val := v, iss := 2 * i + 1, vis0 := i + lat, vis1 := i + max lat 3, visO := i + max lat 3 }
  | .p1 => { file := file, idx := idx, val := v, iss := 2 * i, vis0 := i + max lat 3, vis1 := i + lat, visO := i + max lat 3 }

theorem wrReg_zero (x : Core) (q : Pipe) (file i lat : Nat) (v : DWord) : wrReg x q file 0 i lat v = x := if_pos rfl

theorem wrReg_nonzero (x : Core) (q : Pipe) (file i lat : Nat) (v : DWord) (h0 : idx ≠ 0) :
    wrReg x q file idx i lat v = { x with pend := x.pend ++ [resultOf q file idx i lat v] } := by
  cases q <;> exact if_neg h0

theorem resultOf_val (q : Pipe) (file idx i lat : Nat) (v : DWord) : (resultOf q file idx i lat v).val = v := by cases q <;> rfl

/-- The place in the order of issue: within a syllable pipeline 1 comes before pipeline 0 (R212). -/
def issueOrder (q : Pipe) (i : Nat) : Nat :=
  match q with
  | .p0 => 2 * i + 1
  | .p1 => 2 * i

theorem le_issueOrder (q : Pipe) (i : Nat) : 2 * i ≤ issueOrder q i := by
  cases q
  · exact Nat.le_succ _
  · exact le_rfl

theorem resultOf_iss (q : Pipe) (file idx i lat : Nat) (v : DWord) : (resultOf q file idx i lat v).iss = issueOrder q i := by cases q <;> rfl

/-- Its own pipeline sees a result after its latency, every other reader after at least three (R192, R193). -/
theorem seenAt_resultOf (q : Pipe) (r : Rd) (file idx i lat f k j : Nat) (v : DWord) :
    seenAt r f k j (resultOf q file idx i lat v) = true ↔ (f, k) = (file, idx) ∧ i + (if r = rdOf q then lat else max lat 3) ≤ j := by
  rw [seenAt_iff]
  cases q <;> cases r <;> simp [resultOf, rdOf, PendWrite.vis, eq_comm, and_assoc]

/-- Pending writes are not the register file. -/
theorem coreBase_pend (x : Core) (l : List PendWrite) (file idx : Nat) : coreBase { x with pend := l } file idx = coreBase x file idx := rfl

/-- A read finds the same where it finds the same pending write. -/
theorem rdReg_pend {x : Core} (h : pendSeen l r file idx i = pendSeen x.pend r file idx i) :
    rdReg { x with pend := l } r file idx i = rdReg x r file idx i := by
  simp only [rdReg, h, coreBase_pend]

theorem rdReg_wrReg_unseen (x : Core) (q : Pipe) (r : Rd) {idx lat f k j : Nat} (v : DWord)
    (h : ¬ ((f, k) = (file, idx) ∧ i + (if r = rdOf q then lat else max lat 3) ≤ j)) :
    rdReg (wrReg x q file idx i lat v) r f k j = rdReg x r f k j := by
  by_cases h0 : idx = 0
  · rw [h0, wrReg_zero]
  · rw [wrReg_nonzero x q file i lat v h0]
    exact rdReg_pend (pendSeen_append_unseen (Bool.eq_false_iff.2 (mt (seenAt_resultOf ..).1 h)))

theorem rdReg_wrReg_seen (x : Core) (q : Pipe) (r : Rd) {idx lat j : Nat} (v : DWord) (h0 : idx ≠ 0)
    (hl : ∀ w ∈ x.pend, w.file = file → w.idx = idx → w.iss ≤ 2 * i) (h : i + (if r = rdOf q then lat else max lat 3) ≤ j) :
    rdReg (wrReg x q file idx i lat v) r file idx j = v := by
  have hlast : ∀ w ∈ x.pend, seenAt r file idx j w = true → w.iss ≤ (resultOf q file idx i lat v).iss := fun w hw hs => by
    obtain ⟨hfile, hidx, -⟩ := seenAt_iff.1 hs
    exact (hl w hw hfile hidx).trans (resultOf_iss .. ▸ le_issueOrder q i)
  rw [wrReg_nonzero x q file i lat v h0]
  exact (rdReg_seen h0 (pendSeen_append_seen ((seenAt_resultOf ..).2 ⟨rfl, h⟩) hlast)).trans (resultOf_val ..)

/-- Settles O10: the new write is the last of the queue, so a reader that sees it reads it, and one that does not reads what it read before. -/
theorem resultsBecomeVisibleOnTime : Obligations.ResultsBecomeVisibleOnTime := by
  intro x q r file idx i lat j v hl y
  refine ⟨?_, fun h0 => ?_, fun f k hne => rdReg_wrReg_unseen x q r v fun h => hne h.1⟩
  · rintro rfl
    exact ⟨wrReg_zero .., rdReg_zero ..⟩
  · by_cases hj : i + (if r = rdOf q then lat else max lat 3) ≤ j
    · exact (rdReg_wrReg_seen x q r v h0 hl hj).trans (if_pos hj).symm
    · exact (rdReg_wrReg_unseen x q r v fun h => hj h.2).trans (if_neg hj).symm

end Sys2Proof.Machine

/-! The scalar pipelines (O4 to O6): what an operation that its pipeline can perform writes (R189, R191, R192, R208, R211). -/

namespace Sys2Proof.Machine

variable {s : State} {c : Nat} {q : Pipe}

/-! ### Reaching the pipeline (R210, R217) -/

/-- An operation that its pipeline can perform is performed at the core's stepped index; an LD of pipeline 1 needs pipeline 0 to hold nothing. -/
theorem scalarOp_performs (h : Issues s c q) {op : Instr} (hop : isLd op = false ∨ q = .p0 ∨ unitHolds (coreAt s c) 7 = false)
    (f : Nat → State → State) : scalarOp c q op f s = f (coreAt s c).steps s := by
  obtain ⟨-, -, hq⟩ := h
  cases q with
  | p0 => simp only [scalarOp, hq, Bool.false_eq_true, if_false]
  | p1 =>
    obtain ⟨hkind, hslot⟩ := hq
    have hfree : (isLd op && unitHolds (coreAt s c) 7) = false := by
      rcases hop with hld | hpipe | hnone
      · rw [hld, Bool.false_and]
      · exact absurd hpipe (by decide)
      · rw [hnone, Bool.and_false]
    simp only [scalarOp, hkind, hslot, hfree, if_true, Bool.false_eq_true, if_false]

/-- An LD of pipeline 1 waits behind what pipeline 0 holds, without a freeze of its own (R221). -/
theorem scalarOp_loadWaits (h : Issues s c .p1) {op : Instr} (hld : isLd op = true) (hw : unitHolds (coreAt s c) 7 = true)
    (f : Nat → State → State) : scalarOp c .p1 op f s = holdQuiet c 4 (coreAt s c).steps op s := by
  obtain ⟨-, -, hkind, hslot⟩ := h
  simp only [scalarOp, hkind, hslot, hld, hw, if_true, Bool.false_eq_true, if_false, Bool.and_self]

theorem scalar_gives (h : Issues s c q) {op : Instr} {f : Nat → State → State} {t : State}
    (hop : isLd op = false ∨ q = .p0 ∨ unitHolds (coreAt s c) 7 = false) (ht : f (coreAt s c).steps s = t) :
    onUnit c nSites (scalarOp c q op f) s = .next t :=
  have ⟨hr, hc, _⟩ := h
  onUnit_gives hr hc ((scalarOp_performs h hop f).trans ht)

/-! ### The four forms of R189 -/

section
variable (h : Issues s c q) {op : Instr}
include h

theorem binAt_gives (hop : isLd op = false) (f : DWord → DWord → DWord) (d a b : BitVec 8) :
    onUnit c nSites (scalarOp c q op (binAt f c q d a b)) s =
      .next (setCore c (wrReg (coreAt s c) q (fileOf q) d.toNat (coreAt s c).steps 1
        (f (rdQ (coreAt s c) q a (coreAt s c).steps) (rdQ (coreAt s c) q b (coreAt s c).steps))) s) :=
  scalar_gives h (.inl hop) rfl

theorem unAt_gives (hop : isLd op = false) (f : DWord → DWord) (d a : BitVec 8) :
    onUnit c nSites (scalarOp c q op (unAt f c q d a)) s =
      .next (setCore c (wrReg (coreAt s c) q (fileOf q) d.toNat (coreAt s c).steps 1 (f (rdQ (coreAt s c) q a (coreAt s c).steps))) s) :=
  scalar_gives h (.inl hop) rfl

theorem cmpAt_gives (hop : isLd op = false) (f : DWord → DWord → Bool) (pd : BitVec 4) (a b : BitVec 8) :
    onUnit c nSites (scalarOp c q op (cmpAt f c q pd a b)) s =
      .next (setCore c (wrPred (coreAt s c) q pd.toNat (coreAt s c).steps
        (f (rdQ (coreAt s c) q a (coreAt s c).steps) (rdQ (coreAt s c) q b (coreAt s c).steps))) s) :=
  scalar_gives h (.inl hop) rfl

theorem predAt_gives (hop : isLd op = false) (f : Bool → Bool → Bool) (pd pa pb : BitVec 4) :
    onUnit c nSites (scalarOp c q op (predAt f c q pd pa pb)) s =
      .next (setCore c (wrPred (coreAt s c) q pd.toNat (coreAt s c).steps
        (f (rdPred (coreAt s c) (rdOf q) pa.toNat (coreAt s c).steps) (rdPred (coreAt s c) (rdOf q) pb.toNat (coreAt s c).steps))) s) :=
  scalar_gives h (.inl hop) rfl

end

/-- Settles O4: each operation is `binAt` of its function of R189. -/
theorem scalarArithmeticWritesItsResult : Obligations.ScalarArithmeticWritesItsResult := by
  intro s c q d a b h x va vb res
  have writes (f : DWord → DWord → DWord) {op : Instr} (hop : isLd op = false) :
      onUnit c nSites (scalarOp c q op (binAt f c q d a b)) s = .next (res (f va vb)) := binAt_gives h hop f d a b
  exact ⟨writes (fun a b => a + b) rfl, writes (fun a b => a - b) rfl, writes (fun a b => a &&& b) rfl, writes (fun a b => a ||| b) rfl,
    writes (fun a b => a ^^^ b) rfl, writes (fun a b => a <<< shAmt b) rfl, writes (fun a b => a >>> shAmt b) rfl,
    writes (fun a b => a.sshiftRight (shAmt b)) rfl, writes (fun a b => a * b) rfl, writes minS rfl, writes maxS rfl, writes minU rfl,
    writes maxU rfl⟩

/-! ### MFS and MOVX (R208, R211) -/

theorem mfsValue_none {i k : Nat} (hk : 7 ≤ k) : mfsValue s c i k = none := by
  obtain ⟨n, rfl⟩ := Nat.exists_eq_add_of_le' hk
  rfl

theorem mfsAt_value {d k : BitVec 8} {i : Nat} {v : DWord} (hv : mfsValue s c i k.toNat = some v) :
    mfsAt c q d k i s = updCore c (fun x => wrReg x q (fileOf q) d.toNat i 1 v) s := by simp only [mfsAt, hv]

theorem mfsAt_illegal {d k : BitVec 8} {i : Nat} (hk : 7 ≤ k.toNat) : mfsAt c q d k i s = coreFault c 1 s := by
  simp only [mfsAt, mfsValue_none hk]

theorem movxAt_moves {d a : BitVec 8} {i : Nat} (hk : runsAs s c = some 2) :
    movxAt c q d a i s = updCore c (fun x => wrReg x q (fileOf q) d.toNat i 1 (rdReg x (rdOf q) (1 - fileOf q) a.toNat i)) s := if_pos hk

theorem movxAt_illegal {d a : BitVec 8} {i : Nat} (hk : runsAs s c ≠ some 2) : movxAt c q d a i s = coreFault c 1 s := if_neg hk

/-- Settles O5: each operation is `unAt`, `cmpAt` or `predAt` of its function of R189, or an outcome of MFS or MOVX. -/
theorem scalarImmediatesAndComparesWriteTheirResult : Obligations.ScalarImmediatesAndComparesWriteTheirResult := by
  refine ⟨fun s c q d a h => ?_, fun s c q pd pa pb a b h => ?_⟩
  · intro x va vd res
    have writes (f : DWord → DWord) (r : BitVec 8) {op : Instr} (hop : isLd op = false) :
        onUnit c nSites (scalarOp c q op (unAt f c q d r)) s = .next (res (f (rdQ x q r x.steps))) := unAt_gives h hop f d r
    refine ⟨?_, ?_, ?_, ?_, ?_, ?_, ?_, ?_, ?_, ?_⟩
    · exact scalar_gives h (.inl rfl) rfl
    · exact fun imm => writes (fun v => v + imm.signExtend 64) a rfl
    · exact fun imm => writes (fun _ => imm.signExtend 64) 0 rfl
    · exact fun imm => writes (fun v => (v <<< 16) ||| imm.zeroExtend 64) d rfl
    · exact fun imm => writes (fun v => v <<< imm.toNat) a rfl
    · exact fun imm => writes (fun v => v >>> imm.toNat) a rfl
    · exact fun k v hv => scalar_gives h (.inl rfl) (mfsAt_value hv)
    · exact fun k hk => scalar_gives h (.inl rfl) (mfsAt_illegal hk)
    · exact fun hk => scalar_gives h (.inl rfl) (movxAt_moves hk)
    · exact fun hk => scalar_gives h (.inl rfl) (movxAt_illegal hk)
  · intro x va vb ka kb res
    have compares (f : DWord → DWord → Bool) {op : Instr} (hop : isLd op = false) :
        onUnit c nSites (scalarOp c q op (cmpAt f c q pd a b)) s = .next (res (f va vb)) := cmpAt_gives h hop f pd a b
    have combines (f : Bool → Bool → Bool) {op : Instr} (hop : isLd op = false) :
        onUnit c nSites (scalarOp c q op (predAt f c q pd pa pb)) s = .next (res (f ka kb)) := predAt_gives h hop f pd pa pb
    exact ⟨compares cmpEq rfl, compares cmpLt rfl, compares cmpLtu rfl, combines (fun a b => a && b) rfl, combines (fun a b => a || b) rfl,
      combines (fun a b => a != b) rfl⟩

/-! ### LD and ST (R191, R195) -/

theorem ldstOk_iff {a : Nat} : ldstOk s c a = true ↔ a % 8 = 0 ∧ a + 8 ≤ sizeOfSite s c := by
  simp only [ldstOk, Bool.and_eq_true, decide_eq_true_eq]

section
variable {d a imm : BitVec 8} {i : Nat}

theorem ldAt_reads (hok : ldstOk s c (ldstAddr (coreAt s c) q a imm i) = true) :
    ldAt c q d a imm i s = updCore c (fun x =>
      let ad := ldstAddr (coreAt s c) q a imm i
      claim (scalarRank q) 7 i ad 8 (wrReg x q (fileOf q) d.toNat i 4 (BitVec.ofNat 64 (numOf (spadBytes x 0 i ad 8))))) s := if_pos hok

theorem ldAt_scratch (hok : ¬ ldstOk s c (ldstAddr (coreAt s c) q a imm i) = true) : ldAt c q d a imm i s = coreFault c 4 s := if_neg hok

theorem stAt_writes (hok : ldstOk s c (ldstAddr (coreAt s c) q a imm i) = true) :
    stAt c q d a imm i s = updCore c (fun x =>
      let ad := ldstAddr (coreAt s c) q a imm i
      claim (scalarRank q) 7 i ad 8 (spadStore x ad (bytesOf 8 (rdQ x q d i).toNat) (issueOrder q i) (i + 1) (i + 3) (i + 3))) s :=
  (if_pos hok).trans (by cases q <;> rfl)

theorem stAt_scratch (hok : ¬ ldstOk s c (ldstAddr (coreAt s c) q a imm i) = true) : stAt c q d a imm i s = coreFault c 4 s := if_neg hok

end

/-- Settles O6, from the outcomes of LD and ST by their address. -/
theorem scratchpadLoadsAndStores : Obligations.ScratchpadLoadsAndStores := by
  intro s c q d a imm h x i ad iss w rank ready
  have free (hready : ready) : isLd (.ld c q d a imm) = false ∨ q = .p0 ∨ unitHolds (coreAt s c) 7 = false := .inr hready
  refine ⟨fun hw => ?_, fun hok => ?_, fun hbad => ?_⟩
  · obtain ⟨hq, hholds⟩ : q ≠ .p0 ∧ unitHolds x 7 ≠ false := not_or.1 hw
    have ⟨hr, hc, _⟩ := h
    cases q with
    | p0 => exact absurd rfl hq
    | p1 => exact onUnit_gives hr hc (scalarOp_loadWaits h rfl (Bool.not_eq_false _ ▸ hholds) _)
  · refine ⟨fun hready => scalar_gives h (free hready) ((ldAt_reads (ldstOk_iff.2 hok)).trans ?_),
      scalar_gives h (.inl rfl) ((stAt_writes (ldstOk_iff.2 hok)).trans ?_)⟩ <;> cases q <;> rfl
  · exact ⟨fun hready => scalar_gives h (free hready) (ldAt_scratch (mt ldstOk_iff.1 hbad)),
      scalar_gives h (.inl rfl) (stAt_scratch (mt ldstOk_iff.1 hbad))⟩

end Sys2Proof.Machine

/-! Waits on signals (O7; R204 to R207): an equation for each outcome. -/

namespace Sys2Proof.Machine

variable {s : State} {c : Nat}

/-! ### WAIT and WAITR (R204) -/

theorem waitOn_met {sig need i : Nat} {op : Instr} (h : need ≤ sigCount s c sig) :
    waitOn c sig need i op s = setSig c sig (sigCount s c sig - need) s := if_pos h

theorem waitOn_short {sig need i : Nat} {op : Instr} (h : sigCount s c sig < need) : waitOn c sig need i op s = holdOp c 7 i op s :=
  if_neg (Nat.not_le.2 h)

/-! ### WAITL (R206) -/

section
variable {pd : BitVec 4} {sig : BitVec 5} {k : BitVec 7} {a : BitVec 8} {i : Nat}

theorem waitlAt_zero : waitlAt c pd sig 0 a i s = updCore c (fun x => wrPred x .p0 pd.toNat i true) s := by
  simp only [waitlAt, if_true]

section
variable (h0 : k ≠ 0)
include h0

theorem waitlAt_met (h : k.toNat ≤ sigCount s c sig.toNat) : waitlAt c pd sig k a i s =
    updCore c (fun x => wrPred x .p0 pd.toNat i true) (setSig c sig.toNat (sigCount s c sig.toNat - k.toNat) s) :=
  (if_neg h0).trans (if_pos h)

theorem waitlAt_tested (h : sigCount s c sig.toNat < k.toNat) (hlimit : (rdQ (coreAt s c) .p0 a i).toNat % 2 ^ 32 = 0) :
    waitlAt c pd sig k a i s = updCore c (fun x => wrPred x .p0 pd.toNat i false) s :=
  (if_neg h0).trans ((if_neg (Nat.not_le.2 h)).trans (if_pos hlimit))

theorem waitlAt_held (h : sigCount s c sig.toNat < k.toNat) (hlimit : (rdQ (coreAt s c) .p0 a i).toNat % 2 ^ 32 ≠ 0) :
    waitlAt c pd sig k a i s = holdOp c 7 i (.waitl c pd sig k a) s :=
  (if_neg h0).trans ((if_neg (Nat.not_le.2 h)).trans (if_neg hlimit))

end

/-! ### WAITL_TIMEOUT (R206) -/

/-- A WAITL that unit S holds. -/
def isHeldWaitl (h : Nat × Nat × Instr) : Bool := decide (h.1 = 7) && isWaitl h.2.2

theorem isHeldWaitl_eq_false {h : Nat × Nat × Instr} (hh : h.1 = 7 → isWaitl h.2.2 = false) : isHeldWaitl h = false := by
  unfold isHeldWaitl
  by_cases h7 : h.1 = 7
  · rw [hh h7, Bool.and_false]
  · rw [decide_eq_false h7, Bool.false_and]

theorem waitlExpire_none (h : ∀ e ∈ (coreAt s c).holds, e.1 = 7 → isWaitl e.2.2 = false) : waitlExpire c s = s := by
  have hfind : (coreAt s c).holds.find? isHeldWaitl = none :=
    List.find?_eq_none.2 fun e he => by rw [isHeldWaitl_eq_false (h e he)]; exact Bool.false_ne_true
  unfold isHeldWaitl at hfind
  simp only [waitlExpire, hfind]

/-- Replacing an entry of a list that holds it once. -/
theorem map_replace_once {α : Type} [DecidableEq α] {pre rest : List α} {w v : α} (hpre : w ∉ pre) (hrest : w ∉ rest) :
    (pre ++ w :: rest).map (fun e => if e = w then v else e) = pre ++ v :: rest := by
  have keep {l : List α} (hl : w ∉ l) : l.map (fun e => if e = w then v else e) = l :=
    (List.map_congr_left fun e he => if_neg fun (heq : e = w) => hl (heq ▸ he)).trans l.map_id
  rw [List.map_append, List.map_cons, keep hpre, keep hrest, if_pos rfl]

theorem waitlExpire_first {pre rest : List (Nat × Nat × Instr)} (hholds : (coreAt s c).holds = pre ++ (7, i, .waitl c pd sig k a) :: rest)
    (hfirst : ∀ e ∈ pre, e.1 = 7 → isWaitl e.2.2 = false) (hpre : (7, i, .waitl c pd sig k a) ∉ pre)
    (hrest : (7, i, .waitl c pd sig k a) ∉ rest) :
    waitlExpire c s = setCore c { wrReg (coreAt s c) .p0 2 pd.toNat i 1 0 with holds := pre ++ (7, i, .sNop c .p0) :: rest } s := by
  have hfind : (coreAt s c).holds.find? isHeldWaitl = some (7, i, .waitl c pd sig k a) := by
    rw [hholds, List.find?_append, List.find?_eq_none.2 fun e he => by rw [isHeldWaitl_eq_false (hfirst e he)]; exact Bool.false_ne_true]
    rfl
  unfold isHeldWaitl at hfind
  simp only [waitlExpire, hfind]
  simp only [updCore, hholds, map_replace_once hpre hrest]
  rfl

end

/-- Settles O7, from the equation of each outcome. -/
theorem signalWaitsTestsAndLimits : Obligations.SignalWaitsTestsAndLimits := by
  refine ⟨fun s c sig a pd h => ?_, fun s c i pd sig k a pre rest hr hc => ?_⟩
  · intro x i n va left pdIs held
    refine ⟨fun k => ⟨fun hk => ?_, fun hk => ?_⟩, fun hk => ?_, fun hk => ?_, fun k => ?_, ?_, fun k h0 => ⟨fun hk => ?_, fun hk hl => ?_, fun hk hl => ?_⟩⟩
    · exact scalar_gives h (.inl rfl) (waitOn_met hk)
    · exact scalar_gives h (.inl rfl) (waitOn_short hk)
    · exact scalar_gives h (.inl rfl) (waitOn_met hk)
    · exact scalar_gives h (.inl rfl) (waitOn_short hk)
    · exact scalar_gives h (.inl rfl) rfl
    · exact scalar_gives h (.inl rfl) waitlAt_zero
    · exact scalar_gives h (.inl rfl) (waitlAt_met h0 hk)
    · exact scalar_gives h (.inl rfl) (waitlAt_tested h0 hk hl)
    · exact scalar_gives h (.inl rfl) (waitlAt_held h0 hk hl)
  · exact ⟨fun hholds hfirst hpre hrest => onUnit_gives hr hc (waitlExpire_first hholds hfirst hpre hrest),
      fun hnone => onUnit_gives hr hc (waitlExpire_none hnone)⟩

end Sys2Proof.Machine

/-! The sequencer (O8; R197 to R203, R213): an equation for each outcome. -/

namespace Sys2Proof.Machine

variable {s : State} {c : Nat}

/-! ### A core stored twice -/

theorem Tab.put_put {α : Type} (t : Tab α) (k : Nat) (v w : α) : Tab.put (Tab.put t k v) k w = Tab.put t k w := by
  induction t with
  | nil => simp [Tab.put]
  | cons e t ih =>
    obtain ⟨j, u⟩ := e
    by_cases hlt : k < j
    · simp [Tab.put, hlt]
    · by_cases heq : k = j
      · simp [Tab.put, heq]
      · simp [Tab.put, hlt, heq, ih]

/-- A core that differs from the initial one is listed, so it is read back. -/
theorem coreAt_setCore {v : Core} (hv : v ≠ Core.init) : coreAt (setCore c v s) c = v := by
  simp [coreAt, setCore, Tab.store, Tab.get, hv, Tab.find_put_same]

theorem setCore_setCore {v w : Core} (hv : v ≠ Core.init) (hw : w ≠ Core.init) : setCore c w (setCore c v s) = setCore c w s := by
  simp [setCore, Tab.store, hv, hw, Tab.put_put]

/-! ### BR (R197, R199) -/

section
variable {p : BitVec 4} {neg : Bool} {target : BitVec 12} {i : Nat}

theorem atEnd_iff {x : Core} : atEnd x = true ↔ ∃ l ∈ x.loops, l.stop = x.pos := by simp [atEnd]

theorem brAt_delay (hb : (coreAt s c).branch ≠ none) : brAt c p neg target i s = coreFault c 1 s :=
  if_pos (Option.isSome_iff_ne_none.2 hb)

section
variable (hb : (coreAt s c).branch = none)
include hb

theorem brAt_taken (ht : seqCond (coreAt s c) p neg i = true) (he : atEnd (coreAt s c) = false) :
    brAt c p neg target i s = setCore c { coreAt s c with branch := some (2, target.toNat) } s := by simp [brAt, hb, ht, he]

theorem brAt_atEnd (ht : seqCond (coreAt s c) p neg i = true) (he : atEnd (coreAt s c) = true) :
    brAt c p neg target i s = coreFault c 1 s := by simp [brAt, hb, ht, he]

theorem brAt_untaken (ht : seqCond (coreAt s c) p neg i = false) : brAt c p neg target i s = s := by simp [brAt, hb, ht]

end

/-! ### GUARD (R200) -/

theorem guardAt_false {slots : BitVec 7} (ht : seqCond (coreAt s c) p neg i = false) :
    guardAt c p neg slots i s = setCore c { coreAt s c with squash := (coreAt s c).squash ||| slots } s := by simp [guardAt, ht]

theorem guardAt_true {slots : BitVec 7} (ht : seqCond (coreAt s c) p neg i = true) : guardAt c p neg slots i s = s := if_pos ht

end

/-! ### LOOPI and LOOPR (R201, R203) -/

/-- A loop of `n` rounds that ends at `stop` may begin at the core's position. -/
def LoopFits (x : Core) (stop n : Nat) : Prop :=
  x.pos < stop ∧ (∀ l ∈ x.loops.head?, stop ≤ l.stop) ∧ (n = 0 ∨ x.loops.length < 4)

/-- What R203 forbids is what does not fit. -/
theorem not_loopFits_iff {x : Core} {stop n : Nat} : ¬ LoopFits x stop n ↔
    stop ≤ x.pos ∨ x.loops.head?.any (fun l => decide (l.stop < stop)) = true ∨ (n ≠ 0 ∧ 4 ≤ x.loops.length) := by
  have hhead : x.loops.head?.any (fun l => decide (l.stop < stop)) = true ↔ ¬ ∀ l ∈ x.loops.head?, stop ≤ l.stop := by
    cases x.loops.head? <;> simp
  rw [hhead, LoopFits, not_and_or, not_and_or, not_or, Nat.not_lt, Nat.not_lt]

section
variable {stop n : Nat}

theorem loopAt_delay (hb : (coreAt s c).branch ≠ none) : loopAt c stop n s = coreFault c 1 s := if_pos (Option.isSome_iff_ne_none.2 hb)

section
variable (hb : (coreAt s c).branch = none)
include hb

theorem loopAt_forbidden (hf : ¬ LoopFits (coreAt s c) stop n) : loopAt c stop n s = coreFault c 2 s :=
  (if_neg (by simp [hb])).trans (if_pos (not_loopFits_iff.1 hf))

theorem loopAt_fits (hf : LoopFits (coreAt s c) stop n) : loopAt c stop n s =
    if n = 0 then setCore c { coreAt s c with pos := (stop + 1) % 4096 } s
    else setCore c { coreAt s c with
      loops := { start := ((coreAt s c).pos + 1) % 4096, stop := stop, count := n } :: (coreAt s c).loops, pos := ((coreAt s c).pos + 1) % 4096 } s :=
  (if_neg (by simp [hb])).trans (if_neg (mt not_loopFits_iff.2 (not_not.2 hf)))

end
end

/-! ### SOL_END (R213) -/

theorem solEndOp_ended (h : (coreAt s c).ended = true) : solEndOp c s = s := if_pos h

theorem solEndOp_delay (h : (coreAt s c).ended = false) (hb : (coreAt s c).branch ≠ none) : solEndOp c s = coreFault c 1 s := by
  have hsome : (coreAt s c).branch.isSome = true := Option.isSome_iff_ne_none.2 hb
  simp [solEndOp, solEndAt, h, hsome]

/-- SOL_END of a core whose combiners are closed marks it ended and touches nothing else. -/
theorem solEndIssue_closed (i : Nat) (hb : (coreAt s c).branch = none) (h0 : (arrAt s c false).open_ = false) (h1 : (arrAt s c true).open_ = false) :
    solEndIssue c i s = setCore c { coreAt s c with ended := true } s := by
  have hend : solEndAt c i s = setCore c { coreAt s c with ended := true } s := if_neg (by simp [hb])
  have harr (m : Bool) : arrAt (setCore c { coreAt s c with ended := true } s) c m = arrAt s c m := rfl
  simp [solEndIssue, foldS, hend, harr, h0, h1]

/-- A core whose position ends no loop goes on to the next syllable. -/
theorem advance_onward {x : Core} (hb : x.branch = none) (h : ∀ l ∈ x.loops, l.stop ≠ x.pos) :
    advance none false x = { x with pos := (x.pos + 1) % 4096 } := by
  have hloop : loopEnd x.pos x.loops = (x.loops, none) := by
    cases hl : x.loops with
    | nil => rfl
    | cons l t => exact if_neg (h l (hl ▸ List.mem_cons_self))
  simp [advance, hb, afterPlain, hloop]

theorem solEndOp_ends (h : (coreAt s c).ended = false) (hb : (coreAt s c).branch = none) (hl : ∀ l ∈ (coreAt s c).loops, l.stop ≠ (coreAt s c).pos)
    (h0 : (arrAt s c false).open_ = false) (h1 : (arrAt s c true).open_ = false) :
    solEndOp c s = setCore c { coreAt s c with ended := true, pos := ((coreAt s c).pos + 1) % 4096 } s := by
  have listed {x : Core} (hx : x.ended = true) : x ≠ Core.init := fun he => absurd (he ▸ hx) (by decide)
  have hop : solEndOp c s = updCore c (advance none false) (solEndIssue c (coreAt s c).steps s) := by simp [solEndOp, h, hb]
  have hnext := advance_onward (x := { coreAt s c with ended := true }) hb hl
  rw [hop, solEndIssue_closed _ hb h0 h1, updCore, coreAt_setCore (listed rfl), hnext, setCore_setCore (listed rfl) (listed rfl)]

/-- Settles O8, from the equation of each outcome. That the position after SOL_END is that of the syllable behind it is the model's deduction (log entry
50, DEDUCED). -/
theorem sequencerOperations : Obligations.SequencerOperations := by
  intro s c p neg target stop k a slots hr hc x taken na opens skips fits
  have gives {f : State → State} {t} (h : f s = t) : onUnit c nSites f s = .next t := onUnit_gives hr hc h
  refine ⟨fun ht => gives (guardAt_false ht), fun ht => gives (guardAt_true ht), fun hb => ⟨?_, ?_, ?_, ?_, ?_, ?_, ?_, ?_, ?_, ?_⟩, ?_, ?_, ?_⟩
  · exact fun ht he => gives (brAt_taken hb ht (Bool.eq_false_iff.2 fun h => by
      obtain ⟨l, hl, hstop⟩ := atEnd_iff.1 h
      exact he l hl hstop))
  · exact fun ht he => gives (brAt_atEnd hb ht (atEnd_iff.2 he))
  · exact fun ht => gives (brAt_untaken hb ht)
  · exact fun hf hk => gives ((loopAt_fits hb hf).trans (if_neg fun h => hk (BitVec.eq_of_toNat_eq h)))
  · exact fun hf => gives ((loopAt_fits hb hf).trans (if_pos rfl))
  · exact fun hf => gives (loopAt_forbidden hb hf)
  · exact fun hf hn => gives ((loopAt_fits hb hf).trans (if_neg hn))
  · exact fun hf hn => gives ((loopAt_fits hb hf).trans (if_pos hn))
  · exact fun hf => gives (loopAt_forbidden hb hf)
  · exact fun h hl h0 h1 => gives (solEndOp_ends h hb hl h0 h1)
  · exact fun h => gives (solEndOp_ended h)
  · exact fun hb h => gives (solEndOp_delay h hb)
  · exact fun hb => ⟨gives (brAt_delay hb), gives (loopAt_delay hb), gives (loopAt_delay hb)⟩

end Sys2Proof.Machine

/-! Stepped cycles and freeze (O11; R213 to R220). -/

namespace Sys2Proof.Machine

variable {F : Fuses} {s : State} {p c : Nat}

/-! ### SYLLABLE_ISSUE (R215, R217, R218) -/

section
variable {bad : List Nat} (hph : (ptnAt s p).phase = .sol) (hpll : s.pwr.pllsOff = false)
  (hany : (ptnAt s p).domain.any (fun k => !(coreAt s k).parked) = true)
include hph hpll hany

theorem issueOp_unfrozen (hskid : (ptnAt s p).skid = none) : issueOp p bad s = foldS (issueCore bad) (ptnAt s p).domain s := by
  simp [issueOp, hph, hpll, hany, hskid]

/-- The first two cycles after a raise still issue, and are counted. -/
theorem issueOp_skid {k : Nat} (hk : k ≠ 2) (hskid : (ptnAt s p).skid = some k) : issueOp p bad s =
    updPtn p (fun z => { z with skid := z.skid.map (fun _ => k + 1) }) (foldS (issueCore bad) (ptnAt s p).domain s) := by
  simp [issueOp, hph, hpll, hany, hskid, hk]

end

theorem issueOp_stopped {bad : List Nat} (hskid : (ptnAt s p).skid = some 2) : issueOp p bad s = s :=
  if_neg fun h => h.2.2.1 hskid

theorem issueOp_noSol {bad : List Nat} (hph : (ptnAt s p).phase ≠ .sol) : issueOp p bad s = s := if_neg fun h => hph h.1

theorem issueCore_parked {bad : List Nat} (h : (coreAt s c).parked = true) : issueCore bad c s = s := if_pos h

theorem issueCore_ended {bad : List Nat} (hp : (coreAt s c).parked = false) (he : (coreAt s c).ended = true) :
    issueCore bad c s = stepCore c s := (if_neg (Bool.eq_false_iff.1 hp)).trans (if_pos he)

/-! ### Cores of a sound state -/

theorem Sound.cores_sorted (h : Sound F s) : Tab.sortedFrom 0 s.cores = true := by
  obtain ⟨-, -, -, hc, -⟩ := sound_iff.1 h
  exact (Bool.and_eq_true_iff.1 hc.1).1

theorem Sound.coreAt_updCore_same (h : Sound F s) (f : Core → Core) : Machine.coreAt (updCore c f s) c = f (Machine.coreAt s c) :=
  Tab.get_store_same _ _ _ _ h.cores_sorted

theorem coreAt_updCore_ne {k : Nat} (f : Core → Core) (hne : k ≠ c) : coreAt (updCore c f s) k = coreAt s k :=
  Tab.get_store_ne _ _ _ hne

/-- What no step of a fold changes, the fold does not change. -/
theorem foldS_keeps {α β : Type} {f : α → State → State} (g : State → β) (hf : ∀ a s, g (f a s) = g s) (l : List α) (s : State) :
    g (foldS f l s) = g s := by
  induction l generalizing s with
  | nil => rfl
  | cons a l ih => rw [foldS, ih, hf]

/-- The denied accesses of the cores of a list forgotten (R218). -/
def undenied (l : List Nat) (s : State) : State := foldS (fun k => updCore k (fun x => { x with denied := 0 })) l s

theorem ptnAt_undenied (l : List Nat) : ptnAt (undenied l s) p = ptnAt s p := 
  foldS_keeps (f := fun k => updCore k (fun x => { x with denied := 0 })) (fun s => ptnAt s p) (fun _ _ => rfl) l s

/-- Forgetting denied accesses leaves what the units hold. -/
theorem Sound.holds_undenied (h : Sound F s) (l : List Nat) (k : Nat) : (Machine.coreAt (undenied l s) k).holds = (Machine.coreAt s k).holds := by
  induction l generalizing s with
  | nil => rfl
  | cons j l ih =>
    refine (ih h.updCore).trans ?_
    by_cases hk : k = j
    · rw [hk, h.coreAt_updCore_same]
    · rw [coreAt_updCore_ne _ hk]

/-! ### FREEZE_LOWER (R218, R219) -/

/-- A unit that holds nothing keeps no freeze. -/
theorem Sound.unitCan_idle (h : Sound F s) (hh : (Machine.coreAt s c).holds = []) (u : Nat) : unitCan s c u = true := by
  have hidle : (Machine.coreAt (updCore c (fun x => { x with holds := [] }) s) c).holds = [] := by rw [h.coreAt_updCore_same]
  simp [unitCan, hh, foldS, unitHolds, hidle]

/-- Nothing held, nothing performed. -/
theorem heldPass_idle (inOrder : Bool) (hh : ∀ k ∈ (ptnAt s p).domain, (coreAt s k).holds = []) : heldPass inOrder p s = s := by
  have hheld : ((ptnAt s p).domain.map (fun c => (c, (coreAt s c).holds))).filter (fun e => !e.2.isEmpty) = [] := by
    simpa [List.filter_eq_nil_iff] using hh
  unfold heldPass
  rw [hheld]
  rfl

theorem lowerOp_noSol (h : (ptnAt s p).phase ≠ .sol) : lowerOp p s = s := if_neg fun hgo => h hgo.1

theorem lowerOp_noFreeze (h : (ptnAt s p).skid = none) : lowerOp p s = s := if_neg fun hgo => by simp [h] at hgo

theorem lowerOp_kept {k u : Nat} (hk : k ∈ (ptnAt s p).domain) (hu : u ∈ [7, 4, 2, 1, 0]) (h : unitCan s k u = false) : lowerOp p s = s := by
  refine if_neg fun hgo => ?_
  obtain ⟨-, -, hall⟩ := hgo
  have hcan := List.all_eq_true.1 (List.all_eq_true.1 hall k hk) u hu
  exact absurd (h.symm.trans hcan) (by decide)

theorem Sound.lowerOp_idle (h : Sound F s) (hph : (Machine.ptnAt s p).phase = .sol) (hskid : (Machine.ptnAt s p).skid ≠ none)
    (hh : ∀ k ∈ (Machine.ptnAt s p).domain, (Machine.coreAt s k).holds = []) :
    lowerOp p s = trace 1 Pg.nets (foldS settleCore (Machine.ptnAt s p).domain (unfreeze p (undenied (Machine.ptnAt s p).domain s))) := by
  have hcan : (Machine.ptnAt s p).domain.all (fun c => [7, 4, 2, 1, 0].all (unitCan s c)) = true :=
    List.all_eq_true.2 fun k hk => List.all_eq_true.2 fun u _ => h.unitCan_idle (hh k hk) u
  have hheld : ∀ k ∈ (Machine.ptnAt s p).domain, (Machine.coreAt (undenied (Machine.ptnAt s p).domain s) k).holds = [] := fun k hk =>
    (h.holds_undenied _ k).trans (hh k hk)
  have hpass : heldPass true p (undenied (Machine.ptnAt s p).domain s) = undenied (Machine.ptnAt s p).domain s :=
    heldPass_idle true (by rwa [ptnAt_undenied])
  have hempty : (Machine.ptnAt s p).domain.all (fun k => (Machine.coreAt (undenied (Machine.ptnAt s p).domain s) k).holds.isEmpty) = true :=
    List.all_eq_true.2 fun k hk => by rw [hheld k hk]; rfl
  refine (if_pos ⟨hph, Option.isSome_iff_ne_none.2 hskid, hcan⟩).trans ?_
  rw [← undenied, hpass]
  exact if_pos hempty

/-! ### SOL_END_COMPLETE (R213, R214) -/

theorem parkOp_parks (he : (coreAt s c).ended = true) (hp : (coreAt s c).parked = false) (hh : (coreAt s c).holds = []) :
    parkOp c s = drainCore c (setCore c { coreAt s c with parked := true } s) := if_pos ⟨he, by rw [hp]; rfl, hh⟩

/-- Settles O11, from the outcomes of the commands. That an ended core's stepped cycles go on, and that parking ends what its units still have under
way, are the model's deductions (log entry 50, DEDUCED). -/
theorem syllableIssueAndFreeze : Obligations.SyllableIssueAndFreeze := by
  intro F s p c bad hs hr dom
  have issue (hp : p < nPtns) {t} (h : issueOp p bad s = t) : Gives (.syllableIssue ⟨p, bad⟩) s t := onUnit_gives hr hp h
  have lower (hp : p < nPtns) {t} (h : lowerOp p s = t) : Gives (.freezeLower p) s t := onUnit_gives hr hp h
  refine ⟨fun hp hph hpll => ⟨fun hany => ⟨fun hskid => ?_, fun k hk hskid => ?_⟩, fun hskid => ?_, fun hskid hh => ?_⟩, fun hp hph => ⟨?_, ?_⟩,
    fun hp hskid => ?_, ?_, issueCore_parked, issueCore_ended, fun hc he hp hh => ?_⟩
  · exact issue hp (issueOp_unfrozen hph hpll hany hskid)
  · exact issue hp (issueOp_skid hph hpll hany hk hskid)
  · exact issue hp (issueOp_stopped hskid)
  · exact lower hp (hs.lowerOp_idle hph hskid hh)
  · exact issue hp (issueOp_noSol hph)
  · exact lower hp (lowerOp_noSol hph)
  · exact lower hp (lowerOp_noFreeze hskid)
  · rintro hp ⟨k, hk, u, hu, hcan⟩
    exact lower hp (lowerOp_kept hk hu hcan)
  · exact onUnit_gives hr hc (parkOp_parks he hp hh)

end Sys2Proof.Machine

/-! The C slot (O12; R470, R477, R494 to R498). -/

namespace Sys2Proof.Machine

variable {s : State} {c p n : Nat}

/-! ### A barrier operation and its barrier (R467) -/

section
variable {b : Nat} (hp : ptnOfSite s c = some p) (hn : logicalAt s c = some n)
include hp hn

theorem barOp_named (hb : barNamed s p b = true) (f : Nat → Nat → State → State) : barOp c b f s = f p n s := by simp [barOp, hp, hn, hb]

theorem barOp_unnamed (hb : barNamed s p b = false) (f : Nat → Nat → State → State) : barOp c b f s = ptnFault p PC.barrier s := by
  simp [barOp, hp, hn, hb]

end

/-! ### Reaching Calends (R200, R217, R477) -/

section
variable (hq : squashed (coreAt s c) 0 = false)
include hq

theorem cOp_free (hh : unitHolds (coreAt s c) 0 = false) (op : Instr) (f : Nat → State → State) : cOp c op f s = f (coreAt s c).steps s := by
  simp [cOp, hq, hh]

/-- An arrival is made at issue, whatever the slot holds (R477). -/
theorem cOp_arr (bar : BitVec 8) (bad : Bool) :
    cOp c (.arr c ⟨bar, bad⟩) (arrOpAt c bar bad) s = barOp c bar.toNat (fun p n => coreArrive p n bar.toNat bad) s := by
  cases hh : unitHolds (coreAt s c) 0 with
  | false => exact cOp_free hq hh _ _
  | true => simp [cOp, hq, hh, arrOpAt]

section
variable (hh : unitHolds (coreAt s c) 0 = true)
include hh

theorem cOp_arwt_held (bar : BitVec 8) (bad : Bool) (f : Nat → State → State) : cOp c (.arwt c ⟨bar, bad⟩) f s =
    barOp c bar.toNat (fun p n s' => holdOp c 0 (coreAt s c).steps (.waitb c bar) (coreArrive p n bar.toNat bad s')) s := by
  simp [cOp, hq, hh]

theorem cOp_raise_held (sig : BitVec 5) (f : Nat → State → State) :
    cOp c (.raise c sig) f s = holdOp c 0 (coreAt s c).steps (.raise c sig) s := by simp [cOp, hq, hh]

theorem cOp_waitb_held (bar : BitVec 8) (f : Nat → State → State) :
    cOp c (.waitb c bar) f s = holdOp c 0 (coreAt s c).steps (.waitb c bar) s := by simp [cOp, hq, hh]

theorem cOp_testb_held (pd : BitVec 4) (bar : BitVec 8) (f : Nat → State → State) :
    cOp c (.testb c pd bar) f s = holdOp c 0 (coreAt s c).steps (.testb c pd bar) s := by simp [cOp, hq, hh]

end
end

/-- Settles O12: each operation is held or reaches its barrier, which is one of the core's partition or not. -/
theorem controlSlotOperations : Obligations.ControlSlotOperations := by
  intro s c p n bar bad pd sig hr hc hq x b hold
  have gives {f : State → State} {t} (h : f s = t) : onUnit c nSites f s = .next t := onUnit_gives hr hc h
  refine ⟨gives (f := fun s => s) rfl, fun hh => gives (cOp_free hq hh _ _), fun hh => ⟨gives (cOp_raise_held hq hh _ _), gives (cOp_waitb_held hq hh _ _),
    gives (cOp_testb_held hq hh _ _ _)⟩, fun hp hn => ⟨fun hb => ⟨?_, fun hh => ?_, fun hh => ⟨fun hpass => ?_, fun hpass => ?_, ?_, ?_⟩⟩,
    fun hb => ⟨?_, ?_, fun hh => ⟨?_, ?_⟩⟩⟩⟩
  · exact gives ((cOp_arr hq bar bad).trans (barOp_named hp hn hb _))
  · exact gives ((cOp_arwt_held hq hh bar bad _).trans (barOp_named hp hn hb _))
  · exact gives ((cOp_free hq hh _ _).trans ((barOp_named hp hn hb _).trans (if_pos hpass)))
  · exact gives ((cOp_free hq hh _ _).trans ((barOp_named hp hn hb _).trans (if_neg (Bool.eq_false_iff.1 hpass))))
  · exact gives ((cOp_free hq hh _ _).trans (barOp_named hp hn hb _))
  · exact gives ((cOp_free hq hh _ _).trans (barOp_named hp hn hb _))
  · exact gives ((cOp_arr hq bar bad).trans (barOp_unnamed hp hn hb _))
  · cases hh : unitHolds (coreAt s c) 0 with
    | false => exact gives ((cOp_free hq hh _ _).trans (barOp_unnamed hp hn hb _))
    | true => exact gives ((cOp_arwt_held hq hh bar bad _).trans (barOp_unnamed hp hn hb _))
  · exact gives ((cOp_free hq hh _ _).trans (barOp_unnamed hp hn hb _))
  · exact gives ((cOp_free hq hh _ _).trans (barOp_unnamed hp hn hb _))

end Sys2Proof.Machine

/-! The M slots and the array self-test (O16; R240 to R245, R272, R277), and the V slot's arithmetic (O19; R328, R343 to R350). -/

namespace Sys2Proof.Machine

variable {s : State} {c : Nat} {m : Bool}

/-! ### Reaching an array (R200, R245) -/

theorem mOp_squashed (hq : squashed (coreAt s c) (mUnit m) = true) (f : Nat → State → State) : mOp c m f s = s := if_pos hq

section
variable (hq : squashed (coreAt s c) (mUnit m) = false)
include hq

theorem mOp_running (hrun : runs s (mPg c m) = true) (f : Nat → State → State) : mOp c m f s = f (coreAt s c).steps s := by
  simp [mOp, hq, hrun]

theorem mOp_lost (hrun : runs s (mPg c m) = false) (f : Nat → State → State) : mOp c m f s = ptnFaultOf (ptnOfSite s c) PC.core s := by
  simp [mOp, hq, hrun]

end

/-! ### The array registers (R240, R243) -/

theorem modeAt_valid {v : Word} (h : modeOk v = true) : modeAt c m v s = updArr c m (fun x => { x with mode := v }) s := if_pos h

theorem modeAt_invalid {v : Word} (h : modeOk v = false) : modeAt c m v s = mCause c m (2 ^ 12) s := if_neg (Bool.eq_false_iff.1 h)

section
variable {ar : BitVec 3} {sreg : BitVec 8} {i : Nat}

theorem setaAt_inRange (h : (rdReg (coreAt s c) .other 0 sreg.toNat i).toNat < 2 ^ 22) : setaAt c m ar sreg i s =
    updArr c m (fun x => { x with a := Tab.store 0 x.a ar.toNat (BitVec.ofNat 22 (rdReg (coreAt s c) .other 0 sreg.toNat i).toNat) }) s :=
  if_pos h

theorem setaAt_beyond (h : 2 ^ 22 ≤ (rdReg (coreAt s c) .other 0 sreg.toNat i).toNat) : setaAt c m ar sreg i s = mCause c m (2 ^ 9) s :=
  if_neg (Nat.not_lt.2 h)

end

section
variable {sreg : BitVec 8} {i : Nat}

theorem setcntAt_inRange (h1 : 1 ≤ (rdReg (coreAt s c) .other 0 sreg.toNat i).toNat)
    (h2 : (rdReg (coreAt s c) .other 0 sreg.toNat i).toNat ≤ 16777216) :
    setcntAt c m sreg i s = updArr c m (fun x => { x with cnt := (rdReg (coreAt s c) .other 0 sreg.toNat i).toNat }) s := if_pos ⟨h1, h2⟩

theorem setcntAt_beyond (h : (rdReg (coreAt s c) .other 0 sreg.toNat i).toNat = 0 ∨ 16777216 < (rdReg (coreAt s c) .other 0 sreg.toNat i).toNat) :
    setcntAt c m sreg i s = mCause c m (2 ^ 11) s := if_neg (by omega)

end

/-! ### The array self-test (R272, R277) -/

section
variable {pg : Nat} {rows : Word} {cols : BitVec 36}

theorem bistStart_begins (hst : bstate s pg = B.stopped) (hnew : pg ∉ s.bist) :
    bistStart pg s = { setF pg R.MXA_BIST_MISC 31 1 0 s with bist := s.bist ++ [pg] } := by simp [bistStart, hst, hnew]

theorem bistStart_ignored (hst : bstate s pg ≠ B.stopped) : bistStart pg s = ignoredRws pg R.MXA_ACTION s := if_neg hst

theorem bistFinish_none (h : pg ∉ s.bist) : bistFinish pg rows cols s = s := by simp [bistFinish, h]

theorem bistFinish_runs (h : pg ∈ s.bist) : bistFinish pg rows cols s =
    if bistPass s pg rows cols then bistRecord pg rows cols { s with bist := s.bist.filter (· ≠ pg) }
    else fault pg 0 (bistRecord pg rows cols { s with bist := s.bist.filter (· ≠ pg) }) := by simp [bistFinish, h]

/-- A command of an MXA page that the chiplet has. -/
theorem mxa_gives (hr : s.inReset = false) (hpg : isMxaPage pg = true) {u t : State} (h : u = t) :
    (if isMxaPage pg = true then act s u else .fault .noSuchUnit : Host.Outcome State Fault Refusal) = .next t :=
  (if_pos hpg).trans (h ▸ act_next hr u)

end

/-- Settles O16: an M slot reaches its array or does not; the self-test, from the equation of each outcome. -/
theorem matrixSlotOperationsAndSelfTest : Obligations.MatrixSlotOperationsAndSelfTest := by
  refine ⟨fun s c m ifmt wfmt ofmt rnd split drain mfsh mfop ar sreg off hr hc => ?_, fun s pg rows cols hr hpg => ?_⟩
  · intro k x v md mode
    have gives {f : State → State} {t} (h : f s = t) : onUnit c nSites f s = .next t := onUnit_gives hr hc h
    refine ⟨gives (f := fun s => s) rfl, fun hq hrun => ⟨fun h => ?_, fun h => ?_, fun h => ?_, fun h => ?_, ?_, fun h1 h2 => ?_, fun h => ?_⟩,
      fun hq hrun => ?_, fun hq => ?_⟩
    · exact gives ((mOp_running hq hrun _).trans (modeAt_valid h))
    · exact gives ((mOp_running hq hrun _).trans (modeAt_invalid h))
    · exact gives ((mOp_running hq hrun _).trans (setaAt_inRange h))
    · exact gives ((mOp_running hq hrun _).trans (setaAt_beyond h))
    · exact gives (mOp_running hq hrun _)
    · exact gives ((mOp_running hq hrun _).trans (setcntAt_inRange h1 h2))
    · exact gives ((mOp_running hq hrun _).trans (setcntAt_beyond h))
    · exact ⟨gives (mOp_lost hq hrun _), gives (mOp_lost hq hrun _), gives (mOp_lost hq hrun _), gives (mOp_lost hq hrun _)⟩
    · exact ⟨gives (mOp_squashed hq _), gives (mOp_squashed hq _), gives (mOp_squashed hq _), gives (mOp_squashed hq _)⟩
  · have start (ha : bstate s pg ≠ B.absent) {t} (h : bistStart pg s = t) : Gives (.bist pg) s t := mxa_gives hr hpg ((if_neg ha).trans h)
    have finish {t} (h : bistFinish pg rows cols s = t) : Gives (.bistDone pg rows cols) s t := mxa_gives hr hpg h
    refine ⟨fun hst hnew => ?_, fun hst ha => ?_, fun ha => ?_, fun h => ?_, fun h => ⟨fun hpass => ?_, fun hpass => ?_⟩⟩
    · exact start (hst ▸ by decide) (bistStart_begins hst hnew)
    · exact start ha (bistStart_ignored hst)
    · exact mxa_gives hr hpg (if_pos ha)
    · exact finish (bistFinish_none h)
    · exact finish ((bistFinish_runs h).trans (if_pos hpass))
    · exact finish ((bistFinish_runs h).trans (if_neg (Bool.eq_false_iff.1 hpass)))

/-! ### Reaching a vector engine (R326, R332) -/

/-- An operation that breaks no rule is performed at the core's stepped index. -/
theorem vOp_performs {slot : Bool} (h : VIssues s c slot) {op : Nat} {causes : State → Nat} (hcauses : causes s = 0) (f : Nat → State → State) :
    vOp c slot op causes f s = f (coreAt s c).steps s := by
  obtain ⟨-, -, hq, hrun⟩ := h
  simp [vOp, hq, hrun, hcauses]

theorem vector_gives {slot : Bool} (h : VIssues s c slot) {op : Nat} {causes : State → Nat} {f : Nat → State → State} {t : State}
    (hcauses : causes s = 0) (ht : f (coreAt s c).steps s = t) : onUnit c nSites (vOp c slot op causes f) s = .next t :=
  have ⟨hr, hc, _⟩ := h
  onUnit_gives hr hc ((vOp_performs h hcauses f).trans ht)

/-- Settles O19: each operation is `vrBody` of its function of the elements. -/
theorem vectorArithmeticByElement : Obligations.VectorArithmeticByElement := by
  intro s c f h i t w sr plain fused num
  have ⟨hr, hc, _⟩ := h
  have nop (slot : Bool) : Gives (.vNop c slot) s s := onUnit_gives (f := fun s => s) hr hc rfl
  refine ⟨nop false, nop true, fun hp => ?_, fun hp => ?_, fun hp => ?_, fun hf => ?_, fun hf => ?_, fun hf => ?_, fun hm => ?_, fun hn => ?_, fun hi => ?_⟩
  · exact vector_gives h hp rfl
  · exact vector_gives h hp rfl
  · exact vector_gives h hp rfl
  · exact vector_gives h hf rfl
  · exact vector_gives h hf rfl
  · exact vector_gives h hf rfl
  · exact ⟨vector_gives h hm rfl, vector_gives h hm rfl⟩
  · exact ⟨vector_gives h hn rfl, vector_gives h hn rfl⟩
  · exact vector_gives h hi rfl

end Sys2Proof.Machine

/-! The X slots and the move engines (O23; R382 to R387, R390, R394 to R396, R399). -/

namespace Sys2Proof.Machine

variable {s : State} {c : Nat} {x : Bool}

/-! ### Reaching a slot and its page (R200, R217, R386, R408) -/

/-- A GQ of X1 must not go before one that X0 holds (R386). -/
def GqTurn (k : Core) (x : Bool) (op : Instr) : Prop := isGq op = true → x = true → ∀ h ∈ k.holds, h.1 = 2 → isGq h.2.2 = false

theorem xOp_performs (hq : squashed (coreAt s c) (xUnit x) = false) (hh : unitHolds (coreAt s c) (xUnit x) = false) {op : Instr}
    (hturn : GqTurn (coreAt s c) x op) (f : Nat → State → State) : xOp c x op f s = f (coreAt s c).steps s := by
  have hfree : ¬ (unitHolds (coreAt s c) (xUnit x) ||
      (x && isGq op && (coreAt s c).holds.any (fun h => decide (h.1 = 2) && isGq h.2.2))) = true := by
    simp only [hh, Bool.false_or, Bool.and_eq_true, List.any_eq_true, decide_eq_true_eq]
    rintro ⟨⟨hx, hop⟩, h, hmem, h2, hgq⟩
    exact absurd (hgq.symm.trans (hturn hop hx h hmem h2)) (by decide)
  exact (if_neg (Bool.eq_false_iff.1 hq)).trans (if_neg hfree)

/-- A GQ of X1 waits behind one that X0 holds (R386). -/
theorem xOp_gqWaits (hq : squashed (coreAt s c) (xUnit x) = false) {op : Instr} (hx : x = true) (hop : isGq op = true)
    (hw : ∃ h ∈ (coreAt s c).holds, h.1 = 2 ∧ isGq h.2.2 = true) (f : Nat → State → State) :
    xOp c x op f s = holdOp c (xUnit x) (coreAt s c).steps op s := by
  have hany : (coreAt s c).holds.any (fun h => decide (h.1 = 2) && isGq h.2.2) = true := by simpa using hw
  have hwait : (unitHolds (coreAt s c) (xUnit x) ||
      (x && isGq op && (coreAt s c).holds.any (fun h => decide (h.1 = 2) && isGq h.2.2))) = true := by rw [hx, hop, hany]; simp
  exact (if_neg (Bool.eq_false_iff.1 hq)).trans (if_pos hwait)

theorem xOn_running {pg : Nat} (h : runs s pg = true) (f : State → State) : xOn c pg f s = f s := if_pos h

theorem xOn_lost {pg : Nat} (h : runs s pg = false) (f : State → State) : xOn c pg f s = ptnFaultOf (ptnOfSite s c) PC.core s :=
  if_neg (Bool.eq_false_iff.1 h)

/-! ### XSETA, XQ, XQN and GQ (R382 to R387) -/

section
variable {ar : BitVec 2} {post : Bool} {i n : Nat}

section
variable {sreg : BitVec 8} (hrun : runs s (Pg.mov c) = true)
include hrun

theorem xsetaAt_inRange (h : (rdReg (coreAt s c) .other 0 sreg.toNat i).toNat < 2 ^ 22) :
    xsetaAt c x ar sreg i s = updCore c (xaSet x ar (rdReg (coreAt s c) .other 0 sreg.toNat i).toNat) s :=
  (xOn_running hrun _).trans (if_pos h)

theorem xsetaAt_beyond (h : 2 ^ 22 ≤ (rdReg (coreAt s c) .other 0 sreg.toNat i).toNat) : xsetaAt c x ar sreg i s = movCause c 9 s :=
  (xOn_running hrun _).trans (if_neg (Nat.not_lt.2 h))

end

/-- `n` descriptors of 32 bytes lie at `a` in the scratchpad (R382, R383). -/
def DescLies (s : State) (c a n : Nat) : Prop := a % 32 = 0 ∧ a + 32 * n ≤ sizeOfSite s c

/-- There is room for `n` more descriptors, those still being read counted (R387). -/
def DescRoom (s : State) (c : Nat) (x : Bool) (n : Nat) : Prop :=
  (moverAt s c x).queue.length + xrdCount (coreAt s c) false x 32 + n ≤ 16 ∧ opsFull s c = false

section
variable {op : Instr} (hrun : runs s (Pg.mov c) = true)
include hrun

theorem xqAt_address (h : ¬ DescLies s c (xaGet (coreAt s c) x ar) n) : xqAt c x ar post n op i s = movCause c 9 s :=
  (xOn_running hrun _).trans (if_pos (by unfold DescLies at h; omega))

theorem xqAt_reads (hl : DescLies s c (xaGet (coreAt s c) x ar) n) (hroom : DescRoom s c x n) :
    xqAt c x ar post n op i s = xBegin c x false ar post (xaGet (coreAt s c) x ar) (32 * n) i s := by
  obtain ⟨hal, hin⟩ := hl
  obtain ⟨hlen, hops⟩ := hroom
  exact (xOn_running hrun _).trans ((if_neg (by omega)).trans (if_neg (not_or.2 ⟨by omega, Bool.eq_false_iff.1 hops⟩)))

theorem xqAt_full (hl : DescLies s c (xaGet (coreAt s c) x ar) n) (hroom : ¬ DescRoom s c x n) :
    xqAt c x ar post n op i s = holdOp c (xUnit x) i op s := by
  obtain ⟨hal, hin⟩ := hl
  refine (xOn_running hrun _).trans ((if_neg (by omega)).trans (if_pos ?_))
  rwa [DescRoom, not_and_or, Nat.not_le, Bool.not_eq_false] at hroom

end

theorem gqAt_reads (hkind : runsAs s c = some 2) (hmov : runs s (Pg.mov c) = true) (hgth : runs s (Pg.gth c) = true)
    (hal : xaGet (coreAt s c) x ar % 64 = 0) (hin : xaGet (coreAt s c) x ar + 64 ≤ sizeOfSite s c)
    (hlen : (gthAt s c).queue.length + xrdCount (coreAt s c) true x 64 + 1 ≤ 8) (hops : opsFull s c = false) :
    gqAt c x ar post i s = xBegin c x true ar post (xaGet (coreAt s c) x ar) 64 i s := by
  have hfree := not_or.2 ⟨(by omega : ¬ 8 < (gthAt s c).queue.length + xrdCount (coreAt s c) true x 64 + 1), Bool.eq_false_iff.1 hops⟩
  exact (xOn_running hmov _).trans ((if_neg (not_not.2 hkind)).trans ((xOn_running hgth _).trans ((if_neg (by omega)).trans (if_neg hfree))))

end

/-! ### A read of descriptors (R385, R386) -/

theorem claims_claim_ne_nil (rank unit t a : Nat) {len : Nat} (k : Core) (hlen : 0 < len) : (claim rank unit t a len k).claims ≠ [] := by
  have hblocks : (a + len + 127) / 128 - a / 128 ≠ 0 := by omega
  simp [claim, hblocks]

theorem ne_init_of_claims {k : Core} (h : k.claims ≠ []) : k ≠ Core.init := fun he => h (he ▸ rfl)

theorem spadBytes_claim (rank unit t b len : Nat) (k : Core) (r i a n : Nat) :
    spadBytes (claim rank unit t b len k) r i a n = spadBytes k r i a n := by
  induction n generalizing a with
  | zero => rfl
  | succ n ih => exact congrArg (spadByte k r i a :: ·) (ih (a + 1))

theorem verifySpad_good {r i a len : Nat} (h : (coreAt s c).badGlz = []) : verifySpad c r i a len s = s := by
  simp [verifySpad, rangeBadAt, h]

/-- A read that lies in one block takes all of it in the cycle after issue. -/
theorem xPiece_whole {r : XRead} {t : Nat} (hat : r.at_ + 1 = t) (hgot : r.got = []) (hblock : r.addr % 128 + r.len ≤ 128) :
    xPiece r t = some (r.addr, r.len) := by
  have hlen : r.len ≤ 128 - r.addr % 128 := by omega
  simp [xPiece, hgot, hat, hlen]

theorem xStep_block {t : Nat} {r : XRead} (hx : (coreAt s c).xrd = [r]) (hat : r.at_ + 1 = t) (hgot : r.got = []) (hlen : 0 < r.len)
    (hblock : r.addr % 128 + r.len ≤ 128) (hglz : (coreAt s c).badGlz = []) :
    xStep c t s =
      (let full : XRead := { r with got := spadBytes (coreAt s c) 2 t r.addr r.len }
       let read := setCore c { claim (80 + b2n r.x) (xUnit r.x) t r.addr r.len (coreAt s c) with xrd := [] } s
       if r.gq then gqDone c full read else xqDone c full read) := by
  have hpiece := xPiece_whole hat hgot hblock
  have hclaims := claims_claim_ne_nil (80 + b2n r.x) (xUnit r.x) t r.addr (coreAt s c) hlen
  have hread : coreAt (updCore c (claim (80 + b2n r.x) (xUnit r.x) t r.addr r.len) s) c = claim (80 + b2n r.x) (xUnit r.x) t r.addr r.len (coreAt s c) :=
    coreAt_setCore (ne_init_of_claims hclaims)
  have hxrd : (claim (80 + b2n r.x) (xUnit r.x) t r.addr r.len (coreAt s c)).xrd = [r] := hx
  have hgood := verifySpad_good (r := 2) (i := t) (a := r.addr) (len := r.len) ((congrArg Core.badGlz hread).trans hglz)
  have hstored := setCore_setCore (s := s) (c := c) (w := { claim (80 + b2n r.x) (xUnit r.x) t r.addr r.len (coreAt s c) with xrd := [] })
    (ne_init_of_claims hclaims) (ne_init_of_claims hclaims)
  simp only [xStep, hx, foldS, hpiece, hgood, hread, hxrd]
  simp [hpiece, hgot, spadBytes_claim, foldS, updCore, hstored]

/-! ### Descriptors that have been read (R383, R385) -/

/-- The descriptors of a read with their addresses. -/
def descsOf (r : XRead) : List (Nat × BitVec 256) :=
  (List.range (r.len / 32)).map (fun q => (r.addr + 32 * q, BitVec.ofNat 256 (numOf ((r.got.drop (32 * q)).take 32))))

/-- They join the engine's queue, numbered on. -/
def descsQueued (m : Mover) (r : XRead) : Mover :=
  { m with
    queue := m.queue ++ ((descsOf r).zip (List.range (r.len / 32))).map (fun e =>
      ({ serial := m.serial + e.2, at_ := e.1.1, bits := e.1.2, left := 0, bad := false, rows := [] } : MoveDesc)),
    serial := m.serial + r.len / 32 }

theorem xqDone_good {r : XRead} (h : (descsOf r).all (fun d => moveDescOk s c d.2) = true) :
    xqDone c r s = setMover c r.x (descsQueued (moverAt s c r.x) r) s := by
  have hfind : (descsOf r).find? (fun d => !moveDescOk s c d.2) = none :=
    List.find?_eq_none.2 fun d hd => by simp [List.all_eq_true.1 h d hd]
  unfold descsOf at hfind
  simp only [xqDone, hfind]
  rfl

theorem xqDone_bad {r : XRead} {d : Nat × BitVec 256} (h : (descsOf r).find? (fun e => !moveDescOk s c e.2) = some d) :
    xqDone c r s = xUndo c r (descErr c r.x d.1 s) := by
  unfold descsOf at h
  simp only [xqDone, h]

theorem gqDone_good {r : XRead} (h : gatherDescOk s c (BitVec.ofNat 512 (numOf r.got)) = true) :
    gqDone c r s = setGth c { gthAt s c with queue := (gthAt s c).queue ++ [BitVec.ofNat 512 (numOf r.got)] } s := if_pos h

/-! ### Move engines (R390, R395) -/

theorem takeDesc_performs {k : Nat} {e : Bool} {j : MoveDesc} {rest : List MoveDesc} (hqueue : (moverAt s c e).queue = j :: rest)
    (hrun : runs s (Pg.mov c) = true) (hheld : descHeld s c j = false) (hkind : dKind j.bits = k) :
    takeDesc k c e s = runRows c e j (List.range (dRows j.bits))
      (setMover c e { moverAt s c e with queue := rest, jobs := (moverAt s c e).jobs ++ [j] } s) := by
  simp only [takeDesc, hqueue]
  exact if_pos ⟨hrun, hkind, by rw [hheld]; rfl⟩

/-! ### A MOV page's counters and the places of cores -/

/-- The pages of the chip and of its partitions hold their own registers. -/
theorem regKey_low {pg : Nat} (hpg : pg < 0x20) (o : Nat) : regKey pg o = pg * 0x1000 + o := by
  unfold regKey pageBlk
  interval_cases pg <;> rfl

theorem regKey_mov (hc : c < nSites) (o : Nat) : regKey (Pg.mov c) o = (0x1005 + 0x10 * c) * 0x1000 + o := by
  have hsites : c < 132 := hc
  have hblk : pageBlk (0x1005 + 0x10 * c) = some (.mov, c) := by
    have hplace : (0x1005 + 0x10 * c - 0x1000) / 0x10 = c := by omega
    have hblock : (0x1005 + 0x10 * c) % 0x10 = 5 := by omega
    unfold pageBlk
    rw [if_neg (by omega), if_neg (by omega), if_neg (by omega), if_neg (by omega), if_neg (by omega), if_pos (by omega), hplace, hblock]
    rfl
  rw [regKey, hblk]
  rfl

/-- ALM_STATUS has a bit for fewer than 20 rows. -/
theorem row_lt_of_rowFixed {row : Nat} (h : rowFixed s row = true) : row < 20 := by
  by_contra hge
  exact absurd (h.symm.trans (BitVec.getLsbD_of_ge _ _ (by omega))) (by decide)

section
variable {o : Nat} {v : Word} (hc : c < nSites)
include hc

theorem getR_setR_mov {pg k : Nat} (hpg : pg < 0x20) (hk : k < 0x1000) : getR (setR (Pg.mov c) o v s) pg k = getR s pg k := by
  refine getR_setR_ne ?_
  rw [regKey_mov hc, regKey_low hpg]
  omega

theorem rowFixed_setR_mov (row : Nat) : rowFixed (setR (Pg.mov c) o v s) row = rowFixed s row :=
  congrArg (bit · (12 + row)) (getR_setR_mov hc (by decide) (by decide))

theorem siteUsed_setR_mov {site : Nat} (h : site < 0x400) : siteUsed (setR (Pg.mov c) o v s) site = siteUsed s site :=
  congrArg (bit · (site % 32)) (getR_setR_mov hc (by decide) (show 0x10C + 4 * (site / 32) < 0x1000 by omega))

/-- A MOV page's registers say nothing of where cores are. -/
theorem siteOf_setR_mov (n : Nat) : siteOf (setR (Pg.mov c) o v s) n = siteOf s n := by
  have hhome : homeSite (setR (Pg.mov c) o v s) n = homeSite s n := rfl
  have hstand : (setR (Pg.mov c) o v s).standIn = s.standIn := rfl
  simp only [siteOf, hhome, hstand, rowFixed_setR_mov hc]
  cases hrow : rowFixed s (rowOf (homeSite s n)) with
  | false => rfl
  | true =>
    have hlt : homeSite s n / 11 < 20 := row_lt_of_rowFixed hrow
    rw [siteUsed_setR_mov hc (site := homeSite s n) (by omega),
      siteUsed_setR_mov hc (site := reserveOf (rowOf (homeSite s n))) (show homeSite s n / 11 * 11 + 10 < 0x400 by omega)]

theorem ptnActive_setR_mov {p : Nat} (hp : p < nPtns) : ptnActive (setR (Pg.mov c) o v s) p = ptnActive s p := by
  have hpg : Pg.ptn p < 0x20 := Nat.add_lt_add_left hp 0x10
  have hst : bstate (setR (Pg.mov c) o v s) (Pg.ptn p) = bstate s (Pg.ptn p) := congrArg (fld · 0 3) (getR_setR_mov hc hpg (by decide))
  unfold ptnActive
  rw [hst]

theorem ptnMask_setR_mov {p : Nat} (hp : p < nPtns) : ptnMask (setR (Pg.mov c) o v s) p = ptnMask s p := by
  have hreg {k : Nat} (hk : k < 0x1000) : getR (setR (Pg.mov c) o v s) (Pg.ptn p) k = getR s (Pg.ptn p) k :=
    getR_setR_mov hc (Nat.add_lt_add_left hp 0x10) hk
  simp only [ptnMask, getN, hreg (show R.PTN_MASK0 < 0x1000 by decide), hreg (show R.PTN_MASK1 < 0x1000 by decide),
    hreg (show R.PTN_MASK2 < 0x1000 by decide), hreg (show R.PTN_MASK3 < 0x1000 by decide)]

theorem ptnOfLogical_setR_mov (n : Nat) : ptnOfLogical (setR (Pg.mov c) o v s) n = ptnOfLogical s n :=
  List.find?_congr fun _ hp => by rw [ptnActive_setR_mov hc (List.mem_range.1 hp), ptnMask_setR_mov hc (List.mem_range.1 hp)]

theorem draining_setR_mov (site : Nat) : draining (setR (Pg.mov c) o v s) site = draining s site := by
  have hlogical : logicalAt (setR (Pg.mov c) o v s) site = logicalAt s site :=
    List.find?_congr fun n _ => by rw [siteOf_setR_mov hc]
  have hptn : ptnOfSite (setR (Pg.mov c) o v s) site = ptnOfSite s site := by
    rw [ptnOfSite, hlogical, funext (ptnOfLogical_setR_mov hc)]
    rfl
  rw [draining, hptn]
  rfl

end

/-! ### MOVE_COMPLETE (R394 to R396, R142) -/

/-- The oldest descriptor has left the engine and is counted. -/
def moveCounted (s : State) (c : Nat) (e : Bool) (j : MoveDesc) (rest : List MoveDesc) : State :=
  let t := wrapR (Pg.mov c) (movDoneReg e) 1 (setMover c e { moverAt s c e with jobs := rest } s)
  if j.bad then satR (Pg.mov c) R.MOV_ERRORS 1 t else t

/-- Its signal is raised. -/
def moveSignalled (s : State) (c : Nat) (e : Bool) (j : MoveDesc) (rest : List MoveDesc) : State :=
  if dSigEn j.bits then raiseSig c (dSig j.bits) 1 (moveCounted s c e j rest) else moveCounted s c e j rest

section
variable {e bad : Bool} {j : MoveDesc} {rest : List MoveDesc}

theorem draining_moveCounted (hc : c < nSites) : draining (moveCounted s c e j rest) c = draining s c := by
  have hdone : draining (wrapR (Pg.mov c) (movDoneReg e) 1 (setMover c e { moverAt s c e with jobs := rest } s)) c = draining s c :=
    draining_setR_mov (s := setMover c e { moverAt s c e with jobs := rest } s) hc c
  unfold moveCounted
  cases j.bad
  · exact hdone
  · exact (draining_setR_mov hc c).trans hdone

variable (hjobs : (moverAt s c e).jobs = j :: rest) (hleft : j.left = 0)
include hjobs hleft

theorem completeDesc_drained (hd : draining (moveCounted s c e j rest) c = true) : completeDesc c e bad s = moveCounted s c e j rest := by
  simp only [completeDesc, hjobs]
  exact (if_pos hleft).trans (if_pos hd)

section
variable (hd : draining (moveCounted s c e j rest) c = false)
include hd

theorem completeDesc_signals (harr : dArrive j.bits = false) : completeDesc c e bad s = moveSignalled s c e j rest := by
  simp only [completeDesc, hjobs]
  exact (if_pos hleft).trans ((if_neg (Bool.eq_false_iff.1 hd)).trans (if_neg (Bool.eq_false_iff.1 harr)))

theorem completeDesc_arrives {p n : Nat} (harr : dArrive j.bits = true) (hp : ptnOfSite (moveSignalled s c e j rest) c = some p)
    (hn : logicalAt (moveSignalled s c e j rest) c = some n) :
    completeDesc c e bad s = coreArrive p n (dBar j.bits) bad (moveSignalled s c e j rest) := by
  simp only [completeDesc, hjobs]
  refine (if_pos hleft).trans ((if_neg (Bool.eq_false_iff.1 hd)).trans ((if_pos harr).trans ?_))
  unfold moveSignalled moveCounted at hp hn
  simp only [hp, hn]
  rfl

end
end

/-- Settles O23, from the lemma of each case. POST added at issue and undone on DESC, and the descriptors of an XQN queued all or none, are the model's
own readings (log entries 155, DESIGN CHOICE, and 69, DEDUCED). -/
theorem descriptorsAreQueuedAndPerformed : Obligations.DescriptorsAreQueuedAndPerformed := by
  refine ⟨fun s c x ar sreg off post n1 hr hc hq hh => ?_, fun s c t r => ?_, fun s c e bad j rest hr hc => ?_⟩
  · intro k i v a room lies reads hold
    have gives {f : State → State} {t} (h : f s = t) : onUnit c nSites f s = .next t := onUnit_gives hr hc h
    have noGq {op : Instr} (h : isGq op = false) : GqTurn (coreAt s c) x op := fun hop => absurd (hop.symm.trans h) (by decide)
    have perform {op : Instr} (h : isGq op = false) (f : Nat → State → State) : xOp c x op f s = f i s := xOp_performs hq hh (noGq h) f
    refine ⟨gives (f := fun s => s) rfl, fun hrun => ⟨fun h => ?_, fun h => ?_, ?_, fun hl hroom => ?_, fun hl hroom => ?_, fun hl => ?_, fun hl => ?_,
      fun hl hroom => ?_, fun hl hroom => ?_⟩, fun hrun => ?_, fun hx hw => ?_, fun hkind hmov hgth hal hin hturn hlen hops => ?_⟩
    · exact gives ((perform rfl _).trans (xsetaAt_inRange hrun h))
    · exact gives ((perform rfl _).trans (xsetaAt_beyond hrun h))
    · exact gives ((perform rfl _).trans (xOn_running hrun _))
    · exact gives ((perform rfl _).trans (xqAt_reads hrun hl hroom))
    · exact gives ((perform rfl _).trans (xqAt_reads hrun hl hroom))
    · exact gives ((perform rfl _).trans (xqAt_address hrun hl))
    · exact gives ((perform rfl _).trans (xqAt_address hrun hl))
    · exact gives ((perform rfl _).trans (xqAt_full hrun hl hroom))
    · exact gives ((perform rfl _).trans (xqAt_full hrun hl hroom))
    · exact ⟨gives ((perform rfl _).trans (xOn_lost hrun _)), gives ((perform rfl _).trans (xOn_lost hrun _)),
        gives ((perform rfl _).trans (xOn_lost hrun _)), gives ((perform rfl _).trans (xOn_lost hrun _))⟩
    · exact gives (xOp_gqWaits hq hx rfl hw _)
    · exact gives ((xOp_performs hq hh (fun _ => hturn) _).trans (gqAt_reads hkind hmov hgth hal hin hlen hops))
  · exact ⟨fun hx hat hgot hlen hblock hglz => xStep_block hx hat hgot hlen hblock hglz, xqDone_good, fun d h => xqDone_bad h, gqDone_good⟩
  · intro m
    refine ⟨fun hqueue hrun hheld => ?_, fun hjobs hleft => ?_⟩
    · have takes {k : Nat} (hkind : dKind j.bits = k) : onUnit c nSites (takeDesc k c e) s = .next _ :=
        onUnit_gives hr hc (takeDesc_performs hqueue hrun hheld hkind)
      exact ⟨takes, takes, takes, takes, takes, takes⟩
    · intro s1 s2 s3
      have hdrain : draining (moveCounted s c e j rest) c = draining s c := draining_moveCounted hc
      have complete {t} (h : completeDesc c e bad s = t) : Gives (.moveComplete c ⟨e, bad⟩) s t := onUnit_gives hr hc h
      refine ⟨fun h => ?_, fun h => ⟨fun harr => ?_, fun p n harr hp hn => ?_⟩⟩
      · exact complete (completeDesc_drained hjobs hleft (hdrain.trans h))
      · exact complete (completeDesc_signals hjobs hleft (hdrain.trans h) harr)
      · exact complete (completeDesc_arrives hjobs hleft (hdrain.trans h) harr hp hn)

end Sys2Proof.Machine

/-! Loads and streams of the matrix arrays (O17, O18; R231 to R237, R246 to R263, R275). -/

namespace Sys2Proof.Machine

variable {s : State} {c : Nat} {m : Bool}

/-! ### An array stored and read back -/

/-- An array that differs from the initial one is listed, so it is read back. -/
theorem arrAt_setArr {v : Arr} (hv : v ≠ Arr.init) : arrAt (setArr c m v s) c m = v := by
  simp [arrAt, setArr, Tab.store, Tab.get, hv, Tab.find_put_same]

theorem ne_init_of_loads {x : Arr} (h : x.loads ≠ []) : x ≠ Arr.init := fun he => h (he ▸ rfl)

theorem ne_init_of_strs {x : Arr} (h : x.strs ≠ []) : x ≠ Arr.init := fun he => h (he ▸ rfl)

/-- In a sound state every array is read back. -/
theorem Sound.arrAt_setArr {F : Fuses} (h : Sound F s) (v : Arr) : arrAt (setArr c m v s) c m = v := by
  obtain ⟨-, -, -, -, harrs, -⟩ := sound_iff.1 h
  exact Tab.get_store_same _ _ _ v (Bool.and_eq_true_iff.1 harrs).1

/-! ### Planes (R231, R237) -/

section
variable (p : Bool) (v : Plane) (x : Arr)

@[simp] theorem setPlane_mode : (setPlane p v x).mode = x.mode := by cases p <;> rfl
@[simp] theorem setPlane_a : (setPlane p v x).a = x.a := by cases p <;> rfl
@[simp] theorem setPlane_active : (setPlane p v x).active = x.active := by cases p <;> rfl
@[simp] theorem setPlane_loads : (setPlane p v x).loads = x.loads := by cases p <;> rfl
@[simp] theorem setPlane_strs : (setPlane p v x).strs = x.strs := by cases p <;> rfl
@[simp] theorem planeOf_setPlane_same : planeOf (setPlane p v x) p = v := by cases p <;> rfl
@[simp] theorem planeOf_setPlane_not : planeOf (setPlane (!p) v x) p = planeOf x p := by cases p <;> rfl

end

/-! ### Increments of the address registers (R249) -/

/-- The increments of an operation move address registers on and nothing else. -/
theorem increments_only_a (mx : Bool) (n q : Nat) (regs : List Nat) (x : Arr) :
    ∃ a, regs.foldl (fun x r => let x := arAdd r n x; if mx then arAdd (r + 4) q x else x) x = { x with a := a } := by
  induction regs generalizing x with
  | nil => exact ⟨x.a, rfl⟩
  | cons r regs ih =>
    obtain ⟨a, ha⟩ := ih (if mx then arAdd (r + 4) q (arAdd r n x) else arAdd r n x)
    refine ⟨a, ha.trans ?_⟩
    cases mx <;> rfl

/-! ### The start of a load (R246, R250) -/

/-- The load of the tile at register `k` into plane `p` that an array accepts in stepped cycle `i`. -/
def loadJobOf (p : Bool) (k i : Nat) (x : Arr) : LoadJob :=
  let regs := if mSplit x.mode then [k, k + 1] else [k]
  { plane := p, at_ := arrTime x i, split := mSplit x.mode, wfmt := mWfmt x.mode, bases := regs.map (fun r => (arA x r, arA x (r + 4))),
    got := regs.map (fun _ => ([], [])) }

theorem loadJobOf_whole {p : Bool} {k i : Nat} {x : Arr} (hsplit : mSplit x.mode = false) : loadJobOf p k i x =
    { plane := p, at_ := arrTime x i, split := false, wfmt := mWfmt x.mode, bases := [(arA x k, arA x (k + 4))], got := [([], [])] } := by
  simp [loadJobOf, hsplit]

/-- The array with that load under way, before the increments. -/
def loadBegun (p : Bool) (k i : Nat) (x : Arr) : Arr :=
  setPlane p { planeOf x p with valid := false, validAt := arrTime x i + 21, lastWr := arrTime x i + 19 }
    { x with loads := x.loads ++ [loadJobOf p k i x] }

section
variable (p : Bool) (k i : Nat) (x : Arr)

@[simp] theorem loadBegun_mode : (loadBegun p k i x).mode = x.mode := setPlane_mode ..
@[simp] theorem loadBegun_a : (loadBegun p k i x).a = x.a := setPlane_a ..
@[simp] theorem loadBegun_active : (loadBegun p k i x).active = x.active := setPlane_active ..
@[simp] theorem loadBegun_strs : (loadBegun p k i x).strs = x.strs := setPlane_strs ..
@[simp] theorem loadBegun_loads : (loadBegun p k i x).loads = x.loads ++ [loadJobOf p k i x] := setPlane_loads ..
theorem planeOf_loadBegun_same : planeOf (loadBegun p k i x) p =
    { planeOf x p with valid := false, validAt := arrTime x i + 21, lastWr := arrTime x i + 19 } := planeOf_setPlane_same ..
theorem planeOf_loadBegun_not : planeOf (loadBegun (!p) k i x) p = planeOf x p := planeOf_setPlane_not ..

end

theorem loadStart_begins (p : Bool) (k i : Nat) (s : State) :
    ∃ a, loadStart c m p k i s = setArr c m { loadBegun p k i (arrAt s c m) with a := a } s := by
  obtain ⟨a, ha⟩ := increments_only_a (fmtMx (mWfmt (arrAt s c m).mode)) (if mSplit (arrAt s c m).mode then 1024 else 2048)
    ((if mSplit (arrAt s c m).mode then 1024 else 2048) / 16) (if mSplit (arrAt s c m).mode then [k, k + 1] else [k])
    (loadBegun p k i (arrAt s c m))
  exact ⟨a, congrArg (setArr c m · s) ha⟩

theorem ne_init_of_loadBegun (p : Bool) (k i : Nat) (x : Arr) (a : Tab (BitVec 22)) : { loadBegun p k i x with a := a } ≠ Arr.init :=
  ne_init_of_loads (by simp)

/-- What an array shows once a load has begun. -/
theorem arrAt_loadStart (p : Bool) (k i : Nat) (s : State) :
    ∃ a, arrAt (loadStart c m p k i s) c m = { loadBegun p k i (arrAt s c m) with a := a } := by
  obtain ⟨a, ha⟩ := loadStart_begins (c := c) (m := m) p k i s
  exact ⟨a, ha ▸ arrAt_setArr (ne_init_of_loadBegun _ _ _ _ _)⟩

/-- A load that begins leaves all but the planes, the loads and the address registers alone. -/
theorem arrAt_loadStart_only (p : Bool) (k i : Nat) (s : State) :
    ∃ l p0 p1 a, arrAt (loadStart c m p k i s) c m = { arrAt s c m with loads := l, p0 := p0, p1 := p1, a := a } := by
  obtain ⟨a, ha⟩ := arrAt_loadStart (c := c) (m := m) p k i s
  cases p with
  | false => exact ⟨_, _, _, a, ha⟩
  | true => exact ⟨_, _, _, a, ha⟩

/-- The load of a whole tile without scales moves its own register on by 2 KiB. -/
theorem arrAt_loadStart_whole {p : Bool} {k i : Nat} (hsplit : mSplit (arrAt s c m).mode = false) (hmx : fmtMx (mWfmt (arrAt s c m).mode) = false) :
    arrAt (loadStart c m p k i s) c m = arAdd k 2048 (loadBegun p k i (arrAt s c m)) := by
  have hstart : loadStart c m p k i s = setArr c m (arAdd k 2048 (loadBegun p k i (arrAt s c m))) s := by
    simp [loadStart, updArr, loadBegun, loadJobOf, hsplit, hmx]
  exact hstart ▸ arrAt_setArr (ne_init_of_loadBegun _ _ _ _ _)

theorem arrHold_none {h : Nat} (hh : h = 0) (i : Nat) : arrHold c m h i s = s := if_pos hh

/-! ### M-slot LD (R246 to R250) -/

section
variable {wgt : BitVec 3} {i : Nat}

theorem mLdAt_address (h : tileOk s c (arrAt s c m) wgt.toNat = false) : mLdAt c m wgt i s = mCause c m (2 ^ 9) s :=
  if_neg (Bool.eq_false_iff.1 h)

theorem mLdAt_begins (h : tileOk s c (arrAt s c m) wgt.toNat = true) :
    mLdAt c m wgt i s = loadStart c m (!(arrAt s c m).active) wgt.toNat i
      (arrHold c m (loadFrom (arrAt s c m) (!(arrAt s c m).active) - arrTime (arrAt s c m) i) i s) := by
  simp [mLdAt, h, shadowOf]

end

/-! ### The loader by cycle (R250) -/

theorem arrRead_nothing (rank i a : Nat) : arrRead c rank m i a 0 s = ([], s) := rfl

theorem arrRead_bytes (rank i a len : Nat) : (arrRead c rank m i a len s).1 = spadBytes (coreAt s c) 2 i a len := by
  cases len <;> rfl

/-- Where no Glaze is bad a read changes no array. -/
theorem arrAt_arrRead (rank i a len : Nat) (hglz : (coreAt s c).badGlz = []) (m' : Bool) :
    arrAt (arrRead c rank m i a len s).2 c m' = arrAt s c m' := by
  cases len with
  | zero => rfl
  | succ len => simp only [arrRead, verifySpad_good hglz]; rfl

section
variable {j : LoadJob} {base sc : Nat} {g q : List Byte} {a i : Nat}

/-- A loader of a whole tile without scales reads its next 128 bytes. -/
theorem loaderRead_whole (n : Nat) (hsplit : j.split = false) (hmx : fmtMx j.wfmt = false) (hbases : j.bases = [(base, sc)]) (hgot : j.got = [(g, q)]) :
    loaderRead c m n i j s =
      ({ j with got := [(g ++ spadBytes (coreAt s c) 2 i (base + 128 * n) 128, q)] }, (arrRead c 70 m i (base + 128 * n) 128 s).2) := by
  simp [loaderRead, hsplit, hmx, hbases, hgot, arrRead_nothing, arrRead_bytes]

theorem loadedPlane_whole (old : Plane) (hsplit : j.split = false) (hgot : j.got = [(g, q)]) :
    loadedPlane j old = { old with valid := true, split := false, wfmt := j.wfmt, wts := BitVec.ofNat 16384 (numOf g),
                                   scales := BitVec.ofNat 1024 (numOf q) } := by
  simp [loadedPlane, hsplit, hgot]

theorem loadCycle_reads (hloads : (arrAt s c m).loads = [j]) (hfirst : j.at_ < a) (hlast : a ≤ j.at_ + 16) (hsplit : j.split = false)
    (hmx : fmtMx j.wfmt = false) (hbases : j.bases = [(base, sc)]) (hgot : j.got = [(g, q)]) :
    loadCycle c m a i s =
      updArr c m (fun x => { x with loads := [{ j with got := [(g ++ spadBytes (coreAt s c) 2 i (base + 128 * (a - j.at_ - 1)) 128, q)] }] })
        (arrRead c 70 m i (base + 128 * (a - j.at_ - 1)) 128 s).2 := by
  have hmore : ¬ j.at_ + 21 ≤ a := by omega
  have hleft : a < j.at_ + 21 := by omega
  simp [loadCycle, hloads, hfirst, hlast, loaderRead_whole (a - j.at_ - 1) hsplit hmx hbases hgot, hmore, hleft]

theorem loadCycle_done (hloads : (arrAt s c m).loads = [j]) (hend : j.at_ + 21 ≤ a) :
    loadCycle c m a i s =
      setArr c m (setPlane j.plane (loadedPlane j (planeOf (arrAt s c m) j.plane)) { arrAt s c m with loads := [] }) s := by
  have hread : ¬ (j.at_ < a ∧ a ≤ j.at_ + 16) := by omega
  have hleft : ¬ a < j.at_ + 21 := by omega
  simp [loadCycle, hloads, hread, hend, hleft]
  -- what remains: the plane read has `valid` set already, and no plane depends on the list of loads
  rfl

end

/-- Settles O17: an LD as it begins, then one cycle of the loader of a whole tile. -/
theorem weightLoadsFillTheShadowPlane : Obligations.WeightLoadsFillTheShadowPlane := by
  refine ⟨fun s c m wgt hr hc hq hrun => ?_, fun s c a i base sc m j g q => ?_⟩
  · intro x k i a op
    have gives {t} (h : mLdAt c m wgt i s = t) : Gives op s t := onUnit_gives hr hc ((mOp_running hq hrun _).trans h)
    refine ⟨fun h => gives (mLdAt_address h), fun h => ⟨gives (mLdAt_begins h), fun hnow => ?_⟩⟩
    have hbegins : mLdAt c m wgt i s = loadStart c m (!x.active) k i s :=
      (mLdAt_begins h).trans (congrArg _ (arrHold_none (Nat.sub_eq_zero_of_le hnow) i))
    refine ⟨_, gives hbegins, ?_⟩
    beta_reduce
    intro y p
    obtain ⟨r, hy⟩ : ∃ r, y = { loadBegun (!x.active) k i x with a := r } := arrAt_loadStart (!x.active) k i s
    have hp : p = { planeOf x (!x.active) with valid := false, validAt := a + 21, lastWr := a + 19 } :=
      (congrArg (planeOf · (!x.active)) hy).trans (planeOf_loadBegun_same ..)
    refine ⟨rfl, by simp [hy], by simp [hy], by simp [hy], by simp [hp], by simp [hp],
      (congrArg (planeOf · x.active) hy).trans (planeOf_loadBegun_not ..), fun hsplit => ⟨?_, fun hmx => ?_⟩⟩
    · exact (congrArg Arr.loads hy).trans ((loadBegun_loads ..).trans (by rw [loadJobOf_whole hsplit]))
    · have hwhole : y = arAdd k 2048 (loadBegun (!x.active) k i x) := arrAt_loadStart_whole hsplit hmx
      simp [hwhole, arAdd, arA]
  · intro x p full hloads hsplit hmx hglz hbases hgot
    refine ⟨fun hfirst hlast => ?_, fun hend => ?_⟩
    · rw [loadCycle_reads hloads hfirst hlast hsplit hmx hbases hgot, updArr, arrAt_arrRead _ _ _ _ hglz]
      exact arrAt_setArr (ne_init_of_loads (List.cons_ne_nil _ _))
    · rw [loadCycle_done hloads hend, loadedPlane_whole _ hsplit hgot]

/-! ### The start of a STREAM (R246, R249, R251, R263, R307) -/

theorem streamAdvance_only_a (src dst n : Nat) (x : Arr) : ∃ a, streamAdvance src dst n x = { x with a := a } := by
  obtain ⟨a, ha⟩ := increments_only_a (fmtMx (mIfmt x.mode)) (n * 64) (n * 4) (if mSplit x.mode then [src, src + 1] else [src]) x
  obtain ⟨b, hb⟩ := increments_only_a false (n * ((if mSplit x.mode then 16 else 32) * ofmtBytes (mOfmt x.mode))) 0
    (if mSplit x.mode then [dst, dst + 1] else [dst]) { x with a := a }
  by_cases hcomb : mDrain x.mode = true ∧ mMfop x.mode < 2
  · exact ⟨a, (if_pos hcomb).trans ha⟩
  · refine ⟨b, (if_neg hcomb).trans ?_⟩
    rw [ha]
    exact hb

/-- The combiner opens or closes; nothing else of the array changes. -/
theorem combIssue_only_open (x : Arr) (n : Nat) : ∃ o h, combIssue x n = { x with open_ := o, height := h } := by
  unfold combIssue
  split
  · split
    · exact ⟨_, _, rfl⟩
    · exact ⟨_, _, rfl⟩
    · exact ⟨_, _, rfl⟩
  · exact ⟨_, _, rfl⟩

theorem streamIssue_only (src dst n : Nat) (x : Arr) :
    ∃ a o h, streamAdvance src dst n (combIssue x n) = { x with a := a, open_ := o, height := h } := by
  obtain ⟨o, h, hcomb⟩ := combIssue_only_open x n
  obtain ⟨a, hadv⟩ := streamAdvance_only_a src dst n { x with open_ := o, height := h }
  exact ⟨a, o, h, (congrArg _ hcomb).trans hadv⟩

/-- The array with a STREAM of its own time `a` under way, before the increments and the combiner. -/
def streamEntered (acc ckr mp : Bool) (src dst n a : Nat) (x : Arr) : Arr :=
  { x with active := mp, serial := min (x.serial + 1) 0xFFFF, feed := a + 2 + n + b2n ckr,
           strs := x.strs.map (fun j => if ckrLost a j then { j with lost := true } else j) ++ [streamJob x acc ckr mp src dst n a] }

/-- The state in which column checks displaced in cycle `a` are counted (R263). -/
def skipsCounted (c : Nat) (m : Bool) (a : Nat) (s : State) : State :=
  if (arrAt s c m).strs.any (ckrLost a) then satR (mPg c m) R.MXA_CKR_SKIPS 1 s else s

/-- The count is of a register and changes nothing else. -/
theorem skipsCounted_keeps {β : Type} (g : State → β) (hg : ∀ o v s, g (setR (mPg c m) o v s) = g s) (a : Nat) (s : State) :
    g (skipsCounted c m a s) = g s := by
  unfold skipsCounted
  split
  · exact hg _ _ s
  · rfl

theorem arrAt_skipsCounted (a : Nat) : arrAt (skipsCounted c m a s) c m = arrAt s c m :=
  skipsCounted_keeps (arrAt · c m) (fun _ _ _ => rfl) a s

/-- The state in which a STREAM that need not wait has entered; with LD = 1 a load of the other plane has begun. -/
def streamStarted (c : Nat) (m ld acc ckr mp : Bool) (src dst wgt n i : Nat) (s : State) : State :=
  let a := arrTime (arrAt s c m) i
  let t := updArr c m (fun x => streamAdvance src dst n (combIssue (streamEntered acc ckr mp src dst n a x) n)) (skipsCounted c m a s)
  if ld then loadStart c m (!mp) wgt i t else t

section
variable {sw ld acc ckr mp : Bool} {src dst wgt n : Nat} {count : BitVec 12} {i : Nat}

theorem streamStarted_dram : (streamStarted c m ld acc ckr mp src dst wgt n i s).dram = s.dram := by
  have hcount := skipsCounted_keeps (c := c) (m := m) State.dram (fun _ _ _ => rfl) (arrTime (arrAt s c m) i) s
  cases ld with
  | false => exact hcount
  | true => exact hcount

theorem streamStarted_cores : (streamStarted c m ld acc ckr mp src dst wgt n i s).cores = s.cores := by
  have hcount := skipsCounted_keeps (c := c) (m := m) State.cores (fun _ _ _ => rfl) (arrTime (arrAt s c m) i) s
  cases ld with
  | false => exact hcount
  | true => exact hcount

/-- What the array shows then: the rest is as it was. -/
theorem arrAt_streamStarted : ∃ l p0 p1 r o h, arrAt (streamStarted c m ld acc ckr mp src dst wgt n i s) c m =
    { streamEntered acc ckr mp src dst n (arrTime (arrAt s c m) i) (arrAt s c m) with
      loads := l, p0 := p0, p1 := p1, a := r, open_ := o, height := h } := by
  let a := arrTime (arrAt s c m) i
  let e := streamEntered acc ckr mp src dst n a (arrAt s c m)
  let t := updArr c m (fun x => streamAdvance src dst n (combIssue (streamEntered acc ckr mp src dst n a x) n)) (skipsCounted c m a s)
  obtain ⟨r, o, h, hissue⟩ := streamIssue_only src dst n e
  have hset : t = setArr c m { e with a := r, open_ := o, height := h } (skipsCounted c m a s) := by
    simp only [t, updArr, arrAt_skipsCounted]
    exact congrArg (setArr c m · _) hissue
  have hstrs : e.strs ≠ [] := List.append_ne_nil_of_right_ne_nil _ (List.cons_ne_nil _ _)
  have ht : arrAt t c m = { e with a := r, open_ := o, height := h } :=
    (congrArg (arrAt · c m) hset).trans (arrAt_setArr (ne_init_of_strs hstrs))
  cases ld with
  | false => exact ⟨_, _, _, r, o, h, ht⟩
  | true =>
    obtain ⟨l, p0, p1, r', hload⟩ := arrAt_loadStart_only (c := c) (m := m) (!mp) wgt i t
    exact ⟨l, p0, p1, r', o, h, hload.trans (by rw [ht])⟩

theorem streamAt_causes
    (h : streamCauses s c (arrAt s c m) sw ld acc src dst wgt (if count = 0 then (arrAt s c m).cnt else count.toNat) ≠ 0) :
    streamAt c m sw ld acc ckr src dst wgt count i s =
      mCause c m (streamCauses s c (arrAt s c m) sw ld acc src dst wgt (if count = 0 then (arrAt s c m).cnt else count.toNat)) s :=
  if_pos h

/-- A STREAM that need not wait for the feeder, the plane or a load enters at once. -/
theorem streamAt_enters (hn : (if count = 0 then (arrAt s c m).cnt else count.toNat) = n) (hmp : ((arrAt s c m).active != sw) = mp)
    (hok : streamCauses s c (arrAt s c m) sw ld acc src dst wgt n = 0) (hfeed : (arrAt s c m).feed ≤ arrTime (arrAt s c m) i + 2)
    (hplane : (planeOf (arrAt s c m) mp).validAt ≤ arrTime (arrAt s c m) i + 4)
    (hload : ld = true → loadFrom (arrAt s c m) (!mp) ≤ arrTime (arrAt s c m) i) :
    streamAt c m sw ld acc ckr src dst wgt count i s = streamStarted c m ld acc ckr mp src dst wgt n i s := by
  have hgo : Nat.max ((arrAt s c m).feed - 2) (Nat.max ((planeOf (arrAt s c m) mp).validAt - 4)
      (if ld then loadFrom (arrAt s c m) (!mp) else 0)) - arrTime (arrAt s c m) i = 0 := by
    refine Nat.sub_eq_zero_of_le (Nat.max_le.2 ⟨by omega, Nat.max_le.2 ⟨by omega, ?_⟩⟩)
    split
    · exact hload ‹_›
    · exact Nat.zero_le _
  subst hn hmp
  simp only [streamAt, hok, ne_eq, not_true_eq_false, if_false, hgo, arrHold_none]
  rfl

end

section
variable {r i from_ scl to_ fl : Nat} {j : StreamJob} {vals : List Num}

/-! ### The rows of a stream by cycle (R251, R253, R257, R275) -/

/-- The feeder of a stream that is not split, without scales, takes the 64 bytes of its row. -/
theorem feedRow_whole (hhalves : j.halves = [(from_, scl, to_)]) (hmx : fmtMx (mIfmt j.mode) = false) :
    (feedRow c m r i j s).1 = { j with rows := j.rows ++ [(r, [(spadBytes (coreAt s c) 2 i (from_ + 64 * r) 64, [])])] } := by
  simp [feedRow, hhalves, hmx, arrRead_nothing, arrRead_bytes]

/-- The drain of a stream that is not split, with one row of sums formed. -/
theorem drainRow_whole {F : Fuses} (hs : Sound F s) (hhalves : j.halves = [(from_, scl, to_)]) (houts : j.outs = [(r, [(vals, fl)])]) :
    (drainRow c m r i j s).2 =
      (let d := drainElems j.mode (arrAt s c m).gen vals
       let at_ := to_ + r * d.1.length
       let t := setArr c m { arrAt s c m with gen := d.2.2 } s
       if bit (arrAt s c m).fence 0 then t
       else updCore c (fun k => claim (30 + b2n m) (mUnit m) i at_ d.1.length (unitStore (1 + 2 * b2n m) at_ d.1 i k))
         (if d.2.1 ||| fl = 0 then t else mFlags c m (d.2.1 ||| fl) t)) := by
  simp [drainRow, hhalves, houts, foldS, updArr, hs.arrAt_setArr]

end

/-- Settles O18: a STREAM as it enters, then the reading and the draining of a row of a stream that is not split. -/
theorem streamsAdvanceTheArray : Obligations.StreamsAdvanceTheArray := by
  refine ⟨fun s c m sw ld acc ckr src dst wgt count hr hc hq hrun => ?_, fun F s c r i from_ scl to_ fl m j vals hs => ?_⟩
  · intro x n a mp bits op
    have gives {t} (h : streamAt c m sw ld acc ckr src.toNat dst.toNat wgt.toNat count (coreAt s c).steps s = t) : Gives op s t :=
      onUnit_gives hr hc ((mOp_running hq hrun _).trans h)
    refine ⟨fun hok hfeed hplane hload => ?_, fun hbits => gives (streamAt_causes hbits)⟩
    refine ⟨_, gives (streamAt_enters rfl rfl hok hfeed hplane hload), ?_⟩
    beta_reduce
    intro y
    obtain ⟨l, p0, p1, r, o, h, hy⟩ : ∃ l p0 p1 r o h, y = { streamEntered acc ckr mp src.toNat dst.toNat n a x with
      loads := l, p0 := p0, p1 := p1, a := r, open_ := o, height := h } := arrAt_streamStarted
    rw [hy]
    exact ⟨rfl, rfl, rfl, rfl, rfl, streamStarted_dram, streamStarted_cores⟩
  · intro x k d at_ hhalves
    refine ⟨fun hmx _ => feedRow_whole hhalves hmx, fun houts => ?_⟩
    rw [drainRow_whole hs hhalves houts]
    refine ⟨fun hfence => if_pos hfence, fun hfence hflags => (if_neg (Bool.eq_false_iff.1 hfence)).trans ?_⟩
    rw [if_pos hflags]
    rfl

end Sys2Proof.Machine

/-! Results of the vector engines (O22; R322, R329, R333, R334) and the operations of the V slot that do no arithmetic (O20; R328, R329, R331,
R346 to R348, R351). -/

namespace Sys2Proof.Machine

/-! ### Elements and their bits (R320) -/

theorem testBit_getE (v : BitVec 8192) (t e k : Nat) :
    (getE v t e).testBit k = (decide (k < tWidth t) && v.getLsbD (e * tWidth t + k)) := by
  rw [getE, Nat.testBit_mod_two_pow, Nat.testBit_shiftRight, BitVec.testBit_toNat]

/-- Elements are equal where their bits are. -/
theorem getE_eq_of_testBit {v : BitVec 8192} {t e q : Nat} (hq : q < 2 ^ tWidth t)
    (h : ∀ k < tWidth t, v.getLsbD (e * tWidth t + k) = q.testBit k) : getE v t e = q := by
  refine Nat.eq_of_testBit_eq fun k => ?_
  rw [testBit_getE]
  by_cases hk : k < tWidth t
  · simp [hk, h k hk]
  · have hq : q.testBit k = false := Nat.testBit_lt_two_pow (hq.trans_le (Nat.pow_le_pow_right two_pos (Nat.le_of_not_lt hk)))
    simp [hk, hq]

/-- Elements packed side by side keep their bits. -/
theorem testBit_packE {w : Nat} {l : List Nat} (hl : ∀ v ∈ l, v < 2 ^ w) {e v k : Nat} (hv : l[e]? = some v) (hk : k < w) :
    (packE w l).testBit (e * w + k) = v.testBit k := by
  induction l generalizing e with
  | nil => cases hv
  | cons a l ih =>
    obtain ⟨ha, hl⟩ := List.forall_mem_cons.1 hl
    rw [packE, Nat.add_comm, Nat.testBit_two_pow_mul_add _ ha]
    cases e with
    | zero =>
      obtain rfl : a = v := by simpa using hv
      simp [hk]
    | succ e =>
      have hpos : (e + 1) * w + k = w + (e * w + k) := by ring
      rw [if_neg (by omega), hpos, Nat.add_sub_cancel_left]
      exact ih hl hv

/-- So does a register that holds them all. -/
theorem getLsbD_packE {w : Nat} {l : List Nat} (hl : ∀ v ∈ l, v < 2 ^ w) (hfit : l.length * w ≤ 8192) {e v k : Nat} (hv : l[e]? = some v)
    (hk : k < w) : (BitVec.ofNat 8192 (packE w l)).getLsbD (e * w + k) = v.testBit k := by
  have he : e < l.length := (List.getElem?_eq_some_iff.1 hv).1
  have hpos : e * w + k < 8192 :=
    calc e * w + k < (e + 1) * w := by rw [Nat.add_mul]; omega
      _ ≤ l.length * w := Nat.mul_le_mul_right w he
      _ ≤ 8192 := hfit
  rw [BitVec.getLsbD_ofNat, testBit_packE hl hv hk]
  simp [hpos]

/-! ### Pending results in the order of issue (R334) -/

/-- A reader of register or mask `idx` at stepped index `i` sees the result (R333). -/
def VPend.sees (file idx i : Nat) (w : VPend) : Bool := decide (w.file = file ∧ w.idx = idx ∧ w.vis ≤ i)

/-- A result among others, after those issued no later. -/
def insertByIss (a : List VPend) (w : VPend) : List VPend :=
  a.filter (fun y => y.iss ≤ w.iss) ++ [w] ++ a.filter (fun y => w.iss < y.iss)

/-- A register under a result: the bits that the result writes are its own. -/
def withResult (v : BitVec 8192) (w : VPend) : BitVec 8192 := (v &&& ~~~ w.en) ||| (w.val &&& w.en)

theorem vSeen_eq_foldl (x : Vec) (file idx i : Nat) (base : BitVec 8192) :
    vSeen x file idx i base = ((x.pend.filter (VPend.sees file idx i)).foldl insertByIss []).foldl withResult base := rfl

theorem VPend.sees_iff {file idx i : Nat} {w : VPend} : w.sees file idx i = true ↔ w.file = file ∧ w.idx = idx ∧ w.vis ≤ i := by simp [sees]

theorem insertByIss_latest {a : List VPend} {w : VPend} (h : ∀ y ∈ a, y.iss ≤ w.iss) : insertByIss a w = a ++ [w] := by
  have hbefore : a.filter (fun y => y.iss ≤ w.iss) = a := List.filter_eq_self.2 (by simpa using h)
  have hafter : a.filter (fun y => w.iss < y.iss) = [] := List.filter_eq_nil_iff.2 (by simpa using h)
  rw [insertByIss, hbefore, hafter, List.append_nil]

/-- Sorting brings in no result of its own. -/
theorem foldl_insertByIss_forall {P : VPend → Prop} {l : List VPend} (h : ∀ w ∈ l, P w) : ∀ y ∈ l.foldl insertByIss [], P y := by
  refine List.foldlRecOn (motive := fun a => ∀ y ∈ a, P y) l insertByIss (List.forall_mem_nil P) fun a ha w hw y hy => ?_
  simp only [insertByIss, List.mem_append, List.mem_filter, List.mem_singleton] at hy
  rcases hy with (⟨hy, -⟩ | rfl) | ⟨hy, -⟩
  · exact ha y hy
  · exact h y hw
  · exact ha y hy

section
variable {x : Vec} {w : VPend} {file idx i : Nat} {base : BitVec 8192}

/-- A result that a reader does not see changes nothing for it. -/
theorem vSeen_append_unseen (hw : w.sees file idx i = false) :
    vSeen { x with pend := x.pend ++ [w] } file idx i base = vSeen x file idx i base := by
  simp [vSeen_eq_foldl, hw]

/-- A result that a reader sees, and than which none that it sees was issued later, lies over what was read before. -/
theorem vSeen_append_latest (hw : w.sees file idx i = true) (hlast : ∀ y ∈ x.pend, y.sees file idx i = true → y.iss ≤ w.iss) :
    vSeen { x with pend := x.pend ++ [w] } file idx i base = withResult (vSeen x file idx i base) w := by
  have hsorted : ∀ y ∈ (x.pend.filter (VPend.sees file idx i)).foldl insertByIss [], y.iss ≤ w.iss :=
    foldl_insertByIss_forall fun y hy => hlast y (List.mem_filter.1 hy).1 (List.mem_filter.1 hy).2
  simp [vSeen_eq_foldl, hw, insertByIss_latest hsorted]

end

/-! ### A result on its way to a register (R329, R333) -/

/-- The pending result that `wrV` makes of elements of `w` bits. -/
def vResult (slot : Bool) (d i lat w : Nat) (els : List (Option Nat)) : VPend :=
  { file := 0, idx := d, val := BitVec.ofNat 8192 (packE w (els.map (·.getD 0))),
    en := BitVec.ofNat 8192 (packE w (els.map (fun e => if e.isSome then 2 ^ w - 1 else 0))), iss := 2 * i + b2n slot, vis := i + lat }

theorem wrV_eq (x : Vec) (slot : Bool) (d i lat w : Nat) (els : List (Option Nat)) :
    wrV x slot d i lat w els = { x with pend := x.pend ++ [vResult slot d i lat w els] } := rfl

section
variable {x : Vec} {slot : Bool} {d i lat w j t : Nat} {els : List (Option Nat)}

theorem sees_vResult {file r : Nat} : (vResult slot d i lat w els).sees file r j = true ↔ file = 0 ∧ r = d ∧ i + lat ≤ j := by
  rw [VPend.sees_iff]
  exact and_congr eq_comm (and_congr_left fun _ => eq_comm)

theorem rdV_wrV_unseen {r : Nat} (h : ¬ (r = d ∧ i + lat ≤ j)) : rdV (wrV x slot d i lat w els) r j = rdV x r j :=
  vSeen_append_unseen (Bool.eq_false_iff.2 fun hs => h (sees_vResult.1 hs).2)

theorem rdM_wrV (k : Nat) : rdM (wrV x slot d i lat w els) k j = rdM x k j := by
  have hfile : (vResult slot d i lat w els).sees 1 k j = false := Bool.eq_false_iff.2 fun hs => one_ne_zero (sees_vResult.1 hs).1
  rw [wrV_eq, rdM, rdM, vSeen_append_unseen hfile]

theorem rdV_wrV_seen (hlast : ∀ y ∈ x.pend, y.file = 0 → y.idx = d → y.iss ≤ 2 * i) (hj : i + lat ≤ j) :
    rdV (wrV x slot d i lat w els) d j = withResult (rdV x d j) (vResult slot d i lat w els) := by
  refine vSeen_append_latest (sees_vResult.2 ⟨rfl, rfl, hj⟩) fun y hy hs => ?_
  obtain ⟨hfile, hidx, -⟩ := VPend.sees_iff.1 hs
  exact (hlast y hy hfile hidx).trans (Nat.le_add_right _ _)

/-- A result writes the bits of its present elements. -/
theorem getLsbD_vResult_en (hfit : els.length * w ≤ 8192) {e k : Nat} {o : Option Nat} (ho : els[e]? = some o) (hk : k < w) :
    (vResult slot d i lat w els).en.getLsbD (e * w + k) = o.isSome := by
  have hl : ∀ v ∈ els.map (fun e => if e.isSome then 2 ^ w - 1 else 0), v < 2 ^ w := by
    have hpos := Nat.two_pow_pos w
    simp only [List.mem_map, forall_exists_index, and_imp]
    rintro v o - rfl
    split
    · exact Nat.sub_one_lt_of_lt hpos
    · exact hpos
  rw [vResult, getLsbD_packE hl (by simpa using hfit) (List.getElem?_map.trans (congrArg _ ho)) hk]
  cases o with
  | none => exact Nat.zero_testBit k
  | some v => simp [Nat.testBit_two_pow_sub_one, hk]

/-- At a present element it holds the code. -/
theorem getLsbD_vResult_val (hfit : els.length * w ≤ 8192) (hels : ∀ v, some v ∈ els → v < 2 ^ w) {e k v : Nat} (ho : els[e]? = some (some v))
    (hk : k < w) : (vResult slot d i lat w els).val.getLsbD (e * w + k) = v.testBit k := by
  have hl : ∀ v ∈ els.map (·.getD 0), v < 2 ^ w := by
    simp only [List.mem_map, forall_exists_index, and_imp]
    rintro v o hmem rfl
    cases o with
    | none => exact Nat.two_pow_pos w
    | some v => exact hels v hmem
  exact getLsbD_packE hl (by simpa using hfit) (List.getElem?_map.trans (congrArg _ ho)) hk

/-- An element under a result: its code where it is present, the element itself where it is absent. -/
theorem getE_withResult_vResult (hfit : els.length * tWidth t ≤ 8192) (hels : ∀ v, some v ∈ els → v < 2 ^ tWidth t) (old : BitVec 8192) {e : Nat}
    {o : Option Nat} (ho : els[e]? = some o) : getE (withResult old (vResult slot d i lat (tWidth t) els)) t e = o.getD (getE old t e) := by
  have hen (k : Nat) (hk : k < tWidth t) := getLsbD_vResult_en (slot := slot) (d := d) (i := i) (lat := lat) hfit ho hk
  cases o with
  | none =>
    refine getE_eq_of_testBit (Nat.mod_lt _ (Nat.two_pow_pos _)) fun k hk => ?_
    simpa [withResult, hen k hk, testBit_getE, hk] using BitVec.lt_of_getLsbD (x := old)
  | some v =>
    refine getE_eq_of_testBit (hels v (List.mem_of_getElem? ho)) fun k hk => ?_
    simp [withResult, hen k hk, getLsbD_vResult_val hfit hels ho hk]

end

/-- Settles O22: a result lies over what was read before where it is seen, bit by bit, and is not seen elsewhere. -/
theorem vectorResultsReachTheirElements : Obligations.VectorResultsReachTheirElements := by
  intro x slot d i lat j t els hlast hfit hels y
  refine ⟨fun hj e o ho => ?_, fun hj => ?_, fun r hr => ?_, rdM_wrV⟩
  · exact (congrArg (getE · t e) (rdV_wrV_seen hlast hj)).trans (getE_withResult_vResult hfit hels _ ho)
  · exact rdV_wrV_unseen fun h => Nat.not_le.2 hj h.2
  · exact rdV_wrV_unseen fun h => hr h.1

/-! ### The V slot without arithmetic (R328, R331, R351) -/

section
variable {s : State} {c : Nat} {f : VR}

theorem causeBits_eq_zero {opcode type : Bool} (ho : opcode = false) (ht : type = false) : causeBits opcode type = 0 := by rw [ho, ht]; rfl

theorem vsel_causes (ht : tOk s c allTypes f.t.toNat = true) (hc : f.c = 0) (hmd : f.md = 0) (hmz : f.mz = false) :
    causeBits (decide (f.md ≠ 0) || decide (f.c ≠ 0)) (!tOk s c allTypes f.t.toNat || f.mz) = 0 :=
  causeBits_eq_zero (by simp [hc, hmd]) (by simp [ht, hmz])

theorem vcmp_causes (ht : tOk s c allTypes f.t.toNat = true) (hc : f.c = 0) (hmd : bit f.md 4 = false) (hcond : fld f.md 0 3 ≠ 7)
    (hd : fld f.d 3 2 = 0) :
    causeBits (bit f.md 4 || decide (fld f.md 0 3 = 7) || decide (f.c ≠ 0) || decide (fld f.d 3 2 ≠ 0)) (!tOk s c allTypes f.t.toNat) = 0 :=
  causeBits_eq_zero (by simp [hc, hmd, hcond, hd]) (by simp [ht])

theorem typed_causes {t : Nat} (ht : tOk s c allTypes t = true) : causeBits false (!tOk s c allTypes t) = 0 :=
  causeBits_eq_zero rfl (by simp [ht])

end

/-- Settles O20: each operation that breaks no rule is performed as its own function of the elements or masks. -/
theorem vectorLogicMasksAndConversions : Obligations.VectorLogicMasksAndConversions := by
  intro s c f d imm ty sreg h x i t w n m a b ma mb each mask all
  refine ⟨fun hc => ?_, fun hc => ?_, fun ht hc hmd hmz => ?_, fun ht hc hmd hcond hd => ?_, fun hc => ?_, fun hc => ?_, fun hc => ?_, fun ht => ?_,
    fun ht hsecond => ?_⟩
  · exact ⟨vector_gives h hc rfl, vector_gives h hc rfl, vector_gives h hc rfl, vector_gives h hc rfl⟩
  · exact ⟨vector_gives h hc rfl, vector_gives h hc rfl, vector_gives h hc rfl⟩
  · exact vector_gives h (vsel_causes ht hc hmd hmz) rfl
  · exact vector_gives h (vcmp_causes ht hc hmd hcond hd) rfl
  · exact vector_gives h hc rfl
  · exact vector_gives h hc rfl
  · exact ⟨vector_gives h hc rfl, vector_gives h hc rfl, vector_gives h hc rfl, vector_gives h hc rfl⟩
  · exact vector_gives h (typed_causes ht) rfl
  · exact vector_gives hsecond (typed_causes ht) rfl

end Sys2Proof.Machine

/-! The gather engine's threads and the migration of a scratchpad (O24; R376, R377, R401 to R406): an equation for each outcome. -/

namespace Sys2Proof.Machine

variable {s : State} {c t : Nat}

/-! ### GATHER_DESCRIPTOR (R401, R402, R405) -/

/-- The descriptor at the head of the queue started: in progress, its first bags assigned. -/
def descStarted (s : State) (c : Nat) (d : BitVec 512) (rest : List (BitVec 512)) : State :=
  let g := gthAt s c
  setGth c (assignBags 512 { g with
    queue := rest, serial := g.serial + 1,
    groups := g.groups ++ [{ serial := g.serial, desc := d, nextBag := 0, done := [], raised := 0, lines := [], awaiting := [], failed := [] }] }) s

section
variable {d : BitVec 512} {rest : List (BitVec 512)} (hqueue : (gthAt s c).queue = d :: rest) (hrun : runs s (Pg.gth c) = true)
include hqueue hrun

theorem gatherStart_fixed (hoff : gOffsets d = false) : gatherStart c s = descStarted s c d rest := by
  simp only [gatherStart, hqueue, hrun, hoff]
  rfl

theorem gatherStart_offsets (hoff : gOffsets d = true) : gatherStart c s =
    foldS (fun b u => (sharedBytes c (gthAt s c).serial (gOffs d + 4 * b) 8 u).2)
      (((gthAt (descStarted s c d rest) c).threads.filter (fun e => e.2.serial = (gthAt s c).serial)).map (fun e => e.2.bag))
      (descStarted s c d rest) := by
  simp only [gatherStart, hqueue, hrun, hoff]
  rfl

end

/-! ### GATHER_ROW and BAG_COMPLETE (R402 to R406) -/

section
variable {b : GBag} {q : GGroup} (hbag : threadAt s c t = some b) (hdesc : bagDesc s c b = some q) (hrun : runs s (Pg.gth c) = true)
  (hwait : b.waiting = []) (herr : b.err = none)
include hbag hdesc hrun hwait herr

theorem gatherStep_index (hknown : b.known = true) (hmore : b.next < b.stop) :
    gatherStep c t s = gatherIndex c t q.desc b (gatherAhead c q.desc b s) := by
  simp [gatherStep, hbag, hdesc, hrun, hwait, herr, hknown, hmore]

theorem gatherStep_fixedBounds (hknown : b.known = false) (hoff : gOffsets q.desc = false) :
    gatherStep c t s = bagBounds c t b (b.bag * gOffs q.desc) ((b.bag + 1) * gOffs q.desc) s := by
  simp [gatherStep, hbag, hdesc, hrun, hwait, herr, hknown, hoff]

end

/-- The output row of a finished bag written and the bag counted (R401, R404). -/
def bagWritten (s : State) (c : Nat) (d : BitVec 512) (b : GBag) : State :=
  let out := bagRow d b
  let s1 := setCore c (spadPut (coreAt s c) (gOut d + b.bag * gStride d) out.1) s
  let s2 := wrapR (Pg.gth c) R.GTH_BAGS 1 (if out.2 = 0 then s1 else gthFlag c out.2 s1)
  if b.cnt = 0 then satR (Pg.gth c) R.GTH_EMPTY 1 s2 else s2

/-- Writing a row leaves the engine's own threads and descriptors. -/
theorem gthAt_bagWritten (d : BitVec 512) (b : GBag) : gthAt (bagWritten s c d b) c = gthAt s c := by
  unfold bagWritten
  dsimp only
  split <;> split <;> rfl

/-- The engine with the bag of thread `t` finished: the thread is free and the bag is done. -/
def bagLeft (g : Gth) (t : Nat) (b : GBag) : Gth :=
  { g with threads := Tab.erase g.threads t, groups := g.groups.map (fun y => if y.serial = b.serial then { y with done := y.done ++ [b.bag] } else y) }

theorem bagFinish_finishes {b : GBag} {q : GGroup} (hbag : threadAt s c t = some b) (hdesc : bagDesc s c b = some q)
    (hrun : runs s (Pg.gth c) = true) (hwait : b.waiting = []) (herr : b.err = none) (hknown : b.known = true) (hend : b.next = b.stop) :
    bagFinish c t s = raiseGroups c 65600 (setGth c (assignBags 512 (bagLeft (gthAt s c) t b)) (bagWritten s c q.desc b)) := by
  rw [← gthAt_bagWritten q.desc b]
  simp only [bagFinish, hbag, hdesc]
  exact if_pos ⟨hrun, hknown, hend, hwait, herr⟩

/-! ### COR_MIGRATE and MIGRATE_DONE (R376, R377) -/

theorem migrateOp_starts {v : Word} (hcol : c % 11 = 10) (hst : bstate s (Pg.cor c) = B.stopped) (hsrc : fld v 0 4 ≤ 9) (hgo : bit v 31 = true)
    (hidle : bit (getR s (Pg.cor c) R.COR_MIG_STATUS) 31 = false) :
    migrateOp c v s = setR (Pg.cor c) R.COR_MIG_STATUS 0x80000000
      (setCore c { coreAt s c with migrating := some (rowOf c * 11 + fld v 0 4) } s) := by
  have hpresent : bstate s (Pg.cor c) ≠ B.absent := hst ▸ by decide
  exact (if_neg hpresent).trans ((if_pos ⟨hcol, hst, hsrc, hidle⟩).trans (if_pos hgo))

/-- Settles O24, from the equation of each outcome. The copy made at MIGRATE_DONE and the lines asked for ahead are the model's own readings (log
entries 125, DEDUCED, and 153, DESIGN CHOICE). -/
theorem gatherThreadsAndMigration : Obligations.GatherThreadsAndMigration := by
  intro s c t v hr hc g
  have gives {f : State → State} {u} (h : f s = u) : onUnit c nSites f s = .next u := onUnit_gives hr hc h
  refine ⟨fun d rest hqueue hrun => ⟨fun hoff => ?_, fun hoff => ?_⟩,
    fun b q hbag hdesc hrun hwait herr => ⟨fun hknown hmore => ?_, fun hknown hoff => ?_, fun hknown hend => ?_⟩,
    fun hcol hst hsrc hgo hidle => ?_, fun src hsrc => ?_⟩
  · exact gives (gatherStart_fixed hqueue hrun hoff)
  · exact gives (gatherStart_offsets hqueue hrun hoff)
  · exact gives (gatherStep_index hbag hdesc hrun hwait herr hknown hmore)
  · exact gives (gatherStep_fixedBounds hbag hdesc hrun hwait herr hknown hoff)
  · exact gives (bagFinish_finishes hbag hdesc hrun hwait herr hknown hend)
  · exact gives (migrateOp_starts hcol hst hsrc hgo hidle)
  · refine gives (f := migrateDoneOp c 0) ?_
    simp only [migrateDoneOp, hsrc]
    rfl

end Sys2Proof.Machine

/-! A raise beyond the top of a signal (O13; R381).

The count stands at the top and SIG_SAT has the bit before SIGOVF is recorded. What is left to show is that the fault, with everything it brings about,
leaves both and keeps the cause. `SiteKept c s₀ s` says what faults leave of site `c` in a state `s` reached from `s₀`. As with `Sound`, each function
that a fault can call has one lemma, `SiteKept.<its name>`. -/

namespace Sys2Proof.Machine

/-! ### Where registers stand -/

/-- A page holds its own register, or one that its block shares from 0x2000 on. -/
theorem sharedPage_cases (b : Blk) (pg o : Nat) : sharedPage b pg o = pg ∨ 0x2000 ≤ sharedPage b pg o := by
  cases b <;> simp only [sharedPage, true_or]
  all_goals split_ifs <;> simp

theorem regKey_cases (pg o : Nat) : regKey pg o = pg * 0x1000 + o ∨ 0x2000 * 0x1000 ≤ regKey pg o := by
  unfold regKey
  split
  next b i _ => rcases sharedPage_cases b pg o with h | h <;> omega
  · exact .inl rfl

theorem regKey_sig {c : Nat} (hc : c < nSites) (o : Nat) : regKey (Pg.sig c) o = (0x1006 + 0x10 * c) * 0x1000 + o := by
  have hsites : c < 132 := hc
  have hblk : pageBlk (0x1006 + 0x10 * c) = some (.sig, c) := by
    have hplace : (0x1006 + 0x10 * c - 0x1000) / 0x10 = c := by omega
    have hblock : (0x1006 + 0x10 * c) % 0x10 = 6 := by omega
    unfold pageBlk
    rw [if_neg (by omega), if_neg (by omega), if_neg (by omega), if_neg (by omega), if_neg (by omega), if_pos (by omega), hplace, hblock]
    rfl
  rw [regKey, hblk]
  rfl

/-- A register that is none of a SIG page's own and no page's HDR_FAULT. -/
inductive Apart : Nat → Nat → Prop
  | header {pg o} (ho : o < 0x40) (hf : o ≠ R.HDR_FAULT) : Apart pg o
  | low {pg o} (hpg : pg < 0x1000) (ho : o < 0x1000) (hf : o ≠ R.HDR_FAULT) : Apart pg o
  | cor {k o} (ho : o < 0x1000) (hf : o ≠ R.HDR_FAULT) : Apart (Pg.cor k) o
  | high {pg o} (hpg : 0x2000 ≤ pg) : Apart pg o

theorem Apart.sig_ne {pg o c k : Nat} (h : Apart pg o) (hc : c < nSites) (hk : 0x40 ≤ k) (hk' : k < 0x1000) :
    regKey (Pg.sig c) k ≠ regKey pg o := by
  have hsites : c < 132 := hc
  rw [regKey_sig hc]
  cases h with
  | header ho =>
    have := regKey_mod pg o
    omega
  | low hpg ho =>
    have := regKey_cases pg o
    omega
  | @cor j _ ho =>
    have : regKey (Pg.cor j) o = (0x1000 + 0x10 * j) * 0x1000 + o ∨ 0x2000 * 0x1000 ≤ regKey (Pg.cor j) o := regKey_cases _ _
    omega
  | high hpg =>
    have := regKey_cases pg o
    omega

/-- HDR_FAULT stands at 0x014 of its page, and no other register of these there. -/
theorem Apart.fault_ne {pg o c : Nat} (h : Apart pg o) (hc : c < nSites) : regKey (Pg.cor c) 0x014 ≠ regKey pg o := by
  have hsites : c < 132 := hc
  have hkey : regKey (Pg.cor c) 0x014 = (0x1000 + 0x10 * c) * 0x1000 + 0x014 := regKey_header _ (by decide)
  have hmod := regKey_mod pg o
  cases h with
  | header ho hf | low _ ho hf | cor ho hf =>
    have : o ≠ 0x014 := hf
    omega
  | high hpg =>
    have := regKey_cases pg o
    omega

/-! ### What faults leave of a site -/

/-- What faults leave of site `c` in a state `s` reached from `s₀`: the registers of its signals, the causes that its COR page has recorded, and that its
units hold nothing, where they held nothing. The tables of registers and cores stay sorted, so that they read back what is stored. -/
def SiteKept (c : Nat) (s₀ s : State) : Prop :=
  c < nSites ∧ Tab.sortedFrom 0 s.regs = true ∧ Tab.sortedFrom 0 s.cores = true ∧
    (∀ k, 0x40 ≤ k → k < 0x1000 → getR s (Pg.sig c) k = getR s₀ (Pg.sig c) k) ∧
    (∀ i, bit (getR s₀ (Pg.cor c) R.HDR_FAULT) i = true → bit (getR s (Pg.cor c) R.HDR_FAULT) i = true) ∧
    ((coreAt s₀ c).holds = [] → (coreAt s c).holds = [])

variable {F : Fuses} {c : Nat} {s₀ s : State}

theorem SiteKept.refl (h : Sound F s) (hc : c < nSites) : SiteKept c s s :=
  ⟨hc, h.regs_sorted, h.cores_sorted, fun _ _ _ => rfl, fun _ => id, id⟩

/-- An update of other fields than the registers and the cores. -/
protected theorem SiteKept.frame
    {inReset testEn tripped capt selfFailed testEnded wbuf time timePend timeFrac pwr ptns snap prec psave arrs bist vecs movers gths bars
    ops unitJobs opWait opTurn peakAll peaks nextTxn netmMasks reds redWait tagCache redDead homes standIn slices cache dirs heights dram
    badGlz ueLines keepPools keepRecs heldReqs ports grps unreach mcasts twn ringStage msgRings ann alm recCopies report tap pending outbox
    freeCtr} (h : SiteKept c s₀ s) : SiteKept c s₀ { s with
      inReset := inReset, testEn := testEn, tripped := tripped, capt := capt, selfFailed := selfFailed, testEnded := testEnded, wbuf := wbuf,
      time := time, timePend := timePend, timeFrac := timeFrac, pwr := pwr, ptns := ptns, snap := snap, prec := prec, psave := psave, arrs := arrs,
      bist := bist, vecs := vecs, movers := movers, gths := gths, bars := bars, ops := ops, unitJobs := unitJobs, opWait := opWait,
      opTurn := opTurn, peakAll := peakAll, peaks := peaks, nextTxn := nextTxn, netmMasks := netmMasks, reds := reds, redWait := redWait,
      tagCache := tagCache, redDead := redDead, homes := homes, standIn := standIn, slices := slices, cache := cache, dirs := dirs,
      heights := heights, dram := dram, badGlz := badGlz, ueLines := ueLines, keepPools := keepPools, keepRecs := keepRecs, heldReqs := heldReqs,
      ports := ports, grps := grps, unreach := unreach, mcasts := mcasts, twn := twn, ringStage := ringStage, msgRings := msgRings, ann := ann,
      alm := alm, recCopies := recCopies, report := report, tap := tap, pending := pending, outbox := outbox, freeCtr := freeCtr } := h

protected theorem SiteKept.setR {pg o v} (h : SiteKept c s₀ s) (ha : Apart pg o) : SiteKept c s₀ (setR pg o v s) := by
  obtain ⟨hc, hregs, hcores, hsig, hcause, hidle⟩ := h
  refine ⟨hc, Tab.sorted_store _ _ _ _ hregs, hcores, fun k hlo hhi => ?_, fun i h0 => ?_, hidle⟩
  · exact (getR_setR_ne (ha.sig_ne hc hlo hhi)).trans (hsig k hlo hhi)
  · rw [getR_setR_ne (ha.fault_ne hc)]
    exact hcause i h0

/-- A page records causes beside those that it has recorded (R69). -/
theorem SiteKept.setFault {pg v} (h : SiteKept c s₀ s) (hv : ∀ i, bit (getR s pg R.HDR_FAULT) i = true → bit v i = true) :
    SiteKept c s₀ (Machine.setR pg R.HDR_FAULT v s) := by
  obtain ⟨hc, hregs, hcores, hsig, hcause, hidle⟩ := h
  refine ⟨hc, Tab.sorted_store _ _ _ _ hregs, hcores, fun k hlo hhi => ?_, fun i h0 => ?_, hidle⟩
  · have hkey : regKey (Pg.sig c) k ≠ regKey pg 0x014 := fun he => by
      have := regKey_mod pg 0x014
      have := regKey_mod (Pg.sig c) k
      omega
    exact (getR_setR_ne hkey).trans (hsig k hlo hhi)
  · by_cases hkey : regKey (Pg.cor c) R.HDR_FAULT = regKey pg R.HDR_FAULT
    · have hread (t : State) : getR t (Pg.cor c) R.HDR_FAULT = getR t pg R.HDR_FAULT := by rw [getR, getR, hkey]
      have hstored : getR (Machine.setR pg R.HDR_FAULT v s) pg R.HDR_FAULT = v := Tab.get_store_same _ _ _ v hregs
      rw [hread, hstored]
      exact hv i (hread s ▸ hcause i h0)
    · rw [getR_setR_ne hkey]
      exact hcause i h0

/-- The units of a core drop what they hold. -/
theorem SiteKept.dropHeld (k : Nat) (h : SiteKept c s₀ s) : SiteKept c s₀ (updCore k (fun x => { x with holds := [] }) s) := by
  obtain ⟨hc, hregs, hcores, hsig, hcause, hidle⟩ := h
  refine ⟨hc, hregs, Tab.sorted_store _ _ _ _ hcores, hsig, hcause, fun h0 => ?_⟩
  by_cases he : c = k
  · subst he
    exact congrArg Core.holds (Tab.get_store_same _ _ _ _ hcores)
  · exact (congrArg Core.holds (coreAt_updCore_ne _ he)).trans (hidle h0)

/-! ### Branches, folds and register operations -/

protected theorem SiteKept.ite {p : Prop} [Decidable p] {a b : State} (ha : SiteKept c s₀ a) (hb : SiteKept c s₀ b) :
    SiteKept c s₀ (if p then a else b) := by
  split
  · exact ha
  · exact hb

protected theorem SiteKept.ite₂ {α : Type} {p : Prop} [Decidable p] {a b : α × State} (ha : SiteKept c s₀ a.2) (hb : SiteKept c s₀ b.2) :
    SiteKept c s₀ (if p then a else b).2 := by
  split
  · exact ha
  · exact hb

/-- One step further on a state that is used more than once. -/
protected theorem SiteKept.bind {t : State} (h : SiteKept c s₀ s) (f : SiteKept c s₀ s → SiteKept c s₀ t) : SiteKept c s₀ t := f h

protected theorem SiteKept.foldS {α : Type} {f : α → State → State} (h : SiteKept c s₀ s)
    (hf : ∀ a s, SiteKept c s₀ s → SiteKept c s₀ (f a s)) {l : List α} : SiteKept c s₀ (foldS f l s) := by
  induction l generalizing s with
  | nil => exact h
  | cons a t ih => exact ih (hf a s h)

protected theorem SiteKept.foldl₂ {α β : Type} {f : β × State → α → β × State} {b : β} (h : SiteKept c s₀ s)
    (hf : ∀ p a, SiteKept c s₀ p.2 → SiteKept c s₀ (f p a).2) {l : List α} : SiteKept c s₀ (l.foldl f (b, s)).2 :=
  List.foldlRecOn (motive := fun p => SiteKept c s₀ p.2) l f h fun p h a _ => hf p a h

section
variable {pg o : Nat} (h : SiteKept c s₀ s) (ha : Apart pg o)
include h ha

protected theorem SiteKept.setF {lo len v} : SiteKept c s₀ (setF pg o lo len v s) := h.setR ha
protected theorem SiteKept.wrapR {k} : SiteKept c s₀ (wrapR pg o k s) := h.setR ha
protected theorem SiteKept.satR {k} : SiteKept c s₀ (satR pg o k s) := h.setR ha
protected theorem SiteKept.firstR {v} : SiteKept c s₀ (firstR pg o v s) := .ite h (h.setR ha)
protected theorem SiteKept.satFree : SiteKept c s₀ (satFree pg o s) := h.frame.setR ha

end

/-- A header register other than HDR_FAULT, of any page. -/
theorem Apart.hdr {pg : Nat} (o : Nat) (ho : o < 0x40 := by decide) (hf : o ≠ R.HDR_FAULT := by decide) : Apart pg o := .header ho hf
theorem Apart.dir (o : Nat) (ho : o < 0x1000 := by decide) (hf : o ≠ R.HDR_FAULT := by decide) : Apart Pg.dir o := .low (by decide) ho hf
theorem Apart.ann (o : Nat) (ho : o < 0x1000 := by decide) (hf : o ≠ R.HDR_FAULT := by decide) : Apart Pg.ann o := .low (by decide) ho hf
theorem Apart.core {k : Nat} (o : Nat) (ho : o < 0x1000 := by decide) (hf : o ≠ R.HDR_FAULT := by decide) : Apart (Pg.cor k) o := .cor ho hf
theorem Apart.slc {i o : Nat} : Apart (Pg.slc i) o := .high (Nat.le_add_right ..)
theorem Apart.lst {p o : Nat} : Apart (Pg.lst p) o := .high (show 0x2000 ≤ 0x3001 + 4 * p by omega)
theorem Apart.lkg {g o : Nat} : Apart (Pg.lkg g) o := .high (show 0x2000 ≤ 0x3400 + g by omega)
theorem Apart.dbl {d o : Nat} : Apart (Pg.dbl d) o := .high (show 0x2000 ≤ 0x4000 + d by omega)
theorem Apart.netb {o : Nat} : Apart Pg.netb o := .high (by decide)
theorem Apart.nets {o : Nat} : Apart Pg.nets o := .high (by decide)

/-! ### Block states and partitions -/

protected theorem SiteKept.updPtn {p f} (h : SiteKept c s₀ s) : SiteKept c s₀ (updPtn p f s) := h.frame

protected theorem SiteKept.setReady {pg on} (h : SiteKept c s₀ s) : SiteKept c s₀ (setReady pg on s) :=
  .ite h (((h.setR (.hdr R.HDR_READY)).setR (.dir R.DIR_READY_COUNT)).wrapR (.dir R.DIR_READY_SEQ))

protected theorem SiteKept.setBState {pg st} (h : SiteKept c s₀ s) : SiteKept c s₀ (setBState pg st s) :=
  (h.setR (.hdr R.HDR_STATE)).bind fun h => (SiteKept.ite (SiteKept.ite h h.frame) h).bind fun h =>
    (SiteKept.ite (h.setR (.hdr R.HDR_READY)) h).bind fun h => (SiteKept.ite (h.satR (.hdr R.HDR_STARTS)) h).bind fun h => .ite h.setReady h

protected theorem SiteKept.unfreeze {p} (h : SiteKept c s₀ s) : SiteKept c s₀ (unfreeze p s) :=
  (SiteKept.ite (h.foldS fun _ _ h => h.satFree (.core R.COR_FROZEN_CC)) h).frame

/-! ### Messages to other dies -/

protected theorem SiteKept.putFrame {port item} (h : SiteKept c s₀ s) : SiteKept c s₀ (putFrame port item s) := h.frame.wrapR .lst

protected theorem SiteKept.flushN {n port} (h : SiteKept c s₀ s) : SiteKept c s₀ (flushN n port s) := by
  induction n generalizing s with
  | zero => exact h
  | succ n ih =>
    unfold flushN
    split
    · exact h
    · exact ih h.frame.putFrame

protected theorem SiteKept.portPush {port cls n} (h : SiteKept c s₀ s) : SiteKept c s₀ (portPush port cls n s) := by
  induction n generalizing s with
  | zero => exact h
  | succ n ih => exact ih h.frame.flushN

protected theorem SiteKept.groupPost {g hash cls len m} (h : SiteKept c s₀ s) : SiteKept c s₀ (groupPost g hash cls len m s) := by
  unfold groupPost
  split
  · exact h.portPush.frame
  · exact h.frame

protected theorem SiteKept.post {d hash cls len m} (h : SiteKept c s₀ s) : SiteKept c s₀ (post d hash cls len m s).2 := by
  unfold post
  split
  · exact .ite₂ h h.groupPost
  · exact (h.satR .lkg).firstR .lkg

protected theorem SiteKept.postFlit {d f} (h : SiteKept c s₀ s) : SiteKept c s₀ (postFlit d f s).2 := .ite₂ h.post h.post

/-! ### Directories and twins -/

protected theorem SiteKept.setDir {i line l} (h : SiteKept c s₀ s) : SiteKept c s₀ (setDir i line l s) := h.frame.setR .slc

protected theorem SiteKept.sendInvs {i a sharers} (h : SiteKept c s₀ s) : SiteKept c s₀ (sendInvs i a sharers s).2 :=
  h.foldl₂ fun _ _ h => by exact .ite₂ (.ite₂ (h.postFlit.wrapR .slc) h) h

protected theorem SiteKept.dirWrite {i line a} (h : SiteKept c s₀ s) : SiteKept c s₀ (dirWrite i line a s).2 := by
  unfold dirWrite
  dsimp only
  split
  · exact .ite₂ h.sendInvs.setDir h.sendInvs.setDir
  · exact h

protected theorem SiteKept.dirSweep {i line a} (h : SiteKept c s₀ s) : SiteKept c s₀ (dirSweep i line a s) :=
  h.dirWrite.bind fun h => .ite h.setDir h

protected theorem SiteKept.shipSend {kind p q whr bs} (h : SiteKept c s₀ s) : SiteKept c s₀ (shipSend kind p q whr bs s) :=
  h.post.bind fun h => .ite h h.frame

protected theorem SiteKept.twinWrote {leaven a key} (h : SiteKept c s₀ s) : SiteKept c s₀ (twinWrote leaven a key s) :=
  .ite ((SiteKept.ite h.post h).bind fun h => .ite h (h.foldS fun _ _ h => .ite h.shipSend h)) h

protected theorem SiteKept.memPut {a bs} (h : SiteKept c s₀ s) : SiteKept c s₀ (memPut a bs s) := by
  unfold memPut
  dsimp only
  split
  · exact (SiteKept.ite h.frame h.frame).dirSweep.twinWrote
  · exact h

/-! ### Alarms -/

protected theorem SiteKept.annPut {off bs} (h : SiteKept c s₀ s) : SiteKept c s₀ (annPut off bs s) := h.frame
protected theorem SiteKept.annSeq (h : SiteKept c s₀ s) : SiteKept c s₀ (annSeq s).2 := h.frame

protected theorem SiteKept.ringClaim {r at_ len} (h : SiteKept c s₀ s) : SiteKept c s₀ (ringClaim r at_ len s) :=
  h.frame.bind fun h => .ite h (h.satR (by split <;> exact .ann _))

protected theorem SiteKept.ringPlace {r len} (h : SiteKept c s₀ s) : SiteKept c s₀ (ringPlace r len s).2 :=
  .ite₂ h ((SiteKept.ite h.ringClaim h).bind fun h => .ite h h.frame)

theorem Apart.ringHead (r : Nat) : Apart Pg.ann (ringHeadReg r) := by
  unfold ringHeadReg
  split <;> exact .ann _

protected theorem SiteKept.ringWrite {r bs} (h : SiteKept c s₀ s) : SiteKept c s₀ (ringWrite r bs s).2 :=
  h.ringPlace.ringClaim.annPut.frame.setR (.ringHead r)

protected theorem SiteKept.ringNotice {r newProd} (h : SiteKept c s₀ s) : SiteKept c s₀ (ringNotice r newProd s) := .ite h (h.post.wrapR .dbl)

protected theorem SiteKept.alarmPost {r bs} (h : SiteKept c s₀ s) : SiteKept c s₀ (alarmPost r bs s).2 :=
  .ite₂ (.ite₂ (.ite₂ (h.memPut.memPut.bind fun h => .ite h.ringNotice h) h.memPut) h) h

protected theorem SiteKept.alarmSend {route bs at_} (h : SiteKept c s₀ s) : SiteKept c s₀ (alarmSend route bs at_ s) :=
  (h.frame.wrapR (.ann R.ANN_MSGS)).bind fun h => (SiteKept.ite h.post h).bind fun h => (SiteKept.ite h.post h).bind fun h => .ite
    (.ite h.alarmPost h.alarmPost.frame) h

protected theorem SiteKept.incidentOpen (h : SiteKept c s₀ s) : SiteKept c s₀ (incidentOpen s) :=
  .ite h (((h.setF (.ann R.ANN_STATUS)).setF (.ann R.ANN_INCIDENT)).frame.bind fun h => .ite h
    ((h.setR (.ann R.ANN_INC_TIME_LO)).setR (.ann (R.ANN_INC_TIME_LO + 4))))

protected theorem SiteKept.alarmRecord {src code data count flags body} (h : SiteKept c s₀ s) :
    SiteKept c s₀ (alarmRecord src code data count flags body s).2.2 := by
  unfold alarmRecord
  dsimp only
  split
  · exact ((h.annSeq.wrapR (.ann R.ANN_ALARMS)).annPut.setF (.ann R.ANN_STATUS)).frame
  · dsimp only
    exact (h.annSeq.wrapR (.ann R.ANN_ALARMS)).ringWrite

protected theorem SiteKept.coalFill {i src code route at_ bs} (h : SiteKept c s₀ s) : SiteKept c s₀ (coalFill i src code route at_ bs s) :=
  h.annPut.frame

protected theorem SiteKept.coalCount {i n} (h : SiteKept c s₀ s) : SiteKept c s₀ (coalCount i n s) := h.annPut.frame

protected theorem SiteKept.coalesce {src code route at_ bs} (h : SiteKept c s₀ s) : SiteKept c s₀ (coalesce src code route at_ bs s) := by
  unfold coalesce
  split
  · exact .ite (h.coalCount.satR (.ann R.ANN_COALESCED)) (h.coalFill.satR (.ann R.ANN_COALESCED))
  · split
    · exact h.coalFill.satR (.ann R.ANN_COALESCED)
    · exact h.satR (.ann R.ANN_OTHER)

protected theorem SiteKept.alarmFull {pg code data urgent body} (h : SiteKept c s₀ s) : SiteKept c s₀ (alarmFull pg code data urgent body s) := by
  unfold alarmFull
  dsimp only
  split
  · split
    · exact h.incidentOpen.alarmRecord.alarmSend
    · exact h.incidentOpen.alarmRecord.coalesce
  · exact h.incidentOpen.alarmRecord

/-! ### Faults -/

protected theorem SiteKept.spanSend {typ b gen cause dst} (h : SiteKept c s₀ s) : SiteKept c s₀ (spanSend typ b gen cause dst s) :=
  h.post.wrapR .nets

protected theorem SiteKept.lvnNotice {d m} (h : SiteKept c s₀ s) : SiteKept c s₀ (lvnNotice d m s) := .ite h.frame h.post

protected theorem SiteKept.lvnNotices {commit p} (h : SiteKept c s₀ s) : SiteKept c s₀ (lvnNotices commit p s) :=
  (h.foldS fun _ _ h => h.lvnNotice).frame

protected theorem SiteKept.redDiscard {p} (h : SiteKept c s₀ s) : SiteKept c s₀ (redDiscard p s) :=
  (h.frame.setR .netb).bind fun h => .ite h (h.satR .netb)

protected theorem SiteKept.ptnFaulted {p} (h : SiteKept c s₀ s) : SiteKept c s₀ (ptnFaulted p s) :=
  .ite h ((h.foldS fun k _ => SiteKept.dropHeld k).unfreeze.redDiscard.frame.setR .dbl).lvnNotices.frame

/-- HDR_FAULT of a page with causes recorded beside those that it holds (R69). -/
def causesRecorded (pg bits : Nat) (s : State) : State := setR pg R.HDR_FAULT (BitVec.ofNat 32 (getN s pg R.HDR_FAULT ||| bits)) s

theorem ofNat_toNat_or (a : Word) (n : Nat) : BitVec.ofNat 32 (a.toNat ||| n) = a ||| BitVec.ofNat 32 n := by
  rw [BitVec.ofNat_or, BitVec.ofNat_toNat, BitVec.setWidth_eq]

theorem bit_or_left {a b : Word} {i : Nat} (h : bit a i = true) : bit (a ||| b) i = true := by
  rw [bit, BitVec.getLsbD_or, Bool.or_eq_true_iff]
  exact .inl h

protected theorem SiteKept.causesRecorded {pg bits} (h : SiteKept c s₀ s) : SiteKept c s₀ (causesRecorded pg bits s) :=
  h.setFault fun i hi => by
    rw [getN, ofNat_toNat_or]
    exact bit_or_left hi

/-- What a page brings about once its causes are recorded. -/
theorem SiteKept.recordPage_recorded {pg bits} (h : SiteKept c s₀ (Machine.causesRecorded pg bits s))
    (hst : ¬ (bstate s pg = B.absent ∨ bstate s pg = B.retired)) : SiteKept c s₀ (recordPage pg bits s).2 := by
  unfold recordPage
  rw [if_neg hst]
  extract_lets _ s₁ _ s₂ _ _ _ s₃ s₄ s₅
  have h₁ : SiteKept c s₀ s₁ := h
  have h₂ : SiteKept c s₀ s₂ := .ite h₁.setReady.frame h₁
  have h₄ : SiteKept c s₀ s₄ := h₂.setBState.alarmFull
  refine .ite₂ h₂ (.ite₂ (.ite₂ h₂ ?_) ?_)
  · dsimp only
    exact h₂.alarmFull
  · unfold s₅
    split
    · exact h₄.ptnFaulted
    · exact h₄

protected theorem SiteKept.recordPage {pg bits} (h : SiteKept c s₀ s) : SiteKept c s₀ (recordPage pg bits s).2 := by
  by_cases hst : bstate s pg = B.absent ∨ bstate s pg = B.retired
  · unfold recordPage
    rw [if_pos hst]
    exact h
  · exact h.causesRecorded.recordPage_recorded hst

protected theorem SiteKept.recordPtn {p cause} (h : SiteKept c s₀ s) : SiteKept c s₀ (recordPtn p cause s).2 := by
  unfold recordPtn
  dsimp only
  split
  · exact h
  · split
    · exact .ite₂ h h.updPtn
    · split
      · exact h.updPtn.setFault fun _ => bit_or_left
      · exact (h.redDiscard.unfreeze.setFault fun _ => bit_or_left).updPtn
      · exact h

protected theorem SiteKept.recordBar {b cause skip} (h : SiteKept c s₀ s) : SiteKept c s₀ (recordBar b cause skip s).2 :=
  .ite₂ ((h.frame.foldS fun _ _ h => h.spanSend).bind fun h => .ite₂ h h) (.ite₂ h.frame h)

protected theorem SiteKept.faultStep {e} (h : SiteKept c s₀ s) : SiteKept c s₀ (faultStep e s).2 := by
  cases e with
  | page => exact h.recordPage
  | ptn => exact h.recordPtn
  | bar => exact h.recordBar

protected theorem SiteKept.cascade {n es} (h : SiteKept c s₀ s) : SiteKept c s₀ (cascade n es s) := by
  induction n generalizing es s with
  | zero => exact h
  | succ n ih =>
    cases es with
    | nil => exact h
    | cons e t => exact ih h.faultStep

/-- A fault leaves of a site what each of its events leaves. -/
protected theorem SiteKept.fault {pg cause} (h : SiteKept c s₀ s) : SiteKept c s₀ (fault pg cause s) := h.cascade


/-! ### SIGOVF (R381, R411) -/

theorem bit_setBit_same (w : Word) {n : Nat} (hn : n < 32) : bit (setBit w n true) n = true := by
  rw [bit, setBit, if_pos rfl, BitVec.getLsbD_or, BitVec.getLsbD_ofNat, Nat.testBit_two_pow_self, decide_eq_true hn]
  exact Bool.or_true _

/-- A store elsewhere than at HDR_STATE's offset leaves the state of every block. -/
theorem bstate_setR_ne {pg o k : Nat} {v : Word} (ho : o % 4096 ≠ R.HDR_STATE) : bstate (setR pg o v s) k = bstate s k := by
  have hkey : regKey k R.HDR_STATE ≠ regKey pg o := fun he =>
    ho ((regKey_mod pg o).symm.trans ((congrArg (· % 4096) he.symm).trans (regKey_mod k _)))
  exact congrArg (fld · 0 3) (getR_setR_ne hkey)

theorem bstate_firstR_ne {pg o v k : Nat} (ho : o % 4096 ≠ R.HDR_STATE) : bstate (firstR pg o v s) k = bstate s k := by
  unfold firstR
  split
  · rfl
  · exact bstate_setR_ne ho

section
variable (h : Sound F s) (hc : c < nSites)
include h hc

/-- A cause that the COR page records is there once everything that it brings about is done. -/
theorem Sound.bit_fault_cor {n : Nat} (hn : n < 32) (habs : bstate s (Pg.cor c) ≠ B.absent) (hret : bstate s (Pg.cor c) ≠ B.retired) :
    bit (getR (Machine.fault (Pg.cor c) n s) (Pg.cor c) R.HDR_FAULT) n = true := by
  have hpage : SiteKept c (causesRecorded (Pg.cor c) (2 ^ n) s) (Machine.recordPage (Pg.cor c) (2 ^ n) s).2 :=
    (SiteKept.refl h.setR hc).recordPage_recorded (not_or.2 ⟨habs, hret⟩)
  obtain ⟨-, -, -, -, hcause, -⟩ : SiteKept c (causesRecorded (Pg.cor c) (2 ^ n) s) (Machine.fault (Pg.cor c) n s) := hpage.cascade
  refine hcause n ?_
  rw [causesRecorded, getR_setR_same h, getN, ofNat_toNat_or]
  exact bit_setBit_same _ hn

theorem Sound.bit_coreFault {code : Nat} (hcode : 7 + code < 32) (habs : bstate s (Pg.cor c) ≠ B.absent) (hret : bstate s (Pg.cor c) ≠ B.retired) :
    bit (getR (Machine.coreFault c code s) (Pg.cor c) R.HDR_FAULT) (7 + code) = true := by
  have hstate v : bstate (Machine.firstR (Pg.cor c) R.COR_ERR v s) (Pg.cor c) = bstate s (Pg.cor c) := bstate_firstR_ne (by decide)
  exact h.firstR.bit_fault_cor hc hcode (by rwa [hstate]) (by rwa [hstate])

theorem Sound.siteKept_coreFault (code : Nat) : SiteKept c s (Machine.coreFault c code s) :=
  ((SiteKept.refl h hc).firstR (.core R.COR_ERR)).fault

end

/-! ### A raise (R379, R381) -/

/-- The signal at the top, saturated (R381). -/
def sigTop (c n : Nat) (s : State) : State := setR (Pg.sig c) R.SIG_SAT (setBit (getR s (Pg.sig c) R.SIG_SAT) n true) (setSig c n 0xFFFFFFFF s)

/-- Where nothing is held no wait is satisfied. -/
theorem sigSatisfy_idle {n : Nat} (h : (coreAt s c).holds = []) : sigSatisfy c n s = s := by simp [sigSatisfy, h]

theorem raiseSig_beyond {n k : Nat} (h : 0xFFFFFFFF < sigCount s c n + k) : raiseSig c n k s = sigSatisfy c n (coreFault c 6 (sigTop c n s)) :=
  congrArg (sigSatisfy c n) (if_pos h)

protected theorem Sound.sigTop {n : Nat} (h : Sound F s) : Sound F (sigTop c n s) := h.setSig.setR

section
variable {n : Nat} (hn : n < 32)
include hn

theorem Sound.getR_sigTop_count (h : Sound F s) : getR (Machine.sigTop c n s) (Pg.sig c) (R.SIG_COUNT0 + 4 * n) = 0xFFFFFFFF := by
  have hkey : regKey (Pg.sig c) (0x040 + 4 * n) ≠ regKey (Pg.sig c) 0x0C0 := fun he => by
    have := regKey_mod (Pg.sig c) (0x040 + 4 * n)
    have := regKey_mod (Pg.sig c) 0x0C0
    omega
  exact (getR_setR_ne hkey).trans (getR_setR_same h)

theorem Sound.bit_sigTop_sat (h : Sound F s) : bit (getR (Machine.sigTop c n s) (Pg.sig c) R.SIG_SAT) n = true := by
  rw [Machine.sigTop, getR_setR_same h.setSig]
  exact bit_setBit_same _ hn

theorem bstate_sigTop (k : Nat) : bstate (sigTop c n s) k = bstate s k := by
  have hcount : (0x040 + 4 * n) % 4096 ≠ 0x008 := by omega
  exact (bstate_setR_ne (by decide)).trans (bstate_setR_ne hcount)

end

/-- Settles O13: the signal is at the top before SIGOVF is recorded, and the fault leaves it there. -/
theorem aRaisePastTheTopSaturates : Obligations.ARaisePastTheTopSaturates := by
  intro F s c sig hs hr hc hidle hq habs hret htop
  have hn : sig.toNat < 32 := sig.isLt
  have hfree : unitHolds (coreAt s c) 0 = false := by rw [unitHolds, hidle]; rfl
  have hbeyond : 0xFFFFFFFF < sigCount s c sig.toNat + 1 := by rw [sigCount, getN, htop]; decide
  obtain ⟨-, -, -, hsig, -, hholds⟩ := hs.sigTop.siteKept_coreFault hc 6
  have hraise : raiseAt c sig (coreAt s c).steps s = coreFault c 6 (sigTop c sig.toNat s) :=
    (raiseSig_beyond hbeyond).trans (sigSatisfy_idle (hholds hidle))
  refine ⟨_, onUnit_gives hr hc ((cOp_free hq hfree _ _).trans hraise), ?_, ?_, ?_⟩
  · exact (hsig _ (Nat.le_add_right ..) (show 0x040 + 4 * sig.toNat < 0x1000 by omega)).trans (hs.getR_sigTop_count hn)
  · rw [hsig _ (by decide) (by decide)]
    exact hs.bit_sigTop_sat hn
  · exact hs.sigTop.bit_coreFault hc (by decide) (by rwa [bstate_sigTop hn]) (by rwa [bstate_sigTop hn])

end Sys2Proof.Machine

/-! Arrivals of cores at a barrier (O14): what the state of the barrier makes of one, and what a met barrier without a parent does (R470 to R485). -/

namespace Sys2Proof.Machine

variable {s : State} {p n b k : Nat}

/-! ### The registers of a barrier beside the counters of the sync network (R462, R508) -/

theorem getR_bar_netsCount {o : Nat} (ho : o < 0x80) :
    getR (wrapR Pg.nets R.NETS_MSGS k s) (barPage b) (barOff b o) = getR s (barPage b) (barOff b o) := by
  refine getR_setR_ne fun he => ?_
  have hbar := regKey_mod (barPage b) (barOff b o)
  have hcount := regKey_mod Pg.nets R.NETS_MSGS
  simp only [barOff, R.NETS_MSGS] at hbar hcount he
  omega

theorem barEn_netsCount : barEn (wrapR Pg.nets R.NETS_MSGS k s) b = barEn s b :=
  congrArg (bit · 31) (getR_bar_netsCount (by decide))

theorem barPtn_netsCount : barPtn (wrapR Pg.nets R.NETS_MSGS k s) b = barPtn s b :=
  congrArg (fld · 16 4) (getR_bar_netsCount (by decide))

theorem barTarget_netsCount : barTarget (wrapR Pg.nets R.NETS_MSGS k s) b = barTarget s b :=
  congrArg (fld · 0 16) (getR_bar_netsCount (by decide))

theorem barMask_netsCount : barMask (wrapR Pg.nets R.NETS_MSGS k s) b = barMask s b := by
  have hword {o : Nat} (ho : o < 0x80) : getN (wrapR Pg.nets R.NETS_MSGS k s) (barPage b) (barOff b o) = getN s (barPage b) (barOff b o) :=
    congrArg BitVec.toNat (getR_bar_netsCount ho)
  simp only [barMask, hword (show R.CAL_MASK0 < 0x80 by decide), hword (show R.CAL_MASK1 < 0x80 by decide),
    hword (show R.CAL_MASK2 < 0x80 by decide), hword (show R.CAL_MASK3 < 0x80 by decide)]

theorem barMember_netsCount {m : Nat} (hm : m < 0x1A) : barMember (wrapR Pg.nets R.NETS_MSGS k s) b m = barMember s b m := by
  have ho : R.CAL_PARENT + 4 * m < 0x80 := by
    simp only [R.CAL_PARENT]
    omega
  rw [barMember, barMember, getR_bar_netsCount ho]

/-! ### A barrier that is met (R474 to R476) -/

/-- Whatever the table held, a barrier that is not as at reset is read back. -/
theorem barAt_setBar_same {x : Bar} (hx : x ≠ Bar.init) : barAt (setBar b x s) b = x := by
  simp [barAt, setBar, Tab.store, hx, Tab.get, Tab.find_put_same]

theorem barCheck_unmet (h : barMet s b = false) : barCheck k b s = s := by
  cases k with
  | zero => rfl
  | succ k => exact if_neg (by simp [h])

theorem barCheck_releases (hopen : (barAt s b).st = 1) (hmet : barMet s b = true) (hroot : barMember s b 0 = none) :
    barCheck (k + 1) b s = barCheck k b (barRelease b (setBar b { barAt s b with metAt := some ((barAt s b).metAt.getD s.time) } s)) := by
  rw [barCheck, if_pos ⟨hopen, hmet⟩, hroot]

/-! ### An arrival at an Open barrier (R470, R473) -/

/-- A barrier at which core `n` has arrived toward the current generation. -/
def Bar.joined (x : Bar) (n : Nat) : Bar := { x with n0 := x.n0 + 1, who0 := x.who0 ++ [n], open_ := x.open_ ++ [(n, x.gen)] }

theorem Bar.ne_init_of_st {x : Bar} (h : x.st ≠ 0) : x ≠ Bar.init := fun he => h (he ▸ rfl)

section
variable (htarget : barTarget s b = 0)
include htarget

theorem barArriveOpen_first (h0 : n ∉ (barAt s b).who0) : barArriveOpen b n s = barCount b n false s := by simp [barArriveOpen, htarget, h0]

theorem barArriveOpen_next (h0 : n ∈ (barAt s b).who0) (h1 : n ∉ (barAt s b).who1) : barArriveOpen b n s = barCount b n true s := by
  simp [barArriveOpen, htarget, h0, h1]

theorem barArriveOpen_again (h0 : n ∈ (barAt s b).who0) (h1 : n ∈ (barAt s b).who1) : barArriveOpen b n s = barSaturate b s := by
  simp [barArriveOpen, htarget, h0, h1]

end

section
variable (hn : n < 120)
include hn

theorem barCount_core : barCount b n false s = barCheck 3 b (setBar b ((barAt s b).joined n) s) := by simp [barCount, hn, Bar.joined]

theorem barCount_core_unmet (h : barMet (setBar b ((barAt s b).joined n) s) b = false) :
    barCount b n false s = setBar b ((barAt s b).joined n) s := by rw [barCount_core hn, barCheck_unmet h]

theorem barCount_core_met (hopen : (barAt s b).st = 1) (hnew : (barAt s b).metAt = none)
    (h : barMet (setBar b ((barAt s b).joined n) s) b = true) (hroot : barMember s b 0 = none) :
    barCount b n false s =
      barCheck 2 b (barRelease b (setBar b { (barAt s b).joined n with metAt := some s.time } (setBar b ((barAt s b).joined n) s))) := by
  have hread : barAt (setBar b ((barAt s b).joined n) s) b = (barAt s b).joined n :=
    barAt_setBar_same (Bar.ne_init_of_st (show (barAt s b).st ≠ 0 by simp [hopen]))
  have hwhen : ((barAt s b).joined n).metAt = none := hnew
  rw [barCount_core hn, barCheck_releases (by rw [hread]; exact hopen) h hroot, hread, hwhen]
  rfl

end

/-! ### By the state of the barrier (R459, R467, R483, R485) -/

theorem coreArrive_disabled (h : (barAt s b).st = 0) :
    coreArrive p n b false s = ptnFault p PC.barrier (wrapR Pg.nets R.NETS_MSGS 1 s) := by
  have hst : (barAt (wrapR Pg.nets R.NETS_MSGS 1 s) b).st = 0 := h
  simp [coreArrive, hst]

section
variable (hen : barEn s b = true)
include hen

/-- An arrival at an enabled barrier of the partition whose state is not Disabled. -/
theorem coreArrive_enabled (hst : (barAt s b).st ≠ 0) :
    coreArrive (barPtn s b) n b false s =
      (let t := wrapR Pg.nets R.NETS_MSGS 1 s
       if (barAt s b).st ≠ 1 then calStale b t
       else if (barMask s b).testBit n then barArriveOpen b n t else raise (.bar b BC.stray none) t) := by
  have hst1 : (barAt (wrapR Pg.nets R.NETS_MSGS 1 s) b).st = (barAt s b).st := rfl
  simp [coreArrive, hst1, hst, barEn_netsCount, barPtn_netsCount, barMask_netsCount, hen]

theorem coreArrive_stale (hst : (barAt s b).st = 2 ∨ (barAt s b).st = 3) :
    coreArrive (barPtn s b) n b false s = calStale b (wrapR Pg.nets R.NETS_MSGS 1 s) := by
  rw [coreArrive_enabled hen (by omega)]
  exact if_pos (by omega)

theorem coreArrive_stray (hst : (barAt s b).st = 1) (hn : (barMask s b).testBit n = false) :
    coreArrive (barPtn s b) n b false s = raise (.bar b BC.stray none) (wrapR Pg.nets R.NETS_MSGS 1 s) := by
  simp [coreArrive_enabled hen, hst, hn]

theorem coreArrive_open (hst : (barAt s b).st = 1) (hn : (barMask s b).testBit n = true) :
    coreArrive (barPtn s b) n b false s = barArriveOpen b n (wrapR Pg.nets R.NETS_MSGS 1 s) := by
  simp [coreArrive_enabled hen, hst, hn]

end

/-- Settles O14, from the equation of each case. -/
theorem barrierArrivalsCount : Obligations.BarrierArrivalsCount := by
  rintro s _ n b hen rfl s1 x y met
  refine ⟨if_pos rfl, coreArrive_disabled, coreArrive_stale hen, coreArrive_stray hen, fun hst hlisted hn htarget => ?_⟩
  have htarget1 : barTarget s1 b = 0 := barTarget_netsCount.trans htarget
  rw [coreArrive_open hen hst hlisted]
  refine ⟨fun h0 hunmet => ?_, fun h0 hmet hroot hnew => ?_, barArriveOpen_again htarget1, barArriveOpen_next htarget1⟩
  · exact (barArriveOpen_first htarget1 h0).trans (barCount_core_unmet hn hunmet)
  · exact (barArriveOpen_first htarget1 h0).trans (barCount_core_met hn hst hnew hmet ((barMember_netsCount (by decide)).trans hroot))

end Sys2Proof.Machine

/-! A multicast (O26): its targets that are missed or dropped, its copies that are held or written, the flit that opens its row, and the end of its
row (R432 to R439, R463). -/

namespace Sys2Proof.Machine

variable {s : State} {f : Flit} {k : Nat × Nat} {r : Mcast} {bl : BitVec 120} {n o c : Nat} {l : List Nat}

/-! ### Targets that miss, copies that are dropped or held (R437, R438) -/

/-- Target `n` of a row is marked missed and counted (R438). -/
def mcMark (k : Nat × Nat) (n : Nat) (s : State) : State :=
  updMc k (fun m => { m with missed := setBit m.missed n true }) (satR Pg.netm R.NETM_MC_MISSED 1 s)

theorem mcMiss_new (hr : mcRow s k = some r) (h : bit r.missed n = false) : mcMiss k n s = mcMark k n s := by simp [mcMiss, hr, h, mcMark]

theorem mcMiss_again (hr : mcRow s k = some r) (h : bit r.missed n = true) : mcMiss k n s = s := by simp [mcMiss, hr, h]

theorem mcDrop_row (hr : mcRow s k = some r) :
    mcDrop k (n :: l) s = foldS (mcMiss k) (n :: l)
      (updMc k (fun m => { m with dropped := (n :: l).foldl (fun d t => setBit d t true) m.dropped, held := m.held.filter (fun h => !((n :: l).contains h.1)) })
        (firstR Pg.netm R.NETM_LAST_DROP (r.grp * 256 + n) (satR Pg.netm R.NETM_MC_DROPS 1 s))) := by
  simp only [mcDrop, hr]

section
variable (ho : o ≠ mcSrc)
include ho

theorem mcHold_disabled (h : getF s Pg.netm R.NETM_MC_HOLD 0 16 = 0) : mcHold o l f s = mcDrop (mcKey f) l s := if_pos ⟨ho, h⟩

theorem mcHold_holds (h : getF s Pg.netm R.NETM_MC_HOLD 0 16 ≠ 0) :
    mcHold o l f s = satR Pg.netm R.NETM_MC_HOLDS 1 (updMc (mcKey f) (fun m => { m with held := m.held ++ [(o, f)] }) s) := by
  simp only [mcHold, if_neg (fun hz : o ≠ mcSrc ∧ _ = 0 => h hz.2), if_neg ho]

end

/-! ### A copy at its target (R436, R438) -/

/-- Offset in the scratchpad of the block of a flit. -/
abbrev mcOff (f : Flit) : Nat := f.addr.toNat / 128 * 128

theorem mcTarget_blocked (h : bit bl n = true) : mcTarget bl f n s = mcHold n [n] f s := if_pos (.inl h)

section
variable (h : bit bl n = false) (hfree : mcCount s n f = 0) (hc : siteOf s n = some c)
include h hfree hc

theorem mcTarget_written (hfit : mcOff f + 128 ≤ sizeOfSite s c) :
    mcTarget bl f n s = setCore c (spadPut (coreAt s c) (mcOff f) (bytesOf 128 f.data.toNat)) s := by
  have hwrite : mcWrite n f s = (true, setCore c (spadPut (coreAt s c) (mcOff f) (bytesOf 128 f.data.toNat)) s) := by
    simp only [mcWrite, hc, if_pos hfit, updCore]
  simp [mcTarget, h, hfree, hwrite]

theorem mcTarget_short (hfit : sizeOfSite s c < mcOff f + 128) : mcTarget bl f n s = mcMiss (mcKey f) n s := by
  have hwrite : mcWrite n f s = (false, s) := by simp only [mcWrite, hc, if_neg (Nat.not_le.2 hfit)]
  simp [mcTarget, h, hfree, hwrite]

end

/-! ### While no copy is held -/

/-- Every copy that is held, with its output. -/
def mcHolds (s : State) : List (Nat × Flit) := s.mcasts.flatMap (·.held)

theorem mcHolds_mcMiss : mcHolds (mcMiss k n s) = mcHolds s := by
  have hrow (m : Mcast) : (if m.ep = k.1 ∧ m.txn = k.2 then { m with missed := setBit m.missed n true } else m).held = m.held := by split <;> rfl
  unfold mcMiss
  split
  · rfl
  · split
    · rfl
    · simp [mcHolds, updMc, List.flatMap_map, hrow]

section
variable (h : mcHolds s = [])
include h

theorem mcHeldAt_idle (p : Nat → Bool) : mcHeldAt s p = [] := congrArg (List.filter _) h

theorem mcCount_idle : mcCount s o f = 0 := congrArg (fun q => (List.filter _ q).length) h

theorem mcRelease_idle : mcRelease bl s = s := by rw [mcRelease, mcHeldAt_idle h, foldS]

theorem mcAdvance_idle : mcAdvance bl s = s := by simp only [mcAdvance, mcHeldAt_idle h, foldS]

theorem mcLeafRoom_idle (leaf : Nat) : mcLeafRoom s bl f r leaf = true := by simp [mcLeafRoom, mcCount_idle h]

theorem mcSourceRoom_idle : mcSourceRoom s bl f r = true := by
  simp only [mcSourceRoom, mcCount_idle h, mcLeafRoom_idle h]
  split <;> rfl

end

/-! ### A multicast flit, by the state of NETB (R86, R432) -/

theorem mcOp_starting (hecc : f.ecc = 0) (h : bstate s Pg.netb = B.starting) : mcOp f bl s = { s with heldReqs := s.heldReqs ++ [(Pg.netb, f)] } := by
  simp [mcOp, headerOk_sound hecc, h]

theorem mcOp_closed (hecc : f.ecc = 0) (hstart : bstate s Pg.netb ≠ B.starting) (hrun : bstate s Pg.netb ≠ B.running)
    (hstop : bstate s Pg.netb ≠ B.stopping) : mcOp f bl s = mcReport f 1 0 s := by
  simp [mcOp, headerOk_sound hecc, hstart, hrun, hstop]

/-! ### The flit that opens a row (R436, R439) -/

/-- The row of the multicast of `f`, before its first flit. -/
def mcOpened (s : State) (f : Flit) : Mcast :=
  { ep := (mcKey f).1, txn := (mcKey f).2, grp := f.rtag.toNat / 256, mask := BitVec.ofNat 120 (netmMask s (f.rtag.toNat / 256)), missed := 0,
    dropped := 0, seen := [], held := [], last := none }

/-- That row with `f` seen. -/
def mcEntered (s : State) (f : Flit) : Mcast := { mcOpened s f with seen := [f.addr.toNat], last := if f.last then some f else none }

/-- A multicast has begun, and its row is the only one (R463). -/
def mcOnly (s : State) (r : Mcast) : State := { wrapR Pg.netm R.NETM_MC_SENT 1 s with mcasts := [r] }

/-- The targets that a flit cannot reach are missed (R438, R439). -/
def mcMissGone (f : Flit) (l : List Nat) (s : State) : State :=
  foldS (fun q u => if mcGone u q ∨ pushShut u f q then mcMiss (mcKey f) q u else u) l s

theorem mcHolds_mcMissGone : mcHolds (mcMissGone f l s) = mcHolds s := by
  refine foldS_keeps mcHolds (fun q u => ?_) l s
  split
  · exact mcHolds_mcMiss
  · rfl

theorem mcRow_mcOnly : mcRow (mcOnly s (mcOpened s f)) (mcKey f) = some (mcOpened s f) := by simp [mcRow, mcOnly, mcOpened]

theorem updMc_mcOnly :
    updMc (mcKey f) (fun m => { m with seen := m.seen ++ [f.addr.toNat], last := if f.last then some f else m.last }) (mcOnly s (mcOpened s f)) =
      mcOnly s (mcEntered s f) := by
  simp [updMc, mcOnly, mcOpened, mcEntered]

/-- Nothing is held before the flit, so it enters its source leaf at once. -/
theorem mcOp_opens (hecc : f.ecc = 0) (hrun : bstate s Pg.netb = B.running) (hnone : s.mcasts = []) :
    mcOp f bl s = mcSettle (mcSourceGo bl f (mcMissGone f (bitsSet 120 (mcOpened s f).mask.toNat) (mcOnly s (mcEntered s f)))) := by
  have hnew : mcRow s (mcKey f) = none := by simp [mcRow, hnone]
  have hopen : wrapR Pg.netm R.NETM_MC_SENT 1 { s with mcasts := s.mcasts ++ [mcOpened s f] } = mcOnly s (mcOpened s f) := by
    rw [hnone]
    rfl
  have hidle : mcHolds (mcOnly s (mcOpened s f)) = [] := rfl
  have hfresh : (mcOpened s f).seen.contains f.addr.toNat = false := rfl
  have hidle' : mcHolds (mcMissGone f (bitsSet 120 (mcOpened s f).mask.toNat) (mcOnly s (mcEntered s f))) = [] := mcHolds_mcMissGone
  unfold mcMissGone at hidle' ⊢
  have hstarted : ¬ bstate s Pg.netb = B.starting := by simp [hrun]
  have hserves : ¬ (bstate s Pg.netb ≠ B.running ∧ bstate s Pg.netb ≠ B.stopping) := fun h => h.1 hrun
  simp only [mcOp, headerOk_sound hecc, if_neg hstarted, if_neg hserves, hnew, ← mcOpened.eq_def s f, hopen, mcRelease_idle hidle, mcAdvance_idle hidle,
    mcRow_mcOnly, hfresh, updMc_mcOnly, mcCount_idle hidle', mcSourceRoom_idle hidle', if_true, decide_true, Bool.and_true, Bool.false_eq_true, if_false]

/-! ### The hold runs out (R437, R438) -/

theorem mcExpire_target {txn : Nat} {rest : List Mcast} (hn : n < 128) (hrows : s.mcasts.filter (fun m => m.txn = txn) = r :: rest)
    (hheld : r.held.find? (fun h => h.1 = n) = some (n, f)) :
    mcExpire txn n s = mcSettle (mcAdvance 0 (mcDrop (mcKey f) [n] (mcUnhold n f s))) := by
  simp [mcExpire, hrows, hheld, mcBeneath, hn]

theorem mcExpire_none {txn : Nat} (h : ∀ m ∈ s.mcasts, m.txn ≠ txn) : mcExpire txn n s = s := by
  have hrows : s.mcasts.filter (fun m => m.txn = txn) = [] := by simpa using h
  simp [mcExpire, hrows]

/-! ### The delivery record (R391, R439) -/

theorem mcrepOp_record {q : Op} {e ser : Nat} {j : MoveDesc} (hecc : f.ecc = 0) (hstatus : f.status = 0) (hq : opFind s f = some q)
    (hkind : q.kind = .mcastRow c e ser) (hj : (moverAt s c (e = 1)).jobs.find? (fun d => d.serial = ser) = some j) :
    mcrepOp f s =
      (let m := f.data.toNat % 2 ^ 120
       let t := setCore c (spadPut (coreAt (opDone q s) c) (dSStride j.bits) (bytesOf 16 m)) (opDone q s)
       opDrain (jobOps c (e = 1) ser false 1 (if m = 0 then t else satR (Pg.mov c) R.MOV_MC_MISSES 1 t))) := by
  have hjob : (moverAt (opDone q s) c (e = 1)).jobs.find? (fun d => d.serial = ser) = some j := hj
  simp [mcrepOp, headerOk_sound hecc, hstatus, hq, hkind, hjob, updCore]

/-! ### A group's mask (R436, R463) -/

/-- A register of NETM as it stands in the write buffer. -/
def netmBuffered (s : State) (o : Nat) : Nat := (Tab.get 0 s.wbuf (regKey Pg.netm o)).toNat

theorem maskCommit_all {v : Word} (h : getF s Pg.netm R.NETM_SEL 0 8 = 0) : maskCommit v s = s := if_pos h

/-- The mask that a write of NETM_MASK3 commits. -/
def netmCommitted (v : Word) (s : State) : BitVec 120 :=
  BitVec.ofNat 120 (netmBuffered s R.NETM_MASK0 + netmBuffered s R.NETM_MASK1 * 2 ^ 32 + netmBuffered s R.NETM_MASK2 * 2 ^ 64 + (v.toNat % 2 ^ 24) * 2 ^ 96)

theorem maskCommit_group {v : Word} (h : getF s Pg.netm R.NETM_SEL 0 8 ≠ 0) :
    maskCommit v s = { s with netmMasks := Tab.store 0 s.netmMasks (getF s Pg.netm R.NETM_SEL 0 8) (netmCommitted v s) } := if_neg h

/-- Settles O26, from the equation of each case. A target missed because the block does not fit its scratchpad, and the outputs at which copies are
held, are the model's own readings (log entries 80 and 81, DEDUCED). -/
theorem multicastFlitsReachTheirTargets : Obligations.MulticastFlitsReachTheirTargets := by
  intro s f bl n c o l r v txn k a
  refine ⟨fun hr => ⟨mcMiss_new hr, mcMiss_again hr, mcDrop_row hr⟩, mcHold_disabled, mcHold_holds, mcTarget_blocked,
    fun h hfree hc => ⟨mcTarget_written h hfree hc, mcTarget_short h hfree hc⟩, fun hrst => ⟨fun hecc => ?_, fun hn => ⟨?_, ?_⟩, ?_, ?_⟩⟩
  · have gives {t} (h : mcOp f bl s = t) : Gives (.mc f bl) s t := h ▸ act_next hrst _
    exact ⟨fun h => gives (mcOp_starting hecc h), fun hstart hrun hstop => gives (mcOp_closed hecc hstart hrun hstop),
      fun hrun hnone => gives (mcOp_opens hecc hrun hnone)⟩
  · exact fun rest hrows hheld => onUnit_gives hrst hn (mcExpire_target (by omega) hrows hheld)
  · exact fun h => onUnit_gives hrst hn (mcExpire_none h)
  · intro q e ser j hecc hstatus hq hkind hj m s1 s2
    have hrep : mcrepOp f s = opDrain (jobOps c (e = 1) ser false 1 (if m = 0 then s2 else satR (Pg.mov c) R.MOV_MC_MISSES 1 s2)) :=
      mcrepOp_record hecc hstatus hq hkind hj
    exact hrep ▸ act_next hrst _
  · intro g w
    have gives {t} (h : maskCommit v s = t) : Gives (.netmMaskCommit v) s t := h ▸ act_next hrst _
    exact ⟨fun h => gives (maskCommit_all h), fun h => gives (maskCommit_group h)⟩

end Sys2Proof.Machine

/-! The sum of a reduction block (O27): the order of its contributors does not depend on the order of arrival. -/

namespace Sys2Proof.Machine

/-- A contribution put in its place among those that are in order. -/
def redPlace (a : List (Nat × Flit × Nat)) (p : Nat × Flit × Nat) : List (Nat × Flit × Nat) :=
  a.filter (fun q => q.1 ≤ p.1) ++ [p] ++ a.filter (fun q => p.1 < q.1)

theorem redPlace_perm (a : List (Nat × Flit × Nat)) (p : Nat × Flit × Nat) : (redPlace a p).Perm (p :: a) := by
  have hsplit : (a.filter (fun q => q.1 ≤ p.1) ++ a.filter (fun q => p.1 < q.1)).Perm a := by
    simpa [← decide_not] using List.filter_append_perm (fun q : Nat × Flit × Nat => decide (q.1 ≤ p.1)) a
  rw [redPlace, List.append_assoc]
  exact List.perm_middle.trans (hsplit.cons p)

theorem redPlace_sorted {a : List (Nat × Flit × Nat)} (h : a.Pairwise (fun x y => x.1 ≤ y.1)) (p : Nat × Flit × Nat) :
    (redPlace a p).Pairwise (fun x y => x.1 ≤ y.1) := by
  have hlow : (a.filter (fun q => q.1 ≤ p.1)).Pairwise (fun x y => x.1 ≤ y.1) := h.filter _
  have hhigh : (a.filter (fun q => p.1 < q.1)).Pairwise (fun x y => x.1 ≤ y.1) := h.filter _
  rw [redPlace, List.append_assoc, List.pairwise_append]
  refine ⟨hlow, List.pairwise_cons.2 ⟨fun y hy => ?_, hhigh⟩, fun x hx y hy => ?_⟩
  · have hpy : p.1 < y.1 := by simpa using (List.mem_filter.1 hy).2
    exact hpy.le
  · have hxp : x.1 ≤ p.1 := by simpa using (List.mem_filter.1 hx).2
    rcases List.mem_cons.1 hy with rfl | hy
    · exact hxp
    · have hpy : p.1 < y.1 := by simpa using (List.mem_filter.1 hy).2
      exact hxp.trans hpy.le

theorem foldl_redPlace_perm (l a : List (Nat × Flit × Nat)) : (l.foldl redPlace a).Perm (a ++ l) := by
  induction l generalizing a with
  | nil => simp
  | cons p l ih => exact (ih _).trans (((redPlace_perm a p).append_right l).trans List.perm_middle.symm)

theorem foldl_redPlace_sorted (l : List (Nat × Flit × Nat)) {a : List (Nat × Flit × Nat)} (h : a.Pairwise (fun x y => x.1 ≤ y.1)) :
    (l.foldl redPlace a).Pairwise (fun x y => x.1 ≤ y.1) := by
  induction l generalizing a with
  | nil => exact h
  | cons p l ih => exact ih (redPlace_sorted h p)

theorem redOrder_perm (l : List (Nat × Flit × Nat)) : (redOrder l).Perm l := foldl_redPlace_perm l []

theorem redOrder_sorted (l : List (Nat × Flit × Nat)) : (redOrder l).Pairwise (fun x y => x.1 ≤ y.1) := foldl_redPlace_sorted l List.Pairwise.nil

/-- Where every contributor has a rank of its own, there is one order of the contributions. -/
theorem redOrder_eq_of_perm {l m : List (Nat × Flit × Nat)} (h : l.Perm m) (hr : (l.map (fun p => p.1)).Nodup) : redOrder l = redOrder m := by
  refine List.Perm.eq_of_pairwise (fun x y hx hy hxy hyx => ?_) (redOrder_sorted l) (redOrder_sorted m)
    ((redOrder_perm l).trans (h.trans (redOrder_perm m).symm))
  have hxl : x ∈ l := (redOrder_perm l).mem_iff.1 hx
  have hyl : y ∈ l := h.mem_iff.2 ((redOrder_perm m).mem_iff.1 hy)
  exact List.inj_on_of_nodup_map hr hxl hyl (Nat.le_antisymm hxy hyx)

/-- Settles O27: a block is summed in the order of the ranks, and there is one such order. -/
theorem reductionSumIgnoresArrivalOrder : Obligations.ReductionSumIgnoresArrivalOrder := by
  intro r q hint hparts hranks
  rw [redSum, redSum, hint, redOrder_eq_of_perm hparts hranks]

end Sys2Proof.Machine

/-! Span messages, the control writes of a barrier page, and Vigil (O15): the outcome of each message by the state of its barrier and by its sender,
and the operation that a control word names (R479 to R504). -/

namespace Sys2Proof.Machine

variable {s : State} {b k i gen : Nat} {src : Nat × Nat}

/-! ### A span message at a barrier that is not Open (R483) -/

section
variable (hst : (barAt s b).st ≠ 1)
include hst

theorem spanArriveAt_shut : spanArriveAt gen b src s = calStale b s := if_pos hst

theorem spanReleaseAt_shut : spanReleaseAt gen b src s = calStale b s := if_pos hst

theorem spanFaultAt_shut : spanFaultAt b src s = calStale b s := if_pos hst

end

/-! ### At an Open barrier (R480 to R482, R485) -/

section
variable (hst : (barAt s b).st = 1)
include hst

theorem spanArriveAt_current (hsrc : memberOf s b src = some (k + 1)) (hgen : gen = (barAt s b).gen) (hnew : bit (barAt s b).ch0 k = false) :
    spanArriveAt gen b src s = barCheck 3 b (setBar b { barAt s b with ch0 := setBit (barAt s b).ch0 k true } s) := by
  simp [spanArriveAt, hst, hsrc, hgen, hnew]

theorem spanArriveAt_next (hsrc : memberOf s b src = some (k + 1)) (hold : gen ≠ (barAt s b).gen) (hgen : gen = nextGen (barAt s b).gen)
    (hnew : bit (barAt s b).ch1 k = false) :
    spanArriveAt gen b src s = setBar b { barAt s b with ch1 := setBit (barAt s b).ch1 k true } s := by
  rw [hgen] at hold
  simp [spanArriveAt, hst, hsrc, hgen, hold, hnew]

theorem spanArriveAt_stray (hsrc : memberOf s b src = none ∨ memberOf s b src = some 0) :
    spanArriveAt gen b src s = raise (.bar b BC.stray none) s := by
  rcases hsrc with hsrc | hsrc <;> simp [spanArriveAt, hst, hsrc]

theorem spanReleaseAt_current (hsrc : memberOf s b src = some 0) (hgen : gen = (barAt s b).gen) :
    spanReleaseAt gen b src s = barCheck 3 b (barRelease b s) := by
  simp [spanReleaseAt, hst, hsrc, hgen]

theorem spanReleaseAt_other (hsrc : memberOf s b src = some 0) (hgen : gen ≠ (barAt s b).gen) : spanReleaseAt gen b src s = calStale b s := by
  simp [spanReleaseAt, hst, hsrc, hgen]

theorem spanReleaseAt_stray (hsrc : memberOf s b src ≠ some 0) : spanReleaseAt gen b src s = raise (.bar b BC.stray none) s := by
  unfold spanReleaseAt
  dsimp only
  rw [if_neg (by simp [hst])]
  split
  · exact absurd ‹_› hsrc
  · rfl

theorem spanFaultAt_member {m : Nat} (hsrc : memberOf s b src = some m) : spanFaultAt b src s = raise (.bar b BC.remote (some m)) s := by
  simp [spanFaultAt, hst, hsrc]

theorem spanFaultAt_stranger (hsrc : memberOf s b src = none) : spanFaultAt b src s = calStale b s := by
  simp [spanFaultAt, hst, hsrc]

end

/-! ### By the TYPE of the message (R479, R459) -/

section
variable {msg : BitVec 64}

/-- The barrier that a span message names, and its sender. -/
abbrev spanDst (msg : BitVec 64) : Nat := fld msg 44 8
abbrev spanSrc (msg : BitVec 64) : Nat × Nat := (fld msg 24 12, fld msg 36 8)

theorem spanTake_bad : spanTake msg true s = syncParity (spanDst msg) s := rfl

theorem spanTake_arrive (h : fld msg 60 4 = 1) :
    spanTake msg false s = spanArriveAt (fld msg 52 8) (spanDst msg) (spanSrc msg) (wrapR Pg.nets R.NETS_MSGS 1 s) := by
  simp [spanTake, h]

theorem spanTake_release (h : fld msg 60 4 = 2) :
    spanTake msg false s = spanReleaseAt (fld msg 52 8) (spanDst msg) (spanSrc msg) (wrapR Pg.nets R.NETS_MSGS 1 s) := by
  simp [spanTake, h]

theorem spanTake_fault (h : fld msg 60 4 = 3) :
    spanTake msg false s = spanFaultAt (spanDst msg) (spanSrc msg) (wrapR Pg.nets R.NETS_MSGS 1 s) := by
  simp [spanTake, h]

theorem spanTake_reserved (h : fld msg 60 4 = 0 ∨ 3 < fld msg 60 4) : spanTake msg false s = calStale (spanDst msg) (wrapR Pg.nets R.NETS_MSGS 1 s) := by
  unfold spanTake
  dsimp only
  rw [if_neg (by decide)]
  split
  case h_4 => rfl
  all_goals omega

/-- A message is stale at a barrier that is not Open, and so is one of a reserved TYPE at any barrier (R483). -/
theorem spanTake_stale (h : (barAt s (spanDst msg)).st ≠ 1 ∨ fld msg 60 4 = 0 ∨ 3 < fld msg 60 4) :
    spanTake msg false s = calStale (spanDst msg) (wrapR Pg.nets R.NETS_MSGS 1 s) := by
  by_cases hres : fld msg 60 4 = 0 ∨ 3 < fld msg 60 4
  · exact spanTake_reserved hres
  · have hst : (barAt (wrapR Pg.nets R.NETS_MSGS 1 s) (spanDst msg)).st ≠ 1 := h.resolve_right hres
    have htyp : fld msg 60 4 = 1 ∨ fld msg 60 4 = 2 ∨ fld msg 60 4 = 3 := by omega
    rcases htyp with htyp | htyp | htyp
    · rw [spanTake_arrive htyp, spanArriveAt_shut hst]
    · rw [spanTake_release htyp, spanReleaseAt_shut hst]
    · rw [spanTake_fault htyp, spanFaultAt_shut hst]

/-- The three rows of a span message take it alike. -/
theorem spanRows_give {t : State} {bad : Bool} (hr : s.inReset = false) (h : spanTake msg bad s = t) :
    Gives (spanArriveRow msg bad) s t ∧ Gives (spanReleaseRow msg bad) s t ∧ Gives (spanFaultRow msg bad) s t := by
  obtain ⟨harrive, hrelease, hfault⟩ := exec_spanRow msg bad s
  have hact : act s (spanTake msg bad s) = .next t := h ▸ act_next hr _
  exact ⟨harrive.trans hact, hrelease.trans hact, hfault.trans hact⟩

end

/-! ### The control writes of a CAL page (R488 to R491, R507) -/

section
variable {n : Nat} (hn : n < 2 ^ 32)
include hn

theorem fld_ofNat_word (lo len : Nat) : fld (BitVec.ofNat 32 n) lo len = n / 2 ^ lo % 2 ^ len := by
  rw [fld, BitVec.toNat_ofNat, Nat.mod_eq_of_lt hn, Nat.shiftRight_eq_div_pow]

theorem bit_ofNat_word (j : Nat) : bit (BitVec.ofNat 32 n) j = decide (n / 2 ^ j % 2 = 1) := by
  rw [bit, BitVec.getLsbD, BitVec.toNat_ofNat, Nat.mod_eq_of_lt hn, Nat.testBit_eq_decide_div_mod_eq]

end

/-- CAL_FORCE with GO names its barrier in its low bits. -/
theorem calForceWrite_go (hi : i < 16) : calForceWrite k (BitVec.ofNat 32 (16 + i)) s = calForceOp k i s := by
  have hword : 16 + i < 2 ^ 32 := by omega
  have hgo : bit (BitVec.ofNat 32 (16 + i)) 4 = true := by
    rw [bit_ofNat_word hword, decide_eq_true_eq]
    omega
  have hidx : fld (BitVec.ofNat 32 (16 + i)) 0 4 = i := by
    rw [fld_ofNat_word hword]
    omega
  rw [calForceWrite, if_pos hgo, hidx]

theorem calForceOp_open (hst : (barAt s (16 * k + i)).st = 1) :
    calForceOp k i s = barCheck 3 (16 * k + i) (barRelease (16 * k + i) (setBar (16 * k + i) { barAt s (16 * k + i) with metAt := none }
      (annLog (barPage (16 * k + i)) 0 (forceBody s (16 * k + i)) (satR (barPage (16 * k + i)) R.CAL_FORCED 1 s)))) := if_pos hst

/-- CAL_XARRIVE with GO names a barrier and an external participant. -/
theorem calXarriveWrite_go {e : Nat} (hi : i < 16) (he : e < 12) (hst : (barAt s (16 * k + i)).st = 1)
    (hlisted : (getN s (barPage (16 * k + i)) (barOff (16 * k + i) R.CAL_XMASK)).testBit e = true) :
    calXarriveWrite k (BitVec.ofNat 32 (256 + 16 * i + e)) s = barArriveOpen (16 * k + i) (128 + e) s := by
  have hword : 256 + 16 * i + e < 2 ^ 32 := by omega
  have hgo : bit (BitVec.ofNat 32 (256 + 16 * i + e)) 8 = true := by
    rw [bit_ofNat_word hword, decide_eq_true_eq]
    omega
  have hbar : fld (BitVec.ofNat 32 (256 + 16 * i + e)) 4 4 = i := by
    rw [fld_ofNat_word hword]
    omega
  have hext : fld (BitVec.ofNat 32 (256 + 16 * i + e)) 0 4 = e := by
    rw [fld_ofNat_word hword]
    omega
  simp [calXarriveWrite, hgo, hbar, hext, hst, he, hlisted]

theorem bitsSet_single (hi : i < 16) : bitsSet 16 (BitVec.ofNat 32 (2 ^ i)).toNat = [i] := by interval_cases i <;> rfl

/-- CAL_CLEAR of one barrier that may be restored. -/
theorem calClearWrite_single (hi : i < 16) (hst : (barAt s (16 * k + i)).st = 2) (hrun : runs s (Pg.cal k) = true)
    (hptn : bstate s (Pg.ptn (barPtn s (16 * k + i))) = B.stopped) :
    calClearWrite k (BitVec.ofNat 32 (2 ^ i)) s = barRestore (16 * k + i) (barAt s (16 * k + i)).gen s := by
  rw [calClearWrite, bitsSet_single hi]
  simp [foldS, hst, hrun, hptn]

theorem quietExpireOp_quiet (hst : (barAt s b).st = 3) : quietExpireOp b s = setBar b { barAt s b with st := 1 } s := if_pos hst

/-- A deadlock of a watched partition as it is reported (R503). -/
def vigilReported (p : Nat) (s : State) : State :=
  satR Pg.vgl R.VGL_ALARMS 1 (alarmFull Pg.vgl 0x0101 0 false (vigilRecord s p)
    (if bit (getR s Pg.vgl R.VGL_LAST) 31 then s else setQ Pg.vgl R.VGL_LAST_TIME_LO s.time (firstR Pg.vgl R.VGL_LAST p s)))

theorem vigilDetectOp_watched {p : Nat} (h : vigilWatches s p = true) :
    vigilDetectOp p s =
      if bit (getR (vigilReported p s) Pg.vgl R.VGL_CFG) 16 then ptnFault p PC.vigil (satR Pg.vgl R.VGL_ABORTS 1 (vigilReported p s))
      else vigilReported p s := if_pos h

/-- Settles O15, from the equation of each case. -/
theorem spanMessagesBarrierControlsAndVigil : Obligations.SpanMessagesBarrierControlsAndVigil := by
  constructor
  · intro s msg hr typ gen b s1 x from_ stale each
    have gives {bad t} (h : spanTake msg bad s = t) : each bad t := spanRows_give hr h
    refine ⟨fun (hst : (barAt s1 b).st = 1) => ⟨fun htyp => ?_, fun htyp => ?_, fun htyp => ?_⟩, fun h => gives (spanTake_stale h), gives spanTake_bad⟩
    · have take := spanTake_arrive (s := s) htyp
      exact ⟨fun k hsrc hgen hnew => gives (take.trans (spanArriveAt_current hst hsrc hgen hnew)),
        fun k hsrc hold hgen hnew => gives (take.trans (spanArriveAt_next hst hsrc hold hgen hnew)),
        fun hsrc => gives (take.trans (spanArriveAt_stray hst hsrc))⟩
    · have take := spanTake_release (s := s) htyp
      exact ⟨fun hsrc hgen => gives (take.trans (spanReleaseAt_current hst hsrc hgen)),
        fun hsrc hgen => gives (take.trans (spanReleaseAt_other hst hsrc hgen)),
        fun hsrc => gives (take.trans (spanReleaseAt_stray hst hsrc))⟩
    · have take := spanTake_fault (s := s) htyp
      exact ⟨fun m hsrc => gives (take.trans (spanFaultAt_member hst hsrc)), fun hsrc => gives (take.trans (spanFaultAt_stranger hst hsrc))⟩
  · intro s k i p hr b x
    refine ⟨fun hk hi => ⟨fun hst => ⟨?_, fun e he hlisted => ?_⟩, fun hst hrun hptn => ?_, fun hst => ?_⟩, fun hp hwatch => ?_⟩
    · exact onUnit_gives hr hk ((calForceWrite_go hi).trans (calForceOp_open hst))
    · exact onUnit_gives hr hk (calXarriveWrite_go hi he hst hlisted)
    · exact onUnit_gives hr hk (calClearWrite_single hi hst hrun hptn)
    · exact onUnit_gives hr (show 16 * k + i < 256 by omega) (quietExpireOp_quiet hst)
    · exact onUnit_gives hr hp (vigilDetectOp_watched hwatch)

end Sys2Proof.Machine

/-! Messages that cross the chiplet (O41): what a forwarded one becomes by its class, its group, its hops and its route; the endpoint of a flit by its
type; a die that is lost or comes back (R439, R649 to R655, R671, R672). -/

namespace Sys2Proof.Machine

variable {s : State} {g d sd hops cls m r : Nat} {body : List Byte} {f : Flit}

/-! ### A message for another die (R649, R654, R655) -/

theorem forwardOp_misclassed (h : classOf m ≠ some cls) : forwardOp g m d sd hops cls body s = lkgDiscard g 3 d s := if_pos h

section
variable (hcls : classOf m = some cls)
include hcls

theorem forwardOp_offPackage (hg : g = G.off) : forwardOp g m d sd hops cls body s = lkgDiscard g 4 d s := by simp [forwardOp, hcls, hg]

variable (hg : g ≠ G.off)
include hg

theorem forwardOp_spent : forwardOp g m d sd 0 cls body s = lkgDiscard g 2 d s := by simp [forwardOp, hcls, hg]

variable (hhops : hops ≠ 0)
include hhops

theorem forwardOp_stranded (h : route s d = none ∨ d ∈ s.unreach) : forwardOp g m d sd hops cls body s = lkgDiscard g 1 d s := by
  rcases h with h | h
  · simp [forwardOp, hcls, hg, hhops, h]
  · cases hroute : route s d <;> simp [forwardOp, hcls, hg, hhops, hroute, h]

section
variable (hroute : route s d = some r) (hreach : d ∉ s.unreach)
include hroute hreach

theorem forwardOp_back (hr : r = g) : forwardOp g m d sd hops cls body s = lkgDiscard g 2 d s := by
  simp [forwardOp, hcls, hg, hhops, hroute, hreach, hr]

theorem forwardOp_sent (hr : r ≠ g) :
    forwardOp g m d sd hops cls body s = groupPost r (fwdHash m d sd body) cls (body.length / 8) (.forward r m d sd (hops - 1) cls body)
      (wrapR (Pg.lkg r) R.LKG_RELAYED 1 s) := by
  simp [forwardOp, hcls, hg, hhops, hroute, hreach, hr]

end

end

/-! ### A flit by its type (R439, R650) -/

theorem flitOp_request (h : f.typ = 0 ∨ f.typ = 1) : flitOp g f s = reqFlit (linkFlit g f) s := by
  rcases h with h | h <;> simp [flitOp, linkFlit, h]

theorem flitOp_rdata (h : f.typ = 2) : flitOp g f s = rdataOp (linkFlit g f) s := by simp [flitOp, linkFlit, h]

theorem flitOp_wack (h : f.typ = 3) : flitOp g f s = wackOp (linkFlit g f) s := by simp [flitOp, linkFlit, h]

theorem flitOp_mc (h : f.typ = 4) : flitOp g f s = if g = G.io then mcFromIo (linkFlit g f) s else lkgDiscard g 3 (dieNum s) s := by
  simp [flitOp, linkFlit, h]

theorem flitOp_mcrep (h : f.typ = 5) : flitOp g f s = mcrepOp (linkFlit g f) s := by simp [flitOp, linkFlit, h]

theorem flitOp_contribution (h : f.typ = 6 ∨ f.typ = 8) : flitOp g f s = redOp (linkFlit g f) g s := by
  rcases h with h | h <;> simp [flitOp, linkFlit, h]

theorem flitOp_rack (h : f.typ = 7) : flitOp g f s = rackOp (linkFlit g f) s := by simp [flitOp, linkFlit, h]

theorem flitOp_foreign (h : 9 ≤ f.typ.toNat) : flitOp g f s = lkgDiscard g 3 (dieNum s) s := by
  have hlink : (linkFlit g f).typ = f.typ := rfl
  unfold flitOp
  dsimp only
  rw [hlink]
  split
  case h_10 => rfl
  all_goals omega

theorem cflitOp_inv (h : f.typ = 9) : cflitOp g f s = invOp (linkFlit g f) s := by simp [cflitOp, linkFlit, h]

theorem cflitOp_iack (h : f.typ = 10) : cflitOp g f s = iackOp (linkFlit g f) s := by simp [cflitOp, linkFlit, h]

theorem cflitOp_foreign (hinv : f.typ ≠ 9) (hiack : f.typ ≠ 10) : cflitOp g f s = lkgDiscard g 3 (dieNum s) s := by
  have hlink : (linkFlit g f).typ = f.typ := rfl
  unfold cflitOp
  dsimp only
  rw [hlink]
  split
  case h_1 h => exact absurd (BitVec.eq_of_toNat_eq h) hinv
  case h_2 h => exact absurd (BitVec.eq_of_toNat_eq h) hiack
  case h_3 => rfl

/-! ### Dies that are lost or come back (R671, R672) -/

/-- A die is declared unreachable: the alarm, then the package is told. -/
def dieReported (d : Nat) (s : State) : State :=
  send (.dieLost d) (namedAlarm (Pg.lkg (routeFirst s d)) 1 { s with unreach := s.unreach ++ [d] })

/-- What waited for a lost die ends: requests to memory, Leaven, rings, barriers. -/
def dieWaitsEnd (d : Nat) (s : State) : State := barsLost d (ringsLost d (lvnDieLost d (memoryLost d s)))

theorem dieLost_known (h : d ∈ s.unreach) : dieLost d s = s := if_pos (.inl (List.contains_iff_mem.2 h))

theorem dieLost_new (hreach : d ∉ s.unreach) (hother : dieValid s = true → dieNum s ≠ d) :
    dieLost d s =
      (let u := dieWaitsEnd d (dieReported d s)
       if twnPeer u = d then twinLost u else u) := by
  have hown : ¬ (s.unreach.contains d ∨ (dieValid s ∧ d = dieNum s)) := by
    rintro (h | ⟨hv, hd⟩)
    · exact hreach (List.contains_iff_mem.1 h)
    · exact hother hv hd.symm
  exact if_neg hown

theorem dieUpOp_routed (h : (route s d).isSome = true) : dieUpOp d s = { s with unreach := s.unreach.filter (· ≠ d) } := if_pos h

theorem dieUpOp_stranded (h : route s d = none) : dieUpOp d s = s := if_neg (by simp [h])

/-- Settles O41, from the equation of each case. -/
theorem messagesThatCrossTheChiplet : Obligations.MessagesThatCrossTheChiplet := by
  intro s g m hops dd sd cls body f hr hg h fwd known
  have sends {t} (he : forwardOp g m.toNat dd.toNat sd.toNat hops.toNat cls.toNat body s = t) : Gives fwd s t := onUnit_gives hr hg he
  have flits {t} (he : flitOp g f s = t) : Gives (.flit g f) s (settleUnits t) :=
    onUnit_gives (f := fun u => settleUnits (flitOp g f u)) hr hg (congrArg settleUnits he)
  have cflits {t} (he : cflitOp g f s = t) : Gives (.cflit g f) s t := onUnit_gives hr hg he
  have ups {t} (he : dieUpOp dd.toNat s = t) : Gives (.dieUp dd) s t := he ▸ act_next hr _
  have downs {t} (he : dieLost dd.toNat s = t) : Gives (.dieDown dd) s (checkRoutes t) := he ▸ act_next hr _
  refine ⟨fun hk => sends (forwardOp_misclassed hk), fun hk ho => sends (forwardOp_offPackage hk ho), fun hk ho hz => ?_, fun hk ho hz => ?_,
    fun ht => flits (flitOp_request ht), fun ht => flits (flitOp_rdata ht), fun ht => flits (flitOp_wack ht),
    fun ht hio => flits ((flitOp_mc ht).trans (if_pos hio)), fun ht hio => flits ((flitOp_mc ht).trans (if_neg hio)),
    fun ht => flits (flitOp_mcrep ht), fun ht => flits (flitOp_contribution ht), fun ht => flits (flitOp_rack ht), fun ht => flits (flitOp_foreign ht),
    fun ht => cflits (cflitOp_inv ht), fun ht => cflits (cflitOp_iack ht), fun hi ha => cflits (cflitOp_foreign hi ha),
    fun hroute => ups (dieUpOp_routed hroute), fun hroute => ups (dieUpOp_stranded hroute), fun hknown => downs (dieLost_known hknown),
    fun hreach hother => downs (dieLost_new hreach hother)⟩
  · subst hz
    exact sends (forwardOp_spent hk ho)
  · have hhops : hops.toNat ≠ 0 := fun he => hz (BitVec.eq_of_toNat_eq he)
    exact ⟨fun hs => sends (forwardOp_stranded hk ho hhops hs), fun r hroute hreach hback => sends (forwardOp_back hk ho hhops hroute hreach hback),
      fun r hroute hreach hon => sends (forwardOp_sent hk ho hhops hroute hreach hon)⟩

end Sys2Proof.Machine

/-! A whole line written to homed memory (O29; R525, R529, R537, R538): its bytes stand in the stacks' memory, and what the cache, the channel, the
directory and the twin unit do about it touches neither that memory nor a core. -/

namespace Sys2Proof.Machine

variable {s : State} {f : Flit} {h : Home}

/-! ### Steps that touch no memory -/

@[simp] theorem memories_addWait (i : Nat) (w : SWait) (s : State) : memories (addWait i w s) = memories s := rfl
@[simp] theorem memories_clearUe (k : Nat) (s : State) : memories (clearUe k s) = memories s := rfl
@[simp] theorem memories_postMsg (d c l : Nat) (m : OutMsg) (s : State) : memories (postMsg d c l m s) = memories s := memories_post ..
@[simp] theorem memories_peerMsg (j : Nat) (m : OutMsg) (s : State) : memories (peerMsg j m s) = memories s := memories_postMsg ..

theorem memories_ite {c : Prop} [Decidable c] {a b : State} (ha : memories a = memories s) (hb : memories b = memories s) :
    memories (if c then a else b) = memories s := by
  split
  · exact ha
  · exact hb

theorem memories_foldS {α : Type} {g : α → State → State} (hg : ∀ a s, memories (g a s) = memories s) (l : List α) (s : State) :
    memories (foldS g l s) = memories s := by
  induction l generalizing s with
  | nil => rfl
  | cons a t ih => exact (ih (g a s)).trans (hg a s)

/-! ### The channel (R521, R551) -/

@[simp] theorem memories_stackSend (i op bank x : Nat) (s : State) : memories (stackSend i op bank x s) = memories s := by
  dsimp only [stackSend]
  split <;> simp

/-- An activation is counted; at the limit a refresh of the row is issued or asked for, and a full table makes room. -/
@[simp] theorem memories_rowActivate (i bank row : Nat) (s : State) : memories (rowActivate i bank row s) = memories s := by
  dsimp only [rowActivate]
  refine memories_ite (memories_ite ?_ (memories_ite rfl rfl)) rfl
  split
  · rfl
  · exact memories_ite (memories_peerMsg ..) (memories_stackSend ..)

@[simp] theorem memories_stackAccess (i op x : Nat) (s : State) : memories (stackAccess i op x s) = memories s := by simp [stackAccess]

/-! ### The cache, the directory and the twin unit (R523, R529, R734, R754) -/

@[simp] theorem memories_homeHit (i off : Nat) (s : State) : memories (homeHit i off s).2 = memories s := by
  unfold homeHit
  split
  · split <;> rfl
  · rfl

@[simp] theorem memories_sendInvs (i a : Nat) (b : BitVec 8) (s : State) : memories (sendInvs i a b s).2 = memories s := by
  refine List.foldlRecOn (motive := fun z : BitVec 8 × State => memories z.2 = memories s) _ _ rfl fun z hz q _ => ?_
  dsimp only
  split
  · split
    · exact (memories_postFlit ..).trans hz
    · exact hz
  · exact hz

@[simp] theorem memories_dirWrite (i line a : Nat) (s : State) : memories (dirWrite i line a s).2 = memories s := by
  unfold dirWrite
  split
  · dsimp only
    split <;> exact memories_sendInvs ..
  · rfl

@[simp] theorem memories_twinSend (k p : Nat) (q w : DWord) (bs : List Byte) (s : State) : memories (twinSend k p q w bs s) = memories s :=
  memories_postMsg ..

@[simp] theorem memories_shipSend (k p : Nat) (q w : DWord) (bs : List Byte) (s : State) : memories (shipSend k p q w bs s) = memories s := by
  dsimp only [shipSend]
  exact memories_ite (memories_twinSend ..) (memories_twinSend k p q w bs s)

@[simp] theorem memories_twinWrote (l : Bool) (a k : Nat) (s : State) : memories (twinWrote l a k s) = memories s := by
  have hforward : memories (if s.twn.forwarding then twinSend 5 0 0 (BitVec.ofNat 64 a) (blockBytes s a k) s else s) = memories s :=
    memories_ite (memories_twinSend ..) rfl
  exact memories_ite (memories_ite hforward ((memories_foldS (fun _ _ => memories_ite (memories_shipSend ..) rfl) _ _).trans hforward)) rfl

@[simp] theorem memories_answer (r : Resp × State) : memories (answer f r) = memories r.2 := by
  obtain ⟨r, t⟩ := r
  cases r with
  | ok bs g tile => exact memories_ite (memories_respond ..) (memories_respond ..)
  | err => exact memories_respond ..
  | wait => rfl

/-! ### The data field of a whole line (R427, R538) -/

@[simp] theorem length_flitBytes : (flitBytes f).length = 128 := by simp [flitBytes, bytesOf]

theorem flitBytes_getD {a : Nat} (ha : a < 128) : ((flitBytes f)[a]?).getD 0 = BitVec.ofNat 8 (f.data.toNat >>> (8 * a)) := by
  simp [flitBytes, bytesOf, ha]

@[simp] theorem length_flitMask : (flitMask f).length = 128 := by simp [flitMask]

theorem flitMask_whole (hben : f.ben = BitVec.allOnes 128) {b : Bool} (hb : b ∈ flitMask f) : b = true := by
  obtain ⟨k, hk, rfl⟩ := List.mem_map.1 hb
  rw [bit, hben, BitVec.getLsbD_allOnes, decide_eq_true (List.mem_range.1 hk)]

@[simp] theorem length_tabSlice {α : Type} (d : α) (t : Tab α) (k n : Nat) : (Tab.slice d t k n).length = n := by
  induction n generalizing k with
  | zero => rfl
  | succ n ih => simp [Tab.slice, ih]

/-- With every byte enabled nothing of the old line is left. -/
theorem mergeBytes_whole (hben : f.ben = BitVec.allOnes 128) {old : List Byte} (hold : old.length = 128) : mergeBytes f old = flitBytes f := by
  refine List.ext_getElem (by simp [length_mergeBytes hold]) fun k hk _ => ?_
  have hmask : (flitMask f)[k]'(by simpa [length_mergeBytes hold] using hk) = true := flitMask_whole hben (List.getElem_mem _)
  simp [mergeBytes, hmask]

/-! ### The line written (R525, R538) -/

@[simp] theorem memories_putDram (k : Nat) (bs : List Byte) (s : State) : memories (putDram k bs s) = (s.cores, Tab.storeList 0 s.dram k bs) := rfl

theorem memories_storeLine (h : Home) (a : Nat) (bs : List Byte) (s : State) : memories (storeLine h a bs s) = memories (putDram h.key bs s) := by
  dsimp only [storeLine]
  rw [memories_twinWrote, memories_clearUe]
  exact memories_stackAccess ..

/-- A whole line is taken whatever the old one was like: it is stored, and its sharers are told. -/
theorem writeLine_whole (h : Home) (a : Nat) (m : List Byte → List Byte) (p : Option Nat) (s : State) :
    writeLine h a true m p s =
      (let z := dirWrite h.slice (h.off / 128) a (storeLine h a (m (dramBytes s h.key 128)) (homeHit h.slice h.off s).2)
       (some z.1, z.2)) := by
  simp [writeLine]

theorem memories_writeLine_whole (h : Home) (a : Nat) (m : List Byte → List Byte) (p : Option Nat) (s : State) :
    memories (writeLine h a true m p s).2 = memories (putDram h.key (m (dramBytes s h.key 128)) s) := by
  obtain ⟨hcores, hbytes⟩ := Prod.mk.inj (memories_homeHit h.slice h.off s)
  rw [writeLine_whole, memories_dirWrite, memories_storeLine, memories_putDram, memories_putDram, hcores, hbytes]

/-- A sound write of a whole line to a 128-byte region that holds no ring index has stored the flit's bytes, whether its acknowledgement waits or
leaves at once. -/
theorem memories_homeWrite_whole (hbig : bigTile s f.addr.toNat = false) (hglaze : glazeOk f = true) (hring : ringsInLine s f.addr.toNat = [])
    (hben : f.ben = BitVec.allOnes 128) : memories (homeWrite f h s).2 = memories (putDram (lineHome h).key (flitBytes f) s) := by
  have hwhole : (flitMask f).all id = true := List.all_eq_true.2 fun _ hb => flitMask_whole hben hb
  have hmerge : mergeBytes f (dramBytes (slcServed h.slice s) (lineHome h).key 128) = flitBytes f := mergeBytes_whole hben (length_tabSlice ..)
  have hline := memories_writeLine_whole (lineHome h) (f.addr.toNat / 128 * 128) (mergeBytes f) (rqPtn s f) (slcServed h.slice s)
  rw [writeLine_whole, hmerge] at hline
  dsimp only [homeWrite]
  rw [if_neg (by simp [hbig]), if_neg (by simp [hglaze]), if_neg (by simp [hring]), hwhole, writeLine_whole, hmerge]
  dsimp only
  split
  · exact (memories_addWait ..).trans hline
  · exact hline

/-! ### The request (R432, R542) -/

/-- A sound write of a line that its slice can serve and that nothing holds is answered by what its slice makes of it. -/
theorem reqFlit_homeWrite (hecc : f.ecc = 0) (hrun : runs s Pg.netb = true) (hdie : f.die.toNat = dieNum s ∨ dieValid s = false)
    (harea : areaOf f.addr.toNat = .homed) (hholds : homeHolds s f.addr.toNat = none) (hhome : homeOf s f.addr.toNat = .ok h)
    (hbusy : lineBusy s h.slice (h.off / 128) = false) (htyp : f.typ ≠ 0) : reqFlit f s = answer f (homeWrite f h s) := by
  have hstart : bstate s Pg.netb ≠ B.starting := fun h => by simp [runs, h] at hrun
  have hlocal : localReq false f s = homedReq false f s := by simp [localReq, hstart, hrun, harea]
  have hhomed : homedReq false f s = homeWrite f h s := by
    simp only [homedReq, hholds, hhome, hbusy, Bool.false_eq_true, if_false, if_neg htyp]
  have hserve : serveReq f s = answer f (localReq false f s) := if_pos (by simpa using hdie)
  rw [← hhomed, ← hlocal, ← hserve]
  simp [reqFlit, headerOk_sound hecc]

/-- Settles O29: the bytes from the write of the line, and every other byte and the cores from what the rest of the step leaves alone. -/
theorem homedWriteStoresItsBytes : Obligations.HomedWriteStoresItsBytes := by
  intro F s f h hs hr hecc hrun hdie harea hholds hhome hbusy hring hbig hben hglaze k
  obtain ⟨-, -, hdram, -⟩ := sound_iff.1 hs
  have hmem : memories (reqFlit { f with typ := 1 } s) = memories (putDram k (flitBytes f) s) := by
    rw [reqFlit_homeWrite (f := { f with typ := 1 }) hecc hrun hdie harea hholds hhome hbusy (show (1 : BitVec 4) ≠ 0 by decide), memories_answer]
    exact memories_homeWrite_whole (f := { f with typ := 1 }) hbig hglaze hring hben
  obtain ⟨hcores, hbytes⟩ := Prod.mk.inj hmem
  have hread (a : Nat) := putDram_get k a (flitBytes f) s hdram
  rw [length_flitBytes] at hread
  refine ⟨_, act_next hr _, fun a ha => ?_, fun a ha => ?_, hcores⟩
  · rw [hbytes, hread, if_pos (by omega), Nat.add_sub_cancel_left, flitBytes_getD ha]
  · rw [hbytes, hread, if_neg (by omega)]

end Sys2Proof.Machine

/-! Refresh, its takeover and hand-back, and temperature reports (O34; R545 to R551, R564): an equation for each case. -/

namespace Sys2Proof.Machine

variable {F : Fuses} {s : State} {i j n : Nat} {t : BitVec 16}

/-! ### A command to the stack (R657) -/

/-- `t` is `s` but for its ports and its registers, which count the frames. -/
def PortsOnly (s t : State) : Prop := ∃ r q, t = { s with regs := r, ports := q }

theorem PortsOnly.refl : PortsOnly s s := ⟨_, _, rfl⟩

theorem PortsOnly.trans {t u : State} (hst : PortsOnly s t) (htu : PortsOnly t u) : PortsOnly s u := by
  obtain ⟨_, _, rfl⟩ := hst
  obtain ⟨_, _, rfl⟩ := htu
  exact ⟨_, _, rfl⟩

theorem PortsOnly.setPort (p : Nat) (x : Port) (s : State) : PortsOnly s (setPort p x s) := ⟨_, _, rfl⟩

theorem PortsOnly.putFrame (p i : Nat) (s : State) : PortsOnly s (putFrame p i s) := ⟨_, _, rfl⟩

theorem PortsOnly.flushN (n p : Nat) (s : State) : PortsOnly s (flushN n p s) := by
  induction n generalizing s with
  | zero => exact .refl
  | succ n ih =>
    unfold Machine.flushN
    split
    · exact .refl
    · exact ((PortsOnly.setPort ..).trans (.putFrame ..)).trans (ih _)

theorem PortsOnly.portPush (p c n : Nat) (s : State) : PortsOnly s (portPush p c n s) := by
  induction n generalizing s with
  | zero => exact .refl
  | succ n ih => exact ((PortsOnly.setPort ..).trans (.flushN ..)).trans (ih _)

/-- The command is sent; its frames touch no more than the ports and their counters. -/
theorem stackSend_frame (i op bank x : Nat) (s : State) : PortsOnly (send (.stack i op bank x) s) (stackSend i op bank x s) := by
  dsimp only [stackSend]
  split
  · exact .portPush ..
  · exact .refl

/-- A REF is sent, and the position of the refresh moves on. -/
theorem refOnce_eq (i : Nat) (s : State) : refOnce i s = setSlice i { sliceAt s i with refPos := (sliceAt s i).refPos + 1 } (stackSend i 8 0 0 s) := by
  obtain ⟨r, q, hsend⟩ := stackSend_frame i 8 0 0 s
  have hslice : sliceAt (stackSend i 8 0 0 s) i = sliceAt s i := by rw [hsend]; rfl
  rw [← hslice]
  rfl

theorem refOnce_frame (i : Nat) (s : State) :
    ∃ r q l, refOnce i s = { s with outbox := s.outbox ++ [.stack i 8 0 0], regs := r, ports := q, slices := l } := by
  obtain ⟨r, q, hsend⟩ := stackSend_frame i 8 0 0 s
  rw [refOnce, hsend]
  exact ⟨_, _, _, rfl⟩

/-! ### Who refreshes a channel (R545, R547, R550) -/

/-- A bound slice that is no peer issues its channel's commands. -/
theorem medIssues_of_bound (hport : portOfSlice s i = some j) (hrole : medRole s i ≠ 1) : medIssues s i = true := by
  have hcases : medRole s i = 0 ∨ medRole s i = 1 ∨ medRole s i = 2 := by
    simp only [medRole, hport]
    split
    · split <;> simp
    · simp
  rcases hcases with h | h | h
  · simp [medIssues, h]
  · exact absurd h hrole
  · simp [medIssues, h]

theorem refreshOp_issues (hlive : medLives s i = true) (hissues : medIssues s i = true) (href : (sliceAt s i).refreshing = true) :
    refreshOp i s = setSlice i { sliceAt s i with refPos := (sliceAt s i).refPos + 1 } (stackSend i 8 0 0 s) :=
  (if_pos ⟨hlive, hissues, href⟩).trans (refOnce_eq i s)

theorem refreshOp_gone (hlive : medLives s i = false) : refreshOp i s = s := if_neg (by simp [hlive])

/-- REFs missed since the last notice, up to 16 (R547). -/
def refsMissed (s : State) (i : Nat) : Nat := Nat.min 16 ((s.time - (sliceAt s i).lastRef).toNat / Nat.max 1 (trefi s i))

theorem takeover_peer (hrole : medRole s i = 1) (hlive : medLives s i = true) :
    takeover i s = satR (Pg.med i) R.MED_TAKEOVERS 1 (namedAlarm (Pg.med i) 1 (sysRead i
      (refMany i (refsMissed s i) (setSlice i { sliceAt s i with acting := true, refreshing := true } s)))) := if_pos ⟨hrole, hlive⟩

theorem refWatchOp_armed (harmed : (sliceAt s i).armed = true) : refWatchOp i s = takeover i s := if_pos harmed

theorem refWatchOp_unarmed (harmed : (sliceAt s i).armed = false) : refWatchOp i s = s := if_neg (by simp [harmed])

/-! ### Hand-back (R548) -/

theorem managerWaitOp_claims (hport : portOfSlice s i = some j) (hrole : medRole s i = 0) (hwait : (sliceAt s i).waitMgr = true) :
    managerWaitOp i true s = peerMsg j (.peerPos 0 (peerSlot j) (sliceAt s i).refPos) (setSlice i { sliceAt s i with waitMgr := false } s) := by
  have hport' : portOfSlice (setSlice i { sliceAt s i with waitMgr := false } s) i = some j := hport
  simp [managerWaitOp, hrole, hwait, hport']

theorem managerWaitOp_begins (hrole : medRole s i = 0) (hwait : (sliceAt s i).waitMgr = true) :
    managerWaitOp i false s = refOnce i (updSlice i (fun x => { x with refreshing := true }) (setSlice i { sliceAt s i with waitMgr := false } s)) := by
  simp [managerWaitOp, hrole, hwait]

theorem claimOp_acting (hport : portOfSlice s i = some j) (hrole : medRole s i = 2) :
    claimOp i s = peerMsg j (.peerPos 1 (peerSlot j) (sliceAt s i).refPos)
      (setSlice i { sliceAt s i with acting := false, refreshing := false, lastRef := s.time } s) := by
  have hport' : portOfSlice (setSlice i { sliceAt s i with acting := false, refreshing := false, lastRef := s.time } s) i = some j := hport
  simp [claimOp, hrole, hport']

/-! ### Temperature (R549, R564) -/

/-- Whether tREFI is halved after a report: above HOT, not at or below HOT − 3 °C, as before between. -/
def hotHalf (s : State) (i : Nat) (t : BitVec 16) : Bool :=
  let hot : Int := getF s (Pg.med i) R.MED_REFRESH 16 7
  if hot * 16 < t.toInt then true else if t.toInt ≤ (hot - 3) * 16 then false else (sliceAt s i).refHalf

/-- A report is taken: MED_TEMP with VALID, and the interval. -/
def tempTaken (i : Nat) (t : BitVec 16) (s : State) : State :=
  setSlice i { sliceAt s i with refHalf := hotHalf s i t } (setR (Pg.med i) R.MED_TEMP (BitVec.ofNat 32 (2 ^ 31 + t.toNat)) s)

/-- MED_TEMP and MED_REFRESH are two registers. -/
theorem getF_refresh_setTemp (v : Word) (lo len : Nat) :
    getF (setR (Pg.med i) R.MED_TEMP v s) (Pg.med i) R.MED_REFRESH lo len = getF s (Pg.med i) R.MED_REFRESH lo len := by
  refine congrArg (fld · lo len) (getR_setR_ne fun he => ?_)
  have hrefresh := regKey_mod (Pg.med i) R.MED_REFRESH
  have htemp := regKey_mod (Pg.med i) R.MED_TEMP
  simp only [R.MED_REFRESH, R.MED_TEMP] at hrefresh htemp he
  omega

theorem sliceAt_setSlice (h : Sound F s) (x : Slice) : sliceAt (setSlice i x s) i = x := by
  obtain ⟨-, -, -, -, -, -, -, -, hslices, -⟩ := sound_iff.1 h
  exact Tab.get_store_same _ _ _ _ (Bool.and_eq_true_iff.1 hslices).1

/-- The alarm is judged by the mark that stood before the report. -/
theorem tempOp_live (h : Sound F s) (hlive : medLives s i = true) :
    tempOp i t s =
      if 1520 < t.toInt ∧ (sliceAt s i).hotSent = false then namedAlarm (Pg.med i) 6 (updSlice i (fun x => { x with hotSent := true }) (tempTaken i t s))
      else if t.toInt ≤ 1472 then updSlice i (fun x => { x with hotSent := false }) (tempTaken i t s)
      else tempTaken i t s := by
  have hsent : (sliceAt (tempTaken i t s) i).hotSent = (sliceAt s i).hotSent := by
    rw [tempTaken, sliceAt_setSlice h.setR]
  rw [← hsent]
  dsimp only [tempOp]
  rw [if_pos hlive, getF_refresh_setTemp]
  rfl

/-- Settles O34, from the equation of each case. -/
theorem refreshTakeoverAndTemperature : Obligations.RefreshTakeoverAndTemperature := by
  constructor
  · intro s i j n r v hr hi hport x missed taken ref
    have gives {f : State → State} {t} (h : f s = t) : onUnit i nSlices f s = .next t := onUnit_gives hr hi h
    refine ⟨gives rfl, gives rfl, fun hlive hrole href => gives (refreshOp_issues hlive (medIssues_of_bound hport hrole) href),
      fun hlive => gives (refreshOp_gone hlive), fun hrole => ⟨gives (if_pos hrole), gives (if_pos hrole), fun hlive => gives (takeover_peer hrole hlive),
        fun hlive harmed => gives ((refWatchOp_armed harmed).trans (takeover_peer hrole hlive)), fun harmed => gives (refWatchOp_unarmed harmed)⟩,
      fun hrole hwait => ⟨gives (managerWaitOp_claims hport hrole hwait), _, gives (managerWaitOp_begins hrole hwait), ?_⟩,
      fun hrole => gives (claimOp_acting hport hrole), fun hrole => gives (if_pos hrole), fun hslice hlive hrole => ?_⟩
    · obtain ⟨_, _, _, href⟩ := refOnce_frame i (updSlice i (fun x => { x with refreshing := true }) (setSlice i { sliceAt s i with waitMgr := false } s))
      rw [href]
      exact ⟨rfl, rfl, rfl, rfl, rfl⟩
    · subst hslice
      exact gives (if_pos ⟨hlive, medIssues_of_bound hport hrole⟩)
  · intro F s i t hs hr hi hlive x hot half s1
    have gives {u} (h : tempOp i t s = u) : Gives (.temp i t) s u := onUnit_gives hr hi h
    refine ⟨fun habove hsent => gives ?_, fun habove hquiet => gives ?_, fun hbelow => gives ?_⟩ <;> rw [tempOp_live hs hlive]
    · exact if_pos ⟨habove, hsent⟩
    · have hno : ¬ (1520 < t.toInt ∧ (sliceAt s i).hotSent = false) := by
        rintro ⟨hhot, hsent⟩
        rcases hquiet with hle | htrue
        · omega
        · exact absurd (htrue.symm.trans hsent) (by decide)
      exact (if_neg hno).trans (if_neg (by omega))
    · exact (if_neg (by omega)).trans (if_pos hbelow)

end Sys2Proof.Machine

/-! Leaven's gradient records and batches (O32; R575 to R577, R579, R581, R584, R586): an equation for each case of an LVN flit, of its queue
and of BATCH_APPLY. -/

namespace Sys2Proof.Machine

variable {s : State} {i : Nat} {f : Flit} {h : Home} {og : List (BitVec 12 × BitVec 4)}

/-! ### What a slice makes of a gradient (R575 to R577) -/

/-- The group of the flit is in range at slice `i`, and its Glaze matches its data (R576). -/
def gradSound (s : State) (i : Nat) (f : Flit) : Bool :=
  decide (lvnGroup f < getF s (Pg.lvn i) R.LVN_GROUPS 0 13) && (f.glaze == crc32c (glzSeed (lvnBlk f)) (bytesOf 128 f.data.toNat))

/-- The gradient joins the queue of slice `i`. -/
def lvnEnqueue (i : Nat) (f : Flit) (og : List (BitVec 12 × BitVec 4)) (s : State) : State :=
  setSlice i { sliceAt s i with lvnQueue := (sliceAt s i).lvnQueue ++ [(f, og)] } s

theorem not_starting_of_runs {pg : Nat} (hrun : runs s pg = true) : bstate s pg ≠ B.starting := fun hst => by simp [runs, hst] at hrun

/-- With the page Running, only the flit itself can be a reason to refuse it. -/
theorem lvnRefuses_eq (hrun : runs s (Pg.lvn i) = true) :
    (!runs s (Pg.lvn i) || decide (getF s (Pg.lvn i) R.LVN_GROUPS 0 13 ≤ lvnGroup f) ||
      f.glaze != crc32c (glzSeed (lvnBlk f)) (bytesOf 128 f.data.toNat)) = !gradSound s i f := by
  have hrange : decide (getF s (Pg.lvn i) R.LVN_GROUPS 0 13 ≤ lvnGroup f) = !decide (lvnGroup f < getF s (Pg.lvn i) R.LVN_GROUPS 0 13) := by
    rw [← decide_not, decide_eq_decide, Nat.not_lt]
  rw [hrun, hrange, gradSound, Bool.not_and]
  rfl

/-- A gradient at a Running page: refused, staged, or queued. -/
theorem lvnTake_running (hrun : runs s (Pg.lvn i) = true) :
    lvnTake i h f og s =
      if (!gradSound s i f) = true then lvnRefuse f s
      else if lvnRoom s i && (sliceAt s i).lvnQueue.isEmpty then lvnStage i h f og s
      else lvnEnqueue i f og s := by
  dsimp only [lvnTake]
  rw [if_neg (not_starting_of_runs hrun), lvnRefuses_eq hrun]
  rfl

theorem lvnTake_refuses (hrun : runs s (Pg.lvn i) = true) (hbad : gradSound s i f = false) : lvnTake i h f og s = lvnRefuse f s :=
  (lvnTake_running hrun).trans (if_pos (by rw [hbad]; rfl))

theorem lvnTake_stages (hrun : runs s (Pg.lvn i) = true) (hgood : gradSound s i f = true) (hroom : lvnRoom s i = true)
    (hempty : (sliceAt s i).lvnQueue = []) : lvnTake i h f og s = lvnStage i h f og s := by
  simp [lvnTake_running hrun, hgood, hroom, hempty]

theorem lvnTake_waits (hrun : runs s (Pg.lvn i) = true) (hgood : gradSound s i f = true) (hfull : lvnRoom s i = false) :
    lvnTake i h f og s = lvnEnqueue i f og s := by
  simp [lvnTake_running hrun, hgood, hfull]

/-! ### By the state of NETB (R86) -/

theorem lvnOp_starting (hecc : f.ecc = 0) (hst : bstate s Pg.netb = B.starting) (hhome : homeOf s (lvnBlk f) = .ok h) :
    lvnOp f og s = lvnEnqueue h.slice f og s := by
  simp only [lvnOp, headerOk_sound hecc, if_true, if_pos hst, lvnKeep, hhome]
  rfl

theorem lvnOp_running (hecc : f.ecc = 0) (hrun : runs s Pg.netb = true) (hhome : homeOf s (lvnBlk f) = .ok h) :
    lvnOp f og s = lvnTake h.slice h f og s := by
  simp [lvnOp, headerOk_sound hecc, not_starting_of_runs hrun, hrun, hhome]

/-! ### The queue (R577) -/

/-- The first flit leaves the queue and is staged. -/
theorem lvnQueueOp_stages {t : List (Flit × List (BitVec 12 × BitVec 4))} (hrun : runs s (Pg.lvn i) = true)
    (hnet : bstate s Pg.netb ≠ B.starting) (hqueue : (sliceAt s i).lvnQueue = (f, og) :: t) (hhome : homeOf s (lvnBlk f) = .ok h)
    (hgood : gradSound s i f = true) (hroom : lvnRoom s i = true) :
    lvnQueueOp i s = lvnStage i h f og (lvnWaited i (setSlice i { sliceAt s i with lvnQueue := t } s)) := by
  have hgo : ¬ (bstate s (Pg.lvn i) = B.starting ∨ bstate s Pg.netb = B.starting) := not_or.2 ⟨not_starting_of_runs hrun, hnet⟩
  have hsound : (!gradSound s i f) = false := by rw [hgood]; rfl
  simp only [lvnQueueOp, hqueue, if_neg hgo, hhome, lvnRefuses_eq hrun, hsound, Bool.false_eq_true, if_false, if_pos hroom]
  rfl

/-! ### A batch (R584, R586) -/

/-- The oldest batch is merged, applied group by group and dropped; then the requests that waited for its lines go on. -/
theorem batchOp_running {b : LvnBatch} {t : List LvnBatch} (hrun : runs s (Pg.lvn i) = true) (hbatch : (sliceAt s i).batches = b :: t) :
    let z := lvnMerge i [] (lvnSort b.recs) s
    let s1 := foldS (fun grp u => lvnGroupApply i grp (z.1.filter (fun r => r.group = grp)) u) ((z.1.map (·.group)).dedup) z.2
    let s2 := lvnNote i (setSlice i { sliceAt s1 i with batches := t } s1)
    batchOp i s = foldS (fun r => lineFree i r.line) b.recs
      (setR (Pg.lvn i) R.LVN_LAST_NS (BitVec.ofNat 32 (Nat.min (s2.time - b.at_).toNat 0xFFFFFF)) s2) := by
  simp only [batchOp, hbatch, if_pos (Or.inl hrun : runs s (Pg.lvn i) = true ∨ bstate s (Pg.lvn i) = B.stopping)]
  rfl

/-- Settles O32, from the equation of each case. -/
theorem leavenStagesAndAppliesGradients : Obligations.LeavenStagesAndAppliesGradients := by
  intro s f og h i d p q hr g j sound
  have gives {t : State} (hop : lvnOp g og s = t) : Gives (.lvn f og) s t := hop ▸ act_next hr _
  refine ⟨fun hecc hst hhome => gives (lvnOp_starting hecc hst hhome), fun hecc hnet hhome => ?_, fun hi hrun => ?_, act_next hr _, act_next hr _⟩
  · have hop : lvnOp g og s = lvnTake j h g og s := lvnOp_running hecc hnet hhome
    exact ⟨fun hrun hgood hroom hempty => gives (hop.trans (lvnTake_stages hrun hgood hroom hempty)),
      fun hrun hgood hfull => gives (hop.trans (lvnTake_waits hrun hgood hfull)),
      fun hrun hbad => gives (hop.trans (lvnTake_refuses hrun hbad))⟩
  · refine ⟨fun t hqueue hhome hslice hgood hroom hnet => onUnit_gives hr hi ?_, fun b t hbatch => onUnit_gives hr hi (batchOp_running hrun hbatch)⟩
    exact lvnQueueOp_stages hrun hnet hqueue hhome (hslice ▸ hgood) hroom

end Sys2Proof.Machine

/-! The front of the queue (O1). -/

namespace Sys2Proof.Machine

/-- Settles O1: of the queue a step looks at nothing but its front. -/
theorem stepRunsTheFrontCommand : Obligations.StepRunsTheFrontCommand := fun _ _ _ => rfl

/-- What a command gives by the equation of its effect. -/
theorem act_gives {s t u : State} (hr : s.inReset = false) (h : t = u) : act s t = .next u := h ▸ act_next hr t

end Sys2Proof.Machine

/-! The commands of the Annals (O45): the message slot, the incident, the trace tail, RELEASE, CLEAR and DUMP (R788 to R802), an equation for each
case. -/

namespace Sys2Proof.Machine

variable {s : State}

/-! ### Chains of register writes -/

/-- `t` is `s` but for its control registers. -/
def RegsOnly (s t : State) : Prop := ∃ r, t = { s with regs := r }

theorem RegsOnly.refl (s : State) : RegsOnly s s := ⟨_, rfl⟩

theorem RegsOnly.trans {t u : State} (hst : RegsOnly s t) (htu : RegsOnly t u) : RegsOnly s u := by
  obtain ⟨_, rfl⟩ := hst
  obtain ⟨_, rfl⟩ := htu
  exact ⟨_, rfl⟩

theorem RegsOnly.setR (pg o : Nat) (v : Word) (s : State) : RegsOnly s (setR pg o v s) := ⟨_, rfl⟩

theorem RegsOnly.setF (pg o lo len v : Nat) (s : State) : RegsOnly s (setF pg o lo len v s) := ⟨_, rfl⟩

theorem RegsOnly.foldS {α : Type} {f : α → State → State} (hf : ∀ a s, RegsOnly s (f a s)) (l : List α) (s : State) : RegsOnly s (foldS f l s) := by
  induction l generalizing s with
  | nil => exact .refl s
  | cons a t ih => exact (hf a s).trans (ih _)

/-! ### The message slot (R794, R795) -/

/-- The message slot is not busy. -/
def slotIdle (s : State) : State := { s with ann := { s.ann with slotBusy := false } }

theorem alarmSlotFreeOp_held (h : s.ann.slotHeld = true) : alarmSlotFreeOp s = slotIdle s := by
  have hfree : slotFree (slotIdle s) = false := by simp [slotFree, slotIdle, h]
  exact if_neg (ne_true_of_eq_false hfree)

/-- Nothing waits: no entry of the coalesce table has a count, and no alarm was left out of it. -/
theorem alarmSlotFreeOp_nothing (hcoal : ∀ e ∈ s.ann.coal, e.count = 0) (hother : getR s Pg.ann R.ANN_OTHER = 0) :
    alarmSlotFreeOp s = slotIdle s := by
  have hwaiting : (slotIdle s).ann.coal.filter (fun e => 0 < e.count) = [] :=
    List.filter_eq_nil_iff.2 fun e he => by simp [hcoal e he]
  have hnone : getN (slotIdle s) Pg.ann R.ANN_OTHER = 0 := congrArg BitVec.toNat hother
  show slotService (slotIdle s) = slotIdle s
  unfold slotService
  split
  · simp only [hwaiting, hnone, if_true]
  · rfl

/-! ### Incidents, RELEASE and CLEAR (R791, R802) -/

theorem incidentShut_open (h : annOpen s = true) :
    incidentShut s =
      let t := setF Pg.ann R.ANN_STATUS 30 1 1 (setF Pg.ann R.ANN_STATUS 31 1 0 s)
      { t with ann := { s.ann with keys := [], coal := s.ann.coal.filter (fun e => decide (e.count ≠ 0)) } } := if_pos h

theorem incidentShut_none (h : annOpen s = false) : incidentShut s = s := if_neg (by simp [h])

theorem annReleaseOp_open (h : annOpen s = true) : annReleaseOp s = s := if_pos h

theorem annReleaseOp_closed (h : annOpen s = false) :
    annReleaseOp s = setF Pg.ann R.ANN_STATUS 0 7 0 (setF Pg.ann R.ANN_STATUS 30 1 0 s) := if_neg (by simp [h])

theorem annReleaseOp_frame (s : State) : RegsOnly s (annReleaseOp s) := by
  unfold annReleaseOp
  split
  · exact .refl s
  · exact (RegsOnly.setF ..).trans (.setF ..)

theorem annClearOp_ignored (h : annOpen s = true ∨ ∃ e ∈ s.ann.coal, e.count ≠ 0) : annClearOp s = ignoredCmd Pg.ann s :=
  if_pos (h.imp_right fun ⟨e, he, hc⟩ => List.any_eq_true.2 ⟨e, he, decide_eq_true hc⟩)

/-- With nothing open and nothing waiting the buffer and its tables are emptied; of the rest of the state only registers change. -/
theorem annClearOp_clears (hopen : annOpen s = false) (hcoal : ∀ e ∈ s.ann.coal, e.count = 0) :
    ∃ r, annClearOp s =
      { s with regs := r, ann := { s.ann with buf := [], coal := [], alarmRecs := [], logRecs := [], traceFull := false } } := by
  have hgo : ¬ (annOpen s = true ∨ (s.ann.coal.any fun e => e.count ≠ 0) = true) := by simpa [hopen] using hcoal
  have counters {l : List Nat} (u : State) : RegsOnly u (foldS (fun o => setR Pg.ann o 0) l u) := .foldS (fun _ _ => .setR ..) l u
  have heads {l : List (Nat × Word)} (u : State) : RegsOnly u (foldS (fun e => setR Pg.ann e.1 e.2) l u) := .foldS (fun _ _ => .setR ..) l u
  unfold annClearOp
  rw [if_neg hgo]
  obtain ⟨r, hregs⟩ := ((annReleaseOp_frame s).trans (counters _)).trans (heads _)
  exact ⟨r, by dsimp only; rw [hregs]⟩

/-! ### DUMP (R801) -/

theorem annDumpOp_busy (h : bit (getR s Pg.ann R.ANN_DUMP_STATUS) 31 = true) : annDumpOp s = ignoredCmd Pg.ann s := if_pos h

theorem annDumpOp_starts (h : bit (getR s Pg.ann R.ANN_DUMP_STATUS) 31 = false) :
    annDumpOp s =
      let t := unitOpen annUnit 0 (setR Pg.ann R.ANN_DUMP_STATUS 0x80000000 s)
      annSettle (unitWrite annUnit unitEp (getQ t Pg.ann R.ANN_DUMP_LO).toNat (Tab.slice 0 t.ann.buf 0 (256 * 1024)) t) := if_neg (by simp [h])

/-- Settles O45. That an ALARM from another die changes nothing here is the model's reading (log entry 121, DEDUCED). -/
theorem annalsCommands : Obligations.AnnalsCommands := by
  intro s v d rec hr a open_ shut
  refine ⟨act_next hr _, fun h => act_gives hr (alarmSlotFreeOp_held h), fun hcoal hother => act_gives hr (alarmSlotFreeOp_nothing hcoal hother),
    fun h => act_gives hr (incidentShut_open h), fun h => act_gives hr (incidentShut_none h), act_next hr _,
    fun h => act_gives hr (annReleaseOp_open h), fun h => act_gives hr (annReleaseOp_closed h), fun h => act_gives hr (annClearOp_ignored h),
    fun hopen hcoal => ?_, fun h => act_gives hr (annDumpOp_busy h), fun h => act_gives hr (annDumpOp_starts h), act_next hr _, rfl⟩
  obtain ⟨r, hclear⟩ := annClearOp_clears hopen hcoal
  exact ⟨_, act_gives hr hclear, rfl, rfl, rfl⟩

end Sys2Proof.Machine

/-! Test access (O46; R820 to R832): what the pins keep out, the scans of TEST messages, and the ends of instruments. -/

namespace Sys2Proof.Machine

variable {s : State} {op n k : Nat} {r : DWord}

/-! ### TEST messages (R826) -/

section
variable {ok : Bool} {f : State → List Bool × State}

theorem scanOp_drops (h : tapPins s = true ∨ ok = false) : scanOp op n ok f s = satR Pg.tst R.TST_TEST_DROPS 1 s := if_pos h

theorem scanOp_scans (hpins : tapPins s = false) (hok : ok = true) :
    scanOp op n ok f s = postMsg 0xFFF Cls.dbg (((f s).1.length + 63) / 64) (.test op n (f s).1) (wrapR Pg.tst R.TST_SCANS 1 (f s).2) :=
  if_neg (by simp [hpins, hok])

end

theorem nbitsOk_iff : nbitsOk n = true ↔ 1 ≤ n ∧ n ≤ 16320 := by simp [nbitsOk]

theorem nbitsOk_bad (h : n = 0 ∨ 16320 < n) : nbitsOk n = false := by
  rw [← Bool.not_eq_true, nbitsOk_iff]
  omega

/-! ### Instruments (R829, R830) -/

section
variable (hr : s.inReset = false) (hk : k < nInstruments)
include hr hk

theorem execInstrumentAbort_eq :
    execInstrumentAbort k s = .next (if (instrAt s k).1 = 1 ∧ instrReady s k = false then setInstr k (4, 0) s else s) := onUnit_gives hr hk rfl

/-- INSTRUMENT_DONE is the completion of the CSA's access, or the end of another instrument. -/
theorem execInstrumentDone_eq :
    execInstrumentDone k r s = .next
      (if k = 0 then
        if s.tap.csaBusy then updTap (fun t => { t with csa := t.csa ||| 0x8000000000000000, csaBusy := false }) s else s
      else if (instrAt s k).1 = 1 then setInstr k (2, r) s else s) := onUnit_gives hr hk rfl

end

/-- Settles O46. That EXTEST to BYPASS put their code in force at once, that the bits of IDLE are free, and what the completion of a CSA access sets
are the model's readings (log entries 132, 129 and 130). -/
theorem testAccessCommands : Obligations.TestAccessCommands := by
  intro s n k bs tms tdi r hr pins drop sent code
  refine ⟨fun hpins => ?_, fun hpins => ?_, act_next hr _, act_next hr _, act_next hr _, act_next hr _, act_next hr _, fun hk => ⟨?_, ?_, ?_, ?_⟩,
    ?_, ?_⟩
  · have dropped {op n ok f} : act s (scanOp op n ok f s) = .next drop := act_gives hr (scanOp_drops (.inl hpins))
    exact ⟨dropped, dropped, dropped, dropped, act_gives hr (if_pos hpins), act_gives hr (if_pos hpins)⟩
  · have hoff : ¬ tapPins s = true := ne_true_of_eq_false hpins
    have dropped {op n ok f} (hok : ok = false) : act s (scanOp op n ok f s) = .next drop := act_gives hr (scanOp_drops (.inr hok))
    have scans {op n ok f} (hok : ok = true) : act s (scanOp op n ok f s) = .next (sent op n (f s)) := act_gives hr (scanOp_scans hpins hok)
    exact ⟨act_gives hr (if_neg hoff), act_gives hr (if_neg hoff), fun h => dropped (decide_eq_false h), fun h => dropped (decide_eq_false h),
      fun h => ⟨dropped (nbitsOk_bad h), dropped (nbitsOk_bad h)⟩, scans rfl, scans rfl,
      fun h1 hmax => ⟨scans (nbitsOk_iff.2 ⟨h1, hmax⟩), scans (nbitsOk_iff.2 ⟨h1, hmax⟩)⟩⟩
  · exact fun hrun hnot => (execInstrumentAbort_eq hr hk).trans (congrArg _ (if_pos ⟨hrun, hnot⟩))
  · exact fun h => (execInstrumentAbort_eq hr hk).trans (congrArg _ (if_neg (by rcases h with h | h <;> simp [h])))
  · exact fun h0 hrun => (execInstrumentDone_eq hr hk).trans (congrArg _ ((if_neg h0).trans (if_pos hrun)))
  · exact fun h0 hrun => (execInstrumentDone_eq hr hk).trans (congrArg _ ((if_neg h0).trans (if_neg hrun)))
  · exact fun hbusy => (execInstrumentDone_eq hr (by decide)).trans (congrArg _ ((if_pos rfl).trans (if_pos hbusy)))
  · exact fun hfree => (execInstrumentDone_eq hr (by decide)).trans (congrArg _ ((if_pos rfl).trans (if_neg (by simp [hfree]))))

end Sys2Proof.Machine

/-! The pairing of twins and their copies (O47; R729 to R731, R747 to R755): an equation for each case. -/

namespace Sys2Proof.Machine

variable {s : State}

/-! ### HELLO, beats and a lost peer (R729 to R731, R747) -/

/-- The page waits for its first HELLO. -/
def HelloAwaited (s : State) : Prop := bstate s Pg.twn = B.starting ∧ s.twn.formed = false ∧ pstate s = 1

theorem helloAwaited_iff : HelloAwaited s ↔ bstate s Pg.twn = B.starting ∧ (!s.twn.formed) = true ∧ pstate s = 1 := by
  rw [HelloAwaited, Bool.not_eq_true']

section
variable {e : Word} {ptns mode : Nat} {role : Bool}

theorem helloOp_pairs (hw : HelloAwaited s) (hfits : e = getR s Pg.twn R.TWN_EPOCH ∧ ptns = twnPtns s ∧ mode = twnMode s ∧ role ≠ twnStandby s) :
    helloOp e ptns role mode s = enterPstate 3 { s with twn := { s.twn with formed := true } } :=
  (if_pos (helloAwaited_iff.1 hw)).trans (if_pos hfits)

theorem helloOp_faults (hw : HelloAwaited s)
    (hdiffers : ¬ (e = getR s Pg.twn R.TWN_EPOCH ∧ ptns = twnPtns s ∧ mode = twnMode s ∧ role ≠ twnStandby s)) :
    helloOp e ptns role mode s = fault Pg.twn 9 s := (if_pos (helloAwaited_iff.1 hw)).trans (if_neg hdiffers)

theorem helloOp_kept (hw : ¬ HelloAwaited s) : helloOp e ptns role mode s = s := if_neg fun h => hw (helloAwaited_iff.2 h)

end

theorem helloTimerOp_sends (hw : HelloAwaited s) : helloTimerOp s = helloSend s := if_pos (helloAwaited_iff.1 hw)

theorem helloTimerOp_kept (hw : ¬ HelloAwaited s) : helloTimerOp s = s := if_neg fun h => hw (helloAwaited_iff.2 h)

theorem beatTimerOp_up (h : twnUp s = true) : beatTimerOp s = twinSend 11 0 s.time 0 [] s := if_pos h

theorem beatTimerOp_down (h : twnUp s = false) : beatTimerOp s = s := if_neg (ne_true_of_eq_false h)

/-- The pair has lost its peer: what it held in part is dropped, and the alarm is sent. -/
def peerDropped (s : State) : State :=
  namedAlarm Pg.twn 1 (enterPstate 6
    { s with twn := { s.twn with staged := [], lost := [], forwarding := false, owed := [], doneWait := [], sent := [] } })

theorem twinLost_down (h : twnUp s = false) : twinLost s = s := if_neg (ne_true_of_eq_false h)

theorem twinLost_up (h : twnUp s = true) :
    twinLost s = if bit (getR (peerDropped s) Pg.twn R.TWN_CFG) 3 = true ∧ twnStandby (peerDropped s) = true then
      foldS startPtn (bitsSet 16 (twnPtns (peerDropped s))) (takePtns (twnPtns (peerDropped s)) (peerDropped s)) else peerDropped s := if_pos h

theorem twinLost_waits (h : twnUp s = true) (hauto : (bit (getR (peerDropped s) Pg.twn R.TWN_CFG) 3 && twnStandby (peerDropped s)) = false) :
    twinLost s = peerDropped s := (twinLost_up h).trans (if_neg (by simpa using hauto))

theorem twinLost_takes (h : twnUp s = true) (hauto : (bit (getR (peerDropped s) Pg.twn R.TWN_CFG) 3 && twnStandby (peerDropped s)) = true) :
    twinLost s = foldS startPtn (bitsSet 16 (twnPtns (peerDropped s))) (takePtns (twnPtns (peerDropped s)) (peerDropped s)) :=
  (twinLost_up h).trans (if_pos (Bool.and_eq_true_iff.1 hauto))

/-! ### TAKE (R749, R750) -/

theorem takeOp_busy (h : twnBusy s = true) : takeOp s = s := if_pos h

section
variable (hfree : twnBusy s = false)
include hfree

theorem takeOp_active (hside : twnStandby s = false) : takeOp s = twnResult false true 3 s := by simp [takeOp, hfree, hside]

theorem takeOp_standby (hside : twnStandby s = true) :
    takeOp s = if runs s Pg.twn = true ∧ (pstate s = 4 ∨ pstate s = 6) then
      twnResult false true 1 (takePtns (getF s Pg.twn R.TWN_TAKE_MASK 0 16 &&& twnPtns s) s) else twnResult false true 2 s := by
  by_cases hgo : runs s Pg.twn = true ∧ (pstate s = 4 ∨ pstate s = 6)
  · have hst : (decide (pstate s = 4) || decide (pstate s = 6)) = true := by simpa using hgo.2
    simp [takeOp, hfree, hside, hst, hgo]
  · have hst : (runs s Pg.twn && (decide (pstate s = 4) || decide (pstate s = 6))) = false := by
      rw [← Bool.not_eq_true]
      simpa using hgo
    simp only [takeOp, hfree, hside, hst, if_neg hgo]
    rfl

theorem takeOp_takes (hside : twnStandby s = true) (hrun : runs s Pg.twn = true) (hst : pstate s = 4 ∨ pstate s = 6) :
    takeOp s = twnResult false true 1 (takePtns (getF s Pg.twn R.TWN_TAKE_MASK 0 16 &&& twnPtns s) s) :=
  (takeOp_standby hfree hside).trans (if_pos ⟨hrun, hst⟩)

theorem takeOp_refused (hside : twnStandby s = true) (h : runs s Pg.twn = false ∨ (pstate s ≠ 4 ∧ pstate s ≠ 6)) :
    takeOp s = twnResult false true 2 s := by
  refine (takeOp_standby hfree hside).trans (if_neg ?_)
  rintro ⟨hrun, hst⟩
  rcases h with h | ⟨h4, h6⟩
  · exact absurd hrun (ne_true_of_eq_false h)
  · exact hst.elim h4 h6

/-! ### SILVER and FOSTER (R751, R752, R754) -/

theorem silverOp_standby (hside : twnStandby s = true) : silverOp s = twnResult false true 3 s := by simp [silverOp, hfree, hside]

theorem silverOp_unpaired (hside : twnStandby s = false) (hup : twnUp s = false) : silverOp s = twnResult false true 2 s := by
  simp [silverOp, hfree, hside, hup]

theorem silverOp_copies (hside : twnStandby s = false) (hup : twnUp s = true) :
    silverOp s = twnResult true false 0 (updTwn (fun t => { t with forwarding := true, silvered := false, owed := [] })
      (silverCopy (enterPstate 2 (setF Pg.twn R.TWN_STATUS 0 16 0 s)))) := by
  simp only [silverOp, hfree, hside, hup]
  rfl

variable {d : Nat} (hd : fld (getR s Pg.twn R.TWN_FOSTER) 16 12 = d)
include hd

/-- Is the neighbour of group `g` the lost die of this package that TWN_FOSTER names? -/
def fosterSide (s : State) (g d : Nat) : Bool := inPackage s d && decide (neighbour s g = d) && decide (d ≠ dieNum s)

/-- The group and channel pairs of a copy for the lost die on one side or both (R752). -/
def fosterPairs (east west : Bool) : List (Nat × Nat) := (if east then [(1, 0), (3, 2)] else []) ++ (if west then [(0, 1), (2, 3)] else [])

theorem fosterOp_free :
    fosterOp s =
      if runs s Pg.twn = true ∧ bit (getR s Pg.twn R.TWN_FOSTER) 31 = true ∧ s.unreach.contains d = true ∧
          (fosterSide s G.east d = true ∨ fosterSide s G.west d = true) then
        twnResult true false 0 (foldS (fun e => foldS (fosterChannel e.1 e.2) (List.range 8)) (fosterPairs (fosterSide s G.east d) (fosterSide s G.west d))
          (updTwn (fun t => { t with action := 2, moved := 0, actBad := false }) s))
      else twnResult false true 2 s := by
  subst hd
  exact if_neg (ne_true_of_eq_false hfree)

theorem fosterOp_refused (h : (runs s Pg.twn && bit (getR s Pg.twn R.TWN_FOSTER) 31) = false ∨ d ∉ s.unreach ∨ inPackage s d = false) :
    fosterOp s = twnResult false true 2 s := by
  refine (fosterOp_free hfree hd).trans (if_neg ?_)
  rintro ⟨hrun, hvalid, hlost, hside⟩
  rcases h with h | h | h
  · simp [hrun, hvalid] at h
  · exact h (by simpa using hlost)
  · simp [fosterSide, h] at hside

/-- The neighbour on the east side is lost, and it is not the one on the west side too. -/
theorem fosterOp_east (hrun : runs s Pg.twn = true) (hvalid : bit (getR s Pg.twn R.TWN_FOSTER) 31 = true) (hlost : d ∈ s.unreach)
    (hpack : inPackage s d = true) (heast : neighbour s G.east = d) (hwest : neighbour s G.west ≠ d) (hself : d ≠ dieNum s) :
    fosterOp s = twnResult true false 0 (foldS (fun e => foldS (fosterChannel e.1 e.2) (List.range 8)) [(1, 0), (3, 2)]
      (updTwn (fun t => { t with action := 2, moved := 0, actBad := false }) s)) := by
  have hE : fosterSide s G.east d = true := by simp [fosterSide, hpack, heast, hself]
  have hW : fosterSide s G.west d = false := by simp [fosterSide, hwest]
  rw [fosterOp_free hfree hd, if_pos ⟨hrun, hvalid, by simpa using hlost, .inl hE⟩, hE, hW]
  rfl

end

theorem silverOp_busy (h : twnBusy s = true) : silverOp s = s := if_pos h

theorem fosterOp_busy (h : twnBusy s = true) : fosterOp s = s := if_pos h

/-! ### The ends of the copies (R755) -/

theorem silverDoneOp_kept (h : s.twn.action ≠ 1) : silverDoneOp s = s := if_neg h

section
variable (hact : s.twn.action = 1)
include hact

theorem silverDoneOp_unpaired (hup : twnUp s = false) :
    silverDoneOp s = twnResult false true 2 { s with twn := { s.twn with action := 0, forwarding := false } } :=
  (if_pos hact).trans (if_pos (by rw [hup]; rfl))

variable (hup : twnUp s = true)
include hup

theorem silverDoneOp_up :
    silverDoneOp s =
      if s.twn.actBad = true then copyEnd (enterPstate 3 { s with twn := { s.twn with forwarding := false } })
      else
        let u := twinSend 12 0 0 (BitVec.ofNat 64 s.twn.moved) [] s
        let ps := (bitsSet 16 (twnPtns u)).filter (snapValid u)
        copyEnd (foldS (fun p x => shipment p (ptnSeq x p - 1) x) ps
          (updTwn (fun t => { t with silvered := true, owed := ps, forwarding := decide (ps ≠ []) }) (enterPstate 3 u))) :=
  (if_pos hact).trans (if_neg (by rw [hup]; decide))

theorem silverDoneOp_bad (hbad : s.twn.actBad = true) :
    silverDoneOp s = copyEnd (enterPstate 3 { s with twn := { s.twn with forwarding := false } }) := (silverDoneOp_up hact hup).trans (if_pos hbad)

theorem silverDoneOp_complete (hbad : s.twn.actBad = false) :
    silverDoneOp s =
      let u := twinSend 12 0 0 (BitVec.ofNat 64 s.twn.moved) [] s
      let ps := (bitsSet 16 (twnPtns u)).filter (snapValid u)
      copyEnd (foldS (fun p x => shipment p (ptnSeq x p - 1) x) ps
        (updTwn (fun t => { t with silvered := true, owed := ps, forwarding := decide (ps ≠ []) }) (enterPstate 3 u))) :=
  (silverDoneOp_up hact hup).trans (if_neg (ne_true_of_eq_false hbad))

end

theorem fosterDoneOp_ends (h : s.twn.action = 2) : fosterDoneOp s = copyEnd s := if_pos h

theorem fosterDoneOp_kept (h : s.twn.action ≠ 2) : fosterDoneOp s = s := if_neg h

/-! ### A SILVER message (R752, R755) -/

section
variable {sdie a : Nat} {bs : List Byte} {gl : List Word}

theorem silverMsgOp_stranger (hfoster : (runs s Pg.twn && decide (pstate s = 6) && !inPackage s sdie) = false)
    (hpeer : (twnUp s && decide (sdie = twnPeer s)) = false) : silverMsgOp sdie a bs gl s = s := by
  refine if_neg ?_
  rw [hfoster]
  simpa using hpeer

/-- In PEER_LOST a piece from a die of another package, with good Glaze and a home for each line, is written. -/
theorem silverMsgOp_fosters (hrun : runs s Pg.twn = true) (hst : pstate s = 6) (hpack : inPackage s sdie = false) (hlen : bs.length = 1024)
    (hglaze : ∀ k, k < 8 → gl[k]? = some (blockGlaze (a + 128 * k) ((bs.drop (128 * k)).take 128)))
    (hhome : ∀ k, k < 8 → ∃ h, homeOf s (a + 128 * k) = .ok h) : silverMsgOp sdie a bs gl s = (twinPut a bs s).2 := by
  have hfoster : (runs s Pg.twn && decide (pstate s = 6) && !inPackage s sdie) = true := by simp [hrun, hst, hpack]
  have hgood : ((List.range 8).all (fun k => gl[k]? == some (blockGlaze (a + 128 * k) ((bs.drop (128 * k)).take 128))) &&
      decide (bs.length = 1024)) = true := by
    rw [decide_eq_true hlen, Bool.and_true]
    exact List.all_eq_true.2 fun k hk => beq_iff_eq.2 (hglaze k (List.mem_range.1 hk))
  have hserved : (List.range 8).all (fun k => match homeOf s (a + 128 * k) with | .ok _ => true | .error _ => false) = true := by
    refine List.all_eq_true.2 fun k hk => ?_
    obtain ⟨h, hok⟩ := hhome k (List.mem_range.1 hk)
    simp only [hok]
  unfold silverMsgOp
  rw [if_pos (.inl hfoster)]
  simp only [hfoster, if_true]
  exact if_pos ⟨hgood, hserved⟩

end

/-! ### The obligation -/

/-- Settles O47. That FOSTER serves dies of this package alone, that the side is looked at before the state, and DONE beside the RESULT of a refusal
are the model's readings (log entries 123 and 133). -/
theorem twinPairingAndCopies : Obligations.TwinPairingAndCopies := by
  constructor
  · intro s e pt role m t hr w waits fits lone
    refine ⟨fun hw h => act_gives hr (helloOp_pairs hw h), fun hw h => act_gives hr (helloOp_faults hw h),
      fun hw => ⟨act_gives hr (helloOp_kept hw), act_gives hr (helloTimerOp_kept hw)⟩, fun hw => act_gives hr (helloTimerOp_sends hw), rfl,
      fun h => act_gives hr (beatTimerOp_up h), fun h => ⟨act_gives hr (beatTimerOp_down h), act_gives hr (twinLost_down h)⟩,
      fun h hauto => act_gives hr (twinLost_waits h hauto), fun h hauto => act_gives hr (twinLost_takes h hauto), fun h => act_gives hr (takeOp_busy h),
      fun hfree => ⟨fun hside => act_gives hr (takeOp_active hfree hside), fun hside =>
        ⟨fun hrun hst => act_gives hr (takeOp_takes hfree hside hrun hst), fun h => act_gives hr (takeOp_refused hfree hside h)⟩⟩⟩
  · intro s d whr bs gl hr w v lost
    have hd : fld v 16 12 = lost := congrArg (· % 2 ^ 12) (Nat.shiftRight_eq_div_pow v.toNat 16)
    refine ⟨fun h => ⟨act_gives hr (silverOp_busy h), act_gives hr (fosterOp_busy h)⟩, fun hfree => ⟨fun hside => act_gives hr (silverOp_standby hfree hside),
        fun hside hup => act_gives hr (silverOp_unpaired hfree hside hup), fun hside hup => act_gives hr (silverOp_copies hfree hside hup),
        fun h => act_gives hr (fosterOp_refused hfree hd h),
        fun hrun hvalid hlost hpack heast hwest hself => act_gives hr (fosterOp_east hfree hd hrun hvalid hlost hpack heast hwest hself)⟩,
      fun h => act_gives hr (silverDoneOp_kept h), fun hact hup => act_gives hr (silverDoneOp_unpaired hact hup),
      fun hact hup hbad => act_gives hr (silverDoneOp_bad hact hup hbad), fun hact hup hbad => act_gives hr (silverDoneOp_complete hact hup hbad),
      fun h => act_gives hr (fosterDoneOp_ends h), fun h => act_gives hr (fosterDoneOp_kept h),
      fun hfoster hpeer => act_gives hr (silverMsgOp_stranger hfoster hpeer),
      fun hrun hst hpack hgl hlen hglaze hhome => act_gives hr (silverMsgOp_fosters hrun hst hpack hlen hglaze hhome)⟩

end Sys2Proof.Machine

/-! Shipments between twins (O48; R734 to R741, R755): an equation for each case, on the standby's side and on the active one. -/

namespace Sys2Proof.Machine

variable {s : State} {p : Nat} {q : DWord}

/-! ### Messages of a shipment (R734, R735, R739) -/

/-- This is the standby of a pair that is up. -/
def StandsBy (s : State) : Prop := twnUp s = true ∧ twnStandby s = true

/-- The shipment is lost already, or its partition was taken. -/
def ShipGone (s : State) (p : Nat) (q : DWord) : Prop := p ∈ s.twn.taken ∨ (p, q) ∈ s.twn.lost

theorem shipGone_iff : ShipGone s p q ↔ s.twn.taken.contains p = true ∨ s.twn.lost.contains (p, q) = true := by
  simp [ShipGone]

/-- The messages of a shipment among those that are staged, and the others. -/
def shipMsgs (p : Nat) (q : DWord) (l : List ShipMsg) : List ShipMsg := l.filter (fun m => decide (m.p = p) && decide (m.q = q))
def shipOthers (p : Nat) (q : DWord) (l : List ShipMsg) : List ShipMsg := l.filter (fun m => !(decide (m.p = p) && decide (m.q = q)))

theorem filter_ship (l : List ShipMsg) : l.filter (fun m => decide (m.p = p ∧ m.q = q)) = shipMsgs p q l :=
  congrArg (l.filter ·) (funext fun _ => Bool.decide_and ..)

theorem filter_notShip (l : List ShipMsg) : l.filter (fun m => decide (¬ (m.p = p ∧ m.q = q))) = shipOthers p q l :=
  congrArg (l.filter ·) (funext fun m => by rw [decide_not, Bool.decide_and])

section
variable {m : ShipMsg}

theorem stageMsg_elsewhere (h : ¬ StandsBy s) : stageMsg m s = s := if_neg h

theorem stageMsg_gone (h : ShipGone s m.p m.q) : stageMsg m s = s := by
  by_cases hs : StandsBy s
  · exact (if_pos hs).trans (if_pos (shipGone_iff.1 h))
  · exact stageMsg_elsewhere hs

theorem stageMsg_ignored (h : ShipGone s m.p m.q ∨ ¬ StandsBy s) : stageMsg m s = s := h.elim stageMsg_gone stageMsg_elsewhere

variable (hs : StandsBy s) (hg : ¬ ShipGone s m.p m.q)
include hs hg

theorem stageMsg_staged (hroom : m.kind < 4 ∨ stagedBytes s + m.bytes.length ≤ stageBytes s) :
    stageMsg m s = { s with twn := { s.twn with staged := s.twn.staged ++ [m] } } := by
  have hfits : ¬ (4 ≤ m.kind ∧ stageBytes s < stagedBytes s + m.bytes.length) := by omega
  exact (if_pos hs).trans ((if_neg fun h => hg (shipGone_iff.2 h)).trans (if_neg hfits))

theorem stageMsg_lost (hkind : 4 ≤ m.kind) (hfull : ¬ stagedBytes s + m.bytes.length ≤ stageBytes s) :
    stageMsg m s = markStale { s with twn := { s.twn with lost := s.twn.lost ++ [(m.p, m.q)], staged := shipOthers m.p m.q s.twn.staged } } := by
  refine (if_pos hs).trans ((if_neg fun h => hg (shipGone_iff.2 h)).trans ((if_pos ⟨hkind, by omega⟩).trans ?_))
  rw [← filter_notShip]
  rfl

end

/-! ### A BLOCK (R755) -/

section
variable {whr : DWord} {bs : List Byte} {tile : Bool} {g : Word}

theorem blockOp_stages (hq : q ≠ 0) :
    blockOp p q whr bs tile g s = stageMsg { kind := 5, p := p, q := q, whr := whr, bytes := bs, tile := tile, glaze := g } s := if_neg hq

theorem blockOp_zero_kept (h : ¬ StandsBy s) : blockOp p 0 whr bs tile g s = s := (if_pos rfl).trans (if_neg h)

theorem blockOp_zero_written (hs : StandsBy s) (hg : g = blockGlaze whr.toNat bs) : blockOp p 0 whr bs tile g s = (twinPut whr.toNat bs s).2 :=
  (if_pos rfl).trans ((if_pos hs).trans (if_pos hg))

theorem blockOp_zero_bad (hs : StandsBy s) (hg : g ≠ blockGlaze whr.toNat bs) :
    blockOp p 0 whr bs tile g s = markStale { s with twn := { s.twn with silverBad := true } } :=
  (if_pos rfl).trans ((if_pos hs).trans (if_neg hg))

end

/-! ### DONE and SILVERED (R736, R737, R755) -/

/-- The shipment has left the staging area. -/
def shipRemoved (s : State) (p : Nat) (q : DWord) : State :=
  { s with twn := { s.twn with staged := shipOthers p q s.twn.staged, lost := s.twn.lost.filter (fun e => decide (e ≠ (p, q))) } }

section
variable {count : Nat}

theorem doneOp_kept (h : ¬ StandsBy s) : doneOp p q count s = s := if_neg h

theorem shipCheck_taken {ms : List ShipMsg} (h : p ∈ s.twn.taken) : shipCheck s p q count ms = 1 := if_pos (.inl (by simpa using h))

variable (hs : StandsBy s)
include hs

/-- DONE by the result of the checks. -/
theorem doneOp_standby :
    doneOp p q count s =
      let ms := shipMsgs p q s.twn.staged
      let r := shipCheck s p q count ms
      if r ≠ 0 then
        if s.twn.taken.contains p || decide (bstate s (Pg.ptn p) ≠ B.stopped) then twinSend 8 p q (BitVec.ofNat 64 r) [] (shipRemoved s p q)
        else markStale (twinSend 8 p q (BitVec.ofNat 64 r) [] (shipRemoved s p q))
      else syncBit p (wrapR Pg.twn R.TWN_SHIPS 1 (setPseq p q (twinSend 8 p q 0 []
        (foldS ringApply ms (snapApply p q ms (foldS shipApply ms (shipRemoved s p q))))))) := by
  refine (if_pos hs).trans ?_
  rw [shipRemoved, ← filter_ship, ← filter_notShip]
  rfl

theorem doneOp_refused (hcheck : shipCheck s p q count (shipMsgs p q s.twn.staged) = 2) (htaken : p ∉ s.twn.taken)
    (hstop : bstate s (Pg.ptn p) = B.stopped) : doneOp p q count s = markStale (twinSend 8 p q 2 [] (shipRemoved s p q)) := by
  have hstill : (s.twn.taken.contains p || decide (bstate s (Pg.ptn p) ≠ B.stopped)) = false := by simpa [hstop] using htaken
  rw [doneOp_standby hs]
  simp only [hcheck, hstill]
  rfl

theorem doneOp_taken (h : p ∈ s.twn.taken) : doneOp p q count s = twinSend 8 p q 1 [] (shipRemoved s p q) := by
  have hmoved : (s.twn.taken.contains p || decide (bstate s (Pg.ptn p) ≠ B.stopped)) = true := by simp [h]
  rw [doneOp_standby hs]
  simp only [shipCheck_taken h, hmoved]
  rfl

theorem doneOp_applied (hcheck : shipCheck s p q count (shipMsgs p q s.twn.staged) = 0) :
    doneOp p q count s =
      let ms := shipMsgs p q s.twn.staged
      syncBit p (wrapR Pg.twn R.TWN_SHIPS 1 (setPseq p q (twinSend 8 p q 0 []
        (foldS ringApply ms (snapApply p q ms (foldS shipApply ms (shipRemoved s p q))))))) :=
  (doneOp_standby hs).trans (if_neg (not_not_intro hcheck))

theorem silveredOp_bad (hbad : s.twn.silverBad = true) : silveredOp s = enterPstate 5 s := (if_pos hs).trans (if_pos hbad)

theorem silveredOp_good (hbad : s.twn.silverBad = false) :
    silveredOp s = enterPstate 3 (updTwn (fun t => { t with stale := false, silvered := true }) (setF Pg.twn R.TWN_STATUS 0 16 0 s)) :=
  (if_pos hs).trans (if_neg (ne_true_of_eq_false hbad))

end

theorem silveredOp_kept (h : ¬ StandsBy s) : silveredOp s = s := if_neg h

/-! ### ACK and digests (R736, R741) -/

section
variable {code n d : DWord}

theorem ackOp_applied (hup : twnUp s = true) (hside : twnStandby s = false) : ackOp p q 0 s = syncBit p (setPseq p q s) :=
  if_pos ⟨hup, by rw [hside]; rfl, rfl⟩

theorem ackOp_kept (h : twnUp s = false ∨ twnStandby s = true ∨ code ≠ 0) : ackOp p q code s = s := by
  refine if_neg ?_
  rintro ⟨hup, hside, hcode⟩
  rcases h with h | h | h
  · exact absurd hup (ne_true_of_eq_false h)
  · simp [h] at hside
  · exact h hcode

theorem digestOp_taken (h : (twnUp s && decide (twnMode s = 2) && twnPtn s p) = true) :
    digestOp p q n d s = digestCheck p q { s with twn := { s.twn with theirs := s.twn.theirs ++ [(p, q, n, d)] } } := by
  obtain ⟨⟨hup, hmode⟩, hptn⟩ := by simpa using h
  exact if_pos ⟨hup, hmode, hptn⟩

theorem digestOp_kept (h : (twnUp s && decide (twnMode s = 2) && twnPtn s p) = false) : digestOp p q n d s = s := by
  refine if_neg fun ⟨hup, hmode, hptn⟩ => ?_
  simp [hup, hmode, hptn] at h

end

/-! ### Digests that are late and shipments that wait for Leaven (R734, R741) -/

theorem digestTimeoutOp_none (h : ∀ e ∈ s.twn.mine, e.1 ≠ p) : digestTimeoutOp p s = s := by
  unfold digestTimeoutOp
  split
  next e hfind =>
    obtain ⟨hp, -⟩ := of_decide_eq_true (List.find?_eq_some_iff_append.1 hfind).1
    exact absurd hp (h e (List.mem_of_find?_eq_some hfind))
  · rfl

theorem digestTimeoutOp_lags {e : Nat × DWord × DWord × DWord} {r : List (Nat × DWord × DWord × DWord)} (hmine : s.twn.mine = e :: r) (hp : e.1 = p)
    (hlag : (p, e.2.1) ∉ s.twn.lagged) (hup : twnUp s = true) :
    digestTimeoutOp p s = namedAlarm Pg.twn 2 { s with twn := { s.twn with lagged := s.twn.lagged ++ [(p, e.2.1)] } } := by
  have hfind : s.twn.mine.find? (fun e => e.1 = p ∧ !(s.twn.lagged.contains (p, e.2.1))) = some e := by
    rw [hmine]
    exact List.find?_cons_of_pos (by simpa [hp] using hlag)
  simp only [digestTimeoutOp, hfind]
  exact if_pos hup

theorem shipDoneOp_none (h : ∀ e ∈ s.twn.doneWait, e.1 ≠ p) : shipDoneOp p s = s := by
  unfold shipDoneOp
  split
  next i q hfind =>
    have hp := of_decide_eq_true (List.find?_eq_some_iff_append.1 hfind).1
    exact absurd hp (h _ (List.mem_of_find?_eq_some hfind))
  · rfl

/-- The messages of a shipment that have been sent. -/
def shipCount (s : State) (p : Nat) (q : DWord) : Nat :=
  ((s.twn.sent.find? (fun e => decide (e.1 = p) && decide (e.2.1 = q))).map (fun e => e.2.2)).getD 0

/-- A shipment waits no more, and its messages are counted no more. -/
def shipEnded (p : Nat) (q : DWord) (t : Twn) : Twn :=
  { t with doneWait := t.doneWait.erase (p, q), sent := t.sent.filter (fun e => !(decide (e.1 = p) && decide (e.2.1 = q))) }

theorem shipDoneOp_sends {r : List (Nat × DWord)} (hwait : s.twn.doneWait = (p, q) :: r) (hup : twnUp s = true) (hbatch : batchesDone s p q = true) :
    shipDoneOp p s =
      wrapR Pg.twn R.TWN_SHIPS 1 (updTwn (shipEnded p q) (twinSend 7 p q (BitVec.ofNat 64 (shipCount s p q + 1)) [] s)) := by
  have hfind : s.twn.doneWait.find? (fun e => e.1 = p) = some (p, q) := by
    rw [hwait]
    exact List.find?_cons_of_pos (decide_eq_true rfl)
  simp only [shipDoneOp, hfind, shipCount, if_pos (And.intro hup hbatch), Bool.decide_and, decide_not]
  rfl

/-! ### The obligation -/

/-- Settles O48. That COUNT includes DONE itself, and the codes of ACK, are the model's reading (log entry 122, DEDUCED). -/
theorem twinShipments : Obligations.TwinShipments := by
  intro s p q whr d n bs tile g cnt a b hr w here msg ends staged gone fits drop ms rest
  have hp : p.toNat < nPtns := p.isLt
  refine ⟨fun hs hg => ?_, fun h => ?_,
    fun h => ⟨act_gives hr (blockOp_zero_kept h), act_gives hr (doneOp_kept h), act_gives hr (silveredOp_kept h)⟩,
    fun hs hg => act_gives hr (blockOp_zero_written hs hg), fun hs hg => act_gives hr (blockOp_zero_bad hs hg),
    fun hs => ⟨fun hcheck htaken hstop => act_gives hr (doneOp_refused hs hcheck htaken hstop), fun h => act_gives hr (doneOp_taken hs h),
      fun hcheck => act_gives hr (doneOp_applied hs hcheck), fun hbad => act_gives hr (silveredOp_bad hs hbad),
      fun hbad => act_gives hr (silveredOp_good hs hbad)⟩,
    fun hup hside => act_gives hr (ackOp_applied hup hside), fun h => act_gives hr (ackOp_kept h), fun h => act_gives hr (digestOp_taken h),
    fun h => act_gives hr (digestOp_kept h), fun h => onUnit_gives hr hp (digestTimeoutOp_none h),
    fun e r hmine he hlag hup => onUnit_gives hr hp (digestTimeoutOp_lags hmine he hlag hup), fun h => onUnit_gives hr hp (shipDoneOp_none h),
    fun r hwait hup hbatch => onUnit_gives hr hp (shipDoneOp_sends hwait hup hbatch)⟩
  · have small {k l} (hk : k < 4) : act s (stageMsg (msg k l false 0) s) = .next (staged (msg k l false 0)) :=
      act_gives hr (stageMsg_staged (m := msg k l false 0) hs hg (.inl hk))
    have fit {k l tl gl} (hfit : fits l.length) : act s (stageMsg (msg k l tl gl) s) = .next (staged (msg k l tl gl)) :=
      act_gives hr (stageMsg_staged (m := msg k l tl gl) hs hg (.inr hfit))
    have lose {k l tl gl} (hk : 4 ≤ k) (hfull : ¬ fits l.length) : act s (stageMsg (msg k l tl gl) s) = .next drop :=
      act_gives hr (stageMsg_lost (m := msg k l tl gl) hs hg hk hfull)
    have block {t} (hq : q ≠ 0) (h : act s (stageMsg (msg 5 bs tile g) s) = .next t) : Gives (.block p q whr bs tile g) s t :=
      (congrArg (act s) (blockOp_stages hq)).trans h
    exact ⟨small (by decide), small (by decide), fun hfit => ⟨fit hfit, fun hq => block hq (fit hfit)⟩,
      fun hfull => ⟨lose (by decide) hfull, fun hq => block hq (lose (by decide) hfull)⟩, fun hfit => fit hfit⟩
  · have kept {k l tl gl} : act s (stageMsg (msg k l tl gl) s) = .next s := act_gives hr (stageMsg_ignored (m := msg k l tl gl) h)
    exact ⟨kept, kept, kept, fun hq => (congrArg (act s) (blockOp_stages hq)).trans kept, kept⟩

end Sys2Proof.Machine

/-! Rings and doorbells (O33; R609 to R625): an equation for each case of enabling, of a doorbell write, and of the MSG messages. -/

namespace Sys2Proof.Machine

variable {s : State} {r : Nat}

/-! ### Enabling (R609, R611) -/

section
variable (hoff : ringEnabled s r = false)
include hoff

theorem ringEnableOp_sound (hok : ringOk s r = true) (htyp : (ringDesc s r).typ ≠ 3) : ringEnableOp r s = setRingBit r true s := by
  simp [ringEnableOp, hoff, hok, htyp]

theorem ringEnableOp_bad (hbad : ringOk s r = false) : ringEnableOp r s = dblErr r 1 s := by simp [ringEnableOp, hoff, hbad]

end

/-- A ring that is no MSG ring has nothing kept for its peer. -/
theorem ringDisableOp_enabled (hon : ringEnabled s r = true) (hnone : ∀ y ∈ s.msgRings, y.ring ≠ r) :
    ringDisableOp r s = setRingBit r false (ringDrop r s) := by
  have hkeep : s.msgRings.filter (fun m => decide (¬ (m.ring = r ∧ (ringDesc s r).dir = false))) = s.msgRings :=
    List.filter_eq_self.2 fun y hy => decide_eq_true fun h => hnone y hy h.1
  exact (if_pos hon).trans (congrArg (fun l => setRingBit r false (ringDrop r { s with msgRings := l })) hkeep)

/-! ### Doorbell writes (R612, R614, R616) -/

section
variable {prod : Bool} {v : Word}

theorem doorbellWrite_taken (hrun : runs s (dblPage r) = true) (hon : ringEnabled s r = true) (hown : hostOwns (ringDesc s r) prod = true) :
    doorbellWrite r prod v s = hostUpd { ring := r, host := true, prod := prod, val := v } s := if_pos ⟨hrun, hon, hown⟩

theorem doorbellWrite_refused (h : (runs s (dblPage r) && ringEnabled s r && hostOwns (ringDesc s r) prod) = false) :
    doorbellWrite r prod v s = dblRefuse r 2 s := by
  refine if_neg fun ⟨hrun, hon, hown⟩ => ?_
  simp [hrun, hon, hown] at h

end

theorem hostUpd_at_once {u : RingUpd} (h : ringHeld s (ringDesc s u.ring) = false) : hostUpd u s = applyUpd u s := if_neg (ne_true_of_eq_false h)

theorem hostUpd_staged {u : RingUpd} (hheld : ringHeld s (ringDesc s u.ring) = true) (hroom : stageFull s u = false) :
    hostUpd u s = setStage (s.ringStage.filter (fun w => !sameUpd u w) ++ [u]) s :=
  (if_pos hheld).trans (if_neg (ne_true_of_eq_false hroom))

/-! ### MSG rings (R618, R623 to R625) -/

section
variable {m : MsgRing} {d : RingDesc} (hd : ringDesc s r = d) (hm : msgRing s r = some m) (hon : ringEnabled s r = true) (htyp : d.typ = 3)
include hd hm hon htyp

theorem msgSendOp_sends (hdir : d.dir = false) (hrun : runs s (dblPage r) = true) (hgo : m.stopped = false) (hcredit : 0 < m.credits)
    (hnext : m.next.toNat ≠ d.prod) :
    msgSendOp r s = wrapR (dblPage r) R.DBL_MSG_SENT 1 (setMsgRing { m with credits := m.credits - 1, next := m.next + 1 }
      (postMsg d.peerDie Cls.int 9 (.ringEntry d.peerDie d.peerRing m.next (BitVec.ofNat 512 (memNum s (ringEntryAddr d m.next.toNat) 64))) s)) := by
  simp only [msgSendOp, hm, hd]
  exact if_pos ⟨hrun, hon, htyp, hdir, hgo, hcredit, hnext⟩

theorem msgCreditOp_adds (n : Nat) (hdir : d.dir = false) : msgCreditOp r n false s = setMsgRing { m with credits := m.credits + n } s := by
  simp only [msgCreditOp, hm, hd]
  exact if_pos ⟨hon, htyp, hdir⟩

theorem msgCreditOp_restores (n : Nat) (hdir : d.dir = false) :
    msgCreditOp r n true s = setMsgRing { m with credits := n, next := BitVec.ofNat 32 (indexAhead s r false d.cons), stopped := false } s := by
  simp only [msgCreditOp, hm, hd]
  exact if_pos ⟨hon, htyp, hdir⟩

/-- The update that an entry at slot `p` of a receive ring asks for. -/
def entryUpd (r p : Nat) : RingUpd := { ring := r, host := true, prod := true, val := BitVec.ofNat 32 (p + 1) }

variable {sdie : Nat} {v : Word} {entry : BitVec 512} (hdir : d.dir = true) (hrun : runs s (dblPage r) = true) (hpeer : d.peerDie = sdie)
  (hnew : 0 ≤ idxDiff v.toNat m.next.toNat)
include hdir hrun hpeer hnew

/-- An entry that has not arrived before. -/
theorem ringArrive_new :
    ringArrive r sdie v entry s =
      let p := indexAhead s r true d.prod
      if ringHeld s d = true ∧ stageFull s (entryUpd r p) = true then s
      else postMsg sdie Cls.int 1 (.ringAck sdie d.peerRing v) (wrapR (dblPage r) R.DBL_MSG_RCVD 1
        (setMsgRing { m with next := v + 1, stopped := false } (hostUpd (entryUpd r p) (memPut (ringEntryAddr d p) (bytesOf 64 entry.toNat) s)))) := by
  simp only [ringArrive, hm, hd]
  exact (if_pos ⟨hrun, hon, htyp, hdir, hpeer⟩).trans (if_pos (.inr hnew))

theorem ringArrive_waits (hfull : (ringHeld s d && stageFull s (entryUpd r (indexAhead s r true d.prod))) = true) : ringArrive r sdie v entry s = s :=
  (ringArrive_new hd hm hon htyp hdir hrun hpeer hnew).trans (if_pos (Bool.and_eq_true_iff.1 hfull))

theorem ringArrive_taken (hroom : (ringHeld s d && stageFull s (entryUpd r (indexAhead s r true d.prod))) = false) :
    ringArrive r sdie v entry s =
      let p := indexAhead s r true d.prod
      postMsg sdie Cls.int 1 (.ringAck sdie d.peerRing v) (wrapR (dblPage r) R.DBL_MSG_RCVD 1
        (setMsgRing { m with next := v + 1, stopped := false } (hostUpd (entryUpd r p) (memPut (ringEntryAddr d p) (bytesOf 64 entry.toNat) s)))) :=
  (ringArrive_new hd hm hon htyp hdir hrun hpeer hnew).trans (if_neg fun h => ne_true_of_eq_false hroom (Bool.and_eq_true_iff.2 h))

end

/-- The update that an acknowledgement asks for. -/
def ackUpd (r : Nat) (v : Word) : RingUpd := { ring := r, host := true, prod := false, val := v + 1 }

theorem msgAckOp_advances {v : Word} (hon : ringEnabled s r = true) (htyp : (ringDesc s r).typ = 3) (hdir : (ringDesc s r).dir = false)
    (hroom : (ringHeld s (ringDesc s r) && stageFull s (ackUpd r v)) = false) : msgAckOp r v s = hostUpd (ackUpd r v) s :=
  if_pos ⟨hon, htyp, hdir, fun h => ne_true_of_eq_false hroom (Bool.and_eq_true_iff.2 h)⟩

theorem msgAckOp_waits {v : Word} (hfull : (ringHeld s (ringDesc s r) && stageFull s (ackUpd r v)) = true) : msgAckOp r v s = s :=
  if_neg fun ⟨_, _, _, h⟩ => h (Bool.and_eq_true_iff.1 hfull)

/-! ### The obligation -/

/-- Settles O33. That RING and MSG_ACK wait while the store is full, and the index that counts what is staged already, are the model's readings (log
entries 137, DEDUCED, and 106). -/
theorem ringsAndDoorbells : Obligations.RingsAndDoorbells := by
  intro s r v n sdie entry m hr k d pg
  have hk : k < 65536 := r.isLt
  refine ⟨fun hoff hok htyp => onUnit_gives hr hk (ringEnableOp_sound hoff hok htyp), fun hoff hbad => onUnit_gives hr hk (ringEnableOp_bad hoff hbad),
    fun hon hnone => onUnit_gives hr hk (ringDisableOp_enabled hon hnone),
    fun hrun hon hown => onUnit_gives hr hk (doorbellWrite_taken hrun hon hown), fun hrun hon hown => onUnit_gives hr hk (doorbellWrite_taken hrun hon hown),
    fun h => onUnit_gives hr hk (doorbellWrite_refused h), fun h => onUnit_gives hr hk (doorbellWrite_refused h),
    fun hon htyp hm => ⟨fun hdir hrun hgo hcredit hnext => ?_, fun hdir hrun hpeer hnew => ⟨fun hfull => ?_, fun hroom => ?_⟩,
      fun hdir => ⟨act_gives hr (msgCreditOp_adds rfl hm hon htyp _ hdir), act_gives hr (msgCreditOp_restores rfl hm hon htyp _ hdir)⟩⟩,
    fun hon htyp hdir => ⟨fun hroom => act_gives hr (msgAckOp_advances hon htyp hdir hroom), fun hfull => act_gives hr (msgAckOp_waits hfull)⟩,
    fun u h => hostUpd_at_once h, fun u hheld hroom => hostUpd_staged hheld hroom⟩
  · exact onUnit_gives hr hk (msgSendOp_sends rfl hm hon htyp hdir hrun hgo hcredit hnext)
  · exact act_gives hr (ringArrive_waits rfl hm hon htyp hdir hrun hpeer hnew hfull)
  · exact act_gives hr (ringArrive_taken rfl hm hon htyp hdir hrun hpeer hnew hroom)

end Sys2Proof.Machine

/-! Ports that leave their service set and rejoin it (O39): resends, retraining, handover, OFFLINE and ONLINE, remaps, lost ports and drains (R641 to
R680), an equation for each case. -/

namespace Sys2Proof.Machine

variable {s : State} {p g q idx e k : Nat} {v : Word}

/-! ### Resends and retraining (R641, R663) -/

theorem ackTimeoutOp_empty (h : (portAt s p).buf = []) : ackTimeoutOp p s = s := by simp only [ackTimeoutOp, h]

theorem ackTimeoutOp_resends {b : Nat × Nat × Nat} {l : List (Nat × Nat × Nat)} (h : (portAt s p).buf = b :: l) (hhears : portHears s p = true) :
    ackTimeoutOp p s = resendFrom p b.1 s := by
  simp only [ackTimeoutOp, h]
  exact if_pos hhears

theorem bit_zero (v : Word) : bit v 0 = decide (v.toNat % 2 = 1) := Nat.testBit_zero v.toNat

/-- A write of LNK_ACTION that asks for no retraining. -/
theorem retrain_noGo (h : v.toNat % 2 = 0) : (if bit v 0 then retrainOp p (bit v 1) s else s) = s := by
  rw [bit_zero, decide_eq_false (by omega)]
  rfl

theorem retrain_leaves (hgo : v.toNat % 2 = 1) (hrun : runs s (Pg.lnk p) = true) (hstate : lstate s p ≠ LS.train) :
    (if bit v 0 then retrainOp p (bit v 1) s else s) =
      leaveSet p (updPort p (fun x => { x with retraining := true, restore := bit v 1 || x.restore })
        (namedAlarm (Pg.lnk p) 4 (satR (Pg.lnk p) R.LNK_RETRAINS 1 s))) := by
  rw [bit_zero, decide_eq_true hgo]
  exact (if_pos rfl).trans (if_pos ⟨hrun, hstate⟩)

/-! ### Handover (R662) -/

theorem retireWordOp_unnamed (h : groupSize (groupOf p) ≤ idx) : retireWordOp p idx e s = s := if_pos (.inl h)

theorem retireWordOp_self (h : groupFirst (groupOf p) + idx = p ∨ groupOf p < 4) : retireWordOp p idx e s = s := if_pos (.inr h)

/-- The port named has begun to leave here too, so that the far side's word is not answered: its frames go out on this one. -/
theorem retireWordOp_begun (hq : groupFirst (groupOf p) + idx = q) (hidx : idx < groupSize (groupOf p)) (hother : q ≠ p) (hlink : 4 ≤ groupOf p)
    (hbegun : (grpAt s (groupOf p)).remap.contains (q, false) = true) :
    retireWordOp p idx e s =
      let t := updPort q (fun x => { x with hseq := x.rx }) s
      let b := (portAt t q).buf.filter (fun w => decide (0 ≤ seqDiff w.1 e) && decide (w.2.1 < 4))
      foldS (fun w u => portSend p (8 + w.2.1) (send (.hovr q p w.1) u)) b (setPort q { portAt t q with buf := [] } t) := by
  subst hq
  have hnamed : ¬ (groupSize (groupOf p) ≤ idx ∨ groupFirst (groupOf p) + idx = p ∨ groupOf p < 4) := by omega
  simp only [retireWordOp, if_neg hnamed, hbegun, if_true]

/-! ### OFFLINE and ONLINE (R663, R680) -/

theorem offlineOp_unnamed (h : groupSize (groupOf p) ≤ idx) : offlineOp p idx s = s := if_pos (.inl h)

theorem onlineOp_unnamed (h : groupSize (groupOf p) ≤ idx) : onlineOp p idx s = s := if_pos h

section
variable (hq : groupFirst (groupOf p) + idx = q) (hidx : idx < groupSize (groupOf p))
include hq

theorem offlineOp_dead (h : portLive s q = false) : offlineOp p idx s = s := if_pos (.inr (by rw [hq, h]; rfl))

include hidx

theorem offlineOp_leaves (h : portLive s q = true) : offlineOp p idx s = leaveSet q (updPort q (fun x => { x with farOff := true }) s) := by
  subst hq
  refine if_neg ?_
  rw [h]
  simpa using hidx

/-- The far side serves the port again. -/
def farServes (q : Nat) (s : State) : State := updPort q (fun x => { x with farOff := false }) s

theorem onlineOp_named :
    onlineOp p idx s =
      if runs (farServes q s) (Pg.lnk q) = true ∧ lstate (farServes q s) q = LS.offline then joinSet q (setLstate q LS.up (farServes q s))
      else if runs (farServes q s) (Pg.lnk q) = true ∧ lstate (farServes q s) q = LS.up then joinSet q (farServes q s) else farServes q s := by
  subst hq
  exact if_neg (by omega)

theorem onlineOp_rejoins (hrun : runs (farServes q s) (Pg.lnk q) = true) (hst : lstate (farServes q s) q = LS.offline) :
    onlineOp p idx s = joinSet q (setLstate q LS.up (farServes q s)) := (onlineOp_named hq hidx).trans (if_pos ⟨hrun, hst⟩)

theorem onlineOp_joins (hrun : runs (farServes q s) (Pg.lnk q) = true) (hst : lstate (farServes q s) q = LS.up) :
    onlineOp p idx s = joinSet q (farServes q s) := by
  rw [onlineOp_named hq hidx, if_neg (by simp [hst]), if_pos ⟨hrun, hst⟩]

theorem onlineOp_notes (hrun : runs (farServes q s) (Pg.lnk q) = false) : onlineOp p idx s = farServes q s := by
  rw [onlineOp_named hq hidx, if_neg (by simp [hrun]), if_neg (by simp [hrun])]

end

/-! ### Remaps (R661) -/

/-- Every frame of the ports in service is acknowledged, and no handover frame waits. -/
def GroupQuiet (s : State) (g : Nat) : Prop := ∀ k ∈ portsIn s g, (portAt s k).buf = [] ∧ ∀ w ∈ (portAt s k).queue, w < 8

theorem groupQuiet_iff :
    GroupQuiet s g ↔ (portsIn s g).all (fun p => (portAt s p).buf.isEmpty && ((portAt s p).queue.filter (8 ≤ ·)).isEmpty) = true := by
  simp [GroupQuiet]

theorem remapResumeOp_none (h : (grpAt s g).remap = []) : remapResumeOp g s = s := if_pos (.inl h)

theorem remapResumeOp_waits (h : ∃ k ∈ portsIn s g, (portAt s k).buf ≠ []) : remapResumeOp g s = s := by
  obtain ⟨k, hk, hbuf⟩ := h
  have hbusy : ¬ GroupQuiet s g := fun hquiet => hbuf (hquiet k hk).1
  rw [groupQuiet_iff, Bool.not_eq_true] at hbusy
  exact if_pos (.inr (by rw [hbusy]; rfl))

/-- The remap of the group is over. -/
def remapOpened (g : Nat) (s : State) : State := setGrp g { grpAt s g with remap := [] } s

section
variable (hquiet : GroupQuiet s g)
include hquiet

theorem groupQuiet_resumes (h : (grpAt s g).remap ≠ []) :
    ¬ ((grpAt s g).remap = [] ∨
      (!(portsIn s g).all (fun p => (portAt s p).buf.isEmpty && ((portAt s p).queue.filter (8 ≤ ·)).isEmpty)) = true) := by
  simp [groupQuiet_iff.1 hquiet, h]

theorem remapResumeOp_joins (h : (grpAt s g).remap = [(k, true)]) :
    remapResumeOp g s =
      let t := setService k true (remapOpened g s)
      foldS portFlush (portsIn t g) t := by
  refine (if_neg (groupQuiet_resumes hquiet (by simp [h]))).trans ?_
  simp only [h, foldS]
  rfl

/-- What waited at a port that has left goes to the first of those that remain. -/
def requeued (k g : Nat) (s : State) : State :=
  let u := updPort k (fun x => { x with queue := [] }) s
  match portsIn u g with
  | [] => u
  | h :: _ => foldS (portSend h) ((portAt s k).queue.filter (· < 4)) u

theorem remapResumeOp_leaves (h : (grpAt s g).remap = [(k, false)]) :
    remapResumeOp g s =
      let v := requeued k g (afterLeave k (setService k false (remapOpened g s)))
      foldS portFlush (portsIn v g) v := by
  refine (if_neg (groupQuiet_resumes hquiet (by simp [h]))).trans ?_
  simp only [h, foldS]
  rfl

end

/-! ### Lost ports and drains (R669, R671) -/

theorem portHears_iff : portHears s p = true ↔ portLive s p = true ∧ LS.id ≤ lstate s p := by simp [portHears]

theorem linkDownOp_unserved (hhears : portHears s p = true) (hout : (portsIn s (groupOf p)).contains p = false) :
    linkDownOp p s = updPort p (fun x => { x with failSince := some s.time, ids := 0, delays := [], lastId := none })
      (namedAlarm (Pg.lnk p) 5 (setLstate p LS.down s)) := by
  have htime : (namedAlarm (Pg.lnk p) 5 (setLstate p LS.down s)).time = s.time := congrArg (·.2.2.2.2.1) (kept_namedAlarm _ _ (setLstate p LS.down s))
  refine (if_pos (portHears_iff.1 hhears)).trans ?_
  simp only [hout, htime]
  rfl

theorem linkDownOp_kept (h : lstate s p < LS.id) : linkDownOp p s = s := if_neg fun ⟨_, hid⟩ => Nat.not_le.2 h hid

theorem drainTimeoutOp_kept (h : (grpAt s g).drain = false) : drainTimeoutOp g s = s := if_neg (ne_true_of_eq_false h)

theorem drainTimeoutOp_drops (h : (grpAt s g).drain = true) :
    drainTimeoutOp g s =
      let n := ((groupPorts g).map (fun k => (portAt s k).buf.length)).foldl (· + ·) 0
      let t := foldS (fun k => updPort k (fun x => { x with buf := [], queue := [], memAck := x.memPut })) (groupPorts g) s
      satR (Pg.lkg g) R.LKG_DRAIN_LOST n (setGrp g { grpAt t g with drain := false } t) := if_pos h

/-! ### The obligation -/

/-- Settles O39, from the equation of each case. -/
theorem portsLeaveAndRejoin : Obligations.PortsLeaveAndRejoin := by
  intro s p g idx e v hr hp hg q off onl
  refine ⟨fun h => onUnit_gives hr hp (ackTimeoutOp_empty h), fun b l h hhears => onUnit_gives hr hp (ackTimeoutOp_resends h hhears),
    fun h => ?_, fun hgo hrun hst => ?_,
    fun h => ⟨onUnit_gives hr hp (offlineOp_unnamed h), onUnit_gives hr hp (onlineOp_unnamed h), onUnit_gives hr hp (retireWordOp_unnamed h)⟩,
    fun h => onUnit_gives hr hp (retireWordOp_self h),
    fun hidx hother hlink hbegun => onUnit_gives hr hp (retireWordOp_begun rfl hidx hother hlink hbegun),
    fun hidx => ⟨fun h => onUnit_gives hr hp (offlineOp_leaves rfl hidx h), fun h => onUnit_gives hr hp (offlineOp_dead rfl h),
      fun hrun hst => onUnit_gives hr hp (onlineOp_rejoins rfl hidx hrun hst), fun hrun hst => onUnit_gives hr hp (onlineOp_joins rfl hidx hrun hst),
      fun hrun => onUnit_gives hr hp (onlineOp_notes rfl hidx hrun)⟩,
    fun h => onUnit_gives hr hg (remapResumeOp_none h), fun _ h => onUnit_gives hr hg (remapResumeOp_waits h), fun hquiet => ⟨fun k h => ?_, fun k h => ?_⟩,
    fun hhears hout => onUnit_gives hr hp (linkDownOp_unserved hhears hout), fun h => onUnit_gives hr hp (linkDownOp_kept h),
    fun h => onUnit_gives hr hg (drainTimeoutOp_kept h), fun h => onUnit_gives hr hg (drainTimeoutOp_drops h)⟩
  · exact onUnit_gives (f := fun u => if bit v 0 then retrainOp p (bit v 1) u else u) hr hp (retrain_noGo h)
  · exact onUnit_gives (f := fun u => if bit v 0 then retrainOp p (bit v 1) u else u) hr hp (retrain_leaves hgo hrun hst)
  · exact onUnit_gives hr hg (remapResumeOp_joins hquiet h)
  · exact onUnit_gives hr hg (remapResumeOp_leaves hquiet h)

end Sys2Proof.Machine

/-! Fields of words and of registers: what a field reads after another one, or another register, has been written. -/

namespace Sys2Proof.Machine

variable {F : Fuses} {s : State}

/-! ### Words -/

theorem testBit_fld {n : Nat} (w : BitVec n) (lo len j : Nat) : (fld w lo len).testBit j = (decide (j < len) && w.getLsbD (lo + j)) := by
  rw [fld, Nat.testBit_mod_two_pow, Nat.testBit_shiftRight]
  rfl

/-- A bit after a field has been set: the bits of the field are those of its value. -/
theorem bit_setFld (w : Word) (lo len v : Nat) {i : Nat} (hi : i < 32) :
    bit (setFld w lo len v) i = if lo ≤ i ∧ i < lo + len then v.testBit (i - lo) else bit w i := by
  have hmask : ((2 ^ len - 1) <<< lo).testBit i = (decide (lo ≤ i) && decide (i - lo < len)) := by
    rw [Nat.testBit_shiftLeft, Nat.testBit_two_pow_sub_one]
  have hval : ((v % 2 ^ len) <<< lo).testBit i = (decide (lo ≤ i) && (decide (i - lo < len) && v.testBit (i - lo))) := by
    rw [Nat.testBit_shiftLeft, Nat.testBit_mod_two_pow]
  simp only [bit, setFld, BitVec.getLsbD_or, BitVec.getLsbD_and, BitVec.getLsbD_not, BitVec.getLsbD_ofNat, hi, decide_true, Bool.true_and, hmask, hval]
  split_ifs with h
  · simp [h.1, show i - lo < len by omega]
  · by_cases hlo : lo ≤ i
    · simp [show ¬ i - lo < len by omega]
    · simp [hlo]

theorem fld_setFld_same (w : Word) {lo len : Nat} (v : Nat) (h : lo + len ≤ 32) : fld (setFld w lo len v) lo len = v % 2 ^ len := by
  refine Nat.eq_of_testBit_eq fun j => ?_
  rw [testBit_fld, Nat.testBit_mod_two_pow]
  by_cases hj : j < len
  · have hbit := bit_setFld w lo len v (i := lo + j) (by omega)
    rw [if_pos ⟨by omega, by omega⟩, Nat.add_sub_cancel_left] at hbit
    rw [← hbit]
    rfl
  · simp [hj]

theorem fld_setFld_apart (w : Word) {lo len lo' len' : Nat} (v : Nat) (h : lo' + len' ≤ 32) (hapart : lo + len ≤ lo' ∨ lo' + len' ≤ lo) :
    fld (setFld w lo len v) lo' len' = fld w lo' len' := by
  refine Nat.eq_of_testBit_eq fun j => ?_
  rw [testBit_fld, testBit_fld]
  by_cases hj : j < len'
  · have hbit := bit_setFld w lo len v (i := lo' + j) (by omega)
    rw [if_neg (by omega)] at hbit
    exact congrArg (decide (j < len') && ·) hbit
  · simp [hj]

/-! ### Registers -/

/-- Registers at different offsets are different registers. -/
theorem getR_setR_offset {pg pg' o o' : Nat} {v : Word} (h : o' % 4096 ≠ o % 4096) : getR (setR pg o v s) pg' o' = getR s pg' o' := by
  refine getR_setR_ne fun he => h ?_
  have := regKey_mod pg o
  have := regKey_mod pg' o'
  omega

theorem getF_setF_same {pg o lo len v : Nat} (h : Sound F s) (hlen : lo + len ≤ 32) : getF (setF pg o lo len v s) pg o lo len = v % 2 ^ len := by
  rw [getF, setF, getR_setR_same h, fld_setFld_same _ _ hlen]

theorem getF_setF_apart {pg o lo len lo' len' v : Nat} (h : Sound F s) (hlen : lo' + len' ≤ 32) (hapart : lo + len ≤ lo' ∨ lo' + len' ≤ lo) :
    getF (setF pg o lo len v s) pg o lo' len' = getF s pg o lo' len' := by
  rw [getF, setF, getR_setR_same h, fld_setFld_apart _ _ hlen hapart]
  rfl

theorem getF_setR_offset {pg pg' o o' lo len : Nat} {v : Word} (h : o' % 4096 ≠ o % 4096) :
    getF (setR pg o v s) pg' o' lo len = getF s pg' o' lo len := congrArg (fld · lo len) (getR_setR_offset h)

/-- A page from 0x1000 on keeps its registers behind those of the pages below it. -/
theorem regKey_high {pg : Nat} (h : 0x1000 ≤ pg) (o : Nat) : 0x1000000 ≤ regKey pg o := by
  have := regKey_cases pg o
  omega

theorem getR_glb_setR_high {pg o o' : Nat} {v : Word} (h : 0x1000 ≤ pg) (ho : o' < 0x1000) : getR (setR pg o v s) Pg.glb o' = getR s Pg.glb o' := by
  have hhigh := regKey_high h o
  have hne : Pg.glb * 0x1000 + o' ≠ regKey pg o := by
    simp only [Pg.glb]
    omega
  exact getR_setR_ne hne

end Sys2Proof.Machine

/-! Training and discovery of ports (O40; R660, R674 to R683): an equation for each case of the training rows and of an ID record, and the numbers that
ASSIGN gives. -/

namespace Sys2Proof.Machine

variable {F : Fuses} {s : State} {p : Nat} {r : IdRec}

/-! ### A frame at a port (R640) -/

section
variable {f : Frame} {act : State → State}

theorem frameIn_deaf (h : portHears s p = false) : frameIn p f act s = s := if_neg (ne_true_of_eq_false h)

/-- Off the package a frame is not corrected. -/
theorem fecCount_onPackage {l : List Nat} (h : groupOf p ≠ G.off) : fecCount p l s = s := if_neg h

variable (hhears : portHears s p = true) (hgroup : groupOf p ≠ G.off)
include hhears hgroup

theorem frameIn_bad (hbad : frameBad f.bits = true) : frameIn p f act s = failedFrame p f.bits s := by
  refine (if_pos hhears).trans ?_
  rw [fecCount_onPackage hgroup]
  exact if_pos hbad

theorem frameIn_good (hgood : frameBad f.bits = false) : frameIn p f act s = act s := by
  refine (if_pos hhears).trans ?_
  rw [fecCount_onPackage hgroup]
  exact if_neg (ne_true_of_eq_false hgood)

end

/-! ### Training (R660, R683) -/

theorem commonVersion_eq_zero_iff {m : Nat} : commonVersion m = 0 ↔ m % 4 = 0 := by
  have h0 : m.testBit 0 = decide (m % 2 = 1) := Nat.testBit_zero m
  have h1 : m.testBit 1 = decide (m / 2 % 2 = 1) := (Nat.testBit_succ m 0).trans (Nat.testBit_zero _)
  simp only [commonVersion, h0, h1, decide_eq_true_eq]
  split_ifs <;> simp only [false_iff, true_iff] <;> omega

theorem commonVersion_lt (m : Nat) : commonVersion m < 4 := by
  unfold commonVersion
  split_ifs <;> decide

section
variable {v : Nat} {reversed wired : Bool} {failed : Nat}

theorem trainDoneOp_kept (h : runs s (Pg.lnk p) = false) : trainDoneOp p failed reversed wired v s = s := if_neg (by simp [h])

variable (hrun : runs s (Pg.lnk p) = true) (hst : lstate s p = LS.train)
include hrun hst

theorem trainDoneOp_fails (h : wired = false ∨ v % 4 = 0) : trainDoneOp p failed reversed wired v s = trainFail p s := by
  have hbad : (!wired) = true ∨ commonVersion v = 0 := by simpa [commonVersion_eq_zero_iff] using h
  exact (if_pos ⟨hrun, hst⟩).trans (if_pos hbad)

/-- The port after a training in which no lane has failed and the wiring is direct. -/
def trainPassed (p v : Nat) (s : State) : State :=
  setLstate p LS.id (setF (Pg.lnk p) R.LNK_STATUS 17 2 (commonVersion v) (setF (Pg.lnk p) R.LNK_STATUS 22 1 0
    (updPort p (fun x => { x with restore := false }) (portFresh p s))))

theorem trainDoneOp_passes (hv : v % 4 ≠ 0) (hrestore : (portAt s p).restore = false) : trainDoneOp p 0 false true v s = trainPassed p v s := by
  have hgood : ¬ ((!true) = true ∨ commonVersion v = 0) := by simpa [commonVersion_eq_zero_iff] using hv
  refine (if_pos ⟨hrun, hst⟩).trans ((if_neg hgood).trans ?_)
  rw [hrestore]
  rfl

end

section
variable (h : Sound F s) (p v : Nat)
include h

theorem lstate_trainPassed : lstate (trainPassed p v s) p = LS.id := getF_setF_same h.portFresh.updPort.setF.setF (by decide)

theorem version_trainPassed : getF (trainPassed p v s) (Pg.lnk p) R.LNK_STATUS 17 2 = commonVersion v :=
  (getF_setF_apart h.portFresh.updPort.setF.setF (by decide) (.inr (by decide))).trans
    ((getF_setF_same h.portFresh.updPort.setF (by decide)).trans (Nat.mod_eq_of_lt (commonVersion_lt v)))

end

theorem trainPassed_kept (p v : Nat) (s : State) : (trainPassed p v s).dram = s.dram ∧ (trainPassed p v s).outbox = s.outbox := by
  simp [trainPassed, setLstate, portFresh, updPort]

theorem trainRetryOp_retries (hrun : runs s (Pg.lnk p) = true) (hst : lstate s p = LS.down) : trainRetryOp p s = setLstate p LS.train s :=
  if_pos ⟨hrun, hst⟩

theorem trainRetryOp_kept (h : runs s (Pg.lnk p) = false ∨ lstate s p ≠ LS.down) : trainRetryOp p s = s := by
  refine if_neg fun ⟨hrun, hst⟩ => ?_
  rcases h with h | h
  · exact ne_true_of_eq_false h hrun
  · exact h hst

theorem trainLimitOp_faults (hrun : runs s (Pg.lnk p) = true) (hfail : (portAt s p).failSince ≠ none) : trainLimitOp p s = fault (Pg.lnk p) 10 s :=
  if_pos ⟨hrun, hfail⟩

theorem trainLimitOp_kept (h : runs s (Pg.lnk p) = false ∨ (portAt s p).failSince = none) : trainLimitOp p s = s := by
  refine if_neg fun ⟨hrun, hfail⟩ => ?_
  rcases h with h | h
  · exact ne_true_of_eq_false h hrun
  · exact hfail h

theorem idSendOp_sends {t : DWord} (hrun : runs s (Pg.lnk p) = true) (hst : lstate s p = LS.id) : idSendOp p t s = idOut p t s := if_pos ⟨hrun, hst⟩

theorem idSendOp_kept {t : DWord} (h : runs s (Pg.lnk p) = false ∨ lstate s p ≠ LS.id) : idSendOp p t s = s := by
  refine if_neg fun ⟨hrun, hst⟩ => ?_
  rcases h with h | h
  · exact ne_true_of_eq_false h hrun
  · exact h hst

/-! ### ID records (R675 to R679) -/

theorem idRecord_kept (h : runs s (Pg.lnk p) = false ∨ lstate s p < LS.id) : idRecord p r s = s := by
  refine if_neg fun ⟨hrun, hst⟩ => ?_
  rcases h with h | h
  · exact ne_true_of_eq_false h hrun
  · exact Nat.not_le.2 h hst

section
variable (hrun : runs s (Pg.lnk p) = true) (hst : LS.id ≤ lstate s p)
include hrun hst

theorem idRecord_foreign (hv : r.versions.toNat % 4 = 0) : idRecord p r s = if lstate s p = LS.id then trainFail p s else s :=
  (if_pos ⟨hrun, hst⟩).trans (if_pos (commonVersion_eq_zero_iff.2 hv))

/-- The port with the record: its times, the delays measured so far, and the frames that echoed. -/
def idPort (r : IdRec) (x : Port) : Port :=
  { x with
    lastId := some (r.txTime, r.rxTime), farPos := some r
    delays := if r.echo = 0 then x.delays else (x.delays ++ [(((r.rxTime - r.echo) - r.echoHold).toNat / 2)]).reverse.take 8 |>.reverse
    ids := if r.echo = 0 then x.ids else x.ids + 1 }

/-- The mean of the delays stands in the port's register. -/
def idDelay (p : Nat) (ds : List Nat) (s : State) : State :=
  if ds = [] then s else setR (Pg.lnk p) R.LNK_DELAY_NS (BitVec.ofNat 32 ((ds.foldl (· + ·) 0 / ds.length) % 65536)) s

/-- The record is kept: in the port, and in the registers of the port and of its group. -/
def idHeard (p : Nat) (r : IdRec) (s : State) : State :=
  let x := idPort r (portAt s p)
  let v := commonVersion r.versions.toNat
  setR (Pg.lkg (groupOf p)) R.LKG_FAR (BitVec.ofNat 32 (r.kind.toNat % 16 * 2 ^ 28 + r.die.toNat * 2 ^ 16 + v * 2 ^ 14))
    (setF (Pg.lnk p) R.LNK_STATUS 17 2 v
      (setR (Pg.lnk p) R.LNK_FAR (BitVec.ofNat 32 (r.kind.toNat % 16 * 2 ^ 28 + r.die.toNat * 2 ^ 16 + r.portByte.toNat * 2 ^ 8))
        (idDelay p x.delays (setPort p x s))))

theorem idRecord_common (hv : r.versions.toNat % 4 ≠ 0) :
    idRecord p r s =
      portChecks p (if lstate (idHeard p r s) p = LS.id ∧ 8 ≤ (portAt (idHeard p r s) p).ids then portUpOp p (idHeard p r s) else idHeard p r s) :=
  (if_pos ⟨hrun, hst⟩).trans (if_neg fun h => hv (commonVersion_eq_zero_iff.1 h))

end

theorem idDelay_frame (p : Nat) (ds : List Nat) (s : State) : RegsOnly s (idDelay p ds s) := by
  unfold idDelay
  split
  · exact .refl s
  · exact .setR ..

theorem idHeard_frame (p : Nat) (r : IdRec) (s : State) : RegsOnly (setPort p (idPort r (portAt s p)) s) (idHeard p r s) :=
  ((idDelay_frame ..).trans (.setR ..)).trans ((RegsOnly.setF ..).trans (.setR ..))

theorem idHeard_dram (p : Nat) (r : IdRec) (s : State) : (idHeard p r s).dram = s.dram := by
  obtain ⟨_, hregs⟩ := idHeard_frame p r s
  rw [hregs]
  rfl

theorem portAt_setPort (h : Sound F s) (x : Port) : portAt (setPort p x s) p = x := by
  obtain ⟨-, -, -, -, -, -, -, -, -, hports, -⟩ := sound_iff.1 h
  exact Tab.get_store_same _ _ _ _ (Bool.and_eq_true_iff.1 hports).1

theorem portAt_idHeard (h : Sound F s) : portAt (idHeard p r s) p = idPort r (portAt s p) := by
  obtain ⟨_, hregs⟩ := idHeard_frame p r s
  rw [hregs]
  exact portAt_setPort h _

/-- Registers of a port that is not the one of its delay. -/
theorem getR_idDelay {pg o : Nat} {ds : List Nat} (h : o % 4096 ≠ R.LNK_DELAY_NS) : getR (idDelay p ds s) pg o = getR s pg o := by
  unfold idDelay
  split
  · rfl
  · exact getR_setR_offset h

theorem dieValid_idHeard : dieValid (idHeard p r s) = dieValid s := by
  have hlnk : 0x1000 ≤ Pg.lnk p := by simp only [Pg.lnk]; omega
  have hlkg : 0x1000 ≤ Pg.lkg (groupOf p) := by simp only [Pg.lkg]; omega
  have hnum : getR (idHeard p r s) Pg.glb R.GLB_DIE_NUM = getR s Pg.glb R.GLB_DIE_NUM := by
    simp only [idHeard, setF, getR_glb_setR_high hlnk (by decide : R.GLB_DIE_NUM < 0x1000), getR_glb_setR_high hlkg (by decide : R.GLB_DIE_NUM < 0x1000)]
    exact getR_idDelay (by decide)
  rw [dieValid, hnum]
  rfl

theorem getR_status_idHeard (h : Sound F s) :
    getR (idHeard p r s) (Pg.lnk p) R.LNK_STATUS = setFld (getR s (Pg.lnk p) R.LNK_STATUS) 17 2 (commonVersion r.versions.toNat) := by
  have hdelay : Sound F (idDelay p (idPort r (portAt s p)).delays (setPort p (idPort r (portAt s p)) s)) := .ite h.setPort h.setPort.setR
  refine (getR_setR_offset (by decide)).trans ((getR_setR_same hdelay.setR).trans ?_)
  rw [getR_setR_offset (by decide), getR_idDelay (by decide)]
  rfl

/-- On a port that is up, on a die without its numbers, the record is kept and nothing more. -/
theorem idRecord_up (h : Sound F s) (hrun : runs s (Pg.lnk p) = true) (hst : lstate s p = LS.up) (hdie : dieValid s = false)
    (hv : r.versions.toNat % 4 ≠ 0) : idRecord p r s = idHeard p r s := by
  have hup : lstate (idHeard p r s) p = LS.up := by
    refine Eq.trans ?_ hst
    rw [lstate, getF, getR_status_idHeard h, fld_setFld_apart _ _ (by decide) (.inl (by decide))]
    rfl
  have hcheck : portChecks p (idHeard p r s) = idHeard p r s := by
    unfold portChecks
    split
    · rfl
    · exact if_neg (by simp [dieValid_idHeard, hdie])
  rw [idRecord_common hrun (by rw [hst]; decide) hv, if_neg (by simp [hup]), hcheck]

theorem version_idHeard (h : Sound F s) : getF (idHeard p r s) (Pg.lnk p) R.LNK_STATUS 17 2 = commonVersion r.versions.toNat := by
  rw [getF, getR_status_idHeard h, fld_setFld_same _ _ (by decide)]
  exact Nat.mod_eq_of_lt (commonVersion_lt _)

/-- The record in an ID frame of the common type, by the bits of the frame (R634, R675). -/
def idFields (w : BitVec 640) (rx : DWord) : IdRec :=
  { kind := w.extractLsb' 80 8, versions := w.extractLsb' 88 8, valid := w.getLsbD 111, die := w.extractLsb' 96 12, portByte := w.extractLsb' 112 8,
    group := w.extractLsb' 120 8, base := w.extractLsb' 128 12, pos := w.extractLsb' 144 4, count := w.extractLsb' 148 4, txTime := w.extractLsb' 192 64,
    echo := w.extractLsb' 256 64, echoHold := w.extractLsb' 320 64, uid := w.extractLsb' 384 128, rxTime := rx }

theorem extract_payload (f : Frame) {lo len : Nat} (h : lo + len ≤ 512) : f.payload.extractLsb' lo len = f.bits.extractLsb' (64 + lo) len := by
  refine BitVec.eq_of_getLsbD_eq fun i hi => ?_
  simp only [Frame.payload, BitVec.getLsbD_extractLsb', hi, decide_true, Bool.true_and, show lo + i < 512 by omega, Nat.add_assoc]

theorem getLsbD_payload (f : Frame) {i : Nat} (h : i < 512) : f.payload.getLsbD i = f.bits.getLsbD (64 + i) := by
  simp [Frame.payload, h]

theorem idRec_eq (f : Frame) (rx : DWord) : f.idRec rx = if f.bits.extractLsb' 64 16 = 1 then some (idFields f.bits rx) else none := by
  simp only [Frame.idRec, idFields, getLsbD_payload f (by decide : 47 < 512), extract_payload f (by decide : 0 + 16 ≤ 512),
    extract_payload f (by decide : 16 + 8 ≤ 512), extract_payload f (by decide : 24 + 8 ≤ 512), extract_payload f (by decide : 32 + 12 ≤ 512),
    extract_payload f (by decide : 48 + 8 ≤ 512), extract_payload f (by decide : 56 + 8 ≤ 512), extract_payload f (by decide : 64 + 12 ≤ 512),
    extract_payload f (by decide : 80 + 4 ≤ 512), extract_payload f (by decide : 84 + 4 ≤ 512), extract_payload f (by decide : 128 + 64 ≤ 512),
    extract_payload f (by decide : 192 + 64 ≤ 512), extract_payload f (by decide : 256 + 64 ≤ 512), extract_payload f (by decide : 320 + 128 ≤ 512)]

section
variable {f : Frame} {rx : DWord} (hhears : portHears s p = true) (hgroup : groupOf p ≠ G.off) (hgood : frameBad f.bits = false)
include hhears hgroup hgood

theorem idOp_record (hrec : f.idRec rx = some r) : idOp p f rx s = idRecord p r (frameAcks p f s) := by
  rw [idOp, frameIn_good hhears hgroup hgood]
  simp only [hrec]

theorem idOp_other (hrec : f.idRec rx = none) : idOp p f rx s = frameAcks p f s := by
  rw [idOp, frameIn_good hhears hgroup hgood]
  simp only [hrec]

end

/-! ### ASSIGN (R677) -/

/-- Nothing of `s` that ASSIGN looks at is changed in `t`: the registers of GLB, the ports; and memory is as it was. -/
structure GlbKept (s t : State) : Prop where
  regs : ∀ o, o < 0x1000 → getR t Pg.glb o = getR s Pg.glb o
  ports : t.ports = s.ports
  dram : t.dram = s.dram

theorem GlbKept.refl (s : State) : GlbKept s s := ⟨fun _ _ => rfl, rfl, rfl⟩

theorem GlbKept.trans {t u : State} (hst : GlbKept s t) (htu : GlbKept t u) : GlbKept s u :=
  ⟨fun o ho => (htu.regs o ho).trans (hst.regs o ho), htu.ports.trans hst.ports, htu.dram.trans hst.dram⟩

theorem GlbKept.setR {pg : Nat} (h : 0x1000 ≤ pg) (o : Nat) (v : Word) (s : State) : GlbKept s (setR pg o v s) :=
  ⟨fun _ ho => getR_glb_setR_high h ho, rfl, rfl⟩

theorem GlbKept.foldS {α : Type} {f : α → State → State} (hf : ∀ a s, GlbKept s (f a s)) (l : List α) (s : State) : GlbKept s (foldS f l s) := by
  induction l generalizing s with
  | nil => exact .refl s
  | cons a t ih => exact (hf a s).trans (ih _)

/-- An ID frame is sent and counted. -/
theorem GlbKept.idOut (p : Nat) (tx : DWord) (s : State) : GlbKept s (idOut p tx s) :=
  GlbKept.trans (t := send _ (fresh s).2) ⟨fun _ _ => rfl, rfl, rfl⟩ (.setR (by simp only [Pg.lst]; omega) _ _ _)

/-- The die's numbers. -/
def numbered (die base count pos : Nat) (s : State) : State :=
  setR Pg.glb R.GLB_PKG (BitVec.ofNat 32 (base * 65536 + count * 16 + pos)) (setR Pg.glb R.GLB_DIE_NUM (BitVec.ofNat 32 (0x80000000 + die)) s)

/-- A port whose far side has sent no record has nothing to check. -/
theorem portChecks_silent (h : (portAt s p).farPos = none) : portChecks p s = s := by
  unfold portChecks
  rw [h]

theorem foldS_portChecks_silent {l : List Nat} (h : ∀ k ∈ l, (portAt s k).farPos = none) : foldS portChecks l s = s := by
  induction l with
  | nil => rfl
  | cons k t ih =>
    rw [foldS, portChecks_silent (h k List.mem_cons_self)]
    exact ih fun j hj => h j (List.mem_cons_of_mem k hj)

variable {die base count pos : Nat}

/-- ID frames go out again on every port that is up. -/
def idsResent (s : State) : State := foldS (fun p s => if lstate s p = LS.up then idOut p (fresh s).1 (fresh s).2 else s) (List.range nPorts) s

theorem GlbKept.idsResent (s : State) : GlbKept s (idsResent s) := by
  refine .foldS (fun p s => ?_) _ s
  split
  · exact GlbKept.trans (t := (fresh s).2) ⟨fun _ _ => rfl, rfl, rfl⟩ (.idOut ..)
  · exact .refl s

/-- The repair fuses are applied to the arrays. -/
def repairsApplied (s : State) : State :=
  foldS (fun e => setR (mPg (e.1 / 2) (decide (e.1 % 2 = 1))) R.MXA_REPAIR (e.2 &&& 0x9F00803F)) s.fuses.repairs s

theorem GlbKept.repairsApplied (s : State) : GlbKept s (repairsApplied s) :=
  .foldS (fun _ u => .setR (by simp only [mPg, Pg.mxa]; omega) _ _ u) _ s

/-- The first ASSIGN, on a die whose neighbours have sent no record. -/
theorem assignOp_first (hnew : dieValid s = false) (hsilent : ∀ k, k < nPorts → (portAt s k).farPos = none) :
    assignOp die base count pos s = repairsApplied (idsResent (numbered die base count pos s)) := by
  have hkept := (GlbKept.idsResent (numbered die base count pos s)).trans (.repairsApplied _)
  have hstill : ∀ k ∈ List.range nPorts, (portAt (repairsApplied (idsResent (numbered die base count pos s))) k).farPos = none := fun k hk => by
    rw [portAt, hkept.ports]
    exact hsilent k (List.mem_range.1 hk)
  exact (if_pos (by rw [hnew]; rfl)).trans (foldS_portChecks_silent hstill)

section
variable (h : Sound F s) (hdie : die < 2 ^ 12) (hbase : base < 2 ^ 12) (hcount : count < 2 ^ 4) (hpos : pos < 2 ^ 4)
include h hdie hbase hcount hpos

/-- The numbers read back. -/
theorem numbered_reads {u : State} (hu : GlbKept (numbered die base count pos s) u) :
    dieValid u = true ∧ dieNum u = die ∧ pkgBase u = base ∧ pkgCount u = count ∧ pkgPos u = pos := by
  have hnum : getR u Pg.glb R.GLB_DIE_NUM = BitVec.ofNat 32 (0x80000000 + die) :=
    (hu.regs _ (by decide)).trans ((getR_setR_offset (by decide)).trans (getR_setR_same h))
  have hpkg : getR u Pg.glb R.GLB_PKG = BitVec.ofNat 32 (base * 65536 + count * 16 + pos) := (hu.regs _ (by decide)).trans (getR_setR_same h.setR)
  have hnumLt : 0x80000000 + die < 2 ^ 32 := by omega
  have hpkgLt : base * 65536 + count * 16 + pos < 2 ^ 32 := by omega
  refine ⟨?_, ?_, ?_, ?_, ?_⟩
  · rw [dieValid, hnum, bit_ofNat_word hnumLt]
    exact decide_eq_true (by omega)
  · rw [dieNum, getF, hnum, fld_ofNat_word hnumLt]
    omega
  · rw [pkgBase, getF, hpkg, fld_ofNat_word hpkgLt]
    omega
  · rw [pkgCount, getF, hpkg, fld_ofNat_word hpkgLt]
    omega
  · rw [pkgPos, getF, hpkg, fld_ofNat_word hpkgLt]
    omega

end

section
variable (hset : dieValid s = true)
include hset

theorem assignOp_again (hdie : dieNum s = die) (hbase : pkgBase s = base) (hcount : pkgCount s = count) (hpos : pkgPos s = pos) :
    assignOp die base count pos s = s := (if_neg (by rw [hset]; decide)).trans (if_pos ⟨hdie, hbase, hcount, hpos⟩)

theorem assignOp_other (hdie : dieNum s ≠ die) : assignOp die base count pos s = lkgDiscard G.io 5 die s :=
  (if_neg (by rw [hset]; decide)).trans (if_neg fun h => hdie h.1)

end

/-! ### The obligation -/

/-- Settles O40. That only records of type 1 are taken is the model's reading (log entry 165, DEDUCED). -/
theorem trainingAndDiscovery : Obligations.TrainingAndDiscovery := by
  intro F s p v t rx f r die base cnt pos h hr hp pg down
  have onPort {i g u} (he : exec i s = onUnit p nPorts g s) (hu : g s = u) : Gives i s u := he.trans (onUnit_gives hr hp hu)
  refine ⟨fun hstop => ?_, fun hrun => ?_, fun hhears hgroup hgood => ?_, fun hnew hsilent => ?_, fun hset => ?_⟩
  · exact ⟨onPort rfl (trainDoneOp_kept hstop), onPort rfl (trainRetryOp_kept (.inl hstop)), onPort rfl (trainLimitOp_kept (.inl hstop)),
      onPort rfl (idSendOp_kept (.inl hstop)), idRecord_kept (.inl hstop)⟩
  · refine ⟨fun hst => ⟨onPort rfl (trainDoneOp_fails hrun hst (.inl rfl)), fun hv => onPort rfl (trainDoneOp_fails hrun hst (.inr hv)),
        fun hv hrestore => ?_⟩, fun hst => onPort rfl (trainRetryOp_retries hrun hst), fun hst => onPort rfl (trainRetryOp_kept (.inr hst)),
      fun hfail => onPort rfl (trainLimitOp_faults hrun hfail), fun hfail => onPort rfl (trainLimitOp_kept (.inr hfail)),
      fun hst => onPort rfl (idSendOp_sends hrun hst), fun hst => onPort rfl (idSendOp_kept (.inr hst)), fun hst => idRecord_kept (.inr hst),
      fun hv hst => (idRecord_foreign hrun (Nat.le_of_eq hst.symm) hv).trans (if_pos hst),
      fun hv hst => (idRecord_foreign hrun hst.le hv).trans (if_neg hst.ne'), fun hv hst hdie => ?_⟩
    · exact ⟨trainPassed p v.toNat s, onPort rfl (trainDoneOp_passes hrun hst hv hrestore), lstate_trainPassed h p _, version_trainPassed h p _,
        trainPassed_kept p _ s⟩
    · rw [idRecord_up h hrun hst hdie hv]
      exact ⟨congrArg Port.farPos (portAt_idHeard h), version_idHeard h, idHeard_dram p r s⟩
  · exact ⟨fun htype => onPort rfl (idOp_record hhears hgroup hgood ((idRec_eq f rx).trans (if_pos htype))),
      fun htype => onPort rfl (idOp_other hhears hgroup hgood ((idRec_eq f rx).trans (if_neg htype)))⟩
  · have hkept := (GlbKept.idsResent (numbered die.toNat base.toNat cnt.toNat pos.toNat s)).trans (.repairsApplied _)
    obtain ⟨hvalid, hnum, hbase, hcount, hpos⟩ := numbered_reads h die.isLt base.isLt cnt.isLt pos.isLt hkept
    exact ⟨_, act_gives hr (assignOp_first hnew hsilent), hvalid, hnum, hbase, hcount, hpos, hkept.dram⟩
  · exact ⟨fun hdie hbase hcount hpos => act_gives hr (assignOp_again hset hdie hbase hcount hpos), fun hdie => act_gives hr (assignOp_other hset hdie)⟩

end Sys2Proof.Machine

/-! Lanes that fail (O38; R664 to R667, R684): the stages of a sender and of a receiver, an equation for each case, and the window of lane errors. -/

namespace Sys2Proof.Machine

variable {F : Fuses} {s : State} {p lane pos a : Nat} {tx : Bool}

/-! ### The next stage (R665) -/

theorem laneStage_failed (h : bit (getR s (Pg.lnk p) (failedReg tx)) lane = true) : laneStage p tx lane s = (none, s) := if_pos h

/-- The lane is marked as failed. -/
def laneMarked (p : Nat) (tx : Bool) (lane : Nat) (s : State) : State :=
  setR (Pg.lnk p) (failedReg tx) (setBit (getR s (Pg.lnk p) (failedReg tx)) lane true) s

section
variable (hgood : bit (getR s (Pg.lnk p) (failedReg tx)) lane = false)
include hgood

theorem laneStage_spare (h : stageOf s p tx < 2) :
    laneStage p tx lane s = (some (stageOf s p tx + 1), stageTo p tx (stageOf s p tx + 1) lane (laneMarked p tx lane s)) :=
  (if_neg (ne_true_of_eq_false hgood)).trans (if_pos h)

/-- With both spares used the lane's half goes: the half in use is the other one. -/
theorem laneStage_half {k : Nat} (h : stageOf s p tx = 2) (hpos : posOf s p tx lane = some k) :
    laneStage p tx lane s =
      (some 3, stageTo p tx 3 lane (setF (Pg.lnk p) R.LNK_STATUS (if tx then 20 else 21) 1 (if k < 8 then 1 else 0) (laneMarked p tx lane s))) := by
  refine (if_neg (ne_true_of_eq_false hgood)).trans ((if_neg (by omega)).trans ((if_pos h).trans ?_))
  rw [hpos]
  rfl

theorem laneStage_last (h : stageOf s p tx = 4) : laneStage p tx lane s = (none, laneMarked p tx lane s) :=
  (if_neg (ne_true_of_eq_false hgood)).trans ((if_neg (by omega)).trans ((if_neg (by omega)).trans (if_neg (by omega))))

end

/-! ### The receiver (R664, R666) -/

theorem rxFail_failed (h : bit (getR s (Pg.lnk p) R.LNK_RX_FAILED) lane = true) : rxFail p lane s = s := by
  simp only [rxFail, laneStage_failed (tx := false) h]

section
variable (hgood : bit (getR s (Pg.lnk p) R.LNK_RX_FAILED) lane = false)
include hgood

theorem rxFail_last (h : stageOf s p false = 4) : rxFail p lane s = laneMarked p false lane s := by
  simp only [rxFail, laneStage_last (tx := false) hgood h]

theorem rxFail_half {k : Nat} (h : stageOf s p false = 2) (hpos : posOf s p false lane = some k) :
    rxFail p lane s =
      let t := stageTo p false 3 lane (setF (Pg.lnk p) R.LNK_STATUS 21 1 (if k < 8 then 1 else 0) (laneMarked p false lane s))
      ctrlSend p 3 (halfOf t p false) 0 t := by
  simp only [rxFail, laneStage_half (tx := false) hgood h hpos]
  rfl

variable (h : stageOf s p false < 2)
include h

theorem rxFail_spare :
    rxFail p lane s =
      let t := stageTo p false (stageOf s p false + 1) lane (laneMarked p false lane s)
      match posOf s p false lane with
      | some q => ctrlSend p 1 q 0 t
      | none => t := by
  have hstage : stageOf s p false = 0 ∨ stageOf s p false = 1 := by omega
  simp only [rxFail, laneStage_spare (tx := false) hgood h]
  rcases hstage with h0 | h0
  · rw [h0]
    rfl
  · rw [h0]
    rfl

theorem rxFail_asks {k : Nat} (hpos : posOf s p false lane = some k) :
    rxFail p lane s = ctrlSend p 1 k 0 (stageTo p false (stageOf s p false + 1) lane (laneMarked p false lane s)) := by
  rw [rxFail_spare hgood h, hpos]

/-- A spare that carries nothing needs no swap. -/
theorem rxFail_idle (hpos : posOf s p false lane = none) :
    rxFail p lane s = stageTo p false (stageOf s p false + 1) lane (laneMarked p false lane s) := by
  rw [rxFail_spare hgood h, hpos]

end

/-! ### The sender (R666, R667) -/

theorem swapReqOp_kept (h : 16 ≤ pos ∨ portLive s p = false) : swapReqOp p pos s = s := by
  refine if_neg fun ⟨hlive, hpos⟩ => ?_
  rcases h with h | h
  · omega
  · exact ne_true_of_eq_false h hlive

theorem swapReqOp_failed (hbad : bit (getR s (Pg.lnk p) R.LNK_TX_FAILED) (laneOf s p true pos) = true) : swapReqOp p pos s = s := by
  unfold swapReqOp
  split
  · simp only [laneStage_failed (tx := true) hbad]
  · rfl

section
variable (hlive : portLive s p = true) (hpos : pos < 16) (hgood : bit (getR s (Pg.lnk p) R.LNK_TX_FAILED) (laneOf s p true pos) = false)
  (hstage : stageOf s p true < 2)
include hlive hpos hgood hstage

/-- The sender at its next stage, the lane of the position marked. -/
def senderStaged (p pos : Nat) (s : State) : State :=
  stageTo p true (stageOf s p true + 1) (laneOf s p true pos) (laneMarked p true (laneOf s p true pos) s)

theorem swapReqOp_swaps {k : Nat} (hfree : freeSpare (senderStaged p pos s) p true = some k) :
    swapReqOp p pos s =
      ctrlSend p 2 (16 * k + pos) (portAt (senderStaged p pos s) p).tx (useSpare p true k pos (senderStaged p pos s)) := by
  refine (if_pos ⟨hlive, hpos⟩).trans ?_
  simp only [laneStage_spare (tx := true) hgood hstage]
  rw [show freeSpare (stageTo ..) p true = some k from hfree]
  exact if_pos (by omega)

theorem swapReqOp_spareless (hfree : freeSpare (senderStaged p pos s) p true = none) : swapReqOp p pos s = senderStaged p pos s := by
  refine (if_pos ⟨hlive, hpos⟩).trans ?_
  simp only [laneStage_spare (tx := true) hgood hstage]
  rw [show freeSpare (stageTo ..) p true = none from hfree]
  rfl

end

/-- The first position outside the half that stays whose lane has not failed, and its lane: the one that the log names. -/
def halfLane (p h : Nat) (s : State) : Nat :=
  laneOf s p true ((((List.range 16).filter (fun q => decide (q / 8 ≠ h) && !bit (getR s (Pg.lnk p) R.LNK_TX_FAILED) (laneOf s p true q))).head?).getD 0)

theorem halfReqOp_halves (hlive : portLive s p = true) (hstage : stageOf s p true < 3) :
    halfReqOp p a s =
      let t := setF (Pg.lnk p) R.LNK_STATUS 20 1 (a % 2) s
      let u := stageTo p true 3 (halfLane p (a % 2) t) t
      ctrlSend p 4 (a % 2) (portAt u p).tx u := by
  refine (if_pos ⟨hlive, hstage⟩).trans ?_
  simp only [halfLane, Bool.decide_and, Bool.decide_eq_true]

theorem halfReqOp_kept (h : 3 ≤ stageOf s p true) : halfReqOp p a s = s := if_neg fun hgo => by omega

theorem stageTo_half (l : Nat) (s : State) :
    stageTo p true 3 l s = setDegraded (Pg.lnk p) true (namedAlarm (Pg.lnk p) 2
      (firstR (Pg.lnk p) R.LNK_STAGE_LOG (2 ^ 30 + 3 * 2 ^ 27 + l * 2 ^ 22) (setF (Pg.lnk p) R.LNK_STATUS 23 3 3 s))) := by
  simp [stageTo, b2n]

/-! ### What the sender announces (R666) -/

theorem swapOp_follows (hlive : portLive s p = true) (h : a / 16 < 2) : swapOp p a s = useSpare p false (a / 16) (a % 16) s := if_pos ⟨hlive, h⟩

theorem swapOp_kept (h : 2 ≤ a / 16) : swapOp p a s = s := if_neg fun hgo => by omega

theorem halfOp_follows (hlive : portLive s p = true) : halfOp p a s = setF (Pg.lnk p) R.LNK_STATUS 21 1 (a % 2) s := if_pos hlive

/-! ### Rows that name a lane (R664, R684) -/

/-- LANE_LOCK_LOSS of a lane that does not exist, or of a port that does not hear. -/
theorem laneLockLoss_kept (h : 18 ≤ lane ∨ portHears s p = false) : (if lane < 18 ∧ portHears s p then rxFail p lane s else s) = s := by
  refine if_neg fun ⟨hlane, hhears⟩ => ?_
  rcases h with h | h
  · omega
  · exact ne_true_of_eq_false h hhears

/-- The counts of the window of `n` lanes restart. -/
def windowCleared (p n : Nat) (s : State) : State := foldS (fun i => setF (Pg.lst p) (R.LST_LANE_ERR0 + 4 * i) 16 16 0) (List.range n) s

theorem foldS_append {α : Type} (f : α → State → State) (l m : List α) (s : State) : foldS f (l ++ m) s = foldS f m (foldS f l s) := by
  induction l generalizing s with
  | nil => rfl
  | cons a t ih => exact ih (f a s)

theorem windowCleared_succ (p n : Nat) (s : State) :
    windowCleared p (n + 1) s = setF (Pg.lst p) (R.LST_LANE_ERR0 + 4 * n) 16 16 0 (windowCleared p n s) := by
  rw [windowCleared, List.range_succ, foldS_append]
  rfl

theorem windowCleared_frame (p n : Nat) (s : State) : RegsOnly s (windowCleared p n s) := .foldS (fun _ _ => .setF ..) _ s

theorem Sound.windowCleared {n} (h : Sound F s) : Sound F (windowCleared p n s) := h.foldS fun _ _ h => h.setF

/-- Only the registers of the lanes counted so far have changed, and of each only its upper half. -/
theorem getR_windowCleared (h : Sound F s) {n k : Nat} (hn : n ≤ 18) (hk : k < 18) :
    getR (windowCleared p n s) (Pg.lst p) (R.LST_LANE_ERR0 + 4 * k) =
      if k < n then setFld (getR s (Pg.lst p) (R.LST_LANE_ERR0 + 4 * k)) 16 16 0 else getR s (Pg.lst p) (R.LST_LANE_ERR0 + 4 * k) := by
  induction n with
  | zero => rfl
  | succ n ih =>
    have ih := ih (by omega)
    rw [windowCleared_succ]
    by_cases he : k = n
    · subst he
      rw [if_neg (Nat.lt_irrefl k)] at ih
      rw [setF, getR_setR_same h.windowCleared, ih, if_pos (Nat.lt_succ_self k)]
    · have hoffset : (R.LST_LANE_ERR0 + 4 * k) % 4096 ≠ (R.LST_LANE_ERR0 + 4 * n) % 4096 := by
        simp only [R.LST_LANE_ERR0]
        omega
      rw [setF, getR_setR_offset hoffset, ih]
      exact if_congr (by omega) rfl rfl

theorem find_windowCleared {n key : Nat} (h : ∀ k, k < n → key ≠ regKey (Pg.lst p) (R.LST_LANE_ERR0 + 4 * k)) :
    Tab.find (windowCleared p n s).regs key = Tab.find s.regs key := by
  induction n with
  | zero => rfl
  | succ n ih =>
    rw [windowCleared_succ, ← ih fun k hk => h k (by omega)]
    exact Tab.find_store_ne _ _ _ (h n (Nat.lt_succ_self n))

/-! ### The obligation -/

/-- Settles O38, from the equation of each case. -/
theorem lanesDegradeByStages : Obligations.LanesDegradeByStages := by
  intro F s p lane a seq h hr hp pg
  have onPort {i g u} (he : exec i s = onUnit p nPorts g s) (hu : g s = u) : Gives i s u := he.trans (onUnit_gives hr hp hu)
  have lossKept (hk : 18 ≤ lane ∨ portHears s p = false) : Gives (.laneLockLoss p lane) s s := onPort rfl (laneLockLoss_kept hk)
  have loss {u} (hhears : portHears s p = true) (hlane : lane < 18) (hu : rxFail p lane s = u) : Gives (.laneLockLoss p lane) s u :=
    onPort rfl ((if_pos ⟨hlane, hhears⟩).trans hu)
  refine ⟨fun hlive ha => onPort rfl (swapOp_follows hlive ha), fun ha => onPort rfl (swapOp_kept ha), fun hlive => onPort rfl (halfOp_follows hlive),
    fun hlive hstage => ⟨onPort rfl (halfReqOp_halves hlive hstage), stageTo_half _ _⟩, fun hstage => onPort rfl (halfReqOp_kept hstage),
    fun _ hbad => onPort rfl (swapReqOp_failed hbad), fun hk => onPort rfl (swapReqOp_kept hk), fun hlive ha => ?_, fun hbad => ?_, lossKept,
    fun hhears hlane hgood => ⟨fun hn => loss hhears hlane (rxFail_last hgood hn), fun k hn hpos => loss hhears hlane (rxFail_asks hgood hn hpos),
      fun hn hpos => loss hhears hlane (rxFail_idle hgood hn hpos), fun k hn hpos => loss hhears hlane (rxFail_half hgood hn hpos)⟩,
    ?_⟩
  · intro l m n t hgood
    exact ⟨fun k hn hfree => onPort rfl (swapReqOp_swaps hlive ha hgood hn hfree), fun hn hfree => onPort rfl (swapReqOp_spareless hlive ha hgood hn hfree)⟩
  · by_cases hgo : lane < 18 ∧ portHears s p = true
    · exact loss hgo.2 hgo.1 (rxFail_failed hbad)
    · exact onPort rfl (if_neg hgo)
  · obtain ⟨r, hregs⟩ := windowCleared_frame p 18 s
    refine ⟨windowCleared p 18 s, onPort rfl rfl, r, hregs, fun k hk => ?_, fun key hkey => ?_⟩
    · have hreg := getR_windowCleared (p := p) h (Nat.le_refl 18) hk
      rw [if_pos hk] at hreg
      rw [getF, getF, hreg, fld_setFld_same _ _ (by decide), fld_setFld_apart _ _ (by decide) (.inr (by decide))]
      exact ⟨rfl, rfl⟩
    · have hfind := find_windowCleared (s := s) (p := p) (n := 18) hkey
      rwa [hregs] at hfind

end Sys2Proof.Machine

/-! Frames at a port (O37; R631 to R662): a frame that passes its CRC-32 by its kind and its place in the sequence, one that fails, and what an ACK
releases. -/

namespace Sys2Proof.Machine

variable {F : Fuses} {s : State} {p : Nat} {f : Frame}

/-! ### The CRC-32 and the KIND (R636, R637) -/

theorem frameBad_of_failed
    (h : f.bits.extractLsb' 608 32 ≠ crc32 ((List.range 76).map (fun j => f.bits.extractLsb' (8 * j) 8)) ∨ 5 ≤ (f.bits.extractLsb' 60 4).toNat) :
    frameBad f.bits = true := by
  have hcrc : crcPasses f.bits = (f.bits.extractLsb' 608 32 == crc32 ((List.range 76).map (fun j => f.bits.extractLsb' (8 * j) 8))) := rfl
  rw [frameBad, hcrc, Bool.or_eq_true, Bool.not_eq_true', beq_eq_false_iff_ne, decide_eq_true_eq]
  exact h

/-- Off the package the positions that the FEC corrected are counted first (R645). -/
theorem frameIn_fec {act : State → State} (hhears : portHears s p = true) (hgroup : groupOf p = G.off) (hgood : frameBad f.bits = false) :
    frameIn p f act s = act (posErrs p (f.corr.map (· % 16)) (satR (Pg.lst p) R.LST_FEC_CORR f.corr.length s)) :=
  (if_pos hhears).trans ((if_neg (ne_true_of_eq_false hgood)).trans (congrArg act (if_pos hgroup)))

/-! ### The sequence (R640, R642) -/

/-- The frame is taken: the next one is expected, and the positions on which a failed copy of it differs are blamed. -/
def frameTaken (p : Nat) (f : Frame) (s : State) : State :=
  let x := portAt s p
  let t := wrapR (Pg.lst p) R.LST_FRAMES_RX 1 (setPort p { x with rx := (x.rx + 1) % 4096, nak := false, copy := none } s)
  match x.copy with
  | some c => posErrs p (diffPositions (rxHalf s p) c f.bits) t
  | none => t

/-- Which half carries frames stands in LNK_STATUS. -/
theorem rxHalf_congr {t : State} (h : getR t (Pg.lnk p) R.LNK_STATUS = getR s (Pg.lnk p) R.LNK_STATUS) : rxHalf t p = rxHalf s p := by
  simp only [rxHalf, stageOf, halfOf, getF, h]
  rfl

theorem frameSeq_expected (h : f.seq.toNat = (portAt s p).rx) : frameSeq p f s = (true, frameTaken p f s) := by
  have hhalf (x : Port) : rxHalf (wrapR (Pg.lst p) R.LST_FRAMES_RX 1 (setPort p x s)) p = rxHalf s p := rxHalf_congr (getR_setR_offset (by decide))
  refine (if_pos h).trans ?_
  simp only [hhalf]
  rfl

theorem frameSeq_other (h : f.seq.toNat ≠ (portAt s p).rx) : frameSeq p f s = (false, s) := if_neg h

section
variable (hhears : portHears s p = true) (hgroup : groupOf p ≠ G.off) (hgood : frameBad f.bits = false)
include hhears hgroup hgood

section
variable (hseq : f.seq.toNat ≠ (portAt s p).rx)
include hseq

theorem dataOp_discarded : dataOp p f s = frameAcks p f s := by
  rw [dataOp, frameIn_good hhears hgroup hgood, frameSeq_other hseq]
  rfl

theorem hovrOp_discarded : hovrOp p f s = frameAcks p f s := by
  rw [hovrOp, frameIn_good hhears hgroup hgood, frameSeq_other hseq]
  rfl

theorem ctrlOp_discarded : ctrlOp p f s = frameAcks p f s := by
  rw [ctrlOp, frameIn_good hhears hgroup hgood, frameSeq_other hseq]
  rfl

end

section
variable (hseq : f.seq.toNat = (portAt s p).rx)
include hseq

theorem dataOp_taken : dataOp p f s = frameAcks p f (release1 p f.cls.toNat (frameTaken p f s)) := by
  rw [dataOp, frameIn_good hhears hgroup hgood, frameSeq_expected hseq]
  rfl

/-- A control word acts on the state in which its frame has been taken and its ACK acted on. -/
def ctrlWord (p : Nat) (f : Frame) (s : State) : State :=
  match f.ctrlOp.toNat with
  | 1 => swapReqOp p f.ctrlArg.toNat s
  | 2 => swapOp p f.ctrlArg.toNat s
  | 3 => halfReqOp p f.ctrlArg.toNat s
  | 4 => halfOp p f.ctrlArg.toNat s
  | 5 => retireWordOp p f.ctrlArg.toNat f.ctrlSeq.toNat s
  | 6 => offlineOp p f.ctrlArg.toNat s
  | 7 => onlineOp p f.ctrlArg.toNat s
  | _ => s

theorem ctrlOp_taken : ctrlOp p f s = ctrlWord p f (frameAcks p f (frameTaken p f s)) := by
  rw [ctrlOp, frameIn_good hhears hgroup hgood, frameSeq_expected hseq]
  rfl

/-- The port that a HOVR frame stands in for. -/
def hovrPort (p : Nat) (f : Frame) : Nat := groupFirst (groupOf p) + f.hport.toNat

theorem hovrOp_taken :
    hovrOp p f s =
      let t := release1 p f.cls.toNat (frameTaken p f s)
      frameAcks p f (if f.hport.toNat < groupSize (groupOf p) ∧ f.hseq.toNat = (portAt t (hovrPort p f)).hseq then
        updPort (hovrPort p f) (fun x => { x with hseq := (x.hseq + 1) % 4096 }) t else t) := by
  rw [hovrOp, frameIn_good hhears hgroup hgood, frameSeq_expected hseq]
  rfl

end

end

theorem ctrlWord_none (h : f.ctrlOp = 0 ∨ 8 ≤ f.ctrlOp.toNat) : ctrlWord p f s = s := by
  have hop : f.ctrlOp.toNat = 0 ∨ 8 ≤ f.ctrlOp.toNat := h.imp_left (congrArg BitVec.toNat)
  unfold ctrlWord
  split
  case h_8 => rfl
  all_goals omega

/-! ### ACK and credits (R639, R647, R658) -/

/-- The frames that an ACK has passed leave the retry buffer, and credits come back. -/
def frameAcked (p : Nat) (f : Frame) (s : State) : State :=
  let x := portAt s p
  let c := f.cclass.toNat
  setPort p { x with
    buf := x.buf.filter (fun e => decide (0 ≤ seqDiff e.1 f.ack.toNat))
    credit := x.credit.set c (nth4 x.credit c + (f.credits.toNat + 256 - nth4 x.lastCount c % 256) % 256)
    lastCount := x.lastCount.set c f.credits.toNat
    memAck := x.memAck + (x.buf.filter (fun e => decide (seqDiff e.1 f.ack.toNat < 0) && decide (e.2.1 = 0))).length } s

/-- Writes whose frames a stack has acknowledged are acknowledged to their writers. -/
def portAcks (p : Nat) (s : State) : State :=
  if groupOf p < 4 then
    match sliceOfPort s p with
    | some i => peerAck i (stackAcks i s)
    | none => s
  else s

theorem portAcks_slice {i : Nat} (hgroup : groupOf p < 4) (hslice : sliceOfPort s p = some i) : portAcks p s = peerAck i (stackAcks i s) := by
  simp only [portAcks, if_pos hgroup, hslice]

theorem portAcks_none (h : 4 ≤ groupOf p ∨ sliceOfPort s p = none) : portAcks p s = s := by
  unfold portAcks
  split
  next hgroup =>
    rcases h with h | h
    · omega
    · rw [h]
  · rfl

theorem portFlush_empty (h : (portAt s p).queue = []) : portFlush p s = s := by
  rw [portFlush, h]
  rfl

theorem drainCheck_none {g : Nat} (h : (grpAt s g).drain = false) : drainCheck g s = s := if_neg (by simp [h])

section
variable (hnak : f.nak = false)
include hnak

theorem frameAcks_noNak : frameAcks p f s = drainCheck (groupOf p) (portFlush p (portAcks p (frameAcked p f s))) := by
  simp only [frameAcks, hnak]
  rfl

theorem frameAcks_stack {i : Nat} (hgroup : groupOf p < 4) (hslice : sliceOfPort s p = some i) :
    frameAcks p f s = drainCheck (groupOf p) (portFlush p (peerAck i (stackAcks i (frameAcked p f s)))) := by
  rw [frameAcks_noNak hnak, portAcks_slice (s := frameAcked p f s) hgroup hslice]

/-- No frame waits, the group does not drain, and no slice is bound to the port. -/
theorem frameAcks_idle (h : Sound F s) (hqueue : (portAt s p).queue = []) (hdrain : (grpAt s (groupOf p)).drain = false)
    (hslice : 4 ≤ groupOf p ∨ sliceOfPort s p = none) : frameAcks p f s = frameAcked p f s := by
  have hempty : (portAt (frameAcked p f s) p).queue = [] := (congrArg Port.queue (portAt_setPort h _)).trans hqueue
  rw [frameAcks_noNak hnak, portAcks_none (s := frameAcked p f s) hslice, portFlush_empty hempty]
  exact drainCheck_none hdrain

end

section
variable {i l m : Nat} {g : Flit} (hport : portOfSlice s i = some p) (hwait : (sliceAt s i).waits = [.stackWrite g l m])
include hport hwait

theorem stackAcks_passed (h : m ≤ (portAt s p).memAck) : stackAcks i s = respondWack g (updSlice i (fun y => { y with waits := [] }) s) := by
  have hacked : stackAcked s i m = true := by simp [stackAcked, hport, h]
  simp [stackAcks, hwait, hacked, foldS]

theorem stackAcks_early (h : (portAt s p).memAck < m) : stackAcks i s = s := by
  have hacked : stackAcked s i m = false := by simp [stackAcked, hport, h]
  simp [stackAcks, hwait, hacked]

end

/-! ### Failed frames (R640, R642, R645) -/

theorem failedFramesOp_deaf {l : List (BitVec 640)} (h : portHears s p = false) : failedFramesOp p l s = s := if_neg (ne_true_of_eq_false h)

section
variable (hhears : portHears s p = true) {b : BitVec 640}
include hhears

theorem failedFramesOp_codeword {l : List (BitVec 640)} (hgroup : groupOf p = G.off) (hlen : l.length = 8) :
    failedFramesOp p l s = foldS (failedFrame p) l (satR (Pg.lst p) R.LST_FEC_UNCORR 1 s) :=
  (if_pos hhears).trans (congrArg (foldS (failedFrame p) l) (if_pos ⟨hgroup, hlen⟩))

theorem failedFramesOp_one : failedFramesOp p [b] s = failedFrame p b s :=
  (if_pos hhears).trans (congrArg (failedFrame p b) (if_neg fun h => absurd h.2 (by simp)))

end

theorem failedFrame_unsequenced {b : BitVec 640} (h : frameKind b = 0 ∨ frameKind b = 3) :
    failedFrame p b s = satR (Pg.lst p) R.LST_CRC_ERRS 1 s := by
  have hkind : sequencedKind (frameKind b) = false := by rcases h with h | h <;> rw [h] <;> rfl
  exact if_neg (ne_true_of_eq_false hkind)

theorem failedFrame_sequenced {b : BitVec 640} (h0 : frameKind b ≠ 0) (h3 : frameKind b ≠ 3) :
    failedFrame p b s =
      setPort p { portAt s p with nak := true, copy := (portAt s p).copy.or (some b) } (satR (Pg.lst p) R.LST_CRC_ERRS 1 s) := by
  have hkind : sequencedKind (frameKind b) = true := by
    simp only [sequencedKind, Bool.or_eq_true, decide_eq_true_eq]
    omega
  exact if_pos hkind

/-! ### The obligation -/

/-- Settles O37. That the KIND as received tells whether a failed frame was sequenced, with 5 to 15 counted as sequenced, the operands of a corrected
codeword, and ID records of another type are the model's readings (log entries 152, DESIGN CHOICE, 164 and 165). -/
theorem framesAreTakenInSequence : Obligations.FramesAreTakenInSequence := by
  intro F s p f b fs rx h hr hp x took got word q marked failed
  have onPort {i g u} (he : exec i s = onUnit p nPorts g s) (hu : g s = u) : Gives i s u := he.trans (onUnit_gives hr hp hu)
  have idle {u} (hu : idleOp p f s = u) : Gives (.idle p f) s u := onPort rfl hu
  have data {u} (hu : dataOp p f s = u) : Gives (.data p f) s u := onPort rfl hu
  have ctrl {u} (hu : ctrlOp p f s = u) : Gives (ctrlRow p f) s u := onPort (exec_ctrlRow p f s) hu
  have hovr {u} (hu : hovrOp p f s = u) : Gives (.hovr p f) s u := onPort rfl hu
  have ident {u} (hu : idOp p f rx s = u) : Gives (.id p ⟨f, rx⟩) s u := onPort rfl hu
  have fails {l u} (hu : failedFramesOp p (b :: l) s = u) : Gives (.failedCrcFrame p b l) s u := onPort rfl hu
  refine ⟨fun hdeaf => ?_, fun hhears => ⟨fun hgroup hbad => ?_, fun hgroup hgood => idle (frameIn_fec hhears hgroup hgood), fun hgroup hgood => ?_,
    fun hnak => ⟨fun hqueue hdrain hslice => frameAcks_idle hnak h hqueue hdrain hslice, fun i hgroup hslice => frameAcks_stack hnak hgroup hslice⟩,
    fun i g l m hport hwait => ⟨fun hm => stackAcks_passed hport hwait hm, fun hm => stackAcks_early hport hwait hm⟩,
    fun hkind => fails ((failedFramesOp_one hhears).trans (failedFrame_unsequenced hkind)),
    fun h0 h3 => fails ((failedFramesOp_one hhears).trans (failedFrame_sequenced h0 h3)),
    fun hgroup hlen => fails (failedFramesOp_codeword hhears hgroup (congrArg (· + 1) hlen))⟩⟩
  · exact ⟨idle (frameIn_deaf hdeaf), data (frameIn_deaf hdeaf), ctrl (frameIn_deaf hdeaf), hovr (frameIn_deaf hdeaf), ident (frameIn_deaf hdeaf),
      fails (failedFramesOp_deaf hdeaf)⟩
  · have hfail {act} : frameIn p f act s = failedFrame p f.bits s := frameIn_bad hhears hgroup (frameBad_of_failed hbad)
    exact ⟨idle hfail, data hfail, ctrl hfail, hovr hfail, ident hfail⟩
  · refine ⟨idle (frameIn_good hhears hgroup hgood), fun hrec => ident (idOp_other hhears hgroup hgood hrec),
      fun r hrec => ident (idOp_record hhears hgroup hgood hrec), fun hseq => ⟨data (dataOp_discarded hhears hgroup hgood hseq),
        ctrl (ctrlOp_discarded hhears hgroup hgood hseq), hovr (hovrOp_discarded hhears hgroup hgood hseq)⟩, fun hseq => ?_⟩
    have word {u} (hu : ctrlWord p f (frameAcks p f (frameTaken p f s)) = u) : Gives (ctrlRow p f) s u :=
      ctrl ((ctrlOp_taken hhears hgroup hgood hseq).trans hu)
    have stands {u} (hu : (if f.hport.toNat < groupSize (groupOf p) ∧ f.hseq.toNat = (portAt marked q).hseq then
        updPort q (fun y => { y with hseq := (y.hseq + 1) % 4096 }) marked else marked) = u) : Gives (.hovr p f) s (frameAcks p f u) :=
      hovr ((hovrOp_taken hhears hgroup hgood hseq).trans (congrArg (frameAcks p f) hu))
    exact ⟨data (dataOp_taken hhears hgroup hgood hseq), fun hop => word (by rw [ctrlWord, hop]; rfl), fun hop => word (by rw [ctrlWord, hop]; rfl),
      fun hop => word (by rw [ctrlWord, hop]; rfl), fun hop => word (by rw [ctrlWord, hop]; rfl), fun hop => word (by rw [ctrlWord, hop]; rfl),
      fun hop => word (by rw [ctrlWord, hop]; rfl), fun hop => word (by rw [ctrlWord, hop]; rfl), fun hop => word (ctrlWord_none hop),
      fun hport => stands (if_neg fun ht => absurd ht.1 (by omega)), fun hport hpos => stands (if_pos ⟨hport, hpos⟩)⟩

end Sys2Proof.Machine

/-! Firmware loads, the manifest check and attestation (O43; R715 to R719, R808 to R819), an equation for each case. -/

namespace Sys2Proof.Machine

variable {s : State}

/-! ### The command of a load (R715) -/

/-- Any register at another offset than its HDR_STATE leaves a page's state alone. -/
theorem runs_setR_offset {pg pg' o : Nat} {v : Word} (h : R.HDR_STATE % 4096 ≠ o % 4096) : runs (setR pg o v s) pg' = runs s pg' :=
  congrArg (fun n => decide (n = B.running)) (getF_setR_offset h)

/-- BUSY is set and the words that report failures and unicasts are cleared. -/
def fwCleared (s : State) : State :=
  setR Pg.alm R.ALM_FW_STATUS 0x80000000
    (foldS (fun k u => setR Pg.alm (R.ALM_FW_UNICAST0 + 4 * k) 0 (setR Pg.alm (R.ALM_FW_FAIL0 + 4 * k) 0 u)) (List.range 4) s)

/-- The load's job is open, and nothing has been read. -/
def fwOpened (s : State) : State :=
  let u := fwCleared s
  let job : FwJob := { wait := getF u Pg.alm R.ALM_FW_PUSH_WAIT 0 20, pushed := [], accepted := false, ents := [], log := 0, cores := [] }
  unitOpen manUnit 0 { u with alm := { u.alm with fw := some job } }

theorem regsOnly_fwCleared : RegsOnly s (fwCleared s) := (RegsOnly.foldS (fun _ _ => (RegsOnly.setR ..).trans (.setR ..)) _ s).trans (.setR ..)

theorem runs_fwCleared (pg : Nat) : runs (fwCleared s) pg = runs s pg := by
  simp (disch := decide) only [fwCleared, List.range, List.range.loop, foldS, runs_setR_offset]

theorem fwOpened_dram : (fwOpened s).dram = s.dram := by
  obtain ⟨r, hr⟩ := regsOnly_fwCleared (s := s)
  simp only [fwOpened, unitOpen, hr]

theorem fwOpened_cores : (fwOpened s).cores = s.cores := by
  obtain ⟨r, hr⟩ := regsOnly_fwCleared (s := s)
  simp only [fwOpened, unitOpen, hr]

theorem runs_unitOpen (u stage pg : Nat) (s : State) : runs (unitOpen u stage s) pg = runs s pg := rfl

theorem runs_withAlm (x : Alm) (pg : Nat) (s : State) : runs { s with alm := x } pg = runs s pg := rfl

theorem runs_fwOpened (pg : Nat) : runs (fwOpened s) pg = runs s pg := by
  simp only [fwOpened, runs_unitOpen, runs_withAlm, runs_fwCleared]

variable {v : Word}

theorem fwCmdOp_idle (hgo : bit v 0 = false) : fwCmdOp v s = s := if_pos (by simp [hgo])

section
variable (hgo : bit v 0 = true)
include hgo

theorem fwCmdOp_ignored (hrun : runs s Pg.alm = false) : fwCmdOp v s = ignoredCmd Pg.alm s :=
  (if_neg (by simp [hgo])).trans (if_pos (by simp [hrun]))

variable (hrun : runs s Pg.alm = true)
include hrun

theorem fwCmdOp_busy (hbusy : s.alm.fw.isSome = true) : fwCmdOp v s = setF Pg.alm R.ALM_FW_STATUS 27 3 2 s :=
  (if_neg (by simp [hgo])).trans ((if_neg (by simp [hrun])).trans (if_pos hbusy))

variable (hnone : s.alm.fw = none)
include hnone

theorem fwCmdOp_opens :
    fwCmdOp v s = if runs (fwOpened s) Pg.sec then
      manSettle (manSettle (unitRead manUnit unitEp 0 (getQ (fwOpened s) Pg.alm R.ALM_FW_MAN_LO).toNat 64 (fwOpened s)))
      else fwRefuse 3 (fwOpened s) :=
  (if_neg (by simp [hgo])).trans ((if_neg (by simp [hrun])).trans (if_neg (by simp [hnone])))

theorem fwCmdOp_noSec (hsec : runs s Pg.sec = false) : fwCmdOp v s = fwRefuse 3 (fwOpened s) :=
  (fwCmdOp_opens hgo hrun hnone).trans (if_neg (by simp [runs_fwOpened, hsec]))

theorem fwCmdOp_reads (hsec : runs s Pg.sec = true) :
    fwCmdOp v s = manSettle (manSettle (unitRead manUnit unitEp 0 (getQ (fwOpened s) Pg.alm R.ALM_FW_MAN_LO).toNat 64 (fwOpened s))) :=
  (fwCmdOp_opens hgo hrun hnone).trans (if_pos ((runs_fwOpened Pg.sec).trans hsec))

end

theorem regsOnly_fwStatus (busy done : Bool) (r : Nat) (s : State) : RegsOnly s (fwStatus busy done r s) := .setR ..

theorem fwRefuse_ends (r : Nat) (s : State) : (fwRefuse r s).alm.fw = none ∧ (fwRefuse r s).dram = s.dram ∧ (fwRefuse r s).cores = s.cores := by
  obtain ⟨q, hq⟩ := regsOnly_fwStatus false true r (unitClose manUnit (updAlm (fun a => { a with fw := none }) s))
  rw [fwRefuse, hq]
  exact ⟨rfl, rfl, rfl⟩

/-! ### The check of a manifest (R810, R812) -/

theorem manCheckOp_none (h : unitJob s manUnit = none) : manCheckOp s = s := by rw [manCheckOp, h]

/-- The first reason of R810 against a manifest is counted and kept. -/
def manRefused (r : Nat) (s : State) : State := firstR Pg.sec R.SEC_MAN_ERR (r * 2 ^ 24) (satR Pg.sec R.SEC_MAN_REFUSED 1 s)

/-- The digest that an accepted manifest is logged under (R812). -/
def manDigest (t : Tab Byte) : BitVec 384 := Config.sha384 (Tab.slice 0 t 0 (0x40 + 80 * manCount t))

/-- An accepted manifest is logged and counted. -/
def manLogged (t : Tab Byte) (s : State) : State :=
  wrapR Pg.sec R.SEC_MAN_ACCEPTED 1 (logPut ((logPlace s (manDigest t)).getD 0) (tabNum t 8 8) (manDigest t) s)

section
variable {j : UnitJob} (hjob : unitJob s manUnit = some j) (hstage : j.stage = 2)
include hjob hstage

theorem manCheckOp_read :
    manCheckOp s =
      if runs s Pg.sec = false then fwRefuse 3 s
      else if manifestCheck s j.buf ≠ 0 then
        fwRefuse 3 (if manifestCheck s j.buf = 6 then setF Pg.sec R.SEC_STATUS 28 1 1 (manRefused (manifestCheck s j.buf) s)
          else manRefused (manifestCheck s j.buf) s)
      else if manifestOk (manLogged j.buf s) j.buf then
        fwBegin ((List.range (manCount j.buf)).map (manEntry j.buf)) ((logPlace s (manDigest j.buf)).getD 0) (manLogged j.buf s)
      else fwRefuse 4 (manLogged j.buf s) := by
  rw [manCheckOp, hjob]
  refine (if_neg (not_not.2 hstage)).trans ?_
  simp only [Bool.not_eq_true']
  rfl

theorem manCheckOp_noSec (hrun : runs s Pg.sec = false) : manCheckOp s = fwRefuse 3 s := (manCheckOp_read hjob hstage).trans (if_pos hrun)

variable (hrun : runs s Pg.sec = true)
include hrun

theorem manCheckOp_refused (h0 : manifestCheck s j.buf ≠ 0) (h6 : manifestCheck s j.buf ≠ 6) :
    manCheckOp s = fwRefuse 3 (manRefused (manifestCheck s j.buf) s) :=
  (manCheckOp_read hjob hstage).trans ((if_neg (by simp [hrun])).trans ((if_pos h0).trans (congrArg (fwRefuse 3) (if_neg h6))))

theorem manCheckOp_full (h6 : manifestCheck s j.buf = 6) :
    manCheckOp s = fwRefuse 3 (setF Pg.sec R.SEC_STATUS 28 1 1 (manRefused (manifestCheck s j.buf) s)) :=
  (manCheckOp_read hjob hstage).trans ((if_neg (by simp [hrun])).trans ((if_pos (by simp [h6])).trans (congrArg (fwRefuse 3) (if_pos h6))))

section
variable (h0 : manifestCheck s j.buf = 0)
include h0

theorem manCheckOp_malformed (hbad : manifestOk (manLogged j.buf s) j.buf = false) : manCheckOp s = fwRefuse 4 (manLogged j.buf s) :=
  (manCheckOp_read hjob hstage).trans ((if_neg (by simp [hrun])).trans ((if_neg (not_not.2 h0)).trans (if_neg (by simp [hbad]))))

theorem manCheckOp_begins (hok : manifestOk (manLogged j.buf s) j.buf = true) :
    manCheckOp s = fwBegin ((List.range (manCount j.buf)).map (manEntry j.buf)) ((logPlace s (manDigest j.buf)).getD 0) (manLogged j.buf s) :=
  (manCheckOp_read hjob hstage).trans ((if_neg (by simp [hrun])).trans ((if_neg (not_not.2 h0)).trans (if_pos hok)))

end

end

/-! ### Entries pushed, and hashes (R716 to R718) -/

variable {i row : Nat} {w : FwJob}

theorem pushDoneOp_none (h : s.alm.fw = none) : pushDoneOp i s = s := by
  have hfw : { s.alm with fw := none } = s.alm := by rw [← h]
  simp only [pushDoneOp, updAlm, h, Option.map_none, hfw]

theorem pushWaitOp_none (h : s.alm.fw = none) : pushWaitOp s = s := by
  have hfw : { s.alm with fw := none } = s.alm := by rw [← h]
  simp only [pushWaitOp, updAlm, h, Option.map_none, hfw]

theorem hashOp_none (h : s.alm.fw = none) : hashOp row s = s := by rw [hashOp, h]

/-- A core that waits for its entry is ready. -/
def fwReady (p : FwCore → Bool) (x : FwCore) : FwCore := if p x then { x with phase := 1 } else x

theorem pushDoneOp_some (h : s.alm.fw = some w) :
    pushDoneOp i s = { s with alm := { s.alm with fw := some { w with
      pushed := if w.pushed.contains i then w.pushed else w.pushed ++ [i]
      cores := w.cores.map (fwReady fun y => decide (y.phase = 0) && decide (y.entry = i)) } } } := by
  have hready (y : FwCore) : (if y.phase = 0 ∧ y.entry = i then { y with phase := 1 } else y) =
      fwReady (fun y => decide (y.phase = 0) && decide (y.entry = i)) y := by simp [fwReady]
  simp only [pushDoneOp, updAlm, h, Option.map_some, hready]

theorem pushWaitOp_some (h : s.alm.fw = some w) :
    pushWaitOp s = { s with alm := { s.alm with fw := some { w with cores := w.cores.map (fwReady fun y => decide (y.phase = 0)) } } } := by
  have hready (y : FwCore) : (if y.phase = 0 then { y with phase := 1 } else y) = fwReady (fun y => decide (y.phase = 0)) y := by simp [fwReady]
  simp only [pushWaitOp, updAlm, h, Option.map_some, hready]

section
variable {x : FwCore} {c : Nat} {e : FwEntry} (hfw : s.alm.fw = some w) (hcores : w.cores = [x])
include hfw hcores

theorem hashOp_waiting (hphase : x.phase = 0 ∨ x.phase = 2) : hashOp row s = s := by
  have hready : (x.phase = 1 || x.phase = 3) = false := by rcases hphase with h | h <;> simp [h]
  simp [hashOp, hfw, hcores, hready]

variable (hsite : siteOf s x.n = some c) (hrow : rowOf c = row) (hent : w.ents[x.entry]? = some e)
include hsite hrow hent

/-- The row's engine serves the one core of the load. -/
theorem hashOp_serves (hphase : x.phase = 1 ∨ x.phase = 3) :
    hashOp row s =
      if sliceGood s c e then fwFinish (fwLoaded x.n e w.log s)
      else if x.phase = 3 then fwFinish (fwFail x.n s)
      else fetchSettle c
        (unitRead (sliceUnit c) c 0 e.src e.size (unitOpen (sliceUnit c) 0 (setFamilyBit Pg.alm R.ALM_FW_UNICAST0 x.n true (fwPhase x.n 2 s)))) := by
  have hready : (x.phase = 1 || x.phase = 3) = true := by simpa using hphase
  simp [hashOp, hfw, hcores, hready, hsite, hrow, hent]
  rfl

theorem hashOp_loads (hphase : x.phase = 1 ∨ x.phase = 3) (hgood : sliceGood s c e = true) : hashOp row s = fwFinish (fwLoaded x.n e w.log s) :=
  (hashOp_serves hfw hcores hsite hrow hent hphase).trans (if_pos hgood)

section
variable (hbad : sliceGood s c e = false)
include hbad

theorem hashOp_fails (hfetched : x.phase = 3) : hashOp row s = fwFinish (fwFail x.n s) :=
  (hashOp_serves hfw hcores hsite hrow hent (.inr hfetched)).trans ((if_neg (ne_true_of_eq_false hbad)).trans (if_pos hfetched))

theorem hashOp_fetches (hfirst : x.phase = 1) :
    hashOp row s = fetchSettle c
      (unitRead (sliceUnit c) c 0 e.src e.size (unitOpen (sliceUnit c) 0 (setFamilyBit Pg.alm R.ALM_FW_UNICAST0 x.n true (fwPhase x.n 2 s)))) :=
  (hashOp_serves hfw hcores hsite hrow hent (.inl hfirst)).trans ((if_neg (ne_true_of_eq_false hbad)).trans (if_neg (by omega)))

end

end

/-! ### Attestation (R815 to R819) -/

theorem attestOp_ignored (h : runs s Pg.sec = false ∨ bit (getR s Pg.sec R.SEC_ATT_STATUS) 31 = true) : attestOp s = ignoredCmd Pg.sec s :=
  if_pos (by simpa using h)

section
variable (hrun : runs s Pg.sec = true) (hidle : bit (getR s Pg.sec R.SEC_ATT_STATUS) 31 = false)
include hrun hidle

theorem attestOp_noKey (hkey : bit (getR s Pg.sec R.SEC_STATUS) 31 = false) : attestOp s = attResult false true 2 s :=
  (if_neg (by simp [hrun, hidle])).trans (if_pos (by simp [hkey]))

/-- The report is captured as things stand, and its address with it. -/
theorem attestOp_captures (hkey : bit (getR s Pg.sec R.SEC_STATUS) 31 = true) :
    attestOp s = attResult true false 0 { s with
      report := some (reportBody s)
      unitJobs := Tab.put s.unitJobs secUnit { left := 0, bad := false, buf := tabOf (bytesOf 8 (getQ s Pg.sec R.SEC_ATT_ADDR_LO).toNat), stage := 0 } } :=
  (if_neg (by simp [hrun, hidle])).trans (if_neg (by simp [hkey]))

end

theorem attDoneOp_none (h : s.report = none) : attDoneOp s = s := by simp only [attDoneOp, h]

/-- The signed report: its 928 bytes, then the two numbers of the signature, big-endian. -/
def signedReport (body : List Byte) : List Byte :=
  body ++ (bytesOf 48 (Config.sign (Config.sha384 body)).1.toNat).reverse ++ (bytesOf 48 (Config.sign (Config.sha384 body)).2.toNat).reverse

/-- The captured report is taken up, and its writes are to begin. -/
def reportTaken (s : State) : State := updUnit secUnit (fun k => { k with stage := 1 }) { s with report := none }

section
variable {body : List Byte} {j : UnitJob} (hbody : s.report = some body) (hjob : unitJob s secUnit = some j)
include hbody hjob

theorem attDoneOp_some :
    attDoneOp s = attSettle (if attAddrOk (reportTaken s) (tabNum j.buf 0 8) then
      unitWrite secUnit unitEp (tabNum j.buf 0 8) (signedReport body) (reportTaken s) else unitFail secUnit (reportTaken s)) := by
  rw [attDoneOp, hbody, hjob]
  rfl

theorem attDoneOp_writes (hok : attAddrOk (reportTaken s) (tabNum j.buf 0 8) = true) :
    attDoneOp s = attSettle (unitWrite secUnit unitEp (tabNum j.buf 0 8) (signedReport body) (reportTaken s)) :=
  (attDoneOp_some hbody hjob).trans (congrArg attSettle (if_pos hok))

theorem attDoneOp_fails (hbad : attAddrOk (reportTaken s) (tabNum j.buf 0 8) = false) :
    attDoneOp s = attSettle (unitFail secUnit (reportTaken s)) :=
  (attDoneOp_some hbody hjob).trans (congrArg attSettle (if_neg (ne_true_of_eq_false hbad)))

end

/-! ### The obligation -/

/-- Settles O43. The results and the order of the refusals of ALM_FW_CMD and of a manifest, and an ATTEST on a page that is not Running, are the
model's readings (log entries 117 and 120, DEDUCED). -/
theorem firmwareManifestsAndAttestation : Obligations.FirmwareManifestsAndAttestation := by
  constructor
  · intro s v i row hr hrow a go
    have cmd {u} (hu : fwCmdOp v s = u) : Gives (.almFwCmd v) s u := act_gives hr hu
    have check {u} (hu : manCheckOp s = u) : Gives .manifestCheck s u := act_gives hr hu
    have hash {u} (hu : hashOp row s = u) : Gives (.hash row) s u := onUnit_gives hr hrow hu
    have hset (hgo : go) : bit v 0 = true := (bit_zero v).trans (decide_eq_true hgo)
    have hclear (hgo : ¬ go) : bit v 0 = false := (bit_zero v).trans (decide_eq_false hgo)
    refine ⟨fun hgo => cmd (fwCmdOp_idle (hclear hgo)), fun hgo hrun => cmd (fwCmdOp_ignored (hset hgo) hrun),
      fun hgo hrun hbusy => cmd (fwCmdOp_busy (hset hgo) hrun hbusy), fun hgo hrun hnone hsec => ?_,
      fun hgo hrun hnone hsec => cmd (fwCmdOp_reads (hset hgo) hrun hnone hsec), fun hjob => check (manCheckOp_none hjob),
      fun j hjob hstage => ⟨fun hsec => check (manCheckOp_noSec hjob hstage hsec),
        fun hsec h0 h6 => check (manCheckOp_refused hjob hstage hsec h0 h6), fun hsec h6 => check (manCheckOp_full hjob hstage hsec h6),
        fun hsec h0 => ⟨fun hbad => check (manCheckOp_malformed hjob hstage hsec h0 hbad),
          fun hok => check (manCheckOp_begins hjob hstage hsec h0 hok)⟩⟩,
      fun hnone => ⟨act_gives hr (pushDoneOp_none hnone), act_gives hr (pushWaitOp_none hnone), hash (hashOp_none hnone)⟩,
      fun w hfw => ⟨act_gives hr (pushDoneOp_some hfw), act_gives hr (pushWaitOp_some hfw), fun x c e hcores hsite hplace hent =>
        ⟨fun hphase hgood => hash (hashOp_loads hfw hcores hsite hplace hent hphase hgood),
          fun hphase hbad => hash (hashOp_fails hfw hcores hsite hplace hent hbad hphase),
          fun hphase hbad => hash (hashOp_fetches hfw hcores hsite hplace hent hbad hphase),
          fun hphase => hash (hashOp_waiting hfw hcores hphase)⟩⟩⟩
    obtain ⟨hfw, hdram, hcores⟩ := fwRefuse_ends 3 (fwOpened s)
    exact ⟨_, cmd (fwCmdOp_noSec (hset hgo) hrun hnone hsec), hfw, hdram.trans fwOpened_dram, hcores.trans fwOpened_cores⟩
  · intro s body j hr pg busy
    have attest {u} (hu : attestOp s = u) : Gives .attest s u := act_gives hr hu
    have ended {u} (hu : attDoneOp s = u) : Gives .attestDone s u := act_gives hr hu
    exact ⟨fun h => attest (attestOp_ignored h), fun hrun hidle => ⟨fun hkey => attest (attestOp_noKey hrun hidle hkey),
        fun hkey => ⟨_, attest (attestOp_captures hrun hidle hkey), rfl, rfl, rfl, rfl⟩⟩,
      fun hnone => ended (attDoneOp_none hnone), fun hbody hjob => ⟨fun hok => ended (attDoneOp_writes hbody hjob hok),
        fun hbad => ended (attDoneOp_fails hbody hjob hbad)⟩⟩

end Sys2Proof.Machine

/-! Plans, slews, the governor, samples, droop and telemetry (O44; R763 to R786), an equation for each case. -/

namespace Sys2Proof.Machine

variable {F : Fuses} {s : State}

/-! ### Plans (R767, R769, R770, R778) -/

section
variable {b : DWord}

def planSerial (b : DWord) : BitVec 16 := BitVec.ofNat 16 (b.toNat / 2 ^ 48 % 2 ^ 16)

/-- The plan's serial does not follow the last accepted one. -/
def PlanOlder (b : DWord) (s : State) : Prop := ∃ l, s.pwr.serial = some l ∧ signedOf 16 (planSerial b - l).toNat ≤ 0

/-- The setting that a plan's field asks a half for; 0 keeps what is in force or under way. -/
def planMhz (s : State) (v : Nat) (south : Bool) : Nat := if v = 0 then (slewOf s south).getD (halfMhz s south) else clampMhz s v

/-- The plan is accepted, and nothing has been applied. -/
def planTaken (b : DWord) (s : State) : State :=
  trace 4 Pg.pwr (setF Pg.pwr R.PWR_STATUS 31 1 1 (setQ Pg.pwr R.PWR_PLAN_LO b
    { s with pwr := { s.pwr with
      serial := some (planSerial b)
      tgtN := planMhz s (b.toNat / 2 ^ 12 % 2 ^ 12) false
      tgtS := planMhz s (b.toNat / 2 ^ 24 % 2 ^ 12) true } }))

theorem fld_div {n : Nat} (w : BitVec n) (lo len : Nat) : fld w lo len = w.toNat / 2 ^ lo % 2 ^ len := by rw [fld, Nat.shiftRight_eq_div_pow]

/-- A plan is stale, or waits where changes are held, or is applied. -/
theorem planOp_eq :
    planOp b s =
      if (match s.pwr.serial with | none => true | some l => decide (0 < signedOf 16 (planSerial b - l).toNat)) = false then
        satR Pg.pwr R.PWR_PLAN_STALE 1 s
      else if changeWanted (planTaken b s) = false then applyTargets (planTaken b s)
      else if changesHeld (planTaken b s) then
        if bit (getR (planTaken b s) Pg.pwr R.PWR_STATUS) 30 then planTaken b s
        else namedAlarm Pg.pwr 5 (setF Pg.pwr R.PWR_STATUS 30 1 1 (planTaken b s))
      else applyTargets (planTaken b s) := by
  simp only [planOp, fld_div, Bool.not_eq_true']
  rfl

theorem planOp_stale (h : PlanOlder b s) : planOp b s = satR Pg.pwr R.PWR_PLAN_STALE 1 s := by
  obtain ⟨l, hl, hold⟩ := h
  refine planOp_eq.trans (if_pos ?_)
  rw [hl]
  exact decide_eq_false (by omega)

section
variable (hfresh : ¬ PlanOlder b s)
include hfresh

theorem planOp_fresh :
    planOp b s =
      if changeWanted (planTaken b s) = false then applyTargets (planTaken b s)
      else if changesHeld (planTaken b s) then
        if bit (getR (planTaken b s) Pg.pwr R.PWR_STATUS) 30 then planTaken b s
        else namedAlarm Pg.pwr 5 (setF Pg.pwr R.PWR_STATUS 30 1 1 (planTaken b s))
      else applyTargets (planTaken b s) := by
  refine planOp_eq.trans (if_neg fun hok => ?_)
  split at hok
  next => cases hok
  next l hl => exact hfresh ⟨l, hl, by simpa using hok⟩

theorem planOp_applied (h : changeWanted (planTaken b s) = false ∨ changesHeld (planTaken b s) = false) :
    planOp b s = applyTargets (planTaken b s) := by
  by_cases hw : changeWanted (planTaken b s) = false
  · exact (planOp_fresh hfresh).trans (if_pos hw)
  · exact (planOp_fresh hfresh).trans ((if_neg hw).trans (if_neg (ne_true_of_eq_false (h.resolve_left hw))))

variable (hwant : changeWanted (planTaken b s) = true) (hheld : changesHeld (planTaken b s) = true)
include hwant hheld

theorem planOp_held :
    planOp b s = if bit (getR (planTaken b s) Pg.pwr R.PWR_STATUS) 30 then planTaken b s
      else namedAlarm Pg.pwr 5 (setF Pg.pwr R.PWR_STATUS 30 1 1 (planTaken b s)) :=
  (planOp_fresh hfresh).trans ((if_neg (by simp [hwant])).trans (if_pos hheld))

end

end

/-! ### Slews and held changes (R767, R779) -/

theorem slewDoneOp_none {h : Bool} (hslew : slewOf s h = none) : slewDoneOp h s = s := by rw [slewDoneOp, hslew]

theorem slewDoneOp_south {v : Nat} (hslew : s.pwr.slewS = some v) :
    slewDoneOp true s = clockGo { setF Pg.pwr R.PWR_CCLK 16 12 v s with pwr := { s.pwr with slewS := none } } := by
  have hof : slewOf s true = some v := hslew
  rw [slewDoneOp, hof]
  rfl

theorem slewDoneOp_north {v : Nat} (hslew : s.pwr.slewN = some v) :
    slewDoneOp false s = clockGo { setF Pg.pwr R.PWR_CCLK 0 12 v s with pwr := { s.pwr with slewN := none } } := by
  have hof : slewOf s false = some v := hslew
  rw [slewDoneOp, hof]
  rfl

theorem heldApplyOp_applies (hwaits : bit (getR s Pg.pwr R.PWR_STATUS) 30 = true) (hfree : changesHeld s = false) : heldApplyOp s = applyTargets s :=
  if_pos ⟨hwaits, by simp [hfree]⟩

theorem heldApplyOp_waits (h : bit (getR s Pg.pwr R.PWR_STATUS) 30 = false ∨ changesHeld s = true) : heldApplyOp s = s :=
  if_neg fun ⟨hwaits, hfree⟩ => by rcases h with h | h <;> simp [h] at hwaits hfree

/-! ### The governor (R771, R772) -/

section
variable {mean : Nat}

/-- The power of a governor interval is written. -/
def powerNoted (mean : Nat) (s : State) : State := setR Pg.pwr R.PWR_POWER (BitVec.ofNat 32 mean) s

section
variable (hover : 16 * powerLimit (powerNoted mean s) < mean) (hduty : capDuty (powerNoted mean s) = 15)
include hover hduty

theorem governorOp_counts (h : s.pwr.overL < 9 ∨ s.pwr.limitSent = true) :
    governorOp mean s = { powerNoted mean s with pwr := { s.pwr with overL := s.pwr.overL + 1 } } :=
  (if_pos ⟨hover, hduty⟩).trans (if_neg fun ⟨hten, hunsent⟩ => by
    rcases h with h | h
    · exact absurd hten (Nat.not_le.2 (Nat.succ_lt_succ h))
    · exact absurd hunsent (by simp [h]))

theorem governorOp_alarms (hnine : 9 ≤ s.pwr.overL) (hunsent : s.pwr.limitSent = false) :
    governorOp mean s = namedAlarm Pg.pwr 4 { powerNoted mean s with pwr := { s.pwr with overL := s.pwr.overL + 1, limitSent := true } } :=
  (if_pos ⟨hover, hduty⟩).trans (if_pos ⟨Nat.succ_le_succ hnine, by simp [hunsent]⟩)

end

/-- The count of intervals above the limit begins again. -/
def overEnded (s : State) : State := { s with pwr := { s.pwr with overL := 0, limitSent := false } }

section
variable (hunder : mean ≤ 16 * powerLimit (powerNoted mean s) ∨ capDuty (powerNoted mean s) ≠ 15)
include hunder

theorem governorOp_under :
    governorOp mean s =
      if mean * 100 < 95 * 16 * powerLimit (powerNoted mean s) then
        setDuties (capDuty (powerNoted mean s) - 1) (thermDuty (overEnded (powerNoted mean s))) (overEnded (powerNoted mean s))
      else overEnded (powerNoted mean s) :=
  if_neg fun ⟨hover, hduty⟩ => hunder.elim (fun h => absurd hover (Nat.not_lt.2 h)) (fun h => h hduty)

end

end

/-! ### Samples of the rails (R763, R768, R772) -/

/-- Only bit 31 of PWR_STATUS bears on the power limit. -/
theorem powerLimit_setF_status {lo len v : Nat} (h : Sound F s) (hlo : lo + len ≤ 31) :
    powerLimit (setF Pg.pwr R.PWR_STATUS lo len v s) = powerLimit s := by
  have hbit : bit (getR (setF Pg.pwr R.PWR_STATUS lo len v s) Pg.pwr R.PWR_STATUS) 31 = bit (getR s Pg.pwr R.PWR_STATUS) 31 := by
    rw [setF, getR_setR_same h, bit_setFld _ _ _ _ (by omega), if_neg (by omega)]
  have hhi : getR (setF Pg.pwr R.PWR_STATUS lo len v s) Pg.pwr R.PWR_PLAN_HI = getR s Pg.pwr R.PWR_PLAN_HI := getR_setR_offset (by decide)
  have hcap : getF (setF Pg.pwr R.PWR_STATUS lo len v s) Pg.pwr R.PWR_CAP 0 10 = getF s Pg.pwr R.PWR_CAP 0 10 := getF_setR_offset (by decide)
  simp only [powerLimit, hbit, hhi, hcap]
  rfl

/-- A sample of no rail: none is bad, the clocks that the curve allows stand. -/
def railsNoted (s : State) : State :=
  setF Pg.pwr R.PWR_STATUS 29 1 (b2n (decide (s.pwr.vfN < halfMhz s false) || decide (s.pwr.vfS < halfMhz s true)))
    { s with pwr := { s.pwr with railsBad := [] } }

theorem powerSampleOp_within {p16 : Nat} (h : Sound F s) (hr : s.inReset = false) (hp : p16 ≤ 16 * powerLimit s) : powerSampleOp [] p16 s = railsNoted s := by
  have hlimit : powerLimit (railsNoted s) = powerLimit s := powerLimit_setF_status (s := { s with pwr := { s.pwr with railsBad := [] } }) h.frame (by decide)
  have hbad {q : Nat → Prop} [DecidablePred q] : (List.range 7).filter (fun k => decide (k < 0 ∧ q k)) = [] := by simp
  have hover : ¬ 16 * powerLimit (railsNoted s) < p16 := by omega
  refine (if_neg (ne_true_of_eq_false hr)).trans ?_
  simp only [Bool.false_eq_true, if_false, List.take_nil, List.zipIdx_nil, foldS, List.length_nil, hbad, List.any_nil, if_true,
    Nat.zero_lt_two]
  exact if_neg hover

/-! ### Samples of the sensors (R781, R782) -/

theorem thermalOp_empty : thermalOp [] s = s := if_pos (.inr rfl)

section
variable {x : BitVec 16}

/-- The readings of a sample of one sensor are written. -/
def tempNoted (x : BitVec 16) (s : State) : State :=
  setR Pg.pwr R.PWR_TEMP_MAX (BitVec.ofNat 32 x.toNat) (setF Pg.pwr R.PWR_TEMP0 0 16 x.toNat s)

/-- HOT, in sixteenths of a degree. -/
def hotLimit (s : State) : Int := 16 * (getF s Pg.pwr R.PWR_THERM 0 7 : Nat)

def aboveHot (on : Nat) (s : State) : State := setF Pg.pwr R.PWR_STATUS 28 1 on s

/-- One step of thermal duty is added. -/
def dutyRaised (s : State) : State := noteSlow (setDuties (capDuty s) (Nat.min 15 (thermDuty s + 1)) s)

/-- One step of thermal duty is taken off, and the alarm can be raised again. -/
def dutyLowered (s : State) : State := setDuties (capDuty s) (thermDuty s - 1) { s with pwr := { s.pwr with hotArmed := true } }

/-- No sensor is at 115 °C. -/
def sensorsFine (s : State) : State := { s with pwr := { s.pwr with sensorsBad := [] } }

def hotAlarm (s : State) : State := if s.pwr.hotArmed then namedAlarm Pg.pwr 1 { s with pwr := { s.pwr with hotArmed := false } } else s

theorem thermalOp_one (hr : s.inReset = false) (hcool : x.toInt < 1840) :
    thermalOp [x] s = sensorsFine
      (if hotLimit (tempNoted x s) < x.toInt then hotAlarm (dutyRaised (aboveHot (b2n (decide (hotLimit (tempNoted x s) < x.toInt))) (tempNoted x s)))
      else if x.toInt ≤ hotLimit (tempNoted x s) - 48 then dutyLowered (aboveHot (b2n (decide (hotLimit (tempNoted x s) < x.toInt))) (tempNoted x s))
      else aboveHot (b2n (decide (hotLimit (tempNoted x s) < x.toInt))) (tempNoted x s)) := by
  have hhot : hottest [x] = (x.toInt, 0) := by simp [hottest]
  have hword : BitVec.ofNat 32 (0 * 65536 + (BitVec.ofInt 16 x.toInt).toNat) = BitVec.ofNat 32 x.toNat := by simp
  have hbad : (([x] : List (BitVec 16)).zipIdx.filter (fun e => decide (1840 ≤ e.1.toInt))).map (·.2) = [] := by simp [hcool]
  have htake : ([x] : List (BitVec 16)).take 64 = [x] := rfl
  have hread : foldS (fun (e : BitVec 16 × Nat) => setF Pg.pwr (R.PWR_TEMP0 + 4 * (e.2 / 2)) (16 * (e.2 % 2)) 16 e.1.toNat) [x].zipIdx s =
      setF Pg.pwr R.PWR_TEMP0 0 16 x.toNat s := by simp [foldS]
  have hnoted : setR Pg.pwr R.PWR_TEMP_MAX (BitVec.ofNat 32 x.toNat) (setF Pg.pwr R.PWR_TEMP0 0 16 x.toNat s) = tempNoted x s := rfl
  refine (if_neg (by simp [hr])).trans ?_
  simp only [htake, hhot, hword, hbad, hread, hnoted, List.any_nil, Bool.false_eq_true, false_and, if_false]
  generalize tempNoted x s = m
  rfl

section
variable (hr : s.inReset = false) (hcool : x.toInt < 1840)
include hr hcool

theorem thermalOp_calm (hhot : x.toInt ≤ hotLimit (tempNoted x s)) (hnear : hotLimit (tempNoted x s) - 48 < x.toInt) :
    thermalOp [x] s = sensorsFine (aboveHot 0 (tempNoted x s)) := by
  rw [thermalOp_one hr hcool, if_neg (by omega), if_neg (by omega), decide_eq_false (by omega)]
  rfl

theorem thermalOp_cools (hfar : x.toInt ≤ hotLimit (tempNoted x s) - 48) :
    thermalOp [x] s = sensorsFine (dutyLowered (aboveHot 0 (tempNoted x s))) := by
  rw [thermalOp_one hr hcool, if_neg (by omega), if_pos hfar, decide_eq_false (by omega)]
  rfl

theorem thermalOp_hot (hhot : hotLimit (tempNoted x s) < x.toInt) :
    thermalOp [x] s = sensorsFine (hotAlarm (dutyRaised (aboveHot 1 (tempNoted x s)))) := by
  rw [thermalOp_one hr hcool, if_pos hhot, decide_eq_true hhot]
  rfl

end

theorem hotAlarm_sent (h : s.pwr.hotArmed = false) : hotAlarm s = s := if_neg (ne_true_of_eq_false h)

theorem hotAlarm_armed (h : s.pwr.hotArmed = true) :
    hotAlarm s = namedAlarm Pg.pwr 1 { s with pwr := { s.pwr with hotArmed := false } } := if_pos h

end

/-! ### Telemetry (R785) -/

theorem telemOp_off {room : Bool} (h : (runs s Pg.pwr && bit (getR s Pg.pwr R.PWR_TELEM) 31) = false) : telemOp room s = s :=
  if_neg fun ⟨hrun, hen⟩ => by simp [hrun, hen] at h

/-- No room for a record, in a period that has neither a THERMAL nor an EYE record. -/
theorem telemOp_skips (hrun : runs s Pg.pwr = true) (hen : bit (getR s Pg.pwr R.PWR_TELEM) 31 = true) (hversion : groupVersion s G.io ≠ 2)
    (hperiod : (s.pwr.periods + 1) % 16 ≠ 0) :
    telemOp false s = { satR Pg.pwr R.PWR_TELEM_SKIPS 1 s with pwr := { s.pwr with periods := s.pwr.periods + 1 } } := by
  have hgroup : groupVersion { satR Pg.pwr R.PWR_TELEM_SKIPS 1 s with pwr := { s.pwr with periods := s.pwr.periods + 1 } } G.io ≠ 2 := by
    show groupVersion (satR Pg.pwr R.PWR_TELEM_SKIPS 1 s) G.io ≠ 2
    rwa [groupVersion, satR, getF_setR_offset (by decide)]
  have hpwr : (satR Pg.pwr R.PWR_TELEM_SKIPS 1 s).pwr = s.pwr := rfl
  refine (if_pos ⟨hrun, hen⟩).trans ?_
  simp only [telemSend, Bool.false_eq_true, if_false, hpwr, if_neg hperiod, if_neg hgroup]

/-! ### The obligation -/

/-- Settles O44. That a field of 0 in a plan leaves a half's slew target standing, and that each DROOP row is one event, are the model's readings
(log entries 112 and 114). -/
theorem powerPlansGovernorAndTelemetry : Obligations.PowerPlansGovernorAndTelemetry := by
  constructor
  · intro s b h hr w serial older mhz t
    have plan {u} (hu : planOp b s = u) : Gives (.plan b) s u := act_gives hr hu
    have held {u} (hu : heldApplyOp s = u) : Gives .heldChangeApply s u := act_gives hr hu
    exact ⟨fun hold => plan (planOp_stale hold), fun hfresh => ⟨fun hfree => plan (planOp_applied hfresh hfree), fun hwant hheld =>
        ⟨fun hone => plan ((planOp_held hfresh hwant hheld).trans (if_pos hone)),
          fun hnone => plan ((planOp_held hfresh hwant hheld).trans (if_neg (ne_true_of_eq_false hnone)))⟩⟩,
      fun hslew => act_gives hr (slewDoneOp_none hslew), fun v hslew => act_gives hr (slewDoneOp_south hslew),
      fun v hslew => act_gives hr (slewDoneOp_north hslew), fun hone hfree => held (heldApplyOp_applies hone hfree),
      fun h => held (heldApplyOp_waits h)⟩
  · intro F s p16 mean room h hr t l w
    have govern {u} (hu : governorOp mean s = u) : Gives (.governorInterval mean) s u := act_gives hr hu
    have thermal {x u} (hu : thermalOp [x] s = u) : Gives (.thermalSample [x]) s u := act_gives hr hu
    refine ⟨fun hover hduty => ⟨fun hfew => govern (governorOp_counts hover hduty hfew),
        fun hnine hunsent => govern (governorOp_alarms hover hduty hnine hunsent)⟩,
      fun hunder => ⟨fun hnear => govern ((governorOp_under hunder).trans (if_neg (Nat.not_lt.2 hnear))),
        fun hlow => govern ((governorOp_under hunder).trans (if_pos hlow))⟩,
      fun hp => ⟨_, act_gives hr (powerSampleOp_within h hr hp), rfl, rfl, rfl⟩, act_gives hr thermalOp_empty, fun x hcool => ?_,
      act_gives hr rfl, act_gives hr rfl, act_gives hr rfl, act_gives hr rfl, fun hoff => act_gives hr (telemOp_off hoff),
      fun hrun hen hversion hperiod => ⟨_, act_gives hr (telemOp_skips hrun hen hversion hperiod), rfl, rfl, rfl, rfl⟩, act_gives hr rfl⟩
    exact ⟨fun hnear hhot => thermal (thermalOp_calm hr hcool hhot hnear), fun hfar => thermal (thermalOp_cools hr hcool hfar),
      fun hhot hsent => thermal ((thermalOp_hot hr hcool hhot).trans (congrArg sensorsFine (hotAlarm_sent hsent))),
      fun hhot harmed => thermal ((thermalOp_hot hr hcool hhot).trans (congrArg sensorsFine (hotAlarm_armed harmed)))⟩

end Sys2Proof.Machine
